-- ==== Sys2Proof/Word.lean ====
section
/-! DEFINITION. The words of the machine: bytes, 64-bit registers, and the names of the three streams (R2, R9, R45). -/

namespace Sys2Proof

/-- One byte (R2). -/
abbrev Byte := BitVec 8

/-- One 64-bit register, CSR or generic address (R45, R46, R63, R70). -/
abbrev Word := BitVec 64

/-- The three instruction streams of a shard (R9). -/
inductive Strm where
  /-- The C-stream, run by the control engine. -/
  | c
  /-- The A-stream, run by the access engine. -/
  | a
  /-- The V-stream, run by the vector engine. -/
  | v
deriving DecidableEq, Repr

end Sys2Proof
end

