-- ==== Sys2Proof/Syntax.lean ====
section
/-! DEFINITION. The instruction set: one constructor per row of spec/opcode_table.json. The first 255 constructors are the 48-bit words of R126 (each argument is a field of the word, at its width); the last 97 are the device's own steps, which no word encodes (spec/95_what_each_step_holds.md: "the part's steps, each whole and indivisible"). A step of the device finds the parameters that say where it happens in State.args, and BRK finds its 16-bit immediate in the instruction register of its core, Core.ir: Lean's runtime gives at most 244 constructors of a type fields of their own (notes/assumptions/6.md). -/

namespace Sys2Proof

/-- An instruction word or a step of the device. -/
inductive Instr where
  /-- ADD, opcode 0x00 -/
  | add (rd : BitVec 6) (ra : BitVec 6) (rb : BitVec 6)
  /-- SUB, opcode 0x00 -/
  | sub (rd : BitVec 6) (ra : BitVec 6) (rb : BitVec 6)
  /-- AND, opcode 0x00 -/
  | and (rd : BitVec 6) (ra : BitVec 6) (rb : BitVec 6)
  /-- OR, opcode 0x00 -/
  | or (rd : BitVec 6) (ra : BitVec 6) (rb : BitVec 6)
  /-- XOR, opcode 0x00 -/
  | xor (rd : BitVec 6) (ra : BitVec 6) (rb : BitVec 6)
  /-- ANDN, opcode 0x00 -/
  | andn (rd : BitVec 6) (ra : BitVec 6) (rb : BitVec 6)
  /-- SHL, opcode 0x00 -/
  | shl (rd : BitVec 6) (ra : BitVec 6) (rb : BitVec 6)
  /-- SHR, opcode 0x00 -/
  | shr (rd : BitVec 6) (ra : BitVec 6) (rb : BitVec 6)
  /-- SRA, opcode 0x00 -/
  | sra (rd : BitVec 6) (ra : BitVec 6) (rb : BitVec 6)
  /-- ROL, opcode 0x00 -/
  | rol (rd : BitVec 6) (ra : BitVec 6) (rb : BitVec 6)
  /-- ROR, opcode 0x00 -/
  | ror (rd : BitVec 6) (ra : BitVec 6) (rb : BitVec 6)
  /-- MIN, opcode 0x00 -/
  | min (rd : BitVec 6) (ra : BitVec 6) (rb : BitVec 6)
  /-- MAX, opcode 0x00 -/
  | max (rd : BitVec 6) (ra : BitVec 6) (rb : BitVec 6)
  /-- MINU, opcode 0x00 -/
  | minu (rd : BitVec 6) (ra : BitVec 6) (rb : BitVec 6)
  /-- MAXU, opcode 0x00 -/
  | maxu (rd : BitVec 6) (ra : BitVec 6) (rb : BitVec 6)
  /-- SEQ, opcode 0x00 -/
  | seq (rd : BitVec 6) (ra : BitVec 6) (rb : BitVec 6)
  /-- SNE, opcode 0x00 -/
  | sne (rd : BitVec 6) (ra : BitVec 6) (rb : BitVec 6)
  /-- SLT, opcode 0x00 -/
  | slt (rd : BitVec 6) (ra : BitVec 6) (rb : BitVec 6)
  /-- SLTU, opcode 0x00 -/
  | sltu (rd : BitVec 6) (ra : BitVec 6) (rb : BitVec 6)
  /-- MUL, opcode 0x00 -/
  | mul (rd : BitVec 6) (ra : BitVec 6) (rb : BitVec 6)
  /-- MULH, opcode 0x00 -/
  | mulh (rd : BitVec 6) (ra : BitVec 6) (rb : BitVec 6)
  /-- MULHU, opcode 0x00 -/
  | mulhu (rd : BitVec 6) (ra : BitVec 6) (rb : BitVec 6)
  /-- DIV, opcode 0x00 -/
  | div (rd : BitVec 6) (ra : BitVec 6) (rb : BitVec 6)
  /-- DIVU, opcode 0x00 -/
  | divu (rd : BitVec 6) (ra : BitVec 6) (rb : BitVec 6)
  /-- REM, opcode 0x00 -/
  | rem (rd : BitVec 6) (ra : BitVec 6) (rb : BitVec 6)
  /-- REMU, opcode 0x00 -/
  | remu (rd : BitVec 6) (ra : BitVec 6) (rb : BitVec 6)
  /-- CLZ, opcode 0x00 -/
  | clz (rd : BitVec 6) (ra : BitVec 6)
  /-- CTZ, opcode 0x00 -/
  | ctz (rd : BitVec 6) (ra : BitVec 6)
  /-- POPC, opcode 0x00 -/
  | popc (rd : BitVec 6) (ra : BitVec 6)
  /-- SEXTB, opcode 0x00 -/
  | sextb (rd : BitVec 6) (ra : BitVec 6)
  /-- SEXTH, opcode 0x00 -/
  | sexth (rd : BitVec 6) (ra : BitVec 6)
  /-- SEXTW, opcode 0x00 -/
  | sextw (rd : BitVec 6) (ra : BitVec 6)
  /-- ZEXTW, opcode 0x00 -/
  | zextw (rd : BitVec 6) (ra : BitVec 6)
  /-- BSWAP, opcode 0x00 -/
  | bswap (rd : BitVec 6) (ra : BitVec 6)
  /-- ADDI, opcode 0x01 -/
  | addi (rd : BitVec 6) (ra : BitVec 6) (imm : BitVec 22)
  /-- ANDI, opcode 0x01 -/
  | andi (rd : BitVec 6) (ra : BitVec 6) (imm : BitVec 22)
  /-- ORI, opcode 0x01 -/
  | ori (rd : BitVec 6) (ra : BitVec 6) (imm : BitVec 22)
  /-- XORI, opcode 0x01 -/
  | xori (rd : BitVec 6) (ra : BitVec 6) (imm : BitVec 22)
  /-- SHLI, opcode 0x01 -/
  | shli (rd : BitVec 6) (ra : BitVec 6) (sh : BitVec 6)
  /-- SHRI, opcode 0x01 -/
  | shri (rd : BitVec 6) (ra : BitVec 6) (sh : BitVec 6)
  /-- SRAI, opcode 0x01 -/
  | srai (rd : BitVec 6) (ra : BitVec 6) (sh : BitVec 6)
  /-- SLTI, opcode 0x01 -/
  | slti (rd : BitVec 6) (ra : BitVec 6) (imm : BitVec 22)
  /-- SLTUI, opcode 0x01 -/
  | sltui (rd : BitVec 6) (ra : BitVec 6) (imm : BitVec 22)
  /-- MULI, opcode 0x01 -/
  | muli (rd : BitVec 6) (ra : BitVec 6) (imm : BitVec 22)
  /-- LI, opcode 0x02 -/
  | li (rd : BitVec 6) (imm : BitVec 32)
  /-- LI_U, opcode 0x02 -/
  | liU (rd : BitVec 6) (imm : BitVec 32)
  /-- LIH, opcode 0x03 -/
  | lih (rd : BitVec 6) (imm : BitVec 32)
  /-- SEL, opcode 0x04 -/
  | sel (rd : BitVec 6) (ra : BitVec 6) (rb : BitVec 6)
  /-- BEQ, opcode 0x08 -/
  | beq (ra : BitVec 6) (rb : BitVec 6) (off : BitVec 24)
  /-- BNE, opcode 0x08 -/
  | bne (ra : BitVec 6) (rb : BitVec 6) (off : BitVec 24)
  /-- BLT, opcode 0x08 -/
  | blt (ra : BitVec 6) (rb : BitVec 6) (off : BitVec 24)
  /-- BGE, opcode 0x08 -/
  | bge (ra : BitVec 6) (rb : BitVec 6) (off : BitVec 24)
  /-- BLTU, opcode 0x08 -/
  | bltu (ra : BitVec 6) (rb : BitVec 6) (off : BitVec 24)
  /-- BGEU, opcode 0x08 -/
  | bgeu (ra : BitVec 6) (rb : BitVec 6) (off : BitVec 24)
  /-- BZ, opcode 0x09 -/
  | bz (ra : BitVec 6) (off : BitVec 24)
  /-- BNZ, opcode 0x09 -/
  | bnz (ra : BitVec 6) (off : BitVec 24)
  /-- J, opcode 0x0A -/
  | j (off : BitVec 32)
  /-- JR, opcode 0x0C -/
  | jr (ra : BitVec 6)
  /-- CALL, opcode 0x0B -/
  | call (off : BitVec 32)
  /-- CALLR, opcode 0x0D -/
  | callr (ra : BitVec 6)
  /-- SPEC, opcode 0x10 -/
  | spec (ra : BitVec 6) (off : BitVec 24)
  /-- RNDX, opcode 0x13 -/
  | rndx (rd : BitVec 6) (ra : BitVec 6) (rb : BitVec 6) (site : BitVec 2)
  /-- CSRR, opcode 0x14 -/
  | csrr (rd : BitVec 6) (csr : BitVec 12)
  /-- CSRW, opcode 0x15 -/
  | csrw (rd : BitVec 6) (ra : BitVec 6) (csr : BitVec 12)
  /-- CSRS, opcode 0x16 -/
  | csrs (rd : BitVec 6) (ra : BitVec 6) (csr : BitVec 12)
  /-- CSRC, opcode 0x17 -/
  | csrc (rd : BitVec 6) (ra : BitVec 6) (csr : BitVec 12)
  /-- LDB, opcode 0x18 -/
  | ldb (rd : BitVec 6) (ra : BitVec 6) (ord : BitVec 2) (scope : BitVec 2) (off : BitVec 21)
  /-- LDBU, opcode 0x18 -/
  | ldbu (rd : BitVec 6) (ra : BitVec 6) (ord : BitVec 2) (scope : BitVec 2) (off : BitVec 21)
  /-- LDH, opcode 0x18 -/
  | ldh (rd : BitVec 6) (ra : BitVec 6) (ord : BitVec 2) (scope : BitVec 2) (off : BitVec 21)
  /-- LDHU, opcode 0x18 -/
  | ldhu (rd : BitVec 6) (ra : BitVec 6) (ord : BitVec 2) (scope : BitVec 2) (off : BitVec 21)
  /-- LDW, opcode 0x18 -/
  | ldw (rd : BitVec 6) (ra : BitVec 6) (ord : BitVec 2) (scope : BitVec 2) (off : BitVec 21)
  /-- LDWU, opcode 0x18 -/
  | ldwu (rd : BitVec 6) (ra : BitVec 6) (ord : BitVec 2) (scope : BitVec 2) (off : BitVec 21)
  /-- LDD, opcode 0x18 -/
  | ldd (rd : BitVec 6) (ra : BitVec 6) (ord : BitVec 2) (scope : BitVec 2) (off : BitVec 21)
  /-- STB, opcode 0x19 -/
  | stb (rd : BitVec 6) (ra : BitVec 6) (ord : BitVec 2) (scope : BitVec 2) (off : BitVec 22)
  /-- STH, opcode 0x19 -/
  | sth (rd : BitVec 6) (ra : BitVec 6) (ord : BitVec 2) (scope : BitVec 2) (off : BitVec 22)
  /-- STW, opcode 0x19 -/
  | stw (rd : BitVec 6) (ra : BitVec 6) (ord : BitVec 2) (scope : BitVec 2) (off : BitVec 22)
  /-- STD, opcode 0x19 -/
  | std (rd : BitVec 6) (ra : BitVec 6) (ord : BitVec 2) (scope : BitVec 2) (off : BitVec 22)
  /-- AMADD, opcode 0x1A -/
  | amadd (rd : BitVec 6) (ra : BitVec 6) (rb : BitVec 6) (ord : BitVec 2) (scope : BitVec 2) (dw : Bool)
  /-- AMAND, opcode 0x1A -/
  | amand (rd : BitVec 6) (ra : BitVec 6) (rb : BitVec 6) (ord : BitVec 2) (scope : BitVec 2) (dw : Bool)
  /-- AMOR, opcode 0x1A -/
  | amor (rd : BitVec 6) (ra : BitVec 6) (rb : BitVec 6) (ord : BitVec 2) (scope : BitVec 2) (dw : Bool)
  /-- AMXOR, opcode 0x1A -/
  | amxor (rd : BitVec 6) (ra : BitVec 6) (rb : BitVec 6) (ord : BitVec 2) (scope : BitVec 2) (dw : Bool)
  /-- AMMIN, opcode 0x1A -/
  | ammin (rd : BitVec 6) (ra : BitVec 6) (rb : BitVec 6) (ord : BitVec 2) (scope : BitVec 2) (dw : Bool)
  /-- AMMAX, opcode 0x1A -/
  | ammax (rd : BitVec 6) (ra : BitVec 6) (rb : BitVec 6) (ord : BitVec 2) (scope : BitVec 2) (dw : Bool)
  /-- AMMINU, opcode 0x1A -/
  | amminu (rd : BitVec 6) (ra : BitVec 6) (rb : BitVec 6) (ord : BitVec 2) (scope : BitVec 2) (dw : Bool)
  /-- AMMAXU, opcode 0x1A -/
  | ammaxu (rd : BitVec 6) (ra : BitVec 6) (rb : BitVec 6) (ord : BitVec 2) (scope : BitVec 2) (dw : Bool)
  /-- AMSWAP, opcode 0x1A -/
  | amswap (rd : BitVec 6) (ra : BitVec 6) (rb : BitVec 6) (ord : BitVec 2) (scope : BitVec 2) (dw : Bool)
  /-- CAS, opcode 0x1B -/
  | cas (rd : BitVec 6) (ra : BitVec 6) (rb : BitVec 6) (ord : BitVec 2) (scope : BitVec 2) (dw : Bool)
  /-- FENCE, opcode 0x1C -/
  | fence (ord : BitVec 2) (scope : BitVec 2)
  /-- PUBLISH, opcode 0x1D -/
  | publish (rd : BitVec 6) (ra : BitVec 6)
  /-- CVTA_TO, opcode 0x1E -/
  | cvtaTo (rd : BitVec 6) (ra : BitVec 6) (ap : BitVec 2)
  /-- CVTA_FROM, opcode 0x1E -/
  | cvtaFrom (rd : BitVec 6) (ra : BitVec 6) (ap : BitVec 2)
  /-- APTEST, opcode 0x1F -/
  | aptest (rd : BitVec 6) (ra : BitVec 6) (ap : BitVec 2)
  /-- SETVIEW, opcode 0x20 -/
  | setview (rd : BitVec 6) (ra : BitVec 6) (mask : BitVec 3)
  /-- SETA, opcode 0x21 -/
  | seta (ad : BitVec 5) (ra : BitVec 6)
  /-- POPV, opcode 0x22 -/
  | popv (rd : BitVec 6) (q : BitVec 4)
  /-- PUSHV, opcode 0x23 -/
  | pushv (ra : BitVec 6) (rb : BitVec 6) (q : BitVec 4)
  /-- BARINIT, opcode 0x24 -/
  | barinit (rd : BitVec 6) (ra : BitVec 6) (remote : Bool) (expect : BitVec 12) (bar : BitVec 9)
  /-- BARARV, opcode 0x25 -/
  | bararv (rd : BitVec 6) (ra : BitVec 6) (remote : Bool) (bar : BitVec 9)
  /-- BARWAIT, opcode 0x26 -/
  | barwait (rd : BitVec 6) (ra : BitVec 6) (remote : Bool) (bar : BitVec 9)
  /-- BARARW, opcode 0x27 -/
  | bararw (rd : BitVec 6) (ra : BitVec 6) (remote : Bool) (bar : BitVec 9)
  /-- TBINIT, opcode 0x28 -/
  | tbinit (rd : BitVec 6) (ra : BitVec 6) (off : BitVec 22)
  /-- TBEXP, opcode 0x29 -/
  | tbexp (rd : BitVec 6) (ra : BitVec 6) (off : BitVec 22)
  /-- TBARV, opcode 0x2A -/
  | tbarv (rd : BitVec 6) (ra : BitVec 6) (off : BitVec 22)
  /-- TBWAIT, opcode 0x2B -/
  | tbwait (rd : BitVec 6) (ra : BitVec 6) (off : BitVec 22)
  /-- SPAWN, opcode 0x2C -/
  | spawn (ra : BitVec 6)
  /-- SPAWN_NB, opcode 0x2C -/
  | spawnNb (rd : BitVec 6) (ra : BitVec 6)
  /-- ENQR, opcode 0x2D -/
  | enqr (ra : BitVec 6) (rb : BitVec 6)
  /-- INBOX, opcode 0x36 -/
  | inbox (rd : BitVec 6) (ra : BitVec 6)
  /-- INBOX_NB, opcode 0x36 -/
  | inboxNb (rd : BitVec 6) (ra : BitVec 6)
  /-- YIELD, opcode 0x2F -/
  | yield (rd : BitVec 6)
  /-- WFE, opcode 0x33 -/
  | wfe (rd : BitVec 6) (ra : BitVec 6)
  /-- TRAP, opcode 0x30 -/
  | trap (imm : BitVec 16)
  /-- LEASE_NB, opcode 0x34 -/
  | leaseNb (rd : BitVec 6)
  /-- ALD, opcode 0x40 -/
  | ald (dstq : BitVec 4) (aa : BitVec 5) (step : BitVec 16) (rpt : BitVec 7) (size : BitVec 2) (pop : BitVec 3) (push : BitVec 3)
  /-- AST, opcode 0x41 -/
  | ast (dstq : BitVec 4) (aa : BitVec 5) (step : BitVec 16) (rpt : BitVec 7) (size : BitVec 2) (pop : BitVec 3) (push : BitVec 3)
  /-- ARLD, opcode 0x45 -/
  | arld (dstq : BitVec 4) (aa : BitVec 5) (step : BitVec 16) (rpt : BitVec 7) (size : BitVec 2) (pop : BitVec 3) (push : BitVec 3)
  /-- ARST, opcode 0x46 -/
  | arst (dstq : BitVec 4) (aa : BitVec 5) (step : BitVec 16) (rpt : BitVec 7) (size : BitVec 2) (pop : BitVec 3) (push : BitVec 3)
  /-- AGTH, opcode 0x42 -/
  | agth (dstq : BitVec 4) (aa : BitVec 5) (src : Bool) (idx : BitVec 5) (it : BitVec 2) (shift : BitVec 4) (rpt : BitVec 7) (size : BitVec 2) (pop : BitVec 3) (push : BitVec 3)
  /-- ASCT, opcode 0x43 -/
  | asct (dstq : BitVec 4) (aa : BitVec 5) (src : Bool) (idx : BitVec 5) (it : BitVec 2) (shift : BitVec 4) (rpt : BitVec 7) (size : BitVec 2) (pop : BitVec 3) (push : BitVec 3)
  /-- APART, opcode 0x44 -/
  | apart (c : BitVec 4) (aa : BitVec 5) (keyq : BitVec 4) (kt : BitVec 2) (rpt : BitVec 7) (size : BitVec 2) (pop : BitVec 3) (push : BitVec 3)
  /-- AADD, opcode 0x47 -/
  | aadd (ad : BitVec 5) (aa : BitVec 5) (ab : BitVec 5)
  /-- ASUB, opcode 0x47 -/
  | asub (ad : BitVec 5) (aa : BitVec 5) (ab : BitVec 5)
  /-- AAND, opcode 0x47 -/
  | aand (ad : BitVec 5) (aa : BitVec 5) (ab : BitVec 5)
  /-- AOR, opcode 0x47 -/
  | aor (ad : BitVec 5) (aa : BitVec 5) (ab : BitVec 5)
  /-- AXOR, opcode 0x47 -/
  | axor (ad : BitVec 5) (aa : BitVec 5) (ab : BitVec 5)
  /-- ASHL, opcode 0x47 -/
  | ashl (ad : BitVec 5) (aa : BitVec 5) (ab : BitVec 5)
  /-- ASHR, opcode 0x47 -/
  | ashr (ad : BitVec 5) (aa : BitVec 5) (ab : BitVec 5)
  /-- AMUL, opcode 0x47 -/
  | amul (ad : BitVec 5) (aa : BitVec 5) (ab : BitVec 5)
  /-- AMAX, opcode 0x47 -/
  | amax (ad : BitVec 5) (aa : BitVec 5) (ab : BitVec 5)
  /-- AADDI, opcode 0x48 -/
  | aaddi (ad : BitVec 5) (aa : BitVec 5) (imm : BitVec 19)
  /-- ALI, opcode 0x49 -/
  | ali (ad : BitVec 5) (imm : BitVec 19)
  /-- AFLUSH, opcode 0x4A -/
  | aflush (q : BitVec 4)
  /-- AMCAST, opcode 0x4B -/
  | amcast (q : BitVec 4) (aa : BitVec 5) (ab : BitVec 5) (grp : BitVec 3) (imm : BitVec 19)
  /-- VMODE, opcode 0x60 -/
  | vmode (typ : BitVec 4) (wt : Bool) (wm : Bool) (ftz : Bool) (rnd : BitVec 3)
  /-- VMOVI, opcode 0x7C -/
  | vmovi (d : BitVec 12) (a : BitVec 12) (imm : BitVec 16)
  /-- VADD, opcode 0x61 -/
  | vadd (d : BitVec 12) (a : BitVec 12) (b : BitVec 12) (m : Bool) (x : BitVec 3)
  /-- VSUB, opcode 0x62 -/
  | vsub (d : BitVec 12) (a : BitVec 12) (b : BitVec 12) (m : Bool) (x : BitVec 3)
  /-- VMUL, opcode 0x63 -/
  | vmul (d : BitVec 12) (a : BitVec 12) (b : BitVec 12) (m : Bool) (x : BitVec 3)
  /-- VMULH, opcode 0x64 -/
  | vmulh (d : BitVec 12) (a : BitVec 12) (b : BitVec 12) (m : Bool) (x : BitVec 3)
  /-- VMAD, opcode 0x65 -/
  | vmad (d : BitVec 12) (a : BitVec 12) (b : BitVec 12) (m : Bool) (x : BitVec 3)
  /-- VAND, opcode 0x66 -/
  | vand (d : BitVec 12) (a : BitVec 12) (b : BitVec 12) (m : Bool) (x : BitVec 3)
  /-- VOR, opcode 0x67 -/
  | vor (d : BitVec 12) (a : BitVec 12) (b : BitVec 12) (m : Bool) (x : BitVec 3)
  /-- VXOR, opcode 0x68 -/
  | vxor (d : BitVec 12) (a : BitVec 12) (b : BitVec 12) (m : Bool) (x : BitVec 3)
  /-- VANDN, opcode 0x69 -/
  | vandn (d : BitVec 12) (a : BitVec 12) (b : BitVec 12) (m : Bool) (x : BitVec 3)
  /-- VSHL, opcode 0x6A -/
  | vshl (d : BitVec 12) (a : BitVec 12) (b : BitVec 12) (m : Bool) (x : BitVec 3)
  /-- VSHR, opcode 0x6B -/
  | vshr (d : BitVec 12) (a : BitVec 12) (b : BitVec 12) (m : Bool) (x : BitVec 3)
  /-- VSRA, opcode 0x6C -/
  | vsra (d : BitVec 12) (a : BitVec 12) (b : BitVec 12) (m : Bool) (x : BitVec 3)
  /-- VMIN, opcode 0x6D -/
  | vmin (d : BitVec 12) (a : BitVec 12) (b : BitVec 12) (m : Bool) (x : BitVec 3)
  /-- VMAX, opcode 0x6E -/
  | vmax (d : BitVec 12) (a : BitVec 12) (b : BitVec 12) (m : Bool) (x : BitVec 3)
  /-- VADDS, opcode 0x71 -/
  | vadds (d : BitVec 12) (a : BitVec 12) (b : BitVec 12) (m : Bool) (x : BitVec 3)
  /-- VSUBS, opcode 0x72 -/
  | vsubs (d : BitVec 12) (a : BitVec 12) (b : BitVec 12) (m : Bool) (x : BitVec 3)
  /-- VCEQ, opcode 0x74 -/
  | vceq (d : BitVec 12) (a : BitVec 12) (b : BitVec 12) (m : Bool) (x : BitVec 3)
  /-- VCNE, opcode 0x75 -/
  | vcne (d : BitVec 12) (a : BitVec 12) (b : BitVec 12) (m : Bool) (x : BitVec 3)
  /-- VCLT, opcode 0x76 -/
  | vclt (d : BitVec 12) (a : BitVec 12) (b : BitVec 12) (m : Bool) (x : BitVec 3)
  /-- VCLE, opcode 0x77 -/
  | vcle (d : BitVec 12) (a : BitVec 12) (b : BitVec 12) (m : Bool) (x : BitVec 3)
  /-- VCLTU, opcode 0x78 -/
  | vcltu (d : BitVec 12) (a : BitVec 12) (b : BitVec 12) (m : Bool) (x : BitVec 3)
  /-- VCLEU, opcode 0x79 -/
  | vcleu (d : BitVec 12) (a : BitVec 12) (b : BitVec 12) (m : Bool) (x : BitVec 3)
  /-- VSEL, opcode 0x7A -/
  | vsel (d : BitVec 12) (a : BitVec 12) (b : BitVec 12) (m : Bool) (x : BitVec 3)
  /-- VPACK, opcode 0xA3 -/
  | vpack (d : BitVec 12) (a : BitVec 12) (b : BitVec 12) (m : Bool) (x : BitVec 3)
  /-- VFADD, opcode 0x80 -/
  | vfadd (d : BitVec 12) (a : BitVec 12) (b : BitVec 12) (m : Bool) (x : BitVec 3)
  /-- VFSUB, opcode 0x81 -/
  | vfsub (d : BitVec 12) (a : BitVec 12) (b : BitVec 12) (m : Bool) (x : BitVec 3)
  /-- VFMUL, opcode 0x82 -/
  | vfmul (d : BitVec 12) (a : BitVec 12) (b : BitVec 12) (m : Bool) (x : BitVec 3)
  /-- VFMA, opcode 0x83 -/
  | vfma (d : BitVec 12) (a : BitVec 12) (b : BitVec 12) (m : Bool) (x : BitVec 3)
  /-- VFMS, opcode 0x84 -/
  | vfms (d : BitVec 12) (a : BitVec 12) (b : BitVec 12) (m : Bool) (x : BitVec 3)
  /-- VFNMA, opcode 0x85 -/
  | vfnma (d : BitVec 12) (a : BitVec 12) (b : BitVec 12) (m : Bool) (x : BitVec 3)
  /-- VFMIN, opcode 0x86 -/
  | vfmin (d : BitVec 12) (a : BitVec 12) (b : BitVec 12) (m : Bool) (x : BitVec 3)
  /-- VFMAX, opcode 0x87 -/
  | vfmax (d : BitVec 12) (a : BitVec 12) (b : BitVec 12) (m : Bool) (x : BitVec 3)
  /-- VFSCL, opcode 0x92 -/
  | vfscl (d : BitVec 12) (a : BitVec 12) (b : BitVec 12) (m : Bool) (x : BitVec 3)
  /-- VFCEQ, opcode 0x8E -/
  | vfceq (d : BitVec 12) (a : BitVec 12) (b : BitVec 12) (m : Bool) (x : BitVec 3)
  /-- VFCLT, opcode 0x8F -/
  | vfclt (d : BitVec 12) (a : BitVec 12) (b : BitVec 12) (m : Bool) (x : BitVec 3)
  /-- VFCLE, opcode 0x90 -/
  | vfcle (d : BitVec 12) (a : BitVec 12) (b : BitVec 12) (m : Bool) (x : BitVec 3)
  /-- VCVTSR, opcode 0x94 -/
  | vcvtsr (d : BitVec 12) (a : BitVec 12) (b : BitVec 12) (m : Bool) (x : BitVec 3)
  /-- VPERM, opcode 0x9C -/
  | vperm (d : BitVec 12) (a : BitVec 12) (b : BitVec 12) (m : Bool) (x : BitVec 3)
  /-- VABS, opcode 0x6F -/
  | vabs (d : BitVec 12) (a : BitVec 12) (b : BitVec 12) (m : Bool) (x : BitVec 3)
  /-- VNEG, opcode 0x70 -/
  | vneg (d : BitVec 12) (a : BitVec 12) (b : BitVec 12) (m : Bool) (x : BitVec 3)
  /-- VCNT, opcode 0x73 -/
  | vcnt (d : BitVec 12) (a : BitVec 12) (b : BitVec 12) (m : Bool) (x : BitVec 3)
  /-- VMOV, opcode 0x7B -/
  | vmov (d : BitVec 12) (a : BitVec 12) (b : BitVec 12) (m : Bool) (x : BitVec 3)
  /-- VINV, opcode 0x7E -/
  | vinv (d : BitVec 12) (a : BitVec 12) (b : BitVec 12) (m : Bool) (x : BitVec 3)
  /-- VUNPK, opcode 0xA4 -/
  | vunpk (d : BitVec 12) (a : BitVec 12) (b : BitVec 12) (m : Bool) (x : BitVec 3)
  /-- VFABS, opcode 0x88 -/
  | vfabs (d : BitVec 12) (a : BitVec 12) (b : BitVec 12) (m : Bool) (x : BitVec 3)
  /-- VFNEG, opcode 0x89 -/
  | vfneg (d : BitVec 12) (a : BitVec 12) (b : BitVec 12) (m : Bool) (x : BitVec 3)
  /-- VRCPA, opcode 0x8A -/
  | vrcpa (d : BitVec 12) (a : BitVec 12) (b : BitVec 12) (m : Bool) (x : BitVec 3)
  /-- VRSQA, opcode 0x8B -/
  | vrsqa (d : BitVec 12) (a : BitVec 12) (b : BitVec 12) (m : Bool) (x : BitVec 3)
  /-- VEXP2A, opcode 0x8C -/
  | vexp2a (d : BitVec 12) (a : BitVec 12) (b : BitVec 12) (m : Bool) (x : BitVec 3)
  /-- VLOG2A, opcode 0x8D -/
  | vlog2a (d : BitVec 12) (a : BitVec 12) (b : BitVec 12) (m : Bool) (x : BitVec 3)
  /-- VFCLASS, opcode 0x91 -/
  | vfclass (d : BitVec 12) (a : BitVec 12) (b : BitVec 12) (m : Bool) (x : BitVec 3)
  /-- VQNT, opcode 0x95 -/
  | vqnt (d : BitVec 12) (a : BitVec 12) (b : BitVec 12) (m : Bool) (x : BitVec 3)
  /-- VDQNT, opcode 0x96 -/
  | vdqnt (d : BitVec 12) (a : BitVec 12) (b : BitVec 12) (m : Bool) (x : BitVec 3)
  /-- VMXQ, opcode 0x97 -/
  | vmxq (d : BitVec 12) (a : BitVec 12) (b : BitVec 12) (m : Bool) (x : BitVec 3)
  /-- VMXD, opcode 0x98 -/
  | vmxd (d : BitVec 12) (a : BitVec 12) (b : BitVec 12) (m : Bool) (x : BitVec 3)
  /-- VRSUM, opcode 0x99 -/
  | vrsum (d : BitVec 12) (a : BitVec 12) (b : BitVec 12) (m : Bool) (x : BitVec 3)
  /-- VRMAX, opcode 0x9A -/
  | vrmax (d : BitVec 12) (a : BitVec 12) (b : BitVec 12) (m : Bool) (x : BitVec 3)
  /-- VRMIN, opcode 0x9B -/
  | vrmin (d : BitVec 12) (a : BitVec 12) (b : BitVec 12) (m : Bool) (x : BitVec 3)
  /-- VTRANS, opcode 0x9F -/
  | vtrans (d : BitVec 12) (a : BitVec 12) (b : BitVec 12) (m : Bool) (x : BitVec 3)
  /-- VIOTA, opcode 0xA2 -/
  | viota (d : BitVec 12) (a : BitVec 12) (b : BitVec 12) (m : Bool) (x : BitVec 3)
  /-- VZERO, opcode 0x7D -/
  | vzero (d : BitVec 12) (a : BitVec 12) (b : BitVec 12) (m : Bool) (x : BitVec 3)
  /-- VCLRF, opcode 0x7F -/
  | vclrf (d : BitVec 12) (a : BitVec 12) (b : BitVec 12) (m : Bool) (x : BitVec 3)
  /-- VCVT, opcode 0x93 -/
  | vcvt (d : BitVec 12) (a : BitVec 12) (p : BitVec 3) (src : BitVec 4) (m : Bool) (x : BitVec 3)
  /-- VSLIDE, opcode 0x9D -/
  | vslide (d : BitVec 12) (a : BitVec 12) (amt : BitVec 8) (m : Bool) (x : BitVec 3)
  /-- VBCAST, opcode 0x9E -/
  | vbcast (d : BitVec 12) (a : BitVec 12) (lane : BitVec 7) (m : Bool) (x : BitVec 3)
  /-- VEXT, opcode 0xA0 -/
  | vext (d : BitVec 12) (a : BitVec 12) (lane : BitVec 7) (m : Bool) (x : BitVec 3)
  /-- VINS, opcode 0xA1 -/
  | vins (d : BitVec 12) (a : BitVec 12) (lane : BitVec 7) (m : Bool) (x : BitVec 3)
  /-- VRNG, opcode 0xA5 -/
  | vrng (d : BitVec 12) (a : BitVec 12) (site : BitVec 2) (m : Bool) (x : BitVec 3)
  /-- MFMT, opcode 0xB0 -/
  | mfmt (ra : BitVec 6) (pop : BitVec 3) (push : BitVec 3)
  /-- MMA, opcode 0xB1 -/
  | mma (ra : BitVec 6) (rb : BitVec 6) (acc : Bool) (m : BitVec 2) (n : BitVec 2) (k : BitVec 2) (ta : Bool) (tb : Bool) (z : Bool) (pop : BitVec 3) (push : BitVec 3)
  /-- MMAS, opcode 0xB2 -/
  | mmas (ra : BitVec 6) (rb : BitVec 6) (acc : Bool) (m : BitVec 2) (n : BitVec 2) (k : BitVec 2) (ta : Bool) (tb : Bool) (z : Bool) (pop : BitVec 3) (push : BitVec 3)
  /-- MRESC, opcode 0xB3 -/
  | mresc (ra : BitVec 6) (acc : Bool) (m : BitVec 2) (n : BitVec 2) (pop : BitVec 3) (push : BitVec 3)
  /-- MZERO, opcode 0xB4 -/
  | mzero (ra : BitVec 6) (acc : Bool) (m : BitVec 2) (n : BitVec 2) (side : Bool) (pop : BitVec 3) (push : BitVec 3)
  /-- MLDAC, opcode 0xB5 -/
  | mldac (ra : BitVec 6) (acc : Bool) (m : BitVec 2) (n : BitVec 2) (pop : BitVec 3) (push : BitVec 3)
  /-- MSTAC, opcode 0xB6 -/
  | mstac (ra : BitVec 6) (acc : Bool) (m : BitVec 2) (n : BitVec 2) (close : Bool) (pop : BitVec 3) (push : BitVec 3)
  /-- MSTSM, opcode 0xB7 -/
  | mstsm (ra : BitVec 6) (acc : Bool) (m : BitVec 2) (n : BitVec 2) (close : Bool) (pop : BitVec 3) (push : BitVec 3)
  /-- MNORM, opcode 0xB8 -/
  | mnorm (ra : BitVec 6) (acc : Bool) (m : BitVec 2) (n : BitVec 2) (other : Bool) (pop : BitVec 3) (push : BitVec 3)
  /-- COPY, opcode 0xC0 -/
  | copy (rd : BitVec 6) (ra : BitVec 6) (cm : BitVec 2) (flags : BitVec 14)
  /-- TLOAD, opcode 0xC1 -/
  | tload (rd : BitVec 6) (ra : BitVec 6) (rb : BitVec 6) (rc : BitVec 6) (cm : BitVec 2) (flags : BitVec 14)
  /-- TSTORE, opcode 0xC2 -/
  | tstore (rd : BitVec 6) (ra : BitVec 6) (rb : BitVec 6) (rc : BitVec 6) (cm : BitVec 2) (flags : BitVec 14)
  /-- TMCAST, opcode 0xC4 -/
  | tmcast (rd : BitVec 6) (ra : BitVec 6) (rb : BitVec 6) (rc : BitVec 6) (cm : BitVec 2) (flags : BitVec 14)
  /-- PSTORE, opcode 0xC5 -/
  | pstore (rd : BitVec 6) (ra : BitVec 6) (rb : BitVec 6) (rc : BitVec 6) (cm : BitVec 2) (flags : BitVec 14)
  /-- TPARK, opcode 0xC6 -/
  | tpark (rd : BitVec 6) (ra : BitVec 6) (rb : BitVec 6) (rc : BitVec 6) (cm : BitVec 2) (flags : BitVec 14)
  /-- TREPL, opcode 0xC8 -/
  | trepl (rd : BitVec 6) (ra : BitVec 6) (rb : BitVec 6) (rc : BitVec 6) (cm : BitVec 2) (flags : BitVec 14)
  /-- REQNT, opcode 0xC9 -/
  | reqnt (rd : BitVec 6) (ra : BitVec 6) (rb : BitVec 6) (rc : BitVec 6) (cm : BitVec 2) (flags : BitVec 14)
  /-- TSEAL, opcode 0xC3 -/
  | tseal (rd : BitVec 6) (ra : BitVec 6) (rb : BitVec 6) (reg : Bool)
  /-- TSEAL_CB, opcode 0xC3 -/
  | tsealCb (rd : BitVec 6) (ra : BitVec 6) (rb : BitVec 6) (reg : Bool)
  /-- TUNPARK, opcode 0xC7 -/
  | tunpark (rd : BitVec 6) (ra : BitVec 6) (rb : BitVec 6) (cm : BitVec 2) (flags : BitVec 14)
  /-- TDROP, opcode 0xCA -/
  | tdrop (rd : BitVec 6) (ra : BitVec 6) (rb : BitVec 6) (cm : BitVec 2) (flags : BitVec 14)
  /-- HJOIN, opcode 0xD0 -/
  | hjoin (rd : BitVec 6) (ra : BitVec 6) (rb : BitVec 6)
  /-- HLEAVE, opcode 0xD1 -/
  | hleave (rd : BitVec 6) (ra : BitVec 6)
  /-- HCONTRIB, opcode 0xD2 -/
  | hcontrib (rd : BitVec 6) (ra : BitVec 6) (rb : BitVec 6) (off : BitVec 12)
  /-- HWAIT, opcode 0xD3 -/
  | hwait (rd : BitVec 6) (ra : BitVec 6) (rb : BitVec 6) (noimg : Bool) (off : BitVec 12)
  /-- HSTAT_ROSTER, opcode 0xD4 -/
  | hstatRoster (rd : BitVec 6) (ra : BitVec 6) (rb : BitVec 6)
  /-- HSTAT_GROUP, opcode 0xD4 -/
  | hstatGroup (rd : BitVec 6) (ra : BitVec 6) (rb : BitVec 6)
  /-- HSTAT_MEMBER, opcode 0xD4 -/
  | hstatMember (rd : BitVec 6) (ra : BitVec 6) (rb : BitVec 6)
  /-- HSYNC, opcode 0xD5 -/
  | hsync (rd : BitVec 6) (ra : BitVec 6)
  /-- ROPEN, opcode 0xD6 -/
  | ropen (rd : BitVec 6) (ra : BitVec 6) (rb : BitVec 6) (h : BitVec 4) (save : Bool) (ht : BitVec 4) (rowoff : BitVec 7)
  /-- ROPEN_CELL, opcode 0xD6 -/
  | ropenCell (rd : BitVec 6) (ra : BitVec 6) (h : BitVec 4) (save : Bool) (ht : BitVec 4)
  /-- RREL, opcode 0xD7 -/
  | rrel (rd : BitVec 6) (h : BitVec 4)
  /-- RRENEW, opcode 0xD8 -/
  | rrenew (rd : BitVec 6) (h : BitVec 4) (ht : BitVec 4)
  /-- RSTAT, opcode 0xD9 -/
  | rstat (rd : BitVec 6) (h : BitVec 4)
  /-- LOOP, opcode 0xE1 -/
  | loop (level : BitVec 2) (cnt : BitVec 12) (r : Bool) (off : BitVec 24)
  /-- LOOPI, opcode 0xE2 -/
  | loopi (level : BitVec 2) (cnt : BitVec 12) (r : Bool) (off : BitVec 24)
  /-- LOOPB, opcode 0xE3 -/
  | loopb (level : BitVec 2) (cnt : BitVec 12) (drain : BitVec 4) (off : BitVec 20)
  /-- TKPUSH, opcode 0xE4 -/
  | tkpush (k : BitVec 3)
  /-- TKPOP, opcode 0xE5 -/
  | tkpop (k : BitVec 3)
  /-- SJ, opcode 0xE7 -/
  | sj (sense : Bool) (p : BitVec 3) (off : BitVec 32)
  /-- PRSET, opcode 0xE8 -/
  | prset (mask : BitVec 7) (vals : BitVec 7)
  /-- RET, opcode 0x0E -/
  | ret
  /-- SPECEND, opcode 0x11 -/
  | specend
  /-- SPECX, opcode 0x12 -/
  | specx
  /-- HALT, opcode 0x2E -/
  | halt
  /-- BRK, opcode 0x31 -/
  | brk
  /-- RTE, opcode 0x32 -/
  | rte
  /-- RTE_SKIP, opcode 0x32 -/
  | rteSkip
  /-- LEASE, opcode 0x34 -/
  | lease
  /-- UNLEASE, opcode 0x35 -/
  | unlease
  /-- NOP, opcode 0xE0 -/
  | nop
  /-- SHALT, opcode 0xE6 -/
  | shalt
  /-- SPEC_RESOLVE, a step of the device -/
  | specResolve
  /-- LOAD_RETURN, a step of the device -/
  | loadReturn
  /-- STORE_ACK, a step of the device -/
  | storeAck
  /-- SHARD_RETIRE, a step of the device -/
  | shardRetire
  /-- WFE_TIMEOUT, a step of the device -/
  | wfeTimeout
  /-- TRAP_ENTRY, a step of the device -/
  | trapEntry
  /-- LEASE_GRANT, a step of the device -/
  | leaseGrant
  /-- LEASE_RUN_BOUND, a step of the device -/
  | leaseRunBound
  /-- AS_BEAT, a step of the device -/
  | asBeat
  /-- M_COMMAND_START, a step of the device -/
  | mCommandStart
  /-- M_COMMAND_COMPLETE, a step of the device -/
  | mCommandComplete
  /-- X_COMMAND_START, a step of the device -/
  | xCommandStart
  /-- COPY_GROUP_DONE, a step of the device -/
  | copyGroupDone
  /-- X_COMMAND_COMPLETE, a step of the device -/
  | xCommandComplete
  /-- HARVEST_CONTRIBUTION, a step of the device -/
  | harvestContribution
  /-- ROUND_FOLD_DONE, a step of the device -/
  | roundFoldDone
  /-- ROW_OPENED, a step of the device -/
  | rowOpened
  /-- HOLD_EXPIRY, a step of the device -/
  | holdExpiry
  /-- HOLD_REVOKE, a step of the device -/
  | holdRevoke
  /-- QUEUE_ACCESS_RESUME, a step of the device -/
  | queueAccessResume
  /-- FULL_BIT_WAIT_RESUME, a step of the device -/
  | fullBitWaitResume
  /-- PACKET_SUBMIT, a step of the device -/
  | packetSubmit
  /-- PACKET_BATCH, a step of the device -/
  | packetBatch
  /-- PACKET_RELEASE, a step of the device -/
  | packetRelease
  /-- PACKET_MARK, a step of the device -/
  | packetMark
  /-- QUEUE_DOORBELL, a step of the device -/
  | queueDoorbell
  /-- TASK_READY, a step of the device -/
  | taskReady
  /-- SHARD_DISPATCH, a step of the device -/
  | shardDispatch
  /-- TASK_COMPLETE, a step of the device -/
  | taskComplete
  /-- SEAL_REPORT, a step of the device -/
  | sealReport
  /-- REPLICA_DONE, a step of the device -/
  | replicaDone
  /-- PARKED_FETCH_DONE, a step of the device -/
  | parkedFetchDone
  /-- AGEING_BOUNDARY, a step of the device -/
  | ageingBoundary
  /-- PREEMPT, a step of the device -/
  | preempt
  /-- SHARD_PARK, a step of the device -/
  | shardPark
  /-- SHARD_DISCARD, a step of the device -/
  | shardDiscard
  /-- SHARD_RESUME, a step of the device -/
  | shardResume
  /-- TLB_WALK_DONE, a step of the device -/
  | tlbWalkDone
  /-- REFRESH_DUE, a step of the device -/
  | refreshDue
  /-- PATROL_SCRUB, a step of the device -/
  | patrolScrub
  /-- CALENDAR_PERIOD, a step of the device -/
  | calendarPeriod
  /-- ERROR_DETECTED, a step of the device -/
  | errorDetected
  /-- RETRY_OUTCOME, a step of the device -/
  | retryOutcome
  /-- ERROR_RECORD, a step of the device -/
  | errorRecord
  /-- HEARTBEAT_PERIOD, a step of the device -/
  | heartbeatPeriod
  /-- DIE_LOSS, a step of the device -/
  | dieLoss
  /-- QUADRANT_OUT_OF_SERVICE, a step of the device -/
  | quadrantOutOfService
  /-- UNIT_TEST_FAIL, a step of the device -/
  | unitTestFail
  /-- LANE_OUT_OF_SERVICE, a step of the device -/
  | laneOutOfService
  /-- CHANNEL_RETRAIN, a step of the device -/
  | channelRetrain
  /-- CHANNEL_RETRAIN_DONE, a step of the device -/
  | channelRetrainDone
  /-- VERSION_DESTROYED, a step of the device -/
  | versionDestroyed
  /-- REBUILD, a step of the device -/
  | rebuild
  /-- SHARD_LOST, a step of the device -/
  | shardLost
  /-- MEMBER_LOST, a step of the device -/
  | memberLost
  /-- CTX_ACTIVATE, a step of the device -/
  | ctxActivate
  /-- CTX_TEARDOWN, a step of the device -/
  | ctxTeardown
  /-- CTX_PARK, a step of the device -/
  | ctxPark
  /-- CTX_RESUME, a step of the device -/
  | ctxResume
  /-- CTX_HTAB, a step of the device -/
  | ctxHtab
  /-- CTX_PUB, a step of the device -/
  | ctxPub
  /-- TLB_INVAL, a step of the device -/
  | tlbInval
  /-- SHARD_PARK_CMD, a step of the device -/
  | shardParkCmd
  /-- SHARD_DISCARD_CMD, a step of the device -/
  | shardDiscardCmd
  /-- SHARD_RESUME_CMD, a step of the device -/
  | shardResumeCmd
  /-- DEBUG, a step of the device -/
  | debug
  /-- KEY_INSTALL, a step of the device -/
  | keyInstall
  /-- KEY_CLEAR, a step of the device -/
  | keyClear
  /-- ATTEST, a step of the device -/
  | attest
  /-- CKPT, a step of the device -/
  | ckpt
  /-- CKPT_RESTORE, a step of the device -/
  | ckptRestore
  /-- PEER_SET, a step of the device -/
  | peerSet
  /-- MAILBOX_UNKNOWN, a step of the device -/
  | mailboxUnknown
  /-- DEV_BOOT, a step of the device -/
  | devBoot
  /-- BOOT_VERIFY_DONE, a step of the device -/
  | bootVerifyDone
  /-- BOOT_INIT_DONE, a step of the device -/
  | bootInitDone
  /-- POWER_ON_RESET, a step of the device -/
  | powerOnReset
  /-- REGISTER_WRITE, a step of the device -/
  | registerWrite
  /-- WATCHDOG_EXPIRY, a step of the device -/
  | watchdogExpiry
  /-- POWER_CONTROL, a step of the device -/
  | powerControl
  /-- HOST_LINK_DOWN_TIMEOUT, a step of the device -/
  | hostLinkDownTimeout
  /-- HOST_BAR2_READ, a step of the device -/
  | hostBar2Read
  /-- HOST_BAR2_WRITE, a step of the device -/
  | hostBar2Write
  /-- HOST_COMPLETION, a step of the device -/
  | hostCompletion
  /-- BILOT_STORE, a step of the device -/
  | bilotStore
  /-- BILOT_LOAD, a step of the device -/
  | bilotLoad
  /-- BILOT_ATOMIC, a step of the device -/
  | bilotAtomic
  /-- BILOT_QAPPEND, a step of the device -/
  | bilotQappend
  /-- BILOT_HCONTRIB, a step of the device -/
  | bilotHcontrib
  /-- BILOT_HRESULT, a step of the device -/
  | bilotHresult
  /-- BILOT_TREPL, a step of the device -/
  | bilotTrepl
  /-- BILOT_REPLY, a step of the device -/
  | bilotReply
  /-- BILOT_REPLY_TIMEOUT, a step of the device -/
  | bilotReplyTimeout
  /-- BILOT_PORT_DOWN, a step of the device -/
  | bilotPortDown
  /-- HOST_BAR2_ATOMIC, a step of the device -/
  | hostBar2Atomic
  /-- HOST_LINK_DOWN, a step of the device -/
  | hostLinkDown
  /-- POSTED_WRITE_LEFT_PORT, a step of the device -/
  | postedWriteLeftPort
deriving DecidableEq, Repr

end Sys2Proof
end

