-- ==== Sys2Proof/WellFormed.lean ====
section
/-! DEFINITION. What the spec asks of an instruction word beyond its opcode and selectors: checks 6 to 9 of R151 so far as they depend on the word and on the stream alone. (Operand specifiers of V-stream words depend on the shard's views and high-water mark and are checked at execution, Machine/Operands.lean.) -/

namespace Sys2Proof

/-- Which streams may execute a word (R147). -/
inductive Owner where
  /-- C-stream only. -/
  | cOnly
  /-- A-stream only. -/
  | aOnly
  /-- V-stream only. -/
  | vOnly
  /-- Every stream (the common range). -/
  | common
  /-- No stream: a step of the device. -/
  | device
deriving DecidableEq, Repr

/-- The owner of an instruction (R147). -/
def Instr.owner : Instr → Owner
  | .add _ _ _ => .cOnly
  | .sub _ _ _ => .cOnly
  | .and _ _ _ => .cOnly
  | .or _ _ _ => .cOnly
  | .xor _ _ _ => .cOnly
  | .andn _ _ _ => .cOnly
  | .shl _ _ _ => .cOnly
  | .shr _ _ _ => .cOnly
  | .sra _ _ _ => .cOnly
  | .rol _ _ _ => .cOnly
  | .ror _ _ _ => .cOnly
  | .min _ _ _ => .cOnly
  | .max _ _ _ => .cOnly
  | .minu _ _ _ => .cOnly
  | .maxu _ _ _ => .cOnly
  | .seq _ _ _ => .cOnly
  | .sne _ _ _ => .cOnly
  | .slt _ _ _ => .cOnly
  | .sltu _ _ _ => .cOnly
  | .mul _ _ _ => .cOnly
  | .mulh _ _ _ => .cOnly
  | .mulhu _ _ _ => .cOnly
  | .div _ _ _ => .cOnly
  | .divu _ _ _ => .cOnly
  | .rem _ _ _ => .cOnly
  | .remu _ _ _ => .cOnly
  | .clz _ _ => .cOnly
  | .ctz _ _ => .cOnly
  | .popc _ _ => .cOnly
  | .sextb _ _ => .cOnly
  | .sexth _ _ => .cOnly
  | .sextw _ _ => .cOnly
  | .zextw _ _ => .cOnly
  | .bswap _ _ => .cOnly
  | .addi _ _ _ => .cOnly
  | .andi _ _ _ => .cOnly
  | .ori _ _ _ => .cOnly
  | .xori _ _ _ => .cOnly
  | .shli _ _ _ => .cOnly
  | .shri _ _ _ => .cOnly
  | .srai _ _ _ => .cOnly
  | .slti _ _ _ => .cOnly
  | .sltui _ _ _ => .cOnly
  | .muli _ _ _ => .cOnly
  | .li _ _ => .cOnly
  | .liU _ _ => .cOnly
  | .lih _ _ => .cOnly
  | .sel _ _ _ => .cOnly
  | .beq _ _ _ => .cOnly
  | .bne _ _ _ => .cOnly
  | .blt _ _ _ => .cOnly
  | .bge _ _ _ => .cOnly
  | .bltu _ _ _ => .cOnly
  | .bgeu _ _ _ => .cOnly
  | .bz _ _ => .cOnly
  | .bnz _ _ => .cOnly
  | .j _ => .cOnly
  | .jr _ => .cOnly
  | .call _ => .cOnly
  | .callr _ => .cOnly
  | .spec _ _ => .cOnly
  | .rndx _ _ _ _ => .cOnly
  | .csrr _ _ => .cOnly
  | .csrw _ _ _ => .cOnly
  | .csrs _ _ _ => .cOnly
  | .csrc _ _ _ => .cOnly
  | .ldb _ _ _ _ _ => .cOnly
  | .ldbu _ _ _ _ _ => .cOnly
  | .ldh _ _ _ _ _ => .cOnly
  | .ldhu _ _ _ _ _ => .cOnly
  | .ldw _ _ _ _ _ => .cOnly
  | .ldwu _ _ _ _ _ => .cOnly
  | .ldd _ _ _ _ _ => .cOnly
  | .stb _ _ _ _ _ => .cOnly
  | .sth _ _ _ _ _ => .cOnly
  | .stw _ _ _ _ _ => .cOnly
  | .std _ _ _ _ _ => .cOnly
  | .amadd _ _ _ _ _ _ => .cOnly
  | .amand _ _ _ _ _ _ => .cOnly
  | .amor _ _ _ _ _ _ => .cOnly
  | .amxor _ _ _ _ _ _ => .cOnly
  | .ammin _ _ _ _ _ _ => .cOnly
  | .ammax _ _ _ _ _ _ => .cOnly
  | .amminu _ _ _ _ _ _ => .cOnly
  | .ammaxu _ _ _ _ _ _ => .cOnly
  | .amswap _ _ _ _ _ _ => .cOnly
  | .cas _ _ _ _ _ _ => .cOnly
  | .fence _ _ => .cOnly
  | .publish _ _ => .cOnly
  | .cvtaTo _ _ _ => .cOnly
  | .cvtaFrom _ _ _ => .cOnly
  | .aptest _ _ _ => .cOnly
  | .setview _ _ _ => .cOnly
  | .seta _ _ => .cOnly
  | .popv _ _ => .cOnly
  | .pushv _ _ _ => .cOnly
  | .barinit _ _ _ _ _ => .cOnly
  | .bararv _ _ _ _ => .cOnly
  | .barwait _ _ _ _ => .cOnly
  | .bararw _ _ _ _ => .cOnly
  | .tbinit _ _ _ => .cOnly
  | .tbexp _ _ _ => .cOnly
  | .tbarv _ _ _ => .cOnly
  | .tbwait _ _ _ => .cOnly
  | .spawn _ => .cOnly
  | .spawnNb _ _ => .cOnly
  | .enqr _ _ => .cOnly
  | .inbox _ _ => .cOnly
  | .inboxNb _ _ => .cOnly
  | .yield _ => .cOnly
  | .wfe _ _ => .cOnly
  | .trap _ => .cOnly
  | .leaseNb _ => .cOnly
  | .ald _ _ _ _ _ _ _ => .aOnly
  | .ast _ _ _ _ _ _ _ => .aOnly
  | .arld _ _ _ _ _ _ _ => .aOnly
  | .arst _ _ _ _ _ _ _ => .aOnly
  | .agth _ _ _ _ _ _ _ _ _ _ => .aOnly
  | .asct _ _ _ _ _ _ _ _ _ _ => .aOnly
  | .apart _ _ _ _ _ _ _ _ => .aOnly
  | .aadd _ _ _ => .aOnly
  | .asub _ _ _ => .aOnly
  | .aand _ _ _ => .aOnly
  | .aor _ _ _ => .aOnly
  | .axor _ _ _ => .aOnly
  | .ashl _ _ _ => .aOnly
  | .ashr _ _ _ => .aOnly
  | .amul _ _ _ => .aOnly
  | .amax _ _ _ => .aOnly
  | .aaddi _ _ _ => .aOnly
  | .ali _ _ => .aOnly
  | .aflush _ => .aOnly
  | .amcast _ _ _ _ _ => .aOnly
  | .vmode _ _ _ _ _ => .vOnly
  | .vmovi _ _ _ => .vOnly
  | .vadd _ _ _ _ _ => .vOnly
  | .vsub _ _ _ _ _ => .vOnly
  | .vmul _ _ _ _ _ => .vOnly
  | .vmulh _ _ _ _ _ => .vOnly
  | .vmad _ _ _ _ _ => .vOnly
  | .vand _ _ _ _ _ => .vOnly
  | .vor _ _ _ _ _ => .vOnly
  | .vxor _ _ _ _ _ => .vOnly
  | .vandn _ _ _ _ _ => .vOnly
  | .vshl _ _ _ _ _ => .vOnly
  | .vshr _ _ _ _ _ => .vOnly
  | .vsra _ _ _ _ _ => .vOnly
  | .vmin _ _ _ _ _ => .vOnly
  | .vmax _ _ _ _ _ => .vOnly
  | .vadds _ _ _ _ _ => .vOnly
  | .vsubs _ _ _ _ _ => .vOnly
  | .vceq _ _ _ _ _ => .vOnly
  | .vcne _ _ _ _ _ => .vOnly
  | .vclt _ _ _ _ _ => .vOnly
  | .vcle _ _ _ _ _ => .vOnly
  | .vcltu _ _ _ _ _ => .vOnly
  | .vcleu _ _ _ _ _ => .vOnly
  | .vsel _ _ _ _ _ => .vOnly
  | .vpack _ _ _ _ _ => .vOnly
  | .vfadd _ _ _ _ _ => .vOnly
  | .vfsub _ _ _ _ _ => .vOnly
  | .vfmul _ _ _ _ _ => .vOnly
  | .vfma _ _ _ _ _ => .vOnly
  | .vfms _ _ _ _ _ => .vOnly
  | .vfnma _ _ _ _ _ => .vOnly
  | .vfmin _ _ _ _ _ => .vOnly
  | .vfmax _ _ _ _ _ => .vOnly
  | .vfscl _ _ _ _ _ => .vOnly
  | .vfceq _ _ _ _ _ => .vOnly
  | .vfclt _ _ _ _ _ => .vOnly
  | .vfcle _ _ _ _ _ => .vOnly
  | .vcvtsr _ _ _ _ _ => .vOnly
  | .vperm _ _ _ _ _ => .vOnly
  | .vabs _ _ _ _ _ => .vOnly
  | .vneg _ _ _ _ _ => .vOnly
  | .vcnt _ _ _ _ _ => .vOnly
  | .vmov _ _ _ _ _ => .vOnly
  | .vinv _ _ _ _ _ => .vOnly
  | .vunpk _ _ _ _ _ => .vOnly
  | .vfabs _ _ _ _ _ => .vOnly
  | .vfneg _ _ _ _ _ => .vOnly
  | .vrcpa _ _ _ _ _ => .vOnly
  | .vrsqa _ _ _ _ _ => .vOnly
  | .vexp2a _ _ _ _ _ => .vOnly
  | .vlog2a _ _ _ _ _ => .vOnly
  | .vfclass _ _ _ _ _ => .vOnly
  | .vqnt _ _ _ _ _ => .vOnly
  | .vdqnt _ _ _ _ _ => .vOnly
  | .vmxq _ _ _ _ _ => .vOnly
  | .vmxd _ _ _ _ _ => .vOnly
  | .vrsum _ _ _ _ _ => .vOnly
  | .vrmax _ _ _ _ _ => .vOnly
  | .vrmin _ _ _ _ _ => .vOnly
  | .vtrans _ _ _ _ _ => .vOnly
  | .viota _ _ _ _ _ => .vOnly
  | .vzero _ _ _ _ _ => .vOnly
  | .vclrf _ _ _ _ _ => .vOnly
  | .vcvt _ _ _ _ _ _ => .vOnly
  | .vslide _ _ _ _ _ => .vOnly
  | .vbcast _ _ _ _ _ => .vOnly
  | .vext _ _ _ _ _ => .vOnly
  | .vins _ _ _ _ _ => .vOnly
  | .vrng _ _ _ _ _ => .vOnly
  | .mfmt _ _ _ => .cOnly
  | .mma _ _ _ _ _ _ _ _ _ _ _ => .cOnly
  | .mmas _ _ _ _ _ _ _ _ _ _ _ => .cOnly
  | .mresc _ _ _ _ _ _ => .cOnly
  | .mzero _ _ _ _ _ _ _ => .cOnly
  | .mldac _ _ _ _ _ _ => .cOnly
  | .mstac _ _ _ _ _ _ _ => .cOnly
  | .mstsm _ _ _ _ _ _ _ => .cOnly
  | .mnorm _ _ _ _ _ _ _ => .cOnly
  | .copy _ _ _ _ => .cOnly
  | .tload _ _ _ _ _ _ => .cOnly
  | .tstore _ _ _ _ _ _ => .cOnly
  | .tmcast _ _ _ _ _ _ => .cOnly
  | .pstore _ _ _ _ _ _ => .cOnly
  | .tpark _ _ _ _ _ _ => .cOnly
  | .trepl _ _ _ _ _ _ => .cOnly
  | .reqnt _ _ _ _ _ _ => .cOnly
  | .tseal _ _ _ _ => .cOnly
  | .tsealCb _ _ _ _ => .cOnly
  | .tunpark _ _ _ _ _ => .cOnly
  | .tdrop _ _ _ _ _ => .cOnly
  | .hjoin _ _ _ => .cOnly
  | .hleave _ _ => .cOnly
  | .hcontrib _ _ _ _ => .cOnly
  | .hwait _ _ _ _ _ => .cOnly
  | .hstatRoster _ _ _ => .cOnly
  | .hstatGroup _ _ _ => .cOnly
  | .hstatMember _ _ _ => .cOnly
  | .hsync _ _ => .cOnly
  | .ropen _ _ _ _ _ _ _ => .cOnly
  | .ropenCell _ _ _ _ _ => .cOnly
  | .rrel _ _ => .cOnly
  | .rrenew _ _ _ => .cOnly
  | .rstat _ _ => .cOnly
  | .loop _ _ _ _ => .common
  | .loopi _ _ _ _ => .common
  | .loopb _ _ _ _ => .common
  | .tkpush _ => .common
  | .tkpop _ => .common
  | .sj _ _ _ => .common
  | .prset _ _ => .common
  | .ret => .cOnly
  | .specend => .cOnly
  | .specx => .cOnly
  | .halt => .cOnly
  | .brk => .cOnly
  | .rte => .cOnly
  | .rteSkip => .cOnly
  | .lease => .cOnly
  | .unlease => .cOnly
  | .nop => .common
  | .shalt => .common
  | _ => .device

/-- A stream may execute words of this owner (R147). -/
def Owner.allows : Owner → Strm → Bool
  | .cOnly, σ => σ == .c
  | .aOnly, σ => σ == .a
  | .vOnly, σ => σ == .v
  | .common, _ => true
  | .device, _ => false

/-- Loads: ord none or .acq; with ord none the scope is 0 (R128, R175). -/
def loadModsOk (ord scope : BitVec 2) : Bool := (ord == 0 && scope == 0) || ord == 1

/-- Stores: ord none or .rel; with ord none the scope is 0 (R128, R176). -/
def storeModsOk (ord scope : BitVec 2) : Bool := (ord == 0 && scope == 0) || ord == 2

/-- Atomics and CAS: every ord; with ord none the scope is 0 (R128, R177). -/
def atomicModsOk (ord scope : BitVec 2) : Bool := ord != 0 || scope == 0

/-- XC words: rd is reserved without cm[0], flags without cm[1] (R258). -/
def completionFieldsOk (cm : BitVec 2) (rd : BitVec 6) (flags : BitVec 14) : Bool :=
  (cm.getLsbD 0 || rd == 0) && (cm.getLsbD 1 || flags == 0)

/-- The unused high bits of a count-spec: a scalar register in the C-stream, an address register in the A-stream (R131). -/
def countSpecFieldsOk : Strm → BitVec 12 → Bool
  | .c, cnt => cnt.extractLsb' 6 6 == 0
  | .a, cnt => cnt.extractLsb' 5 7 == 0
  | .v, _ => true

/-- A signed offset is a multiple of 3, in 2-byte units (R129). -/
def threeDivides {n : Nat} (off : BitVec n) : Bool := off.toInt % 3 == 0

/-- The channels a stream may push by TKPUSH or in an AS word (R58). -/
def pushAllowed : Strm → BitVec 3 → Bool
  | .c, k => k == 1 || k == 3
  | .a, k => k == 2 || k == 5
  | .v, k => k == 4 || k == 6

/-- The channels a stream may pop (R58). -/
def popAllowed : Strm → BitVec 3 → Bool
  | .c, k => k == 2 || k == 4 || k == 7
  | .a, k => k == 1 || k == 6
  | .v, k => k == 3 || k == 5

/-- Pop and push fields of an AS word; 0 is none (R58, R130). -/
def asTokensOk (pop push : BitVec 3) : Bool :=
  (pop == 0 || popAllowed .a pop) && (push == 0 || pushAllowed .a push)

/-- Pop and push fields of an MC word: pops k2, k4, k7; pushes k1, k3, k7 (R236). -/
def mcTokensOk (pop push : BitVec 3) : Bool :=
  (pop == 0 || popAllowed .c pop) && (push == 0 || push == 1 || push == 3 || push == 7)

/-- Check 7 of R151: modifier combinations (R89, R128). -/
def Instr.modifiersOk : Instr → Bool
  | .ldb _ _ ord scope _ => loadModsOk ord scope
  | .ldbu _ _ ord scope _ => loadModsOk ord scope
  | .ldh _ _ ord scope _ => loadModsOk ord scope
  | .ldhu _ _ ord scope _ => loadModsOk ord scope
  | .ldw _ _ ord scope _ => loadModsOk ord scope
  | .ldwu _ _ ord scope _ => loadModsOk ord scope
  | .ldd _ _ ord scope _ => loadModsOk ord scope
  | .stb _ _ ord scope _ => storeModsOk ord scope
  | .sth _ _ ord scope _ => storeModsOk ord scope
  | .stw _ _ ord scope _ => storeModsOk ord scope
  | .std _ _ ord scope _ => storeModsOk ord scope
  | .amadd _ _ _ ord scope _ => atomicModsOk ord scope
  | .amand _ _ _ ord scope _ => atomicModsOk ord scope
  | .amor _ _ _ ord scope _ => atomicModsOk ord scope
  | .amxor _ _ _ ord scope _ => atomicModsOk ord scope
  | .ammin _ _ _ ord scope _ => atomicModsOk ord scope
  | .ammax _ _ _ ord scope _ => atomicModsOk ord scope
  | .amminu _ _ _ ord scope _ => atomicModsOk ord scope
  | .ammaxu _ _ _ ord scope _ => atomicModsOk ord scope
  | .amswap _ _ _ ord scope _ => atomicModsOk ord scope
  | .cas _ _ _ ord scope _ => atomicModsOk ord scope
  | _ => true

/-- The excluded values and conditionally reserved fields of check 6 of R151. -/
def Instr.fieldsOk (σ : Strm) : Instr → Bool
  | .cvtaTo _ _ ap => ap != 3
  | .cvtaFrom _ _ ap => ap != 3
  | .aptest _ _ ap => ap != 3
  | .setview _ _ mask => mask != 0
  | .barinit _ ra remote _ _ => remote || ra == 0
  | .bararv _ ra remote _ => remote || ra == 0
  | .barwait _ ra remote _ => remote || ra == 0
  | .bararw _ ra remote _ => remote || ra == 0
  | .agth _ _ src idx _ _ _ _ _ _ => src || !idx.getLsbD 4
  | .asct _ _ src idx _ _ _ _ _ _ => src || !idx.getLsbD 4
  | .apart _ _ _ kt _ _ _ _ => kt != 3
  | .vmode _ _ wm _ rnd => !(wm && (rnd == 6 || rnd == 7))
  | .copy rd _ cm flags => completionFieldsOk cm rd flags
  | .tload rd _ _ _ cm flags => completionFieldsOk cm rd flags
  | .tstore rd _ _ _ cm flags => completionFieldsOk cm rd flags
  | .tmcast rd _ _ _ cm flags => completionFieldsOk cm rd flags
  | .pstore rd _ _ _ cm flags => completionFieldsOk cm rd flags
  | .tpark rd _ _ _ cm flags => completionFieldsOk cm rd flags
  | .trepl rd _ _ _ cm flags => completionFieldsOk cm rd flags
  | .reqnt rd _ _ _ cm flags => completionFieldsOk cm rd flags
  | .tseal rd _ _ reg => reg || rd == 0
  | .tsealCb rd _ _ reg => reg || rd == 0
  | .tunpark rd _ _ cm flags => completionFieldsOk cm rd flags
  | .tdrop rd _ _ cm flags => completionFieldsOk cm rd flags
  | .loop _ cnt _ _ => countSpecFieldsOk σ cnt
  | .loopi _ cnt _ _ => cnt != 0
  | .loopb _ cnt _ _ => countSpecFieldsOk σ cnt
  | .tkpush k => k != 0
  | .tkpop k => k != 0
  | _ => true

/-- Check 8 of R151: branch offsets (R129). DESIGN CHOICE: the lower bound of LOOP and LOOPI, that off24 be at least 3, is part of this check; R129 states the bound and names no check for it (notes/assumptions/46.md). -/
def Instr.offsetOk : Instr → Bool
  | .beq _ _ off => threeDivides off
  | .bne _ _ off => threeDivides off
  | .blt _ _ off => threeDivides off
  | .bge _ _ off => threeDivides off
  | .bltu _ _ off => threeDivides off
  | .bgeu _ _ off => threeDivides off
  | .bz _ off => threeDivides off
  | .bnz _ off => threeDivides off
  | .j off => threeDivides off
  | .call off => threeDivides off
  | .spec _ off => threeDivides off
  | .loop _ _ _ off => (off.toNat % 3 == 0 && decide (3 ≤ off.toNat))
  | .loopi _ _ _ off => (off.toNat % 3 == 0 && decide (3 ≤ off.toNat))
  | .loopb _ _ _ off => off.toNat % 3 == 0
  | .sj _ _ off => threeDivides off
  | _ => true

/-- The offset field that CR.TVAL holds when check 8 fails (R129, R151). DESIGN CHOICE: for LOOPB it is all of off24, drain count and offset (notes/assumptions/46.md). -/
def Instr.offsetField : Instr → Word
  | .beq _ _ off => (off.setWidth 64)
  | .bne _ _ off => (off.setWidth 64)
  | .blt _ _ off => (off.setWidth 64)
  | .bge _ _ off => (off.setWidth 64)
  | .bltu _ _ off => (off.setWidth 64)
  | .bgeu _ _ off => (off.setWidth 64)
  | .bz _ off => (off.setWidth 64)
  | .bnz _ off => (off.setWidth 64)
  | .j off => (off.setWidth 64)
  | .call off => (off.setWidth 64)
  | .spec _ off => (off.setWidth 64)
  | .loop _ _ _ off => (off.setWidth 64)
  | .loopi _ _ _ off => (off.setWidth 64)
  | .loopb _ _ drain off => ((drain ++ off).setWidth 64)
  | .sj _ _ off => (off.setWidth 64)
  | _ => 0

/-- Check 9 of R151 so far as the word and the stream decide it: channels, queue halves, counts (R58, R56, R185, R203, R208, R236). -/
def Instr.operandsOk (σ : Strm) : Instr → Bool
  | .barinit _ _ _ expect _ => expect != 0
  | .ald dstq _ _ _ _ pop push => (!dstq.getLsbD 3 && asTokensOk pop push)
  | .ast dstq _ _ _ _ pop push => (dstq.getLsbD 3 && asTokensOk pop push)
  | .arld dstq _ _ _ _ pop push => (!dstq.getLsbD 3 && asTokensOk pop push)
  | .arst dstq _ _ _ _ pop push => (dstq.getLsbD 3 && asTokensOk pop push)
  | .agth dstq _ src idx _ _ _ _ pop push => (!dstq.getLsbD 3 && (src || idx.getLsbD 3) && asTokensOk pop push)
  | .asct dstq _ src idx _ _ _ _ pop push => (dstq.getLsbD 3 && (src || idx.getLsbD 3) && asTokensOk pop push)
  | .apart c _ keyq _ _ _ pop push => (c != 0 && keyq.getLsbD 3 && asTokensOk pop push)
  | .amcast q _ _ _ _ => q.getLsbD 3
  | .mfmt _ pop push => mcTokensOk pop push
  | .mma _ _ _ _ _ _ _ _ _ pop push => mcTokensOk pop push
  | .mmas _ _ _ _ _ _ _ _ _ pop push => mcTokensOk pop push
  | .mresc _ _ _ _ pop push => mcTokensOk pop push
  | .mzero _ _ _ _ _ pop push => mcTokensOk pop push
  | .mldac _ _ _ _ pop push => mcTokensOk pop push
  | .mstac _ _ _ _ _ pop push => mcTokensOk pop push
  | .mstsm _ _ _ _ _ pop push => mcTokensOk pop push
  | .mnorm _ _ _ _ _ pop push => mcTokensOk pop push
  | .tkpush k => pushAllowed σ k
  | .tkpop k => popAllowed σ k
  | _ => true

/-- A well-formed instruction of a stream: a word of that stream or of the common range that passes checks 6 to 9. -/
def Instr.WellFormed (σ : Strm) (i : Instr) : Bool :=
  i.owner.allows σ && i.fieldsOk σ && i.modifiersOk && i.offsetOk && i.operandsOk σ

end Sys2Proof
end

