-- ==== Sys2Proof/Decode.lean ====
section
/-! DEFINITION. The decoder of the 48-bit instruction word (R125 to R151) and, after it, the encoder, both written from the field layouts of R126 and the opcode, fn, cond and selector tables of R146, R148 and R149. -/

namespace Sys2Proof

/-- Why a word is an illegal encoding, in the order of checks 3 to 9 of R151. -/
inductive Reject where
  /-- Check 3: the opcode is a reserved cell of R146. -/
  | opcode
  /-- Check 4: the opcode belongs to another stream (R147). -/
  | foreign
  /-- Check 5: a reserved fn, cond or selector value (R148, R149). -/
  | selector
  /-- Check 6: a non-zero reserved bit, or an excluded value (R127, R131). -/
  | reserved
  /-- Check 7: a modifier combination (R89, R128). -/
  | modifiers
  /-- Check 8: a branch offset; CR.TVAL holds the offset field (R129). -/
  | offset (field : Word)
  /-- Check 9: an operand that the word and the stream alone rule out. -/
  | operand
  /-- Check 9: an unused operand specifier of VMODE that is not zero; CR.TVAL holds the specifier (R132). -/
  | unused (spec : BitVec 12)
deriving DecidableEq, Repr

/-- The field of `len` bits of a word whose lowest bit is `lo` (R2, R126). -/
def fld (w : BitVec 48) (lo len : Nat) : BitVec len := w.extractLsb' lo len

/-- One bit of a word. -/
def bit (w : BitVec 48) (lo : Nat) : Bool := w.getLsbD lo

/-- An instruction whose reserved fields must be zero (R5, R127). -/
def ifZero (zero : Prop) [Decidable zero] (i : Instr) : Except Reject Instr :=
  if zero then .ok i else .error .reserved

/-- Opcode 0x00: ADD, SUB, AND, OR, XOR, ANDN, SHL, SHR, SRA, ROL, ROR, MIN, MAX, MINU, MAXU, SEQ, SNE, SLT, SLTU, MUL, MULH, MULHU, DIV, DIVU, REM, REMU, CLZ, CTZ, POPC, SEXTB, SEXTH, SEXTW, ZEXTW, BSWAP. -/
def decOp00 (w : BitVec 48) : Except Reject Instr :=
  if fld w 16 6 = 0 then ifZero (fld w 14 2 = 0 ∧ fld w 12 2 = 0 ∧ fld w 10 2 = 0 ∧ fld w 0 10 = 0) (.add (fld w 34 6) (fld w 28 6) (fld w 22 6))
  else if fld w 16 6 = 1 then ifZero (fld w 14 2 = 0 ∧ fld w 12 2 = 0 ∧ fld w 10 2 = 0 ∧ fld w 0 10 = 0) (.sub (fld w 34 6) (fld w 28 6) (fld w 22 6))
  else if fld w 16 6 = 2 then ifZero (fld w 14 2 = 0 ∧ fld w 12 2 = 0 ∧ fld w 10 2 = 0 ∧ fld w 0 10 = 0) (.and (fld w 34 6) (fld w 28 6) (fld w 22 6))
  else if fld w 16 6 = 3 then ifZero (fld w 14 2 = 0 ∧ fld w 12 2 = 0 ∧ fld w 10 2 = 0 ∧ fld w 0 10 = 0) (.or (fld w 34 6) (fld w 28 6) (fld w 22 6))
  else if fld w 16 6 = 4 then ifZero (fld w 14 2 = 0 ∧ fld w 12 2 = 0 ∧ fld w 10 2 = 0 ∧ fld w 0 10 = 0) (.xor (fld w 34 6) (fld w 28 6) (fld w 22 6))
  else if fld w 16 6 = 5 then ifZero (fld w 14 2 = 0 ∧ fld w 12 2 = 0 ∧ fld w 10 2 = 0 ∧ fld w 0 10 = 0) (.andn (fld w 34 6) (fld w 28 6) (fld w 22 6))
  else if fld w 16 6 = 6 then ifZero (fld w 14 2 = 0 ∧ fld w 12 2 = 0 ∧ fld w 10 2 = 0 ∧ fld w 0 10 = 0) (.shl (fld w 34 6) (fld w 28 6) (fld w 22 6))
  else if fld w 16 6 = 7 then ifZero (fld w 14 2 = 0 ∧ fld w 12 2 = 0 ∧ fld w 10 2 = 0 ∧ fld w 0 10 = 0) (.shr (fld w 34 6) (fld w 28 6) (fld w 22 6))
  else if fld w 16 6 = 8 then ifZero (fld w 14 2 = 0 ∧ fld w 12 2 = 0 ∧ fld w 10 2 = 0 ∧ fld w 0 10 = 0) (.sra (fld w 34 6) (fld w 28 6) (fld w 22 6))
  else if fld w 16 6 = 9 then ifZero (fld w 14 2 = 0 ∧ fld w 12 2 = 0 ∧ fld w 10 2 = 0 ∧ fld w 0 10 = 0) (.rol (fld w 34 6) (fld w 28 6) (fld w 22 6))
  else if fld w 16 6 = 10 then ifZero (fld w 14 2 = 0 ∧ fld w 12 2 = 0 ∧ fld w 10 2 = 0 ∧ fld w 0 10 = 0) (.ror (fld w 34 6) (fld w 28 6) (fld w 22 6))
  else if fld w 16 6 = 11 then ifZero (fld w 14 2 = 0 ∧ fld w 12 2 = 0 ∧ fld w 10 2 = 0 ∧ fld w 0 10 = 0) (.min (fld w 34 6) (fld w 28 6) (fld w 22 6))
  else if fld w 16 6 = 12 then ifZero (fld w 14 2 = 0 ∧ fld w 12 2 = 0 ∧ fld w 10 2 = 0 ∧ fld w 0 10 = 0) (.max (fld w 34 6) (fld w 28 6) (fld w 22 6))
  else if fld w 16 6 = 13 then ifZero (fld w 14 2 = 0 ∧ fld w 12 2 = 0 ∧ fld w 10 2 = 0 ∧ fld w 0 10 = 0) (.minu (fld w 34 6) (fld w 28 6) (fld w 22 6))
  else if fld w 16 6 = 14 then ifZero (fld w 14 2 = 0 ∧ fld w 12 2 = 0 ∧ fld w 10 2 = 0 ∧ fld w 0 10 = 0) (.maxu (fld w 34 6) (fld w 28 6) (fld w 22 6))
  else if fld w 16 6 = 15 then ifZero (fld w 14 2 = 0 ∧ fld w 12 2 = 0 ∧ fld w 10 2 = 0 ∧ fld w 0 10 = 0) (.seq (fld w 34 6) (fld w 28 6) (fld w 22 6))
  else if fld w 16 6 = 16 then ifZero (fld w 14 2 = 0 ∧ fld w 12 2 = 0 ∧ fld w 10 2 = 0 ∧ fld w 0 10 = 0) (.sne (fld w 34 6) (fld w 28 6) (fld w 22 6))
  else if fld w 16 6 = 17 then ifZero (fld w 14 2 = 0 ∧ fld w 12 2 = 0 ∧ fld w 10 2 = 0 ∧ fld w 0 10 = 0) (.slt (fld w 34 6) (fld w 28 6) (fld w 22 6))
  else if fld w 16 6 = 18 then ifZero (fld w 14 2 = 0 ∧ fld w 12 2 = 0 ∧ fld w 10 2 = 0 ∧ fld w 0 10 = 0) (.sltu (fld w 34 6) (fld w 28 6) (fld w 22 6))
  else if fld w 16 6 = 19 then ifZero (fld w 14 2 = 0 ∧ fld w 12 2 = 0 ∧ fld w 10 2 = 0 ∧ fld w 0 10 = 0) (.mul (fld w 34 6) (fld w 28 6) (fld w 22 6))
  else if fld w 16 6 = 20 then ifZero (fld w 14 2 = 0 ∧ fld w 12 2 = 0 ∧ fld w 10 2 = 0 ∧ fld w 0 10 = 0) (.mulh (fld w 34 6) (fld w 28 6) (fld w 22 6))
  else if fld w 16 6 = 21 then ifZero (fld w 14 2 = 0 ∧ fld w 12 2 = 0 ∧ fld w 10 2 = 0 ∧ fld w 0 10 = 0) (.mulhu (fld w 34 6) (fld w 28 6) (fld w 22 6))
  else if fld w 16 6 = 22 then ifZero (fld w 14 2 = 0 ∧ fld w 12 2 = 0 ∧ fld w 10 2 = 0 ∧ fld w 0 10 = 0) (.div (fld w 34 6) (fld w 28 6) (fld w 22 6))
  else if fld w 16 6 = 23 then ifZero (fld w 14 2 = 0 ∧ fld w 12 2 = 0 ∧ fld w 10 2 = 0 ∧ fld w 0 10 = 0) (.divu (fld w 34 6) (fld w 28 6) (fld w 22 6))
  else if fld w 16 6 = 24 then ifZero (fld w 14 2 = 0 ∧ fld w 12 2 = 0 ∧ fld w 10 2 = 0 ∧ fld w 0 10 = 0) (.rem (fld w 34 6) (fld w 28 6) (fld w 22 6))
  else if fld w 16 6 = 25 then ifZero (fld w 14 2 = 0 ∧ fld w 12 2 = 0 ∧ fld w 10 2 = 0 ∧ fld w 0 10 = 0) (.remu (fld w 34 6) (fld w 28 6) (fld w 22 6))
  else if fld w 16 6 = 26 then ifZero (fld w 22 6 = 0 ∧ fld w 14 2 = 0 ∧ fld w 12 2 = 0 ∧ fld w 10 2 = 0 ∧ fld w 0 10 = 0) (.clz (fld w 34 6) (fld w 28 6))
  else if fld w 16 6 = 27 then ifZero (fld w 22 6 = 0 ∧ fld w 14 2 = 0 ∧ fld w 12 2 = 0 ∧ fld w 10 2 = 0 ∧ fld w 0 10 = 0) (.ctz (fld w 34 6) (fld w 28 6))
  else if fld w 16 6 = 28 then ifZero (fld w 22 6 = 0 ∧ fld w 14 2 = 0 ∧ fld w 12 2 = 0 ∧ fld w 10 2 = 0 ∧ fld w 0 10 = 0) (.popc (fld w 34 6) (fld w 28 6))
  else if fld w 16 6 = 29 then ifZero (fld w 22 6 = 0 ∧ fld w 14 2 = 0 ∧ fld w 12 2 = 0 ∧ fld w 10 2 = 0 ∧ fld w 0 10 = 0) (.sextb (fld w 34 6) (fld w 28 6))
  else if fld w 16 6 = 30 then ifZero (fld w 22 6 = 0 ∧ fld w 14 2 = 0 ∧ fld w 12 2 = 0 ∧ fld w 10 2 = 0 ∧ fld w 0 10 = 0) (.sexth (fld w 34 6) (fld w 28 6))
  else if fld w 16 6 = 31 then ifZero (fld w 22 6 = 0 ∧ fld w 14 2 = 0 ∧ fld w 12 2 = 0 ∧ fld w 10 2 = 0 ∧ fld w 0 10 = 0) (.sextw (fld w 34 6) (fld w 28 6))
  else if fld w 16 6 = 32 then ifZero (fld w 22 6 = 0 ∧ fld w 14 2 = 0 ∧ fld w 12 2 = 0 ∧ fld w 10 2 = 0 ∧ fld w 0 10 = 0) (.zextw (fld w 34 6) (fld w 28 6))
  else if fld w 16 6 = 33 then ifZero (fld w 22 6 = 0 ∧ fld w 14 2 = 0 ∧ fld w 12 2 = 0 ∧ fld w 10 2 = 0 ∧ fld w 0 10 = 0) (.bswap (fld w 34 6) (fld w 28 6))
  else .error .selector

/-- Opcode 0x01: ADDI, ANDI, ORI, XORI, SHLI, SHRI, SRAI, SLTI, SLTUI, MULI. -/
def decOp01 (w : BitVec 48) : Except Reject Instr :=
  if fld w 22 6 = 0 then ifZero (True) (.addi (fld w 34 6) (fld w 28 6) (fld w 0 22))
  else if fld w 22 6 = 1 then ifZero (True) (.andi (fld w 34 6) (fld w 28 6) (fld w 0 22))
  else if fld w 22 6 = 2 then ifZero (True) (.ori (fld w 34 6) (fld w 28 6) (fld w 0 22))
  else if fld w 22 6 = 3 then ifZero (True) (.xori (fld w 34 6) (fld w 28 6) (fld w 0 22))
  else if fld w 22 6 = 4 then ifZero (fld w 6 16 = 0) (.shli (fld w 34 6) (fld w 28 6) (fld w 0 6))
  else if fld w 22 6 = 5 then ifZero (fld w 6 16 = 0) (.shri (fld w 34 6) (fld w 28 6) (fld w 0 6))
  else if fld w 22 6 = 6 then ifZero (fld w 6 16 = 0) (.srai (fld w 34 6) (fld w 28 6) (fld w 0 6))
  else if fld w 22 6 = 7 then ifZero (True) (.slti (fld w 34 6) (fld w 28 6) (fld w 0 22))
  else if fld w 22 6 = 8 then ifZero (True) (.sltui (fld w 34 6) (fld w 28 6) (fld w 0 22))
  else if fld w 22 6 = 9 then ifZero (True) (.muli (fld w 34 6) (fld w 28 6) (fld w 0 22))
  else .error .selector

/-- Opcode 0x02: LI, LI_U. -/
def decOp02 (w : BitVec 48) : Except Reject Instr :=
  if fld w 32 2 = 0 then ifZero (True) (.li (fld w 34 6) (fld w 0 32))
  else if fld w 32 2 = 1 then ifZero (True) (.liU (fld w 34 6) (fld w 0 32))
  else .error .selector

/-- Opcode 0x03: LIH. -/
def decOp03 (w : BitVec 48) : Except Reject Instr :=
  if fld w 32 2 = 0 then ifZero (True) (.lih (fld w 34 6) (fld w 0 32))
  else .error .selector

/-- Opcode 0x04: SEL. -/
def decOp04 (w : BitVec 48) : Except Reject Instr :=
  ifZero (fld w 16 6 = 0 ∧ fld w 10 6 = 0 ∧ fld w 0 10 = 0) (.sel (fld w 34 6) (fld w 28 6) (fld w 22 6))

/-- Opcode 0x08: BEQ, BNE, BLT, BGE, BLTU, BGEU. -/
def decOp08 (w : BitVec 48) : Except Reject Instr :=
  if fld w 24 4 = 0 then ifZero (True) (.beq (fld w 34 6) (fld w 28 6) (fld w 0 24))
  else if fld w 24 4 = 1 then ifZero (True) (.bne (fld w 34 6) (fld w 28 6) (fld w 0 24))
  else if fld w 24 4 = 2 then ifZero (True) (.blt (fld w 34 6) (fld w 28 6) (fld w 0 24))
  else if fld w 24 4 = 3 then ifZero (True) (.bge (fld w 34 6) (fld w 28 6) (fld w 0 24))
  else if fld w 24 4 = 4 then ifZero (True) (.bltu (fld w 34 6) (fld w 28 6) (fld w 0 24))
  else if fld w 24 4 = 5 then ifZero (True) (.bgeu (fld w 34 6) (fld w 28 6) (fld w 0 24))
  else .error .selector

/-- Opcode 0x09: BZ, BNZ. -/
def decOp09 (w : BitVec 48) : Except Reject Instr :=
  if fld w 24 4 = 0 then ifZero (fld w 28 6 = 0) (.bz (fld w 34 6) (fld w 0 24))
  else if fld w 24 4 = 1 then ifZero (fld w 28 6 = 0) (.bnz (fld w 34 6) (fld w 0 24))
  else .error .selector

/-- Opcode 0x0A: J. -/
def decOp0A (w : BitVec 48) : Except Reject Instr :=
  ifZero (fld w 34 6 = 0 ∧ fld w 32 2 = 0) (.j (fld w 0 32))

/-- Opcode 0x0B: CALL. -/
def decOp0B (w : BitVec 48) : Except Reject Instr :=
  ifZero (fld w 34 6 = 0 ∧ fld w 32 2 = 0) (.call (fld w 0 32))

/-- Opcode 0x0C: JR. -/
def decOp0C (w : BitVec 48) : Except Reject Instr :=
  ifZero (fld w 34 6 = 0 ∧ fld w 22 6 = 0 ∧ fld w 16 6 = 0 ∧ fld w 10 6 = 0 ∧ fld w 0 10 = 0) (.jr (fld w 28 6))

/-- Opcode 0x0D: CALLR. -/
def decOp0D (w : BitVec 48) : Except Reject Instr :=
  ifZero (fld w 34 6 = 0 ∧ fld w 22 6 = 0 ∧ fld w 16 6 = 0 ∧ fld w 10 6 = 0 ∧ fld w 0 10 = 0) (.callr (fld w 28 6))

/-- Opcode 0x0E: RET. -/
def decOp0E (w : BitVec 48) : Except Reject Instr :=
  ifZero (fld w 0 40 = 0) (.ret)

/-- Opcode 0x10: SPEC. -/
def decOp10 (w : BitVec 48) : Except Reject Instr :=
  if fld w 24 4 = 0 then ifZero (fld w 28 6 = 0) (.spec (fld w 34 6) (fld w 0 24))
  else .error .selector

/-- Opcode 0x11: SPECEND. -/
def decOp11 (w : BitVec 48) : Except Reject Instr :=
  ifZero (fld w 0 40 = 0) (.specend)

/-- Opcode 0x12: SPECX. -/
def decOp12 (w : BitVec 48) : Except Reject Instr :=
  ifZero (fld w 0 40 = 0) (.specx)

/-- Opcode 0x13: RNDX. -/
def decOp13 (w : BitVec 48) : Except Reject Instr :=
  ifZero (fld w 18 4 = 0 ∧ fld w 10 6 = 0 ∧ fld w 0 10 = 0) (.rndx (fld w 34 6) (fld w 28 6) (fld w 22 6) (fld w 16 2))

/-- Opcode 0x14: CSRR. -/
def decOp14 (w : BitVec 48) : Except Reject Instr :=
  ifZero (fld w 28 6 = 0 ∧ fld w 22 6 = 0 ∧ fld w 12 10 = 0) (.csrr (fld w 34 6) (fld w 0 12))

/-- Opcode 0x15: CSRW. -/
def decOp15 (w : BitVec 48) : Except Reject Instr :=
  ifZero (fld w 22 6 = 0 ∧ fld w 12 10 = 0) (.csrw (fld w 34 6) (fld w 28 6) (fld w 0 12))

/-- Opcode 0x16: CSRS. -/
def decOp16 (w : BitVec 48) : Except Reject Instr :=
  ifZero (fld w 22 6 = 0 ∧ fld w 12 10 = 0) (.csrs (fld w 34 6) (fld w 28 6) (fld w 0 12))

/-- Opcode 0x17: CSRC. -/
def decOp17 (w : BitVec 48) : Except Reject Instr :=
  ifZero (fld w 22 6 = 0 ∧ fld w 12 10 = 0) (.csrc (fld w 34 6) (fld w 28 6) (fld w 0 12))

/-- Opcode 0x18: LDB, LDBU, LDH, LDHU, LDW, LDWU, LDD. -/
def decOp18 (w : BitVec 48) : Except Reject Instr :=
  if fld w 26 2 = 0 ∧ fld w 21 1 = 0 then ifZero (True) (.ldb (fld w 34 6) (fld w 28 6) (fld w 24 2) (fld w 22 2) (fld w 0 21))
  else if fld w 26 2 = 0 ∧ fld w 21 1 = 1 then ifZero (True) (.ldbu (fld w 34 6) (fld w 28 6) (fld w 24 2) (fld w 22 2) (fld w 0 21))
  else if fld w 26 2 = 1 ∧ fld w 21 1 = 0 then ifZero (True) (.ldh (fld w 34 6) (fld w 28 6) (fld w 24 2) (fld w 22 2) (fld w 0 21))
  else if fld w 26 2 = 1 ∧ fld w 21 1 = 1 then ifZero (True) (.ldhu (fld w 34 6) (fld w 28 6) (fld w 24 2) (fld w 22 2) (fld w 0 21))
  else if fld w 26 2 = 2 ∧ fld w 21 1 = 0 then ifZero (True) (.ldw (fld w 34 6) (fld w 28 6) (fld w 24 2) (fld w 22 2) (fld w 0 21))
  else if fld w 26 2 = 2 ∧ fld w 21 1 = 1 then ifZero (True) (.ldwu (fld w 34 6) (fld w 28 6) (fld w 24 2) (fld w 22 2) (fld w 0 21))
  else if fld w 26 2 = 3 ∧ fld w 21 1 = 0 then ifZero (True) (.ldd (fld w 34 6) (fld w 28 6) (fld w 24 2) (fld w 22 2) (fld w 0 21))
  else .error .selector

/-- Opcode 0x19: STB, STH, STW, STD. -/
def decOp19 (w : BitVec 48) : Except Reject Instr :=
  if fld w 26 2 = 0 then ifZero (True) (.stb (fld w 34 6) (fld w 28 6) (fld w 24 2) (fld w 22 2) (fld w 0 22))
  else if fld w 26 2 = 1 then ifZero (True) (.sth (fld w 34 6) (fld w 28 6) (fld w 24 2) (fld w 22 2) (fld w 0 22))
  else if fld w 26 2 = 2 then ifZero (True) (.stw (fld w 34 6) (fld w 28 6) (fld w 24 2) (fld w 22 2) (fld w 0 22))
  else if fld w 26 2 = 3 then ifZero (True) (.std (fld w 34 6) (fld w 28 6) (fld w 24 2) (fld w 22 2) (fld w 0 22))
  else .error .selector

/-- Opcode 0x1A: AMADD, AMAND, AMOR, AMXOR, AMMIN, AMMAX, AMMINU, AMMAXU, AMSWAP. -/
def decOp1A (w : BitVec 48) : Except Reject Instr :=
  if fld w 16 6 = 0 ∧ fld w 11 1 = 1 then ifZero (fld w 0 10 = 0) (.amadd (fld w 34 6) (fld w 28 6) (fld w 22 6) (fld w 14 2) (fld w 12 2) (bit w 10))
  else if fld w 16 6 = 1 ∧ fld w 11 1 = 1 then ifZero (fld w 0 10 = 0) (.amand (fld w 34 6) (fld w 28 6) (fld w 22 6) (fld w 14 2) (fld w 12 2) (bit w 10))
  else if fld w 16 6 = 2 ∧ fld w 11 1 = 1 then ifZero (fld w 0 10 = 0) (.amor (fld w 34 6) (fld w 28 6) (fld w 22 6) (fld w 14 2) (fld w 12 2) (bit w 10))
  else if fld w 16 6 = 3 ∧ fld w 11 1 = 1 then ifZero (fld w 0 10 = 0) (.amxor (fld w 34 6) (fld w 28 6) (fld w 22 6) (fld w 14 2) (fld w 12 2) (bit w 10))
  else if fld w 16 6 = 4 ∧ fld w 11 1 = 1 then ifZero (fld w 0 10 = 0) (.ammin (fld w 34 6) (fld w 28 6) (fld w 22 6) (fld w 14 2) (fld w 12 2) (bit w 10))
  else if fld w 16 6 = 5 ∧ fld w 11 1 = 1 then ifZero (fld w 0 10 = 0) (.ammax (fld w 34 6) (fld w 28 6) (fld w 22 6) (fld w 14 2) (fld w 12 2) (bit w 10))
  else if fld w 16 6 = 6 ∧ fld w 11 1 = 1 then ifZero (fld w 0 10 = 0) (.amminu (fld w 34 6) (fld w 28 6) (fld w 22 6) (fld w 14 2) (fld w 12 2) (bit w 10))
  else if fld w 16 6 = 7 ∧ fld w 11 1 = 1 then ifZero (fld w 0 10 = 0) (.ammaxu (fld w 34 6) (fld w 28 6) (fld w 22 6) (fld w 14 2) (fld w 12 2) (bit w 10))
  else if fld w 16 6 = 8 ∧ fld w 11 1 = 1 then ifZero (fld w 0 10 = 0) (.amswap (fld w 34 6) (fld w 28 6) (fld w 22 6) (fld w 14 2) (fld w 12 2) (bit w 10))
  else .error .selector

/-- Opcode 0x1B: CAS. -/
def decOp1B (w : BitVec 48) : Except Reject Instr :=
  if fld w 11 1 = 1 then ifZero (fld w 16 6 = 0 ∧ fld w 0 10 = 0) (.cas (fld w 34 6) (fld w 28 6) (fld w 22 6) (fld w 14 2) (fld w 12 2) (bit w 10))
  else .error .selector

/-- Opcode 0x1C: FENCE. -/
def decOp1C (w : BitVec 48) : Except Reject Instr :=
  ifZero (fld w 34 6 = 0 ∧ fld w 28 6 = 0 ∧ fld w 22 6 = 0 ∧ fld w 16 6 = 0 ∧ fld w 10 2 = 0 ∧ fld w 0 10 = 0) (.fence (fld w 14 2) (fld w 12 2))

/-- Opcode 0x1D: PUBLISH. -/
def decOp1D (w : BitVec 48) : Except Reject Instr :=
  ifZero (fld w 22 6 = 0 ∧ fld w 16 6 = 0 ∧ fld w 10 6 = 0 ∧ fld w 0 10 = 0) (.publish (fld w 34 6) (fld w 28 6))

/-- Opcode 0x1E: CVTA_TO, CVTA_FROM. -/
def decOp1E (w : BitVec 48) : Except Reject Instr :=
  if fld w 18 1 = 0 then ifZero (fld w 22 6 = 0 ∧ fld w 19 3 = 0 ∧ fld w 10 6 = 0 ∧ fld w 0 10 = 0) (.cvtaTo (fld w 34 6) (fld w 28 6) (fld w 16 2))
  else if fld w 18 1 = 1 then ifZero (fld w 22 6 = 0 ∧ fld w 19 3 = 0 ∧ fld w 10 6 = 0 ∧ fld w 0 10 = 0) (.cvtaFrom (fld w 34 6) (fld w 28 6) (fld w 16 2))
  else .error .selector

/-- Opcode 0x1F: APTEST. -/
def decOp1F (w : BitVec 48) : Except Reject Instr :=
  ifZero (fld w 22 6 = 0 ∧ fld w 18 4 = 0 ∧ fld w 10 6 = 0 ∧ fld w 0 10 = 0) (.aptest (fld w 34 6) (fld w 28 6) (fld w 16 2))

/-- Opcode 0x20: SETVIEW. -/
def decOp20 (w : BitVec 48) : Except Reject Instr :=
  ifZero (fld w 22 6 = 0 ∧ fld w 19 3 = 0 ∧ fld w 10 6 = 0 ∧ fld w 0 10 = 0) (.setview (fld w 34 6) (fld w 28 6) (fld w 16 3))

/-- Opcode 0x21: SETA. -/
def decOp21 (w : BitVec 48) : Except Reject Instr :=
  ifZero (fld w 39 1 = 0 ∧ fld w 22 6 = 0 ∧ fld w 16 6 = 0 ∧ fld w 10 6 = 0 ∧ fld w 0 10 = 0) (.seta (fld w 34 5) (fld w 28 6))

/-- Opcode 0x22: POPV. -/
def decOp22 (w : BitVec 48) : Except Reject Instr :=
  ifZero (fld w 28 6 = 0 ∧ fld w 22 6 = 0 ∧ fld w 20 2 = 0 ∧ fld w 10 6 = 0 ∧ fld w 0 10 = 0) (.popv (fld w 34 6) (fld w 16 4))

/-- Opcode 0x23: PUSHV. -/
def decOp23 (w : BitVec 48) : Except Reject Instr :=
  ifZero (fld w 34 6 = 0 ∧ fld w 20 2 = 0 ∧ fld w 10 6 = 0 ∧ fld w 0 10 = 0) (.pushv (fld w 28 6) (fld w 22 6) (fld w 16 4))

/-- Opcode 0x24: BARINIT. -/
def decOp24 (w : BitVec 48) : Except Reject Instr :=
  ifZero (fld w 22 6 = 0) (.barinit (fld w 34 6) (fld w 28 6) (bit w 21) (fld w 9 12) (fld w 0 9))

/-- Opcode 0x25: BARARV. -/
def decOp25 (w : BitVec 48) : Except Reject Instr :=
  ifZero (fld w 22 6 = 0 ∧ fld w 9 12 = 0) (.bararv (fld w 34 6) (fld w 28 6) (bit w 21) (fld w 0 9))

/-- Opcode 0x26: BARWAIT. -/
def decOp26 (w : BitVec 48) : Except Reject Instr :=
  ifZero (fld w 22 6 = 0 ∧ fld w 9 12 = 0) (.barwait (fld w 34 6) (fld w 28 6) (bit w 21) (fld w 0 9))

/-- Opcode 0x27: BARARW. -/
def decOp27 (w : BitVec 48) : Except Reject Instr :=
  ifZero (fld w 22 6 = 0 ∧ fld w 9 12 = 0) (.bararw (fld w 34 6) (fld w 28 6) (bit w 21) (fld w 0 9))

/-- Opcode 0x28: TBINIT. -/
def decOp28 (w : BitVec 48) : Except Reject Instr :=
  ifZero (fld w 22 6 = 0) (.tbinit (fld w 34 6) (fld w 28 6) (fld w 0 22))

/-- Opcode 0x29: TBEXP. -/
def decOp29 (w : BitVec 48) : Except Reject Instr :=
  ifZero (fld w 22 6 = 0) (.tbexp (fld w 34 6) (fld w 28 6) (fld w 0 22))

/-- Opcode 0x2A: TBARV. -/
def decOp2A (w : BitVec 48) : Except Reject Instr :=
  ifZero (fld w 22 6 = 0) (.tbarv (fld w 34 6) (fld w 28 6) (fld w 0 22))

/-- Opcode 0x2B: TBWAIT. -/
def decOp2B (w : BitVec 48) : Except Reject Instr :=
  ifZero (fld w 22 6 = 0) (.tbwait (fld w 34 6) (fld w 28 6) (fld w 0 22))

/-- Opcode 0x2C: SPAWN, SPAWN_NB. -/
def decOp2C (w : BitVec 48) : Except Reject Instr :=
  if fld w 16 1 = 0 then ifZero (fld w 34 6 = 0 ∧ fld w 22 6 = 0 ∧ fld w 17 5 = 0 ∧ fld w 10 6 = 0 ∧ fld w 0 10 = 0) (.spawn (fld w 28 6))
  else if fld w 16 1 = 1 then ifZero (fld w 22 6 = 0 ∧ fld w 17 5 = 0 ∧ fld w 10 6 = 0 ∧ fld w 0 10 = 0) (.spawnNb (fld w 34 6) (fld w 28 6))
  else .error .selector

/-- Opcode 0x2D: ENQR. -/
def decOp2D (w : BitVec 48) : Except Reject Instr :=
  ifZero (fld w 34 6 = 0 ∧ fld w 16 6 = 0 ∧ fld w 10 6 = 0 ∧ fld w 0 10 = 0) (.enqr (fld w 28 6) (fld w 22 6))

/-- Opcode 0x2E: HALT. -/
def decOp2E (w : BitVec 48) : Except Reject Instr :=
  ifZero (fld w 0 40 = 0) (.halt)

/-- Opcode 0x2F: YIELD. -/
def decOp2F (w : BitVec 48) : Except Reject Instr :=
  ifZero (fld w 0 34 = 0) (.yield (fld w 34 6))

/-- Opcode 0x30: TRAP. -/
def decOp30 (w : BitVec 48) : Except Reject Instr :=
  ifZero (fld w 34 6 = 0 ∧ fld w 28 6 = 0 ∧ fld w 22 6 = 0 ∧ fld w 16 6 = 0) (.trap (fld w 0 16))

/-- Opcode 0x31: BRK. -/
def decOp31 (w : BitVec 48) : Except Reject Instr :=
  ifZero (fld w 34 6 = 0 ∧ fld w 28 6 = 0 ∧ fld w 22 6 = 0 ∧ fld w 16 6 = 0) (.brk)

/-- Opcode 0x32: RTE, RTE_SKIP. -/
def decOp32 (w : BitVec 48) : Except Reject Instr :=
  if fld w 16 1 = 0 then ifZero (fld w 22 18 = 0 ∧ fld w 17 5 = 0 ∧ fld w 0 16 = 0) (.rte)
  else if fld w 16 1 = 1 then ifZero (fld w 22 18 = 0 ∧ fld w 17 5 = 0 ∧ fld w 0 16 = 0) (.rteSkip)
  else .error .selector

/-- Opcode 0x33: WFE. -/
def decOp33 (w : BitVec 48) : Except Reject Instr :=
  ifZero (fld w 22 6 = 0 ∧ fld w 16 6 = 0 ∧ fld w 10 6 = 0 ∧ fld w 0 10 = 0) (.wfe (fld w 34 6) (fld w 28 6))

/-- Opcode 0x34: LEASE_NB, LEASE. -/
def decOp34 (w : BitVec 48) : Except Reject Instr :=
  if fld w 16 1 = 1 then ifZero (fld w 22 12 = 0 ∧ fld w 17 5 = 0 ∧ fld w 0 16 = 0) (.leaseNb (fld w 34 6))
  else if fld w 16 1 = 0 then ifZero (fld w 34 6 = 0 ∧ fld w 22 12 = 0 ∧ fld w 17 5 = 0 ∧ fld w 0 16 = 0) (.lease)
  else .error .selector

/-- Opcode 0x35: UNLEASE. -/
def decOp35 (w : BitVec 48) : Except Reject Instr :=
  ifZero (fld w 0 40 = 0) (.unlease)

/-- Opcode 0x36: INBOX, INBOX_NB. -/
def decOp36 (w : BitVec 48) : Except Reject Instr :=
  if fld w 16 1 = 0 then ifZero (fld w 22 6 = 0 ∧ fld w 17 5 = 0 ∧ fld w 10 6 = 0 ∧ fld w 0 10 = 0) (.inbox (fld w 34 6) (fld w 28 6))
  else if fld w 16 1 = 1 then ifZero (fld w 22 6 = 0 ∧ fld w 17 5 = 0 ∧ fld w 10 6 = 0 ∧ fld w 0 10 = 0) (.inboxNb (fld w 34 6) (fld w 28 6))
  else .error .selector

/-- Opcode 0x40: ALD. -/
def decOp40 (w : BitVec 48) : Except Reject Instr :=
  ifZero (True) (.ald (fld w 36 4) (fld w 31 5) (fld w 15 16) (fld w 8 7) (fld w 6 2) (fld w 3 3) (fld w 0 3))

/-- Opcode 0x41: AST. -/
def decOp41 (w : BitVec 48) : Except Reject Instr :=
  ifZero (True) (.ast (fld w 36 4) (fld w 31 5) (fld w 15 16) (fld w 8 7) (fld w 6 2) (fld w 3 3) (fld w 0 3))

/-- Opcode 0x42: AGTH. -/
def decOp42 (w : BitVec 48) : Except Reject Instr :=
  ifZero (fld w 15 4 = 0) (.agth (fld w 36 4) (fld w 31 5) (bit w 30) (fld w 25 5) (fld w 23 2) (fld w 19 4) (fld w 8 7) (fld w 6 2) (fld w 3 3) (fld w 0 3))

/-- Opcode 0x43: ASCT. -/
def decOp43 (w : BitVec 48) : Except Reject Instr :=
  ifZero (fld w 15 4 = 0) (.asct (fld w 36 4) (fld w 31 5) (bit w 30) (fld w 25 5) (fld w 23 2) (fld w 19 4) (fld w 8 7) (fld w 6 2) (fld w 3 3) (fld w 0 3))

/-- Opcode 0x44: APART. -/
def decOp44 (w : BitVec 48) : Except Reject Instr :=
  ifZero (fld w 29 2 = 0 ∧ fld w 15 8 = 0) (.apart (fld w 36 4) (fld w 31 5) (fld w 25 4) (fld w 23 2) (fld w 8 7) (fld w 6 2) (fld w 3 3) (fld w 0 3))

/-- Opcode 0x45: ARLD. -/
def decOp45 (w : BitVec 48) : Except Reject Instr :=
  ifZero (True) (.arld (fld w 36 4) (fld w 31 5) (fld w 15 16) (fld w 8 7) (fld w 6 2) (fld w 3 3) (fld w 0 3))

/-- Opcode 0x46: ARST. -/
def decOp46 (w : BitVec 48) : Except Reject Instr :=
  ifZero (True) (.arst (fld w 36 4) (fld w 31 5) (fld w 15 16) (fld w 8 7) (fld w 6 2) (fld w 3 3) (fld w 0 3))

/-- Opcode 0x47: AADD, ASUB, AAND, AOR, AXOR, ASHL, ASHR, AMUL, AMAX. -/
def decOp47 (w : BitVec 48) : Except Reject Instr :=
  if fld w 19 6 = 0 then ifZero (fld w 0 19 = 0) (.aadd (fld w 35 5) (fld w 30 5) (fld w 25 5))
  else if fld w 19 6 = 1 then ifZero (fld w 0 19 = 0) (.asub (fld w 35 5) (fld w 30 5) (fld w 25 5))
  else if fld w 19 6 = 2 then ifZero (fld w 0 19 = 0) (.aand (fld w 35 5) (fld w 30 5) (fld w 25 5))
  else if fld w 19 6 = 3 then ifZero (fld w 0 19 = 0) (.aor (fld w 35 5) (fld w 30 5) (fld w 25 5))
  else if fld w 19 6 = 4 then ifZero (fld w 0 19 = 0) (.axor (fld w 35 5) (fld w 30 5) (fld w 25 5))
  else if fld w 19 6 = 5 then ifZero (fld w 0 19 = 0) (.ashl (fld w 35 5) (fld w 30 5) (fld w 25 5))
  else if fld w 19 6 = 6 then ifZero (fld w 0 19 = 0) (.ashr (fld w 35 5) (fld w 30 5) (fld w 25 5))
  else if fld w 19 6 = 7 then ifZero (fld w 0 19 = 0) (.amul (fld w 35 5) (fld w 30 5) (fld w 25 5))
  else if fld w 19 6 = 8 then ifZero (fld w 0 19 = 0) (.amax (fld w 35 5) (fld w 30 5) (fld w 25 5))
  else .error .selector

/-- Opcode 0x48: AADDI. -/
def decOp48 (w : BitVec 48) : Except Reject Instr :=
  ifZero (fld w 25 5 = 0 ∧ fld w 19 6 = 0) (.aaddi (fld w 35 5) (fld w 30 5) (fld w 0 19))

/-- Opcode 0x49: ALI. -/
def decOp49 (w : BitVec 48) : Except Reject Instr :=
  ifZero (fld w 30 5 = 0 ∧ fld w 25 5 = 0 ∧ fld w 19 6 = 0) (.ali (fld w 35 5) (fld w 0 19))

/-- Opcode 0x4A: AFLUSH. -/
def decOp4A (w : BitVec 48) : Except Reject Instr :=
  ifZero (fld w 39 1 = 0 ∧ fld w 30 5 = 0 ∧ fld w 25 5 = 0 ∧ fld w 19 6 = 0 ∧ fld w 0 19 = 0) (.aflush (fld w 35 4))

/-- Opcode 0x4B: AMCAST. -/
def decOp4B (w : BitVec 48) : Except Reject Instr :=
  ifZero (fld w 39 1 = 0 ∧ fld w 22 3 = 0) (.amcast (fld w 35 4) (fld w 30 5) (fld w 25 5) (fld w 19 3) (fld w 0 19))

/-- Opcode 0x60: VMODE. DESIGN CHOICE: a non-zero unused d or a operand is found at check 9, as R132 lists it, behind the reserved fields of check 6 (notes/assumptions/46.md). -/
def decOp60 (w : BitVec 48) : Except Reject Instr :=
  if fld w 6 6 = 0 ∧ ¬(bit w 4 ∧ (fld w 0 3 = 6 ∨ fld w 0 3 = 7)) ∧ ¬(fld w 28 12 = 0 ∧ fld w 16 12 = 0) then
    .error (.unused (if fld w 28 12 = 0 then fld w 16 12 else fld w 28 12))
  else ifZero (fld w 6 6 = 0) (.vmode (fld w 12 4) (bit w 5) (bit w 4) (bit w 3) (fld w 0 3))

/-- Opcode 0x61: VADD. -/
def decOp61 (w : BitVec 48) : Except Reject Instr :=
  ifZero (True) (.vadd (fld w 28 12) (fld w 16 12) (fld w 4 12) (bit w 3) (fld w 0 3))

/-- Opcode 0x62: VSUB. -/
def decOp62 (w : BitVec 48) : Except Reject Instr :=
  ifZero (True) (.vsub (fld w 28 12) (fld w 16 12) (fld w 4 12) (bit w 3) (fld w 0 3))

/-- Opcode 0x63: VMUL. -/
def decOp63 (w : BitVec 48) : Except Reject Instr :=
  ifZero (True) (.vmul (fld w 28 12) (fld w 16 12) (fld w 4 12) (bit w 3) (fld w 0 3))

/-- Opcode 0x64: VMULH. -/
def decOp64 (w : BitVec 48) : Except Reject Instr :=
  ifZero (True) (.vmulh (fld w 28 12) (fld w 16 12) (fld w 4 12) (bit w 3) (fld w 0 3))

/-- Opcode 0x65: VMAD. -/
def decOp65 (w : BitVec 48) : Except Reject Instr :=
  ifZero (True) (.vmad (fld w 28 12) (fld w 16 12) (fld w 4 12) (bit w 3) (fld w 0 3))

/-- Opcode 0x66: VAND. -/
def decOp66 (w : BitVec 48) : Except Reject Instr :=
  ifZero (True) (.vand (fld w 28 12) (fld w 16 12) (fld w 4 12) (bit w 3) (fld w 0 3))

/-- Opcode 0x67: VOR. -/
def decOp67 (w : BitVec 48) : Except Reject Instr :=
  ifZero (True) (.vor (fld w 28 12) (fld w 16 12) (fld w 4 12) (bit w 3) (fld w 0 3))

/-- Opcode 0x68: VXOR. -/
def decOp68 (w : BitVec 48) : Except Reject Instr :=
  ifZero (True) (.vxor (fld w 28 12) (fld w 16 12) (fld w 4 12) (bit w 3) (fld w 0 3))

/-- Opcode 0x69: VANDN. -/
def decOp69 (w : BitVec 48) : Except Reject Instr :=
  ifZero (True) (.vandn (fld w 28 12) (fld w 16 12) (fld w 4 12) (bit w 3) (fld w 0 3))

/-- Opcode 0x6A: VSHL. -/
def decOp6A (w : BitVec 48) : Except Reject Instr :=
  ifZero (True) (.vshl (fld w 28 12) (fld w 16 12) (fld w 4 12) (bit w 3) (fld w 0 3))

/-- Opcode 0x6B: VSHR. -/
def decOp6B (w : BitVec 48) : Except Reject Instr :=
  ifZero (True) (.vshr (fld w 28 12) (fld w 16 12) (fld w 4 12) (bit w 3) (fld w 0 3))

/-- Opcode 0x6C: VSRA. -/
def decOp6C (w : BitVec 48) : Except Reject Instr :=
  ifZero (True) (.vsra (fld w 28 12) (fld w 16 12) (fld w 4 12) (bit w 3) (fld w 0 3))

/-- Opcode 0x6D: VMIN. -/
def decOp6D (w : BitVec 48) : Except Reject Instr :=
  ifZero (True) (.vmin (fld w 28 12) (fld w 16 12) (fld w 4 12) (bit w 3) (fld w 0 3))

/-- Opcode 0x6E: VMAX. -/
def decOp6E (w : BitVec 48) : Except Reject Instr :=
  ifZero (True) (.vmax (fld w 28 12) (fld w 16 12) (fld w 4 12) (bit w 3) (fld w 0 3))

/-- Opcode 0x6F: VABS. -/
def decOp6F (w : BitVec 48) : Except Reject Instr :=
  ifZero (True) (.vabs (fld w 28 12) (fld w 16 12) (fld w 4 12) (bit w 3) (fld w 0 3))

/-- Opcode 0x70: VNEG. -/
def decOp70 (w : BitVec 48) : Except Reject Instr :=
  ifZero (True) (.vneg (fld w 28 12) (fld w 16 12) (fld w 4 12) (bit w 3) (fld w 0 3))

/-- Opcode 0x71: VADDS. -/
def decOp71 (w : BitVec 48) : Except Reject Instr :=
  ifZero (True) (.vadds (fld w 28 12) (fld w 16 12) (fld w 4 12) (bit w 3) (fld w 0 3))

/-- Opcode 0x72: VSUBS. -/
def decOp72 (w : BitVec 48) : Except Reject Instr :=
  ifZero (True) (.vsubs (fld w 28 12) (fld w 16 12) (fld w 4 12) (bit w 3) (fld w 0 3))

/-- Opcode 0x73: VCNT. -/
def decOp73 (w : BitVec 48) : Except Reject Instr :=
  ifZero (True) (.vcnt (fld w 28 12) (fld w 16 12) (fld w 4 12) (bit w 3) (fld w 0 3))

/-- Opcode 0x74: VCEQ. -/
def decOp74 (w : BitVec 48) : Except Reject Instr :=
  ifZero (True) (.vceq (fld w 28 12) (fld w 16 12) (fld w 4 12) (bit w 3) (fld w 0 3))

/-- Opcode 0x75: VCNE. -/
def decOp75 (w : BitVec 48) : Except Reject Instr :=
  ifZero (True) (.vcne (fld w 28 12) (fld w 16 12) (fld w 4 12) (bit w 3) (fld w 0 3))

/-- Opcode 0x76: VCLT. -/
def decOp76 (w : BitVec 48) : Except Reject Instr :=
  ifZero (True) (.vclt (fld w 28 12) (fld w 16 12) (fld w 4 12) (bit w 3) (fld w 0 3))

/-- Opcode 0x77: VCLE. -/
def decOp77 (w : BitVec 48) : Except Reject Instr :=
  ifZero (True) (.vcle (fld w 28 12) (fld w 16 12) (fld w 4 12) (bit w 3) (fld w 0 3))

/-- Opcode 0x78: VCLTU. -/
def decOp78 (w : BitVec 48) : Except Reject Instr :=
  ifZero (True) (.vcltu (fld w 28 12) (fld w 16 12) (fld w 4 12) (bit w 3) (fld w 0 3))

/-- Opcode 0x79: VCLEU. -/
def decOp79 (w : BitVec 48) : Except Reject Instr :=
  ifZero (True) (.vcleu (fld w 28 12) (fld w 16 12) (fld w 4 12) (bit w 3) (fld w 0 3))

/-- Opcode 0x7A: VSEL. -/
def decOp7A (w : BitVec 48) : Except Reject Instr :=
  ifZero (True) (.vsel (fld w 28 12) (fld w 16 12) (fld w 4 12) (bit w 3) (fld w 0 3))

/-- Opcode 0x7B: VMOV. -/
def decOp7B (w : BitVec 48) : Except Reject Instr :=
  ifZero (True) (.vmov (fld w 28 12) (fld w 16 12) (fld w 4 12) (bit w 3) (fld w 0 3))

/-- Opcode 0x7C: VMOVI. -/
def decOp7C (w : BitVec 48) : Except Reject Instr :=
  ifZero (True) (.vmovi (fld w 28 12) (fld w 16 12) (fld w 0 16))

/-- Opcode 0x7D: VZERO. -/
def decOp7D (w : BitVec 48) : Except Reject Instr :=
  ifZero (True) (.vzero (fld w 28 12) (fld w 16 12) (fld w 4 12) (bit w 3) (fld w 0 3))

/-- Opcode 0x7E: VINV. -/
def decOp7E (w : BitVec 48) : Except Reject Instr :=
  ifZero (True) (.vinv (fld w 28 12) (fld w 16 12) (fld w 4 12) (bit w 3) (fld w 0 3))

/-- Opcode 0x7F: VCLRF. -/
def decOp7F (w : BitVec 48) : Except Reject Instr :=
  ifZero (True) (.vclrf (fld w 28 12) (fld w 16 12) (fld w 4 12) (bit w 3) (fld w 0 3))

/-- Opcode 0x80: VFADD. -/
def decOp80 (w : BitVec 48) : Except Reject Instr :=
  ifZero (True) (.vfadd (fld w 28 12) (fld w 16 12) (fld w 4 12) (bit w 3) (fld w 0 3))

/-- Opcode 0x81: VFSUB. -/
def decOp81 (w : BitVec 48) : Except Reject Instr :=
  ifZero (True) (.vfsub (fld w 28 12) (fld w 16 12) (fld w 4 12) (bit w 3) (fld w 0 3))

/-- Opcode 0x82: VFMUL. -/
def decOp82 (w : BitVec 48) : Except Reject Instr :=
  ifZero (True) (.vfmul (fld w 28 12) (fld w 16 12) (fld w 4 12) (bit w 3) (fld w 0 3))

/-- Opcode 0x83: VFMA. -/
def decOp83 (w : BitVec 48) : Except Reject Instr :=
  ifZero (True) (.vfma (fld w 28 12) (fld w 16 12) (fld w 4 12) (bit w 3) (fld w 0 3))

/-- Opcode 0x84: VFMS. -/
def decOp84 (w : BitVec 48) : Except Reject Instr :=
  ifZero (True) (.vfms (fld w 28 12) (fld w 16 12) (fld w 4 12) (bit w 3) (fld w 0 3))

/-- Opcode 0x85: VFNMA. -/
def decOp85 (w : BitVec 48) : Except Reject Instr :=
  ifZero (True) (.vfnma (fld w 28 12) (fld w 16 12) (fld w 4 12) (bit w 3) (fld w 0 3))

/-- Opcode 0x86: VFMIN. -/
def decOp86 (w : BitVec 48) : Except Reject Instr :=
  ifZero (True) (.vfmin (fld w 28 12) (fld w 16 12) (fld w 4 12) (bit w 3) (fld w 0 3))

/-- Opcode 0x87: VFMAX. -/
def decOp87 (w : BitVec 48) : Except Reject Instr :=
  ifZero (True) (.vfmax (fld w 28 12) (fld w 16 12) (fld w 4 12) (bit w 3) (fld w 0 3))

/-- Opcode 0x88: VFABS. -/
def decOp88 (w : BitVec 48) : Except Reject Instr :=
  ifZero (True) (.vfabs (fld w 28 12) (fld w 16 12) (fld w 4 12) (bit w 3) (fld w 0 3))

/-- Opcode 0x89: VFNEG. -/
def decOp89 (w : BitVec 48) : Except Reject Instr :=
  ifZero (True) (.vfneg (fld w 28 12) (fld w 16 12) (fld w 4 12) (bit w 3) (fld w 0 3))

/-- Opcode 0x8A: VRCPA. -/
def decOp8A (w : BitVec 48) : Except Reject Instr :=
  ifZero (True) (.vrcpa (fld w 28 12) (fld w 16 12) (fld w 4 12) (bit w 3) (fld w 0 3))

/-- Opcode 0x8B: VRSQA. -/
def decOp8B (w : BitVec 48) : Except Reject Instr :=
  ifZero (True) (.vrsqa (fld w 28 12) (fld w 16 12) (fld w 4 12) (bit w 3) (fld w 0 3))

/-- Opcode 0x8C: VEXP2A. -/
def decOp8C (w : BitVec 48) : Except Reject Instr :=
  ifZero (True) (.vexp2a (fld w 28 12) (fld w 16 12) (fld w 4 12) (bit w 3) (fld w 0 3))

/-- Opcode 0x8D: VLOG2A. -/
def decOp8D (w : BitVec 48) : Except Reject Instr :=
  ifZero (True) (.vlog2a (fld w 28 12) (fld w 16 12) (fld w 4 12) (bit w 3) (fld w 0 3))

/-- Opcode 0x8E: VFCEQ. -/
def decOp8E (w : BitVec 48) : Except Reject Instr :=
  ifZero (True) (.vfceq (fld w 28 12) (fld w 16 12) (fld w 4 12) (bit w 3) (fld w 0 3))

/-- Opcode 0x8F: VFCLT. -/
def decOp8F (w : BitVec 48) : Except Reject Instr :=
  ifZero (True) (.vfclt (fld w 28 12) (fld w 16 12) (fld w 4 12) (bit w 3) (fld w 0 3))

/-- Opcode 0x90: VFCLE. -/
def decOp90 (w : BitVec 48) : Except Reject Instr :=
  ifZero (True) (.vfcle (fld w 28 12) (fld w 16 12) (fld w 4 12) (bit w 3) (fld w 0 3))

/-- Opcode 0x91: VFCLASS. -/
def decOp91 (w : BitVec 48) : Except Reject Instr :=
  ifZero (True) (.vfclass (fld w 28 12) (fld w 16 12) (fld w 4 12) (bit w 3) (fld w 0 3))

/-- Opcode 0x92: VFSCL. -/
def decOp92 (w : BitVec 48) : Except Reject Instr :=
  ifZero (True) (.vfscl (fld w 28 12) (fld w 16 12) (fld w 4 12) (bit w 3) (fld w 0 3))

/-- Opcode 0x93: VCVT. -/
def decOp93 (w : BitVec 48) : Except Reject Instr :=
  ifZero (fld w 11 5 = 0) (.vcvt (fld w 28 12) (fld w 16 12) (fld w 8 3) (fld w 4 4) (bit w 3) (fld w 0 3))

/-- Opcode 0x94: VCVTSR. -/
def decOp94 (w : BitVec 48) : Except Reject Instr :=
  ifZero (True) (.vcvtsr (fld w 28 12) (fld w 16 12) (fld w 4 12) (bit w 3) (fld w 0 3))

/-- Opcode 0x95: VQNT. -/
def decOp95 (w : BitVec 48) : Except Reject Instr :=
  ifZero (True) (.vqnt (fld w 28 12) (fld w 16 12) (fld w 4 12) (bit w 3) (fld w 0 3))

/-- Opcode 0x96: VDQNT. -/
def decOp96 (w : BitVec 48) : Except Reject Instr :=
  ifZero (True) (.vdqnt (fld w 28 12) (fld w 16 12) (fld w 4 12) (bit w 3) (fld w 0 3))

/-- Opcode 0x97: VMXQ. -/
def decOp97 (w : BitVec 48) : Except Reject Instr :=
  ifZero (True) (.vmxq (fld w 28 12) (fld w 16 12) (fld w 4 12) (bit w 3) (fld w 0 3))

/-- Opcode 0x98: VMXD. -/
def decOp98 (w : BitVec 48) : Except Reject Instr :=
  ifZero (True) (.vmxd (fld w 28 12) (fld w 16 12) (fld w 4 12) (bit w 3) (fld w 0 3))

/-- Opcode 0x99: VRSUM. -/
def decOp99 (w : BitVec 48) : Except Reject Instr :=
  ifZero (True) (.vrsum (fld w 28 12) (fld w 16 12) (fld w 4 12) (bit w 3) (fld w 0 3))

/-- Opcode 0x9A: VRMAX. -/
def decOp9A (w : BitVec 48) : Except Reject Instr :=
  ifZero (True) (.vrmax (fld w 28 12) (fld w 16 12) (fld w 4 12) (bit w 3) (fld w 0 3))

/-- Opcode 0x9B: VRMIN. -/
def decOp9B (w : BitVec 48) : Except Reject Instr :=
  ifZero (True) (.vrmin (fld w 28 12) (fld w 16 12) (fld w 4 12) (bit w 3) (fld w 0 3))

/-- Opcode 0x9C: VPERM. -/
def decOp9C (w : BitVec 48) : Except Reject Instr :=
  ifZero (True) (.vperm (fld w 28 12) (fld w 16 12) (fld w 4 12) (bit w 3) (fld w 0 3))

/-- Opcode 0x9D: VSLIDE. -/
def decOp9D (w : BitVec 48) : Except Reject Instr :=
  ifZero (fld w 12 4 = 0) (.vslide (fld w 28 12) (fld w 16 12) (fld w 4 8) (bit w 3) (fld w 0 3))

/-- Opcode 0x9E: VBCAST. -/
def decOp9E (w : BitVec 48) : Except Reject Instr :=
  ifZero (fld w 11 5 = 0) (.vbcast (fld w 28 12) (fld w 16 12) (fld w 4 7) (bit w 3) (fld w 0 3))

/-- Opcode 0x9F: VTRANS. -/
def decOp9F (w : BitVec 48) : Except Reject Instr :=
  ifZero (True) (.vtrans (fld w 28 12) (fld w 16 12) (fld w 4 12) (bit w 3) (fld w 0 3))

/-- Opcode 0xA0: VEXT. -/
def decOpA0 (w : BitVec 48) : Except Reject Instr :=
  ifZero (fld w 11 5 = 0) (.vext (fld w 28 12) (fld w 16 12) (fld w 4 7) (bit w 3) (fld w 0 3))

/-- Opcode 0xA1: VINS. -/
def decOpA1 (w : BitVec 48) : Except Reject Instr :=
  ifZero (fld w 11 5 = 0) (.vins (fld w 28 12) (fld w 16 12) (fld w 4 7) (bit w 3) (fld w 0 3))

/-- Opcode 0xA2: VIOTA. -/
def decOpA2 (w : BitVec 48) : Except Reject Instr :=
  ifZero (True) (.viota (fld w 28 12) (fld w 16 12) (fld w 4 12) (bit w 3) (fld w 0 3))

/-- Opcode 0xA3: VPACK. -/
def decOpA3 (w : BitVec 48) : Except Reject Instr :=
  ifZero (True) (.vpack (fld w 28 12) (fld w 16 12) (fld w 4 12) (bit w 3) (fld w 0 3))

/-- Opcode 0xA4: VUNPK. -/
def decOpA4 (w : BitVec 48) : Except Reject Instr :=
  ifZero (True) (.vunpk (fld w 28 12) (fld w 16 12) (fld w 4 12) (bit w 3) (fld w 0 3))

/-- Opcode 0xA5: VRNG. -/
def decOpA5 (w : BitVec 48) : Except Reject Instr :=
  ifZero (fld w 6 10 = 0) (.vrng (fld w 28 12) (fld w 16 12) (fld w 4 2) (bit w 3) (fld w 0 3))

/-- Opcode 0xB0: MFMT. -/
def decOpB0 (w : BitVec 48) : Except Reject Instr :=
  ifZero (fld w 28 6 = 0 ∧ fld w 27 1 = 0 ∧ fld w 21 6 = 0 ∧ fld w 18 3 = 0 ∧ fld w 0 12 = 0) (.mfmt (fld w 34 6) (fld w 15 3) (fld w 12 3))

/-- Opcode 0xB1: MMA. -/
def decOpB1 (w : BitVec 48) : Except Reject Instr :=
  ifZero (fld w 0 12 = 0) (.mma (fld w 34 6) (fld w 28 6) (bit w 27) (fld w 25 2) (fld w 23 2) (fld w 21 2) (bit w 20) (bit w 19) (bit w 18) (fld w 15 3) (fld w 12 3))

/-- Opcode 0xB2: MMAS. -/
def decOpB2 (w : BitVec 48) : Except Reject Instr :=
  ifZero (fld w 0 12 = 0) (.mmas (fld w 34 6) (fld w 28 6) (bit w 27) (fld w 25 2) (fld w 23 2) (fld w 21 2) (bit w 20) (bit w 19) (bit w 18) (fld w 15 3) (fld w 12 3))

/-- Opcode 0xB3: MRESC. -/
def decOpB3 (w : BitVec 48) : Except Reject Instr :=
  ifZero (fld w 28 6 = 0 ∧ fld w 21 2 = 0 ∧ fld w 19 2 = 0 ∧ fld w 18 1 = 0 ∧ fld w 0 12 = 0) (.mresc (fld w 34 6) (bit w 27) (fld w 25 2) (fld w 23 2) (fld w 15 3) (fld w 12 3))

/-- Opcode 0xB4: MZERO. -/
def decOpB4 (w : BitVec 48) : Except Reject Instr :=
  ifZero (fld w 28 6 = 0 ∧ fld w 21 2 = 0 ∧ fld w 19 2 = 0 ∧ fld w 0 12 = 0) (.mzero (fld w 34 6) (bit w 27) (fld w 25 2) (fld w 23 2) (bit w 18) (fld w 15 3) (fld w 12 3))

/-- Opcode 0xB5: MLDAC. -/
def decOpB5 (w : BitVec 48) : Except Reject Instr :=
  ifZero (fld w 28 6 = 0 ∧ fld w 21 2 = 0 ∧ fld w 19 2 = 0 ∧ fld w 18 1 = 0 ∧ fld w 0 12 = 0) (.mldac (fld w 34 6) (bit w 27) (fld w 25 2) (fld w 23 2) (fld w 15 3) (fld w 12 3))

/-- Opcode 0xB6: MSTAC. -/
def decOpB6 (w : BitVec 48) : Except Reject Instr :=
  ifZero (fld w 28 6 = 0 ∧ fld w 21 2 = 0 ∧ fld w 19 2 = 0 ∧ fld w 0 12 = 0) (.mstac (fld w 34 6) (bit w 27) (fld w 25 2) (fld w 23 2) (bit w 18) (fld w 15 3) (fld w 12 3))

/-- Opcode 0xB7: MSTSM. -/
def decOpB7 (w : BitVec 48) : Except Reject Instr :=
  ifZero (fld w 28 6 = 0 ∧ fld w 21 2 = 0 ∧ fld w 19 2 = 0 ∧ fld w 0 12 = 0) (.mstsm (fld w 34 6) (bit w 27) (fld w 25 2) (fld w 23 2) (bit w 18) (fld w 15 3) (fld w 12 3))

/-- Opcode 0xB8: MNORM. -/
def decOpB8 (w : BitVec 48) : Except Reject Instr :=
  ifZero (fld w 28 6 = 0 ∧ fld w 21 2 = 0 ∧ fld w 19 2 = 0 ∧ fld w 0 12 = 0) (.mnorm (fld w 34 6) (bit w 27) (fld w 25 2) (fld w 23 2) (bit w 18) (fld w 15 3) (fld w 12 3))

/-- Opcode 0xC0: COPY. -/
def decOpC0 (w : BitVec 48) : Except Reject Instr :=
  ifZero (fld w 22 6 = 0 ∧ fld w 16 6 = 0) (.copy (fld w 34 6) (fld w 28 6) (fld w 14 2) (fld w 0 14))

/-- Opcode 0xC1: TLOAD. -/
def decOpC1 (w : BitVec 48) : Except Reject Instr :=
  ifZero (True) (.tload (fld w 34 6) (fld w 28 6) (fld w 22 6) (fld w 16 6) (fld w 14 2) (fld w 0 14))

/-- Opcode 0xC2: TSTORE. -/
def decOpC2 (w : BitVec 48) : Except Reject Instr :=
  ifZero (True) (.tstore (fld w 34 6) (fld w 28 6) (fld w 22 6) (fld w 16 6) (fld w 14 2) (fld w 0 14))

/-- Opcode 0xC3: TSEAL, TSEAL_CB. -/
def decOpC3 (w : BitVec 48) : Except Reject Instr :=
  if fld w 0 1 = 0 then ifZero (fld w 16 6 = 0 ∧ fld w 15 1 = 0 ∧ fld w 1 13 = 0) (.tseal (fld w 34 6) (fld w 28 6) (fld w 22 6) (bit w 14))
  else if fld w 0 1 = 1 then ifZero (fld w 16 6 = 0 ∧ fld w 15 1 = 0 ∧ fld w 1 13 = 0) (.tsealCb (fld w 34 6) (fld w 28 6) (fld w 22 6) (bit w 14))
  else .error .selector

/-- Opcode 0xC4: TMCAST. -/
def decOpC4 (w : BitVec 48) : Except Reject Instr :=
  ifZero (True) (.tmcast (fld w 34 6) (fld w 28 6) (fld w 22 6) (fld w 16 6) (fld w 14 2) (fld w 0 14))

/-- Opcode 0xC5: PSTORE. -/
def decOpC5 (w : BitVec 48) : Except Reject Instr :=
  ifZero (True) (.pstore (fld w 34 6) (fld w 28 6) (fld w 22 6) (fld w 16 6) (fld w 14 2) (fld w 0 14))

/-- Opcode 0xC6: TPARK. -/
def decOpC6 (w : BitVec 48) : Except Reject Instr :=
  ifZero (True) (.tpark (fld w 34 6) (fld w 28 6) (fld w 22 6) (fld w 16 6) (fld w 14 2) (fld w 0 14))

/-- Opcode 0xC7: TUNPARK. -/
def decOpC7 (w : BitVec 48) : Except Reject Instr :=
  ifZero (fld w 16 6 = 0) (.tunpark (fld w 34 6) (fld w 28 6) (fld w 22 6) (fld w 14 2) (fld w 0 14))

/-- Opcode 0xC8: TREPL. -/
def decOpC8 (w : BitVec 48) : Except Reject Instr :=
  ifZero (True) (.trepl (fld w 34 6) (fld w 28 6) (fld w 22 6) (fld w 16 6) (fld w 14 2) (fld w 0 14))

/-- Opcode 0xC9: REQNT. -/
def decOpC9 (w : BitVec 48) : Except Reject Instr :=
  ifZero (True) (.reqnt (fld w 34 6) (fld w 28 6) (fld w 22 6) (fld w 16 6) (fld w 14 2) (fld w 0 14))

/-- Opcode 0xCA: TDROP. -/
def decOpCA (w : BitVec 48) : Except Reject Instr :=
  ifZero (fld w 16 6 = 0) (.tdrop (fld w 34 6) (fld w 28 6) (fld w 22 6) (fld w 14 2) (fld w 0 14))

/-- Opcode 0xD0: HJOIN. -/
def decOpD0 (w : BitVec 48) : Except Reject Instr :=
  ifZero (fld w 18 4 = 0 ∧ fld w 16 2 = 0 ∧ fld w 0 16 = 0) (.hjoin (fld w 34 6) (fld w 28 6) (fld w 22 6))

/-- Opcode 0xD1: HLEAVE. -/
def decOpD1 (w : BitVec 48) : Except Reject Instr :=
  ifZero (fld w 22 6 = 0 ∧ fld w 18 4 = 0 ∧ fld w 16 2 = 0 ∧ fld w 0 16 = 0) (.hleave (fld w 34 6) (fld w 28 6))

/-- Opcode 0xD2: HCONTRIB. -/
def decOpD2 (w : BitVec 48) : Except Reject Instr :=
  ifZero (fld w 18 4 = 0 ∧ fld w 16 2 = 0 ∧ fld w 12 4 = 0) (.hcontrib (fld w 34 6) (fld w 28 6) (fld w 22 6) (fld w 0 12))

/-- Opcode 0xD3: HWAIT. -/
def decOpD3 (w : BitVec 48) : Except Reject Instr :=
  ifZero (fld w 18 4 = 0 ∧ fld w 16 2 = 0 ∧ fld w 13 3 = 0) (.hwait (fld w 34 6) (fld w 28 6) (fld w 22 6) (bit w 12) (fld w 0 12))

/-- Opcode 0xD4: HSTAT_ROSTER, HSTAT_GROUP, HSTAT_MEMBER. -/
def decOpD4 (w : BitVec 48) : Except Reject Instr :=
  if fld w 0 2 = 0 then ifZero (fld w 18 4 = 0 ∧ fld w 16 2 = 0 ∧ fld w 2 14 = 0) (.hstatRoster (fld w 34 6) (fld w 28 6) (fld w 22 6))
  else if fld w 0 2 = 1 then ifZero (fld w 18 4 = 0 ∧ fld w 16 2 = 0 ∧ fld w 2 14 = 0) (.hstatGroup (fld w 34 6) (fld w 28 6) (fld w 22 6))
  else if fld w 0 2 = 2 then ifZero (fld w 18 4 = 0 ∧ fld w 16 2 = 0 ∧ fld w 2 14 = 0) (.hstatMember (fld w 34 6) (fld w 28 6) (fld w 22 6))
  else .error .selector

/-- Opcode 0xD5: HSYNC. -/
def decOpD5 (w : BitVec 48) : Except Reject Instr :=
  ifZero (fld w 22 6 = 0 ∧ fld w 18 4 = 0 ∧ fld w 16 2 = 0 ∧ fld w 0 16 = 0) (.hsync (fld w 34 6) (fld w 28 6))

/-- Opcode 0xD6: ROPEN, ROPEN_CELL. -/
def decOpD6 (w : BitVec 48) : Except Reject Instr :=
  if fld w 15 1 = 0 then ifZero (fld w 16 2 = 0 ∧ fld w 12 2 = 0 ∧ fld w 7 1 = 0) (.ropen (fld w 34 6) (fld w 28 6) (fld w 22 6) (fld w 18 4) (bit w 14) (fld w 8 4) (fld w 0 7))
  else if fld w 15 1 = 1 then ifZero (fld w 22 6 = 0 ∧ fld w 16 2 = 0 ∧ fld w 12 2 = 0 ∧ fld w 7 1 = 0 ∧ fld w 0 7 = 0) (.ropenCell (fld w 34 6) (fld w 28 6) (fld w 18 4) (bit w 14) (fld w 8 4))
  else .error .selector

/-- Opcode 0xD7: RREL. -/
def decOpD7 (w : BitVec 48) : Except Reject Instr :=
  ifZero (fld w 28 6 = 0 ∧ fld w 22 6 = 0 ∧ fld w 16 2 = 0 ∧ fld w 0 16 = 0) (.rrel (fld w 34 6) (fld w 18 4))

/-- Opcode 0xD8: RRENEW. -/
def decOpD8 (w : BitVec 48) : Except Reject Instr :=
  ifZero (fld w 28 6 = 0 ∧ fld w 22 6 = 0 ∧ fld w 16 2 = 0 ∧ fld w 12 4 = 0 ∧ fld w 0 8 = 0) (.rrenew (fld w 34 6) (fld w 18 4) (fld w 8 4))

/-- Opcode 0xD9: RSTAT. -/
def decOpD9 (w : BitVec 48) : Except Reject Instr :=
  ifZero (fld w 28 6 = 0 ∧ fld w 22 6 = 0 ∧ fld w 16 2 = 0 ∧ fld w 0 16 = 0) (.rstat (fld w 34 6) (fld w 18 4))

/-- Opcode 0xE0: NOP. -/
def decOpE0 (w : BitVec 48) : Except Reject Instr :=
  ifZero (fld w 0 40 = 0) (.nop)

/-- Opcode 0xE1: LOOP. -/
def decOpE1 (w : BitVec 48) : Except Reject Instr :=
  ifZero (fld w 24 1 = 0) (.loop (fld w 38 2) (fld w 26 12) (bit w 25) (fld w 0 24))

/-- Opcode 0xE2: LOOPI. -/
def decOpE2 (w : BitVec 48) : Except Reject Instr :=
  ifZero (fld w 24 1 = 0) (.loopi (fld w 38 2) (fld w 26 12) (bit w 25) (fld w 0 24))

/-- Opcode 0xE3: LOOPB. -/
def decOpE3 (w : BitVec 48) : Except Reject Instr :=
  ifZero (fld w 25 1 = 0 ∧ fld w 24 1 = 0) (.loopb (fld w 38 2) (fld w 26 12) (fld w 20 4) (fld w 0 20))

/-- Opcode 0xE4: TKPUSH. -/
def decOpE4 (w : BitVec 48) : Except Reject Instr :=
  ifZero (fld w 34 6 = 0 ∧ fld w 32 2 = 0 ∧ fld w 3 29 = 0) (.tkpush (fld w 0 3))

/-- Opcode 0xE5: TKPOP. -/
def decOpE5 (w : BitVec 48) : Except Reject Instr :=
  ifZero (fld w 34 6 = 0 ∧ fld w 32 2 = 0 ∧ fld w 3 29 = 0) (.tkpop (fld w 0 3))

/-- Opcode 0xE6: SHALT. -/
def decOpE6 (w : BitVec 48) : Except Reject Instr :=
  ifZero (fld w 0 40 = 0) (.shalt)

/-- Opcode 0xE7: SJ. -/
def decOpE7 (w : BitVec 48) : Except Reject Instr :=
  ifZero (fld w 38 2 = 0 ∧ fld w 32 2 = 0) (.sj (bit w 37) (fld w 34 3) (fld w 0 32))

/-- Opcode 0xE8: PRSET. -/
def decOpE8 (w : BitVec 48) : Except Reject Instr :=
  ifZero (fld w 34 6 = 0 ∧ fld w 32 2 = 0 ∧ fld w 16 16 = 0 ∧ fld w 8 1 = 0 ∧ fld w 0 1 = 0) (.prset (fld w 9 7) (fld w 1 7))

/-- The instruction a word names by its opcode and selectors, its reserved fields zero (checks 3, 5 and 6). -/
def decodeFields (w : BitVec 48) : Except Reject Instr :=
  match (fld w 40 8).toNat with
  | 0x00 => decOp00 w
  | 0x01 => decOp01 w
  | 0x02 => decOp02 w
  | 0x03 => decOp03 w
  | 0x04 => decOp04 w
  | 0x08 => decOp08 w
  | 0x09 => decOp09 w
  | 0x0A => decOp0A w
  | 0x0B => decOp0B w
  | 0x0C => decOp0C w
  | 0x0D => decOp0D w
  | 0x0E => decOp0E w
  | 0x10 => decOp10 w
  | 0x11 => decOp11 w
  | 0x12 => decOp12 w
  | 0x13 => decOp13 w
  | 0x14 => decOp14 w
  | 0x15 => decOp15 w
  | 0x16 => decOp16 w
  | 0x17 => decOp17 w
  | 0x18 => decOp18 w
  | 0x19 => decOp19 w
  | 0x1A => decOp1A w
  | 0x1B => decOp1B w
  | 0x1C => decOp1C w
  | 0x1D => decOp1D w
  | 0x1E => decOp1E w
  | 0x1F => decOp1F w
  | 0x20 => decOp20 w
  | 0x21 => decOp21 w
  | 0x22 => decOp22 w
  | 0x23 => decOp23 w
  | 0x24 => decOp24 w
  | 0x25 => decOp25 w
  | 0x26 => decOp26 w
  | 0x27 => decOp27 w
  | 0x28 => decOp28 w
  | 0x29 => decOp29 w
  | 0x2A => decOp2A w
  | 0x2B => decOp2B w
  | 0x2C => decOp2C w
  | 0x2D => decOp2D w
  | 0x2E => decOp2E w
  | 0x2F => decOp2F w
  | 0x30 => decOp30 w
  | 0x31 => decOp31 w
  | 0x32 => decOp32 w
  | 0x33 => decOp33 w
  | 0x34 => decOp34 w
  | 0x35 => decOp35 w
  | 0x36 => decOp36 w
  | 0x40 => decOp40 w
  | 0x41 => decOp41 w
  | 0x42 => decOp42 w
  | 0x43 => decOp43 w
  | 0x44 => decOp44 w
  | 0x45 => decOp45 w
  | 0x46 => decOp46 w
  | 0x47 => decOp47 w
  | 0x48 => decOp48 w
  | 0x49 => decOp49 w
  | 0x4A => decOp4A w
  | 0x4B => decOp4B w
  | 0x60 => decOp60 w
  | 0x61 => decOp61 w
  | 0x62 => decOp62 w
  | 0x63 => decOp63 w
  | 0x64 => decOp64 w
  | 0x65 => decOp65 w
  | 0x66 => decOp66 w
  | 0x67 => decOp67 w
  | 0x68 => decOp68 w
  | 0x69 => decOp69 w
  | 0x6A => decOp6A w
  | 0x6B => decOp6B w
  | 0x6C => decOp6C w
  | 0x6D => decOp6D w
  | 0x6E => decOp6E w
  | 0x6F => decOp6F w
  | 0x70 => decOp70 w
  | 0x71 => decOp71 w
  | 0x72 => decOp72 w
  | 0x73 => decOp73 w
  | 0x74 => decOp74 w
  | 0x75 => decOp75 w
  | 0x76 => decOp76 w
  | 0x77 => decOp77 w
  | 0x78 => decOp78 w
  | 0x79 => decOp79 w
  | 0x7A => decOp7A w
  | 0x7B => decOp7B w
  | 0x7C => decOp7C w
  | 0x7D => decOp7D w
  | 0x7E => decOp7E w
  | 0x7F => decOp7F w
  | 0x80 => decOp80 w
  | 0x81 => decOp81 w
  | 0x82 => decOp82 w
  | 0x83 => decOp83 w
  | 0x84 => decOp84 w
  | 0x85 => decOp85 w
  | 0x86 => decOp86 w
  | 0x87 => decOp87 w
  | 0x88 => decOp88 w
  | 0x89 => decOp89 w
  | 0x8A => decOp8A w
  | 0x8B => decOp8B w
  | 0x8C => decOp8C w
  | 0x8D => decOp8D w
  | 0x8E => decOp8E w
  | 0x8F => decOp8F w
  | 0x90 => decOp90 w
  | 0x91 => decOp91 w
  | 0x92 => decOp92 w
  | 0x93 => decOp93 w
  | 0x94 => decOp94 w
  | 0x95 => decOp95 w
  | 0x96 => decOp96 w
  | 0x97 => decOp97 w
  | 0x98 => decOp98 w
  | 0x99 => decOp99 w
  | 0x9A => decOp9A w
  | 0x9B => decOp9B w
  | 0x9C => decOp9C w
  | 0x9D => decOp9D w
  | 0x9E => decOp9E w
  | 0x9F => decOp9F w
  | 0xA0 => decOpA0 w
  | 0xA1 => decOpA1 w
  | 0xA2 => decOpA2 w
  | 0xA3 => decOpA3 w
  | 0xA4 => decOpA4 w
  | 0xA5 => decOpA5 w
  | 0xB0 => decOpB0 w
  | 0xB1 => decOpB1 w
  | 0xB2 => decOpB2 w
  | 0xB3 => decOpB3 w
  | 0xB4 => decOpB4 w
  | 0xB5 => decOpB5 w
  | 0xB6 => decOpB6 w
  | 0xB7 => decOpB7 w
  | 0xB8 => decOpB8 w
  | 0xC0 => decOpC0 w
  | 0xC1 => decOpC1 w
  | 0xC2 => decOpC2 w
  | 0xC3 => decOpC3 w
  | 0xC4 => decOpC4 w
  | 0xC5 => decOpC5 w
  | 0xC6 => decOpC6 w
  | 0xC7 => decOpC7 w
  | 0xC8 => decOpC8 w
  | 0xC9 => decOpC9 w
  | 0xCA => decOpCA w
  | 0xD0 => decOpD0 w
  | 0xD1 => decOpD1 w
  | 0xD2 => decOpD2 w
  | 0xD3 => decOpD3 w
  | 0xD4 => decOpD4 w
  | 0xD5 => decOpD5 w
  | 0xD6 => decOpD6 w
  | 0xD7 => decOpD7 w
  | 0xD8 => decOpD8 w
  | 0xD9 => decOpD9 w
  | 0xE0 => decOpE0 w
  | 0xE1 => decOpE1 w
  | 0xE2 => decOpE2 w
  | 0xE3 => decOpE3 w
  | 0xE4 => decOpE4 w
  | 0xE5 => decOpE5 w
  | 0xE6 => decOpE6 w
  | 0xE7 => decOpE7 w
  | 0xE8 => decOpE8 w
  | _ => .error .opcode

/-- The checks 4 and 6 to 9 that a named instruction must pass in stream σ. -/
def checkWord (σ : Strm) (i : Instr) : Except Reject Instr :=
  if !i.owner.allows σ then .error .foreign
  else if !i.fieldsOk σ then .error .reserved
  else if !i.modifiersOk then .error .modifiers
  else if !i.offsetOk then .error (.offset i.offsetField)
  else if !i.operandsOk σ then .error .operand
  else .ok i

/-- Opcodes of each stream's range (R147): used to name a foreign word before its fields are looked at. -/
def opcodeOwner (op : BitVec 8) : Owner :=
  if op.toNat < 0x40 then .cOnly
  else if op.toNat < 0x60 then .aOnly
  else if op.toNat < 0xB0 then .vOnly
  else if op.toNat < 0xE0 then .cOnly
  else .common

/-- Decode a word in stream σ (R147, R150, R151). -/
def decode (σ : Strm) (w : BitVec 48) : Except Reject Instr :=
  match decodeFields w with
  | .error .opcode => .error .opcode
  | r =>
    if !(opcodeOwner (fld w 40 8)).allows σ then .error .foreign
    else match r with
      | .error e => .error e
      | .ok i => checkWord σ i

/-- The word in its six bytes, the first the least significant (R2, R125). -/
def wordBytes (w : BitVec 48) : List Byte := (List.range 6).map fun k => w.extractLsb' (8 * k) 8

/-- The word that six bytes hold (R2). -/
def wordOfBytes (bs : List Byte) : BitVec 48 :=
  bs.foldr (fun b acc => (acc <<< 8) ||| b.setWidth 48) 0

/-- Decode the first six bytes of a list; `none` where fewer are given. -/
def decodeBytes (σ : Strm) : List Byte → Option (Except Reject Instr)
  | b0 :: b1 :: b2 :: b3 :: b4 :: b5 :: _ => some (decode σ (wordOfBytes [b0, b1, b2, b3, b4, b5]))
  | _ => none

/-- The stream that decodes a word with this opcode: its owner, the C-stream for the common range. -/
def streamOfOpcode (op : BitVec 8) : Strm :=
  match opcodeOwner op with
  | .aOnly => .a
  | .vOnly => .v
  | _ => .c

/-- The host's question: the instruction read from a word whose low bits are `w` (one 48-bit word; the bits above `nbits` are 0), decoded by the stream that owns its opcode. The word is laid out in its six bytes and read back from them; a step of the device has no bits and no word. -/
def decodeTableWord (nbits w : Nat) : Option Instr :=
  let word : BitVec 48 := BitVec.ofNat 48 (w % 2 ^ nbits)
  if nbits = 0 then none
  else match decodeBytes (streamOfOpcode (fld word 40 8)) (wordBytes word) with
    | some (.ok i) => some i
    | _ => none

/-- The word of an instruction (R126, R146 to R149); a step of the device has none. -/
def encode : Instr → Option (BitVec 48)
  | .add rd ra rb => some (0x00#8 ++ (rd ++ (ra ++ (rb ++ (0#6 ++ (0#2 ++ (0#2 ++ (0#2 ++ (0#10)))))))))
  | .sub rd ra rb => some (0x00#8 ++ (rd ++ (ra ++ (rb ++ (1#6 ++ (0#2 ++ (0#2 ++ (0#2 ++ (0#10)))))))))
  | .and rd ra rb => some (0x00#8 ++ (rd ++ (ra ++ (rb ++ (2#6 ++ (0#2 ++ (0#2 ++ (0#2 ++ (0#10)))))))))
  | .or rd ra rb => some (0x00#8 ++ (rd ++ (ra ++ (rb ++ (3#6 ++ (0#2 ++ (0#2 ++ (0#2 ++ (0#10)))))))))
  | .xor rd ra rb => some (0x00#8 ++ (rd ++ (ra ++ (rb ++ (4#6 ++ (0#2 ++ (0#2 ++ (0#2 ++ (0#10)))))))))
  | .andn rd ra rb => some (0x00#8 ++ (rd ++ (ra ++ (rb ++ (5#6 ++ (0#2 ++ (0#2 ++ (0#2 ++ (0#10)))))))))
  | .shl rd ra rb => some (0x00#8 ++ (rd ++ (ra ++ (rb ++ (6#6 ++ (0#2 ++ (0#2 ++ (0#2 ++ (0#10)))))))))
  | .shr rd ra rb => some (0x00#8 ++ (rd ++ (ra ++ (rb ++ (7#6 ++ (0#2 ++ (0#2 ++ (0#2 ++ (0#10)))))))))
  | .sra rd ra rb => some (0x00#8 ++ (rd ++ (ra ++ (rb ++ (8#6 ++ (0#2 ++ (0#2 ++ (0#2 ++ (0#10)))))))))
  | .rol rd ra rb => some (0x00#8 ++ (rd ++ (ra ++ (rb ++ (9#6 ++ (0#2 ++ (0#2 ++ (0#2 ++ (0#10)))))))))
  | .ror rd ra rb => some (0x00#8 ++ (rd ++ (ra ++ (rb ++ (10#6 ++ (0#2 ++ (0#2 ++ (0#2 ++ (0#10)))))))))
  | .min rd ra rb => some (0x00#8 ++ (rd ++ (ra ++ (rb ++ (11#6 ++ (0#2 ++ (0#2 ++ (0#2 ++ (0#10)))))))))
  | .max rd ra rb => some (0x00#8 ++ (rd ++ (ra ++ (rb ++ (12#6 ++ (0#2 ++ (0#2 ++ (0#2 ++ (0#10)))))))))
  | .minu rd ra rb => some (0x00#8 ++ (rd ++ (ra ++ (rb ++ (13#6 ++ (0#2 ++ (0#2 ++ (0#2 ++ (0#10)))))))))
  | .maxu rd ra rb => some (0x00#8 ++ (rd ++ (ra ++ (rb ++ (14#6 ++ (0#2 ++ (0#2 ++ (0#2 ++ (0#10)))))))))
  | .seq rd ra rb => some (0x00#8 ++ (rd ++ (ra ++ (rb ++ (15#6 ++ (0#2 ++ (0#2 ++ (0#2 ++ (0#10)))))))))
  | .sne rd ra rb => some (0x00#8 ++ (rd ++ (ra ++ (rb ++ (16#6 ++ (0#2 ++ (0#2 ++ (0#2 ++ (0#10)))))))))
  | .slt rd ra rb => some (0x00#8 ++ (rd ++ (ra ++ (rb ++ (17#6 ++ (0#2 ++ (0#2 ++ (0#2 ++ (0#10)))))))))
  | .sltu rd ra rb => some (0x00#8 ++ (rd ++ (ra ++ (rb ++ (18#6 ++ (0#2 ++ (0#2 ++ (0#2 ++ (0#10)))))))))
  | .mul rd ra rb => some (0x00#8 ++ (rd ++ (ra ++ (rb ++ (19#6 ++ (0#2 ++ (0#2 ++ (0#2 ++ (0#10)))))))))
  | .mulh rd ra rb => some (0x00#8 ++ (rd ++ (ra ++ (rb ++ (20#6 ++ (0#2 ++ (0#2 ++ (0#2 ++ (0#10)))))))))
  | .mulhu rd ra rb => some (0x00#8 ++ (rd ++ (ra ++ (rb ++ (21#6 ++ (0#2 ++ (0#2 ++ (0#2 ++ (0#10)))))))))
  | .div rd ra rb => some (0x00#8 ++ (rd ++ (ra ++ (rb ++ (22#6 ++ (0#2 ++ (0#2 ++ (0#2 ++ (0#10)))))))))
  | .divu rd ra rb => some (0x00#8 ++ (rd ++ (ra ++ (rb ++ (23#6 ++ (0#2 ++ (0#2 ++ (0#2 ++ (0#10)))))))))
  | .rem rd ra rb => some (0x00#8 ++ (rd ++ (ra ++ (rb ++ (24#6 ++ (0#2 ++ (0#2 ++ (0#2 ++ (0#10)))))))))
  | .remu rd ra rb => some (0x00#8 ++ (rd ++ (ra ++ (rb ++ (25#6 ++ (0#2 ++ (0#2 ++ (0#2 ++ (0#10)))))))))
  | .clz rd ra => some (0x00#8 ++ (rd ++ (ra ++ (0#6 ++ (26#6 ++ (0#2 ++ (0#2 ++ (0#2 ++ (0#10)))))))))
  | .ctz rd ra => some (0x00#8 ++ (rd ++ (ra ++ (0#6 ++ (27#6 ++ (0#2 ++ (0#2 ++ (0#2 ++ (0#10)))))))))
  | .popc rd ra => some (0x00#8 ++ (rd ++ (ra ++ (0#6 ++ (28#6 ++ (0#2 ++ (0#2 ++ (0#2 ++ (0#10)))))))))
  | .sextb rd ra => some (0x00#8 ++ (rd ++ (ra ++ (0#6 ++ (29#6 ++ (0#2 ++ (0#2 ++ (0#2 ++ (0#10)))))))))
  | .sexth rd ra => some (0x00#8 ++ (rd ++ (ra ++ (0#6 ++ (30#6 ++ (0#2 ++ (0#2 ++ (0#2 ++ (0#10)))))))))
  | .sextw rd ra => some (0x00#8 ++ (rd ++ (ra ++ (0#6 ++ (31#6 ++ (0#2 ++ (0#2 ++ (0#2 ++ (0#10)))))))))
  | .zextw rd ra => some (0x00#8 ++ (rd ++ (ra ++ (0#6 ++ (32#6 ++ (0#2 ++ (0#2 ++ (0#2 ++ (0#10)))))))))
  | .bswap rd ra => some (0x00#8 ++ (rd ++ (ra ++ (0#6 ++ (33#6 ++ (0#2 ++ (0#2 ++ (0#2 ++ (0#10)))))))))
  | .addi rd ra imm => some (0x01#8 ++ (rd ++ (ra ++ (0#6 ++ (imm)))))
  | .andi rd ra imm => some (0x01#8 ++ (rd ++ (ra ++ (1#6 ++ (imm)))))
  | .ori rd ra imm => some (0x01#8 ++ (rd ++ (ra ++ (2#6 ++ (imm)))))
  | .xori rd ra imm => some (0x01#8 ++ (rd ++ (ra ++ (3#6 ++ (imm)))))
  | .shli rd ra sh => some (0x01#8 ++ (rd ++ (ra ++ (4#6 ++ (0#16 ++ (sh))))))
  | .shri rd ra sh => some (0x01#8 ++ (rd ++ (ra ++ (5#6 ++ (0#16 ++ (sh))))))
  | .srai rd ra sh => some (0x01#8 ++ (rd ++ (ra ++ (6#6 ++ (0#16 ++ (sh))))))
  | .slti rd ra imm => some (0x01#8 ++ (rd ++ (ra ++ (7#6 ++ (imm)))))
  | .sltui rd ra imm => some (0x01#8 ++ (rd ++ (ra ++ (8#6 ++ (imm)))))
  | .muli rd ra imm => some (0x01#8 ++ (rd ++ (ra ++ (9#6 ++ (imm)))))
  | .li rd imm => some (0x02#8 ++ (rd ++ (0#2 ++ (imm))))
  | .liU rd imm => some (0x02#8 ++ (rd ++ (1#2 ++ (imm))))
  | .lih rd imm => some (0x03#8 ++ (rd ++ (0#2 ++ (imm))))
  | .sel rd ra rb => some (0x04#8 ++ (rd ++ (ra ++ (rb ++ (0#6 ++ (0#6 ++ (0#10)))))))
  | .beq ra rb off => some (0x08#8 ++ (ra ++ (rb ++ (0#4 ++ (off)))))
  | .bne ra rb off => some (0x08#8 ++ (ra ++ (rb ++ (1#4 ++ (off)))))
  | .blt ra rb off => some (0x08#8 ++ (ra ++ (rb ++ (2#4 ++ (off)))))
  | .bge ra rb off => some (0x08#8 ++ (ra ++ (rb ++ (3#4 ++ (off)))))
  | .bltu ra rb off => some (0x08#8 ++ (ra ++ (rb ++ (4#4 ++ (off)))))
  | .bgeu ra rb off => some (0x08#8 ++ (ra ++ (rb ++ (5#4 ++ (off)))))
  | .bz ra off => some (0x09#8 ++ (ra ++ (0#6 ++ (0#4 ++ (off)))))
  | .bnz ra off => some (0x09#8 ++ (ra ++ (0#6 ++ (1#4 ++ (off)))))
  | .j off => some (0x0A#8 ++ (0#6 ++ (0#2 ++ (off))))
  | .jr ra => some (0x0C#8 ++ (0#6 ++ (ra ++ (0#6 ++ (0#6 ++ (0#6 ++ (0#10)))))))
  | .call off => some (0x0B#8 ++ (0#6 ++ (0#2 ++ (off))))
  | .callr ra => some (0x0D#8 ++ (0#6 ++ (ra ++ (0#6 ++ (0#6 ++ (0#6 ++ (0#10)))))))
  | .spec ra off => some (0x10#8 ++ (ra ++ (0#6 ++ (0#4 ++ (off)))))
  | .rndx rd ra rb site => some (0x13#8 ++ (rd ++ (ra ++ (rb ++ (0#4 ++ (site ++ (0#6 ++ (0#10))))))))
  | .csrr rd csr => some (0x14#8 ++ (rd ++ (0#6 ++ (0#6 ++ (0#10 ++ (csr))))))
  | .csrw rd ra csr => some (0x15#8 ++ (rd ++ (ra ++ (0#6 ++ (0#10 ++ (csr))))))
  | .csrs rd ra csr => some (0x16#8 ++ (rd ++ (ra ++ (0#6 ++ (0#10 ++ (csr))))))
  | .csrc rd ra csr => some (0x17#8 ++ (rd ++ (ra ++ (0#6 ++ (0#10 ++ (csr))))))
  | .ldb rd ra ord scope off => some (0x18#8 ++ (rd ++ (ra ++ (0#2 ++ (ord ++ (scope ++ (0#1 ++ (off))))))))
  | .ldbu rd ra ord scope off => some (0x18#8 ++ (rd ++ (ra ++ (0#2 ++ (ord ++ (scope ++ (1#1 ++ (off))))))))
  | .ldh rd ra ord scope off => some (0x18#8 ++ (rd ++ (ra ++ (1#2 ++ (ord ++ (scope ++ (0#1 ++ (off))))))))
  | .ldhu rd ra ord scope off => some (0x18#8 ++ (rd ++ (ra ++ (1#2 ++ (ord ++ (scope ++ (1#1 ++ (off))))))))
  | .ldw rd ra ord scope off => some (0x18#8 ++ (rd ++ (ra ++ (2#2 ++ (ord ++ (scope ++ (0#1 ++ (off))))))))
  | .ldwu rd ra ord scope off => some (0x18#8 ++ (rd ++ (ra ++ (2#2 ++ (ord ++ (scope ++ (1#1 ++ (off))))))))
  | .ldd rd ra ord scope off => some (0x18#8 ++ (rd ++ (ra ++ (3#2 ++ (ord ++ (scope ++ (0#1 ++ (off))))))))
  | .stb rd ra ord scope off => some (0x19#8 ++ (rd ++ (ra ++ (0#2 ++ (ord ++ (scope ++ (off)))))))
  | .sth rd ra ord scope off => some (0x19#8 ++ (rd ++ (ra ++ (1#2 ++ (ord ++ (scope ++ (off)))))))
  | .stw rd ra ord scope off => some (0x19#8 ++ (rd ++ (ra ++ (2#2 ++ (ord ++ (scope ++ (off)))))))
  | .std rd ra ord scope off => some (0x19#8 ++ (rd ++ (ra ++ (3#2 ++ (ord ++ (scope ++ (off)))))))
  | .amadd rd ra rb ord scope dw => some (0x1A#8 ++ (rd ++ (ra ++ (rb ++ (0#6 ++ (ord ++ (scope ++ (1#1 ++ (BitVec.ofBool dw ++ (0#10))))))))))
  | .amand rd ra rb ord scope dw => some (0x1A#8 ++ (rd ++ (ra ++ (rb ++ (1#6 ++ (ord ++ (scope ++ (1#1 ++ (BitVec.ofBool dw ++ (0#10))))))))))
  | .amor rd ra rb ord scope dw => some (0x1A#8 ++ (rd ++ (ra ++ (rb ++ (2#6 ++ (ord ++ (scope ++ (1#1 ++ (BitVec.ofBool dw ++ (0#10))))))))))
  | .amxor rd ra rb ord scope dw => some (0x1A#8 ++ (rd ++ (ra ++ (rb ++ (3#6 ++ (ord ++ (scope ++ (1#1 ++ (BitVec.ofBool dw ++ (0#10))))))))))
  | .ammin rd ra rb ord scope dw => some (0x1A#8 ++ (rd ++ (ra ++ (rb ++ (4#6 ++ (ord ++ (scope ++ (1#1 ++ (BitVec.ofBool dw ++ (0#10))))))))))
  | .ammax rd ra rb ord scope dw => some (0x1A#8 ++ (rd ++ (ra ++ (rb ++ (5#6 ++ (ord ++ (scope ++ (1#1 ++ (BitVec.ofBool dw ++ (0#10))))))))))
  | .amminu rd ra rb ord scope dw => some (0x1A#8 ++ (rd ++ (ra ++ (rb ++ (6#6 ++ (ord ++ (scope ++ (1#1 ++ (BitVec.ofBool dw ++ (0#10))))))))))
  | .ammaxu rd ra rb ord scope dw => some (0x1A#8 ++ (rd ++ (ra ++ (rb ++ (7#6 ++ (ord ++ (scope ++ (1#1 ++ (BitVec.ofBool dw ++ (0#10))))))))))
  | .amswap rd ra rb ord scope dw => some (0x1A#8 ++ (rd ++ (ra ++ (rb ++ (8#6 ++ (ord ++ (scope ++ (1#1 ++ (BitVec.ofBool dw ++ (0#10))))))))))
  | .cas rd ra rb ord scope dw => some (0x1B#8 ++ (rd ++ (ra ++ (rb ++ (0#6 ++ (ord ++ (scope ++ (1#1 ++ (BitVec.ofBool dw ++ (0#10))))))))))
  | .fence ord scope => some (0x1C#8 ++ (0#6 ++ (0#6 ++ (0#6 ++ (0#6 ++ (ord ++ (scope ++ (0#2 ++ (0#10)))))))))
  | .publish rd ra => some (0x1D#8 ++ (rd ++ (ra ++ (0#6 ++ (0#6 ++ (0#6 ++ (0#10)))))))
  | .cvtaTo rd ra ap => some (0x1E#8 ++ (rd ++ (ra ++ (0#6 ++ (0#3 ++ (0#1 ++ (ap ++ (0#6 ++ (0#10)))))))))
  | .cvtaFrom rd ra ap => some (0x1E#8 ++ (rd ++ (ra ++ (0#6 ++ (0#3 ++ (1#1 ++ (ap ++ (0#6 ++ (0#10)))))))))
  | .aptest rd ra ap => some (0x1F#8 ++ (rd ++ (ra ++ (0#6 ++ (0#4 ++ (ap ++ (0#6 ++ (0#10))))))))
  | .setview rd ra mask => some (0x20#8 ++ (rd ++ (ra ++ (0#6 ++ (0#3 ++ (mask ++ (0#6 ++ (0#10))))))))
  | .seta ad ra => some (0x21#8 ++ (0#1 ++ (ad ++ (ra ++ (0#6 ++ (0#6 ++ (0#6 ++ (0#10))))))))
  | .popv rd q => some (0x22#8 ++ (rd ++ (0#6 ++ (0#6 ++ (0#2 ++ (q ++ (0#6 ++ (0#10))))))))
  | .pushv ra rb q => some (0x23#8 ++ (0#6 ++ (ra ++ (rb ++ (0#2 ++ (q ++ (0#6 ++ (0#10))))))))
  | .barinit rd ra remote expect bar => some (0x24#8 ++ (rd ++ (ra ++ (0#6 ++ (BitVec.ofBool remote ++ (expect ++ (bar)))))))
  | .bararv rd ra remote bar => some (0x25#8 ++ (rd ++ (ra ++ (0#6 ++ (BitVec.ofBool remote ++ (0#12 ++ (bar)))))))
  | .barwait rd ra remote bar => some (0x26#8 ++ (rd ++ (ra ++ (0#6 ++ (BitVec.ofBool remote ++ (0#12 ++ (bar)))))))
  | .bararw rd ra remote bar => some (0x27#8 ++ (rd ++ (ra ++ (0#6 ++ (BitVec.ofBool remote ++ (0#12 ++ (bar)))))))
  | .tbinit rd ra off => some (0x28#8 ++ (rd ++ (ra ++ (0#6 ++ (off)))))
  | .tbexp rd ra off => some (0x29#8 ++ (rd ++ (ra ++ (0#6 ++ (off)))))
  | .tbarv rd ra off => some (0x2A#8 ++ (rd ++ (ra ++ (0#6 ++ (off)))))
  | .tbwait rd ra off => some (0x2B#8 ++ (rd ++ (ra ++ (0#6 ++ (off)))))
  | .spawn ra => some (0x2C#8 ++ (0#6 ++ (ra ++ (0#6 ++ (0#5 ++ (0#1 ++ (0#6 ++ (0#10))))))))
  | .spawnNb rd ra => some (0x2C#8 ++ (rd ++ (ra ++ (0#6 ++ (0#5 ++ (1#1 ++ (0#6 ++ (0#10))))))))
  | .enqr ra rb => some (0x2D#8 ++ (0#6 ++ (ra ++ (rb ++ (0#6 ++ (0#6 ++ (0#10)))))))
  | .inbox rd ra => some (0x36#8 ++ (rd ++ (ra ++ (0#6 ++ (0#5 ++ (0#1 ++ (0#6 ++ (0#10))))))))
  | .inboxNb rd ra => some (0x36#8 ++ (rd ++ (ra ++ (0#6 ++ (0#5 ++ (1#1 ++ (0#6 ++ (0#10))))))))
  | .yield rd => some (0x2F#8 ++ (rd ++ (0#34)))
  | .wfe rd ra => some (0x33#8 ++ (rd ++ (ra ++ (0#6 ++ (0#6 ++ (0#6 ++ (0#10)))))))
  | .trap imm => some (0x30#8 ++ (0#6 ++ (0#6 ++ (0#6 ++ (0#6 ++ (imm))))))
  | .leaseNb rd => some (0x34#8 ++ (rd ++ (0#12 ++ (0#5 ++ (1#1 ++ (0#16))))))
  | .ald dstq aa step rpt size pop push => some (0x40#8 ++ (dstq ++ (aa ++ (step ++ (rpt ++ (size ++ (pop ++ (push))))))))
  | .ast dstq aa step rpt size pop push => some (0x41#8 ++ (dstq ++ (aa ++ (step ++ (rpt ++ (size ++ (pop ++ (push))))))))
  | .arld dstq aa step rpt size pop push => some (0x45#8 ++ (dstq ++ (aa ++ (step ++ (rpt ++ (size ++ (pop ++ (push))))))))
  | .arst dstq aa step rpt size pop push => some (0x46#8 ++ (dstq ++ (aa ++ (step ++ (rpt ++ (size ++ (pop ++ (push))))))))
  | .agth dstq aa src idx it shift rpt size pop push => some (0x42#8 ++ (dstq ++ (aa ++ (BitVec.ofBool src ++ (idx ++ (it ++ (shift ++ (0#4 ++ (rpt ++ (size ++ (pop ++ (push))))))))))))
  | .asct dstq aa src idx it shift rpt size pop push => some (0x43#8 ++ (dstq ++ (aa ++ (BitVec.ofBool src ++ (idx ++ (it ++ (shift ++ (0#4 ++ (rpt ++ (size ++ (pop ++ (push))))))))))))
  | .apart c aa keyq kt rpt size pop push => some (0x44#8 ++ (c ++ (aa ++ (0#2 ++ (keyq ++ (kt ++ (0#8 ++ (rpt ++ (size ++ (pop ++ (push)))))))))))
  | .aadd ad aa ab => some (0x47#8 ++ (ad ++ (aa ++ (ab ++ (0#6 ++ (0#19))))))
  | .asub ad aa ab => some (0x47#8 ++ (ad ++ (aa ++ (ab ++ (1#6 ++ (0#19))))))
  | .aand ad aa ab => some (0x47#8 ++ (ad ++ (aa ++ (ab ++ (2#6 ++ (0#19))))))
  | .aor ad aa ab => some (0x47#8 ++ (ad ++ (aa ++ (ab ++ (3#6 ++ (0#19))))))
  | .axor ad aa ab => some (0x47#8 ++ (ad ++ (aa ++ (ab ++ (4#6 ++ (0#19))))))
  | .ashl ad aa ab => some (0x47#8 ++ (ad ++ (aa ++ (ab ++ (5#6 ++ (0#19))))))
  | .ashr ad aa ab => some (0x47#8 ++ (ad ++ (aa ++ (ab ++ (6#6 ++ (0#19))))))
  | .amul ad aa ab => some (0x47#8 ++ (ad ++ (aa ++ (ab ++ (7#6 ++ (0#19))))))
  | .amax ad aa ab => some (0x47#8 ++ (ad ++ (aa ++ (ab ++ (8#6 ++ (0#19))))))
  | .aaddi ad aa imm => some (0x48#8 ++ (ad ++ (aa ++ (0#5 ++ (0#6 ++ (imm))))))
  | .ali ad imm => some (0x49#8 ++ (ad ++ (0#5 ++ (0#5 ++ (0#6 ++ (imm))))))
  | .aflush q => some (0x4A#8 ++ (0#1 ++ (q ++ (0#5 ++ (0#5 ++ (0#6 ++ (0#19)))))))
  | .amcast q aa ab grp imm => some (0x4B#8 ++ (0#1 ++ (q ++ (aa ++ (ab ++ (0#3 ++ (grp ++ (imm))))))))
  | .vmode typ wt wm ftz rnd => some (0x60#8 ++ (0#12 ++ (0#12 ++ (typ ++ (0#6 ++ (BitVec.ofBool wt ++ (BitVec.ofBool wm ++ (BitVec.ofBool ftz ++ (rnd)))))))))
  | .vmovi d a imm => some (0x7C#8 ++ (d ++ (a ++ (imm))))
  | .vadd d a b m x => some (0x61#8 ++ (d ++ (a ++ (b ++ (BitVec.ofBool m ++ (x))))))
  | .vsub d a b m x => some (0x62#8 ++ (d ++ (a ++ (b ++ (BitVec.ofBool m ++ (x))))))
  | .vmul d a b m x => some (0x63#8 ++ (d ++ (a ++ (b ++ (BitVec.ofBool m ++ (x))))))
  | .vmulh d a b m x => some (0x64#8 ++ (d ++ (a ++ (b ++ (BitVec.ofBool m ++ (x))))))
  | .vmad d a b m x => some (0x65#8 ++ (d ++ (a ++ (b ++ (BitVec.ofBool m ++ (x))))))
  | .vand d a b m x => some (0x66#8 ++ (d ++ (a ++ (b ++ (BitVec.ofBool m ++ (x))))))
  | .vor d a b m x => some (0x67#8 ++ (d ++ (a ++ (b ++ (BitVec.ofBool m ++ (x))))))
  | .vxor d a b m x => some (0x68#8 ++ (d ++ (a ++ (b ++ (BitVec.ofBool m ++ (x))))))
  | .vandn d a b m x => some (0x69#8 ++ (d ++ (a ++ (b ++ (BitVec.ofBool m ++ (x))))))
  | .vshl d a b m x => some (0x6A#8 ++ (d ++ (a ++ (b ++ (BitVec.ofBool m ++ (x))))))
  | .vshr d a b m x => some (0x6B#8 ++ (d ++ (a ++ (b ++ (BitVec.ofBool m ++ (x))))))
  | .vsra d a b m x => some (0x6C#8 ++ (d ++ (a ++ (b ++ (BitVec.ofBool m ++ (x))))))
  | .vmin d a b m x => some (0x6D#8 ++ (d ++ (a ++ (b ++ (BitVec.ofBool m ++ (x))))))
  | .vmax d a b m x => some (0x6E#8 ++ (d ++ (a ++ (b ++ (BitVec.ofBool m ++ (x))))))
  | .vadds d a b m x => some (0x71#8 ++ (d ++ (a ++ (b ++ (BitVec.ofBool m ++ (x))))))
  | .vsubs d a b m x => some (0x72#8 ++ (d ++ (a ++ (b ++ (BitVec.ofBool m ++ (x))))))
  | .vceq d a b m x => some (0x74#8 ++ (d ++ (a ++ (b ++ (BitVec.ofBool m ++ (x))))))
  | .vcne d a b m x => some (0x75#8 ++ (d ++ (a ++ (b ++ (BitVec.ofBool m ++ (x))))))
  | .vclt d a b m x => some (0x76#8 ++ (d ++ (a ++ (b ++ (BitVec.ofBool m ++ (x))))))
  | .vcle d a b m x => some (0x77#8 ++ (d ++ (a ++ (b ++ (BitVec.ofBool m ++ (x))))))
  | .vcltu d a b m x => some (0x78#8 ++ (d ++ (a ++ (b ++ (BitVec.ofBool m ++ (x))))))
  | .vcleu d a b m x => some (0x79#8 ++ (d ++ (a ++ (b ++ (BitVec.ofBool m ++ (x))))))
  | .vsel d a b m x => some (0x7A#8 ++ (d ++ (a ++ (b ++ (BitVec.ofBool m ++ (x))))))
  | .vpack d a b m x => some (0xA3#8 ++ (d ++ (a ++ (b ++ (BitVec.ofBool m ++ (x))))))
  | .vfadd d a b m x => some (0x80#8 ++ (d ++ (a ++ (b ++ (BitVec.ofBool m ++ (x))))))
  | .vfsub d a b m x => some (0x81#8 ++ (d ++ (a ++ (b ++ (BitVec.ofBool m ++ (x))))))
  | .vfmul d a b m x => some (0x82#8 ++ (d ++ (a ++ (b ++ (BitVec.ofBool m ++ (x))))))
  | .vfma d a b m x => some (0x83#8 ++ (d ++ (a ++ (b ++ (BitVec.ofBool m ++ (x))))))
  | .vfms d a b m x => some (0x84#8 ++ (d ++ (a ++ (b ++ (BitVec.ofBool m ++ (x))))))
  | .vfnma d a b m x => some (0x85#8 ++ (d ++ (a ++ (b ++ (BitVec.ofBool m ++ (x))))))
  | .vfmin d a b m x => some (0x86#8 ++ (d ++ (a ++ (b ++ (BitVec.ofBool m ++ (x))))))
  | .vfmax d a b m x => some (0x87#8 ++ (d ++ (a ++ (b ++ (BitVec.ofBool m ++ (x))))))
  | .vfscl d a b m x => some (0x92#8 ++ (d ++ (a ++ (b ++ (BitVec.ofBool m ++ (x))))))
  | .vfceq d a b m x => some (0x8E#8 ++ (d ++ (a ++ (b ++ (BitVec.ofBool m ++ (x))))))
  | .vfclt d a b m x => some (0x8F#8 ++ (d ++ (a ++ (b ++ (BitVec.ofBool m ++ (x))))))
  | .vfcle d a b m x => some (0x90#8 ++ (d ++ (a ++ (b ++ (BitVec.ofBool m ++ (x))))))
  | .vcvtsr d a b m x => some (0x94#8 ++ (d ++ (a ++ (b ++ (BitVec.ofBool m ++ (x))))))
  | .vperm d a b m x => some (0x9C#8 ++ (d ++ (a ++ (b ++ (BitVec.ofBool m ++ (x))))))
  | .vabs d a b m x => some (0x6F#8 ++ (d ++ (a ++ (b ++ (BitVec.ofBool m ++ (x))))))
  | .vneg d a b m x => some (0x70#8 ++ (d ++ (a ++ (b ++ (BitVec.ofBool m ++ (x))))))
  | .vcnt d a b m x => some (0x73#8 ++ (d ++ (a ++ (b ++ (BitVec.ofBool m ++ (x))))))
  | .vmov d a b m x => some (0x7B#8 ++ (d ++ (a ++ (b ++ (BitVec.ofBool m ++ (x))))))
  | .vinv d a b m x => some (0x7E#8 ++ (d ++ (a ++ (b ++ (BitVec.ofBool m ++ (x))))))
  | .vunpk d a b m x => some (0xA4#8 ++ (d ++ (a ++ (b ++ (BitVec.ofBool m ++ (x))))))
  | .vfabs d a b m x => some (0x88#8 ++ (d ++ (a ++ (b ++ (BitVec.ofBool m ++ (x))))))
  | .vfneg d a b m x => some (0x89#8 ++ (d ++ (a ++ (b ++ (BitVec.ofBool m ++ (x))))))
  | .vrcpa d a b m x => some (0x8A#8 ++ (d ++ (a ++ (b ++ (BitVec.ofBool m ++ (x))))))
  | .vrsqa d a b m x => some (0x8B#8 ++ (d ++ (a ++ (b ++ (BitVec.ofBool m ++ (x))))))
  | .vexp2a d a b m x => some (0x8C#8 ++ (d ++ (a ++ (b ++ (BitVec.ofBool m ++ (x))))))
  | .vlog2a d a b m x => some (0x8D#8 ++ (d ++ (a ++ (b ++ (BitVec.ofBool m ++ (x))))))
  | .vfclass d a b m x => some (0x91#8 ++ (d ++ (a ++ (b ++ (BitVec.ofBool m ++ (x))))))
  | .vqnt d a b m x => some (0x95#8 ++ (d ++ (a ++ (b ++ (BitVec.ofBool m ++ (x))))))
  | .vdqnt d a b m x => some (0x96#8 ++ (d ++ (a ++ (b ++ (BitVec.ofBool m ++ (x))))))
  | .vmxq d a b m x => some (0x97#8 ++ (d ++ (a ++ (b ++ (BitVec.ofBool m ++ (x))))))
  | .vmxd d a b m x => some (0x98#8 ++ (d ++ (a ++ (b ++ (BitVec.ofBool m ++ (x))))))
  | .vrsum d a b m x => some (0x99#8 ++ (d ++ (a ++ (b ++ (BitVec.ofBool m ++ (x))))))
  | .vrmax d a b m x => some (0x9A#8 ++ (d ++ (a ++ (b ++ (BitVec.ofBool m ++ (x))))))
  | .vrmin d a b m x => some (0x9B#8 ++ (d ++ (a ++ (b ++ (BitVec.ofBool m ++ (x))))))
  | .vtrans d a b m x => some (0x9F#8 ++ (d ++ (a ++ (b ++ (BitVec.ofBool m ++ (x))))))
  | .viota d a b m x => some (0xA2#8 ++ (d ++ (a ++ (b ++ (BitVec.ofBool m ++ (x))))))
  | .vzero d a b m x => some (0x7D#8 ++ (d ++ (a ++ (b ++ (BitVec.ofBool m ++ (x))))))
  | .vclrf d a b m x => some (0x7F#8 ++ (d ++ (a ++ (b ++ (BitVec.ofBool m ++ (x))))))
  | .vcvt d a p src m x => some (0x93#8 ++ (d ++ (a ++ (0#5 ++ (p ++ (src ++ (BitVec.ofBool m ++ (x))))))))
  | .vslide d a amt m x => some (0x9D#8 ++ (d ++ (a ++ (0#4 ++ (amt ++ (BitVec.ofBool m ++ (x)))))))
  | .vbcast d a lane m x => some (0x9E#8 ++ (d ++ (a ++ (0#5 ++ (lane ++ (BitVec.ofBool m ++ (x)))))))
  | .vext d a lane m x => some (0xA0#8 ++ (d ++ (a ++ (0#5 ++ (lane ++ (BitVec.ofBool m ++ (x)))))))
  | .vins d a lane m x => some (0xA1#8 ++ (d ++ (a ++ (0#5 ++ (lane ++ (BitVec.ofBool m ++ (x)))))))
  | .vrng d a site m x => some (0xA5#8 ++ (d ++ (a ++ (0#10 ++ (site ++ (BitVec.ofBool m ++ (x)))))))
  | .mfmt ra pop push => some (0xB0#8 ++ (ra ++ (0#6 ++ (0#1 ++ (0#6 ++ (0#3 ++ (pop ++ (push ++ (0#12)))))))))
  | .mma ra rb acc m n k ta tb z pop push => some (0xB1#8 ++ (ra ++ (rb ++ (BitVec.ofBool acc ++ (m ++ (n ++ (k ++ (BitVec.ofBool ta ++ (BitVec.ofBool tb ++ (BitVec.ofBool z ++ (pop ++ (push ++ (0#12)))))))))))))
  | .mmas ra rb acc m n k ta tb z pop push => some (0xB2#8 ++ (ra ++ (rb ++ (BitVec.ofBool acc ++ (m ++ (n ++ (k ++ (BitVec.ofBool ta ++ (BitVec.ofBool tb ++ (BitVec.ofBool z ++ (pop ++ (push ++ (0#12)))))))))))))
  | .mresc ra acc m n pop push => some (0xB3#8 ++ (ra ++ (0#6 ++ (BitVec.ofBool acc ++ (m ++ (n ++ (0#2 ++ (0#2 ++ (0#1 ++ (pop ++ (push ++ (0#12))))))))))))
  | .mzero ra acc m n side pop push => some (0xB4#8 ++ (ra ++ (0#6 ++ (BitVec.ofBool acc ++ (m ++ (n ++ (0#2 ++ (0#2 ++ (BitVec.ofBool side ++ (pop ++ (push ++ (0#12))))))))))))
  | .mldac ra acc m n pop push => some (0xB5#8 ++ (ra ++ (0#6 ++ (BitVec.ofBool acc ++ (m ++ (n ++ (0#2 ++ (0#2 ++ (0#1 ++ (pop ++ (push ++ (0#12))))))))))))
  | .mstac ra acc m n close pop push => some (0xB6#8 ++ (ra ++ (0#6 ++ (BitVec.ofBool acc ++ (m ++ (n ++ (0#2 ++ (0#2 ++ (BitVec.ofBool close ++ (pop ++ (push ++ (0#12))))))))))))
  | .mstsm ra acc m n close pop push => some (0xB7#8 ++ (ra ++ (0#6 ++ (BitVec.ofBool acc ++ (m ++ (n ++ (0#2 ++ (0#2 ++ (BitVec.ofBool close ++ (pop ++ (push ++ (0#12))))))))))))
  | .mnorm ra acc m n other pop push => some (0xB8#8 ++ (ra ++ (0#6 ++ (BitVec.ofBool acc ++ (m ++ (n ++ (0#2 ++ (0#2 ++ (BitVec.ofBool other ++ (pop ++ (push ++ (0#12))))))))))))
  | .copy rd ra cm flags => some (0xC0#8 ++ (rd ++ (ra ++ (0#6 ++ (0#6 ++ (cm ++ (flags)))))))
  | .tload rd ra rb rc cm flags => some (0xC1#8 ++ (rd ++ (ra ++ (rb ++ (rc ++ (cm ++ (flags)))))))
  | .tstore rd ra rb rc cm flags => some (0xC2#8 ++ (rd ++ (ra ++ (rb ++ (rc ++ (cm ++ (flags)))))))
  | .tmcast rd ra rb rc cm flags => some (0xC4#8 ++ (rd ++ (ra ++ (rb ++ (rc ++ (cm ++ (flags)))))))
  | .pstore rd ra rb rc cm flags => some (0xC5#8 ++ (rd ++ (ra ++ (rb ++ (rc ++ (cm ++ (flags)))))))
  | .tpark rd ra rb rc cm flags => some (0xC6#8 ++ (rd ++ (ra ++ (rb ++ (rc ++ (cm ++ (flags)))))))
  | .trepl rd ra rb rc cm flags => some (0xC8#8 ++ (rd ++ (ra ++ (rb ++ (rc ++ (cm ++ (flags)))))))
  | .reqnt rd ra rb rc cm flags => some (0xC9#8 ++ (rd ++ (ra ++ (rb ++ (rc ++ (cm ++ (flags)))))))
  | .tseal rd ra rb reg => some (0xC3#8 ++ (rd ++ (ra ++ (rb ++ (0#6 ++ (0#1 ++ (BitVec.ofBool reg ++ (0#13 ++ (0#1)))))))))
  | .tsealCb rd ra rb reg => some (0xC3#8 ++ (rd ++ (ra ++ (rb ++ (0#6 ++ (0#1 ++ (BitVec.ofBool reg ++ (0#13 ++ (1#1)))))))))
  | .tunpark rd ra rb cm flags => some (0xC7#8 ++ (rd ++ (ra ++ (rb ++ (0#6 ++ (cm ++ (flags)))))))
  | .tdrop rd ra rb cm flags => some (0xCA#8 ++ (rd ++ (ra ++ (rb ++ (0#6 ++ (cm ++ (flags)))))))
  | .hjoin rd ra rb => some (0xD0#8 ++ (rd ++ (ra ++ (rb ++ (0#4 ++ (0#2 ++ (0#16)))))))
  | .hleave rd ra => some (0xD1#8 ++ (rd ++ (ra ++ (0#6 ++ (0#4 ++ (0#2 ++ (0#16)))))))
  | .hcontrib rd ra rb off => some (0xD2#8 ++ (rd ++ (ra ++ (rb ++ (0#4 ++ (0#2 ++ (0#4 ++ (off))))))))
  | .hwait rd ra rb noimg off => some (0xD3#8 ++ (rd ++ (ra ++ (rb ++ (0#4 ++ (0#2 ++ (0#3 ++ (BitVec.ofBool noimg ++ (off)))))))))
  | .hstatRoster rd ra rb => some (0xD4#8 ++ (rd ++ (ra ++ (rb ++ (0#4 ++ (0#2 ++ (0#14 ++ (0#2))))))))
  | .hstatGroup rd ra rb => some (0xD4#8 ++ (rd ++ (ra ++ (rb ++ (0#4 ++ (0#2 ++ (0#14 ++ (1#2))))))))
  | .hstatMember rd ra rb => some (0xD4#8 ++ (rd ++ (ra ++ (rb ++ (0#4 ++ (0#2 ++ (0#14 ++ (2#2))))))))
  | .hsync rd ra => some (0xD5#8 ++ (rd ++ (ra ++ (0#6 ++ (0#4 ++ (0#2 ++ (0#16)))))))
  | .ropen rd ra rb h save ht rowoff => some (0xD6#8 ++ (rd ++ (ra ++ (rb ++ (h ++ (0#2 ++ (0#1 ++ (BitVec.ofBool save ++ (0#2 ++ (ht ++ (0#1 ++ (rowoff))))))))))))
  | .ropenCell rd ra h save ht => some (0xD6#8 ++ (rd ++ (ra ++ (0#6 ++ (h ++ (0#2 ++ (1#1 ++ (BitVec.ofBool save ++ (0#2 ++ (ht ++ (0#1 ++ (0#7))))))))))))
  | .rrel rd h => some (0xD7#8 ++ (rd ++ (0#6 ++ (0#6 ++ (h ++ (0#2 ++ (0#16)))))))
  | .rrenew rd h ht => some (0xD8#8 ++ (rd ++ (0#6 ++ (0#6 ++ (h ++ (0#2 ++ (0#4 ++ (ht ++ (0#8)))))))))
  | .rstat rd h => some (0xD9#8 ++ (rd ++ (0#6 ++ (0#6 ++ (h ++ (0#2 ++ (0#16)))))))
  | .loop level cnt r off => some (0xE1#8 ++ (level ++ (cnt ++ (BitVec.ofBool r ++ (0#1 ++ (off))))))
  | .loopi level cnt r off => some (0xE2#8 ++ (level ++ (cnt ++ (BitVec.ofBool r ++ (0#1 ++ (off))))))
  | .loopb level cnt drain off => some (0xE3#8 ++ (level ++ (cnt ++ (0#1 ++ (0#1 ++ (drain ++ (off)))))))
  | .tkpush k => some (0xE4#8 ++ (0#6 ++ (0#2 ++ (0#29 ++ (k)))))
  | .tkpop k => some (0xE5#8 ++ (0#6 ++ (0#2 ++ (0#29 ++ (k)))))
  | .sj sense p off => some (0xE7#8 ++ (0#2 ++ (BitVec.ofBool sense ++ (p ++ (0#2 ++ (off))))))
  | .prset mask vals => some (0xE8#8 ++ (0#6 ++ (0#2 ++ (0#16 ++ (mask ++ (0#1 ++ (vals ++ (0#1))))))))
  | .ret => some (0x0E#8 ++ (0#40))
  | .specend => some (0x11#8 ++ (0#40))
  | .specx => some (0x12#8 ++ (0#40))
  | .halt => some (0x2E#8 ++ (0#40))
  | .brk => some (0x31#8 ++ (0#6 ++ (0#6 ++ (0#6 ++ (0#6 ++ (0#16))))))
  | .rte => some (0x32#8 ++ (0#18 ++ (0#5 ++ (0#1 ++ (0#16)))))
  | .rteSkip => some (0x32#8 ++ (0#18 ++ (0#5 ++ (1#1 ++ (0#16)))))
  | .lease => some (0x34#8 ++ (0#6 ++ (0#12 ++ (0#5 ++ (0#1 ++ (0#16))))))
  | .unlease => some (0x35#8 ++ (0#40))
  | .nop => some (0xE0#8 ++ (0#40))
  | .shalt => some (0xE6#8 ++ (0#40))
  | _ => none

/-- The word of an instruction in CR.TVAL: bits [47:0], the rest zero (R150). -/
def Instr.tval (i : Instr) : Word := ((encode i).getD 0).setWidth 64

end Sys2Proof
end

