-- ==== Sys2Proof/Config.lean ====
section
/-! DEFINITION. What the spec leaves to an implementation, as constants without a body (nothing in Lean can evaluate them), and the cryptography that the spec names and does not describe. -/

namespace Sys2Proof.Config

/-- SHA-384 of a byte string (R144, R304, R353): named by the spec, not described in it. -/
opaque sha384 : List Byte → BitVec 384

/-- AES-256-GCM encryption: key, 96-bit IV, plaintext; answers ciphertext followed by the 16-byte tag (R263, R272). -/
opaque gcmSeal : BitVec 256 → BitVec 96 → List Byte → List Byte

/-- AES-256-GCM decryption of ciphertext followed by its tag; `none` when the tag does not match (R263, R272). -/
opaque gcmOpen : BitVec 256 → BitVec 96 → List Byte → Option (List Byte)

/-- ECDSA over the 384-bit Brainpool curve with SHA-384: does the signature verify under the public key (R353)? -/
opaque ecdsaVerify : List Byte → List Byte → List Byte → Bool

/-- The device identity key's ECDSA signature of a byte string (R354). -/
opaque ecdsaSign : List Byte → List Byte

/-- Unwrapping of a wrapped key block by ECDH with the device identity key; `none` on failure (R355). -/
opaque unwrapKey : List Byte → Option (BitVec 256)

/-- The fused hash of the firmware signing key (R353). -/
opaque fusedKeyHash : BitVec 384

/-- The fused rollback counter (R353). -/
opaque fusedRollback : BitVec 32

/-- The device serial (R354). -/
opaque serial : BitVec 128

/-- The stepping field of DEV.ID (R340). -/
opaque stepping : BitVec 8

/-- The `n`th free value: what the spec calls open, one fresh value for each use (State.free counts the uses). -/
opaque freeWord : Nat → BitVec 64

/-- This device's identity in the SRC field of its messages (R349), and the receiving context a message through a port from a context names: neither is stated. -/
opaque deviceId : BitVec 16

/-- The CTX field of a message, by port and sending context (R349). -/
opaque peerCtx : Nat → Nat → BitVec 8

/-- The TASKID under which the contributions of a peer member that come through a port count: the message of R348 carries none. -/
opaque peerTask : Nat → BitVec 64

/-- What a quantisation whose scale rounds to zero gives (R118 divides by it and states no result): by type, by place (0 the zero point, i + 1 element i, and one place behind the last element whose lowest bit says whether a value was clamped) and by the operands (sign, numerator, denominator). -/
opaque zeroScale : Nat → Nat → List (Bool × Nat × Nat) → Nat

/-- Bytes 0x0F to 0x1FFF of the header of the `n`th save slot written, "in a layout of the device's own" (R299). -/
opaque saveHeaderByte : Nat → Nat → Byte

/-- Where the layout unit of a die places an image: the quadrant k, the base bank and the row (R72, R321: "a base bank that the layout tables choose per version"), by die, identity of the version and whether it is the twin's image. -/
opaque layoutPlace : Nat → Nat → Bool → BitVec 2 × BitVec 4 × BitVec 16

/-- The set of the cluster TLB that holds the translation of a page: a context, the number of the page in pages of its size, and its size in bits (R77). -/
opaque tlbSet : Nat → Nat → Nat → Nat

/-- The temperature sensor's reading a layer shows before its first reading (R336 gives ROW.TEMP no reset value). -/
opaque temperatureAtReset : Nat → BitVec 8

end Sys2Proof.Config
end

