-- ==== Sys2Proof/Machine/State.lean ====
section
/-! DEFINITION. The state of the whole module as plain data, the reasons a step can stop, and the state after reset. -/

namespace Sys2Proof.Machine

/-- Sparse data by key, in ascending order of key without repeats (operations in Machine/Assoc.lean). -/
abbrev Map (v : Type) := List (Nat × v)

/-- Why the machine stops. No instruction ends in a fault: every failure the spec describes is a trap, a status or a record. -/
inductive Fault where
  /-- Raised by step once the hub die is lost: the device is lost, and no step leaves that state (safe; R23, R429). -/
  | deviceLost
deriving DecidableEq, Repr

/-- Why the model gives a step no meaning. -/
inductive Refusal where
  /-- An instruction with no meaning yet, by its mnemonic in the opcode table (safe). -/
  | notModelled (mnemonic : String)
  /-- Raised by every stream word when the current core runs no shard: there is no stream to execute it (safe; R24, R35). -/
  | noShard
  /-- Raised by every step of the device that cannot happen in this state: the agenda offered an event whose conditions, as its rule gives them, do not hold (safe). -/
  | notEnabled
deriving DecidableEq, Repr

/-- A hardware loop slot that is active (R136, R137, R173). -/
structure LoopSlot where
  /-- The slot was activated by LOOPB. -/
  isB : Bool
  /-- Body start. -/
  start : Word
  /-- End word. -/
  stop : Word
  /-- Iterations remaining (`iter` for LOOPB). -/
  remaining : Nat
  /-- R: rotate the window at the end of every iteration. -/
  rot : Bool
  /-- Drain count of LOOPB. -/
  drain : Nat
deriving DecidableEq, Repr

/-- What a stream that has not halted waits for (R44). The waiting word is executed again from its start (R298, R382). -/
inductive Wait where
  | none
  /-- A pending scalar register (R153). -/
  | reg (n : Nat)
  /-- A token channel, to push or to pop (R58). -/
  | token (k : Nat)
  /-- A queue entry or slot (R55). -/
  | queue (q : Nat) (push : Bool)
  /-- The full bit of a granule (R51). -/
  | full (g : Nat)
  /-- Unacknowledged stores (R95). -/
  | stores
  /-- An acquire access that has not returned (R89). -/
  | acquire
  /-- The completion of an access to a host or peer window (R85, R350, R412). -/
  | reply
  /-- A core barrier (R186). -/
  | barrier
  /-- A transaction barrier (R187). -/
  | transBarrier
  /-- An entry of the pending-launch store of a die; the clk at which the wait began (R188, R288). -/
  | launch (since die : Nat)
  /-- An inbox entry (R190). -/
  | inbox
  /-- Room in the inbox of a core (R189). -/
  | append (core : Nat)
  /-- The core that an ENQR waited for has lost its shard: the word takes an aperture fault (R302). -/
  | appendGone
  /-- The array lease (R196). -/
  | lease
  /-- Room in an engine queue (R237, R259). -/
  | engine
  /-- A Harvest round (R314). -/
  | round
  /-- WFE; the clk at which its timeout expires (R193). -/
  | event (deadline : Option Nat)
  /-- The conditions of HALT (R38). -/
  | retire
  /-- The resolution of an open speculation (R161). -/
  | resolution
  /-- A hold slot that is opening (R204). -/
  | opening
  /-- A translation: the fill of the micro-TLB, the walk that serves a miss, or room in the miss queue (R77); or the fetch of a line whose row or path is taken (R15, R324). -/
  | translation
  /-- A save slot (R194, R192). -/
  | save
deriving DecidableEq, Repr

/-- Where an access takes effect (R70, R73, R85). -/
inductive Target where
  /-- The scratchpad of a core, at a byte offset. -/
  | pad (core off : Nat)
  /-- DRAM, at a device physical address. -/
  | dram (pa : Nat)
  /-- A host window through a host port, at a host bus address. -/
  | host (port addr : Nat)
  /-- A peer window through a Bilot link port, at a physical address of the peer. -/
  | peer (port addr : Nat)
deriving DecidableEq, Repr

/-- The kinds of access a stream has in flight. -/
inductive AccessKind where
  | load
  | store
  | atomic
  | cas
deriving DecidableEq, Repr

/-- One access in flight: issued, its value or acknowledgement not yet returned (R95, R153). -/
structure Access where
  kind : AccessKind
  /-- The generic address it was named by. -/
  va : Word
  target : Target
  /-- Bytes, 1 to 64. -/
  size : Nat
  /-- Store data or atomic operand; for a beat of the A-stream that loads, the bytes loaded. -/
  data : BitVec 512
  /-- Compare value of CAS; for the A-stream, the number of the word that issued it. -/
  cmp : Word
  /-- fn of an atomic (R148); of an ARLD beat, its hold slot plus 1; of a token push that waits, its channel. -/
  fn : Nat
  /-- Destination register; of an A-stream beat the load queue, 254 for an index, 255 for a token push that waits for what precedes it. -/
  rd : Nat
  /-- The value is sign-extended. -/
  signed : Bool
  ord : BitVec 2
  scope : BitVec 2
  /-- The count of R95 that holds a store: 0 to 3 the paths P0 to P3, 4 its own die and the scratchpads, 5 outside. -/
  path : Nat
  /-- The value, once the access has performed. -/
  value : Option Word
  /-- Its number in the order of issue over the whole device (R15, R82, R85, R93). -/
  order : Nat
  /-- The region it belongs to, which it closes when it performs if it synchronises (R105). -/
  region : Nat
  /-- Its shard's phase-mode clock at its issue, and what the shard knew of other shards' clocks then (R106). -/
  clock : Nat
  knows : Map Nat
  /-- The clk of its issue (R331). -/
  since : Nat
  /-- Address of its word. -/
  pc : Word
  /-- Message number of a peer access (R349). -/
  tag : BitVec 32
  /-- The host or peer refused it (R350, R412). -/
  failed : Bool
  /-- It had no effect: its exception, or that of an earlier beat of its word, has been taken as a trap, and it issues again when its stream resumes (R198, R383). -/
  held : Bool
  /-- An exception that it meets whatever stands at its target: the shard it was sent to has left its core, or its checks failed when it issued again (R302, R383, R399). -/
  fault : Option (BitVec 8 × Word)
deriving DecidableEq, Repr

/-- One instruction stream of a core. -/
structure Stream where
  /-- The PC (R125). -/
  pc : Word
  /-- The stream has executed SHALT (or HALT retired it) (R169). -/
  halted : Bool
  /-- The stage predicate window; bit i is pi, and p0 is read as 1 (R47). -/
  pred : BitVec 8
  /-- Active loop slots by level 0 to 3 (R136). -/
  loops : Map LoopSlot
  /-- CR.INSTRET of the stream (R67). -/
  instret : Word
  /-- Repeat index of a run-length word of the V-stream (R135). -/
  rep : Nat
  wait : Wait
  /-- Accesses in flight, oldest first. -/
  flight : List Access
deriving DecidableEq, Repr

/-- The ring of a queue (R54) and the A-stream's byte buffer over it (R199). -/
structure Queue where
  base : BitVec 11
  /-- LEN − 1. -/
  lenm1 : BitVec 8
  /-- ESZ: 0 one granule, 1 two, 2 sixteen. -/
  esz : BitVec 2
  head : BitVec 8
  tail : BitVec 8
  /-- buf(q) of R199: for a load queue its bytes placed so far, for a store queue the bytes of the popped entry. -/
  buf : List Byte
  /-- off(q) of R199. -/
  off : Nat
deriving DecidableEq, Repr

/-- A core barrier (R59). -/
structure Barrier where
  init : Bool
  phase : BitVec 4
  pending : BitVec 12
  expect : BitVec 12
  members : BitVec 96
  /-- Phase-mode knowledge of the arrivals in the current phase, and of those of completed phases: its keys are phase × 2^64 + uid (R106). -/
  arriving : Map Nat
  completed : Map Nat
deriving DecidableEq, Repr

/-- The state of a hold slot (R60, R325). -/
inductive HoldState where
  | free
  | opening
  | held
  | revoked
  | expired
deriving DecidableEq, Repr

/-- What row a hold slot names (R324). -/
inductive HoldRow where
  | none
  /-- The 1 KiB row of cell memory at this physical address. -/
  | cell (pa : Nat)
  /-- A row piece of a version: its identity (State.versions), the twin's image or the plain one, and the piece. -/
  | piece (version : Nat) (twin : Bool) (piece : Nat)
  /-- The bytes that the row buffer held when the slot was revoked, for a beat whose checks were made before (R204). -/
  | latched (bytes : List Byte)
deriving DecidableEq, Repr

/-- A hold slot (R60, R325). -/
structure Hold where
  state : HoldState
  row : HoldRow
  /-- The ROW field of R332. -/
  place : BitVec 32
  /-- The save choice of ROPEN. -/
  save : Bool
  /-- The hold request H in clk. -/
  request : Nat
  /-- T_held and the deadline in clk. -/
  since : Nat
  deadline : Nat
  cause : BitVec 4
  /-- The clk of the last event at the slot, and its place in the order of R337: 0 RREL, 1 revocation, 2 RRENEW, 3 expiry, 4 ROPEN and the opening of the row. -/
  stamp : Nat × Nat
  /-- The state and the row at the end of the clk before that one (R337). -/
  before : HoldState
  rowBefore : HoldRow
deriving DecidableEq, Repr

/-- An inbox entry (R61). -/
structure InboxEntry where
  block : BitVec 512
  sender : Nat
  ctx : Nat
  /-- The clk of its append (R189). -/
  since : Nat
  /-- Phase-mode identity of the sending shard and its clock (R106). -/
  sentBy : Nat
  clock : Nat
deriving DecidableEq, Repr

/-- An accumulator with its side registers (R62, R250, R394, R372). Elements are keyed 128 × row + column; an absent element is +0.0, an absent ROWMAX −∞, an absent ROWSUM +0.0. -/
structure Acc where
  elems : Map (BitVec 32)
  rowmax : Map (BitVec 32)
  rowsum : Map (BitVec 32)
  /-- A chain is open, as the C-stream has pushed commands. -/
  chain : Bool
  /-- The kind of the contents: `some true` integer, `some false` float, `none` either (R394). -/
  kind : Option Bool
  /-- The kind comes from an MMA or MMAS of the open chain, not from an MLDAC (R394). -/
  kindMma : Bool
  poisoned : Bool
deriving DecidableEq, Repr

/-- An M-command in the core's queue (R235 to R237). -/
structure MCmd where
  op : BitVec 8
  ra : Word
  rb : Word
  acc : Bool
  m : Nat
  n : Nat
  k : Nat
  /-- flags [20:18]. -/
  flags : BitVec 3
  push : BitVec 3
  /-- The format word it consumes (MMA, MMAS). -/
  fmt : Word
  /-- Its index in its run, from 1 (R377). -/
  index : Nat
  /-- Address of its word. -/
  pc : Word
  started : Bool
  /-- The array met a lasting error on it: the error's class (R372, R377). -/
  failed : Option Nat
deriving DecidableEq, Repr

/-- A message of an X-command to a peer window (R85, R348): its number, the generic address and length it serves, whether it writes, the reply's data, and whether it was refused. -/
structure XMsg where
  tag : BitVec 32
  va : Word
  len : Nat
  write : Bool
  data : Option (List Byte)
  failed : Bool
deriving DecidableEq, Repr

/-- An X-command in the core's queue (R258 to R272). `params` and `packet` hold what the push read. -/
structure XCmd where
  op : BitVec 8
  ra : Word
  rb : Word
  rc : Word
  rd : Nat
  cm : BitVec 2
  /-- Local offset of the completion transaction barrier. -/
  tb : Nat
  /-- flags[0] of TSEAL. -/
  cb : Bool
  /-- The packet, output reference or park block, as read at the push. -/
  packet : List Byte
  pc : Word
  /-- The device's order of issue at its push (R96), and the clk of its push (R331). -/
  order : Nat
  since : Nat
  started : Bool
  /-- Groups of a COPY whose writes have performed, units subtracted so far, bytes written so far. -/
  groups : Nat
  subtracted : Nat
  written : Nat
  /-- A failure met so far: its STATUS, and the generic address where it was met, 0 for none (R377). -/
  status : Option (BitVec 8)
  failAt : Word
  /-- The class of the lasting error that failed it (R377). -/
  cls : Option Nat
  /-- The STATUS that its push found, which a cancelled command keeps (R260, R298). -/
  pushed : Option (BitVec 8)
  /-- Its messages to peers that still matter, and: the writes of the current group have been sent and wait for their replies. -/
  msgs : List XMsg
  sent : Bool
deriving DecidableEq, Repr

/-- The saved state of an A-stream word inside its beats (R198). -/
structure Beat where
  op : BitVec 8
  /-- The queue dstq (or c of APART). -/
  q : Nat
  /-- Address register value and second address register value (index array), read at issue. -/
  base : Word
  ibase : Word
  step : BitVec 16
  beats : Nat
  size : Nat
  push : BitVec 3
  /-- The next beat (or key index of APART). -/
  j : Nat
  /-- Index bytes taken for beat j and not yet used. -/
  index : Option Word
  /-- Beat j of ARST has passed the checks of its hold: the row it goes to (R204). -/
  row : Option HoldRow
  c0 : Nat
  c1 : Nat
deriving DecidableEq, Repr

/-- An open speculation (R161, R162). -/
structure Spec where
  reg : Nat
  label : Word
  next : Word
  /-- The address of the SPEC word. -/
  pc : Word
  sregs : Map Word
  pending : List Nat
  pred : BitVec 8
  loops : Map LoopSlot
  instret : Word
  /-- Held stores, oldest first, at most 32. -/
  stores : List Access
  /-- Watched lines, at most 32. -/
  watched : List Target
  /-- The loads it has executed: they enter the race detector's metadata at the commit (R104, R162). -/
  loads : List Access
  /-- The device's order of issue at the SPEC: accesses from there on are speculative. -/
  order : Nat
  spoilt : Bool
deriving DecidableEq, Repr

/-- A shard: the identity and dispatch state of one instance of a task on a core (R29, R35, R64). -/
structure Shard where
  /-- Identity of this dispatch (the model's own). -/
  uid : Nat
  ctx : Nat
  /-- Key of its task in State.tasks. -/
  task : Nat
  taskId : Word
  num : Nat
  nshard : Nat
  idx : List Nat
  ext : List Nat
  seed : Word
  arg0 : Word
  arg1 : Word
  kdesc : Word
  taskInfo : BitVec 14
  ins : List (BitVec 128)
  outs : List (BitVec 128)
  code : Word
  codeLen : Nat
  hwm : Nat
  pure : Bool
  /-- Committed (R37). -/
  committed : Bool
  /-- The clk from which CR.CYCLE counts (parked time taken out). -/
  cycleBase : Nat
  dispatchedAt : Nat
  /-- Effective priority at dispatch (R291). -/
  eff : Nat
  keepsp : Bool
  /-- A Vigil rebuild task runs it (R417). -/
  rebuild : Bool
  /-- CR.CORE in deterministic mode (R68). -/
  nominal : Nat
  khash : BitVec 384
  tree : BitVec 384
  /-- Non-output versions this shard wrote (R271). -/
  wrote : List Nat
  /-- Its open region in State.regions, if one is open (R105). -/
  region : Option Nat
  /-- Phase-mode clock of this shard, and what it knows of other shards' clocks (R106). -/
  clock : Nat
  knows : Map Nat
  /-- Its core's halt request line: 0 down, 1 up for a park, 2 up for a discard, 3 up for a park by the command SHARD.PARK (R21, R296, R297, R342). -/
  halt : Nat
  /-- Reserve entries of its die's pending-launch store, 0 to 2 (R287). -/
  reserve : Nat
deriving DecidableEq, Repr

/-- A translation held by a TLB (R77, R78). -/
structure Tlb where
  ctx : Nat
  /-- Number of the page, in pages of its size, and its size in bits. -/
  page : Nat
  bits : Nat
  /-- The leaf entry. -/
  entry : Word
deriving DecidableEq, Repr

/-- A walk that installed nothing, for a request of a core that waits for it: the path that asked (0 control, 1 access, 2 fetch), the page and the bits of its size, and whether poisoned data was met (R77, R397). -/
structure WalkFail where
  path : Nat
  page : Nat
  bits : Nat
  poisoned : Bool
deriving DecidableEq, Repr

/-- An exception recorded at a park, to be taken at the resume (R402): its stream, the number in the order of issue of the access that met it, the cause and CR.TVAL. -/
structure Recorded where
  strm : Strm
  order : Nat
  code : BitVec 8
  tval : Word
deriving DecidableEq, Repr

/-- One core (R12). -/
structure Core where
  shard : Option Shard
  /-- CR.CAPACITY (R13). -/
  capacity : Nat
  inService : Bool
  cs : Stream
  as : Stream
  vs : Stream
  /-- Scalar registers; an absent register is 0 (R45). -/
  sregs : Map Word
  /-- Pending scalar registers (R45, R153). -/
  pending : List Nat
  /-- Address registers; an absent register is 0 (R46). -/
  aregs : Map Word
  /-- Register space by granule; an absent granule is 0 (R48). -/
  gran : Map (BitVec 512)
  valid : BitVec 2048
  full : BitVec 2048
  granPoison : List Nat
  /-- Queues 0 to 15, lq0 to lq7 then sq0 to sq7 (R54). -/
  queues : Map Queue
  /-- Token counts of k1 to k7; absent is 0 (R58). -/
  tokens : Map Nat
  barriers : Map Barrier
  holds : Map Hold
  inbox : List InboxEntry
  acc0 : Acc
  acc1 : Acc
  /-- Format words pushed and not consumed, oldest first (R241). -/
  fmts : List Word
  mqueue : List MCmd
  /-- Completions whose channel was full, oldest first (R236). -/
  slotted : List (BitVec 3)
  xqueue : List XCmd
  viewV : BitVec 11
  viewW : BitVec 11
  viewT : BitVec 11
  /-- CR.CPL (R65). -/
  cpl : Word
  ftz : Bool
  rnd : BitVec 3
  vtype : BitVec 4
  fflags : Word
  stackBase : Word
  stackLimit : Word
  tvec : Word
  cause : Word
  tval : Word
  epcC : Word
  epcA : Word
  epcV : Word
  scratch : Word
  /-- SETA values that have not reached an A-stream instruction boundary (R183). -/
  setas : List (Nat × Word)
  /-- C-stream loop slots set aside at trap entry (R172). -/
  savedLoops : Map LoopSlot
  beat : Option Beat
  latches : BitVec 6
  spec : Option Spec
  /-- Scratchpad bytes; an absent byte is 0 (R84). -/
  pad : List Host.Cell
  /-- Poisoned 64-byte granules of the scratchpad (R373). -/
  padPoison : List Nat
  /-- Scalar data cache: at most 512 lines by physical line number, with their bytes (R12, R79). -/
  dcache : Map (List Byte)
  /-- Instruction cache: at most 768 lines by physical line number (R12, R81). -/
  icache : Map (List Byte)
  /-- Micro-TLB: at most 64 entries (R77). -/
  utlb : List Tlb
  /-- Walks that ended in a fault (`false`) or met poisoned data (`true`), for the requests merged with them that have not been tried again (R77, R397). -/
  walkFails : List WalkFail
  /-- A trap by an access whose stream has gone on (R107, R198): the stream, the address of the access's word in its CR.EPC, and where the stream stands. -/
  ahead : Option (Strm × Word × Word)
  /-- The device's order of issue at the C-stream's last pop of a token or queue entry: accesses of the A-stream up to there may happen-before what follows (R90). -/
  joined : Nat
  /-- The device's order of issue at the C-stream's last acquire from another core: accesses of other cores up to there may happen-before what follows (R90). -/
  heard : Nat
  /-- Scalar registers that hold a completion value no C-stream word has read yet, each with the phase-mode knowledge that its first read acquires (R90, R97, R106). -/
  fresh : Map (Map Nat)
  /-- An M-command of the shard has failed: INFO, the address of its fault record (R372, R423). -/
  mfailed : Option Word
  /-- The phase operand of a barrier instruction that waits, by the address of its word (R186). -/
  barWait : Option (Word × Nat)
  /-- The phase operand set aside at trap entry, as the loop slots are (R172, R186). -/
  savedBar : Option (Word × Nat)
  /-- The run-length word of the V-stream whose repeats run: it is fetched, decoded and checked once, before its first repeat (R134). -/
  vrun : Option (BitVec 48)
  /-- M-commands accepted in the core's last run (R196). -/
  lastRun : Nat
  /-- The ready task a pre-empted core is kept for, and the clk of the choice (R296). -/
  keptFor : Option (Nat × Nat)
  /-- A resume that waits for its rows or its lease: its save slot, whether the lease was held at the park, and an exception recorded for it (R300, R402). -/
  resuming : Option (Nat × Bool × Option Recorded)
  /-- The word being executed (the model's own: where BRK finds its immediate). -/
  ir : BitVec 48
deriving DecidableEq, Repr

/-- A miss that waits for a walker or is being walked: its page, by the size that the tables give it at the miss, when it came, and who asked: core and path (R77). -/
structure Miss where
  ctx : Nat
  page : Nat
  bits : Nat
  since : Nat
  core : Nat
  path : Nat
  others : List (Nat × Nat)
deriving DecidableEq, Repr

/-- A page-table entry in a walk cache: its context, its physical address and the entry (R77). -/
structure WalkEntry where
  ctx : Nat
  at_ : Nat
  entry : Nat
deriving DecidableEq, Repr

/-- The translation structures of a cluster (R77): its TLB of 4,096 entries, its walk cache of 256, and its misses in arrival order: the first 8 have a walker, at most 128 more wait. -/
structure Cluster where
  tlb : List Tlb
  walks : List WalkEntry
  misses : List Miss
deriving DecidableEq, Repr

/-- A matrix array's lease (R196, R391). -/
structure Array where
  /-- The core whose run is open or whose accepted commands are completing. -/
  holder : Option Nat
  runOpen : Bool
  runStart : Nat
  accepted : Nat
  waiting : List Nat
  /-- The last holder, for the round-robin choice. -/
  last : Nat
  inService : Bool
deriving DecidableEq, Repr

/-- How far a shard of a task has got (R34, R38, R298). -/
inductive ShardState where
  | waiting
  | running (core : Nat)
  | parked
  | retired
  | stopped
deriving DecidableEq, Repr

/-- How far a task has got (R34, R40). -/
inductive TaskState where
  | pending
  | ready
  | running
  /-- Its seal reports are in the channel (steps 1 and 2 of R40). -/
  | sealing
deriving DecidableEq, Repr

/-- A task of a pending-launch store (R25, R26, R286). -/
structure Task where
  ctx : Nat
  taskId : Word
  kdesc : Word
  seed : Word
  succ : Word
  crec : Word
  deps : Nat
  prio : Nat
  flags : BitVec 8
  arg0 : Word
  arg1 : Word
  ins : List (BitVec 128)
  outs : List (BitVec 128)
  /-- Address of its record, by which successor lists and RELEASE packets name it. -/
  addr : Word
  /-- The die of its store, and the die of the submitting core (`none` for host and peer submissions) (R30). -/
  die : Nat
  /-- The die whose store's entry it occupies: another one only when a SPAWN took a reserve entry (R287). -/
  entry : Nat
  submitter : Option Nat
  /-- The cluster its shards are placed in: the hashed one, or the one that took it (R289, R292). -/
  cluster : Nat
  state : TaskState
  /-- "latest" inputs have been resolved (R35). -/
  resolved : Bool
  shards : List ShardState
  /-- Product of the D extents and of the C extents (R28). -/
  dprod : Nat
  cprod : Nat
  pure : Bool
  /-- Boundaries passed since it became ready (R291), and when it became ready. -/
  aged : Nat
  readyAt : Nat
  /-- The clk at which a shard that was discarded became ready again, by shard number (R290, R301). -/
  again : Map Nat
  /-- Times it was lost (R423). -/
  losses : Nat
  /-- A status other than 0 it will complete with, the shard's core, and INFO (R41). -/
  failed : Option (Nat × Option Nat × Word)
  /-- A shard of it was lost and is not yet disposed of: the task must fail (first two rows of R423), and INFO. -/
  lost : Option (Bool × Word)
  /-- Seal reports not yet acknowledged. -/
  sealsLeft : Nat
  /-- Rebuild task: the lost records (die, index) it re-seals, and its claim (R417, R426). -/
  rebuild : Option (List (Nat × Nat))
  claim : Nat
  /-- The packet that named it: context, queue and packet index (R32). -/
  packet : Option (Nat × Nat × Nat)
  /-- A shard of it has committed (R37, R423). -/
  committed : Bool
  /-- A shard of it has been dispatched: it moves to no other cluster or die any more (R292). -/
  begun : Bool
  /-- The 184 bytes of its manifest, once ATTEST has signed them (R304, R354). -/
  manifest : Option (List Byte)
  /-- Rosters of the rounds its shards waited on, in order of return, with the shard (R304). -/
  rosters : List (Nat × BitVec 64)
  /-- Results waited on by its shards, by shard (R277), as (shard, group, round). -/
  waits : List (Nat × Nat × Nat)
  /-- Recorded Harvest results of a re-execution, as (group, round) (R279). -/
  replay : List (Nat × Nat)
  tree : BitVec 384
  /-- Phase-mode knowledge handed to its shards at dispatch, and what its retired shards hand on (R106). -/
  knows : Map Nat
  doneKnows : Map Nat
deriving DecidableEq, Repr

/-- A parked shard (R298, R299). -/
structure Parked where
  shard : Shard
  /-- The core's state as saved, and the core it was parked on. -/
  core : Core
  fromCore : Nat
  /-- The save slot. -/
  slot : Nat
  /-- Which bytes beyond the spec's fields the park wrote into the slot's header: an index of free values (R299). -/
  header : Nat
  lease : Bool
  /-- Remaining hold clk of the rows to be reopened, by slot. -/
  rows : Map Nat
  parkedAt : Nat
  aged : Nat
  /-- Off the resume list until SHARD.RESUME (R194). -/
  debug : Bool
  /-- Needs a core whose array is in service (R424). -/
  needsArray : Bool
  trapAt : Option Recorded
deriving DecidableEq, Repr

/-- A user-mode queue of a context (R32, R345). -/
structure HostQueue where
  /-- Its entry of the queue table: ring, WIDX and RIDX addresses, and e (0 for an unused entry). -/
  ring : Nat
  widx : Nat
  ridx : Nat
  e : Nat
  pending : Bool
  /-- The dispatcher has cleared the flag and has not yet met an empty slot. -/
  scanning : Bool
  bad : Nat
  /-- Packets consumed and not yet done: index, SIGNAL address (0 for none), records not yet completed. -/
  open_ : List (Nat × Word × Nat)
  /-- MARK packets waiting: index and SIGNAL. -/
  marks : List (Nat × Word)
deriving DecidableEq, Repr

/-- A publication counter (R180, R346). -/
structure Pub where
  bound : Bool
  port : Nat
  wbase : Nat
  wlen : Nat
  caddr : Nat
  count : Word
deriving DecidableEq, Repr

/-- A resident context (R24, R343). -/
structure Ctx where
  /-- STATE of R343: 0 free, 1 resident, 2 parking, 3 tearing down. -/
  state : Nat
  det : Bool
  nohold : Bool
  owner : Nat
  ptroot : Nat
  htab : Nat
  hcount : Nat
  htv : Word
  ltv : Word
  save : Word
  slots : Nat
  usedSlots : List Nat
  fqlog : Nat
  fq : Word
  qtab : Word
  nq : Nat
  pubtab : Word
  npub : Nat
  queues : Map HostQueue
  pubs : Map Pub
  staleSucc : Nat
  underflow : Nat
  debug : Bool
  ncore : Nat
  /-- Phase-mode knowledge of every completed task, handed to tasks accepted later (R106). -/
  knows : Map Nat
deriving DecidableEq, Repr

/-- A ready pool's registers (R295). -/
structure Pool where
  age : BitVec 32
  stagedAge : Option (BitVec 32)
  discard : BitVec 32
  ctl : BitVec 2
  /-- The clk of the last ageing-interval boundary (R291). -/
  last : Nat
deriving DecidableEq, Repr

/-- A tile version (R39, R253 to R257, R269). -/
structure Version where
  ctx : Nat
  handle : BitVec 32
  i : Nat
  j : Nat
  b : Nat
  version : BitVec 32
  /-- The image of R257, and the twin's image of a PSTORE pair. -/
  image : List Byte
  twin : Option (List Byte)
  sealed_ : Bool
  /-- The home copy can be read (R415). -/
  present : Bool
  /-- The task (State.tasks key) or shard (uid) that writes it while unsealed. -/
  task : Option Nat
  writer : Option Nat
  /-- Image bytes written, as (first byte, length, task key, shard number), for deterministic mode (R39); the twin's image counts from 2^20. -/
  writers : List (Nat × Nat × Nat × Nat)
  /-- Its record: die and index, once sealed. -/
  record : Option (Nat × Nat)
  /-- Pieces lost, while not present (R419). -/
  lost : BitVec 66
  /-- Replica bytes, on DIES.replica. -/
  replica : Option (List Byte)
  /-- It was parked while held or read, and its bytes are freed at the last release (R284, R325). -/
  freeLater : Bool
  /-- Phase-mode knowledge of its producer (R106). -/
  knows : Map Nat
  /-- The clk in which a TDROP or TPARK last found it unsealed (R274). -/
  asked : Option Nat
  /-- Pieces for which new rows have been allocated, and how often (R419). -/
  moved : Map Nat
deriving DecidableEq, Repr

/-- An Almanac record (R277). -/
structure Record where
  /-- Identity of the version (State.versions key). -/
  version : Nat
  tile : BitVec 128
  taskId : Word
  kdesc : Word
  khash : BitVec 128
  seed : Word
  arg0 : Word
  arg1 : Word
  roster : BitVec 64
  ins : List Word
  round : BitVec 32
  group : BitVec 16
  ctx : Nat
  /-- [0] ROOT; [1] REPLICA; [2] PARKED; [3] HARVEST; [4] IMPURE; [5] PAIR; [6] DROPPED; [7] RESIDENT. -/
  flags : BitVec 8
  depth : BitVec 4
  retain : BitVec 4
  prio : BitVec 3
  nin : Nat
  outix : BitVec 2
  /-- DIES: home, replica die, replica present, replica in flight. -/
  home : Nat
  replicaDie : Nat
  replicaPresent : Bool
  replicaFlight : Bool
  users : Nat
  win : Word
  plen : BitVec 32
  nonce : BitVec 32
  keyid : BitVec 8
  /-- The order in which it was sealed, over the device (R276). -/
  order : Nat
  /-- What else a rerun of the producer reads as the first run did (R43): [7:0] the T bits of its inputs, [10:8] its FLAGS, [14:11] NOUT, [18:15] the die of its submitting core plus 1, 0 for none. -/
  own : BitVec 32
deriving DecidableEq, Repr

/-- An error record (R375), or an error under retry (R370). -/
structure ErrRec where
  sev : BitVec 8
  cls : BitVec 8
  die : BitVec 8
  unit : BitVec 8
  inst : BitVec 16
  ctx : BitVec 8
  loc : Word
  item : Word
  time : Word
  /-- While it is under retry: the core whose item it hit, and the kind of item, 0 an access of a stream, 1 an X-command, 2 an M-command (R371). It is no part of the record. -/
  owner : Option (Nat × Nat)
deriving DecidableEq, Repr

/-- The Almanac shard, mirror and Vigil of a die (R278, R380, R415). -/
structure Almanac where
  records : Map Record
  /-- The next record index to allocate. -/
  next : Nat
  /-- The shard has a mirror on its buddy (R274, R421, R430). -/
  mirrored : Bool
  /-- Records (index) whose copy in the mirror is lost (R380). -/
  mirrorLost : List Nat
  /-- Records (index) whose version is being rebuilt. -/
  rebuilding : List Nat
  /-- Heartbeats missed in a row, and the clk of the last period's end (R380). -/
  missed : Nat
  beat : Nat
  /-- Error records that Vigil of the die has received, newest first (R375). -/
  log : List ErrRec
  /-- The shard has no free record and the error record of that shortage is posted (R283). -/
  short : Bool
deriving DecidableEq, Repr

/-- A seal report in the seal channel (R21, R274). -/
structure Seal where
  version : Nat
  task : Option Nat
  outix : Nat
  /-- The round it seals, for a Harvest result: group and round. -/
  round : Option (Nat × Nat)
  /-- TSEAL of a non-output version, or a contribution (ROOT). -/
  root : Bool
  /-- A replica is written before it (R37, R271, R275). -/
  replica : Bool
  impure : Bool
  /-- It re-seals a lost version (R417). -/
  reseal : Bool
  /-- The clk at which it was sent, and the die it was sent from (R21, R22). -/
  since : Nat
  die : Nat
deriving DecidableEq, Repr

/-- A replica or fetch in flight (R272, R281, R284). -/
structure Transfer where
  die : Nat
  index : Nat
  target : Nat
deriving DecidableEq, Repr

/-- The states of a Harvest round (R310); a FUTURE or OPEN round is one that has not closed. -/
inductive RoundState where
  | future
  | closing
  | sealing
  | sealed_
  | failed
  | lost
  | dropped
deriving DecidableEq, Repr

/-- A round of a group (R309, R310). -/
structure Round where
  state : RoundState
  roster : BitVec 64
  /-- On-time contributions counted. -/
  onTime : Nat
  /-- Lag of each counted member's contribution, for MEAN (R311). -/
  lags : Map Nat
  /-- Phase-mode knowledge of its contributors (R106). -/
  knows : Map Nat
deriving DecidableEq, Repr

/-- A member of a group (R307). -/
structure Member where
  /-- The bound shard: its identity, by (task key, shard number). -/
  bound : Option (Nat × Nat)
  /-- The Bilot link port a peer member is bound from (R316). -/
  port : Option Nat
  present : Bool
  /-- The round from which a member that has left is not present (R312). -/
  leaveAt : Option (BitVec 32)
  stalled : Bool
  last : Option (BitVec 32)
  /-- LAST as the member's own contributions set it (R315). -/
  own : Option (BitVec 32)
  /-- The last 16 counted contributions: TASKID, shard, tag, round. -/
  hist : List (Word × Nat × BitVec 32 × BitVec 32)
deriving DecidableEq, Repr

/-- A contribution on its way to Harvest control (R308, R313). -/
structure Contribution where
  member : Nat
  tag : BitVec 32
  taskId : Word
  shard : Nat
  payload : List Byte
  /-- The core and register that wait for the result word, or the peer port and message to reply to. -/
  core : Option (Nat × Nat)
  peer : Option (Nat × BitVec 32)
  /-- The sending shard, and what its release handed over (R99, R106). -/
  uid : Nat
  knows : Map Nat
deriving DecidableEq, Repr

/-- An installed Harvest group, under its number (R305 to R310). -/
structure Group where
  ctx : Nat
  decl : List Byte
  die : Nat
  open_ : BitVec 32
  members : Map Member
  rounds : Map Round
  inflight : List Contribution
  /-- The last event Harvest control took for the group: its clk, its class (0 contribution, 1 HSYNC, 2 HLEAVE) and its member (R309). -/
  stamp : Nat × Nat × Nat
deriving DecidableEq, Repr

/-- The activity budgets of a port (R336). -/
structure Budget where
  cap : BitVec 16
  borrow : Bool
  staged : Option (BitVec 17)
  used : BitVec 16
  borrowed : BitVec 16
  /-- Slots charged to the activity and not yet granted, and those charged in the clk of a boundary that has still to be taken (R333 to R335, R337). -/
  tally : Nat
  late : Nat
deriving DecidableEq, Repr

/-- A Calendar port: a quadrant controller or one direction of a link (R333 to R336). -/
structure Port where
  budgets : Map Budget
  reject : Bool
  /-- CAL.PERIOD at `start`, the clk at which the current accounting period began (R334, R336). -/
  periods : Word
  start : Nat
  ovr : BitVec 32
  /-- Quadrant controllers only: ROW.HMAX, ROW.MITTH, layer temperatures and rates. -/
  hmax : BitVec 16
  mitth : BitVec 12
  temps : BitVec 32
  rates : BitVec 8
  /-- Activation counters by row (the ROW field of R332), and neighbour refreshes run (R322). -/
  counters : Map Nat
  mitigations : Nat
  refreshes : Nat
  inService : Bool
  /-- Channels in retraining, with the clk it began, and channels whose last retraining failed (R403, R404). -/
  retraining : Map Nat
  failedOnce : List Nat
  /-- The budgets of reset apply at the next boundary whatever is staged meanwhile: their registers met an ECC error (R409). -/
  forced : Bool
  /-- Failed periods of a channel's write-back with the period of the last, and the clk of its transient class 0 errors, newest first (R403). -/
  wbFails : Map (Nat × Nat)
  crc : Map (List Nat)
deriving DecidableEq, Repr

/-- Counters of one error class in one unit (R374). -/
structure Counters where
  corr : BitVec 32
  trans : BitVec 32
  last : BitVec 32
deriving DecidableEq, Repr

/-- A mailbox (R341). -/
structure Mailbox where
  cmd : Word
  busy : Bool
  status : BitVec 8
  args : Map Word
deriving DecidableEq, Repr

/-- A message of a Bilot link port: header and payload (R349). -/
structure Msg where
  port : Nat
  hdr : BitVec 256
  payload : List Byte
deriving DecidableEq, Repr

/-- A message sent and not yet answered: port, tag, and the access it serves (core and stream, or the core's X-command). -/
structure Pending where
  port : Nat
  tag : BitVec 32
  typ : BitVec 8
  core : Nat
  strm : Strm
  va : Word
  /-- It serves an X-command of the core. -/
  engine : Bool
  /-- The clk it was sent (R414). -/
  since : Nat
deriving DecidableEq, Repr

/-- A store or atomic that its shard had sent when it was stopped or discarded: it still reaches its point of coherence (R42, R301). -/
structure Stray where
  core : Nat
  ctx : Nat
  access : Access
deriving DecidableEq, Repr

/-- A region, under its start in the device's order of issue (R105): its shard, and the order at which the synchronising operation that closes it performed. -/
structure Region where
  uid : Nat
  closed : Option Nat
deriving DecidableEq, Repr

/-- One access in the race detector's metadata (R104 to R107). -/
structure Watched where
  /-- The shard that made it. -/
  uid : Nat
  ctx : Nat
  /-- The naturally aligned 8-byte word. -/
  word : Target
  write : Bool
  /-- Not synchronising and not atomic. -/
  data : Bool
  /-- An atomic or CAS. -/
  atomic : Bool
  /-- The region it belongs to (overlap mode). -/
  region : Nat
  /-- The shard's phase-mode clock. -/
  clock : Nat
deriving DecidableEq, Repr

/-- What a parked context leaves with the device's own part of its park area (R285, R356): in the order of its records their die, index, version and own bits; its parked shards, groups and the dispatch state of its tasks, the versions they have not sealed, the work of packets not yet done, and the poisoned lines of its pages, by global line number. -/
structure Shelf where
  port : Nat
  area : Nat
  /-- The number of the park, which stands in the area's header. -/
  serial : Nat
  places : List (Nat × Nat × Nat × BitVec 32)
  /-- Which bytes of the device's own layout the park wrote into the groups' state blocks: an index of free values. -/
  header : Nat
  parked : Map Parked
  groups : Map Group
  tasks : Map Task
  versions : Map Version
  queues : Map HostQueue
  poison : List Nat
deriving DecidableEq, Repr

/-- What a checkpoint holds besides the bytes of cell memory (R278, R358): the tile store and the Almanac regions, in the layout tables' and the device's own layout. -/
structure Snapshot where
  area0 : Nat
  area1 : Nat
  sealed_ : List Nat
  sealedBy : Map (Nat × Nat)
  poison : List Nat
  tasks : Map Task
  parked : Map Parked
  ctxs : Map Ctx
  versions : Map Version
  almanac : Map Almanac
  groups : Map Group
  remap : Map Nat
  replicas : List Transfer
  fetches : List Transfer
deriving DecidableEq, Repr

/-- The parameters of a step of the device: an input (the table's event rows carry no encoding). -/
structure Args where
  core : Nat
  strm : Strm
  idx : Nat
  a : Nat
  b : Nat
  flag : Bool
  code : BitVec 8
  value : Word
  value2 : Word
  bytes : List Byte
  hdr : BitVec 256
deriving DecidableEq, Repr

/-- Who moves next. -/
inductive Move where
  /-- A stream of a core executes its next word (or beat, or repeat); `choice` is the environment's choice, such as the mesh path (R15); it stands until the next. -/
  | stream (core : Nat) (strm : Strm) (choice : Nat)
  /-- A step of the device happens. -/
  | event (i : Instr) (args : Args)
  /-- Time passes. -/
  | tick (clk : Nat)
deriving DecidableEq, Repr

/-- The state of the module. -/
structure State where
  /-- The device clock in clk (R41, R67). -/
  now : Nat
  /-- The model's own: the stream whose word executes, the parameters of the current device step, the environment's choice, who moves next, the turn cursor, the counter of free values, the counter of identities, and the order of issue. -/
  curCore : Nat
  curStrm : Strm
  args : Args
  choice : Nat
  agenda : List Move
  rr : Nat
  free : Nat
  uid : Nat
  order : Nat
  /-- DRAM bytes by device physical address, canonical (Machine/Ops.lean). -/
  mem : List Host.Cell
  /-- Sealed and poisoned 64-byte lines, by line number, ascending (R74, R373). -/
  sealed_ : List Nat
  poison : List Nat
  /-- The class of the error that last destroyed the data of a line of cell memory, by line number, of a scratchpad granule, by 2^40 + 4096 × core + granule, or of a register-space granule, by 2^41 + 2048 × core + granule (R377). -/
  poisonedBy : Map Nat
  /-- The context and the global line address by which a sealed line was sealed, by line number: the page whose unmapping clears the bit (R74). -/
  sealedBy : Map (Nat × Nat)
  /-- Translation structures of each cluster, by the logical number of its first core over 96 (R77). -/
  clusters : Map Cluster
  watched : List Watched
  regions : Map Region
  /-- Lines whose metadata was replaced by a lost mark, with the shards (uid) that have still to complete a barrier phase or counted wait (R401). -/
  lostMarks : List (Target × List Nat)
  /-- Phase-mode knowledge held by transaction barriers (R106): by an even key the arrivals of the current phase, by the odd one behind it those of completed phases, whose keys are phase × 2^64 + uid. -/
  tbKnows : Map (Map Nat)
  cores : Map Core
  /-- Accesses in flight whose shard has left its core, in their order of issue. -/
  strays : List Stray
  arrays : Map Array
  tasks : Map Task
  parked : Map Parked
  pools : Map Pool
  ctxs : Map Ctx
  versions : Map Version
  almanac : Map Almanac
  /-- Homes of lost dies (R421). -/
  remap : Map Nat
  seals : List Seal
  replicas : List Transfer
  fetches : List Transfer
  groups : Map Group
  ports : Map Port
  counters : Map Counters
  /-- The clk of the last corrected record of a unit and class (R375). -/
  correctedAt : Map Nat
  /-- Errors under retry, records on the bus, records kept by the management processor. -/
  retries : List ErrRec
  bus : List ErrRec
  errors : List ErrRec
  /-- Lanes out of service: 4 × link + lane (R410). -/
  lanes : List Nat
  /-- Units out of service, as (unit, instance) (R424). -/
  units : List (Nat × Nat)
  devState : BitVec 4
  /-- The control and data planes run (R20, R352). -/
  planes : Bool
  dies : BitVec 8
  fwver : Word
  bar2 : Word
  /-- Bits of an offset of BAR 2 on a host port, 30 to 36: its resizable size (R338); a port that nothing has resized shows 36. -/
  barBits : Map Nat
  ctxt : Word
  tsb : BitVec 4
  bootLen : BitVec 32
  bootWin : List Host.Cell
  imageHash : BitVec 384
  pwrLimit : BitVec 12
  pwrNow : BitVec 12
  throttle : BitVec 4
  mailboxes : Map Mailbox
  /-- Ports of queued commands, in the order they run, and the clk of their CMD's arrival (R341). -/
  commands : List (Nat × Nat)
  keys : Map (BitVec 256)
  msix : Map Nat
  /-- Memory of the host on port 0 and 1. -/
  host0 : List Host.Cell
  host1 : List Host.Cell
  /-- Host links and Bilot ports that are down; the clk at which a host link went down. -/
  hostDown : Map Nat
  /-- Host ports that are down and whose contexts have passed to the other port (R413). -/
  hostPassed : List Nat
  bilotDown : List Nat
  peerTable : Map (List Byte)
  sent : List Msg
  outstanding : List Pending
  tag : BitVec 32
  /-- The last completion sent to a host: its status (0 successful, 1 Unsupported Request, 2 successful with the EP bit), then its data (R86, R372). -/
  reply : List Byte
  /-- Accesses of hosts through BAR 2 that wait for the buffer of a row: the device physical address and the clk since when (R324, R331). -/
  barWaits : Map Nat
  doorbellsDropped : Nat
  /-- The queue served last, 64 × context + queue (R345). -/
  served : Nat
  /-- AER errors reported, by 4 × port + 0 correctable, 1 non-fatal, 2 fatal (R357, R380, R412). -/
  aer : Map Nat
  /-- Park areas and checkpoints written to the hosts (R356, R358). -/
  shelves : List Shelf
  ckpts : List Snapshot
  /-- Dispatch is stopped device-wide, for a checkpoint (R358). -/
  frozen : Bool
  /-- The hub die is lost (R23, R429). -/
  deviceLost : Bool
deriving DecidableEq, Repr

/-- No parameters. -/
def Args.none : Args :=
  { core := 0, strm := .c, idx := 0, a := 0, b := 0, flag := false, code := 0, value := 0, value2 := 0, bytes := [], hdr := 0 }

/-- A stream before any dispatch: every field the spec gives no power-on value holds 0 (notes/assumptions/3.md), the window 0x01. -/
def Stream.idle : Stream :=
  { pc := 0, halted := false, pred := 1, loops := [], instret := 0, rep := 0, wait := .none, flight := [] }

/-- A closed accumulator at its dispatch values (R62). -/
def Acc.closed : Acc :=
  { elems := [], rowmax := [], rowsum := [], chain := false, kind := none, kindMma := false, poisoned := false }

/-- A free core: dispatch values where the spec gives them, else 0 (notes/assumptions/3.md). -/
def Core.idle : Core :=
  { shard := none, capacity := 2048, inService := true, cs := .idle, as := .idle, vs := .idle,
    sregs := [], pending := [], aregs := [], gran := [], valid := 0, full := 0, granPoison := [],
    queues := [], tokens := [], barriers := [], holds := [], inbox := [], acc0 := .closed, acc1 := .closed,
    fmts := [], mqueue := [], slotted := [], xqueue := [], viewV := 0, viewW := 0, viewT := 0, cpl := 0,
    ftz := false, rnd := 0, vtype := 0xA, fflags := 0, stackBase := 0, stackLimit := 0, tvec := 0,
    cause := 0, tval := 0, epcC := 0, epcA := 0, epcV := 0, scratch := 0, setas := [], savedLoops := [], beat := none,
    latches := 0, spec := none, pad := [], padPoison := [], dcache := [], icache := [], utlb := [],
    walkFails := [], ahead := none, joined := 0, heard := 0, fresh := [], mfailed := none, barWait := none, savedBar := none, vrun := none, lastRun := 0, keptFor := none, resuming := none,
    ir := 0 }

/-- The kinds of port: quadrant controllers 0 to 31, directions of mesh links 32 to 51, of hub links 52 to 67. -/
def isQuadrant (p : Nat) : Bool := decide (p < 32)
def isMesh (p : Nat) : Bool := decide (32 ≤ p) && decide (p < 52)

/-- CAL.CAP (R334). -/
def calCap (p : Nat) : Nat := if isQuadrant p then 12000 else if isMesh p then 25000 else 4000

/-- The caps of the activities after reset, in order of their codes (R336). -/
def resetCaps (p : Nat) : List Nat :=
  if isQuadrant p then [600, 120, 240, 1200, 6000, 960, 600, 480, 600, 960, 120]
  else if isMesh p then [0, 0, 0, 2500, 12500, 2000, 1500, 1500, 2000, 2500, 250]
  else [0, 0, 0, 400, 2000, 320, 240, 240, 320, 400, 40]

/-- The BORROW bit of an activity after reset. -/
def resetBorrow (a : Nat) : Bool := decide (4 ≤ a) && decide (a ≤ 7)

/-- The budgets of a port after reset. -/
def resetBudgets (p : Nat) : Map Budget :=
  (resetCaps p).zipIdx.map fun x =>
    (x.2, { cap := BitVec.ofNat 16 x.1, borrow := resetBorrow x.2, staged := none, used := 0, borrowed := 0, tally := 0, late := 0 })

/-- The temperatures a quadrant's layers show before their first reading. -/
def firstTemps (p : Nat) : BitVec 32 :=
  BitVec.ofNat 32 ((List.range 4).foldl (fun v n => v + (Config.temperatureAtReset (4 * p + n)).toNat * 2 ^ (8 * n)) 0)

/-- A port after reset (R336). -/
def Port.initial (p : Nat) : Port :=
  { budgets := resetBudgets p, reject := false, periods := 0, start := 0, ovr := 0, hmax := 24000, mitth := 1024,
    temps := if isQuadrant p then firstTemps p else 0, rates := 0, counters := [], mitigations := 0, refreshes := 0, inService := true, retraining := [],
    failedOnce := [], forced := false, wbFails := [], crc := [] }

/-- The 3,072 cores before the planes start (R10, R12): none in service. -/
def coresAtReset : Map Core := (List.range 3072).map fun n => (n, { Core.idle with inService := false })

/-- A matrix array whose lease no core has held (R10, R196): its round-robin starts at the group's first core. -/
def Array.initial (k : Nat) : Array :=
  { holder := none, runOpen := false, runStart := 0, accepted := 0, waiting := [], last := 12 * k + 11, inService := true }

/-- A ready pool at its reset values (R295). -/
def Pool.initial (now : Nat) : Pool := { age := 30000, stagedAge := none, discard := 15000, ctl := 3, last := now }

/-- The 256 matrix arrays, the 8 ready pools, the 68 Calendar ports (32 quadrants, 20 directions of mesh links, 16 of hub links) and the 32 clusters at reset (R10, R295, R336). -/
def arraysAtReset : Map Array := (List.range 256).map fun k => (k, .initial k)
def poolsAtReset (now : Nat) : Map Pool := (List.range 8).map fun d => (d, .initial now)
def portsAtReset : Map Port := (List.range 68).map fun k => (k, .initial k)
def clustersAtReset : Map Cluster := (List.range 32).map fun k => (k, { tlb := [], walks := [], misses := [] })

/-- The module right after power-on reset: the management processor starts from ROM, DEV.STAT.STATE 0, no die in service, no context resident, nothing running (R20, R340, R352). -/
def State.reset : State :=
  { now := 0, curCore := 0, curStrm := .c, args := .none, choice := 0, agenda := [], rr := 0, free := 0, uid := 0,
    order := 0, mem := [], sealed_ := [], poison := [], poisonedBy := [], sealedBy := [], clusters := clustersAtReset, watched := [], regions := [],
    lostMarks := [], tbKnows := [],
    cores := coresAtReset, strays := [], arrays := arraysAtReset, tasks := [], parked := [], pools := poolsAtReset 0, ctxs := [], versions := [],
    almanac := [], remap := [], seals := [], replicas := [], fetches := [], groups := [], ports := portsAtReset, counters := [],
    correctedAt := [], retries := [], bus := [], errors := [], lanes := [], units := [], devState := 0, planes := false, dies := 0, fwver := 0,
    bar2 := 0, barBits := [], ctxt := 0, tsb := 8, bootLen := 0, bootWin := [], imageHash := 0, pwrLimit := 3800, pwrNow := 0,
    throttle := 0, mailboxes := [], commands := [], keys := [], msix := [], host0 := [], host1 := [],
    hostDown := [], hostPassed := [], bilotDown := [], peerTable := [], sent := [], outstanding := [], tag := 0, reply := [],
    barWaits := [], doorbellsDropped := 0, served := 0, aer := [], shelves := [], ckpts := [], frozen := false, deviceLost := false }

end Sys2Proof.Machine
end

