-- ==== Sys2Proof/Machine/Assoc.lean ====
section
/-! DEFINITION. Sparse data by key: maps in ascending order of key, and byte memories in the one canonical form (ascending, no byte equal to what an unlisted address reads as). -/

namespace Sys2Proof.Machine

variable {v : Type}

/-- The entry of a key. -/
def Map.look : Map v → Nat → Option v
  | [], _ => none
  | (j, x) :: r, k => if j = k then some x else Map.look r k

/-- The entry of a key, or a default. -/
def Map.lookD (m : Map v) (k : Nat) (d : v) : v := (Map.look m k).getD d

/-- Enter or replace the entry of a key. -/
def Map.put : Map v → Nat → v → Map v
  | [], k, y => [(k, y)]
  | (j, x) :: r, k, y => if k < j then (k, y) :: (j, x) :: r else if k = j then (k, y) :: r else (j, x) :: Map.put r k y

/-- Remove the entry of a key. -/
def Map.del (m : Map v) (k : Nat) : Map v := m.filter fun e => e.1 ≠ k

/-- Change the entry of a key, if there is one. -/
def Map.upd (m : Map v) (k : Nat) (f : v → v) : Map v :=
  match Map.look m k with
  | none => m
  | some x => Map.put m k (f x)

/-- Apply a function to every entry. -/
def Map.each (m : Map v) (f : Nat → v → v) : Map v := m.map fun e => (e.1, f e.1 e.2)

/-- The keys in ascending order. -/
def Map.keys (m : Map v) : List Nat := m.map Prod.fst

/-- What an address that no entry lists reads as (notes/assumptions/2.md). -/
def unlisted : Byte := 0

/-- Read one byte of a memory. -/
def Memory.get : List Host.Cell → Nat → Byte
  | [], _ => unlisted
  | (x, y) :: r, a => if x = a then y else Memory.get r a

/-- Write one byte of a memory, keeping the canonical form. -/
def Memory.set (m : List Host.Cell) (a : Nat) (b : Byte) : List Host.Cell :=
  if b = unlisted then Map.del m a else Map.put m a b

/-- Read `n` bytes from an address upward. -/
def Memory.getN (m : List Host.Cell) (a : Nat) : Nat → List Byte
  | 0 => []
  | n + 1 => Memory.get m a :: Memory.getN m (a + 1) n

/-- Write bytes from an address upward. -/
def Memory.setN (m : List Host.Cell) (a : Nat) : List Byte → List Host.Cell
  | [] => m
  | b :: bs => Memory.setN (Memory.set m a b) (a + 1) bs

/-- Every address of a memory lies above `a` and rises strictly, and no entry is what an unlisted address reads as. -/
def Memory.above : Nat → List Host.Cell → Bool
  | _, [] => true
  | a, (x, y) :: r => decide (a ≤ x) && decide (y ≠ unlisted) && Memory.above (x + 1) r

/-- The canonical form of a memory: addresses strictly rising, no entry equal to what an unlisted address reads as. -/
def Memory.wf (m : List Host.Cell) : Bool := Memory.above 0 m

/-- Insert a number into an ascending list without repeats. -/
def insertNat : List Nat → Nat → List Nat
  | [], k => [k]
  | x :: r, k => if k < x then k :: x :: r else if k = x then x :: r else x :: insertNat r k

/-- Remove a number from a list. -/
def removeNat (l : List Nat) (k : Nat) : List Nat := l.filter fun x => x ≠ k

end Sys2Proof.Machine
end

