-- ==== Sys2Proof/Machine/Bits.lean ====
section
/-! DEFINITION. Bytes, words and bit fields (R2, R7). -/

namespace Sys2Proof.Machine

/-- The little-endian value of bytes (R2). -/
def ofBytes : List Byte → Nat
  | [] => 0
  | b :: bs => b.toNat + 256 * ofBytes bs

/-- The `n` bytes of a number, least significant first (R2). -/
def toBytes : Nat → Nat → List Byte
  | 0, _ => []
  | n + 1, v => BitVec.ofNat 8 v :: toBytes n (v / 256)

/-- `len` bits of a number from bit `lo`. -/
def bits (v lo len : Nat) : Nat := v / 2 ^ lo % 2 ^ len

/-- One bit of a number. -/
def bitAt (v lo : Nat) : Bool := v / 2 ^ lo % 2 = 1

/-- `sext(x, n)` of R7: the low `n` bits of a number read as two's complement. -/
def sextNat (x n : Nat) : Int :=
  if bitAt x (n - 1) then (x % 2 ^ n : Nat) - (2 ^ n : Nat) else (x % 2 ^ n : Nat)

/-- A number as a 64-bit word, modulo 2^64. -/
def word (i : Int) : Word := BitVec.ofInt 64 i

/-- `sext(x, n)` into a word. -/
def sextWord (x n : Nat) : Word := BitVec.ofInt 64 (sextNat x n)

/-- A word that is 1 or 0. -/
def flagWord (b : Bool) : Word := if b then 1 else 0

/-- Replace `len` bits of a word from bit `lo` by the low bits of a value. -/
def setBits (w : Word) (lo len v : Nat) : Word :=
  BitVec.ofNat 64 (w.toNat - bits w.toNat lo len * 2 ^ lo + v % 2 ^ len * 2 ^ lo)

/-- Set or clear one bit of a bit vector. -/
def setBit {w : Nat} (x : BitVec w) (i : Nat) (b : Bool) : BitVec w :=
  if b then x ||| (1#w <<< i) else x &&& ~~~(1#w <<< i)

/-- Bytes `lo` to `lo + n − 1` of a list, zero beyond its end. -/
def slice (bs : List Byte) (lo n : Nat) : List Byte :=
  let t := (bs.drop lo).take n
  t ++ List.replicate (n - t.length) 0

/-- The little-endian field of `n` bytes at an offset of a record. -/
def field (bs : List Byte) (lo n : Nat) : Nat := ofBytes (slice bs lo n)

/-- Replace bytes of a list from an offset. -/
def patch (bs : List Byte) (lo : Nat) (new : List Byte) : List Byte :=
  bs.take lo ++ new ++ bs.drop (lo + new.length)

/-- The bytes of a record as zero-padded or cut to `n`. -/
def padTo (bs : List Byte) (n : Nat) : List Byte := (bs ++ List.replicate (n - bs.length) 0).take n

/-- Is every byte of a range zero? -/
def zeroRange (bs : List Byte) (lo n : Nat) : Bool := (slice bs lo n).all fun b => b == 0

/-- Round up to a multiple of `n`. -/
def roundUp (x n : Nat) : Nat := (x + n - 1) / n * n

/-- ceil(a ÷ b). -/
def ceilDiv (a b : Nat) : Nat := (a + b - 1) / b

/-- The number of one bits among the low `n` bits. -/
def popBits (x : Nat) : Nat → Nat
  | 0 => 0
  | n + 1 => x % 2 + popBits (x / 2) n

/-- The number of trailing zero bits among the low `n` bits. -/
def ctzBits (x : Nat) : Nat → Nat
  | 0 => 0
  | n + 1 => if x % 2 = 1 then 0 else 1 + ctzBits (x / 2) n

/-- The number of leading zero bits of an `n`-bit number. -/
def clzBits (x : Nat) : Nat → Nat
  | 0 => 0
  | n + 1 => if bitAt x n then 0 else 1 + clzBits x n

end Sys2Proof.Machine
end

