-- ==== Sys2Proof/Machine/Ops.lean ====
section
/-! DEFINITION. The named operations over the state: registers, windows and loops of a core; the address spaces and their translation (R70 to R86); the race detector (R104 to R107); fault records (R377, R378); taking a trap and returning from one (R66, R195, R379 to R384); and what every instruction word does when it completes, branches, waits or traps. -/

namespace Sys2Proof.Machine

/-- What a step answers. -/
abbrev Out := Host.Outcome State Fault Refusal

/-! ### Cores and their streams -/

/-- A core by its logical core number (R11). -/
def State.core? (s : State) (n : Nat) : Option Core := Map.look s.cores n

/-- Replace a core. -/
def State.setCore (s : State) (n : Nat) (c : Core) : State := { s with cores := Map.put s.cores n c }

/-- Change a core, if there is one. -/
def State.updCore (s : State) (n : Nat) (f : Core → Core) : State := { s with cores := Map.upd s.cores n f }

/-- A stream of a core. -/
def Core.strm (c : Core) : Strm → Stream
  | .c => c.cs
  | .a => c.as
  | .v => c.vs

/-- Replace a stream of a core. -/
def Core.setStrm (c : Core) (σ : Strm) (t : Stream) : Core :=
  match σ with
  | .c => { c with cs := t }
  | .a => { c with as := t }
  | .v => { c with vs := t }

/-- Change a stream of a core. -/
def Core.updStrm (c : Core) (σ : Strm) (f : Stream → Stream) : Core := c.setStrm σ (f (c.strm σ))

/-- The stream number in CR.CAUSE and fault records (R66, R377). -/
def strmNum : Strm → Nat
  | .c => 0
  | .a => 1
  | .v => 2

/-- The cluster of a core, as the logical number of its first core (R11). -/
def clusterBase (n : Nat) : Nat := n / 96 * 96

/-- The die of a core (R11). -/
def dieOf (n : Nat) : Nat := n / 384

/-- A scalar register; s0 reads as zero (R45). -/
def Core.sreg (c : Core) (r : BitVec 6) : Word := if r = 0 then 0 else Map.lookD c.sregs r.toNat 0

/-- Write a scalar register; a write to s0 is discarded (R45). -/
def Core.setSreg (c : Core) (r : BitVec 6) (v : Word) : Core :=
  if r = 0 then c else { c with sregs := Map.put c.sregs r.toNat v }

/-- A scalar register makes a word that names it wait: it is pending (R45, R153), or it holds a completion value that the word would be the first to read (R97). s0 never does. -/
def Core.isPending (c : Core) (r : BitVec 6) : Bool := r != 0 && (c.pending.contains r.toNat || (Map.look c.fresh r.toNat).isSome)

/-- Mark a scalar register pending; s0 is never pending, since it reads zero (R153). -/
def Core.setPending (c : Core) (r : BitVec 6) : Core :=
  if r = 0 then c else { c with pending := insertNat c.pending r.toNat }

/-- The value of a pending register arrives (R45, R153); a checkpoint that holds the register as pending takes it too (R161). -/
def Core.settleReg (c : Core) (r : Nat) (v : Word) : Core :=
  { c with
    sregs := if r = 0 then c.sregs else Map.put c.sregs r v
    pending := removeNat c.pending r
    spec := c.spec.map fun x =>
      if x.pending.contains r then { x with sregs := Map.put x.sregs r v, pending := removeNat x.pending r } else x }

/-- An address register; a0 reads as zero (R46). -/
def Core.areg (c : Core) (r : BitVec 5) : Word := if r = 0 then 0 else Map.lookD c.aregs r.toNat 0

/-- Write an address register; a write to a0 is discarded (R46). -/
def Core.setAreg (c : Core) (r : BitVec 5) (v : Word) : Core :=
  if r = 0 then c else { c with aregs := Map.put c.aregs r.toNat v }

/-- A stage predicate; p0 reads 1 (R47). -/
def Stream.p (t : Stream) (i : Nat) : Bool := i == 0 || t.pred.getLsbD i

/-- `shift_in` of R173. -/
def shiftIn (p : BitVec 8) (x : Bool) : BitVec 8 := setBit (setBit (p <<< 1) 1 x) 0 true

/-- One rotation of a predicate window (R47). -/
def rotatePred (p : BitVec 8) : BitVec 8 := shiftIn p (p.getLsbD 7)

/-- CR.CAUSE.INH: a handler is running (R66). -/
def Core.inh (c : Core) : Bool := c.cause.getLsbD 15

/-- The C-stream is speculating (R161). -/
def Core.speculating (c : Core) : Bool := c.spec.isSome

/-- The shard's context is in deterministic mode (R68). -/
def State.det (s : State) (ctx : Nat) : Bool := (Map.look s.ctxs ctx).elim false Ctx.det

/-! ### The PC and the hardware loops (R125, R136, R137) -/

/-- A PC is valid (R125). -/
def validPc (sh : Shard) (pc : Word) : Bool :=
  let d := (pc - sh.code).toNat
  d % 6 == 0 && decide (d < sh.codeLen)

/-- The innermost active LOOP or LOOPI slot, among levels below `top`, that ends on a word. -/
def innermostEnding (loops : Map LoopSlot) (pc : Word) : Nat → Option (Nat × LoopSlot)
  | 0 => none
  | k + 1 =>
    match Map.look loops k with
    | some l => if l.stop = pc ∧ ¬l.isB then some (k, l) else innermostEnding loops pc k
    | none => innermostEnding loops pc k

/-- The updates of R137 at the completion of the word at `pc`, for slots below level `top`: the next PC, the slots and the window. -/
def loopUpdates (pc : Word) : Nat → Map LoopSlot → BitVec 8 → Word × Map LoopSlot × BitVec 8
  | 0, loops, pred => (pc + 6, loops, pred)
  | top + 1, loops, pred =>
    match Map.look loops top with
    | some l =>
      if l.stop = pc ∧ ¬l.isB then
        let pred' := if l.rot then rotatePred pred else pred
        if l.remaining = 1 then loopUpdates pc top (Map.del loops top) pred'
        else (l.start, Map.put loops top { l with remaining := l.remaining - 1 }, pred')
      else loopUpdates pc top loops pred
    | none => loopUpdates pc top loops pred

/-- The word at the stream's PC completes without a taken branch (R137). -/
def Stream.complete (t : Stream) (at_ : Word) : Stream :=
  let (pc, loops, pred) := loopUpdates at_ 4 t.loops t.pred
  { t with pc := pc, loops := loops, pred := pred, wait := .none }

/-- Levels from which a taken branch to `target` makes slots idle: the outermost slot whose body does not hold it (R137, R173). -/
def leftLevel (loops : Map LoopSlot) (target : Word) : Nat :=
  match loops.find? fun e => !(decide (e.2.start.toNat ≤ target.toNat) && decide (target.toNat ≤ e.2.stop.toNat)) with
  | some e => e.1
  | none => 4

/-- A taken branch: no slot is updated, and each active slot whose body does not hold the target becomes idle with every slot inside it (R137). -/
def Stream.branch (t : Stream) (target : Word) : Stream :=
  { t with pc := target, wait := .none, loops := t.loops.filter fun e => e.1 < leftLevel t.loops target }

/-- One more instruction executed (R67, R134). -/
def Stream.count (t : Stream) : Stream := { t with instret := t.instret + 1 }

/-! ### Apertures and translation (R70, R75, R76) -/

/-- The aperture of a generic address, as CVTA names it (0 global, 1 local, 2 cluster), and its offset (R70, R181). -/
def aperture (a : Nat) : Option (Nat × Nat) :=
  if a < 2 ^ 56 then some (0, a)
  else if 0xFF00000000000000 ≤ a ∧ a < 0xFF00000000040000 then some (1, a - 0xFF00000000000000)
  else if 0xFF10000000000000 ≤ a ∧ a < 0xFF10000001800000 then some (2, a - 0xFF10000000000000)
  else none

/-- The scratchpad byte that a local or cluster address of a core names: (logical core number, byte offset). -/
def padOf (n : Nat) (kind off : Nat) : Nat × Nat :=
  if kind = 1 then (n, off) else (clusterBase n + off / 0x40000, off % 0x40000)

/-- A device physical address lies in the tile store (R72, R340). -/
def State.inTileStore (s : State) (pa : Nat) : Bool := decide (s.tsb.toNat * 2 ^ 30 ≤ pa % 2 ^ 34)

/-- A device physical DRAM address outside the tile store (R72, R73). -/
def State.cellAddr (s : State) (pa : Nat) : Bool := decide (pa < 2 ^ 39) && !s.inTileStore pa

/-- The levels of a page table: lowest index bit, index bits, size of the table in bytes, SIZE values allowed (R75). -/
def pageLevels : List (Nat × Nat × Nat × List Nat) :=
  [(48, 8, 2048, [0]), (39, 9, 4096, [0]), (30, 9, 4096, [0, 3]), (21, 9, 4096, [0, 2]), (16, 5, 256, [1])]

/-- Bits of the page that a SIZE value names (R76). -/
def pageBits (size : Nat) : Nat := if size = 1 then 16 else if size = 2 then 21 else 30

/-- TGT of an entry (R76). -/
def tgt (e : Nat) : Nat := bits e 56 4

/-- Frame or table address of an entry (R76). -/
def frame (e : Nat) : Nat := bits e 8 48 * 256

/-- A page-table entry is well formed at a level whose next table has `next` bytes (R76). -/
def State.entryOk (s : State) (e : Nat) (sizes : List Nat) (next : Nat) : Bool :=
  bitAt e 0 && bits e 60 4 == 0 && !bitAt e 7 && bits e 1 2 == 0
  && (decide (tgt e ≤ 2) || decide (8 ≤ tgt e))
  && sizes.contains (bits e 5 2)
  && (if bits e 5 2 = 0 then tgt e == 0 && frame e % next == 0 && s.cellAddr (frame e)
      else frame e % 2 ^ pageBits (bits e 5 2) == 0 && (tgt e != 0 || s.cellAddr (frame e)))

/-- The quadrant of a device physical address is out of service, or its die is lost: its cell memory reads as poisoned (R404, R421). -/
def State.deadQuad (s : State) (pa : Nat) : Bool :=
  (Map.look s.remap (pa / 2 ^ 36)).isSome || (Map.look s.ports (pa / 2 ^ 34)).any fun p => !p.inService

/-- What a table walk answers. -/
inductive Walk where
  | fault
  /-- The walk read poisoned data (R397). -/
  | poisoned
  /-- The leaf entry and the bits of its page. -/
  | leaf (entry bits : Nat)
deriving DecidableEq, Repr

/-- The page-table entry at a physical address of a context, from a walk cache that holds it or from memory (R77, R78). -/
def State.tableEntry (s : State) (cache : List WalkEntry) (ctx a : Nat) : Nat :=
  match cache.find? fun w => w.ctx == ctx && w.at_ == a with
  | some w => w.entry
  | none => ofBytes (Memory.getN s.mem a 8)

/-- The table walk of R75 from a table, past the entries that a walk cache holds. -/
def State.walk (s : State) (cache : List WalkEntry) (ctx va : Nat) : List (Nat × Nat × Nat × List Nat) → Nat → Walk
  | [], _ => .fault
  | (lo, n, _, sizes) :: rest, table =>
    let a := table + 8 * bits va lo n
    let e := s.tableEntry cache ctx a
    let next := match rest with
      | (_, _, size, _) :: _ => size
      | [] => 256
    if (s.poison.contains (a / 64) || s.deadQuad a) && !(cache.any fun w => w.ctx == ctx && w.at_ == a) then .poisoned
    else if !s.entryOk e sizes next then .fault
    else if bits e 5 2 = 0 then s.walk cache ctx va rest (frame e)
    else .leaf e (pageBits (bits e 5 2))

/-- The entries of levels 1 to 4 that a walk reads: what a walk cache may hold of it (R77). -/
def State.walkReads (s : State) (cache : List WalkEntry) (ctx va : Nat) : List (Nat × Nat × Nat × List Nat) → Nat → List WalkEntry
  | [], _ => []
  | (lo, n, _, sizes) :: rest, table =>
    let a := table + 8 * bits va lo n
    let e := s.tableEntry cache ctx a
    if rest = [] ∨ !s.entryOk e sizes 256 then []
    else { ctx := ctx, at_ := a, entry := e } :: if bits e 5 2 = 0 then s.walkReads cache ctx va rest (frame e) else []

/-- The page of a global address of a context as the tables stand: what the copy engine, the layout unit and the control plane use, which R77 gives no TLB (R77, R78). -/
def State.pageOf (s : State) (ctx : Nat) (va : Nat) : Walk :=
  match Map.look s.ctxs ctx with
  | some x => s.walk [] ctx va pageLevels x.ptroot
  | none => .fault

/-- What a translation is for: read, write or instruction fetch (R76). -/
inductive Use where
  | read
  | write
  | fetch
deriving DecidableEq, Repr

/-- What a translation answers. -/
inductive Trans where
  | fault
  | poisoned
  /-- The core's micro-TLB does not hold the page (R77). -/
  | miss
  | ok (t : Target)
deriving DecidableEq, Repr

/-- The target of a global address through a leaf entry of a page of `n` bits (R73, R76, R85). -/
def leafTarget (e n va : Nat) (use : Use) : Trans :=
  let a := frame e + va % 2 ^ n
  if use = .write ∧ ¬bitAt e 3 then .fault
  else if use = .fetch ∧ ¬bitAt e 4 then .fault
  else if tgt e = 0 then .ok (.dram a)
  else if tgt e ≤ 2 then .ok (.host (tgt e - 1) a)
  else .ok (.peer (tgt e - 8) a)

/-- The target of a global address by the tables as they stand (R73, R76, R85). -/
def State.translateFor (s : State) (ctx : Nat) (va : Nat) (use : Use) : Trans :=
  match s.pageOf ctx va with
  | .fault => .fault
  | .poisoned => .poisoned
  | .leaf e n => leafTarget e n va use

/-- A TLB entry serves a global address of a context (R77). -/
def Tlb.serves (t : Tlb) (ctx va : Nat) : Bool := t.ctx == ctx && t.page == va / 2 ^ t.bits

/-- The translation of a global address for a path of a core: 0 control, 1 access, 2 fetch. It comes from the core's micro-TLB; a walk that failed for the path gives its fault or its poisoned data (R77, R397). -/
def Core.translate (c : Core) (path ctx va : Nat) (use : Use) : Trans :=
  match c.utlb.find? fun t => t.serves ctx va with
  | some t => leafTarget t.entry.toNat t.bits va use
  | none => match c.walkFails.find? fun f => f.path == path && f.page == va / 2 ^ f.bits with
    | some f => if f.poisoned then .poisoned else .fault
    | none => .miss

/-- A list with a new first entry and at most `cap` entries: a full one loses the entry that the environment chooses. -/
def bounded {α : Type} (cap choice : Nat) (l : List α) (x : α) : List α :=
  x :: if l.length < cap then l else l.eraseIdx (choice % l.length)

/-- The miss joins the misses of its cluster: behind earlier arrivals and, of those of its clk, behind lower core numbers and lower paths, whichever of them moved first; the first 8 are being walked (R77). -/
def Miss.enqueue (m : Miss) : List Miss → List Miss
  | [] => [m]
  | x :: r =>
    if x.since < m.since ∨ x.core < m.core ∨ (x.core = m.core ∧ x.path ≤ m.path) then x :: m.enqueue r else m :: x :: r

/-- The bits of the page that a miss names. DESIGN CHOICE: the spec does not say which page a miss names before its walk has found the page's size; the model takes the page that the tables give the address as they stand, and 64 KiB where they give none (notes/assumptions/57.md). -/
def State.missBits (s : State) (ctx va : Nat) : Nat :=
  match s.pageOf ctx va with
  | .leaf _ n => n
  | _ => 16

/-- The miss is for the page of a global address. -/
def Miss.names (m : Miss) (ctx va : Nat) : Bool := m.ctx == ctx && m.page == va / 2 ^ m.bits

/-- A translation that the micro-TLB of a core does not hold: the cluster TLB fills it, or the request merges with the miss for its page, or it joins the miss queue if that has room, which of the arrivals of one clk the lower core numbers and paths take first (R77). The stream that asked waits and asks again. -/
def State.tlbMiss (s : State) (n path ctx va : Nat) : State :=
  match Map.look s.clusters (n / 96) with
  | none => s
  | some k =>
    match k.tlb.find? fun t => t.serves ctx va with
    | some t => s.updCore n fun c => { c with utlb := bounded 64 s.choice c.utlb t }
    | none =>
      let b := s.missBits ctx va
      let misses :=
        if k.misses.any fun m => m.names ctx va then
          k.misses.map fun m => if m.names ctx va ∧ (n, path) ∉ (m.core, m.path) :: m.others then { m with others := m.others ++ [(n, path)] } else m
        else (({ ctx := ctx, page := va / 2 ^ b, bits := b, since := s.now, core := n, path := path, others := [] } : Miss).enqueue k.misses).take 136
      { s with clusters := Map.put s.clusters (n / 96) { k with misses := misses } }

/-- The target of a global address, if it translates. -/
def State.translate (s : State) (ctx : Nat) (va : Nat) (use : Use) : Option Target :=
  match s.translateFor ctx va use with
  | .ok t => some t
  | _ => none

/-! ### Bytes of a target -/

/-- The 64-byte line of a target. -/
def Target.line : Target → Target
  | .pad n o => .pad n (o / 64 * 64)
  | .dram a => .dram (a / 64 * 64)
  | .host p a => .host p (a / 64 * 64)
  | .peer p a => .peer p (a / 64 * 64)

/-- The core whose scratchpad a target lies in. -/
def Target.pad? : Target → Option Nat
  | .pad k _ => some k
  | _ => none

/-- A target some bytes further on. -/
def Target.plus : Target → Nat → Target
  | .pad n o, k => .pad n (o + k)
  | .dram a, k => .dram (a + k)
  | .host p a, k => .host p (a + k)
  | .peer p a, k => .peer p (a + k)

/-- The memory of the host on a port. -/
def State.hostMem (s : State) (port : Nat) : List Host.Cell := if port = 0 then s.host0 else s.host1

/-- Replace the memory of the host on a port. -/
def State.setHostMem (s : State) (port : Nat) (m : List Host.Cell) : State :=
  if port = 0 then { s with host0 := m } else { s with host1 := m }

/-- `n` bytes of a target as it stands. A peer's bytes are not the module's: its replies bring them. -/
def State.readTarget (s : State) (t : Target) (n : Nat) : List Byte :=
  match t with
  | .pad k o => (s.core? k).elim (List.replicate n 0) fun c => Memory.getN c.pad o n
  | .dram a => Memory.getN s.mem a n
  | .host p a => Memory.getN (s.hostMem p) a n
  | .peer _ _ => List.replicate n 0

/-- A 64-byte line shares a byte with `n` bytes at a target. -/
def Target.reaches : Target → Nat → Target → Bool
  | .pad j o, n, .pad k l => decide (j = k) && decide (l < o + n) && decide (o < l + 64)
  | .dram a, n, .dram l => decide (l < a + n) && decide (a < l + 64)
  | .host j a, n, .host k l => decide (j = k) && decide (l < a + n) && decide (a < l + 64)
  | .peer j a, n, .peer k l => decide (j = k) && decide (l < a + n) && decide (a < l + 64)
  | _, _, _ => false

/-- The write to a line spoils the speculation of every core that watches it (R162). -/
def State.spoil (s : State) (t : Target) (n : Nat) : State :=
  if s.cores.any fun e => e.2.spec.any fun x => x.watched.any fun w => t.reaches n w then
    { s with cores := Map.each s.cores fun _ c =>
        { c with spec := c.spec.map fun x => { x with spoilt := x.spoilt || x.watched.any fun w => t.reaches n w } } }
  else s

/-- A write of bytes clears the poison of every 64-byte line or granule it covers whole (R373). -/
def clearPoison (poison : List Nat) (a n : Nat) : List Nat :=
  poison.filter fun l => !(decide (a ≤ 64 * l) && decide (64 * l + 64 ≤ a + n))

/-- Write bytes at a target, at its point of coherence (R80, R82). -/
def State.writeTarget (s : State) (t : Target) (bs : List Byte) : State :=
  let s := s.spoil t bs.length
  match t with
  | .pad k o => s.updCore k fun c =>
      { c with pad := Memory.setN c.pad o bs, padPoison := clearPoison c.padPoison o bs.length }
  | .dram a => { s with mem := Memory.setN s.mem a bs, poison := clearPoison s.poison a bs.length }
  | .host p a => s.setHostMem p (Memory.setN (s.hostMem p) a bs)
  | .peer _ _ => s

/-- The bytes of a target include poisoned data (R373). -/
def State.poisoned (s : State) (t : Target) (n : Nat) : Bool :=
  match t with
  | .pad k o => (s.core? k).any fun c => c.padPoison.any fun l => decide (64 * l < o + n) && decide (o < 64 * l + 64)
  | .dram a => s.deadQuad a || s.deadQuad (a + n - 1) || s.poison.any fun l => decide (64 * l < a + n) && decide (a < 64 * l + 64)
  | _ => false

/-- The bytes of a target reach a sealed line (R74). -/
def State.hitsSealed (s : State) (t : Target) (n : Nat) : Bool :=
  match t with
  | .dram a => s.sealed_.any fun l => decide (64 * l < a + n) && decide (a < 64 * l + 64)
  | _ => false

/-! ### The race detector (R104 to R107) -/

/-- The naturally aligned 8-byte words of `n` bytes at a target, each with its distance in bytes from the first. -/
def wordsOf (t : Target) (n : Nat) : List (Nat × Target) :=
  let off := match t with
    | .pad _ o => o % 8
    | .dram a => a % 8
    | _ => 0
  let first := match t with
    | .pad k o => Target.pad k (o / 8 * 8)
    | .dram a => Target.dram (a / 8 * 8)
    | t => t
  (List.range (ceilDiv (off + n) 8)).map fun k => (8 * k, first.plus (8 * k))

/-- A shard runs on a core, or is parked, in a context. -/
def State.shardIn (s : State) (ctx uid : Nat) : Bool :=
  (s.cores.any fun e => e.2.shard.any fun h => h.uid == uid && h.ctx == ctx) || s.parked.any fun e => e.2.shard.uid == uid && e.2.shard.ctx == ctx

/-- The line of a word bears a lost mark that some shard of a context has still to pass, in phase mode (R401). -/
def State.lostMark (s : State) (ctx : Nat) (t : Target) : Bool := s.lostMarks.any fun m => m.1 = t.line && m.2.any (s.shardIn ctx)

/-- The metadata of a line is lost: it starts empty, and for the shards of deterministic-mode contexts it bears a lost mark (R401). -/
def State.loseMetadata (s : State) (t : Target) : State :=
  let uids := (s.cores.filterMap fun e => e.2.shard.filter fun h => s.det h.ctx).map Shard.uid
    ++ (s.parked.filter fun e => s.det e.2.shard.ctx).map fun e => e.2.shard.uid
  { s with
    watched := s.watched.filter fun e => e.word.line ≠ t.line
    lostMarks := (s.lostMarks.filter fun m => m.1 ≠ t.line) ++ if uids = [] then [] else [(t.line, uids)] }

/-- An access as the detector sees it: its shard, its region, and in phase mode the shard's clock and what the shard knew (R105, R106). -/
structure Racer where
  uid : Nat
  ctx : Nat
  region : Nat
  clock : Nat
  knows : Map Nat
deriving DecidableEq, Repr

/-- An access of a shard that performs now: its region is the open one, or starts with it. -/
def State.racer (s : State) (sh : Shard) : Racer :=
  { uid := sh.uid, ctx := sh.ctx, region := sh.region.getD s.order, clock := sh.clock, knows := sh.knows }

/-- An access as it was issued by a shard. -/
def Access.racer (f : Access) (sh : Shard) : Racer :=
  { uid := sh.uid, ctx := sh.ctx, region := f.region, clock := f.clock, knows := f.knows }

/-- The order at which the operation that closes a region performed, if it has. -/
def State.closedAt (s : State) (region : Nat) : Option Nat := (Map.look s.regions region).bind Region.closed

/-- The active times of two regions, named by their starts, overlap (R105). -/
def State.overlap (s : State) (a b : Nat) : Bool :=
  (s.closedAt a).all (fun t => decide (b < t)) && (s.closedAt b).all fun t => decide (a < t)

/-- The detector watches an access: a data access, and in phase mode an atomic or CAS as well (R104, R106). -/
def State.watches (s : State) (ctx : Nat) (data atomic : Bool) : Bool := data || (s.det ctx && atomic)

/-- An entry of the metadata conflicts with a watched access to its word: in overlap mode their regions overlap, in phase mode the access's shard did not know of the entry (R105, R106). Both accesses of a watched conflict are watched (R104, R106, R364; notes/assumptions/46.md). -/
def State.conflicts (s : State) (r : Racer) (write data atomic : Bool) (e : Watched) : Bool :=
  e.uid != r.uid && (e.write || write) && s.watches r.ctx e.data e.atomic && s.watches r.ctx data atomic
  && if s.det r.ctx then decide (Map.lookD r.knows e.uid 0 < e.clock) else s.overlap e.region r.region

/-- The distance of the first word of an access that conflicts at its point of coherence (R104, R107, R401). Reads of sealed lines never race (R103). -/
def State.raceOf (s : State) (r : Racer) (t : Target) (n : Nat) (write data atomic : Bool) : Option Nat :=
  match t with
  | .host _ _ => none
  | .peer _ _ => none
  | _ =>
    if !write && s.hitsSealed t n then none
    else ((wordsOf t n).find? fun w =>
      (s.det r.ctx && (data || atomic) && s.lostMark r.ctx w.2)
      || s.watched.any fun e => e.word = w.2 && s.conflicts r write data atomic e).map Prod.fst

/-- Check 8 of R174 for an access of a shard that performs now (R107). -/
def State.raceAt (s : State) (sh : Shard) (t : Target) (n : Nat) (write data atomic : Bool) : Option Nat :=
  s.raceOf (s.racer sh) t n write data atomic

/-- The access belongs to its shard's open region, which starts with it if none is open; the order of issue advances (R105). -/
def State.openRegion (s : State) (n : Nat) (uid region : Nat) : State :=
  { s.updCore n fun c => { c with shard := c.shard.map fun h => { h with region := some region } } with
    regions := if (Map.look s.regions region).isSome then s.regions else Map.put s.regions region { uid := uid, closed := none }
    order := s.order + 1 }

/-- Enter an access that performs into the metadata (R104). -/
def State.enter (s : State) (r : Racer) (t : Target) (len : Nat) (write data atomic : Bool) : State :=
  match t with
  | .host _ _ => s
  | .peer _ _ => s
  | _ =>
    { s with watched := s.watched ++ (wordsOf t len).map fun w =>
        { uid := r.uid, ctx := r.ctx, word := w.2, write := write, data := data, atomic := atomic, region := r.region, clock := r.clock } }

/-- An access of the shard on a core that performs at once is entered, and its region opened (R104, R105). -/
def State.watch (s : State) (n : Nat) (sh : Shard) (t : Target) (len : Nat) (write data atomic : Bool) : State :=
  let r := s.racer (((s.core? n).bind Core.shard).getD sh)
  (s.openRegion n r.uid r.region).enter r t len write data atomic

/-- The synchronising operation that ends a region has performed: the region is closed (R105). -/
def State.closeRegion (s : State) (region : Nat) : State :=
  { s with
    regions := Map.upd s.regions region fun x => { x with closed := x.closed.orElse fun _ => some s.order }
    order := s.order + 1 }

/-- The shard on a core begins a new region at its next access. -/
def Core.endRegion (c : Core) : Core := { c with shard := c.shard.map fun h => { h with region := none } }

/-- A synchronising operation of the shard on a core that performs at once closes the shard's open region (R105). -/
def State.syncPoint (s : State) (n : Nat) : State :=
  match ((s.core? n).bind Core.shard).bind Shard.region with
  | none => s
  | some k => (s.updCore n Core.endRegion).closeRegion k

/-- Merge phase-mode knowledge (R106). -/
def mergeKnows (a b : Map Nat) : Map Nat := b.foldl (fun m e => Map.put m e.1 (max e.2 (Map.lookD m e.1 0))) a

/-- What a shard's release hands on: what it knows and its own accesses so far (R106). -/
def Shard.release (sh : Shard) : Map Nat := mergeKnows sh.knows [(sh.uid, sh.clock)]

/-- The shard on a core releases: its later accesses get a new clock (R106). -/
def State.tickClock (s : State) (n : Nat) : State :=
  s.updCore n fun c => { c with shard := c.shard.map fun h => { h with clock := h.clock + 1 } }

/-- The shard on a core acquires from another core or agent: what was issued so far may happen-before what follows (R90), and it takes on knowledge (R106). -/
def State.acquire (s : State) (n : Nat) (k : Map Nat) : State :=
  s.updCore n fun c => { c with heard := s.order, shard := c.shard.map fun h => { h with knows := mergeKnows h.knows k } }

/-- A shard has completed a barrier phase or a counted wait, or has ended: a lost mark clears once every shard has (R401). -/
def State.passed (s : State) (uid : Nat) : State :=
  if s.lostMarks.isEmpty then s
  else { s with lostMarks := (s.lostMarks.map fun m => (m.1, removeNat m.2 uid)).filter fun m => !m.2.isEmpty }

/-- The metadata of a shard's accesses is dropped with the shard (R301). -/
def State.dropWatched (s : State) (uid : Nat) : State :=
  { s.passed uid with
    watched := s.watched.filter fun e => e.uid ≠ uid
    regions := s.regions.filter fun e => e.2.uid ≠ uid }

/-- A core's scratchpad is cleared for a shard (R84): no access of an earlier shard reaches a byte that the new one can name, so its metadata starts empty (R91; DEDUCED, log 12). -/
def State.newPad (s : State) (n : Nat) : State :=
  { s with watched := s.watched.filter fun e => e.word.pad? ≠ some n, lostMarks := s.lostMarks.filter fun m => m.1.pad? ≠ some n }

/-- A target in the scratchpad of a core as one in another's. -/
def Target.inPad (m n : Nat) : Target → Target
  | .pad k o => .pad (if k = m then n else k) o
  | t => t

/-- The metadata of a saved scratchpad goes with its bytes (R84, R106). -/
def State.movePad (s : State) (m n : Nat) : State :=
  { s with watched := s.watched.map fun e => { e with word := e.word.inPad m n }, lostMarks := s.lostMarks.map fun e => (e.1.inPad m n, e.2) }

/-- The place that stands for the scratchpad of a parked shard in the metadata: beyond every core number. -/
def parkedPad (key : Nat) : Nat := 2 ^ 32 + key

/-! ### Stores in flight (R93, R95) -/

/-- Two targets share a line. -/
def sameLine (t u : Target) : Bool := t.line = u.line

/-- The links by the model's own numbers: the ten mesh links of R14, then the hub link of each die. -/
def linkEnds : List (Nat × Nat) :=
  [(0, 1), (1, 2), (2, 3), (4, 5), (5, 6), (6, 7), (0, 4), (1, 5), (2, 6), (3, 7)] ++ (List.range 8).map fun d => (d, 8)

/-- The number of the link that joins two dies. -/
def linkOf (a b : Nat) : Nat := (linkEnds.findIdx? fun e => e == (min a b, max a b)).getD 18

/-- The links along a row of the mesh from one column to another, as they are travelled. -/
def rowLinks (row c d : Nat) : List Nat :=
  (List.range (max c d - min c d)).map fun i =>
    let k := if c ≤ d then c + i else c - i - 1
    linkOf (4 * row + k) (4 * row + k + 1)

/-- The links of path Pn from a die to another (R15). -/
def pathLinks (a b p : Nat) : List Nat :=
  if p % 2 = 0 then rowLinks (a / 4) (a % 4) (b % 4) ++ if a / 4 = b / 4 then [] else [linkOf (b % 4) (b % 4 + 4)]
  else linkOf (a % 4) (a % 4 + 4) :: (rowLinks (1 - a / 4) (a % 4) (b % 4) ++ if a / 4 = b / 4 then [linkOf (b % 4) (b % 4 + 4)] else [])

/-- A link stands: neither of its dies is lost (R23). -/
def State.linkOk (s : State) (l : Nat) : Bool :=
  (linkEnds[l]?).all fun e => (Map.look s.remap e.1).isNone && (Map.look s.remap e.2).isNone

/-- A link has lost a die or its four lanes (R411). -/
def State.linkDown (s : State) (l : Nat) : Bool := !s.linkOk l || (List.range 4).all fun n => s.lanes.contains (4 * l + n)

/-- The hub link of a die, over which all its host and Bilot traffic goes, is up (R16, R411). -/
def State.hubOk (s : State) (d : Nat) : Bool := !s.linkDown (10 + d)

/-- No link of a path has lost a die or the lane that the path uses (R23, R410). -/
def State.pathOk (s : State) (a b p : Nat) : Bool := (pathLinks a b p).all fun l => s.linkOk l && !s.lanes.contains (4 * l + p)

/-- The path that the environment's choice names among those in service (R15, R410). DESIGN CHOICE: with none in service, and neither die declared lost yet, the spec does not say what becomes of an access; it takes the path the choice names and performs (notes/assumptions/46.md). -/
def State.choosePath (s : State) (a b : Nat) : Nat :=
  let ok := (List.range 4).filter (s.pathOk a b)
  ok.getD (s.choice % max 1 ok.length) (s.choice % 4)

/-- The path of an access: the paths P0 to P3 to another die, 4 for the own die and scratchpads, 5 for host and peer windows (R15, R93, R95). -/
def State.pathFor (s : State) (n : Nat) (flight : List Access) (t : Target) : Nat :=
  match t with
  | .pad _ _ => 4
  | .host _ _ => 5
  | .peer _ _ => 5
  | .dram a =>
    if a / 2 ^ 36 = dieOf n then 4 else
    match flight.find? fun f => f.kind ≠ .load ∧ sameLine f.target t with
    | some f => f.path
    | none => s.choosePath (dieOf n) (a / 2 ^ 36)

/-- The five counts of paths, own die and scratchpads are zero (R95). An access whose exception has been taken is in no count: it had no effect, and is sent again at RTE (R383). -/
def Stream.fiveZero (t : Stream) : Bool := t.flight.all fun f => f.held || f.kind == .load || decide (5 ≤ f.path)

/-- All six counts are zero (R95). A host-window store whose posted write has left the port (path 6) is in none of them. -/
def Stream.sixZero (t : Stream) : Bool := t.flight.all fun f => f.held || f.kind == .load || decide (6 ≤ f.path)

/-- No store of the stream is unperformed: the conditions of R101 as well. A flushing read that failed has returned (R412). -/
def Stream.allZero (t : Stream) : Bool :=
  t.flight.all fun f => f.held || f.kind == .load || (f.kind == .store && decide (f.path = 6) && f.failed)

/-- Every load and atomic of the stream has performed (R89, R100). -/
def Stream.loadsDone (t : Stream) : Bool := t.flight.all fun f => f.held || f.kind == .store || f.value.isSome

/-- A release of a scope may go ahead: the stream's earlier loads and atomics have performed, and its stores as R95 says (R89, R92, R95): 0 core, 1 cluster, 2 device, 3 system. -/
def Stream.released (t : Stream) (scope : Nat) : Bool :=
  t.loadsDone && if scope ≤ 1 then t.fiveZero else if scope = 2 then t.sixZero else t.allZero

/-- An acquire access of the stream has not returned its value to its register (R89, R175). -/
def Stream.acquiring (t : Stream) : Bool := t.flight.any fun f => !f.held && f.ord.getLsbD 0 && f.kind != .store

/-- A host- or peer-window store has still to leave as a release of device (2) or system (3) scope asks: the second waits for its flushing read too (R95, R101). -/
def Access.leaving (f : Access) (scope : Nat) : Bool :=
  !f.held && f.kind != .load && (decide (f.path = 5) || (decide (scope = 3) && decide (f.path = 6) && !f.failed))

/-- Stores of the other stream that happen-before the C-stream's next release, by its last pop of a token or queue entry, have left as a scope asks (R90, R95, R101): those to DRAM and scratchpads performed before the push. -/
def Core.joinedOut (c : Core) (scope : Nat) : Bool :=
  decide (scope ≤ 1) || c.as.flight.all fun f => decide (c.joined ≤ f.order) || !f.leaving scope

/-- Window stores of other cores of the context that may happen-before the next release of a core, by its last acquire from another core, have left as a scope asks (R90, R95, R101): their other stores performed before the release that was acquired. -/
def State.heardOut (s : State) (n : Nat) (c : Core) (scope : Nat) : Bool :=
  decide (scope ≤ 1)
  || (s.cores.all fun e => e.1 == n || (e.2.shard.all fun h => c.shard.all fun sh => h.ctx != sh.ctx)
      || (e.2.cs.flight ++ e.2.as.flight).all fun f => decide (c.heard ≤ f.order) || !f.leaving scope)
    && s.strays.all fun e => (c.shard.all fun sh => e.ctx != sh.ctx) || decide (c.heard ≤ e.access.order) || !e.access.leaving scope

/-- A release of the C-stream at a scope may go ahead, as far as the core's own accesses go (R89, R90, R95). -/
def Core.released (c : Core) (scope : Nat) : Bool := c.cs.released scope && c.joinedOut scope

/-! ### Fault records (R377, R378) -/

/-- The fields of a fault record that its source gives (R377). -/
structure FaultRec where
  typ : Nat
  cls : Nat
  cause : Nat
  strm : Nat
  core : Nat
  shard : Nat
  taskId : Word
  tval : Word
  pc : Word
  addr : Word
  index : Word
deriving DecidableEq, Repr

/-- The 64 bytes of a fault record (R377). -/
def FaultRec.bytes (f : FaultRec) (seq now : Nat) : List Byte :=
  toBytes 8 seq ++ toBytes 1 f.typ ++ toBytes 1 f.cls ++ toBytes 1 f.cause ++ toBytes 1 f.strm ++ toBytes 2 f.core
  ++ toBytes 2 f.shard ++ toBytes 8 f.taskId.toNat ++ toBytes 8 f.tval.toNat ++ toBytes 8 f.pc.toNat
  ++ toBytes 8 f.addr.toNat ++ toBytes 8 f.index.toNat ++ toBytes 8 now

/-- Raise an MSI-X vector on a port (R347). -/
def State.msixUp (s : State) (port vector : Nat) : State :=
  { s with msix := Map.put s.msix (64 * port + vector) (Map.lookD s.msix (64 * port + vector) 0 + 1) }

/-- Post a fault record to the queue of a context (R378): the state, and the address of the record (0 where the queue's pages do not translate, notes/assumptions/7.md). -/
def State.postFault (s : State) (ctx : Nat) (f : FaultRec) : State × Word :=
  match Map.look s.ctxs ctx with
  | none => (s, 0)
  | some x =>
    match s.translate ctx (x.fq - 8).toNat .write with
    | none => (s, 0)
    | some tw =>
      let w := ofBytes (s.readTarget tw 8)
      let at_ := x.fq.toNat + 64 * (w % 2 ^ x.fqlog)
      match s.translate ctx at_ .write with
      | none => (s, 0)
      | some tr =>
        (((s.writeTarget tr (f.bytes w s.now)).writeTarget tw (toBytes 8 (w + 1))).msixUp x.owner 1,
          BitVec.ofNat 64 at_)

/-! ### Counters and records (R374 to R376) -/

/-- The counters of an error class in a unit: key of die, UNIT, INST and CLASS. -/
def errKey (die unit inst cls : Nat) : Nat := ((die * 16 + unit) * 65536 + inst) * 16 + cls

/-- One more, saturating. -/
def moreErrors (x : BitVec 32) : BitVec 32 := if x = 0xFFFFFFFF then x else x + 1

/-- Count an error of a unit with an outcome: 0 corrected, 1 transient, 2 lasting (R371). Class 255 has no counters. -/
def State.countError (s : State) (die unit inst cls outcome : Nat) : State :=
  if 9 ≤ cls then s
  else
    let k := errKey die unit inst cls
    let c := Map.lookD s.counters k { corr := 0, trans := 0, last := 0 }
    let new : Counters :=
      if outcome = 0 then { c with corr := moreErrors c.corr } else if outcome = 1 then { c with trans := moreErrors c.trans }
      else { c with last := moreErrors c.last }
    { s with counters := Map.put s.counters k new }

/-- An error record goes onto the bus; a fatal one overtakes the others (R21, R375, R376). -/
def State.postError (s : State) (sev cls die unit inst ctx : Nat) (loc item : Word) : State :=
  let r : ErrRec :=
    { sev := BitVec.ofNat 8 sev, cls := BitVec.ofNat 8 cls, die := BitVec.ofNat 8 die, unit := BitVec.ofNat 8 unit,
      inst := BitVec.ofNat 16 inst, ctx := BitVec.ofNat 8 ctx, loc := loc, item := item, time := BitVec.ofNat 64 s.now, owner := none }
  if sev = 3 then { s with bus := (s.bus.filter fun x => x.sev == 3) ++ [r] ++ s.bus.filter fun x => x.sev != 3 }
  else { s with bus := s.bus ++ [r] }

/-- Post the record of an error under retry with a severity. -/
def State.postRetried (s : State) (r : ErrRec) (sev : Nat) : State :=
  s.postError sev r.cls.toNat r.die.toNat r.unit.toNat r.inst.toNat r.ctx.toNat r.loc r.item

/-- The retry of an error that hit an item of a kind of a core has yet to end: the item does not complete before it (R371, R376). -/
def State.retrying (s : State) (n kind : Nat) : Bool := s.retries.any fun r => r.owner == some (n, kind)

/-- Retries in flight for items of a core are dropped with the items, and their errors count as transient (R371). -/
def State.dropRetries (s : State) (n : Nat) : State :=
  let of (r : ErrRec) : Bool := r.owner.any fun o => o.1 == n
  (s.retries.filter of).foldl (fun s r => (s.countError r.die.toNat r.unit.toNat r.inst.toNat r.cls.toNat 1).postRetried r 1)
    { s with retries := s.retries.filter fun r => !of r }

/-- A corrected record, at most one per unit and class in 1 ms (R375). -/
def State.postCorrected (s : State) (die unit inst cls ctx : Nat) (loc item : Word) : State :=
  let k := errKey die unit inst cls
  if (Map.look s.correctedAt k).any fun t => decide (s.now < t + 1500000) then s
  else { s with correctedAt := Map.put s.correctedAt k s.now }.postError 0 cls die unit inst ctx loc item

/-! ### Open rows (R322, R324) -/

/-- The quadrant controller of a place: die × 4 + k. -/
def quadOf (place : Nat) : Nat := place / 2 ^ 24

/-- The hold keeps its row open: held, and its deadline not yet taken away (deadline 0 marks a deterministic-mode hold whose row has closed, R327). -/
def Hold.open (h : Hold) : Bool := h.state == .held && h.deadline != 0

/-- Slots, over all cores, that keep open the row at a place. -/
def State.holders (s : State) (place : Nat) : List (Nat × Nat) :=
  s.cores.flatMap fun e => (e.2.holds.filter fun h => h.2.open && decide (h.2.place.toNat = place)).map fun h => (e.1, h.1)

/-- Neighbours of a row that a mitigation refreshes (R322). -/
def neighbours (row : Nat) : List Nat :=
  ((if 8 ≤ row then [row - 8] else []) ++ (if 4 ≤ row then [row - 4] else []) ++ [row + 4, row + 8]).filter fun r => decide (r < 65536)

/-- The activities of R333 by their codes. -/
def actRefresh : Nat := 0
def actScrub : Nat := 1
def actMitigate : Nat := 2
def actHold : Nat := 3
def actTask : Nat := 4
def actSwap : Nat := 5
def actCkpt : Nat := 6
def actReplica : Nat := 7
def actHarvest : Nat := 8
def actRecover : Nat := 9
def actMgmt : Nat := 10

/-- Slots are charged to an activity of a port (R333), in the clk of the boundary to the period that begins (R337). -/
def Port.charge (p : Port) (a n now : Nat) : Port :=
  { p with budgets := Map.upd p.budgets a fun b => if p.start + 1500 ≤ now then { b with late := b.late + n } else { b with tally := b.tally + n } }

/-- Slots are charged to an activity of a port: at a quadrant controller a column access or an activate costs 1, a refresh 2, a precharge nothing; at a fabric port a flit costs 1 (R334). -/
def State.charge (s : State) (port a n : Nat) : State := if n = 0 then s else { s with ports := Map.upd s.ports port fun p => p.charge a n s.now }

/-- The fabric ports that a flit passes from a die along links: the directions that it travels. -/
def routePorts : Nat → List Nat → List Nat
  | _, [] => []
  | d, l :: r =>
    let e := linkEnds.getD l (8, 8)
    if d = e.1 then (32 + 2 * l) :: routePorts e.2 r else (33 + 2 * l) :: routePorts e.1 r

/-- Flits cross the mesh from a die to another and back, for an activity (R333). -/
def State.chargeFlits (s : State) (a b path act n : Nat) : State :=
  if a = b then s
  else (routePorts a (pathLinks a b path) ++ routePorts b (pathLinks a b path).reverse).foldl (fun s p => s.charge p act n) s

/-- Flits cross a die's hub link and back. -/
def State.chargeHub (s : State) (d act n : Nat) : State := (s.charge (52 + 2 * d) act n).charge (53 + 2 * d) act n

/-- A row is precharged: its activation counter goes up, and at ROW.MITTH its neighbours are refreshed, at activity MITIGATE, and it restarts (R322). -/
def State.countActivation (s : State) (place : Nat) : State :=
  { s with ports := Map.upd s.ports (quadOf place) fun p =>
      let n := Map.lookD p.counters place 0 + 1
      let near := (neighbours (place % 65536)).length
      if p.mitth.toNat ≤ n then
        { p.charge actMitigate (2 * near) s.now with counters := Map.del p.counters place, mitigations := p.mitigations + near }
      else { p with counters := Map.put p.counters place n } }

/-! ### Ending a shard -/

/-- A rolled-back speculation: the checkpoint is restored, loads issued under it are dropped, and the next instruction is `pc` (R162, R163). -/
def Core.rollback (c : Core) (pc : Word) : Core :=
  match c.spec with
  | none => c
  | some x =>
    { c with
      spec := none, sregs := x.sregs, pending := x.pending, walkFails := []
      cs := { c.cs with pc := pc, pred := x.pred, loops := x.loops, instret := x.instret, wait := .none,
                        flight := c.cs.flight.filter fun f => f.kind != .load || decide (f.order < x.order) } }

/-- The register of an open speculation has its value, and the speculation is to resolve before anything else happens (R162). -/
def Core.resolvable (c : Core) : Bool := c.spec.any fun x => !x.pending.contains x.reg

/-- The halt request line of a core is raised for a purpose (Shard.halt): an open speculation ends with its checkpoint, at the SPEC word (R21, R163). -/
def State.raiseHalt (s : State) (n halt : Nat) : State :=
  s.updCore n fun c => { c.rollback ((c.spec.map Spec.pc).getD c.cs.pc) with shard := c.shard.map fun h => { h with halt := halt } }

/-! ### The effect of an access at its point of coherence -/

/-- The new value of an atomic of n bytes (R177). -/
def atomicNew (fn n : Nat) (old b : Nat) : Nat :=
  let m := 2 ^ (8 * n)
  match fn with
  | 0 => (old + b) % m
  | 1 => old &&& b
  | 2 => old ||| b
  | 3 => old ^^^ b
  | 4 => if sextNat old (8 * n) ≤ sextNat b (8 * n) then old else b
  | 5 => if sextNat old (8 * n) ≤ sextNat b (8 * n) then b else old
  | 6 => min old b
  | 7 => max old b
  | _ => b

/-- The register value of a load, atomic or CAS of `n` bytes (R175, R177, R178). -/
def extend (signed : Bool) (n v : Nat) : Word := if signed then sextWord v (8 * n) else BitVec.ofNat 64 v

/-- An access of a core performs: the state after it, and the value it returns (R80, R93, R177, R178). -/
def State.perform (s : State) (f : Access) : State × Word :=
  let old := ofBytes (s.readTarget f.target f.size)
  match f.kind with
  | .load => (s, extend f.signed f.size old)
  | .store => (s.writeTarget f.target (toBytes f.size f.data.toNat), 0)
  | .atomic =>
    (s.writeTarget f.target (toBytes f.size (atomicNew f.fn f.size old (f.data.toNat % 2 ^ (8 * f.size)))),
      extend f.signed f.size old)
  | .cas =>
    (if old = f.cmp.toNat % 2 ^ (8 * f.size) then s.writeTarget f.target (toBytes f.size f.data.toNat) else s,
      extend f.signed f.size old)

/-- The access writes: a store, atomic or CAS. -/
def Access.writes (f : Access) : Bool := f.kind != .load

/-- The access reads its bytes: a load, atomic or CAS. -/
def Access.reads (f : Access) : Bool := f.kind != .store

/-- An atomic or CAS. -/
def Access.isAtomic (f : Access) : Bool := f.kind == .atomic || f.kind == .cas

/-- An entry of the A-stream's flight that accesses nothing: a token push, or an AFLUSH, that waits for what precedes it (R200, R207). -/
def Access.marker (f : Access) : Bool := f.kind == .load && f.rd == 255

/-- A data access: neither synchronising nor atomic (R89). -/
def Access.isData (f : Access) : Bool := f.ord == 0 && !f.isAtomic

/-- A host or peer window. -/
def Target.outside : Target → Bool
  | .host _ _ => true
  | .peer _ _ => true
  | _ => false

/-! ### The rows that accesses reach (R322, R324, R333) -/

/-- The ROW field of R332 for a device physical address: DIE, QUAD, CH, PC, BANK, ROW (R73, R317). -/
def rowPlace (pa : Nat) : Nat :=
  bits pa 36 3 * 2 ^ 26 + bits pa 34 2 * 2 ^ 24 + bits pa 10 3 * 2 ^ 21 + bits pa 13 1 * 2 ^ 20 + bits pa 14 4 * 2 ^ 16 + bits pa 18 16

/-- The subarray group of a row place: bank and ROW mod 4 (R317). -/
def groupOf (place : Nat) : Nat := place / 2 ^ 16 * 4 + place % 4

/-- The Calendar port of a quadrant controller, if it has been configured. -/
def State.port? (s : State) (p : Nat) : Option Port := Map.look s.ports p

/-- Another row of the same subarray group is held open (R324). -/
def State.groupHeld (s : State) (place : Nat) : Bool :=
  s.cores.any fun e => e.2.holds.any fun h =>
    h.2.open && decide (groupOf h.2.place.toNat = groupOf place) && decide (h.2.place.toNat ≠ place)

/-- The channel of a place is being retrained: its requests wait (R403). -/
def State.retraining (s : State) (place : Nat) : Bool := (s.port? (quadOf place)).any fun p => (Map.look p.retraining (bits place 21 3)).isSome

/-- An access to DRAM waits for its row: the buffer of its subarray group holds another row (R324), or its channel is being retrained (R403). -/
def State.rowBlocked (s : State) : Target → Bool
  | .dram a => s.groupHeld (rowPlace a) || s.retraining (rowPlace a)
  | _ => false

/-- The activity of an access: HOLD for a beat to a held row, else TASKDATA (R333). -/
def Access.activity (f : Access) : Nat := if !f.isAtomic && f.fn != 0 then actHold else actTask

/-- A row is opened for an activity: unless a hold keeps it open, its activate is charged, and it is counted when it closes (R322, R334). -/
def State.rowOpened (s : State) (place act : Nat) : State :=
  if s.holders place = [] then (s.charge (quadOf place % 32) act 1).countActivation place else s

/-- Bytes of cell memory, or of an area beside it, are read or written from a die for an activity: their column accesses, the activates of their rows, and their flits (R333, R334). -/
def State.chargeBytes (s : State) (die pa n act : Nat) : State :=
  let lines := (pa + n - 1) / 64 - pa / 64 + 1
  let s := (List.range ((pa + n - 1) / 1024 - pa / 1024 + 1)).foldl (fun s k => s.rowOpened (rowPlace (pa / 1024 * 1024 + 1024 * k)) act) s
  (s.charge (pa / 2 ^ 34 % 32) act lines).chargeFlits die (pa / 2 ^ 36 % 8) (s.choosePath die (pa / 2 ^ 36 % 8)) act lines

/-- An access has performed: its column access, with an activate if its row was opened for it, and its flits are charged (R333, R334); the row so opened is counted when it closes (R322). -/
def State.chargeAccess (s : State) (n : Nat) (f : Access) (opened : Bool) : State :=
  match f.target with
  | .dram a =>
    let s := if opened then s.rowOpened (rowPlace a) f.activity else s
    (s.charge (a / 2 ^ 34 % 32) f.activity 1).chargeFlits (dieOf n) (a / 2 ^ 36 % 8) f.path f.activity 1
  | .pad _ _ => s
  | _ => s.chargeHub (dieOf n) f.activity 1

/-! ### What an access in flight meets -/

/-- The exception that an access in flight meets if it reaches its point of coherence now, with CR.TVAL: one decided before, a window's refusal (R85, R350, R412), a scratchpad whose shard has left (R302, R399), a line sealed since its issue (R74), or a race (R107), in the order of R398. A read of poisoned data meets none (R398). -/
def State.heldFault (s : State) (sh : Shard) (f : Access) : Option (BitVec 8 × Word) :=
  if f.held then none
  else if f.fault.isSome then f.fault
  else if f.failed ∧ f.reads then some (12, f.va)
  else if f.value.isSome ∨ f.target.outside then none
  else if f.target.pad?.any fun k => !(((s.core? k).bind Core.shard).any fun h => h.ctx == sh.ctx) then some (13, f.va)
  else if f.reads ∧ s.poisoned f.target f.size then none
  else if f.writes ∧ s.hitsSealed f.target f.size then some (9, f.va)
  else (s.raceOf (f.racer sh) f.target f.size f.writes f.isData f.isAtomic).map fun d => (8, (f.va &&& ~~~7#64) + BitVec.ofNat 64 d)

/-- An access of a shard takes effect at its point of coherence: it is entered into the metadata (R80, R82, R104). -/
def State.takesEffect (s : State) (sh : Shard) (f : Access) : State × Word :=
  (s.enter (f.racer sh) f.target f.size f.writes f.isData f.isAtomic).perform f

/-- A synchronising access has performed and closes its region (R105). -/
def State.closedBy (s : State) (f : Access) : State := if f.ord = 0 then s else s.closeRegion f.region

/-- An access of a shard performs at its point of coherence: it takes effect, and a synchronising one closes its region (R80, R82, R104, R105). -/
def State.performs (s : State) (sh : Shard) (f : Access) : State × Word :=
  let (s, v) := s.takesEffect sh f
  (s.closedBy f, v)

/-! ### A shard leaves its core -/

/-- An access in flight has yet to reach its point of coherence. -/
def Access.underway (f : Access) : Bool := f.value.isNone && !f.held && decide (f.path ≠ 6)

/-- Insert an access among others in order of issue. -/
def Stray.enqueue (x : Stray) : List Stray → List Stray
  | [] => [x]
  | y :: r => if y.access.order ≤ x.access.order then y :: x.enqueue r else x :: y :: r

/-- The stores, atomics and CAS that the shard on a core has sent stay on their way when it is stopped or discarded; messages to peers have gone (R42, R301, R348). -/
def State.stray (s : State) (n : Nat) : State :=
  match s.core? n with
  | none => s
  | some c => c.shard.elim s fun sh =>
    let going := (c.cs.flight ++ c.as.flight).filter fun f =>
      f.writes && f.underway && !f.failed && (s.heldFault sh f).isNone && (match f.target with | .peer _ _ => false | _ => true)
    { s with strays := going.foldl (fun l f => Stray.enqueue { core := n, ctx := sh.ctx, access := f } l) s.strays }

/-- An access on its way to the scratchpad of a core finds no shard of its context there, and takes the aperture fault when it arrives (R302, R399). -/
def Access.orphan (n : Nat) (f : Access) : Access :=
  if f.target.pad? = some n ∧ f.value = none ∧ ¬f.marker then { f with fault := f.fault.orElse fun _ => some (13, f.va) } else f

/-- What another core had on its way to the core that its shard leaves: accesses, and an ENQR that waits for room in its inbox (R302, R399). -/
def Core.orphan (n : Nat) (c : Core) : Core :=
  { c with
    cs := { c.cs with flight := c.cs.flight.map (Access.orphan n), wait := if c.cs.wait = .append n then .appendGone else c.cs.wait }
    as := { c.as with flight := c.as.flight.map (Access.orphan n) } }

/-- The shard of a core leaves it: what is on its way there finds it gone. -/
def State.orphan (s : State) (n : Nat) : State :=
  { s with
    cores := if s.cores.any fun e => e.2.cs.wait == .append n || (e.2.cs.flight ++ e.2.as.flight).any fun f => f.target.pad? == some n
      then Map.each s.cores fun _ c => c.orphan n else s.cores
    strays := s.strays.filter fun e => e.access.target.pad? ≠ some n }

/-- A core whose shard has ended: everything of the shard is gone; inbox entries of other contexts stay (R61). -/
def Core.vacated (c : Core) : Core :=
  { Core.idle with
    capacity := c.capacity, inService := c.inService, keptFor := c.keptFor
    inbox := c.inbox.filter fun e => c.shard.all fun h => e.ctx ≠ h.ctx }

/-- The array of a core's group (R11). -/
def arrayOf (n : Nat) : Nat := n / 12

/-- The lease run of a core ends (R196). -/
def State.endRun (s : State) (n : Nat) : State :=
  { s with arrays := Map.upd s.arrays (arrayOf n) fun a =>
      if a.holder = some n ∧ a.runOpen then { a with runOpen := false, last := n } else a }

/-- The lease of a core is gone with its shard: nothing it accepted is left to complete. -/
def State.dropLease (s : State) (n : Nat) : State :=
  { s with arrays := Map.upd s.arrays (arrayOf n) fun a =>
      { a with
        runOpen := if a.holder = some n then false else a.runOpen
        last := if a.holder = some n then n else a.last
        holder := if a.holder = some n then none else a.holder
        waiting := removeNat a.waiting n } }

/-- Set the state of a shard of a task. -/
def State.setShard (s : State) (task num : Nat) (x : ShardState) : State :=
  { s with tasks := Map.upd s.tasks task fun t => { t with shards := t.shards.set num x } }

/-- A shard leaves its core: what it has sent stays on its way, its lease ends, the retries for its items are dropped, its rows close, its state is dropped. -/
def State.vacate (s : State) (n : Nat) : State :=
  match s.core? n with
  | none => s
  | some c =>
    let s := ((((s.stray n).orphan n).dropLease n).dropRetries n).updCore n Core.vacated
    ((c.holds.filter fun h => h.2.open).map fun h => h.2.place.toNat).eraseDups.foldl (fun s p =>
      if s.holders p = [] then s.countActivation p else s) s

/-- An unsealed non-output version of a shard is dropped with it, unless its seal report is in the channel (R271, R301). -/
def State.dropUnsealed (s : State) (uid : Nat) : State :=
  { s with versions := s.versions.filter fun e => !(e.2.writer == some uid && !e.2.sealed_ && s.seals.all fun q => q.version != e.1) }

/-! ### Accesses that are made and served in one step -/

/-- An access of a die to another is underway on a path (R15). -/
def State.pathBusy (s : State) (a b p : Nat) : Bool :=
  let on (f : Access) : Bool := f.underway && decide (f.path = p) && match f.target with
    | .dram x => decide (x / 2 ^ 36 % 8 = b)
    | _ => false
  (s.cores.any fun e => decide (dieOf e.1 = a) && (e.2.cs.flight ++ e.2.as.flight).any on)
  || s.strays.any fun e => decide (dieOf e.core = a) && on e.access

/-- The path on which an engine of a die reaches another in this step, by the environment's choice: none of those of the die's accesses that are underway is overtaken on it (R15). With no path in service the choice stands as for an access (notes/assumptions/46.md). -/
def State.freePath (s : State) (a b : Nat) : Option Nat :=
  if a = b then some 4
  else
    let ok := (List.range 4).filter (s.pathOk a b)
    let free := (if ok = [] then List.range 4 else ok).filter fun p => !s.pathBusy a b p
    free[s.choice % max 1 free.length]?

/-- An engine of a die does not reach a target now: every path to its die would overtake an access of the die (R15). -/
def State.pathsBusy (s : State) (die : Nat) : Target → Bool
  | .dram a => (s.freePath die (a / 2 ^ 36 % 8)).isNone
  | _ => false

/-- What a shard on a core reads or writes in one step is charged as its access: the row opened for it, its column accesses, and its flits on the path it takes (R15, R333, R334). -/
def State.chargeAt (s : State) (n : Nat) (t : Target) (len : Nat) : State :=
  let lines := (len + 63) / 64
  match t with
  | .dram a =>
    ((s.rowOpened (rowPlace a) actTask).charge (a / 2 ^ 34 % 32) actTask lines).chargeFlits (dieOf n) (a / 2 ^ 36 % 8)
      ((s.freePath (dieOf n) (a / 2 ^ 36 % 8)).getD 4) actTask lines
  | .pad _ _ => s
  | _ => s.chargeHub (dieOf n) actTask lines

/-- What a core would read or write in one step has to wait: for its row (R324, R403), or for earlier accesses of its die on every path there (R15). -/
def State.blocked (s : State) (n : Nat) (t : Target) : Bool := s.rowBlocked t || s.pathsBusy (dieOf n) t

/-! ### Pending-launch stores (R286 to R288) -/

/-- General entries of a store (R286). -/
def generalEntries : Nat := 65536 - 1024

/-- Reserve entries that the running shards of a die hold (R287). -/
def State.reserved (s : State) (die : Nat) : Nat :=
  (s.cores.filter fun e => dieOf e.1 == die).foldl (fun a e => a + e.2.shard.elim 0 Shard.reserve) 0

/-- Entries of a die's store that tasks other than recovery tasks occupy. -/
def State.occupied (s : State) (die : Nat) : Nat := (s.tasks.filter fun e => e.2.entry == die && e.2.rebuild.isNone).length

/-- Free general entries of a die's store. -/
def State.freeEntries (s : State) (die : Nat) : Nat := generalEntries - (s.occupied die + s.reserved die)

/-- Entries of the recovery reserve in use (R286, R426). -/
def State.recoveryUsed (s : State) (die : Nat) : Nat := (s.tasks.filter fun e => e.2.entry == die && e.2.rebuild.isSome).length

/-- Blocking SPAWNs that wait for an entry of a die: since when, and the core (R288). -/
def State.claimants (s : State) (die : Nat) : List (Nat × Nat) :=
  s.cores.filterMap fun e => match e.2.cs.wait with
    | .launch since d => if d = die then some (since, e.1) else none
    | _ => none

/-- Replace used reserve entries of the shards of a die while general entries are free that no SPAWN waits for (R287, R288). -/
def State.refill (s : State) (die : Nat) : State :=
  ((Map.keys s.cores).filter fun n => dieOf n == die).foldl (fun s n =>
    match (s.core? n).bind Core.shard with
    | some h =>
      let room := s.freeEntries die - (s.claimants die).length
      s.updCore n fun c => { c with shard := some { h with reserve := min 2 (h.reserve + room) } }
    | none => s) s

/-- Every other running or parked shard of a task stops without retiring (R42). -/
def State.stopTask (s : State) (task : Nat) : State :=
  match Map.look s.tasks task with
  | none => s
  | some t =>
    let s := s.cores.foldl (fun s e => match e.2.shard with
      | some h => if h.task = task then ((s.vacate e.1).dropWatched h.uid).dropUnsealed h.uid else s
      | none => s) s
    let gone := s.parked.filter fun e => e.2.shard.task = task
    let s := { s with parked := s.parked.filter fun e => e.2.shard.task ≠ task }
    let s := gone.foldl (fun s e =>
      { ((s.newPad (parkedPad e.1)).dropWatched e.2.shard.uid).dropUnsealed e.2.shard.uid with ctxs := Map.upd s.ctxs e.2.shard.ctx fun x => { x with usedSlots := removeNat x.usedSlots e.2.slot } }) s
    let s := { s with tasks := Map.put s.tasks task { t with shards := t.shards.map fun x => match x with
        | .retired => .retired
        | _ => .stopped } }
    (List.range 8).foldl State.refill s

/-- A shard halts on a trap that no handler takes (R379): the TYPE 1 record, the siblings stopped, STATUS 1 with INFO the record. -/
def State.haltShard (s : State) (n : Nat) (sh : Shard) (σ : Strm) (code : Nat) (tval pc : Word) : State :=
  let (s, at_) := s.postFault sh.ctx
    { typ := 1, cls := 0xFF, cause := code, strm := strmNum σ, core := n, shard := sh.num, taskId := sh.taskId,
      tval := tval, pc := pc, addr := 0, index := 0 }
  let s := s.stopTask sh.task
  { s with tasks := Map.upd s.tasks sh.task fun t =>
      { t with failed := t.failed.orElse fun _ => some (1, some n, at_) } }

/-- A shard is lost (R423): its task's shards stop, and SHARD_LOST disposes of the task. `cell` says that the poisoned data was cell memory. -/
def State.loseShard (s : State) (sh : Shard) (cell : Bool) (info : Word) : State :=
  let s := s.stopTask sh.task
  { s with tasks := Map.upd s.tasks sh.task fun t =>
      { t with lost := some ((t.lost.elim false Prod.fst) || t.committed || (cell && !sh.pure), info) } }

/-- The class of the error that has just destroyed the data of a line or granule (R377), by its key in `poisonedBy`. -/
def State.blame (s : State) (key cls : Nat) : State := { s with poisonedBy := Map.put s.poisonedBy key cls }

/-- The class of the error that poisoned what an access of a core names by CR.TVAL: a line of cell memory, a granule of a scratchpad, or a granule of the register space; 0xFF where none is known (R377). -/
def State.poisonClass (s : State) (n : Nat) (sh : Shard) (tval : Word) (cell : Bool) : Nat :=
  let key : Option Nat := match aperture tval.toNat with
    | some (0, off) =>
      if cell then (match s.translateFor sh.ctx off .read with
        | .ok (.dram a) => some (a / 64)
        | _ => none)
      else some (2 ^ 41 + 2048 * n + off)
    | some (k, off) => some (2 ^ 40 + 4096 * (padOf n k off).1 + (padOf n k off).2 / 64)
    | none => none
  (key.bind (Map.look s.poisonedBy)).getD 0xFF

/-- A stream's own access reads poisoned data: the shard stops at the word with a TYPE 3 record, and no handler is entered (R373). -/
def State.stopPoisoned (s : State) (n : Nat) (sh : Shard) (σ : Strm) (tval pc : Word) (cell : Bool) : State :=
  let (s, at_) := s.postFault sh.ctx
    { typ := 3, cls := s.poisonClass n sh tval cell, cause := 9, strm := strmNum σ, core := n, shard := sh.num, taskId := sh.taskId,
      tval := tval, pc := pc, addr := 0, index := 0 }
  s.loseShard sh cell at_

/-! ### Taking a trap, and returning from one -/

/-- The register changes of trap entry (R66, R172, R381, R382): CR.CAUSE with INH, CR.TVAL and the three CR.EPC are set, the C-stream's loop slots are set aside with the phase operand of a barrier word that has arrived, and the C-stream goes to CR.TVEC. DESIGN CHOICE: the spec says that RTE restarts a run-length word at its repeat j, not whether the word is fetched and checked again; the model forgets its fetch, so it is (notes/assumptions/57.md). -/
def Core.enterHandler (c : Core) (σ : Strm) (code : BitVec 8) (tval : Word) : Core :=
  { c with
    cause := BitVec.ofNat 64 (0x8000 + 256 * strmNum σ + code.toNat)
    tval := tval
    epcC := c.cs.pc
    epcA := c.as.pc
    epcV := c.vs.pc
    savedLoops := c.cs.loops
    savedBar := c.barWait
    barWait := none
    vrun := none
    cs := { c.cs with pc := c.tvec, loops := [], wait := .none }
    as := { c.as with wait := .none }
    vs := { c.vs with wait := .none } }

/-- A trap of a stream of a core (R66, R163, R379, R382, R384): an open speculation rolls back to its SPEC word and a waiting LEASE is abandoned; then the handler is entered, or, with no handler or with INH set, the shard halts. -/
def State.takeTrap (s : State) (n : Nat) (σ : Strm) (code : BitVec 8) (tval : Word) : State :=
  match s.core? n with
  | none => s
  | some c =>
    match c.shard with
    | none => s
    | some sh =>
      let c := { c.rollback ((c.spec.map Spec.pc).getD c.cs.pc) with walkFails := [] }
      if c.tvec = 0 ∨ c.inh then (s.setCore n c).haltShard n sh σ code.toNat tval (c.strm σ).pc
      else
        let s := { s with arrays := Map.upd s.arrays (arrayOf n) fun a => { a with waiting := removeNat a.waiting n } }
        s.setCore n (c.enterHandler σ code tval)

/-- An access had no effect, and neither has any later beat of its word of the A-stream: they are held until the stream resumes; the register of a held access of the C-stream is not pending meanwhile (R6, R198, R383). -/
def Core.holdAccess (c : Core) (σ : Strm) (f : Access) : Core :=
  let gone (g : Access) : Bool := decide (g.order = f.order) && g.rd == f.rd
    || (σ == .a && !g.marker && g.cmp == f.cmp && decide (f.order < g.order))
  let c := c.updStrm σ fun t => { t with flight := t.flight.map fun g => if gone g then { g with held := true, value := if σ = .a then none else g.value } else g }
  if σ = .c ∧ f.reads then { c with pending := removeNat c.pending f.rd } else c

/-- An access of a stream takes its exception as a trap behind its issue (R107, R198, R383, R402): CR.EPC holds the address given, it has had no effect, and it goes on when its stream resumes there (notes/assumptions/13.md). -/
def State.takeHeldAt (s : State) (n : Nat) (σ : Strm) (f : Access) (pc : Word) (code : BitVec 8) (tval : Word) : State :=
  (s.updCore n fun c =>
    let c := (c.rollback ((c.spec.map Spec.pc).getD c.cs.pc)).holdAccess σ f
    { c.updStrm σ fun t => { t with pc := pc } with ahead := some (σ, pc, (c.strm σ).pc) }).takeTrap n σ code tval

/-- The exception of an access behind its issue is taken with its word in CR.EPC. -/
def State.takeHeld (s : State) (n : Nat) (σ : Strm) (f : Access) (code : BitVec 8) (tval : Word) : State := s.takeHeldAt n σ f f.pc code tval

/-- A stream resumes from the handler (R195): a halted stream stays halted; with SKIP the trapping stream completes its word. -/
def Stream.resume (t : Stream) (epc : Word) (skip : Bool) : Stream :=
  if t.halted then t
  else if skip then { t with pc := epc, rep := 0 }.complete epc |>.count
  else { t with pc := epc, wait := .none }

/-- The accesses of a stream behind a skipped word: the one whose exception was taken is dropped, and with it the later beats and the token push of its word (R195, R198). -/
def dropWord (gone : List Word) : List Access → List Access
  | [] => []
  | f :: r => if f.held ∨ gone.contains f.cmp then dropWord (f.cmp :: gone) r else f :: dropWord gone r

/-- The address registers that SETA wrote during a word of the A-stream change at its end (R183). -/
def Core.applySetas (c : Core) : Core := c.setas.foldl (fun c e => c.setAreg (BitVec.ofNat 5 e.1) e.2) { c with setas := [] }

/-- The stream whose access trapped behind its issue resumes where it stood: its access goes on, or with SKIP is dropped (R195, R383). -/
def Core.goOn (c : Core) (τ : Strm) (pc : Word) (skip : Bool) : Core :=
  let t := c.strm τ
  let back := (t.flight.filter fun f => f.held && f.reads && τ == .c && !skip).map Access.rd
  let flight :=
    if skip then (if τ = .a then dropWord [] t.flight else t.flight.filter fun f => !f.held)
    else t.flight.map fun f => if f.held then { f with held := false, failed := false, fault := none } else f
  { c.setStrm τ { t with pc := pc, wait := .none, flight := flight } with pending := back.foldl insertNat c.pending, ahead := none }

/-- The word of beats that a skip ends is the one in progress: no exception came from behind it, or it came from one of its own beats. -/
def Core.skipsBeat (c : Core) : Bool :=
  c.beat.isSome && (c.ahead.isNone || c.as.flight.any fun f => f.held && f.cmp == c.as.instret)

/-- The return from a handler (R195): the loop slots and the barrier operand set aside come back, the streams resume at their CR.EPC, and INH is cleared. -/
def Core.returnFromTrap (c : Core) (skip : Bool) : Core :=
  let σ := bits c.cause.toNat 8 2
  let behind := c.ahead.isSome && !(σ == 1 && skip && c.skipsBeat)
  let ends := skip && !behind
  let d : Core := { c with
    cs := { c.cs with loops := c.savedLoops }.resume c.epcC (ends && σ == 0)
    as := c.as.resume c.epcA (ends && σ == 1)
    vs := c.vs.resume c.epcV (ends && σ == 2)
    beat := if ends && σ == 1 then none else c.beat
    savedLoops := []
    barWait := if ends && σ == 0 then none else c.savedBar
    savedBar := none
    cause := setBit c.cause 15 false }
  let d := if ends && σ == 1 && c.beat.isSome then d.applySetas else d
  match c.ahead with
  | none => d
  | some (τ, _, pc) => if behind then d.goOn τ pc skip else { d with as := { d.as with flight := dropWord [] d.as.flight }, ahead := none }

/-! ### What a word does -/

/-- The outcome of a word for its stream. -/
inductive Res where
  /-- It completes, and the stream goes on behind it (R137). -/
  | done (s : State)
  /-- It completes with a taken branch (R129). -/
  | goto (s : State) (target : Word)
  /-- It completes, and the stream goes on at a given word with the loop state already settled. -/
  | settled (s : State)
  /-- It traps and has no effect (R6). -/
  | trap (code : BitVec 8) (tval : Word)
  /-- It waits and will be executed again (R382). -/
  | wait (s : State) (w : Wait)
  /-- It reads poisoned data at an address (R373); `cell` for cell memory. -/
  | poison (tval : Word) (cell : Bool)
  /-- The state is the whole effect, the stream's own position included. -/
  | whole (s : State)

/-- Put a stream of the current core into a wait. -/
def State.waitOn (s : State) (σ : Strm) (w : Wait) : State :=
  s.updCore s.curCore fun c => c.updStrm σ fun t => { t with wait := w }

/-- A word of a stream has completed. -/
def State.completeWord (s : State) (σ : Strm) : State :=
  s.updCore s.curCore fun c => c.updStrm σ fun t => (t.complete t.pc).count

/-- A word of a stream has completed with a taken branch. -/
def State.branchTo (s : State) (σ : Strm) (target : Word) : State :=
  s.updCore s.curCore fun c => c.updStrm σ fun t => (t.branch target).count

/-- A trap of the stream whose word executes; the C-stream holds it while it speculates, by waiting at the word (R161, R386). -/
def State.trapWord (s : State) (σ : Strm) (c : Core) (code : BitVec 8) (tval : Word) : State :=
  if σ = .c ∧ c.speculating then s.waitOn .c .resolution else s.takeTrap s.curCore σ code tval

/-- Settle the outcome of a word. -/
def State.settle (s : State) (σ : Strm) (c : Core) (sh : Shard) : Res → Out
  | .done s' => .next (s'.completeWord σ)
  | .goto s' t => if validPc sh t then .next (s'.branchTo σ t) else .next (s.trapWord σ c 1 t)
  | .settled s' => .next (s'.updCore s'.curCore fun c => c.updStrm σ fun t => { t with wait := .none, instret := t.instret + 1 })
  | .trap code tval => .next (s.trapWord σ c code tval)
  | .wait s' w => .next (s'.waitOn σ w)
  | .poison tval cell =>
    if σ = .c ∧ c.speculating then .next (s.waitOn .c .resolution)
    else .next (s.stopPoisoned s.curCore sh σ tval (c.strm σ).pc cell)
  | .whole s' => .next s'

/-- Run a word of a stream on the current core. -/
def runOn (σ : Strm) (s : State) (m : Core → Shard → Res) : Out :=
  match s.core? s.curCore with
  | none => .refused .noShard
  | some c =>
    match c.shard with
    | none => .refused .noShard
    | some sh => s.settle σ c sh (if σ = .c ∧ c.resolvable then .wait s .resolution else m c sh)

/-- Run a C-stream word of a class that executes under speculation (R161). -/
def runSpec (s : State) (m : Core → Shard → Res) : Out := runOn .c s m

/-- Run a C-stream word of a class that waits for the resolution of an open speculation (R161). -/
def runC (s : State) (m : Core → Shard → Res) : Out :=
  runOn .c s fun c sh => if c.speculating then .wait s .resolution else m c sh

/-- The first pending register of a list (R153). -/
def Core.pendingOf (c : Core) (l : List (BitVec 6)) : Option Nat := (l.find? c.isPending).map BitVec.toNat

/-- The first read of a completion register synchronises with the completion (R90, R97, R105, R106): it acquires what the completion hands over and closes the open region, and the word that reads is tried again (notes/assumptions/47.md). -/
def State.firstRead (s : State) (k : Nat) : State :=
  let got := ((s.core? s.curCore).bind fun c => Map.look c.fresh k).getD []
  ((s.acquire s.curCore got).syncPoint s.curCore).updCore s.curCore fun c => { c with fresh := Map.del c.fresh k }

/-- Wait while a register of the list is pending (R45, R153). -/
def Core.ready (c : Core) (s : State) (l : List (BitVec 6)) (r : Res) : Res :=
  match c.pendingOf l with
  | some k => if c.pending.contains k then .wait s (.reg k) else .wait (s.firstRead k) .none
  | none => r

/-- A core writes back its changed state. -/
def State.put (s : State) (c : Core) : State := s.setCore s.curCore c

/-- The PC of the C-stream with a signed offset in 2-byte units (R129). -/
def Core.target (c : Core) (σ : Strm) {n : Nat} (off : BitVec n) : Word := (c.strm σ).pc + 2 * off.signExtend 64

end Sys2Proof.Machine
end

