-- ==== Sys2Proof/Machine/MemOps.lean ====
section
/-! DEFINITION. Accesses of a stream to memory: the checks of R174, the scalar data cache (R79), what is in flight (R95), and the performing of an access at its point of coherence (R80, R82, R89, R93). -/

namespace Sys2Proof.Machine

/-- A scalar access as its word asks for it. -/
structure Req where
  va : Word
  size : Nat
  write : Bool
  /-- Not synchronising and not atomic (R89). -/
  data : Bool
  atomic : Bool
  ord : BitVec 2
  scope : BitVec 2
  /-- fn of an atomic; 9 for CAS (R148). -/
  fn : Nat
  /-- Windows of hosts and peers are not allowed (R187). -/
  deviceOnly : Bool

/-- What the checks of R174 answer. -/
inductive Checked where
  | ok (t : Target)
  | trap (code : BitVec 8) (tval : Word)
  /-- The core's micro-TLB does not hold the page of the global address (R77). -/
  | miss
  /-- Poisoned data, in the walk or at the point of coherence; `cell` for cell memory (R373, R397, R399). -/
  | poison (cell : Bool)

/-- A core runs a shard of a context (check 2 of R174). -/
def State.runsCtx (s : State) (n ctx : Nat) : Bool := ((s.core? n).bind Core.shard).any fun h => h.ctx == ctx

/-- The access reads its bytes: a load, atomic or CAS. -/
def Req.reads (r : Req) : Bool := !r.write || r.atomic

/-- Checks 1 to 7 of R174, with poisoned data in the place R398 gives it, for a path of the core: 0 control, 1 access (R77). DESIGN CHOICE: R36 lists kernel constants as readable by a pure shard, yet they lie at global addresses, where every access of such a shard is a purity fault (R174, R262); the spec gives no other way to read them, and the model adds none (notes/assumptions/57.md). -/
def State.checkFor (s : State) (path n : Nat) (sh : Shard) (r : Req) : Checked :=
  match aperture r.va.toNat with
  | none => .trap 13 r.va
  | some (0, off) =>
    if off % r.size ≠ 0 then .trap 11 r.va
    else if sh.pure then .trap 10 r.va
    else match (s.core? n).elim .fault fun c => c.translate path sh.ctx off (if r.write then .write else .read) with
      | .poisoned => .poison true
      | .fault => .trap 12 r.va
      | .miss => .miss
      | .ok (.dram a) =>
        if r.reads && s.poisoned (.dram a) r.size then .poison true
        else if r.write && s.hitsSealed (.dram a) r.size then .trap 9 r.va
        else .ok (.dram a)
      | .ok t =>
        if r.deviceOnly then .trap 12 r.va
        else if r.atomic && !(r.fn == 0 || r.fn == 8 || r.fn == 9) then .trap 12 r.va
        else .ok t
  | some (kind, off) =>
    let (k, o) := padOf n kind off
    if ¬s.runsCtx k sh.ctx then .trap 13 r.va
    else if r.scope = 3 then .trap 1 r.va
    else if o % r.size ≠ 0 then .trap 11 r.va
    else if sh.pure ∧ k ≠ n then .trap 10 r.va
    else if r.reads && s.poisoned (.pad k o) r.size then .poison false
    else .ok (.pad k o)

/-- Checks 1 to 7 of R174 for an access of the control engine. -/
def State.checkAccess (s : State) (n : Nat) (sh : Shard) (r : Req) : Checked := s.checkFor 0 n sh r

/-- The generic address of the conflicting word that CR.TVAL holds (R107). -/
def raceTval (va : Word) (dist : Nat) : Word := (va &&& ~~~7#64) + BitVec.ofNat 64 dist

/-- A target in a core's own scratchpad. -/
def Target.own (n : Nat) : Target → Bool
  | .pad k _ => k == n
  | _ => false

/-- An access of a core takes effect at its issue: it goes to the own scratchpad, and none that was issued there before is still underway (R82). -/
def Core.direct (c : Core) (n : Nat) (t : Target) : Bool :=
  t.own n && !(c.cs.flight ++ c.as.flight).any fun f => f.target.own n && f.underway && !f.marker

/-! ### The scalar data cache (R79) -/

/-- The line of the scalar data cache that an access of a core may be served from. -/
def Core.cacheHit (c : Core) : Target → Option (List Byte)
  | .dram a => (Map.look c.dcache (a / 64)).map fun l => l.drop (a % 64)
  | _ => none

/-- A store that performs updates a line that is present; a miss allocates none. -/
def Core.cacheStore (c : Core) (t : Target) (bs : List Byte) : Core :=
  match t with
  | .dram a => { c with dcache := Map.upd c.dcache (a / 64) fun l => patch l (a % 64) bs }
  | _ => c

/-- An atomic or CAS invalidates the line it names. -/
def Core.cacheDrop (c : Core) : Target → Core
  | .dram a => { c with dcache := Map.del c.dcache (a / 64) }
  | _ => c

/-- A load that misses fills the line as it stands at the point of coherence; of 512 lines the environment chooses the one that makes room (R12, R79). -/
def Core.cacheFill (c : Core) (t : Target) (line : List Byte) (choice : Nat) : Core :=
  match t with
  | .dram a =>
    let room := if (Map.look c.dcache (a / 64)).isSome ∨ c.dcache.length < 512 then c.dcache else c.dcache.eraseIdx (choice % c.dcache.length)
    { c with dcache := Map.put room (a / 64) line }
  | _ => c

/-! ### Issuing an access -/

/-- The bytes of a speculative load: memory, with the held stores forwarded in order (R161). -/
def forwarded (s : State) (stores : List Access) (t : Target) (n : Nat) : List Byte :=
  (List.range n).map fun k =>
    let a := t.plus k
    stores.foldl (fun b f =>
      match (List.range f.size).find? fun j => f.target.plus j = a with
      | some j => BitVec.ofNat 8 (f.data.toNat / 2 ^ (8 * j))
      | none => b) ((s.readTarget a 1).headD 0)

/-- The shard becomes committed, and its task with it: an impure shard has performed an act of R37. -/
def State.commit (s : State) (n : Nat) : State :=
  match (s.core? n).bind Core.shard with
  | none => s
  | some sh =>
    if sh.pure ∨ sh.committed then s
    else
      { s.updCore n fun c => { c with shard := some { sh with committed := true } } with
        tasks := Map.upd s.tasks sh.task fun t => { t with committed := true } }

/-- TYPE, OPS, LEN, ADDR and ARG of a message that carries an access to a peer (R348, R349), and its payload. -/
def peerMessage (f : Access) : Nat × Nat × Nat × List Byte :=
  let big := if f.size = 8 then 4 else 0
  match f.kind with
  | .load => (2, 0, f.size, [])
  | .store => (1, 0, 0, toBytes f.size f.data.toNat)
  | .atomic => (3, (if f.fn = 8 then 1 else 0) + big, 0, toBytes f.size f.data.toNat)
  | .cas => (3, 2 + big, 0, toBytes f.size f.cmp.toNat ++ toBytes f.size f.data.toNat)

/-- The 32-byte header of a message or reply (R349). -/
def messageHeader (typ ops : Nat) (ctx : BitVec 8) (tag : BitVec 32) (len : Nat) (addr arg : Nat) : BitVec 256 :=
  BitVec.ofNat 256 (ofBytes (toBytes 1 typ ++ toBytes 1 ops ++ toBytes 1 ctx.toNat ++ toBytes 1 0
    ++ toBytes 2 Config.deviceId.toNat ++ toBytes 2 0 ++ toBytes 4 tag.toNat ++ toBytes 4 len ++ toBytes 8 addr ++ toBytes 8 arg))

/-- An access to a peer goes out as a message on its port (R85, R348): the state, and the message's number. Behind a hub link that is down nothing goes out, and its die is declared lost (R16, R411). -/
def State.sendPeer (s : State) (n : Nat) (σ : Strm) (port a : Nat) (f : Access) : State :=
  if ¬s.hubOk (dieOf n) then { s with tag := s.tag + 1 } else
  let ctx := ((s.core? n).bind Core.shard).elim 0 Shard.ctx
  let (typ, ops, arg, payload) := peerMessage f
  let hdr := messageHeader typ ops (Config.peerCtx port ctx) s.tag payload.length a arg
  { s with
    sent := s.sent ++ [{ port := port, hdr := hdr, payload := payload }]
    outstanding := s.outstanding ++ [{ port := port, tag := s.tag, typ := BitVec.ofNat 8 typ, core := n, strm := σ, va := f.va, engine := false, since := s.now }]
    tag := s.tag + 1 }

/-- Enter an access into a stream's flight, with its message if it goes to a peer. -/
def State.fly (s : State) (n : Nat) (σ : Strm) (f : Access) : State :=
  match f.target with
  | .peer port a => (s.updCore n fun c => c.updStrm σ fun t => { t with flight := t.flight ++ [{ f with tag := s.tag }] }).sendPeer n σ port a f
  | _ => s.updCore n fun c => c.updStrm σ fun t => { t with flight := t.flight ++ [f] }

/-- An access is issued: it belongs to its shard's open region, which a synchronising access ends (R105). -/
def State.note (s : State) (n : Nat) (uid : Nat) (f : Access) : State :=
  let s := s.openRegion n uid f.region
  if f.ord = 0 then s else s.updCore n Core.endRegion

/-- An access that takes effect at its issue: in the own scratchpad, or in the scalar data cache (R79, R82). -/
def State.atOnce (s : State) (n : Nat) (sh : Shard) (f : Access) : State × Word := (s.note n sh.uid f).performs sh f

/-- An access as a stream issues it. -/
def State.issued (s : State) (c : Core) (σ : Strm) (kind : AccessKind) (r : Req) (t : Target) : Access :=
  { kind := kind, va := r.va, target := t, size := r.size, data := 0, cmp := if σ = .a then c.as.instret else 0, fn := r.fn, rd := 0,
    signed := true, ord := r.ord, scope := r.scope, path := s.pathFor s.curCore (c.strm σ).flight t, value := none, order := s.order,
    region := (c.shard.bind Shard.region).getD s.order, clock := c.shard.elim 0 Shard.clock, knows := c.shard.elim [] Shard.knows,
    since := s.now, pc := (c.strm σ).pc, tag := 0, failed := false, held := false, fault := none }

/-- An access as it is issued from a word of the C-stream. -/
def newAccess (s : State) (c : Core) (kind : AccessKind) (r : Req) (t : Target) : Access := s.issued c .c kind r t

/-- Check 8 of R174 for an access that takes effect at its issue. -/
def State.raceNow (s : State) (sh : Shard) (r : Req) (t : Target) (k : Res) : Res :=
  match s.raceAt sh t r.size r.write r.data r.atomic with
  | some d => .trap 8 (raceTval r.va d)
  | none => k

/-- A speculative load whose checks have passed: it reads at the point of coherence, past the scalar data cache, whose line it drops; held stores are forwarded; its line is watched (R161, R162). -/
def specLoad (s : State) (c : Core) (sh : Shard) (x : Spec) (r : Req) (t : Target) (f : Access) : Res :=
  if t.outside then .wait s .resolution
  else if c.cs.flight.any fun g => g.kind != .load && sameLine g.target t then .wait s .stores
  else if x.watched.contains t.line = false ∧ 32 ≤ x.watched.length then .wait s .resolution
  else if s.blocked s.curCore t then .wait s .stores
  else s.raceNow sh r t (
    let v := extend f.signed r.size (ofBytes (forwarded s x.stores t r.size))
    let x := { x with watched := if x.watched.contains t.line then x.watched else x.watched ++ [t.line], loads := x.loads ++ [f] }
    let c := { (c.setPending (BitVec.ofNat 6 f.rd)).cacheDrop t with spec := some x }
    .done ({ (s.chargeAt s.curCore t r.size).setCore s.curCore c with order := s.order + 1 }.fly s.curCore .c { f with value := some v }))

/-- The line of the scalar data cache that serves a load of the C-stream: none for an acquire of cluster scope or wider (R94), nor while an earlier access of the stream to the line has still to perform (R79, R93). -/
def Core.served (c : Core) (r : Req) (t : Target) : Option (List Byte) :=
  if (r.ord ≠ 0 ∧ r.scope ≠ 0) ∨ c.cs.flight.any fun g => sameLine g.target t && g.underway then none else c.cacheHit t

/-- Issue a load of the C-stream whose checks have passed: its value comes from the own scratchpad, from the scalar data cache, or from the point of coherence or a window (R79, R82, R85, R175). -/
def issueLoad (s : State) (c : Core) (sh : Shard) (rd : BitVec 6) (signed : Bool) (r : Req) (t : Target) : Res :=
  let n := s.curCore
  let f : Access := { newAccess s c .load r t with rd := rd.toNat, signed := signed }
  let waiting := s.setCore n (c.setPending rd)
  match c.spec with
  | some x => specLoad s c sh x r t f
  | none =>
    if c.direct n t then s.raceNow sh r t (
      let (s, v) := waiting.atOnce n sh f
      .done (s.fly n .c { f with value := some v }))
    else match c.served r t with
      | some bs => s.raceNow sh r t (
        .done ((waiting.atOnce n sh f).1.fly n .c { f with value := some (extend signed r.size (ofBytes (bs.take r.size))) }))
      | none => .done ((waiting.note n sh.uid f).fly n .c f)

/-- A store or atomic of the global aperture commits the shard (R37). -/
def State.commitFor (s : State) (n : Nat) (va : Word) : State :=
  if aperture va.toNat = some (0, va.toNat) then s.commit n else s

/-- Issue a store of the C-stream whose checks have passed: held under speculation, at once to the own scratchpad, else sent (R82, R95, R161, R176). -/
def issueStore (s : State) (c : Core) (sh : Shard) (r : Req) (t : Target) (v : Word) (k : State → Res) : Res :=
  let n := s.curCore
  let f : Access := { newAccess s c .store r t with data := v.setWidth 512 }
  match c.spec with
  | some x =>
    if 32 ≤ x.stores.length then .wait s .resolution
    else k { s.setCore n { c with spec := some { x with stores := x.stores ++ [f] } } with order := s.order + 1 }
  | none =>
    let s' := s.commitFor n r.va
    if c.direct n t then s.raceNow sh r t (k (s'.atOnce n sh f).1)
    else k ((s'.note n sh.uid f).fly n .c f)

/-- Carry out checks 1 to 7 of R174 for an access of a path of the current core, then go on with its target; a translation that has to be fetched is waited for (R77). -/
def checkedFor (path : Nat) (s : State) (sh : Shard) (r : Req) (k : Target → Res) : Res :=
  match s.checkFor path s.curCore sh r with
  | .trap code tval => .trap code tval
  | .poison cell => .poison r.va cell
  | .miss => .wait (s.tlbMiss s.curCore path sh.ctx r.va.toNat) .translation
  | .ok t => k t

/-- The checks of R174 for a scalar access. -/
def checked (s : State) (sh : Shard) (r : Req) (k : Target → Res) : Res := checkedFor 0 s sh r k

/-- A later access of the stream waits for an acquire to return (R89); under a speculation on the register of that acquire it goes on, since the watched set keeps the rule (R162). An acquire whose exception is being handled holds up nothing (R383). -/
def Core.afterAcquire (c : Core) (s : State) (r : Res) : Res :=
  if c.cs.flight.any fun f => !f.held && f.ord.getLsbD 0 && f.kind != .store && c.spec.all fun x => f.rd != x.reg then .wait s .acquire else r

/-- A release waits for the accesses that it follows: the stream's own (R89, R95), and the window stores of other streams and cores that happen-before it (R90, R101). -/
def Core.afterStores (c : Core) (s : State) (scope : Nat) (r : Res) : Res :=
  if ¬c.cs.loadsDone then .wait s .acquire
  else if c.released scope ∧ s.heardOut s.curCore c scope then r
  else .wait s .stores

/-- A synchronising word of the C-stream that makes no release: it follows any acquire (R89). -/
def Core.sync (c : Core) (s : State) (r : Res) : Res := c.afterAcquire s r

/-- A release of the C-stream at a scope (R89, R90, R95). -/
def Core.release (c : Core) (s : State) (scope : Nat) (r : Res) : Res := c.afterAcquire s (c.afterStores s scope r)

/-! ### An access issues again (R195, R383) -/

/-- The target of an access whose checks are made again; a translation that the micro-TLB does not hold comes from the tables as they stand. -/
def State.recheck (s : State) (path n : Nat) (sh : Shard) (f : Access) : Option (BitVec 8 × Word) × Target :=
  let r : Req := { va := f.va, size := f.size, write := f.writes, data := f.isData, atomic := f.isAtomic, ord := f.ord, scope := f.scope,
                   fn := f.fn, deviceOnly := false }
  match s.checkFor path n sh r with
  | .ok t => (none, t)
  | .trap code tval => (some (code, tval), f.target)
  | .poison _ => (none, f.target)
  | .miss => match s.translateFor sh.ctx f.va.toNat (if f.writes then .write else .read) with
    | .ok t => (none, t)
    | .fault => (some (12, f.va), f.target)
    | _ => (none, f.target)

/-- An access of a stream that had no effect issues again as its stream resumes: the checks of R174 are made again with the operands it was issued with, and it takes its path, or its message, anew (R15, R383). A column of a held row keeps its row. -/
def State.reissue (s : State) (n : Nat) (σ : Strm) (sh : Shard) (f : Access) : State :=
  if f.value.isSome ∨ f.marker ∨ (σ = .a ∧ f.fn ≠ 0) then s
  else
    let (fault, t) := s.recheck (if σ = .c then 0 else 1) n sh f
    let flight := (s.core? n).elim [] fun c => (c.strm σ).flight
    let g : Access := { f with held := false, failed := false, fault := fault, target := t, path := s.pathFor n (flight.filter fun h => h.order ≠ f.order) t, tag := s.tag }
    let s := s.updCore n fun c => c.updStrm σ fun x => { x with flight := x.flight.map fun h => if h.order = f.order then g else h }
    match t, fault with
    | .peer port a, none => s.sendPeer n σ port a g
    | _, _ => s

/-- Every access of a core that was held issues again. -/
def State.reissueAll (s : State) (n : Nat) (sh : Shard) (old : Core) : State :=
  let again (s : State) (σ : Strm) : State :=
    (old.strm σ).flight.foldl (fun s f =>
      if f.held && ((s.core? n).any fun c => (c.strm σ).flight.any fun g => g.order == f.order) then s.reissue n σ sh { f with held := false } else s) s
  again (again s .c) .a

end Sys2Proof.Machine
end

