-- ==== Sys2Proof/Machine/Operands.lean ====
section
/-! DEFINITION. The unified register space: granules, views, valid and full bits, queue rings and token channels (R48 to R58), and the operand specifiers of R132. -/

namespace Sys2Proof.Machine

/-! ### Granules (R48, R51) -/

/-- The bytes of a granule as one number. -/
def Core.granule (c : Core) (g : Nat) : BitVec 512 := Map.lookD c.gran g 0

/-- Write `n` bytes of a granule from byte `lo`: they take the new value, and valid and full are set (R51). A full write clears poison (R373). -/
def Core.writeBytes (c : Core) (g lo n : Nat) (v : BitVec 512) : Core :=
  let mask : BitVec 512 := (BitVec.ofNat 512 (2 ^ (8 * n) - 1)) <<< (8 * lo)
  { c with
    gran := Map.put c.gran g ((c.granule g &&& ~~~mask) ||| ((v <<< (8 * lo)) &&& mask))
    valid := setBit c.valid g true
    full := setBit c.full g true
    granPoison := if lo = 0 ∧ n = 64 then removeNat c.granPoison g else c.granPoison }

/-- Write a whole granule. -/
def Core.writeGranule (c : Core) (g : Nat) (v : BitVec 512) : Core := c.writeBytes g 0 64 v

/-- Write consecutive granules. -/
def Core.writeGranules (c : Core) (g : Nat) : List (BitVec 512) → Core
  | [] => c
  | v :: r => (c.writeGranule g v).writeGranules (g + 1) r

/-- What a read of the register space answers. -/
inductive RegRead (α : Type) where
  | ok (x : α)
  | trap (code : BitVec 8) (tval : Word)
  | wait (w : Wait)
  /-- A poisoned granule (R373). -/
  | poison (g : Nat)

/-- Read granules by name from `g` upward: an invalid one traps with its number, an empty one waits (R51). DESIGN CHOICE: where a name covers several granules that are invalid or empty, the spec does not say which is met first (R51, R211); the model takes the lowest, which decides between the wait and the trap and gives CR.TVAL (notes/assumptions/57.md). -/
def Core.readGranules (c : Core) (g : Nat) : Nat → RegRead (List (BitVec 512))
  | 0 => .ok []
  | n + 1 =>
    if ¬c.valid.getLsbD g then .trap 2 (BitVec.ofNat 64 g)
    else if ¬c.full.getLsbD g then .wait (.full g)
    else if c.granPoison.contains g then .poison g
    else match c.readGranules (g + 1) n with
      | .ok xs => .ok (c.granule g :: xs)
      | r => r

/-- The outcome of a word whose read did not deliver. -/
def RegRead.orElse {α : Type} (r : RegRead α) (s : State) (k : α → Res) : Res :=
  match r with
  | .ok x => k x
  | .trap code tval => .trap code tval
  | .wait w => .wait s w
  | .poison g => .poison (BitVec.ofNat 64 g) false

/-- Clear the full bits of `n` granules from `g` (R51). -/
def Core.clearFull (c : Core) (g : Nat) : Nat → Core
  | 0 => c
  | n + 1 => ({ c with full := setBit c.full g false }).clearFull (g + 1) n

/-! ### Queue rings (R54, R55) -/

/-- A queue before any dispatch or descriptor. -/
def Queue.empty : Queue := { base := 0, lenm1 := 0, esz := 0, head := 0, tail := 0, buf := [], off := 0 }

/-- A queue of a core, numbered as in R132. -/
def Core.queue (c : Core) (q : Nat) : Queue := Map.lookD c.queues q Queue.empty

/-- Granules of one entry (R54, R65). -/
def Queue.size (q : Queue) : Nat := if q.esz = 1 then 2 else if q.esz = 2 then 16 else 1

/-- Entries of the ring. -/
def Queue.len (q : Queue) : Nat := q.lenm1.toNat + 1

/-- First granule of an entry (R54). -/
def Queue.entry (q : Queue) (i : Nat) : Nat := q.base.toNat + i * q.size

/-- Every full bit of `n` granules from `g` has the value. -/
def Core.allFull (c : Core) (b : Bool) (g : Nat) : Nat → Bool
  | 0 => true
  | n + 1 => (c.full.getLsbD g == b) && c.allFull b (g + 1) n

/-- Pop a queue (R55): the granules of the entry at HEAD, and the core after. `bad` is CR.TVAL when the entry reaches HWM. -/
def Core.pop (c : Core) (hwm : Nat) (q : Nat) (bad : Word) : RegRead (List (BitVec 512) × Core) :=
  let r := c.queue q
  let g := r.entry r.head.toNat
  if hwm < g + r.size then .trap 1 bad
  else if ¬c.allFull true g r.size then .wait (.queue q false)
  else match (List.range r.size).find? fun i => c.granPoison.contains (g + i) with
    | some i => .poison (g + i)
    | none =>
      .ok ((List.range r.size).map fun i => c.granule (g + i),
        { c.clearFull g r.size with
          queues := Map.put c.queues q { r with head := BitVec.ofNat 8 ((r.head.toNat + 1) % r.len) } })

/-- Push an entry of granules to a queue (R55); granules that the data does not give are zero, and data beyond the entry is not written. -/
def Core.push (c : Core) (hwm : Nat) (q : Nat) (bad : Word) (data : List (BitVec 512)) : RegRead Core :=
  let r := c.queue q
  let g := r.entry r.tail.toNat
  if hwm < g + r.size then .trap 1 bad
  else if ¬c.allFull false g r.size then .wait (.queue q true)
  else .ok { c.writeGranules g ((List.range r.size).map fun i => data.getD i 0) with
      queues := Map.put c.queues q { r with tail := BitVec.ofNat 8 ((r.tail.toNat + 1) % r.len) } }

/-- The value of CR.LQn or CR.SQn (R65). -/
def Queue.csr (q : Queue) : Word :=
  BitVec.ofNat 64 (q.base.toNat + q.lenm1.toNat * 2 ^ 11 + q.esz.toNat * 2 ^ 19 + q.head.toNat * 2 ^ 32 + q.tail.toNat * 2 ^ 40)

/-- A write of a queue CSR (R57, R65): the ring changes, HEAD := TAIL := 0, the full bits of the new ring are cleared, and the A-stream's buffer starts empty (R199). An ESZ of 3 is ignored in that field. -/
def Core.writeQueue (c : Core) (q : Nat) (v : Word) : Core :=
  let old := c.queue q
  let esz := bits v.toNat 19 2
  let r : Queue := { base := BitVec.ofNat 11 v.toNat, lenm1 := BitVec.ofNat 8 (bits v.toNat 11 8),
                     esz := if esz = 3 then old.esz else BitVec.ofNat 2 esz, head := 0, tail := 0, buf := [], off := 0 }
  { c with queues := Map.put c.queues q r }.clearFull r.base.toNat (min (r.len * r.size) (2048 - r.base.toNat))

/-! ### Token channels (R58) -/

/-- The count of a channel. -/
def Core.tokenCount (c : Core) (k : Nat) : Nat := Map.lookD c.tokens k 0

/-- Add a token; a push to k2, k4 or k7 sets event latch 1 (R193). -/
def Core.tokenAdd (c : Core) (k : Nat) : Core :=
  { c with
    tokens := Map.put c.tokens k (c.tokenCount k + 1)
    latches := if k = 2 ∨ k = 4 ∨ k = 7 then setBit c.latches 1 true else c.latches }

/-- Take a token. -/
def Core.tokenTake (c : Core) (k : Nat) : Core := { c with tokens := Map.put c.tokens k (c.tokenCount k - 1) }

/-- The channel a stream pushes by its own words (R58). -/
def pushes (σ : Strm) (k : Nat) : Bool :=
  match σ with
  | .c => k == 1 || k == 3
  | .a => k == 2 || k == 5
  | .v => k == 4 || k == 6

/-- The channel a stream pops (R58). -/
def pops (σ : Strm) (k : Nat) : Bool :=
  match σ with
  | .c => k == 2 || k == 4 || k == 7
  | .a => k == 1 || k == 6
  | .v => k == 3 || k == 5

/-! ### Operand specifiers of the V-stream (R49, R132, R134) -/

/-- The class of an operand: V 1 granule, W 2, T 16 (R49). -/
inductive Cls where
  | v
  | w
  | t
deriving DecidableEq, Repr

/-- Granules of a name of a class. -/
def Cls.granules : Cls → Nat
  | .v => 1
  | .w => 2
  | .t => 16

/-- Largest N of a class (R132). -/
def Cls.limit : Cls → Nat
  | .v => 2047
  | .w => 1023
  | .t => 127

/-- First granule of a name (R49). -/
def Core.nameGranule (c : Core) (cls : Cls) (n : Nat) : Nat :=
  match cls with
  | .v => c.viewV.toNat + n
  | .w => c.viewW.toNat + 2 * n
  | .t => c.viewT.toNat + 16 * n

/-- An operand specifier names a queue (R132). -/
def isQueue (d : BitVec 12) : Bool := d.getLsbD 11

/-- The number of a specifier: the name, or the queue. -/
def specNum (d : BitVec 12) : Nat := d.toNat % 2048

/-- How an instruction uses an operand: a class, whether a queue form is allowed, and as a source or a destination. -/
structure Slot where
  cls : Cls
  nameOnly : Bool
  dest : Bool

/-- A specifier breaks a rule of R132, R49 or R56 for some of its `reps` repeats (R134). -/
def Core.badSpec (c : Core) (hwm reps : Nat) (slot : Slot) (d : BitVec 12) : Bool :=
  if isQueue d then
    slot.nameOnly || decide (16 ≤ specNum d) || (if slot.dest then decide (specNum d < 8) else decide (8 ≤ specNum d))
  else
    decide (slot.cls.limit < specNum d + (reps - 1))
    || decide (hwm < c.nameGranule slot.cls (specNum d + (reps - 1)) + slot.cls.granules)

/-- The specifier at repeat j (R134). -/
def stepSpec (d : BitVec 12) (j : Nat) : BitVec 12 := if isQueue d then d else d + BitVec.ofNat 12 j

/-- Read a source operand: a name, or one pop of a queue (R51, R55). A queue entry of fewer granules than the class reads as zero beyond its end, and of more is cut. -/
def Core.source (c : Core) (hwm : Nat) (cls : Cls) (d : BitVec 12) : RegRead (List (BitVec 512) × Core) :=
  if isQueue d then
    match c.pop hwm (specNum d) (d.setWidth 64) with
    | .ok (xs, c') => .ok ((List.range cls.granules).map fun i => xs.getD i 0, c')
    | r => r
  else
    match c.readGranules (c.nameGranule cls (specNum d)) cls.granules with
    | .ok xs => .ok (xs, c)
    | .trap a b => .trap a b
    | .wait w => .wait w
    | .poison g => .poison g

/-- Write a destination operand: a name, or one push to a queue (R51, R55). -/
def Core.dest (c : Core) (hwm : Nat) (cls : Cls) (d : BitVec 12) (xs : List (BitVec 512)) : RegRead Core :=
  if isQueue d then c.push hwm (specNum d) (d.setWidth 64) xs
  else .ok (c.writeGranules (c.nameGranule cls (specNum d)) xs)

/-- Element j of a granule at a width of `w` bits (R48, R109). -/
def elem (w : Nat) (g : BitVec 512) (j : Nat) : Nat := g.toNat / 2 ^ (w * j) % 2 ^ w

/-- The elements of granules, in lane order. -/
def elems (w : Nat) (gs : List (BitVec 512)) : List Nat := gs.flatMap fun g => (List.range (512 / w)).map (elem w g)

/-- A granule of elements. -/
def ofElems (w : Nat) (xs : List Nat) : BitVec 512 := BitVec.ofNat 512 (xs.foldr (fun x r => x % 2 ^ w + r * 2 ^ w) 0)

/-- The 512-bit value of up to 64 bytes. -/
def granuleOf (bs : List Byte) : BitVec 512 := BitVec.ofNat 512 (ofBytes bs)

end Sys2Proof.Machine
end

