-- ==== Sys2Proof/Machine/Flags.lean ====
section
/-! DEFINITION. Numbers: the element types (R108 to R110), exact values, rounding and its flags (R111 to R117, R124), conversions, and Philox4x32-10 (R122). -/

namespace Sys2Proof.Machine

/-! ### The sticky flags of CR.FFLAGS (R65, R114) -/

/-- NX, bit 0. -/
def flagNX : Word := 0x1
/-- UF, bit 1. -/
def flagUF : Word := 0x2
/-- OF, bit 2. -/
def flagOF : Word := 0x4
/-- DZ, bit 3. -/
def flagDZ : Word := 0x8
/-- NV, bit 4. -/
def flagNV : Word := 0x10
/-- AUF, bit 8. -/
def flagAUF : Word := 0x100
/-- SATF, bit 9. -/
def flagSATF : Word := 0x200

/-! ### Element types (R108 to R110) -/

/-- Width in bits of an element type (R108). -/
def typeWidth (t : Nat) : Nat :=
  match t with
  | 0 => 8 | 1 => 8 | 2 => 16 | 3 => 16 | 4 => 32 | 5 => 32 | 6 => 64 | 7 => 64
  | 8 => 16 | 9 => 16 | 10 => 32 | 11 => 8 | 12 => 8 | 13 => 8 | _ => 4

/-- An integer type (R108). -/
def isInt (t : Nat) : Bool := decide (t < 8) || t == 14 || t == 15

/-- A signed integer type (R108). -/
def isSigned (t : Nat) : Bool := t == 0 || t == 2 || t == 4 || t == 6 || t == 14

/-- A floating-point type with a sign, an exponent and a fraction (R110). -/
def isFloat (t : Nat) : Bool := decide (8 ≤ t) && decide (t ≤ 12)

/-- Exponent bits of a floating type (R110). -/
def expBits (t : Nat) : Nat := match t with | 8 => 5 | 11 => 4 | 12 => 5 | _ => 8

/-- Fraction bits of a floating type (R110). -/
def fracBits (t : Nat) : Nat := match t with | 8 => 10 | 9 => 7 | 11 => 3 | 12 => 2 | 13 => 0 | _ => 23

/-- Bias of a floating type (R110). -/
def bias (t : Nat) : Nat := 2 ^ (expBits t - 1) - 1

/-- The bits of the largest finite magnitude (R108, R110). -/
def maxBits (t : Nat) : Nat := if t = 11 then 0x7E else (2 ^ expBits t - 1) * 2 ^ fracBits t - 1

/-- The bits of +∞; for .e4m3, which has none, of the NaN that replaces it (R113). -/
def infBits (t : Nat) : Nat := if t = 11 then 0x7F else (2 ^ expBits t - 1) * 2 ^ fracBits t

/-- The NaN produced (R110, R111). -/
def nanBits (t : Nat) : Nat :=
  match t with | 8 => 0x7E00 | 9 => 0x7FC0 | 11 => 0x7F | 12 => 0x7E | 13 => 0xFF | _ => 0x7FC00000

/-- The sign bit of a floating type, as a number. -/
def signBit (t : Nat) (neg : Bool) : Nat := if neg then 2 ^ (typeWidth t - 1) else 0

/-- Smallest value of an integer type. -/
def intMin (t : Nat) : Int := if isSigned t then -(2 ^ (typeWidth t - 1) : Int) else 0

/-- Largest value of an integer type. -/
def intMax (t : Nat) : Int := if isSigned t then (2 ^ (typeWidth t - 1) : Int) - 1 else (2 ^ typeWidth t : Int) - 1

/-- The value of an integer element. -/
def intOf (t b : Nat) : Int := if isSigned t then sextNat b (typeWidth t) else (b % 2 ^ typeWidth t : Nat)

/-- The element of an integer, modulo 2^width (R115). -/
def ofInt (t : Nat) (i : Int) : Nat := (i % (2 ^ typeWidth t : Int)).toNat

/-- `sat_` of R7: an integer clamped to a range, and whether it was. -/
def clampInt (lo hi i : Int) : Int × Bool := if i < lo then (lo, true) else if hi < i then (hi, true) else (i, false)

/-! ### Exact values -/

/-- A floating-point value: a NaN, an infinity, or ± num ÷ den (a zero keeps its sign). -/
inductive Val where
  | nan
  | inf (neg : Bool)
  | fin (neg : Bool) (num den : Nat)
deriving DecidableEq, Repr

/-- m × 2^k as an exact value. -/
def dyadic (neg : Bool) (m : Nat) (k : Int) : Val :=
  if 0 ≤ k then .fin neg (m * 2 ^ k.toNat) 1 else .fin neg m (2 ^ (-k).toNat)

/-- The value of an integer. -/
def valOfInt (i : Int) : Val := .fin (decide (i < 0)) i.natAbs 1

/-- The value of an element of a floating type, or of .e8m0 (R110). -/
def valOf (t b : Nat) : Val :=
  if t = 13 then (if b % 256 = 255 then .nan else dyadic false 1 ((b % 256 : Nat) - 127))
  else
    let neg := bitAt b (typeWidth t - 1)
    let m := b % 2 ^ (typeWidth t - 1)
    let e := m / 2 ^ fracBits t
    let f := m % 2 ^ fracBits t
    if t = 11 then
      if m = 0x7F then .nan
      else if e = 0 then dyadic neg f (-9) else dyadic neg (8 + f) ((e : Int) - 10)
    else if e = 2 ^ expBits t - 1 then (if f = 0 then .inf neg else .nan)
    else if e = 0 then dyadic neg f (1 - (bias t : Int) - fracBits t)
    else dyadic neg (2 ^ fracBits t + f) ((e : Int) - bias t - fracBits t)

/-- A subnormal element of a floating type (R110). -/
def isSubnormal (t b : Nat) : Bool :=
  bits b (fracBits t) (expBits t) == 0 && b % 2 ^ fracBits t != 0

/-- The value of an operand of the V engine: with FTZ a subnormal reads as zero with its sign (R116). -/
def operand (ftz : Bool) (t b : Nat) : Val :=
  if ftz && isSubnormal t b then .fin (bitAt b (typeWidth t - 1)) 0 1 else valOf t b

/-- The sign of a value; a NaN has none. -/
def Val.neg : Val → Bool
  | .nan => false
  | .inf n => n
  | .fin n _ _ => n

/-- The value with the other sign. -/
def Val.negate : Val → Val
  | .nan => .nan
  | .inf n => .inf !n
  | .fin n a b => .fin (!n) a b

/-- A zero. -/
def Val.isZero : Val → Bool
  | .fin _ a _ => a == 0
  | _ => false

/-- A NaN. -/
def Val.isNan : Val → Bool
  | .nan => true
  | _ => false

/-- The signed numerator over a denominator. -/
def signedNum (neg : Bool) (a : Nat) : Int := if neg then -(a : Int) else a

/-- Exact comparison a < b of two values that are no NaNs. -/
def Val.lt : Val → Val → Bool
  | .inf n, .inf m => n && !m
  | .inf n, .fin _ _ _ => n
  | .fin _ _ _, .inf m => !m
  | .fin n a b, .fin m c d => decide (signedNum n a * d < signedNum m c * b)
  | _, _ => false

/-- Equality of values; zeros of either sign are equal, NaNs are not. -/
def Val.eq : Val → Val → Bool
  | .inf n, .inf m => n == m
  | .fin n a b, .fin m c d => decide (signedNum n a * d = signedNum m c * b)
  | _, _ => false

/-- A sum with the zero rule of R111, and its flags (R114); mode 2 is rdn. -/
def Val.add (mode : Nat) : Val → Val → Val × Word
  | .nan, _ => (.nan, 0)
  | _, .nan => (.nan, 0)
  | .inf n, .inf m => if n = m then (.inf n, 0) else (.nan, flagNV)
  | .inf n, _ => (.inf n, 0)
  | _, .inf m => (.inf m, 0)
  | .fin n a b, .fin m c d =>
    let x := signedNum n a * d + signedNum m c * b
    if x = 0 then
      (if a = 0 ∧ c = 0 ∧ n = m then .fin n 0 1 else .fin (mode == 2) 0 1, 0)
    else if b = d then
      (.fin (decide (signedNum n a + signedNum m c < 0)) (signedNum n a + signedNum m c).natAbs b, 0)
    else (.fin (decide (x < 0)) x.natAbs (b * d), 0)

/-- A product, and its flags (R111, R114). -/
def Val.mul : Val → Val → Val × Word
  | .nan, _ => (.nan, 0)
  | _, .nan => (.nan, 0)
  | .inf n, .inf m => (.inf (n != m), 0)
  | .inf n, .fin m c _ => if c = 0 then (.nan, flagNV) else (.inf (n != m), 0)
  | .fin n a _, .inf m => if a = 0 then (.nan, flagNV) else (.inf (n != m), 0)
  | .fin n a b, .fin m c d => (.fin (n != m) (a * c) (b * d), 0)

/-- A quotient of finite values with a non-zero divisor. -/
def Val.div : Val → Val → Val
  | .fin n a b, .fin m c d => .fin (n != m) (a * d) (b * c)
  | x, _ => x

/-- floor(log2(num ÷ den)) for num, den ≠ 0. -/
def log2Floor (num den : Nat) : Int :=
  let e : Int := (Nat.log2 num : Int) - Nat.log2 den
  let below : Bool := if 0 ≤ e then decide (num < den * 2 ^ e.toNat) else decide (num * 2 ^ (-e).toNat < den)
  if below then e - 1 else e

/-- num ÷ den ÷ 2^k as a quotient and a remainder over a denominator. -/
def scaled (num den : Nat) (k : Int) : Nat × Nat × Nat :=
  let n := if 0 ≤ k then num else num * 2 ^ (-k).toNat
  let d := if 0 ≤ k then den * 2 ^ k.toNat else den
  (n / d, n % d, d)

/-- Does a magnitude m + r ÷ d round up to m + 1 (R112, R124)? Modes: 0 rne, 1 rtz, 2 rdn, 3 rup, 4 rna, 5 sr with random word u. -/
def roundsUp (mode u : Nat) (neg : Bool) (m r d : Nat) : Bool :=
  match mode with
  | 0 => decide (d < 2 * r) || (decide (2 * r = d) && m % 2 == 1)
  | 1 => false
  | 2 => neg && r != 0
  | 3 => !neg && r != 0
  | 4 => decide (d ≤ 2 * r)
  | _ => decide (u < r * 2 ^ 32 / d)

/-- The overflow result of R113. -/
def overflowBits (t mode : Nat) (neg : Bool) : Nat :=
  if t = 11 then maxBits t
  else match mode with
    | 1 => maxBits t
    | 2 => if neg then infBits t else maxBits t
    | 3 => if neg then maxBits t else infBits t
    | _ => infBits t

/-- The largest finite magnitude as m × 2^k at a type's own precision: m, k. -/
def maxMagnitude (t : Nat) : Nat × Int :=
  let m := if t = 11 then 14 else 2 ^ (fracBits t + 1) - 1
  let e : Int := if t = 11 then 8 else (2 ^ expBits t - 2 : Nat) - (bias t : Int)
  (m, e - fracBits t)

/-- m × 2^k exceeds m' × 2^k'. -/
def exceeds (m : Nat) (k : Int) (m' : Nat) (k' : Int) : Bool :=
  if k' ≤ k then decide (m' < m * 2 ^ (k - k').toNat) else decide (m' * 2 ^ (k' - k).toNat < m)

/-- Round ± num ÷ den, not zero, to a floating type: the bits and the flags (R112 to R116). DESIGN CHOICE: under stochastic rounding, a value is tiny when rounding it with the same random word and an unbounded exponent range gives a magnitude below the smallest normal; R124 and R228 say only that tininess applies to the returned value as for the other modes (notes/assumptions/46.md). -/
def roundFin (t mode u : Nat) (ftz : Bool) (neg : Bool) (num den : Nat) : Nat × Word :=
  let fb := fracBits t
  let emin : Int := 1 - (bias t : Int)
  let e := log2Floor num den
  let k : Int := max e emin - fb
  let (m, r, d) := scaled num den k
  let up := roundsUp mode u neg m r d
  let m' := if up then m + 1 else m
  let (mm, mk) := maxMagnitude t
  if exceeds m' k mm mk then (signBit t neg + overflowBits t mode neg, flagOF ||| flagNX)
  else
    let b := ((k + fb + bias t - 1) * 2 ^ fb + m').toNat
    let (mu, ru, du) := scaled num den (e - fb)
    let mu' := if roundsUp mode u neg mu ru du then mu + 1 else mu
    let tiny := decide (e < emin) && !(decide (e + 1 = emin) && decide (mu' = 2 ^ (fb + 1)))
    let inexact := r != 0
    let fl := (if inexact then flagNX else 0) ||| (if tiny && inexact then flagUF else 0)
    if ftz && isSubnormal t b then (signBit t neg, fl ||| flagUF ||| flagNX)
    else (signBit t neg + b, fl)

/-- Round a value to a floating type: the bits and the flags (R111 to R116). -/
def roundTo (t mode u : Nat) (ftz : Bool) : Val → Nat × Word
  | .nan => (nanBits t, 0)
  | .inf neg => if t = 11 then (nanBits t, flagNV) else (signBit t neg + infBits t, 0)
  | .fin neg num den => if num = 0 then (signBit t neg, 0) else roundFin t mode u ftz neg num den

/-- A finite value rounded to an integer, and whether it was inexact (R112). -/
def roundInt (mode u : Nat) (neg : Bool) (num den : Nat) : Int × Bool :=
  let m := num / den
  let r := num % den
  (signedNum neg (if roundsUp mode u neg m r den then m + 1 else m), r != 0)

/-- Float to integer conversion (R115). -/
def toIntType (t mode u : Nat) : Val → Nat × Word
  | .nan => (0, flagNV)
  | .inf neg => (ofInt t (if neg then intMin t else intMax t), flagNV)
  | .fin neg num den =>
    let (i, x) := roundInt mode u neg num den
    let (j, c) := clampInt (intMin t) (intMax t) i
    (ofInt t j, if c then flagNV else if x then flagNX else 0)

/-! ### Quantisation (R118, R120) -/

/-- lo ÷ s or x ÷ s rounded to an integer with rne. -/
def ratioInt (x s : Val) : Int :=
  match x.div s with
  | .fin n a b => (roundInt 0 0 n a b).1
  | _ => 0

/-- The smaller of zero and the values that are numbers. DESIGN CHOICE: a NaN takes no part in the minimum and maximum of R118, which does not say so (notes/assumptions/46.md). -/
def lowest (xs : List Val) : Val := xs.foldl (fun m x => if x.lt m then x else m) (.fin false 0 1)

/-- The larger of zero and the values that are numbers; a NaN takes no part, as in `lowest`. -/
def highest (xs : List Val) : Val := xs.foldl (fun m x => if m.lt x then x else m) (.fin false 0 1)

/-- Quantise a group to an integer type: the scale as .f16 bits, the zero point, the elements, the flags (R118). The zero point and the elements are in the type's own encoding. -/
def quantise (t : Nat) (xs : List Val) : Nat × Nat × List Nat × Word :=
  let lo := lowest xs
  let hi := highest xs
  let (sb, f1) : Nat × Word :=
    if lo.eq hi then (0x3C00, 0)
    else
      let span := (hi.add 0 lo.negate).1
      let q := roundTo 8 0 0 false (span.div (valOfInt (intMax t - intMin t)))
      if q.1 = 0x7C00 then (0x7BFF, flagSATF) else (q.1, 0)
  let s := valOf 8 sb
  if s.isZero then
    let ops := xs.map fun x => match x with
      | .fin n a b => (n, a, b)
      | x => (x.neg, 1, 0)
    let zp := Config.zeroScale t 0 ops % 2 ^ typeWidth t
    (sb, zp, (List.range xs.length).map fun i =>
        if (xs.getD i .nan).isNan || (xs.getD i .nan).isZero then zp else Config.zeroScale t (i + 1) ops % 2 ^ typeWidth t,
      f1 ||| (if xs.any Val.isNan then flagNV else 0)
      ||| (if Config.zeroScale t (xs.length + 1) ops % 2 = 1 then flagSATF else 0))
  else
    let (zp, c) := clampInt (intMin t) (intMax t) (match lo with
      | .inf _ => intMax t
      | l => intMin t - ratioInt l s)
    let one (x : Val) : Int × Word := match x with
      | .nan => (zp, flagNV)
      | .inf n => (if n then intMin t else intMax t, flagSATF)
      | x =>
        let (q, k) := clampInt (intMin t) (intMax t) (ratioInt x s + zp)
        (q, if k then flagSATF else 0)
    let qs := xs.map one
    (sb, ofInt t zp, qs.map fun q => ofInt t q.1, (qs.foldl (fun f q => f ||| q.2) f1) ||| (if c then flagSATF else 0))

/-- MX encoding of a block of FP32 values: the scale, the elements, the flags (R120). -/
def mxEncode (t : Nat) (ftz : Bool) (xs : List Val) : Nat × List Nat × Word :=
  if xs.any fun x => match x with | .fin _ _ _ => false | _ => true then (0xFF, xs.map fun _ => 0, 0)
  else if xs.all Val.isZero then (0, xs.map fun _ => 0, 0)
  else
    let mag := xs.foldl (fun (m : Nat × Nat) x => match x with
      | .fin _ a b => if m.1 * b < a * m.2 then (a, b) else m
      | _ => m) (0, 1)
    let e := max (log2Floor mag.1 mag.2 - (if t = 11 then 8 else 15)) (-127)
    let one (x : Val) : Nat × Word := match x with
      | .fin n a b =>
        if a = 0 then (signBit t n, 0) else
        let y := roundFin t 0 0 ftz n (a * 2 ^ (-e).toNat) (b * 2 ^ e.toNat)
        if y.2 &&& flagOF ≠ 0 then (signBit t n + maxBits t, flagSATF ||| flagNX) else y
      | _ => (0, 0)
    let qs := xs.map one
    ((e + 127).toNat, qs.map Prod.fst, qs.foldl (fun f q => f ||| q.2) 0)

/-! ### Random bits (R122) -/

/-- One round of Philox4x32 on a counter (c0, c1, c2, c3) with a key. -/
def philoxRound (k0 k1 : Nat) (c : Nat × Nat × Nat × Nat) : Nat × Nat × Nat × Nat :=
  let (c0, c1, c2, c3) := c
  let p0 := 0xD2511F53 * c0
  let p1 := 0xCD9E8D57 * c2
  ((p1 / 2 ^ 32) ^^^ c1 ^^^ k0, p1 % 2 ^ 32, (p0 / 2 ^ 32) ^^^ c3 ^^^ k1, p0 % 2 ^ 32)

/-- `n` rounds of Philox4x32, the key advancing after each. -/
def philoxRounds (k0 k1 : Nat) (c : Nat × Nat × Nat × Nat) : Nat → Nat × Nat × Nat × Nat
  | 0 => c
  | n + 1 => philoxRounds ((k0 + 0x9E3779B9) % 2 ^ 32) ((k1 + 0xBB67AE85) % 2 ^ 32) (philoxRound k0 k1 c) n

/-- Philox4x32-10: words 0 to 3 (R122). -/
def philox (k0 k1 c0 c1 c2 c3 : Nat) : Nat × Nat × Nat × Nat := philoxRounds k0 k1 (c0, c1, c2, c3) 10

/-- One of the four words. -/
def pick (w : Nat × Nat × Nat × Nat) (i : Nat) : Nat :=
  match i with
  | 0 => w.1
  | 1 => w.2.1
  | 2 => w.2.2.1
  | _ => w.2.2.2

/-- The word of a draw by RNDX, VRNG or VCVTSR: version and index operands and site (R122). -/
def drawWord (seed taskId : Word) (version index site : Nat) : Nat :=
  pick (philox (bits seed.toNat 0 32) (bits seed.toNat 32 32) (index % 2 ^ 32) (version % 2 ^ 32)
    (bits taskId.toNat 0 32) (bits taskId.toNat 32 32)) site

end Sys2Proof.Machine
end

