-- ==== Sys2Proof/Machine/TaskOps.lean ====
section
/-! DEFINITION. What tasks and tile commands share: reads of global ranges by the device, the handle table and tensor descriptors (R253 to R257, R344), kernel descriptors (R144, R145), task records (R25 to R30), placement (R289), and the pending-launch stores (R286 to R288). -/

namespace Sys2Proof.Machine

/-! ### Reads of a range of global addresses by the device -/

/-- What the translation of a range answers: its pieces, none of them across a 64-byte line. -/
inductive Range where
  | ok (parts : List (Target × Nat))
  | fault
  | poisoned
deriving DecidableEq, Repr

/-- Translate a range of `n` bytes from a global address, line by line; `fuel` bounds the lines. -/
def State.rangeOf (s : State) (ctx : Nat) (use : Use) : Nat → Nat → Nat → Range
  | 0, _, _ => .ok []
  | fuel + 1, va, n =>
    if n = 0 then .ok []
    else if 2 ^ 56 ≤ va then .fault
    else
      let m := min n (64 - va % 64)
      match s.translateFor ctx va use with
      | .fault | .miss => .fault
      | .poisoned => .poisoned
      | .ok t =>
        match s.rangeOf ctx use fuel (va + m) (n - m) with
        | .ok r => .ok ((t, m) :: r)
        | x => x

/-- The range of `n` bytes from a global address. -/
def State.range (s : State) (ctx : Nat) (use : Use) (va n : Nat) : Range := s.rangeOf ctx use (n / 64 + 2) va n

/-- A host port's link is down, or a target lies with a peer: an access by the device itself is refused (R413; notes/assumptions/8.md). -/
def State.refuses (s : State) : Target → Bool
  | .host p _ => (Map.look s.hostDown p).isSome
  | .peer _ _ => true
  | _ => false

/-- The bytes of a range, if all of it can be read: it translates, no window refuses it, and nothing in it is poisoned. -/
def State.readRange (s : State) (ctx va n : Nat) : Option (List Byte) :=
  match s.range ctx .read va n with
  | .ok ps =>
    if ps.any fun p => s.refuses p.1 || s.poisoned p.1 p.2 then none
    else some (ps.flatMap fun p => s.readTarget p.1 p.2)
  | _ => none

/-- Every line of a range is sealed cell memory (R74). -/
def State.sealedRange (s : State) (ctx va n : Nat) : Bool :=
  match s.range ctx .read va n with
  | .ok ps => ps.all fun p => match p.1 with
    | .dram a => s.sealed_.contains (a / 64)
    | _ => false
  | _ => false

/-- Write bytes at a global address on the device's own behalf, if all of it can be written: it translates for writing, no window refuses it, and no line is sealed. -/
def State.writeRange (s : State) (ctx va : Nat) (bs : List Byte) : Option State :=
  match s.range ctx .write va bs.length with
  | .ok ps =>
    if ps.any fun p => s.refuses p.1 || s.hitsSealed p.1 p.2 then none
    else some (ps.foldl (fun (x : State × List Byte) p => (x.1.writeTarget p.1 (x.2.take p.2), x.2.drop p.2)) (s, bs)).1
  | _ => none

/-! ### Tile references and tensor descriptors (R253 to R257) -/

/-- A tile reference (R254). -/
structure Ref where
  handle : Nat
  i : Nat
  j : Nat
  b : Nat
  twin : Bool
  latest : Bool
  version : Nat
  /-- SEL[15:2]. -/
  rest : Nat
deriving DecidableEq, Repr

/-- The fields of a tile reference. -/
def Ref.of (x : BitVec 128) : Ref :=
  let n := x.toNat
  { handle := bits n 0 32, i := bits n 32 16, j := bits n 48 16, b := bits n 64 16, twin := bitAt n 81, latest := bitAt n 80,
    version := bits n 96 32, rest := bits n 82 14 }

/-- The 16 bytes of a tile reference. -/
def Ref.word (r : Ref) : BitVec 128 :=
  BitVec.ofNat 128 (r.handle + r.i * 2 ^ 32 + r.j * 2 ^ 48 + r.b * 2 ^ 64 + (if r.latest then 2 ^ 80 else 0)
    + (if r.twin then 2 ^ 81 else 0) + r.rest * 2 ^ 82 + r.version * 2 ^ 96)

/-- A reserved bit of a reference is set (R26, R254). -/
def Ref.reserved (r : Ref) : Bool := r.rest != 0 || (r.latest && r.version != 0)

/-- Plain coordinates: a T = 1 reference (I, J) names the transpose of plain tile (J, I) (R254). -/
def Ref.plain (r : Ref) : Ref := if r.twin then { r with i := r.j, j := r.i, twin := false } else r

/-- A tensor descriptor (R253). -/
structure Tensor where
  rows : Nat
  cols : Nat
  batch : Nat
  tr : Nat
  tc : Nat
  /-- Elements of a group: 32, 64 or 128. -/
  group : Nat
  quant : Nat
  etype : Nat
  ax : Bool
  twin : Bool
  loss : Bool
  retain : Nat
  hb : Nat
  hmode : Nat
  pad : Nat
deriving DecidableEq, Repr

/-- The fields of a tensor descriptor. -/
def Tensor.of (bs : List Byte) : Tensor :=
  let e := field bs 0x10 1
  let p := field bs 0x11 1
  let h := field bs 0x13 1
  { rows := field bs 0 4, cols := field bs 4 4, batch := field bs 8 4, tr := field bs 0xC 2, tc := field bs 0xE 2,
    group := 32 * 2 ^ bits e 6 2, quant := bits e 4 2, etype := bits e 0 4, ax := bitAt p 2, twin := bitAt p 1,
    loss := bitAt p 0, retain := bits (field bs 0x12 1) 0 4, hb := bits h 2 3, hmode := bits h 0 2, pad := field bs 0x14 4 }

/-- Bits of the elements of one tile row. -/
def Tensor.rowBits (t : Tensor) : Nat := t.tc * typeWidth t.etype

/-- The length of the axis that blocks or groups run along (R253, R257). -/
def Tensor.axis (t : Tensor) : Nat := if t.ax then t.tr else t.tc

/-- A descriptor is malformed (R253); the bits of PAD above the element are zero, as the field is written. -/
def Tensor.malformed (bs : List Byte) : Bool :=
  let t := Tensor.of bs
  let e := field bs 0x10 1
  bits e 6 2 == 3 || t.quant == 3 || bits (field bs 0x11 1) 3 5 != 0 || bits (field bs 0x12 1) 4 4 != 0
  || bits (field bs 0x13 1) 5 3 != 0 || t.hmode == 3 || !zeroRange bs 0x18 40 || decide (2 ^ typeWidth t.etype ≤ t.pad)
  || t.rows == 0 || t.cols == 0 || t.batch == 0 || decide (65536 < t.batch) || t.tr == 0 || decide (256 < t.tr)
  || t.tc == 0 || decide (256 < t.tc) || t.retain == 0
  || decide (65536 < ceilDiv t.rows t.tr) || decide (65536 < ceilDiv t.cols t.tc)
  || decide (8 * 65536 < t.tr * t.rowBits)
  || (typeWidth t.etype == 4 && t.tc % 2 == 1)
  || (t.quant == 1 && !(t.etype == 14 || t.etype == 15 || t.etype == 0 || t.etype == 1))
  || (t.quant == 2 && (!(t.etype == 11 || t.etype == 12) || t.axis % 32 != 0))
  || (t.quant == 0 && (bits e 6 2 != 0 || t.ax))
  || (t.twin && t.quant != 0)
  || t.etype == 13

/-- What a lookup of a handle answers. -/
inductive Handle where
  | unbound
  | malformed
  /-- The descriptor cannot be read, because of a lasting error (R373). -/
  | lost
  | ok (t : Tensor)
deriving DecidableEq, Repr

/-- The handle is bound by an entry that can be read, and the address of its descriptor (R344, R373). -/
def State.handleAddr (s : State) (ctx handle : Nat) : Option Nat :=
  match Map.look s.ctxs ctx with
  | none => none
  | some x =>
    ((List.range x.hcount).find? fun k => !s.poisoned (.dram (x.htab + 16 * k)) 16
        && decide (ofBytes (Memory.getN s.mem (x.htab + 16 * k) 4) = handle)).map fun k =>
      ofBytes (Memory.getN s.mem (x.htab + 16 * k + 8) 8)

/-- The handle table of a context holds poisoned data (R373). -/
def State.tableLost (s : State) (ctx : Nat) : Bool :=
  (Map.look s.ctxs ctx).any fun x => (List.range x.hcount).any fun k => s.poisoned (.dram (x.htab + 16 * k)) 16

/-- The tensor of a handle of a context (R253, R344). A descriptor that is not in sealed lines is no tensor descriptor. A handle that no readable entry binds is lost while the table holds poisoned data: the entry may stand there (R373; DEDUCED, notes/assumptions/57.md). -/
def State.tensor (s : State) (ctx handle : Nat) : Handle :=
  match s.handleAddr ctx handle with
  | none => if s.tableLost ctx then .lost else .unbound
  | some a =>
    if a % 64 ≠ 0 ∨ ¬s.sealedRange ctx a 64 then .malformed
    else match s.readRange ctx a 64 with
      | none => .lost
      | some bs => if Tensor.malformed bs then .malformed else .ok (.of bs)

/-- The value x of R255 for a reference. -/
def Ref.hash (r : Ref) : Nat :=
  (0x9E37 * r.plain.i + 0x85EB * r.plain.j + 0xC2B3 * r.b + r.handle % 65536) % 65536

/-- The home die of a tile before any remapping (R255). -/
def Tensor.homeOf (t : Tensor) (r : Ref) : Nat :=
  let h := (bits r.hash 8 8) ^^^ (bits r.hash 0 8)
  if t.hmode = 0 then h % 8 else if t.hmode = 1 then t.hb else 4 * (t.hb / 4) + h % 4

/-- The die that stands for a die after losses (R421 step 3). -/
def State.standIn (s : State) (die : Nat) : Nat := Map.lookD s.remap die die

/-- A reference is malformed for its tensor (R254). -/
def Tensor.badRef (t : Tensor) (r : Ref) : Bool :=
  r.reserved || (r.twin && !t.twin)
  || decide (ceilDiv t.rows t.tr ≤ r.plain.i) || decide (ceilDiv t.cols t.tc ≤ r.plain.j) || decide (t.batch ≤ r.b)

/-! ### Tile images (R256, R257) -/

/-- Bytes of the elements of a tile. -/
def Tensor.elemBytes (t : Tensor) : Nat := t.tr * t.rowBits / 8

/-- Bytes of the scales of a tile. -/
def Tensor.scaleBytes (t : Tensor) : Nat :=
  let other := if t.ax then t.tc else t.tr
  if t.quant = 2 then other * (t.axis / 32) else if t.quant = 1 then 4 * other * ceilDiv t.axis t.group else 0

/-- S0: where the scales start. -/
def Tensor.s0 (t : Tensor) : Nat := roundUp t.elemBytes 64

/-- The image size (R257). -/
def Tensor.imageSize (t : Tensor) : Nat := if t.quant = 0 then t.elemBytes else t.s0 + t.scaleBytes

/-- A row of `n` elements that all hold PAD, as a number. -/
def Tensor.padRow (t : Tensor) : Nat → Nat
  | 0 => 0
  | n + 1 => t.pad + 2 ^ typeWidth t.etype * t.padRow n

/-- Rows and columns of a tile that lie inside the tensor (R256). -/
def Tensor.inside (t : Tensor) (r : Ref) : Nat × Nat :=
  (min t.tr (t.rows - t.tr * r.plain.i), min t.tc (t.cols - t.tc * r.plain.j))

/-- One row of an image with its edge elements set to PAD: `keep` columns stay. -/
def Tensor.edgeRow (t : Tensor) (keep : Nat) (row : List Byte) : List Byte :=
  let w := typeWidth t.etype
  toBytes (t.rowBits / 8) (ofBytes row % 2 ^ (w * keep) + 2 ^ (w * keep) * t.padRow (t.tc - keep))

/-- A plain image with its edge elements set to PAD (R256). -/
def Tensor.withEdges (t : Tensor) (r : Ref) (img : List Byte) : List Byte :=
  let n := t.rowBits / 8
  ((List.range t.tr).flatMap fun k =>
    t.edgeRow (if k < (t.inside r).1 then (t.inside r).2 else 0) (slice img (n * k) n)) ++ img.drop t.elemBytes

/-- The image of a version that nothing has written: every element is PAD, every scale zero (R39, R256). -/
def Tensor.blank (t : Tensor) : List Byte :=
  padTo ((List.range t.tr).flatMap fun _ => toBytes (t.rowBits / 8) (t.padRow t.tc)) t.imageSize

/-- Element `k` of bytes whose elements have `w` bits (R109). -/
def elemOf (w : Nat) (img : List Byte) (k : Nat) : Nat :=
  if w = 4 then bits (field img (k / 2) 1) (4 * (k % 2)) 4 else field img (k * (w / 8)) (w / 8)

/-- Elements of `w` bits as bytes, 4-bit elements two to a byte with the even one in the low nibble (R109). -/
def packElems (w : Nat) (xs : List Nat) : List Byte :=
  if w = 4 then toBytes (xs.length / 2) (xs.foldr (fun x r => x % 16 + 16 * r) 0) else xs.flatMap fun x => toBytes (w / 8) x

/-- The tensor whose tiles are the transposed ones. -/
def Tensor.swapped (t : Tensor) : Tensor := { t with rows := t.cols, cols := t.rows, tr := t.tc, tc := t.tr }

/-- The transposed image of a tile with QUANT = 0 (R269). -/
def Tensor.transposed (t : Tensor) (img : List Byte) : List Byte :=
  let w := typeWidth t.etype
  packElems w ((List.range t.tc).flatMap fun r => (List.range t.tr).map fun c => elemOf w img (c * t.tc + r))

/-! ### Versions -/

/-- The version an exact reference names (R39, R253). -/
def State.findVersion (s : State) (ctx : Nat) (r : Ref) : Option (Nat × Version) :=
  s.versions.find? fun e =>
    e.2.ctx == ctx && e.2.handle.toNat == r.handle && e.2.i == r.plain.i && e.2.j == r.plain.j && e.2.b == r.b
    && e.2.version.toNat == r.version

/-- The record of a sealed version. -/
def State.recordOf (s : State) (v : Version) : Option Record :=
  match v.record with
  | none => none
  | some (d, k) => (Map.look s.almanac d).bind fun a => Map.look a.records k

/-- FLAGS bits of a record (R277). -/
def fRoot : Nat := 0
def fReplica : Nat := 1
def fParked : Nat := 2
def fHarvest : Nat := 3
def fImpure : Nat := 4
def fPair : Nat := 5
def fDropped : Nat := 6
def fResident : Nat := 7

/-- The version is sealed, and its record is there and not dropped. -/
def State.kept (s : State) (v : Version) : Bool :=
  v.sealed_ && (s.recordOf v).any fun r => !r.flags.getLsbD fDropped

/-- A started TDROP (opcode 0xCA) names the version: it is absent to every command that starts later, while commands that started before read it in full (R272, R273). -/
def State.dropping (s : State) (v : Version) : Bool :=
  s.cores.any fun e => e.2.shard.any fun sh => sh.ctx == v.ctx && e.2.xqueue.any fun x =>
    x.op == 0xCA && x.started && x.status.isNone && (
      let r := Ref.of (x.rb ++ x.ra)
      r.handle == v.handle.toNat && r.plain.i == v.i && r.plain.j == v.j && r.b == v.b && r.version == v.version.toNat)

/-- The version can be read by what starts now: it is kept, and no TDROP of it has started. -/
def State.live (s : State) (v : Version) : Bool := s.kept v && !s.dropping v

/-- The tile's latest version: the live one sealed last (R276). -/
def State.latest (s : State) (ctx : Nat) (r : Ref) : Option (Nat × Version) :=
  s.versions.foldl (fun best e =>
    if e.2.ctx = ctx ∧ e.2.handle.toNat = r.handle ∧ e.2.i = r.plain.i ∧ e.2.j = r.plain.j ∧ e.2.b = r.b ∧ s.live e.2 then
      match best with
      | none => some e
      | some x => if ((s.recordOf x.2).elim 0 Record.order) < ((s.recordOf e.2).elim 0 Record.order) then some e else best
    else best) none

/-- The exact reference a "latest" reference resolves to, or the reference itself (R35, R254, R276). -/
def State.resolveRef (s : State) (ctx : Nat) (r : Ref) : Option Ref :=
  if r.latest then (s.latest ctx r).map fun e => { r with latest := false, version := e.2.version.toNat } else some r

/-- The plain exact reference of a version (R277 TILE). -/
def Version.ref (v : Version) : Ref :=
  { handle := v.handle.toNat, i := v.i, j := v.j, b := v.b, twin := false, latest := false, version := v.version.toNat, rest := 0 }

/-- The bytes of a twin, given as stored, with its edge elements at PAD (R254, R256). -/
def Tensor.twinEdges (t : Tensor) (r : Ref) (img : List Byte) : List Byte := t.swapped.withEdges { r with i := r.j, j := r.i } img

/-- An image of a version with its edge elements at PAD, which is what every read of them returns (R256). -/
def State.edged (s : State) (v : Version) (twin : Bool) (img : List Byte) : List Byte :=
  match s.tensor v.ctx v.handle.toNat with
  | .ok t => if twin then t.twinEdges v.ref img else t.withEdges v.ref img
  | _ => img

/-- A version that holds the plain image given, with edge elements at PAD, and its transposed twin if its tensor has one (R254, R256, R269). -/
def Version.filled (v : Version) (t : Tensor) (r : Ref) (img : List Byte) : Version :=
  { v with image := t.withEdges r img, twin := if t.twin then some (t.transposed (t.withEdges r img)) else none }

/-- The bytes of the version are in the home's tile store and can be read (R277, R415). -/
def State.readable (s : State) (v : Version) : Bool :=
  v.present && (s.recordOf v).any fun r => r.flags.getLsbD fResident

/-- Start the fetch of a parked version that is not resident, unless it is on its way (R284). -/
def State.startFetch (s : State) (v : Version) : State :=
  match v.record, s.recordOf v with
  | some (d, k), some r =>
    if r.flags.getLsbD fParked ∧ ¬r.flags.getLsbD fResident ∧ ¬r.flags.getLsbD fDropped
        ∧ s.fetches.all (fun f => ¬(f.die = d ∧ f.index = k)) then
      { s with fetches := s.fetches ++ [{ die := d, index := k, target := d }] }
    else s
  | _, _ => s

/-! ### Kernel descriptors (R28, R29, R144, R145) -/

/-- A kernel descriptor. -/
structure Kernel where
  impure : Bool
  hwm : Nat
  code : Nat
  codeLen : Nat
  entryC : Nat
  entryA : Nat
  entryV : Nat
  const : Nat
  constLen : Nat
  viewV : Nat
  viewW : Nat
  viewT : Nat
  cpl : Nat
  stackBase : Nat
  stackLimit : Nat
  tvec : Nat
  /-- L0 to L3. -/
  loops : List Nat
  /-- Q.LQ0 to Q.SQ7. -/
  queues : List Nat
deriving DecidableEq, Repr

/-- The fields of a kernel descriptor. -/
def Kernel.of (bs : List Byte) : Kernel :=
  { impure := bitAt (field bs 0 4) 0, hwm := bits (field bs 4 2) 0 12, code := field bs 8 8, codeLen := field bs 0x10 4,
    entryC := field bs 0x18 4, entryA := field bs 0x1C 4, entryV := field bs 0x20 4, const := field bs 0x28 8,
    constLen := field bs 0x30 4, viewV := bits (field bs 0x38 2) 0 11, viewW := bits (field bs 0x3A 2) 0 11,
    viewT := bits (field bs 0x3C 2) 0 11, cpl := field bs 0x40 4, stackBase := field bs 0x44 4, stackLimit := field bs 0x48 4,
    tvec := field bs 0x50 8, loops := (List.range 4).map fun k => field bs (0x60 + 8 * k) 8,
    queues := (List.range 16).map fun k => field bs (0x80 + 4 * k) 4 }

/-- Granules of an entry of a queue field. -/
def queueGranules (q : Nat) : Nat := if bits q 19 2 = 1 then 2 else if bits q 19 2 = 2 then 16 else 1

/-- BASE and COUNT of the coupled range (R65). -/
def Kernel.cplBase (k : Kernel) : Nat := bits k.cpl 0 11
def Kernel.cplCount (k : Kernel) : Nat := bits k.cpl 16 12

/-- End of the c section: the least of ENTRY.A, ENTRY.V and CODELEN that exceeds ENTRY.C (R145). -/
def Kernel.endC (k : Kernel) : Nat := ([k.entryA, k.entryV].filter fun e => decide (k.entryC < e)).foldl min k.codeLen

/-- Bits of a stack register field that its map does not list (R66). -/
def stackRest (v : Nat) : Nat := v / 2 ^ 18

/-- The checks of R145 on the fields of a descriptor. -/
def Kernel.badFields (bs : List Byte) : Bool :=
  let k := Kernel.of bs
  let entry (e : Nat) : Bool := e % 6 != 0 || decide (k.codeLen ≤ e)
  field bs 0 4 / 2 != 0 || bits (field bs 4 2) 12 4 != 0 || !zeroRange bs 6 2 || !zeroRange bs 0x14 4 || !zeroRange bs 0x24 4
  || !zeroRange bs 0x34 4 || bits (field bs 0x38 2) 11 5 != 0 || bits (field bs 0x3A 2) 11 5 != 0
  || bits (field bs 0x3C 2) 11 5 != 0 || !zeroRange bs 0x3E 2 || bits k.cpl 11 5 != 0 || bits k.cpl 28 4 != 0
  || stackRest k.stackBase != 0 || stackRest k.stackLimit != 0 || !zeroRange bs 0x4C 4 || !zeroRange bs 0x58 8
  || k.loops.any (fun l => bits l 32 30 != 0) || k.queues.any (fun q => bits q 21 11 != 0) || !zeroRange bs 0xC0 64
  || k.hwm == 0 || decide (2048 < k.hwm) || k.codeLen == 0 || k.codeLen % 6 != 0
  || entry k.entryC || entry k.entryA || entry k.entryV
  || !(k.tvec == 0 || (decide (k.code + k.entryC ≤ k.tvec) && decide (k.tvec < k.code + k.endC) && (k.tvec - k.code) % 6 == 0))
  || k.queues.any (fun q => bits q 19 2 == 3 || decide (k.hwm < bits q 0 11 + (bits q 11 8 + 1) * queueGranules q))
  || decide (k.hwm ≤ k.viewV) || decide (k.hwm ≤ k.viewW) || decide (k.hwm ≤ k.viewT)
  || (decide (0 < k.cplCount) && decide (k.hwm < k.cplBase + k.cplCount))

/-- The kernel descriptor at a global address, if R144 and R145 make it one: every line of the descriptor, the binary and the constants is sealed. -/
def State.kernel (s : State) (ctx addr : Nat) : Option Kernel :=
  if addr % 64 ≠ 0 ∨ ¬s.sealedRange ctx addr 256 then none
  else match s.readRange ctx addr 256 with
    | none => none
    | some bs =>
      let k := Kernel.of bs
      if Kernel.badFields bs ∨ k.code % 64 ≠ 0 ∨ ¬s.sealedRange ctx k.code k.codeLen
          ∨ (k.const ≠ 0 ∧ ¬s.sealedRange ctx k.const k.constLen) then none
      else some k

/-- KIND of a loop-table entry (R28). -/
def loopKind (l : Nat) : Nat := bits l 62 2

/-- EXTENT of a loop-table entry. -/
def loopExtent (l : Nat) : Nat := bits l 0 32

/-- The product of the extents of a kind. -/
def Kernel.prod (k : Kernel) (kind : Nat) : Nat := ((k.loops.filter fun l => loopKind l == kind).map loopExtent).foldl (· * ·) 1

/-- The loop table keeps the limits of R28. -/
def Kernel.loopsOk (k : Kernel) : Bool :=
  k.loops.all (fun l => if loopKind l = 0 then loopExtent l == 1 else decide (0 < loopExtent l))
  && decide (k.prod 2 ≤ 96) && decide (k.prod 3 ≤ 8)

/-- The number of shards (R29). -/
def Kernel.shards (k : Kernel) : Nat := k.prod 2 * k.prod 3

/-- The index of a shard number at each level, from L3 outward: the value left over and the indices (R29). -/
def spatial : List Nat → Nat → Nat × List Nat
  | [], num => (num, [])
  | l :: r, num =>
    let (n, xs) := spatial r num
    if loopKind l = 2 ∨ loopKind l = 3 then (n / loopExtent l, n % loopExtent l :: xs) else (n, 0 :: xs)

/-- CR.IDX0 to CR.IDX3 of a shard (R29). -/
def Kernel.idx (k : Kernel) (num : Nat) : List Nat := (spatial k.loops num).2

/-- The value of the digits of one kind of a shard: j of R30 (kind 3), q of R289 (kind 2). -/
def Kernel.digits (k : Kernel) (kind num : Nat) : Nat :=
  (k.loops.zip (k.idx num)).foldl (fun a e => if loopKind e.1 = kind then a * loopExtent e.1 + e.2 else a) 0

/-! ### Placement (R30, R289) -/

/-- The value that R289 hashes: x of R255 for IN0, or the folded TASKID. -/
def Task.hash (t : Task) : Nat :=
  match t.ins with
  | r :: _ => (Ref.of r).hash
  | [] => bits t.taskId.toNat 0 16 ^^^ bits t.taskId.toNat 16 16

/-- The die h of R30 before any remapping. DESIGN CHOICE: the spec does not say which die h is where IN0's tensor descriptor is malformed or cannot be read; the model takes die 0 (notes/assumptions/57.md). -/
def State.firstDie (s : State) (ctx : Nat) (ins : List (BitVec 128)) (submitter : Option Nat) : Nat :=
  match ins with
  | r :: _ => match s.tensor ctx (Ref.of r).handle with
    | .ok t => t.homeOf (Ref.of r)
    | _ => 0
  | [] => submitter.getD 0

/-- The logical core number of cluster `cl` and core `k` of a die (R11). -/
def coreNum (die cl k : Nat) : Nat := 384 * die + 96 * (cl % 4) + k % 96

/-- CR.CORE of a shard in deterministic mode (R68): every core in service and at full capacity. -/
def State.nominalCore (s : State) (t : Task) (k : Kernel) (num : Nat) : Nat :=
  coreNum ((s.firstDie t.ctx t.ins t.submitter + k.digits 3 num) % 8) (t.hash / 8) (t.hash / 32 % 96 + k.digits 2 num)

/-- A core that can take a shard: in service, with enough register space (R13, R289, R424). -/
def State.fits (s : State) (n hwm : Nat) : Bool := (s.core? n).any fun c => c.inService && decide (hwm ≤ c.capacity)

/-- The affinity core of a shard of a task on a die (R289, R292). -/
def State.affinity (s : State) (t : Task) (k : Kernel) (num die : Nat) : Option Nat :=
  ((List.range 4).flatMap fun c => (List.range 96).map fun i =>
    coreNum die (t.cluster + c) (t.hash / 32 % 96 + k.digits 2 num + i)).find? fun n => s.fits n k.hwm

/-- The die of a shard: the task's die and the value of its D digits, with a lost die replaced by its stand-in (R30, R422). -/
def State.shardDie (s : State) (t : Task) (k : Kernel) (num : Nat) : Nat := s.standIn ((t.die + k.digits 3 num) % 8)

/-! ### The areas of the control plane (R278) -/

/-- Where a die's Almanac shard, the mirror of its buddy's, and the control area begin (R278). -/
def shardAt (die : Nat) : Nat := die * 2 ^ 36 + 3 * 2 ^ 34 + 12 * 2 ^ 30
def mirrorAt (die : Nat) : Nat := die * 2 ^ 36 + 2 * 2 ^ 34 + 12 * 2 ^ 30
def controlAt (die : Nat) : Nat := die * 2 ^ 36 + 3 * 2 ^ 34 + 11 * 2 ^ 30

/-- The die whose areas hold a die's mirror and shadows is in service (R274, R422, R430). -/
def State.mirrors (s : State) (d : Nat) : Bool := (Map.look s.remap (d ^^^ 4)).isNone && (Map.look s.remap d).isNone

/-- A record is written in its shard, and in the mirror on the buddy die, if the shard has one, at activity REPLICA (R274, R278, R333). DESIGN CHOICE: the spec names no activity for the shard's own write; the model charges TASKDATA (notes/assumptions/58.md). -/
def State.chargeRecord (s : State) (d k : Nat) : State :=
  let s := s.chargeBytes d (shardAt d + 192 * k) 192 actTask
  if (Map.look s.almanac d).any Almanac.mirrored then s.chargeBytes d (mirrorAt (d ^^^ 4) + 192 * k) 192 actReplica else s

/-- Shadowed state of a die is written in the control area of its buddy at activity REPLICA (R278, R422). DESIGN CHOICE: the layout of the control area is not given; the model charges its first lines (notes/assumptions/58.md). -/
def State.chargeShadow (s : State) (d n : Nat) : State := if s.mirrors d then s.chargeBytes d (controlAt (d ^^^ 4)) n actReplica else s

/-! ### Accepting a task (R25, R26, R34, R35, R188) -/

/-- The group-declaration digest of a context (R304). -/
def State.treeOf (s : State) (ctx : Nat) : BitVec 384 :=
  Config.sha384 ((s.groups.filter fun e => e.2.ctx == ctx).flatMap fun e =>
    slice e.2.decl 0 3 ++ slice e.2.decl 4 2)

/-- The references of a record that a count makes valid. -/
def refsAt (bs : List Byte) (lo n : Nat) : List (BitVec 128) :=
  (List.range n).map fun k => BitVec.ofNat 128 (field bs (lo + 16 * k) 16)

/-- A task record is malformed (R26, R35). -/
def State.badRecord (s : State) (ctx : Nat) (bs : List Byte) : Bool :=
  let nin := field bs 0x2C 1
  let nout := field bs 0x2D 1
  let ins := refsAt bs 0x40 (min nin 8)
  let outs := refsAt bs 0xC0 (min nout 4)
  let crec := field bs 0x20 8
  decide (8 < nin) || decide (4 < nout) || decide (7 ≤ field bs 0x2E 1) || decide (8 ≤ field bs 0x2F 1)
  || !zeroRange bs (0x40 + 16 * min nin 8) (128 - 16 * min nin 8) || !zeroRange bs (0xC0 + 16 * min nout 4) (64 - 16 * min nout 4)
  || (ins ++ outs).any (fun r => (Ref.of r).reserved || (s.handleAddr ctx (Ref.of r).handle).isNone)
  || outs.any (fun r => (Ref.of r).latest)
  || (s.det ctx && ins.any fun r => (Ref.of r).latest)
  || !(s.kernel ctx (field bs 8 8)).any Kernel.loopsOk
  || s.tasks.any (fun e => e.2.ctx == ctx && e.2.taskId.toNat == field bs 0 8 && e.2.rebuild.isNone)
  || crec % 32 != 0

/-- The task of a 256-byte record (R25). -/
def State.taskOf (s : State) (ctx : Nat) (bs : List Byte) (addr : Word) (submitter : Option Nat) (packet : Option (Nat × Nat × Nat))
    (knows : Map Nat) : Task :=
  let bad := s.badRecord ctx bs
  let ins := refsAt bs 0x40 (min (field bs 0x2C 1) 8)
  let w (lo : Nat) : Word := BitVec.ofNat 64 (field bs lo 8)
  let k := s.kernel ctx (field bs 8 8)
  let die := s.standIn (s.firstDie ctx ins submitter)
  let t : Task :=
  { ctx := ctx, taskId := w 0, kdesc := w 8, seed := w 0x10, succ := w 0x18, crec := w 0x20,
    deps := field bs 0x28 4, prio := bits (field bs 0x2E 1) 0 3, flags := BitVec.ofNat 8 (field bs 0x2F 1), arg0 := w 0x30,
    arg1 := w 0x38, ins := ins, outs := refsAt bs 0xC0 (min (field bs 0x2D 1) 4), addr := addr, die := die, entry := die,
    submitter := submitter, cluster := 0, state := .pending, resolved := false,
    shards := List.replicate (k.elim 0 Kernel.shards) .waiting, dprod := k.elim 1 fun k => k.prod 3, cprod := k.elim 1 fun k => k.prod 2,
    pure := k.any fun k => !k.impure, aged := 0, readyAt := 0, again := [], losses := 0, failed := if bad then some (7, none, 0) else none,
    lost := none, sealsLeft := 0, rebuild := none, claim := 0, packet := packet, committed := false, begun := false, manifest := none, rosters := [], waits := [], replay := [],
    tree := s.treeOf ctx, knows := mergeKnows knows ((Map.look s.ctxs ctx).elim [] Ctx.knows), doneKnows := [] }
  { t with cluster := t.hash / 8 % 4 }

/-- The entry of a task is written in the areas beside its store: the shadow on the buddy die, or, of a rebuild task, the rebuild queue at activity RECOVER (R278, R422, R426). -/
def State.chargeEntry (s : State) (t : Task) : State :=
  if t.rebuild.isSome then s.chargeBytes t.die (controlAt t.die) 256 actRecover else s.chargeShadow t.entry 256

/-- A task enters its store, with its shadow, and the fetches of its parked inputs start (R34, R284, R422). -/
def State.accept (s : State) (t : Task) : State :=
  let s := ({ s with tasks := Map.put s.tasks s.uid t, uid := s.uid + 1 }).chargeEntry t
  if t.failed.isSome then s
  else t.ins.foldl (fun s r =>
    match (s.resolveRef t.ctx (Ref.of r)).bind (s.findVersion t.ctx) with
    | some e => s.startFetch e.2
    | none => s) s

/-- Every input of a task is there (R34, R415): an exact version is sealed, not dropped and present, and a parked one has arrived; a dropped input of a rebuild task has been made present again. -/
def State.inputsReady (s : State) (t : Task) : Bool :=
  t.ins.all fun r =>
    let r := Ref.of r
    match (s.resolveRef t.ctx r).bind (s.findVersion t.ctx) with
    | some e => (s.live e.2 || (t.rebuild.isSome && e.2.sealed_)) && s.readable e.2
    | none => r.latest

/-- Add one to a context's stale-successor counter (R27, R33). -/
def State.staleUp (s : State) (ctx : Nat) : State :=
  { s with ctxs := Map.upd s.ctxs ctx fun x => { x with staleSucc := x.staleSucc + 1 } }

/-- DEPS of a task falls by an amount, in its shadow as well (R422); below zero it stays 0 and the underflow is counted (R34). -/
def State.lowerDeps (s : State) (task amount : Nat) : State :=
  match Map.look s.tasks task with
  | none => s
  | some t =>
    let s := ({ s with tasks := Map.put s.tasks task { t with deps := t.deps - amount } }).chargeShadow t.entry 64
    if t.deps < amount then { s with ctxs := Map.upd s.ctxs t.ctx fun x => { x with underflow := x.underflow + 1 } } else s

/-- The task of a context whose record an address names. -/
def State.taskAt (s : State) (ctx : Nat) (addr : Word) : Option (Nat × Task) :=
  s.tasks.find? fun e => e.2.ctx == ctx && e.2.addr == addr && e.2.rebuild.isNone

end Sys2Proof.Machine
end

