-- ==== Sys2Proof/Machine/RowOps.lean ====
section
/-! DEFINITION. Rows and hold slots: where a row lies (R317, R321, R332), the slot word, activation counting (R322), and opening, renewing and closing a hold (R324 to R327). -/

namespace Sys2Proof.Machine

/-! ### Places -/

/-- Rows of a quadrant that the tile store may use, from the first to one past the last (R72, R278): 1 GiB is 4,096 rows of every bank. -/
def State.tileRows (s : State) (quad : Nat) : Nat × Nat :=
  (4096 * s.tsb.toNat, if quad = 3 then 11 * 4096 else if quad = 2 then 12 * 4096 else 65536)

/-- The quadrant of a die that stands for one out of service, or for one whose high part the Almanac region fills: the next one in service with rows for tiles (R278, R404). -/
def State.liveQuad (s : State) (die quad : Nat) : Nat :=
  (((List.range 4).map fun i => (quad + i) % 4).find? fun k =>
    (Map.look s.ports (4 * die + k)).all Port.inService && decide ((s.tileRows k).1 < (s.tileRows k).2)).getD quad

/-- The device physical address of the first byte of a row place (R73). -/
def rowAddr (place : Nat) : Nat :=
  bits place 26 3 * 2 ^ 36 + bits place 24 2 * 2 ^ 34 + bits place 0 16 * 2 ^ 18 + bits place 16 4 * 2 ^ 14 + bits place 20 1 * 2 ^ 13 + bits place 21 3 * 2 ^ 10

/-- The number of a row piece among those of a version: its twin's come behind its own (R419). -/
def Version.pieceIndex (v : Version) (twin : Bool) (p : Nat) : Nat := if twin then ceilDiv v.image.length 1024 + p else p

/-- The ROW field of a row piece of a version (R321): in the rows that the layout tables chose for the image, or in the new ones that they chose for the piece when it was lost (R419). -/
def State.piecePlace (s : State) (die key : Nat) (twin : Bool) (p : Nat) : Nat :=
  let again := (Map.look s.versions key).elim 0 fun v => Map.lookD v.moved (v.pieceIndex twin p) 0
  let (q, b, row) := Config.layoutPlace die (key + 2 ^ 40 * again) twin
  let k := s.liveQuad die q.toNat
  let (lo, hi) := s.tileRows k
  die * 2 ^ 26 + k * 2 ^ 24 + p % 8 * 2 ^ 21 + p / 8 % 2 * 2 ^ 20 + (b.toNat + p / 16) % 16 * 2 ^ 16
    + (lo + row.toNat % (hi - lo))

/-- The quadrant of a place is in service (R325 cause 5). -/
def State.quadOk (s : State) (place : Nat) : Bool := (s.port? (quadOf place)).all Port.inService

/-- ROW.HMAX of a place (R336). -/
def State.hmax (s : State) (place : Nat) : Nat := (s.port? (quadOf place)).elim 24000 fun p => p.hmax.toNat

/-! ### Slots -/

/-- A free slot. -/
def Hold.empty : Hold :=
  { state := .free, row := .none, place := 0, save := false, request := 0, since := 0, deadline := 0, cause := 0, stamp := (0, 0), before := .free, rowBefore := .none }

/-- A hold slot of a core. -/
def Core.hold (c : Core) (h : Nat) : Hold := Map.lookD c.holds h Hold.empty

/-- Replace a hold slot of a core. -/
def Core.setHold (c : Core) (h : Nat) (x : Hold) : Core := { c with holds := Map.put c.holds h x }

/-- A hold slot as it stands in this clk: a deadline that lies before it has ended the hold, except in deterministic mode (R325, R327, R337). -/
def State.holdAt (s : State) (c : Core) (h : Nat) : Hold :=
  let x := c.hold h
  if x.state = .held ∧ x.deadline ≠ 0 ∧ x.deadline < s.now ∧ ¬(c.shard.any fun sh => s.det sh.ctx) then { x with state := .expired } else x

/-- An event at a slot may come in this clk: none that R337 takes after it has come in it. -/
def Hold.admits (x : Hold) (now rank : Nat) : Bool := x.stamp.1 != now || decide (x.stamp.2 ≤ rank)

/-- A slot after an event of this clk, of a place in the order of R337. -/
def Hold.after (new old : Hold) (now rank : Nat) : Hold :=
  { new with
    stamp := (now, rank)
    before := if old.stamp.1 = now then old.before else old.state
    rowBefore := if old.stamp.1 = now then old.rowBefore else old.row }

/-- A hold slot as a beat's check reads it: as it stood at the end of the clk before (R337). -/
def State.holdBefore (s : State) (c : Core) (h : Nat) : Hold :=
  let x := c.hold h
  if x.stamp.1 = s.now then s.holdAt (c.setHold h { x with state := x.before, row := x.rowBefore }) h else s.holdAt c h

/-- A beat to a held row of a tile version has been served at its row buffer: its column access and its flits are charged to HOLD (R333, R334). -/
def State.chargeColumn (s : State) (n place : Nat) : State :=
  (s.charge (quadOf place) actHold 1).chargeFlits (dieOf n) (place / 2 ^ 26) (s.choosePath (dieOf n) (place / 2 ^ 26)) actHold 1

/-- The slot names a row piece of a version. -/
def Hold.ofVersion (h : Hold) (key : Nat) : Bool :=
  match h.row with
  | .piece k _ _ => k == key
  | _ => false

/-- Change a record, and its mirror with it, which holds the record again if its copy was lost. -/
def State.updRecord (s : State) (d k : Nat) (f : Record → Record) : State :=
  { s with almanac := Map.upd s.almanac d fun a => { a with records := Map.upd a.records k f, mirrorLost := removeNat a.mirrorLost k } }.chargeRecord d k

/-- Bytes of an image that another shard has written: another task's, or another number of the same task (R39). -/
def Version.writtenByOther (v : Version) (task num lo len : Nat) : Bool :=
  v.writers.any fun w => w.2.2 != (task, num) && decide (w.1 < lo + len) && decide (lo < w.1 + w.2.1)

/-- Change a version. -/
def State.updVersion (s : State) (key : Nat) (f : Version → Version) : State := { s with versions := Map.upd s.versions key f }

/-- An X-command that has started reads a version (R273). -/
def State.readBy (s : State) (key : Nat) : Bool :=
  s.cores.any fun e => e.2.xqueue.any fun x =>
    x.started && (x.op == 0xC1 || x.op == 0xC4 || x.op == 0xC8 || x.op == 0xC9)
    && match e.2.shard.bind fun sh => (s.resolveRef sh.ctx (Ref.of (x.rb ++ x.ra))).bind (s.findVersion sh.ctx) with
      | some (k, _) => k == key
      | none => false

/-- A task that is running names a version as an input. -/
def State.inputOfRunning (s : State) (key : Nat) : Bool :=
  s.tasks.any fun e => e.2.state == .running && e.2.ins.any fun r =>
    match s.findVersion e.2.ctx (Ref.of r) with
    | some (k, _) => k == key
    | none => false

/-- A hold slot keeps a row piece of a version open. -/
def State.heldVersion (s : State) (key : Nat) : Bool := s.cores.any fun e => e.2.holds.any fun h => h.2.open && h.2.ofVersion key

/-- The bytes of a parked version leave the tile store, now or when its last reader ends (R284, R325). -/
def State.freeBytes (s : State) (key d k : Nat) : State :=
  if s.readBy key ∨ s.inputOfRunning key ∨ s.heldVersion key then s.updVersion key fun v => { v with freeLater := true }
  else
    (s.updVersion key fun v => { v with freeLater := false }).updRecord d k fun r => { r with flags := setBit r.flags fResident false }

/-- Free the bytes of parked versions whose last reader has ended. -/
def State.freeWaiting (s : State) : State :=
  s.versions.foldl (fun s e => if e.2.freeLater then
    match e.2.record with
    | some (d, k) => s.freeBytes e.1 d k
    | none => s
  else s) s

/-- The place of a slot's end in the order of R337. -/
def HoldState.rank : HoldState → Nat
  | .free => 0
  | .expired => 3
  | _ => 1

/-- The image that a slot's row piece lies in. -/
def State.rowImage (s : State) (x : Hold) : Option (Nat × Bool × Nat × List Byte) :=
  match x.row with
  | .piece key twin p =>
    (Map.look s.versions key).map fun v => (key, twin, p, if twin then v.twin.getD [] else v.image)
  | _ => none

/-- The 1 KiB of a tile version's row piece that a slot names: those of its image, or those latched as the slot was revoked (R204, R321). -/
def State.rowBytes (s : State) (x : Hold) : List Byte :=
  match x.row with
  | .latched bs => bs
  | _ => match s.rowImage x with
    | some (_, _, p, image) => slice image (1024 * p) 1024
    | none => []

/-- A slot lets its row go and takes a new state, with the bytes of a version that is dropped or destroyed latched for the beats of this clk (R204): the row is closed, and counted, when this was its last holder (R322, R325). One that stays held to the program, in deterministic mode, no longer keeps its row open: its deadline is 0 (R327). -/
def State.closeHold (s : State) (n h : Nat) (st : HoldState) (cause : BitVec 4) : State :=
  match s.core? n with
  | none => s
  | some c =>
    let x := c.hold h
    let new : Hold := if st = .free then Hold.empty else { x with state := st, cause := cause, deadline := if st = .held then 0 else x.deadline }
    let latch : Hold := match x.row with
      | .piece _ _ _ => if st = .revoked ∧ (cause = 2 ∨ cause = 3) then { x with row := .latched (s.rowBytes x) } else x
      | _ => x
    let s := s.updCore n fun c => c.setHold h (new.after latch s.now st.rank)
    let s := if x.open ∧ s.holders x.place.toNat = [] then s.countActivation x.place.toNat else s
    s.freeWaiting

/-- Free a slot as RREL ends it (R325). -/
def State.freeHold (s : State) (n h : Nat) : State := s.closeHold n h .free 0

/-- Free every slot of a core (R38, R301). -/
def State.freeHolds (s : State) (n : Nat) : State :=
  match s.core? n with
  | none => s
  | some c => (Map.keys c.holds).foldl (fun s h => s.freeHold n h) s

/-- Revoke a slot of a core with a cause; in deterministic mode cause 5 leaves it held to the program, its row closed (R325, R327). -/
def State.revokeHold (s : State) (n h : Nat) (cause : BitVec 4) : State :=
  match s.core? n with
  | none => s
  | some c =>
    let x := c.hold h
    if x.state ≠ .opening ∧ x.state ≠ .held then s
    else if cause = 5 ∧ (c.shard.any fun sh => s.det sh.ctx) then
      s.closeHold n h .held x.cause
    else s.closeHold n h .revoked cause

/-- Revoke every slot that holds or is opening a row that a test accepts. -/
def State.revokeRows (s : State) (p : Nat → Hold → Bool) (cause : BitVec 4) : State :=
  (s.cores.flatMap fun e => (e.2.holds.filter fun h => p e.1 h.2).map fun h => (e.1, h.1)).foldl
    (fun s e => s.revokeHold e.1 e.2 cause) s

/-- STATE of the slot word (R332). -/
def HoldState.code : HoldState → Nat
  | .free => 0
  | .opening => 1
  | .held => 2
  | .revoked => 3
  | .expired => 4

/-- The slot word (R332); REMAIN and HOLDERS read zero in deterministic mode (R68). -/
def State.slotWord (s : State) (n : Nat) (h : Nat) (x : Hold) (det : Bool) : Word :=
  if x.state = .free then 0
  else
    let others := ((s.holders x.place.toNat).filter fun e => e ≠ (n, h)).length
    let remain := if x.state = .held then x.deadline - s.now else 0
    BitVec.ofNat 64 (x.state.code * 2 ^ 61 + (if x.save then 2 ^ 60 else 0) + x.cause.toNat * 2 ^ 56
      + (if det then 0 else min 255 others * 2 ^ 48 + min 65535 remain * 2 ^ 32) + x.place.toNat)

/-- Bytes of the row a slot names, and the target of cell memory, from a column offset (R204, R321, R326). -/
def State.rowTarget (x : Hold) (off : Nat) : Option Target :=
  match x.row with
  | .cell pa => some (.dram (pa + off))
  | _ => none

end Sys2Proof.Machine
end

