-- ==== Sys2Proof/Machine/AccessOps.lean ====
section
/-! DEFINITION. The A-stream's queue bytes (R199), its beats in flight, the placing of loaded bytes in beat order, and the token pushes that wait for them (R197 to R200). -/

namespace Sys2Proof.Machine

/-- CR.TVAL of a queue whose entry reaches HWM in a word of the C- or A-stream: the queue's operand specifier (R132, R385). -/
def queueSpec (q : Nat) : Word := BitVec.ofNat 64 (0x800 + q)

/-- Bytes of a granule. -/
def granuleBytes (g : BitVec 512) : List Byte := toBytes 64 g.toNat

/-- Bytes as granules. -/
def granulesFrom (bs : List Byte) (n : Nat) : List (BitVec 512) := (List.range n).map fun k => granuleOf (slice bs (64 * k) 64)

/-! ### place and take (R199) -/

/-- E(q): the entry size of a queue in bytes. -/
def Core.entryBytes (c : Core) (q : Nat) : Nat := 64 * (c.queue q).size

/-- Change the byte buffer of a queue. -/
def Core.setBuf (c : Core) (q : Nat) (buf : List Byte) (off : Nat) : Core :=
  { c with queues := Map.put c.queues q { c.queue q with buf := buf, off := off } }

/-- place(q, bytes): the bytes behind those already in the buffer; a full buffer is pushed. `fuel` bounds the entries. -/
def Core.place (c : Core) (hwm q : Nat) : Nat → List Byte → RegRead Core
  | 0, _ => .ok c
  | fuel + 1, bs =>
    let r := c.queue q
    let all := r.buf.take r.off ++ bs
    let e := c.entryBytes q
    if all.length < e then .ok (c.setBuf q all all.length)
    else match c.push hwm q (queueSpec q) (granulesFrom (all.take e) r.size) with
      | .ok c' => (c'.setBuf q [] 0).place hwm q fuel (all.drop e)
      | x => x

/-- take(q, n): the next n bytes of a store queue, popping an entry when the buffer is spent. -/
def Core.take (c : Core) (hwm q : Nat) : Nat → Nat → RegRead (List Byte × Core)
  | 0, _ => .ok ([], c)
  | fuel + 1, n =>
    if n = 0 then .ok ([], c)
    else
      let r := c.queue q
      let e := c.entryBytes q
      let from_ (c : Core) (buf : List Byte) (off : Nat) : RegRead (List Byte × Core) :=
        let m := min n (e - off)
        match (c.setBuf q buf ((off + m) % e)).take hwm q fuel (n - m) with
        | .ok (xs, c) => .ok (slice buf off m ++ xs, c)
        | x => x
      if r.off = 0 then
        match c.pop hwm q (queueSpec q) with
        | .ok (gs, c') => from_ c' (gs.flatMap granuleBytes) 0
        | .trap a b => .trap a b
        | .wait w => .wait w
        | .poison g => .poison g
      else from_ c r.buf r.off

/-! ### Beats in flight -/

/-- A beat that loads bytes for a queue. -/
def Access.beatLoad (f : Access) : Bool := f.kind == .load && decide (f.rd < 254)

/-- Beats issued and not yet placed (R209). -/
def Core.beatsOut (c : Core) : Nat := (c.as.flight.filter Access.beatLoad).length

/-- The queue that an AFLUSH waits to flush (R207); other markers push tokens. -/
def Access.flushes (f : Access) : Option Nat := if f.marker ∧ 16 ≤ f.fn then some (f.fn - 16) else none

/-- An entry of the flight works on a load queue: a beat that loads for it, or a flush of it. -/
def Access.fills (f : Access) (q : Nat) : Bool := (f.beatLoad && f.rd == q) || f.flushes == some q

/-- May an entry of the flight go, given what precedes it? A push releases: no older load or store is unperformed (R90, R92). A beat that loads: it has its bytes, and nothing older works on its queue. A flush: nothing older works on its queue. A token push: no older beat of its word is unplaced, and no older push to its channel waits. -/
def Access.mayGo (f : Access) (before : List Access) : Bool :=
  let open_ := before.any fun g => !g.held && !g.marker && (if g.kind == .store then decide (g.path < 5) else g.value.isNone)
  if f.held then false
  else match f.flushes with
    | some q => !open_ && !before.any fun g => g.fills q
    | none =>
      if f.marker then !open_ && !(before.any fun g => g.beatLoad && g.cmp == f.cmp) && !(before.any fun g => g.marker && g.fn == f.fn)
      else f.beatLoad && f.value.isSome && !open_ && !(before.any fun g => g.fills f.rd)

/-- AFLUSH takes effect on a queue: the entry of a load queue that is partly placed is zero-filled and pushed, the rest of one popped from a store queue is discarded (R207). -/
def Core.flushQueue (c : Core) (hwm q : Nat) : RegRead Core :=
  let r := c.queue q
  if r.off = 0 then .ok c
  else if 8 ≤ q then .ok (c.setBuf q [] 0)
  else match c.push hwm q (queueSpec q) (granulesFrom (padTo (r.buf.take r.off) (c.entryBytes q)) r.size) with
    | .ok c' => .ok (c'.setBuf q [] 0)
    | x => x

/-- Carry out an entry of the flight whose turn has come: place its bytes, flush its queue, or push its token. -/
def Core.drainEntry (c : Core) (hwm : Nat) (f : Access) : RegRead Core :=
  match f.flushes with
  | some q => c.flushQueue hwm q
  | none =>
    if f.marker then (if c.tokenCount f.fn < 15 then .ok (c.tokenAdd f.fn) else .wait (.token f.fn))
    else c.place hwm f.rd 3 (toBytes f.size f.data.toNat)

/-- Carry out the first entry of the A-stream's flight that may go. -/
def Core.drainOne (c : Core) (hwm : Nat) : List Access → List Access → Option Core
  | _, [] => none
  | before, f :: rest =>
    let next := c.drainOne hwm (before ++ [f]) rest
    if f.mayGo before then
      match c.drainEntry hwm f with
      | .ok c' => some { c' with as := { c'.as with flight := before ++ rest } }
      | _ => next
    else next

/-- Carry out every entry of the flight that may go; `fuel` bounds them. -/
def Core.drainAll (c : Core) (hwm : Nat) : Nat → Core
  | 0 => c
  | fuel + 1 =>
    match c.drainOne hwm [] c.as.flight with
    | some c' => c'.drainAll hwm fuel
    | none => c

/-- Entries of the load queues that the A-stream has pushed or can push, and tokens: what tells whether a push has gone. -/
def Core.pushedSince (c d : Core) : Bool :=
  c.tokens != d.tokens || (List.range 8).any fun q => (c.queue q).tail != (d.queue q).tail

/-- Place what can be placed and push what can be pushed for the A-stream of a core; a push synchronises (R90). -/
def State.drainA (s : State) (n : Nat) : State :=
  match s.core? n with
  | none => s
  | some c =>
    match c.shard with
    | none => s
    | some sh =>
      let c' := c.drainAll sh.hwm c.as.flight.length
      if c'.as.flight.length = c.as.flight.length then s
      else if c'.pushedSince c then (s.setCore n c').syncPoint n else s.setCore n c'

/-- The first entry of the A-stream's flight whose turn it is and whose placement or flush reaches an entry that traps, one at or above HWM (R55, R198, R207). -/
def Core.placeTrap (c : Core) (hwm : Nat) : Option (Strm × Access × BitVec 8 × Word) :=
  c.as.flight.zipIdx.findSome? fun x =>
    if x.1.mayGo (c.as.flight.take x.2) then
      match c.drainEntry hwm x.1 with
      | .trap a b => some (.a, x.1, a, b)
      | _ => none
    else none

end Sys2Proof.Machine
end

