-- ==== Sys2Proof/Machine/Control.lean ====
section
/-! DEFINITION. The C-stream's branches, jumps, calls, speculation, random bits and CSR accesses (R158 to R166), and the words common to the three streams (R167 to R173). -/

namespace Sys2Proof.Machine

/-! ### Branches and jumps (R158, R159) -/

/-- A conditional branch on two scalar registers (R129, R158). -/
def branchIf (ra rb : BitVec 6) (off : BitVec 24) (s : State) (cond : Word → Word → Bool) : Out :=
  runSpec s fun c _ => c.ready s [ra, rb] (if cond (c.sreg ra) (c.sreg rb) then .goto s (c.target .c off) else .done s)

/-- BEQ: taken when ra = rb (R158). -/
def execBeq (ra rb : BitVec 6) (off : BitVec 24) (s : State) : Out := branchIf ra rb off s fun A B => A == B

/-- BNE: taken when ra ≠ rb (R158). -/
def execBne (ra rb : BitVec 6) (off : BitVec 24) (s : State) : Out := branchIf ra rb off s fun A B => A != B

/-- BLT: taken when ra < rb, signed (R158). -/
def execBlt (ra rb : BitVec 6) (off : BitVec 24) (s : State) : Out := branchIf ra rb off s fun A B => A.slt B

/-- BGE: taken when ra ≥ rb, signed (R158). -/
def execBge (ra rb : BitVec 6) (off : BitVec 24) (s : State) : Out := branchIf ra rb off s fun A B => !A.slt B

/-- BLTU: taken when ra < rb, unsigned (R158). -/
def execBltu (ra rb : BitVec 6) (off : BitVec 24) (s : State) : Out := branchIf ra rb off s fun A B => A.ult B

/-- BGEU: taken when ra ≥ rb, unsigned (R158). -/
def execBgeu (ra rb : BitVec 6) (off : BitVec 24) (s : State) : Out := branchIf ra rb off s fun A B => !A.ult B

/-- BZ: taken when ra = 0 (R158). -/
def execBz (ra : BitVec 6) (off : BitVec 24) (s : State) : Out := branchIf ra 0 off s fun A _ => A == 0

/-- BNZ: taken when ra ≠ 0 (R158). -/
def execBnz (ra : BitVec 6) (off : BitVec 24) (s : State) : Out := branchIf ra 0 off s fun A _ => A != 0

/-- J: PC := PC + 2 × sext(off32, 32) (R159). -/
def execJ (off : BitVec 32) (s : State) : Out := runSpec s fun c _ => .goto s (c.target .c off)

/-- JR: PC := ra; an invalid target traps as an illegal encoding with CR.TVAL the target (R159). -/
def execJr (ra : BitVec 6) (s : State) : Out := runSpec s fun c _ => c.ready s [ra] (.goto s (c.sreg ra))

/-! ### Calls (R160) -/

/-- sp (R45). -/
def spReg : BitVec 6 := 61

/-- lk (R45). -/
def lkReg : BitVec 6 := 62

/-- The generic address of a stack offset (R160). -/
def stackAddr (sp : Nat) : Word := 0xFF00000000000000 + BitVec.ofNat 64 sp

/-- CALL and CALLR to a target (R160). -/
def callTo (s : State) (c : Core) (sh : Shard) (t : Word) : Res :=
  let sp := c.sreg spReg
  let back := c.cs.pc + 6
  let r : Req := { va := stackAddr sp.toNat, size := 8, write := true, data := true, atomic := false, ord := 0, scope := 0,
                   fn := 0, deviceOnly := false }
  if ¬validPc sh t then .trap 1 t
  else if sp.toNat < bits c.stackBase.toNat 0 18 ∨ bits c.stackLimit.toNat 0 18 < sp.toNat + 8 then .trap 4 sp
  else if sp.toNat % 8 ≠ 0 then .trap 11 sp
  else c.afterAcquire s (checked s sh r fun tg =>
    issueStore s c sh r tg back fun s' =>
      .goto (s'.updCore s.curCore fun c => (c.setSreg spReg (sp + 8)).setSreg lkReg back) t)

/-- CALL (R160). -/
def execCall (off : BitVec 32) (s : State) : Out :=
  runSpec s fun c sh => c.ready s [spReg, lkReg] (callTo s c sh (c.target .c off))

/-- CALLR (R160). -/
def execCallr (ra : BitVec 6) (s : State) : Out :=
  runSpec s fun c sh => c.ready s [ra, spReg, lkReg] (callTo s c sh (c.sreg ra))

/-- RET: the return address comes from the stack only (R160). -/
def execRet (s : State) : Out :=
  runSpec s fun c sh => c.ready s [spReg] (
    let sp := c.sreg spReg
    let r : Req := { va := stackAddr (sp.toNat - 8), size := 8, write := false, data := true, atomic := false, ord := 0,
                     scope := 0, fn := 0, deviceOnly := false }
    if sp.toNat < bits c.stackBase.toNat 0 18 + 8 ∨ bits c.stackLimit.toNat 0 18 < sp.toNat then .trap 4 sp
    else if sp.toNat % 8 ≠ 0 then .trap 11 sp
    else c.afterAcquire s (checked s sh r fun tg => if ¬c.direct s.curCore tg then .wait s .stores else s.raceNow sh r tg (
      let f := newAccess s c .load r tg
      let t := BitVec.ofNat 64 (ofBytes (forwarded s ((c.spec.map Spec.stores).getD []) tg 8))
      let c := c.setSreg spReg (sp - 8)
      if ¬validPc sh t then .trap 1 t
      else match c.spec with
        | some x =>
          if x.watched.contains tg.line = false ∧ 32 ≤ x.watched.length then .wait s .resolution
          else
            let x := { x with watched := if x.watched.contains tg.line then x.watched else x.watched ++ [tg.line], loads := x.loads ++ [f] }
            .goto { s.put { c with spec := some x } with order := s.order + 1 } t
        | none => .goto ((s.put c).atOnce s.curCore sh f).1 t)))

/-! ### Speculation (R161 to R164) -/

/-- SPEC: a plain branch on ra = 0, or, with ra pending, a checkpoint and speculation (R161). -/
def execSpec (ra : BitVec 6) (off : BitVec 24) (s : State) : Out :=
  runC s fun c _ =>
    let label := c.target .c off
    if ra ≠ 0 ∧ (Map.look c.fresh ra.toNat).isSome then .wait (s.firstRead ra.toNat) .none
    else if c.isPending ra then
      .done (s.put { c with
        spec := some { reg := ra.toNat, label := label, next := c.cs.pc + 6, pc := c.cs.pc, sregs := c.sregs,
                       pending := c.pending, pred := c.cs.pred, loops := c.cs.loops, instret := c.cs.instret,
                       stores := [], watched := [], loads := [], order := s.order, spoilt := false } })
    else if c.sreg ra = 0 then .goto s label
    else .done s

/-- Send the stores that a committed speculation held, in program order, as if they were issued now (R162). One to the own scratchpad that meets a race stays in flight, and its exception is held (R383). -/
def State.sendHeld (s : State) (n : Nat) (sh : Shard) : List Access → State
  | [] => s
  | g :: rest =>
    let r : Req := { va := g.va, size := g.size, write := true, data := true, atomic := false, ord := 0, scope := 0, fn := 0,
                     deviceOnly := false }
    match s.core? n with
    | none => s
    | some c =>
      let f : Access := { newAccess { s with curCore := n } c .store r g.target with data := g.data, pc := g.pc }
      let s' := s.commitFor n f.va
      let s := if c.direct n f.target ∧ (s.raceOf (f.racer sh) f.target f.size true true false).isNone then (s'.atOnce n sh f).1
        else (s'.note n sh.uid f).fly n .c f
      s.sendHeld n sh rest

/-- Enter the loads that a committed speculation executed into the detector's metadata (R104, R162): no line of theirs has been written since. -/
def State.enterLoads (s : State) (n : Nat) (sh : Shard) (l : List Access) : State :=
  l.foldl (fun s f => s.watch n sh f.target f.size false true false) s

/-- The C-stream after a rollback goes to the SPEC's label, as its taken branch (R162); an invalid label traps at the SPEC word (R129). -/
def State.toLabel (s : State) (n : Nat) (c : Core) (sh : Shard) (x : Spec) : State :=
  let c := c.rollback x.pc
  if validPc sh x.label then s.setCore n { c with cs := (c.cs.branch x.label).count }
  else (s.setCore n c).takeTrap n .c 1 x.label

/-- The speculation of a core resolves (R162). -/
def State.resolve (s : State) (n : Nat) (c : Core) (sh : Shard) (x : Spec) : State :=
  let v := Map.lookD c.sregs x.reg 0
  if v = 0 then s.toLabel n c sh x
  else if x.spoilt then
    let c := c.rollback x.pc
    s.setCore n { c with cs := (c.cs.complete x.pc).count }
  else ((s.setCore n { c with spec := none, cs := { c.cs with wait := .none } }).enterLoads n sh x.loads).sendHeld n sh x.stores

/-- SPEC_RESOLVE: the speculated register has been written, and the speculation commits, rolls back or runs again (R162). A halt request has rolled it back before (R163). -/
def execSpecResolve (s : State) : Out :=
  match s.core? s.args.core with
  | none => .refused .notEnabled
  | some c =>
    match c.shard, c.spec with
    | some sh, some x => if c.resolvable then .next (s.resolve s.args.core c sh x) else .refused .notEnabled
    | _, _ => .refused .notEnabled

/-- SPECEND waits until the engine does not speculate (R164). -/
def execSpecend (s : State) : Out := runC s fun _ _ => .done s

/-- SPECX: a speculating engine rolls back and goes on at the label; else a NOP (R164). -/
def execSpecx (s : State) : Out :=
  runSpec s fun c sh =>
    match c.spec with
    | none => .done s
    | some x => .whole (s.toLabel s.curCore c sh x)

/-! ### Random bits (R165) -/

/-- RNDX: rd := zext of one word of philox on CR.SEED, CR.TASKID, ra as the version and rb as the index (R165). -/
def execRndx (rd ra rb : BitVec 6) (site : BitVec 2) (s : State) : Out :=
  runSpec s fun c sh => c.ready s [rd, ra, rb]
    (.done (s.put (c.setSreg rd (BitVec.ofNat 64
      (drawWord sh.seed sh.taskId (c.sreg ra).toNat (c.sreg rb).toNat site.toNat)))))

/-! ### CSR accesses (R63 to R68, R166) -/

/-- A 64-bit register of a 384-bit digest (R67). -/
def digestWord (d : BitVec 384) (m : Nat) : Word := d.extractLsb' (64 * m) 64

/-- Low or high half of the nth tile reference (R64). -/
def refWord (l : List (BitVec 128)) (k : Nat) : Word := (l.getD (k / 2) 0).extractLsb' (64 * (k % 2)) 64

/-- CR.TOKENS (R65). -/
def tokensWord (c : Core) : Word :=
  BitVec.ofNat 64 ((List.range 7).foldl (fun a i => a + c.tokenCount (i + 1) * 2 ^ (4 * i)) 0)

/-- The core holds its array's lease: its run is open and within its bound of 16,384 clk (R196, R391). -/
def State.hasLease (s : State) (n : Nat) : Bool :=
  (Map.look s.arrays (arrayOf n)).any fun a => a.holder == some n && a.runOpen && decide (s.now < a.runStart + 16384)

/-- Entries of the inbox the running shard could take (R61). -/
def inboxCount (c : Core) (sh : Shard) : Nat := (c.inbox.filter fun e => e.ctx == sh.ctx).length

/-- The bytes of the rosters that CR.MAN.RHASH covers (R304). -/
def State.rosterBytes (s : State) (task : Nat) : List Byte :=
  ((Map.look s.tasks task).elim [] Task.rosters).flatMap fun r => toBytes 8 r.2.toNat

/-- The value of a CSR (R64 to R68, R304); a reserved number reads zero (R5). -/
def State.csr (s : State) (n : Nat) (c : Core) (sh : Shard) (k : Nat) : Word :=
  let det := s.det sh.ctx
  let x := Map.look s.ctxs sh.ctx
  let vary (w : Word) : Word := if det then 0 else w
  if k = 0x000 then BitVec.ofNat 64 sh.num
  else if k = 0x001 then BitVec.ofNat 64 sh.nshard
  else if k = 0x002 then sh.taskId
  else if k = 0x003 then BitVec.ofNat 64 (sh.ctx + if det then 256 else 0)
  else if k = 0x004 then BitVec.ofNat 64 (if det then sh.nominal else n)
  else if k = 0x005 then sh.seed
  else if k = 0x006 then sh.arg0
  else if k = 0x007 then sh.arg1
  else if k = 0x008 then sh.kdesc
  else if k = 0x009 then sh.taskInfo.setWidth 64
  else if 0x010 ≤ k ∧ k < 0x020 then refWord sh.ins (k - 0x010)
  else if 0x020 ≤ k ∧ k < 0x028 then refWord sh.outs (k - 0x020)
  else if 0x028 ≤ k ∧ k < 0x02C then BitVec.ofNat 64 (sh.idx.getD (k - 0x028) 0)
  else if 0x02C ≤ k ∧ k < 0x030 then BitVec.ofNat 64 (sh.ext.getD (k - 0x02C) 0)
  else if k = 0x040 then c.viewV.setWidth 64
  else if k = 0x041 then c.viewW.setWidth 64
  else if k = 0x042 then c.viewT.setWidth 64
  else if k = 0x043 then c.cpl
  else if k = 0x044 then BitVec.ofNat 64 (c.rnd.toNat + if c.ftz then 8 else 0)
  else if k = 0x045 then c.fflags
  else if 0x048 ≤ k ∧ k < 0x058 then (c.queue (k - 0x048)).csr
  else if k = 0x060 then (setBit c.cs.pred 0 true).setWidth 64
  else if k = 0x061 then (if det then 1 else (setBit c.as.pred 0 true).setWidth 64)
  else if k = 0x062 then (if det then 1 else (setBit c.vs.pred 0 true).setWidth 64)
  else if k = 0x063 then vary (tokensWord c)
  else if k = 0x064 then
    BitVec.ofNat 64 ((if c.acc0.chain then 1 else 0) + (if c.acc1.chain then 2 else 0) + (if !det && s.hasLease n then 4 else 0))
  else if k = 0x065 then vary (BitVec.ofNat 64 (inboxCount c sh))
  else if k = 0x080 then c.stackBase
  else if k = 0x081 then c.stackLimit
  else if k = 0x082 then c.tvec
  else if k = 0x083 then c.cause
  else if k = 0x084 then c.tval
  else if k = 0x085 then c.epcC
  else if k = 0x086 then c.epcA
  else if k = 0x087 then c.epcV
  else if k = 0x088 then c.scratch
  else if k = 0x0C0 then vary (BitVec.ofNat 64 (s.now - sh.cycleBase))
  else if k = 0x0C1 then vary (BitVec.ofNat 64 s.now)
  else if k = 0x0C2 then vary c.cs.instret
  else if k = 0x0C3 then vary c.as.instret
  else if k = 0x0C4 then vary c.vs.instret
  else if k = 0x0C8 then BitVec.ofNat 64 (if det then sh.hwm else c.capacity)
  else if k = 0x0C9 then BitVec.ofNat 64 sh.hwm
  else if 0x0D0 ≤ k ∧ k < 0x0D6 then digestWord sh.khash (k - 0x0D0)
  else if k = 0x0D6 then (if det then 0x10F else 0x100)
  else if k = 0x0D7 then x.elim 0 Ctx.htv
  else if k = 0x0D8 then x.elim 0 Ctx.ltv
  else if k = 0x0D9 then sh.seed
  else if 0x0DA ≤ k ∧ k < 0x0E0 then digestWord sh.tree (k - 0x0DA)
  else if 0x0E0 ≤ k ∧ k < 0x0E6 then digestWord (Config.sha384 (s.rosterBytes sh.task)) (k - 0x0E0)
  else if k = 0x0E6 then BitVec.ofNat 64 (x.elim 0 Ctx.ncore)
  else 0

/-- The RW CSRs (R65, R66). -/
def csrRW (k : Nat) : Bool :=
  k == 0x040 || k == 0x041 || k == 0x042 || k == 0x045 || (decide (0x048 ≤ k) && decide (k < 0x058)) || k == 0x060
  || k == 0x080 || k == 0x081 || k == 0x082 || k == 0x088

/-- The RO CSRs (R64 to R67); every other number below 0x100 is reserved. -/
def csrRO (k : Nat) : Bool :=
  decide (k ≤ 0x009) || (decide (0x010 ≤ k) && decide (k ≤ 0x02F)) || k == 0x043 || k == 0x044
  || (decide (0x061 ≤ k) && decide (k ≤ 0x065)) || (decide (0x083 ≤ k) && decide (k ≤ 0x087))
  || (decide (0x0C0 ≤ k) && decide (k ≤ 0x0C4)) || k == 0x0C8 || k == 0x0C9
  || (decide (0x0D0 ≤ k) && decide (k ≤ 0x0E6))

/-- A value written to an RW CSR; bits not listed keep their value, which is zero (R65, R66, R166). -/
def Core.writeCsr (c : Core) (k : Nat) (v : Word) : Core :=
  if k = 0x040 then { c with viewV := v.setWidth 11 }
  else if k = 0x041 then { c with viewW := v.setWidth 11 }
  else if k = 0x042 then { c with viewT := v.setWidth 11 }
  else if k = 0x045 then { c with fflags := v &&& 0x31F }
  else if 0x048 ≤ k ∧ k < 0x058 then c.writeQueue (k - 0x048) v
  else if k = 0x060 then { c with cs := { c.cs with pred := setBit (v.setWidth 8) 0 true } }
  else if k = 0x080 then { c with stackBase := v &&& 0x3FFF0 }
  else if k = 0x081 then { c with stackLimit := v &&& 0x3FFF0 }
  else if k = 0x082 then { c with tvec := v &&& ~~~1 }
  else if k = 0x088 then { c with scratch := v }
  else c

/-- CSRW, CSRS and CSRC (R63, R166): `f old A` is the new value; `self` is the word, for CR.TVAL. -/
def csrUpdate (self : Instr) (rd ra : BitVec 6) (csr : BitVec 12) (s : State) (f : Word → Word → Word) : Out :=
  runC s fun c sh =>
    let k := csr.toNat
    if 0x100 ≤ k ∨ csrRO k then .trap 1 self.tval
    else c.ready s [rd, ra] (
      let old := s.csr s.curCore c sh k
      .done (s.put ((c.writeCsr k (f old (c.sreg ra))).setSreg rd old)))

/-- CSRR: rd := CSR; a number of 0x100 or above is an illegal encoding (R63, R166). -/
def execCsrr (rd : BitVec 6) (csr : BitVec 12) (s : State) : Out :=
  runSpec s fun c sh =>
    if 0x100 ≤ csr.toNat then .trap 1 (Instr.csrr rd csr).tval
    else c.ready s [rd] (.done (s.put (c.setSreg rd (s.csr s.curCore c sh csr.toNat))))

/-- CSRW: CSR := ra; rd := old (R166). -/
def execCsrw (rd ra : BitVec 6) (csr : BitVec 12) (s : State) : Out :=
  csrUpdate (.csrw rd ra csr) rd ra csr s fun _ A => A

/-- CSRS: CSR := old OR ra; rd := old (R166). -/
def execCsrs (rd ra : BitVec 6) (csr : BitVec 12) (s : State) : Out :=
  csrUpdate (.csrs rd ra csr) rd ra csr s fun old A => old ||| A

/-- CSRC: CSR := old AND NOT ra; rd := old (R166). -/
def execCsrc (rd ra : BitVec 6) (csr : BitVec 12) (s : State) : Out :=
  csrUpdate (.csrc rd ra csr) rd ra csr s fun old A => old &&& ~~~A

/-! ### Words common to the three streams (R167 to R173) -/

/-- NOP has no effect (R167). -/
def execNop (s : State) : Out := runOn s.curStrm s fun _ _ => .done s

/-- A synchronising word waits for the resolution of an open speculation in the C-stream (R161, R168). -/
def unspeculated (s : State) (c : Core) (r : Res) : Res :=
  if s.curStrm = .c ∧ c.speculating then .wait s .resolution else r

/-- TKPUSH: waits while the count is 15, then adds 1; a release of core scope (R58, R168). The A-stream does not wait for the accesses that the push follows (R209): the push joins its flight behind them. -/
def execTkpush (k : BitVec 3) (s : State) : Out :=
  runOn s.curStrm s fun c _ => unspeculated s c (
    let t := c.strm s.curStrm
    let f : Access := { s.issued c .a .load { va := 0, size := 0, write := false, data := true, atomic := false, ord := 0, scope := 0, fn := 0, deviceOnly := false } (.pad s.curCore 0) with
      rd := 255, fn := k.toNat, value := some 0 }
    let behind := t.flight.any fun f => f.rd == 255 && f.fn == k.toNat
    if s.curStrm = .a ∧ (¬t.released 0 ∨ behind) then
      .done (s.put { c with as := { c.as with flight := c.as.flight ++ [f] } })
    else if t.acquiring then .wait s .acquire
    else if ¬t.released 0 then .wait s .stores
    else if 15 ≤ c.tokenCount k.toNat then .wait s (.token k.toNat)
    else .done ((s.put (c.tokenAdd k.toNat)).syncPoint s.curCore))

/-- TKPOP: waits while the count is 0, then subtracts 1; an acquire of core scope (R58, R168). -/
def execTkpop (k : BitVec 3) (s : State) : Out :=
  runOn s.curStrm s fun c _ => unspeculated s c (
    if (c.strm s.curStrm).acquiring then .wait s .acquire
    else if c.tokenCount k.toNat = 0 then .wait s (.token k.toNat)
    else
      let c := c.tokenTake k.toNat
      .done ((s.put (if s.curStrm = .c then { c with joined := s.order } else c)).syncPoint s.curCore))

/-- The conditions of retirement (R38): the other streams have halted, every command has completed, no speculation is open, and no store is in flight. -/
def Core.canRetire (c : Core) : Bool :=
  c.as.halted && c.vs.halted && c.mqueue.isEmpty && c.slotted.isEmpty && c.xqueue.isEmpty && !c.speculating
  && (c.cs.flight ++ c.as.flight).all fun f => f.held || f.kind == .load || decide (f.path = 6)

/-- HALT: waits for the conditions of retirement, then the C-stream has ended (R38, R191). -/
def haltWord (s : State) (c : Core) : Res :=
  if c.canRetire then .whole (s.put { c with cs := { c.cs with halted := true, wait := .none, instret := c.cs.instret + 1 } })
  else .wait s .retire

/-- HALT (R191). -/
def execHalt (s : State) : Out := runC s fun c _ => haltWord s c

/-- SHALT: stops the A- or V-stream at its own address, once the beats and token pushes of earlier words have gone; in the C-stream it is HALT (R169). -/
def execShalt (s : State) : Out :=
  runOn s.curStrm s fun c _ => unspeculated s c (
    if s.curStrm = .c then haltWord s c
    else match (if s.curStrm = .a then c.as.flight.find? fun f => f.kind == .load else none) with
    | some f => .wait s (if f.rd = 255 then .token f.fn else .queue f.rd true)
    | none => .whole (s.put (c.updStrm s.curStrm fun t => { t with halted := true, wait := .none, instret := t.instret + 1 })))

/-- PRSET: p[i] := values[i] where mask[i] is set, i = 1 to 7 (R170). Bit i of an operand here is p(i + 1). -/
def execPrset (mask vals : BitVec 7) (s : State) : Out :=
  runOn s.curStrm s fun c _ =>
    let m : BitVec 8 := mask.setWidth 8 <<< 1
    .done (s.put (c.updStrm s.curStrm fun t => { t with pred := (t.pred &&& ~~~m) ||| ((vals.setWidth 8 <<< 1) &&& m) }))

/-- SJ: jumps if p[N] equals the sense (R129, R171). -/
def execSj (sense : Bool) (p : BitVec 3) (off : BitVec 32) (s : State) : Out :=
  runOn s.curStrm s fun c _ =>
    if (c.strm s.curStrm).p p.toNat = sense then .goto s (c.target s.curStrm off) else .done s

/-- A loop word breaks the nesting rules of R136: its level is not above that of every active slot, or its end word lies beyond an active end word. -/
def badNesting (loops : Map LoopSlot) (level : Nat) (stop : Word) : Bool :=
  loops.any fun e => decide (level ≤ e.1) || decide (e.2.stop.toNat < stop.toNat)

/-- The count source of LOOP and LOOPB (R131, R172): a scalar register, an address register, or element 0 of a vector name read as .n32. -/
def loopCount (s : State) (c : Core) (sh : Shard) (cnt : BitVec 12) (k : Nat → Res) : Res :=
  match s.curStrm with
  | .c => c.ready s [cnt.setWidth 6] (k (c.sreg (cnt.setWidth 6)).toNat)
  | .a => k (c.areg (cnt.setWidth 5)).toNat
  | .v => (c.source sh.hwm .v cnt).orElse s fun x => k (elem 32 (x.1.headD 0) 0)

/-- Check 9 of R151 for the count-spec of a loop word in the V-stream (R131, R132). -/
def badCount (s : State) (c : Core) (sh : Shard) (cnt : BitVec 12) : Bool :=
  s.curStrm = .v && c.badSpec sh.hwm 1 { cls := .v, nameOnly := true, dest := false } cnt

/-- Activate a LOOP or LOOPI slot with a count, or skip the body at a count of 0 (R136). -/
def startLoop (s : State) (c : Core) (level : Nat) (rot : Bool) (stop : Word) (count : Nat) : Res :=
  let t := c.strm s.curStrm
  if count = 0 then .settled (s.put (c.setStrm s.curStrm (t.complete stop)))
  else
    let slot : LoopSlot := { isB := false, start := t.pc + 6, stop := stop, remaining := count, rot := rot, drain := 0 }
    .done (s.put (c.setStrm s.curStrm { t with loops := Map.put t.loops level slot }))

/-- The end word of LOOP and LOOPI: PC + 2 × off24 (R129). -/
def loopEnd (s : State) (c : Core) (off : BitVec 24) : Word := (c.strm s.curStrm).pc + 2 * off.setWidth 64

/-- LOOP: the count is read when the word executes (R136, R172). DESIGN CHOICE: a LOOP whose nesting is illegal traps for it before it reads its count source or waits for it; the spec does not say which comes first (notes/assumptions/46.md). -/
def execLoop (level : BitVec 2) (cnt : BitVec 12) (r : Bool) (off : BitVec 24) (s : State) : Out :=
  runOn s.curStrm s fun c sh =>
    if badCount s c sh cnt then .trap 1 (cnt.setWidth 64)
    else if badNesting (c.strm s.curStrm).loops level.toNat (loopEnd s c off) then .trap 1 (Instr.loop level cnt r off).tval
    else loopCount s c sh cnt fun n => startLoop s c level.toNat r (loopEnd s c off) (n % 2 ^ 32)

/-- LOOPI: the count is the immediate (R136, R172). -/
def execLoopi (level : BitVec 2) (cnt : BitVec 12) (r : Bool) (off : BitVec 24) (s : State) : Out :=
  runOn s.curStrm s fun c _ =>
    if badNesting (c.strm s.curStrm).loops level.toNat (loopEnd s c off) then .trap 1 (Instr.loopi level cnt r off).tval
    else startLoop s c level.toNat r (loopEnd s c off) cnt.toNat

/-- One execution of LOOPB with its slot as it stands on entry: iterate, drain, or fall through (R173). -/
def loopbTurn (s : State) (c : Core) (level : Nat) (label : Word) (slot : LoopSlot) : Res :=
  let t := c.strm s.curStrm
  let turn (x : Bool) (slot : LoopSlot) : Res :=
    .goto (s.put (c.setStrm s.curStrm { t with pred := shiftIn t.pred x, loops := Map.put t.loops level slot })) label
  if 1 < slot.remaining then turn true { slot with remaining := slot.remaining - 1 }
  else if 0 < slot.drain then turn false { slot with remaining := 0, drain := slot.drain - 1 }
  else .done (s.put (c.setStrm s.curStrm { t with loops := Map.del t.loops level }))

/-- LOOPB (R173). -/
def execLoopb (level : BitVec 2) (cnt : BitVec 12) (drain : BitVec 4) (off : BitVec 20) (s : State) : Out :=
  runOn s.curStrm s fun c sh =>
    let t := c.strm s.curStrm
    let label := t.pc - 2 * off.setWidth 64
    let self := (Instr.loopb level cnt drain off).tval
    if badCount s c sh cnt then .trap 1 (cnt.setWidth 64)
    else match Map.look t.loops level.toNat with
      | some slot => if slot.isB then loopbTurn s c level.toNat label slot else .trap 1 self
      | none =>
        if badNesting t.loops level.toNat t.pc then .trap 1 self
        else loopCount s c sh cnt fun n =>
          loopbTurn s c level.toNat label
            { isB := true, start := label, stop := t.pc, remaining := n % 2 ^ 32, rot := false, drain := drain.toNat }

end Sys2Proof.Machine
end

