-- ==== Sys2Proof/Machine/Fetch.lean ====
section
/-! DEFINITION. Fetching and decoding an instruction word (R81, R125, R151). -/

namespace Sys2Proof.Machine

/-- What the fetch and decode of a word answer. -/
inductive Fetched where
  | word (w : BitVec 48) (i : Instr)
  | trap (code : BitVec 8) (tval : Word)
  | poison (tval : Word)
  /-- The core's micro-TLB does not hold the page of an instruction byte (R77). -/
  | miss (va : Nat)
  /-- A line of the word has to be read, and its row or its path is taken (R15, R324). -/
  | held
deriving DecidableEq, Repr

/-- CR.TVAL of a word that fails checks 3 to 9 of R151: the word, or for check 8 the offset field. -/
def rejectTval (w : BitVec 48) : Reject → Word
  | .offset f => f
  | .unused d => d.setWidth 64
  | _ => w.setWidth 64

/-- The translation of an instruction byte, which lies in DRAM (R76, R81). -/
def Core.fetchByte (c : Core) (ctx a : Nat) : Trans :=
  match c.translate 2 ctx a .fetch with
  | .ok (.dram pa) => .ok (.dram pa)
  | .poisoned => .poisoned
  | .miss => .miss
  | _ => .fault

/-- The translations that the six bytes of a word need, each with its address: one, or, for a word that crosses a page, one for each byte. -/
def Core.fetchParts (c : Core) (ctx a : Nat) : List (Nat × Trans) :=
  if a % 65536 ≤ 65530 then
    match c.fetchByte ctx a with
    | .ok t => (List.range 6).map fun k => (a + k, .ok (t.plus k))
    | r => [(a, r)]
  else (List.range 6).map fun k => (a + k, c.fetchByte ctx (a + k))

/-- The targets of translations that all succeed. -/
def okTargets : List Trans → List Target
  | [] => []
  | .ok t :: r => t :: okTargets r
  | _ :: r => okTargets r

/-- An instruction byte: from the core's instruction cache if that holds its line, else from memory (R81). -/
def State.codeByte (s : State) (c : Core) : Target → List Byte
  | .dram a => match Map.look c.icache (a / 64) with
    | some l => slice l (a % 64) 1
    | none => s.readTarget (.dram a) 1
  | t => s.readTarget t 1

/-- An instruction byte reads as poisoned data (R373). -/
def State.codePoisoned (s : State) (c : Core) : Target → Bool
  | .dram a => (Map.look c.icache (a / 64)).isNone && s.poisoned (.dram a) 1
  | t => s.poisoned t 1

/-- The lines of instruction bytes that the instruction cache does not hold, and that a fetch reads (R81). -/
def Core.codeLines (c : Core) (ts : List Target) : List Target :=
  (ts.filterMap fun t => match t with
    | .dram a => if (Map.look c.icache (a / 64)).isSome then none else some (Target.dram (a / 64 * 64))
    | _ => none).eraseDups

/-- Fetch and decode the word at a stream's PC, with checks 1 to 9 of R151. -/
def State.fetch (s : State) (n : Nat) (sh : Shard) (σ : Strm) (pc : Word) : Fetched :=
  if !validPc sh pc then .trap 1 pc
  else match s.core? n with
    | none => .trap 12 pc
    | some c =>
      let parts := c.fetchParts sh.ctx pc.toNat
      let ts := okTargets (parts.map Prod.snd)
      match parts.find? fun p => p.2 == .miss with
      | some p => .miss p.1
      | none =>
        if parts.any (·.2 == .poisoned) then .poison pc
        else if parts.any (·.2 == .fault) then .trap 12 pc
        else if (c.codeLines ts).any (s.blocked n) then .held
        else if ts.any (s.codePoisoned c) then .poison pc
        else
          let w := wordOfBytes (ts.flatMap (s.codeByte c))
          match decode σ w with
          | .ok i => .word w i
          | .error e => .trap 1 (rejectTval w e)

/-- The line of an instruction byte enters the instruction cache, if it is not there; of 768 lines the environment chooses the one that makes room (R12, R81). -/
def State.fillCode (s : State) (c : Core) : Target → Core
  | .dram a =>
    if (Map.look c.icache (a / 64)).isSome then c
    else
      let room := if c.icache.length < 768 then c.icache else c.icache.eraseIdx (s.choice % c.icache.length)
      { c with icache := Map.put room (a / 64) (s.readTarget (.dram (a / 64 * 64)) 64) }
  | _ => c

/-- The core when the word at a PC has been fetched: the lines of its bytes are in the instruction cache, and the word in `ir`. -/
def State.fetched (s : State) (c : Core) (sh : Shard) (pc : Word) (w : BitVec 48) : Core :=
  { (okTargets ((c.fetchParts sh.ctx pc.toNat).map Prod.snd)).foldl s.fillCode c with ir := w }

/-- The lines that the fetch of the word at a PC reads are charged to TASKDATA (R333; the spec names no activity for a fetch, notes/assumptions/58.md). -/
def State.chargeFetched (s : State) (n : Nat) (c : Core) (sh : Shard) (pc : Word) : State :=
  (c.codeLines (okTargets ((c.fetchParts sh.ctx pc.toNat).map Prod.snd))).foldl (fun s t => s.chargeAt n t 64) s

end Sys2Proof.Machine
end

