-- ==== Sys2Proof/Machine/Mem.lean ====
section
/-! DEFINITION. The C-stream's memory words (R174 to R184), and the steps of the device that end an access, a walk or a wait. -/

namespace Sys2Proof.Machine

/-! ### Loads and stores (R175, R176) -/

/-- A load of `size` bytes (R175). -/
def loadWord (rd ra : BitVec 6) (ord scope : BitVec 2) (off : BitVec 21) (size : Nat) (signed : Bool) (s : State) : Out :=
  (if ord = 0 then runSpec else runC) s fun c sh => c.ready s [rd, ra] (
    let r : Req := { va := c.sreg ra + off.signExtend 64, size := size, write := false, data := ord == 0, atomic := false,
                     ord := ord, scope := scope, fn := 0, deviceOnly := false }
    c.afterAcquire s (checked s sh r fun t => issueLoad s c sh rd signed r t))

/-- The scope that an access has where it goes: in a scratchpad .dv acts as .cl (R88). -/
def scopeAt (scope : BitVec 2) : Target → Nat
  | .pad _ _ => min scope.toNat 1
  | _ => scope.toNat

/-- The flushing read behind a host-window store failed (R412). -/
def flushFailed (f : Access) : Bool := f.kind == .store && f.path == 6 && f.failed

/-- Drop the stores whose flushing read failed. -/
def State.dropFailed (s : State) (n : Nat) : State :=
  s.updCore n fun c =>
    { c with
      cs := { c.cs with flight := c.cs.flight.filter fun f => !flushFailed f }
      as := { c.as with flight := c.as.flight.filter fun f => !flushFailed f } }

/-- The flushing read behind a store to a host port has failed: the error is lasting in class 6 of that port, and a record says so (R371, R412). -/
def State.hostErr (s : State) (sh : Shard) (port : Nat) : State :=
  (s.countError 8 7 port 6 2).postError 2 6 8 7 port sh.ctx 0 sh.taskId

/-- The host port of a target. -/
def Target.port : Target → Nat
  | .host p _ => p
  | _ => 0

/-- An operation of system scope completes although flushing reads failed, with a class 6 record for each of their ports (R412; for a release access the spec says it of no other than FENCE.sy: notes/assumptions/48.md). -/
def State.flushedOut (s : State) (n : Nat) (c : Core) (sh : Shard) (scope : Nat) : State :=
  if scope = 3 then
    (((c.cs.flight ++ c.as.flight).filter flushFailed).map fun f => f.target.port).eraseDups.foldl (fun s p => s.hostErr sh p) (s.dropFailed n)
  else s

/-- Send a release access once the stores it follows have performed (R95). -/
def releaseAccess (s : State) (c : Core) (sh : Shard) (scope : Nat) (k : State → Core → Res) : Res :=
  c.afterStores s scope (
    let s := s.flushedOut s.curCore c sh scope
    k s ((s.core? s.curCore).getD c))

/-- A store of `size` bytes; a release store is sent only after the stream's earlier stores (R95, R176). -/
def storeWord (rd ra : BitVec 6) (ord scope : BitVec 2) (off : BitVec 22) (size : Nat) (s : State) : Out :=
  (if ord = 0 then runSpec else runC) s fun c sh => c.ready s [rd, ra] (
    let r : Req := { va := c.sreg ra + off.signExtend 64, size := size, write := true, data := ord == 0, atomic := false,
                     ord := ord, scope := scope, fn := 0, deviceOnly := false }
    c.afterAcquire s (checked s sh r fun t =>
      if ord = 0 then issueStore s c sh r t (c.sreg rd) .done
      else releaseAccess s c sh (scopeAt scope t) fun s c => issueStore s c sh r t (c.sreg rd) .done))

/-- LDB: a load of 1 byte, sign-extended (R175). -/
def execLdb (rd ra : BitVec 6) (ord scope : BitVec 2) (off : BitVec 21) (s : State) : Out :=
  loadWord rd ra ord scope off 1 true s

/-- LDBU: a load of 1 byte, zero-extended (R175). -/
def execLdbu (rd ra : BitVec 6) (ord scope : BitVec 2) (off : BitVec 21) (s : State) : Out :=
  loadWord rd ra ord scope off 1 false s

/-- LDH: a load of 2 bytes, sign-extended (R175). -/
def execLdh (rd ra : BitVec 6) (ord scope : BitVec 2) (off : BitVec 21) (s : State) : Out :=
  loadWord rd ra ord scope off 2 true s

/-- LDHU: a load of 2 bytes, zero-extended (R175). -/
def execLdhu (rd ra : BitVec 6) (ord scope : BitVec 2) (off : BitVec 21) (s : State) : Out :=
  loadWord rd ra ord scope off 2 false s

/-- LDW: a load of 4 bytes, sign-extended (R175). -/
def execLdw (rd ra : BitVec 6) (ord scope : BitVec 2) (off : BitVec 21) (s : State) : Out :=
  loadWord rd ra ord scope off 4 true s

/-- LDWU: a load of 4 bytes, zero-extended (R175). -/
def execLdwu (rd ra : BitVec 6) (ord scope : BitVec 2) (off : BitVec 21) (s : State) : Out :=
  loadWord rd ra ord scope off 4 false s

/-- LDD: a load of 8 bytes, sign-extended (R175). -/
def execLdd (rd ra : BitVec 6) (ord scope : BitVec 2) (off : BitVec 21) (s : State) : Out :=
  loadWord rd ra ord scope off 8 true s

/-- STB: a store of the low 1 byte of rd (R176). -/
def execStb (rd ra : BitVec 6) (ord scope : BitVec 2) (off : BitVec 22) (s : State) : Out :=
  storeWord rd ra ord scope off 1 s

/-- STH: a store of the low 2 bytes of rd (R176). -/
def execSth (rd ra : BitVec 6) (ord scope : BitVec 2) (off : BitVec 22) (s : State) : Out :=
  storeWord rd ra ord scope off 2 s

/-- STW: a store of the low 4 bytes of rd (R176). -/
def execStw (rd ra : BitVec 6) (ord scope : BitVec 2) (off : BitVec 22) (s : State) : Out :=
  storeWord rd ra ord scope off 4 s

/-- STD: a store of the low 8 bytes of rd (R176). -/
def execStd (rd ra : BitVec 6) (ord scope : BitVec 2) (off : BitVec 22) (s : State) : Out :=
  storeWord rd ra ord scope off 8 s

/-! ### Atomics (R177, R178) -/

/-- Issue an atomic or CAS whose checks have passed: at once in the own scratchpad, else sent to its point of coherence; the cache line it names is invalidated (R79, R82, R177). -/
def issueAtomic (s : State) (c : Core) (sh : Shard) (rd : BitVec 6) (r : Req) (f : Access) : Res :=
  let n := s.curCore
  let s' := (s.setCore n ((c.cacheDrop f.target).setPending rd)).commitFor n r.va
  if c.direct n f.target then s.raceNow sh r f.target (
    let (s, v) := s'.atOnce n sh f
    .done (s.fly n .c { f with value := some v }))
  else .done ((s'.note n sh.uid f).fly n .c f)

/-- An atomic or CAS (R89, R174, R177, R178). -/
def atomicWord (rd ra rb : BitVec 6) (ord scope : BitVec 2) (dw : Bool) (kind : AccessKind) (fn : Nat) (s : State) : Out :=
  runC s fun c sh => c.ready s [rd, ra, rb] (
    let size := if dw then 8 else 4
    let r : Req := { va := c.sreg ra, size := size, write := true, data := false, atomic := true, ord := ord, scope := scope,
                     fn := fn, deviceOnly := false }
    c.afterAcquire s (checked s sh r fun t =>
      let go (s : State) (c : Core) : Res :=
        issueAtomic s c sh rd r { newAccess s c kind r t with
          data := (c.sreg rb).setWidth 512, cmp := c.sreg rd, rd := rd.toNat, signed := !((fn == 6 || fn == 7) && !dw) }
      if ord.getLsbD 1 then releaseAccess s c sh (scopeAt scope t) go else go s c))

/-- AMADD: the new value is old + B; rd := old (R177). -/
def execAmadd (rd ra rb : BitVec 6) (ord scope : BitVec 2) (dw : Bool) (s : State) : Out :=
  atomicWord rd ra rb ord scope dw .atomic 0 s

/-- AMAND: the new value is old AND B; rd := old (R177). -/
def execAmand (rd ra rb : BitVec 6) (ord scope : BitVec 2) (dw : Bool) (s : State) : Out :=
  atomicWord rd ra rb ord scope dw .atomic 1 s

/-- AMOR: the new value is old OR B; rd := old (R177). -/
def execAmor (rd ra rb : BitVec 6) (ord scope : BitVec 2) (dw : Bool) (s : State) : Out :=
  atomicWord rd ra rb ord scope dw .atomic 2 s

/-- AMXOR: the new value is old XOR B; rd := old (R177). -/
def execAmxor (rd ra rb : BitVec 6) (ord scope : BitVec 2) (dw : Bool) (s : State) : Out :=
  atomicWord rd ra rb ord scope dw .atomic 3 s

/-- AMMIN: the new value is the smaller, signed; rd := old (R177). -/
def execAmmin (rd ra rb : BitVec 6) (ord scope : BitVec 2) (dw : Bool) (s : State) : Out :=
  atomicWord rd ra rb ord scope dw .atomic 4 s

/-- AMMAX: the new value is the larger, signed; rd := old (R177). -/
def execAmmax (rd ra rb : BitVec 6) (ord scope : BitVec 2) (dw : Bool) (s : State) : Out :=
  atomicWord rd ra rb ord scope dw .atomic 5 s

/-- AMMINU: the new value is the smaller, unsigned; rd := old (R177). -/
def execAmminu (rd ra rb : BitVec 6) (ord scope : BitVec 2) (dw : Bool) (s : State) : Out :=
  atomicWord rd ra rb ord scope dw .atomic 6 s

/-- AMMAXU: the new value is the larger, unsigned; rd := old (R177). -/
def execAmmaxu (rd ra rb : BitVec 6) (ord scope : BitVec 2) (dw : Bool) (s : State) : Out :=
  atomicWord rd ra rb ord scope dw .atomic 7 s

/-- AMSWAP: the new value is B; rd := old (R177). -/
def execAmswap (rd ra rb : BitVec 6) (ord scope : BitVec 2) (dw : Bool) (s : State) : Out :=
  atomicWord rd ra rb ord scope dw .atomic 8 s

/-- CAS: rb is written if the old value equals rd; rd := old (R178). -/
def execCas (rd ra rb : BitVec 6) (ord scope : BitVec 2) (dw : Bool) (s : State) : Out :=
  atomicWord rd ra rb ord scope dw .cas 9 s

/-! ### Fences and publication (R179, R180) -/

/-- The outside count of R95 is zero, for the C-stream and for what it has joined of the A-stream. -/
def Core.outsideZero (c : Core) : Bool := c.cs.flight.all (fun f => f.held || f.kind == .load || decide (f.path ≠ 5)) && c.joinedOut 2

/-- What the C-stream's earlier stores must have done for a FENCE: every form at system scope waits as R101 says, every form at device scope for the outside count (R100), and all forms but .acq for the counts of their scope. -/
def Core.fenced (c : Core) (ord scope : BitVec 2) : Bool :=
  if ord = 1 ∧ scope ≠ 3 then decide (scope ≠ 2) || c.outsideZero else c.released scope.toNat

/-- FENCE: ord 0 and 3 order all earlier accesses before all later ones, 1 (.acq) the earlier loads and atomics, 2 (.rel) all earlier accesses before later stores and atomics (R100, R101, R179). -/
def execFence (ord scope : BitVec 2) (s : State) : Out :=
  runC s fun c sh =>
    let n := s.curCore
    if ¬c.cs.loadsDone then .wait s .acquire
    else if ¬c.fenced ord scope ∨ ¬s.heardOut n c scope.toNat then .wait s .stores
    else
      let s := s.flushedOut n c sh scope.toNat
      let s := if ord ≠ 2 ∧ scope ≠ 0 then s.updCore n fun c => { c with dcache := [], heard := s.order } else s
      .done (s.syncPoint n)

/-- PUBLISH: after the stores it covers have performed, the hub's count of the window goes up by 1 and is posted to the counter; rd := count (R90, R102, R180). A flushing read that failed, or a port that is down, is a translation fault, and the count stays (R412, R413); with the die's hub link down, the word waits (R16). -/
def execPublish (rd ra : BitVec 6) (s : State) : Out :=
  runC s fun c sh => c.ready s [rd, ra] (
    let n := s.curCore
    let v := c.sreg ra
    match (Map.look s.ctxs sh.ctx).bind (fun x => Map.look x.pubs (v.toNat % 4096)) with
    | none => .trap 12 v
    | some p =>
      if v.toNat / 4096 ≠ 0 ∨ ¬p.bound then .trap 12 v
      else if sh.pure then .trap 10 v
      else c.afterAcquire s (
        if (c.cs.flight ++ c.as.flight).any flushFailed then .whole ((s.dropFailed n).takeTrap n .c 12 v)
        else if ¬c.cs.loadsDone then .wait s .acquire
        else if ¬c.cs.allZero ∨ c.as.flight.any (fun f => f.kind == .store && f.target.outside && !f.held) ∨ ¬s.heardOut n c 3 then .wait s .stores
        else if (Map.look s.hostDown p.port).isSome then .trap 12 v
        else if ¬s.hubOk (dieOf n) then .wait s .stores
        else
          let count := p.count + 1
          let s := { s with ctxs := Map.upd s.ctxs sh.ctx fun x => { x with pubs := Map.put x.pubs (v.toNat % 4096) { p with count := count } } }
          let s := s.setHostMem p.port (Memory.setN (s.hostMem p.port) p.caddr (toBytes 8 count.toNat))
          .done (((s.updCore n fun c => c.setSreg rd count).commit n).syncPoint n)))

/-! ### Apertures, views, address registers and queues (R181 to R184) -/

/-- CVTA.to: rd := the aperture offset of ra (R181). -/
def execCvtaTo (rd ra : BitVec 6) (ap : BitVec 2) (s : State) : Out :=
  runC s fun c _ => c.ready s [rd, ra] (
    match aperture (c.sreg ra).toNat with
    | some (k, off) => if k = ap.toNat then .done (s.put (c.setSreg rd (BitVec.ofNat 64 off))) else .trap 13 (c.sreg ra)
    | none => .trap 13 (c.sreg ra))

/-- The first address and the largest offset of an aperture (R70, R181). -/
def apertureBase (ap : BitVec 2) : Nat × Nat :=
  if ap = 0 then (0, 2 ^ 56 - 1) else if ap = 1 then (0xFF00000000000000, 0x3FFFF) else (0xFF10000000000000, 0x17FFFFF)

/-- CVTA.from: rd := the generic address of an aperture offset (R181). -/
def execCvtaFrom (rd ra : BitVec 6) (ap : BitVec 2) (s : State) : Out :=
  runC s fun c _ => c.ready s [rd, ra] (
    if (c.sreg ra).toNat ≤ (apertureBase ap).2 then
      .done (s.put (c.setSreg rd (BitVec.ofNat 64 ((apertureBase ap).1 + (c.sreg ra).toNat))))
    else .trap 13 (c.sreg ra))

/-- APTEST: rd := 1 if ra lies in the aperture, else 0 (R181). -/
def execAptest (rd ra : BitVec 6) (ap : BitVec 2) (s : State) : Out :=
  runC s fun c _ => c.ready s [rd, ra]
    (.done (s.put (c.setSreg rd (flagWord ((aperture (c.sreg ra).toNat).any fun x => x.1 == ap.toNat)))))

/-- SETVIEW: the selected views are written together; rd := the old three, V in [10:0], W in [26:16], T in [42:32] (R182). -/
def execSetview (rd ra : BitVec 6) (mask : BitVec 3) (s : State) : Out :=
  runC s fun c _ => c.ready s [rd, ra] (
    let v := c.sreg ra
    let old := BitVec.ofNat 64 (c.viewV.toNat + c.viewW.toNat * 2 ^ 16 + c.viewT.toNat * 2 ^ 32)
    .done (s.put ({ c with
      viewV := if mask.getLsbD 0 then v.extractLsb' 0 11 else c.viewV
      viewW := if mask.getLsbD 1 then v.extractLsb' 16 11 else c.viewW
      viewT := if mask.getLsbD 2 then v.extractLsb' 32 11 else c.viewT }.setSreg rd old)))

/-- SETA: the address register takes ra at an A-stream instruction boundary: at once when the A-stream is between words (R183; notes/assumptions/5.md). -/
def execSeta (ad : BitVec 5) (ra : BitVec 6) (s : State) : Out :=
  runC s fun c _ => c.ready s [ra]
    (.done (s.put (if c.beat.isNone then c.setAreg ad (c.sreg ra)
      else { c with setas := c.setas ++ [(ad.toNat, c.sreg ra)] })))

/-- POPV: rd := bytes 0 to 7 of the popped entry; an acquire of core scope (R55, R184). -/
def execPopv (rd : BitVec 6) (q : BitVec 4) (s : State) : Out :=
  runC s fun c sh => c.ready s [rd] (c.sync s (
    (c.pop sh.hwm q.toNat (queueSpec q.toNat)).orElse s fun x =>
      .done ((s.put { x.2.setSreg rd ((x.1.headD 0).setWidth 64) with joined := s.order }).syncPoint s.curCore)))

/-- PUSHV: an entry whose bytes 0 to 7 are ra, 8 to 15 rb, the rest zero; a release of core scope (R55, R184). -/
def execPushv (ra rb : BitVec 6) (q : BitVec 4) (s : State) : Out :=
  runC s fun c sh => c.ready s [ra, rb] (c.release s 0 (
    (c.push sh.hwm q.toNat (queueSpec q.toNat) [(c.sreg rb ++ c.sreg ra).setWidth 512]).orElse s fun c' =>
      .done ((s.put c').syncPoint s.curCore)))

/-! ### Steps of the device that end an access -/

/-- A step of the device that concerns a core which runs a shard. -/
def onShard (s : State) (m : Core → Shard → Out) : Out :=
  match s.core? s.args.core with
  | none => .refused .notEnabled
  | some c =>
    match c.shard with
    | none => .refused .notEnabled
    | some sh => m c sh

/-- The accesses of a stream to one line perform in program order (R93), and a storing beat of the A-stream behind the earlier beats of its word, any of which may yet take an exception (R198). -/
def inOrder (σ : Strm) (flight : List Access) (idx : Nat) (f : Access) : Bool :=
  (flight.take idx).all fun g => !g.underway || g.marker || !(sameLine g.target f.target || (σ == .a && f.kind == .store && g.cmp == f.cmp))

/-- An access `g` of core `m` goes ahead of an access `f` of core `n`: it was issued earlier and is underway, and both go from one core to one scratchpad (R82), or from one die on one path to one die (R15). -/
def ahead (m : Nat) (g : Access) (n : Nat) (f : Access) : Bool :=
  g.underway && decide (g.order < f.order) && match g.target, f.target with
    | .pad j _, .pad k _ => decide (m = n) && decide (j = k) && !g.marker
    | .dram a, .dram b => decide (f.path < 4) && decide (g.path = f.path) && decide (dieOf m = dieOf n) && decide (a / 2 ^ 36 = b / 2 ^ 36)
    | _, _ => false

/-- No access that goes ahead of one is still underway; one that has met an exception where it goes has arrived (R15, R82). -/
def State.clearAhead (s : State) (n : Nat) (f : Access) : Bool :=
  match f.target with
  | .host _ _ => true
  | .peer _ _ => true
  | _ => (s.cores.all fun e => match e.2.shard with
    | none => true
    | some h => (e.2.cs.flight ++ e.2.as.flight).all fun g => !ahead e.1 g n f || (s.heldFault h g).isSome)
    && s.strays.all fun e => !ahead e.core e.access n f

/-- Access `idx` of a stream of a core may reach its point of coherence now (R15, R82, R93, R324). -/
def State.arrives (s : State) (n : Nat) (σ : Strm) (idx : Nat) (f : Access) : Bool :=
  f.underway && (s.core? n).any (fun c => inOrder σ (c.strm σ).flight idx f) && s.clearAhead n f && !s.rowBlocked f.target

/-- Remove an access from a stream's flight. -/
def State.land (s : State) (n : Nat) (σ : Strm) (idx : Nat) : State :=
  s.updCore n fun c => c.updStrm σ fun t => { t with flight := t.flight.eraseIdx idx }

/-- The value of a load, atomic or CAS arrives: an acquire of cluster scope or wider invalidates the scalar data cache, an atomic its line, a load that used the cache and missed fills it, and the register is written (R79, R90, R94, R153). -/
def State.returned (s : State) (n : Nat) (f : Access) (v : Word) (line : List Byte) : State :=
  s.updCore n fun c =>
    let c := if f.ord.getLsbD 0 ∧ f.scope ≠ 0 then { c with dcache := [], heard := s.order }
      else if f.isAtomic then c.cacheDrop f.target
      else if f.value = none then c.cacheFill f.target line s.choice else c
    c.settleReg f.rd v

/-- The bytes of a beat of the A-stream arrive, and what can be placed is placed (R199). -/
def State.arriveA (s : State) (n : Nat) (idx : Nat) (f : Access) : State :=
  (s.updCore n fun c => { c with as := { c.as with flight := c.as.flight.set idx f } }).drainA n

/-- After a store has performed, the scalar data cache of its core holds its bytes, if the C-stream made it and the line is there, or the line no more, if the A-stream did; the pushes that waited for it go (R79, R90, R92). -/
def State.afterStore (s : State) (n : Nat) (σ : Strm) (f : Access) : State :=
  if σ = .a then (s.updCore n fun c => c.cacheDrop f.target).drainA n
  else s.updCore n fun c => c.cacheStore f.target (toBytes f.size f.data.toNat)

/-- LOAD_RETURN: access `idx` of a stream of a core performs, if it has not, and its value is written to its pending register (R79, R93, R153); `flag` says that its row was opened for it (R322, R334). -/
def execLoadReturn (s : State) : Out :=
  onShard s fun c sh =>
    let n := s.args.core
    let σ := s.args.strm
    let idx := s.args.idx
    match (c.strm σ).flight[idx]? with
    | none => .refused .notEnabled
    | some f =>
      if f.kind = .store ∨ f.target.outside ∨ f.held then .refused .notEnabled
      else match f.value with
        | some v => if σ = .a then .refused .notEnabled else .next ((s.land n σ idx).returned n f v [])
        | none =>
          if ¬s.arrives n σ idx f ∨ (s.heldFault sh f).isSome then .refused .notEnabled
          else if s.poisoned f.target f.size then .next (s.stopPoisoned n sh σ f.va f.pc (f.target.pad?.isNone))
          else
            let got : BitVec 512 := BitVec.ofNat 512 (ofBytes (s.readTarget f.target f.size))
            let line := s.readTarget f.target.line 64
            let (s', v) := (s.chargeAccess n f s.args.flag).performs sh f
            if σ = .a then .next (s'.arriveA n idx { f with value := some 0, data := got })
            else .next ((s'.land n σ idx).returned n f v line)

/-- A store to cell memory fails as lasting: with `flag`, or because its quadrant is out of service (R400). -/
def State.storeFails (s : State) : Target → Bool
  | .dram a => s.args.flag || s.deadQuad a
  | _ => false

/-- The line of a target of cell memory is poisoned. -/
def State.poisonTarget (s : State) : Target → State
  | .dram a => { s with poison := insertNat s.poison (a / 64), poisonedBy := Map.del s.poisonedBy (a / 64) }
  | _ => s

/-- Stray `idx` goes. -/
def State.dropStray (s : State) (idx : Nat) : State := { s with strays := s.strays.eraseIdx idx }

/-- Stray `idx` may reach its point of coherence now (R15, R82, R93, R324). -/
def State.strayArrives (s : State) (idx : Nat) (x : Stray) : Bool :=
  (s.strays.take idx).all (fun e => !(decide (e.core = x.core) && sameLine e.access.target x.access.target))
  && s.clearAhead x.core x.access && !s.rowBlocked x.access.target

/-- A stray performs, unless an exception keeps it from taking effect: that is dropped with the shard (R402), and so is its metadata (R301). A store that fails as lasting poisons its line (R400). -/
def execStrayArrives (s : State) : Out :=
  match s.strays[s.args.idx]? with
  | none => .refused .notEnabled
  | some x =>
    let f := x.access
    let s' := s.dropStray s.args.idx
    if f.target.outside ∨ ¬s.strayArrives s.args.idx x then .refused .notEnabled
    else if s.storeFails f.target then .next (s'.poisonTarget f.target)
    else if s.hitsSealed f.target f.size ∨ (f.reads ∧ s.poisoned f.target f.size) then .next s'
    else .next ((s'.chargeAccess x.core f (s.args.b == 1)).perform f).1

/-- STORE_ACK: store `idx` of a stream performs at its point of coherence, and its count falls (R95); one that fails as lasting does not perform, its line is poisoned, and its shard stops (R400). With stream V: stray `idx` arrives. -/
def execStoreAck (s : State) : Out :=
  if s.args.strm = .v then execStrayArrives s
  else onShard s fun c sh =>
    let n := s.args.core
    let σ := s.args.strm
    let idx := s.args.idx
    match (c.strm σ).flight[idx]? with
    | none => .refused .notEnabled
    | some f =>
      if f.kind ≠ .store ∨ f.target.outside ∨ ¬s.arrives n σ idx f ∨ (s.heldFault sh f).isSome then .refused .notEnabled
      else if s.storeFails f.target then .next (((s.poisonTarget f.target).land n σ idx).stopPoisoned n sh σ f.va f.pc true)
      else .next ((((s.chargeAccess n f (s.args.b == 1)).performs sh f).1.land n σ idx).afterStore n σ f)

/-- An earlier host-window store of a core to a port has not left it (R85). -/
def State.leavesLater (s : State) (n p : Nat) (f : Access) : Bool :=
  let earlier (g : Access) : Bool := g.kind == .store && g.path != 6 && !g.held && decide (g.order < f.order)
    && match g.target with
      | .host q _ => q == p
      | _ => false
  (s.core? n).any (fun c => (c.cs.flight ++ c.as.flight).any earlier) || s.strays.any fun e => e.core == n && earlier e.access

/-- A host-window store of a shard that has left its core leaves the port (R42, R85). -/
def execStrayLeavesPort (s : State) : Out :=
  match s.strays[s.args.idx]? with
  | none => .refused .notEnabled
  | some x =>
    match x.access.target with
    | .host p _ =>
      if ¬s.hubOk (dieOf x.core) ∨ s.leavesLater x.core p x.access then .refused .notEnabled
      else
        let s := s.dropStray s.args.idx
        .next (if (Map.look s.hostDown p).isNone then ((s.chargeAccess x.core x.access false).perform x.access).1 else s)
    | _ => .refused .notEnabled

/-- POSTED_WRITE_LEFT_PORT: the oldest host-window store of the core to its port leaves the host port and the stream's outside count (R85, R95); a window whose link is down drops it (R413). With stream V: stray `idx` does. -/
def execPostedWriteLeftPort (s : State) : Out :=
  if s.args.strm = .v then execStrayLeavesPort s
  else onShard s fun c sh =>
    let n := s.args.core
    let σ := s.args.strm
    let idx := s.args.idx
    match (c.strm σ).flight[idx]? with
    | none => .refused .notEnabled
    | some f =>
      match f.target with
      | .host p _ =>
        if f.kind ≠ .store ∨ f.path = 6 ∨ ¬s.hubOk (dieOf n) ∨ s.leavesLater n p f then .refused .notEnabled
        else
          let s := if (Map.look s.hostDown p).isNone then ((s.chargeAccess n f false).takesEffect sh f).1 else s
          .next ((s.updCore n fun c => c.updStrm σ fun t => { t with flight := t.flight.set idx { f with path := 6 } }).afterStore n σ f)
      | _ => .refused .notEnabled

/-- A non-posted request to a host port is outstanding: one of the first 768 in the order of issue; the flushing read behind a posted store is one (R101, R338). -/
def State.hasTag (s : State) (p : Nat) (f : Access) : Bool :=
  decide (((s.cores.flatMap fun e => e.2.cs.flight ++ e.2.as.flight).filter fun g =>
    decide (g.order < f.order) && (g.kind != .store || decide (g.path = 6)) && g.value.isNone && !g.failed
      && (match g.target with | .host q _ => q == p | _ => false)).length < 768)

/-- An atomic to a host window whose shard has left its core is carried out by the host, unless it fails (R42, R85). -/
def execStrayCompletes (s : State) : Out :=
  match s.strays[s.args.idx]? with
  | none => .refused .notEnabled
  | some x =>
    match x.access.target with
    | .host p _ =>
      if x.access.kind = .store then .refused .notEnabled
      else
        let bad := s.args.flag || (Map.look s.hostDown p).isSome || !s.hubOk (dieOf x.core)
        let s := s.dropStray s.args.idx
        .next (if bad then s else ((s.chargeAccess x.core x.access false).perform x.access).1)
    | _ => .refused .notEnabled

/-- HOST_COMPLETION: a completion for access `idx` returns from the host over the die's hub link: the value of a load or atomic, which goes to its register or its beat, or the flushing read behind a posted store; with the flag, or with the port or the hub link down, a failure; with code 1, poisoned data (R16, R85, R101, R412). It is one of the requests outstanding at the port (R338). With stream V: it is for stray `idx`. -/
def execHostCompletion (s : State) : Out :=
  if s.args.strm = .v then execStrayCompletes s
  else onShard s fun c sh =>
    let n := s.args.core
    let σ := s.args.strm
    let idx := s.args.idx
    match (c.strm σ).flight[idx]? with
    | none => .refused .notEnabled
    | some f =>
      match f.target with
      | .host p _ =>
        let set (s : State) (g : Access) : State := s.updCore n fun c => c.updStrm σ fun t => { t with flight := t.flight.set idx g }
        let bad := s.args.flag || (Map.look s.hostDown p).isSome || !s.hubOk (dieOf n)
        if ¬s.hasTag p f then .refused .notEnabled
        else if f.kind = .store then
          if f.path ≠ 6 then .refused .notEnabled
          else if bad then .next ((set s { f with failed := true }).closedBy f)
          else .next ((s.land n σ idx).closedBy f)
        else if f.value.isSome ∨ f.failed ∨ f.held ∨ ¬inOrder σ (c.strm σ).flight idx f then .refused .notEnabled
        else if s.args.code = 1 then .next (s.stopPoisoned n sh σ f.va f.pc true)
        else if bad then .next (set s { f with failed := true })
        else
          let got : BitVec 512 := BitVec.ofNat 512 (ofBytes (s.readTarget f.target f.size))
          let (s', v) := (s.chargeAccess n f false).performs sh f
          if σ = .a then .next (s'.arriveA n idx { f with value := some 0, data := got })
          else .next ((s'.land n σ idx).returned n f v [])
      | _ => .refused .notEnabled

/-- The requests merged with a walk that installs nothing have its answer to meet (R77, R397). -/
def State.walkFailed (s : State) (m : Miss) (poisoned : Bool) : State :=
  ((m.core, m.path) :: m.others).foldl (fun s q => s.updCore q.1 fun c =>
    if c.shard.any fun h => h.ctx == m.ctx then
      { c with walkFails := c.walkFails ++ [{ path := q.2, page := m.page, bits := m.bits, poisoned := poisoned }] } else c) s

/-- The cluster TLB is 16-way: a new translation makes room in its own set, where the environment chooses the one that leaves (R77). -/
def tlbInsert (choice : Nat) (l : List Tlb) (x : Tlb) : List Tlb :=
  let set (t : Tlb) : Nat := Config.tlbSet t.ctx t.page t.bits % 256
  (bounded 16 choice (l.filter fun t => set t = set x) x) ++ l.filter fun t => set t ≠ set x

/-- A walk reads table entries: column accesses for activity TASKDATA (R333). -/
def State.chargeWalk (s : State) (l : List WalkEntry) : State := l.foldl (fun s w => s.charge (w.at_ / 2 ^ 34 % 32) actTask 1) s

/-- TLB_WALK_DONE: walk `idx` of the 8 that run in cluster `a` ends: its translation enters the cluster TLB and what it read of levels 1 to 4 the walk cache, or a fault or poisoned table data installs nothing and is left to the requests merged with it (R75, R77, R397). -/
def execTlbWalkDone (s : State) : Out :=
  match Map.look s.clusters s.args.a with
  | none => .refused .notEnabled
  | some k =>
    match (k.misses.take 8)[s.args.idx]? with
    | none => .refused .notEnabled
    | some m =>
      let va := m.page * 2 ^ m.bits
      let set (k : Cluster) : State := { s with clusters := Map.put s.clusters s.args.a k }
      let k : Cluster := { k with misses := k.misses.eraseIdx s.args.idx }
      match Map.look s.ctxs m.ctx with
      | none => .next (set k)
      | some x =>
        match s.walk k.walks m.ctx va pageLevels x.ptroot with
        | .fault => .next ((set k).walkFailed m false)
        | .poisoned => .next ((set k).walkFailed m true)
        | .leaf e n =>
          let new := (s.walkReads k.walks m.ctx va pageLevels x.ptroot).filter fun w => !k.walks.contains w
          .next ((set { k with
            tlb := tlbInsert s.choice k.tlb { ctx := m.ctx, page := va / 2 ^ n, bits := n, entry := BitVec.ofNat 64 e }
            walks := new.foldl (bounded 256 s.choice) k.walks }).chargeWalk new)

/-- QUEUE_ACCESS_RESUME: a push or pop that waits on its entry's full bits goes on once they have changed, the placements and pushes of the A-stream's beats among them (R55, R57, R199). -/
def execQueueAccessResume (s : State) : Out :=
  onShard s fun c sh =>
    if s.args.strm = .a ∧ (c.drainAll sh.hwm c.as.flight.length).as.flight.length ≠ c.as.flight.length then .next (s.drainA s.args.core)
    else match (c.strm s.args.strm).wait with
    | .queue q push =>
      let r := c.queue q
      if c.allFull (!push) (r.entry (if push then r.tail.toNat else r.head.toNat)) r.size then
        .next (s.updCore s.args.core fun c => c.updStrm s.args.strm fun t => { t with wait := .none })
      else .refused .notEnabled
    | _ => .refused .notEnabled

/-- FULL_BIT_WAIT_RESUME: a read that waits on a granule goes on once its full bit is set (R51, R53). -/
def execFullBitWaitResume (s : State) : Out :=
  onShard s fun c _ =>
    match (c.strm s.args.strm).wait with
    | .full g =>
      if c.full.getLsbD g then .next (s.updCore s.args.core fun c => c.updStrm s.args.strm fun t => { t with wait := .none })
      else .refused .notEnabled
    | _ => .refused .notEnabled

/-- The first access in flight, in the stream order of R381 and then oldest first, that has reached its point of coherence and meets an exception there, and CR.TVAL for it (R383). -/
def State.heldTrap (s : State) (n : Nat) (c : Core) (sh : Shard) : Option (Strm × Access × BitVec 8 × Word) :=
  [Strm.c, Strm.a].findSome? fun σ =>
    (c.strm σ).flight.zipIdx.findSome? fun x =>
      if x.1.target.outside || s.arrives n σ x.2 x.1 then (s.heldFault sh x.1).map fun e => (σ, x.1, e) else none

/-- TRAP_ENTRY: a trap of a stream is taken that no executing word raises: the exception of an access behind its issue, the placement of a beat in an entry at or above HWM, or the failure of the fetch or decode of the word at its PC (R66, R107, R151, R198, R381 to R384). -/
def execTrapEntry (s : State) : Out :=
  onShard s fun c sh =>
    let n := s.args.core
    let σ := s.args.strm
    match (if c.inh then none else (s.heldTrap n c sh).orElse fun _ => (if σ = .a then c.placeTrap sh.hwm else none)) with
    | some (τ, f, code, tval) => .next (s.takeHeld n τ f code tval)
    | none =>
      if (c.strm σ).halted || (σ != .c && c.inh) then .refused .notEnabled
      else match s.fetch n sh σ (c.strm σ).pc with
        | .trap code tval => .next ({ s with curCore := n }.trapWord σ c code tval)
        | _ => .refused .notEnabled

end Sys2Proof.Machine
end

