-- ==== Sys2Proof/Machine/Access.lean ====
section
/-! DEFINITION. The A-stream's words: streaming, gather, scatter, partition, columns of held rows, address arithmetic, flush and multicast (R197 to R209). -/

namespace Sys2Proof.Machine

/-! ### A beat -/

/-- The bytes of a beat under R130. -/
def beatSize (size : BitVec 2) : Nat := 8 * 2 ^ size.toNat

/-- The opcodes 0x40 to 0x46 in the saved word state. -/
def opAld : BitVec 8 := 0x40
def opAst : BitVec 8 := 0x41
def opAgth : BitVec 8 := 0x42
def opAsct : BitVec 8 := 0x43
def opApart : BitVec 8 := 0x44
def opArld : BitVec 8 := 0x45
def opArst : BitVec 8 := 0x46

/-- An access of a beat: a data access of the A-stream (R197). -/
def beatReq (va : Word) (size : Nat) (write : Bool) : Req :=
  { va := va, size := size, write := write, data := true, atomic := false, ord := 0, scope := 0, fn := 0, deviceOnly := false }

/-- A beat's access as it goes into the stream's flight. -/
def beatAccess (s : State) (c : Core) (kind : AccessKind) (r : Req) (t : Target) (rd : Nat) : Access :=
  { s.issued c .a kind r t with rd := rd, signed := false }

/-- Issue a word of beats: its pop is taken, its address registers are read, and its beats follow (R197, R198). -/
def startBeats (s : State) (pop push : BitVec 3) (k : Core → Beat) : Out :=
  runOn .a s fun c _ =>
    if pop ≠ 0 ∧ c.tokenCount pop.toNat = 0 then .wait s (.token pop.toNat)
    else
      let s := if pop = 0 then s else (s.put (c.tokenTake pop.toNat)).syncPoint s.curCore
      .whole (s.updCore s.curCore fun c =>
        { c with beat := some { k c with push := push }, as := { c.as with wait := .none } })

/-- The word's last beat has issued: its token push joins the flight behind its beats (R200), the address registers that SETA wrote meanwhile change (R183), and the word completes. -/
def State.endBeats (s : State) (n : Nat) (b : Beat) : State :=
  let s := s.updCore n fun c =>
    let marker : Access := { beatAccess s c .load (beatReq 0 0 false) (.pad n 0) 255 with fn := b.push.toNat, value := some 0 }
    let c := { c with as := { c.as with flight := c.as.flight ++ if b.push = 0 then [] else [marker] } }
    let c := { c.applySetas with beat := none }
    { c with as := (c.as.complete c.as.pc).count }
  s.drainA n

/-- Beat j has issued: the next beat follows, or the word ends. -/
def State.nextBeat (s : State) (n : Nat) (b : Beat) : State :=
  if b.j + 1 < b.beats then
    (s.updCore n fun c => { c with beat := some { b with j := b.j + 1, index := none, row := none }, as := { c.as with wait := .none } }).drainA n
  else s.endBeats n b

/-- A failure of a beat after part of its work (an index taken) has been kept: the state that keeps it is the one that traps (R198). -/
def Res.over (s : State) (sh : Shard) (pc : Word) : Res → Res
  | .trap code tval => .whole (s.takeTrap s.curCore .a code tval)
  | .poison tval cell => .whole (s.stopPoisoned s.curCore sh .a tval pc cell)
  | r => r

/-! ### Loads and stores of a beat -/

/-- The checks of R174 for an access of the A-stream. -/
def checkedA (s : State) (sh : Shard) (r : Req) (k : Target → Res) : Res := checkedFor 1 s sh r k

/-- Read an index that the beat's address needs: at once in the own scratchpad, else sent once and taken when it is there (R201). -/
def indexFetch (s : State) (c : Core) (sh : Shard) (r : Req) (t : Target) (k : State → Nat → Res) : Res :=
  let n := s.curCore
  let f := beatAccess s c .load r t 254
  if c.direct n t then s.raceNow sh r t (k (s.atOnce n sh f).1 (ofBytes (s.readTarget t r.size)))
  else match c.as.flight.find? fun g => g.kind == .load && g.rd == 254 && g.va == r.va && g.cmp == c.as.instret with
    | none => .wait ((s.note n sh.uid f).fly n .a f) .reply
    | some g => match g.value with
      | none => .wait s .reply
      | some _ =>
        k (s.updCore n fun c => { c with as := { c.as with flight := c.as.flight.filter fun h => h ≠ g } }) (g.data.toNat % 2 ^ (8 * r.size))

/-- Bytes that a beat has read join the flight, to be placed in beat order. -/
def State.arrived (s : State) (n : Nat) (f : Access) (bs : List Byte) : State :=
  s.updCore n fun c => { c with as := { c.as with flight := c.as.flight ++ [{ f with value := some 0, data := BitVec.ofNat 512 (ofBytes bs) }] } }

/-- A loading beat: checked and sent; its bytes are placed in beat order once they are there (R197, R199). -/
def loadBeat (s : State) (c : Core) (sh : Shard) (b : Beat) (va : Word) : Res :=
  let n := s.curCore
  let r := beatReq va b.size false
  if 64 ≤ c.beatsOut then .wait s (.queue b.q true)
  else checkedA s sh r fun t =>
    let f := beatAccess s c .load r t b.q
    if c.direct n t then s.raceNow sh r t (.whole (((s.atOnce n sh f).1.arrived n f (s.readTarget t r.size)).nextBeat n b))
    else .whole (((s.note n sh.uid f).fly n .a f).nextBeat n b)

/-- A store of the word that executes takes effect at its issue: an earlier beat of the word that is still underway may yet take an exception, behind which it would have no effect (R82, R198). -/
def Core.storesNow (c : Core) (n : Nat) (t : Target) : Bool :=
  c.direct n t && !c.as.flight.any fun f => f.cmp == c.as.instret && f.underway && !f.marker

/-- Store bytes of the A-stream at a checked target: at once, or sent; a global store commits the shard (R37, R82, R95). -/
def State.storeA (s : State) (n : Nat) (c : Core) (sh : Shard) (r : Req) (t : Target) (bs : List Byte) : State :=
  let f : Access := { beatAccess s c .store r t 0 with data := BitVec.ofNat 512 (ofBytes bs) }
  let s := s.commitFor n r.va
  if c.storesNow n t then (s.atOnce n sh f).1 else (s.note n sh.uid f).fly n .a f

/-- Check 8 of R174 where the access takes effect at once (R82); elsewhere its point of coherence makes it. -/
def State.raceOwn (s : State) (n : Nat) (c : Core) (sh : Shard) (r : Req) (t : Target) (k : Res) : Res :=
  if c.storesNow n t then s.raceNow sh r t k else k

/-- Taking `n` bytes of a store queue pops an entry. -/
def Core.pops (c : Core) (q n : Nat) : Bool := n != 0 && ((c.queue q).off == 0 || decide (c.entryBytes q < (c.queue q).off + n))

/-- The shard as an access that follows the taking of bytes finds it: a pop ends the open region (R105). -/
def Shard.popped (sh : Shard) (pops : Bool) : Shard := if pops then { sh with region := none } else sh

/-- Take `n` bytes of a store queue and go on with them; a pop acquires, and closes the open region (R90, R105, R199). -/
def taking (s kept : State) (c : Core) (sh : Shard) (q : Nat) (fuel n : Nat) (k : State → Core → List Byte → Res) : Res :=
  (c.take sh.hwm q fuel n).orElse kept fun x =>
    let s := s.setCore s.curCore x.2
    let s := if c.pops q n then s.syncPoint s.curCore else s
    k s ((s.core? s.curCore).getD x.2) x.1

/-- A storing beat: checked before its bytes are taken (R197, R200, R201); it waits while 64 beats are in flight (R209). -/
def storeBeat (s : State) (c : Core) (sh : Shard) (b : Beat) (va : Word) : Res :=
  let n := s.curCore
  let r := beatReq va b.size true
  if 64 ≤ c.beatsOut then .wait s (.queue b.q true)
  else checkedA s sh r fun t => s.raceOwn n c (sh.popped (c.pops b.q b.size)) r t (
    taking s s c sh b.q 2 b.size fun s c bs => .whole ((s.storeA n c sh r t bs).nextBeat n b))

/-! ### Indices (R201) -/

/-- Bytes of an index, by IT. -/
def indexBytes (it : Nat) : Nat := if it = 0 then 2 else if it = 3 then 8 else 4

/-- The beat of AGTH or ASCT takes its index, from a store queue or from memory, and goes on with it (R201). -/
def withIndex (s : State) (c : Core) (sh : Shard) (b : Beat) (k : State → Core → Beat → Word → Res) : Res :=
  let n := s.curCore
  let spec := b.step.toNat
  let it := bits spec 8 2
  let w := indexBytes it
  let go (s : State) (c : Core) (b : Beat) (x : Word) : Res :=
    let idx := if 2 ≤ it then sextWord x.toNat (8 * w) else x
    k s c b (b.base + (idx <<< bits spec 4 4))
  match b.index with
  | some x => go s c b x
  | none =>
    let kept (s : State) (x : Nat) : Res :=
      let b := { b with index := some (BitVec.ofNat 64 x) }
      let s := s.updCore n fun c => { c with beat := some b }
      let c := (s.core? n).getD c
      (go s c b (BitVec.ofNat 64 x)).over s sh c.as.pc
    if bitAt spec 15 then
      let r := beatReq (b.ibase + BitVec.ofNat 64 (b.j * w)) w false
      checkedA s sh r fun t => indexFetch s c sh r t kept
    else taking s s c sh (bits spec 10 4) 2 w fun s _ bs => kept s (ofBytes bs)

/-! ### Partition (R203) -/

/-- Bytes of a key of APART, by the key type. -/
def keyBytes (kt : Nat) : Nat := 2 ^ kt

/-- The first of the list words of APART that fails checks 1 to 7 of R174, with its address. -/
def State.listFault (s : State) (sh : Shard) (a : Word) (n : Nat) : Option (Word × Checked) :=
  (List.range n).findSome? fun i =>
    let va := a + BitVec.ofNat 64 (4 * i)
    match s.checkFor 1 s.curCore sh (beatReq va 4 true) with
    | .ok _ => none
    | x => some (va, x)

/-- Key i of APART: written as an index to the list its value selects (R203). -/
def partStep (s : State) (c : Core) (sh : Shard) (b : Beat) : Res :=
  let n := s.curCore
  let w := keyBytes (bits b.step.toNat 8 2)
  let write (s : State) (c : Core) (b : Beat) (key : Word) : Res :=
    let place := if key = 0 then 4 * b.c0 else 4 * b.beats + 4 * b.c1
    let r := beatReq (b.base + BitVec.ofNat 64 place) 4 true
    checkedA s sh r fun t => s.raceOwn n c sh r t (
      let s := s.storeA n c sh r t (toBytes 4 b.j)
      let b := if key = 0 then { b with c0 := b.c0 + 1 } else { b with c1 := b.c1 + 1 }
      let s := if b.j + 1 < b.beats then s else s.updCore n fun c =>
        (c.setAreg (BitVec.ofNat 5 b.q) (BitVec.ofNat 64 b.c0)).setAreg (BitVec.ofNat 5 (b.q + 16)) (BitVec.ofNat 64 b.c1)
      .whole (s.nextBeat n b))
  if 64 ≤ c.beatsOut then .wait s (.queue b.q true)
  else match b.index, (if b.j = 0 then s.listFault sh b.base (2 * b.beats) else none) with
  | some key, _ => write s c b key
  | none, some (_, .trap code tval) => .trap code tval
  | none, some (_, .poison cell) => .poison b.base cell
  | none, some (va, .miss) => .wait (s.tlbMiss n 1 sh.ctx va.toNat) .translation
  | none, _ =>
    taking s s c sh (bits b.step.toNat 10 4) 2 w fun s c bs =>
      let key := BitVec.ofNat 64 (ofBytes bs)
      let b := { b with index := some key }
      let c := { c with beat := some b }
      (write (s.setCore n c) c b key).over (s.setCore n c) ((c.shard).getD sh) c.as.pc

/-! ### Columns of held rows (R204) -/

/-- The row of a hold slot belongs to a sealed version or holds a sealed line at a column. -/
def State.rowSealed (s : State) (x : Hold) (off n : Nat) : Bool :=
  match x.row with
  | .cell pa => s.hitsSealed (.dram (pa + off)) n
  | .piece key _ _ => (Map.look s.versions key).any Version.sealed_
  | _ => false

/-- Checks 1 to 5 of R204 for a column beat: the slot's number, the hold and the column offset. -/
def rowChecks (s : State) (c : Core) (b : Beat) (k : Nat → Hold → Nat → Res) : Res :=
  let a := b.base
  let h := bits a.toNat 0 4
  let y := s.holdBefore c h
  let x := { y with row := b.row.getD y.row }
  let off : Int := (bits a.toNat 4 10 : Nat) + b.j * sextNat b.step.toNat 16
  if b.row.isSome then k h x off.toNat
  else if a.toNat / 2 ^ 14 ≠ 0 then .trap 13 a
  else if x.state = .free then .trap 13 a
  else if x.state = .opening then .wait s .opening
  else if x.state ≠ .held then .trap 14 (BitVec.ofNat 64 h)
  else if off < 0 ∨ 1024 < off + b.size ∨ off % b.size ≠ 0 then .trap 13 (word off)
  else k h x off.toNat

/-- A beat to a row of a tile version goes to its row buffer. In deterministic mode the row of a hold that has ended is open no more: the beat waits while the row's group is held for another row, and opens the row itself, which an activation and its count answer to (R322, R324, R327). -/
def atBuffer (s : State) (n : Nat) (x : Hold) (k : State → Res) : Res :=
  let place := x.place.toNat
  if x.open ∨ x.state ≠ .held then k (s.chargeColumn n place)
  else if s.groupHeld place then .wait s .opening
  else k (((s.chargeColumn n place).charge (quadOf place) actHold 1).countActivation place)

/-- A beat of ARLD: served at the row buffer (R204). A column of a row of cell memory is an access like any other, named by its offset (R107, R326). -/
def rowLoad (s : State) (c : Core) (sh : Shard) (b : Beat) : Res :=
  let n := s.curCore
  if 64 ≤ c.beatsOut then .wait s (.queue b.q true)
  else rowChecks s c b fun h x off =>
    let r := beatReq (BitVec.ofNat 64 off) b.size false
    let f (t : Target) : Access := { beatAccess s c .load r t b.q with fn := h + 1 }
    match State.rowTarget x off with
    | some t => .whole (((s.note n sh.uid (f t)).fly n .a (f t)).nextBeat n b)
    | none => atBuffer s n x fun s =>
      .whole ((s.arrived n (f (.pad n 0)) (slice (s.rowBytes x) off b.size)).nextBeat n b)

/-- An ARST write to an unsealed version: edge elements discard it (R256), and deterministic mode admits one writing shard per byte, a rerun counting as the same shard (R39, R301). -/
def State.writeRowPiece (s : State) (sh : Shard) (key : Nat) (twin : Bool) (at_ : Nat) (bs : List Byte) : Option State :=
  match Map.look s.versions key with
  | none => some s
  | some v =>
    let from_ := at_ + if twin then 2 ^ 20 else 0
    if s.det sh.ctx ∧ v.writtenByOther sh.task sh.num from_ bs.length then none
    else
      let v := { v with writers := v.writers ++ [(from_, bs.length, sh.task, sh.num)] }
      let new (i : List Byte) : List Byte := s.edged v twin ((patch i at_ bs).take i.length)
      let v : Version := if twin then { v with twin := v.twin.map new } else { v with image := new v.image }
      some { s with versions := Map.put s.versions key v }

/-- A beat of ARST (R204). One that has passed its checks and waits for its bytes keeps its row, and completes although the row's bytes are gone by then. -/
def rowStore (s : State) (c : Core) (sh : Shard) (b : Beat) : Res :=
  let n := s.curCore
  if 64 ≤ c.beatsOut then .wait s (.queue b.q true)
  else rowChecks s c b fun h x off =>
    let tval := BitVec.ofNat 64 off
    let r := beatReq tval b.size true
    let kept := s.updCore n fun c => { c with beat := some { b with row := some x.row } }
    if s.rowSealed x off b.size then .trap 9 tval
    else match State.rowTarget x off with
      | some t =>
        taking s kept c sh b.q 2 b.size fun s c bs =>
          let s := s.commit n
          let f : Access := { beatAccess s c .store r t 0 with fn := h + 1, data := BitVec.ofNat 512 (ofBytes bs) }
          .whole (((s.note n sh.uid f).fly n .a f).nextBeat n b)
      | none => atBuffer s n x fun s' =>
        match s.rowImage x with
        | none => taking s' kept c sh b.q 2 b.size fun s _ _ => .whole (s.nextBeat n b)
        | some (key, twin, p, _) =>
          taking s' kept c sh b.q 2 b.size fun s _ bs =>
            match s.writeRowPiece sh key twin (1024 * p + off) bs with
            | none => .trap 8 tval
            | some s => .whole (s.nextBeat n b)

/-! ### AS_BEAT -/

/-- The next beat of the word that executes (R197 to R204). -/
def beatStep (s : State) (c : Core) (sh : Shard) (b : Beat) : Res :=
  let linear := b.base + BitVec.ofNat 64 b.j * b.step.signExtend 64
  if b.op = opAld then loadBeat s c sh b linear
  else if b.op = opAst then storeBeat s c sh b linear
  else if b.op = opAgth then withIndex s c sh b fun s c b va => loadBeat s c sh b va
  else if b.op = opAsct then withIndex s c sh b fun s c b va => storeBeat s c sh b va
  else if b.op = opApart then partStep s c sh b
  else if b.op = opArld then rowLoad s c sh b
  else rowStore s c sh b

/-- AS_BEAT: one beat of the A-stream's word issues, waits, or traps at that beat (R197, R198, R209). -/
def execAsBeat (s : State) : Out :=
  let s := { s with curCore := s.args.core, curStrm := .a }
  onShard s fun c sh =>
    match c.beat with
    | none => .refused .notEnabled
    | some b => if c.as.halted || c.inh then .refused .notEnabled else s.settle .a c sh (beatStep s c sh b)

/-! ### The words that move data -/

/-- The saved word state of a word at its issue. -/
def newBeat (c : Core) (op : BitVec 8) (q : BitVec 4) (aa ia : BitVec 5) (step : BitVec 16) (beats : Nat) (size : Nat) : Beat :=
  { op := op, q := q.toNat, base := c.areg aa, ibase := c.areg ia, step := step, beats := beats, size := size, push := 0, j := 0,
    index := none, row := none, c0 := 0, c1 := 0 }

/-- ALD: B beats loaded from a + j × step into a load queue (R200). -/
def execAld (dstq : BitVec 4) (aa : BitVec 5) (step : BitVec 16) (rpt : BitVec 7) (size : BitVec 2) (pop push : BitVec 3) (s : State) : Out :=
  startBeats s pop push fun c => newBeat c opAld dstq aa 0 step (rpt.toNat + 1) (beatSize size)

/-- AST: B beats stored from a store queue to a + j × step (R200). -/
def execAst (dstq : BitVec 4) (aa : BitVec 5) (step : BitVec 16) (rpt : BitVec 7) (size : BitVec 2) (pop push : BitVec 3) (s : State) : Out :=
  startBeats s pop push fun c => newBeat c opAst dstq aa 0 step (rpt.toNat + 1) (beatSize size)

/-- ARLD: columns of a held row into a load queue (R204). -/
def execArld (dstq : BitVec 4) (aa : BitVec 5) (step : BitVec 16) (rpt : BitVec 7) (size : BitVec 2) (pop push : BitVec 3) (s : State) : Out :=
  startBeats s pop push fun c => newBeat c opArld dstq aa 0 step (rpt.toNat + 1) (beatSize size)

/-- ARST: bytes of a store queue into columns of a held row (R204). -/
def execArst (dstq : BitVec 4) (aa : BitVec 5) (step : BitVec 16) (rpt : BitVec 7) (size : BitVec 2) (pop push : BitVec 3) (s : State) : Out :=
  startBeats s pop push fun c => newBeat c opArst dstq aa 0 step (rpt.toNat + 1) (beatSize size)

/-- The index specification in step16 (R201). -/
def indexSpec (src : Bool) (idx : BitVec 5) (it : BitVec 2) (shift : BitVec 4) : BitVec 16 :=
  BitVec.ofNat 16 ((if src then 2 ^ 15 else 0) + idx.toNat * 2 ^ 10 + it.toNat * 2 ^ 8 + shift.toNat * 2 ^ 4)

/-- AGTH: a gather by indices from a store queue or from memory (R201). -/
def execAgth (dstq : BitVec 4) (aa : BitVec 5) (src : Bool) (idx : BitVec 5) (it : BitVec 2) (shift : BitVec 4) (rpt : BitVec 7) (size : BitVec 2) (pop push : BitVec 3) (s : State) : Out :=
  startBeats s pop push fun c => newBeat c opAgth dstq aa idx (indexSpec src idx it shift) (rpt.toNat + 1) (beatSize size)

/-- ASCT: a scatter by indices (R201). -/
def execAsct (dstq : BitVec 4) (aa : BitVec 5) (src : Bool) (idx : BitVec 5) (it : BitVec 2) (shift : BitVec 4) (rpt : BitVec 7) (size : BitVec 2) (pop push : BitVec 3) (s : State) : Out :=
  startBeats s pop push fun c => newBeat c opAsct dstq aa idx (indexSpec src idx it shift) (rpt.toNat + 1) (beatSize size)

/-- APART: the indices of n = B × S ÷ w keys sorted into two lists, their lengths into a(c) and a(c + 16) (R203). -/
def execApart (q : BitVec 4) (aa : BitVec 5) (keyq : BitVec 4) (kt : BitVec 2) (rpt : BitVec 7) (size : BitVec 2) (pop push : BitVec 3) (s : State) : Out :=
  startBeats s pop push fun c =>
    newBeat c opApart q aa 0 (indexSpec false (keyq.setWidth 5) kt 0) ((rpt.toNat + 1) * beatSize size / keyBytes kt.toNat) (beatSize size)

/-! ### Address arithmetic (R205, R206) -/

/-- A word of the address ALU (R205). -/
def addrAlu (ad aa ab : BitVec 5) (s : State) (f : Word → Word → Word) : Out :=
  runOn .a s fun c _ => .done (s.put (c.setAreg ad (f (c.areg aa) (c.areg ab))))

/-- AADD: ad := A + B (R205). -/
def execAadd (ad aa ab : BitVec 5) (s : State) : Out := addrAlu ad aa ab s fun A B => A + B

/-- ASUB: ad := A − B (R205). -/
def execAsub (ad aa ab : BitVec 5) (s : State) : Out := addrAlu ad aa ab s fun A B => A - B

/-- AAND: ad := A AND B (R205). -/
def execAand (ad aa ab : BitVec 5) (s : State) : Out := addrAlu ad aa ab s fun A B => A &&& B

/-- AOR: ad := A OR B (R205). -/
def execAor (ad aa ab : BitVec 5) (s : State) : Out := addrAlu ad aa ab s fun A B => A ||| B

/-- AXOR: ad := A XOR B (R205). -/
def execAxor (ad aa ab : BitVec 5) (s : State) : Out := addrAlu ad aa ab s fun A B => A ^^^ B

/-- ASHL: ad := A × 2^B[5:0] (R205). -/
def execAshl (ad aa ab : BitVec 5) (s : State) : Out := addrAlu ad aa ab s fun A B => A <<< (B.toNat % 64)

/-- ASHR: ad := A shifted right by B[5:0], zeros entering (R205). -/
def execAshr (ad aa ab : BitVec 5) (s : State) : Out := addrAlu ad aa ab s fun A B => A >>> (B.toNat % 64)

/-- AMUL: ad := A × B (R205). -/
def execAmul (ad aa ab : BitVec 5) (s : State) : Out := addrAlu ad aa ab s fun A B => A * B

/-- AMAX: ad := the larger, unsigned (R205). -/
def execAmax (ad aa ab : BitVec 5) (s : State) : Out := addrAlu ad aa ab s fun A B => if A.toNat ≤ B.toNat then B else A

/-- AADDI: ad := aa + sext(imm19) (R206). -/
def execAaddi (ad aa : BitVec 5) (imm : BitVec 19) (s : State) : Out := addrAlu ad aa 0 s fun A _ => A + imm.signExtend 64

/-- ALI: ad := sext(imm19) (R206). -/
def execAli (ad : BitVec 5) (imm : BitVec 19) (s : State) : Out := addrAlu ad 0 0 s fun _ _ => imm.signExtend 64

/-! ### Flush and multicast (R207, R208) -/

/-- AFLUSH: a partly placed entry is zero-filled and pushed, a partly taken one discarded. It is ordered behind the earlier placements on the queue, which the stream does not wait for: it joins the flight behind them (R207, R209). -/
def execAflush (q : BitVec 4) (s : State) : Out :=
  runOn .a s fun c sh =>
    let n := s.curCore
    let k := q.toNat
    let f : Access := { beatAccess s c .load (beatReq 0 0 false) (.pad n 0) 255 with fn := 16 + k, value := some 0 }
    if 8 ≤ k ∨ f.mayGo c.as.flight ∨ ((c.queue k).off = 0 ∧ !c.as.flight.any fun g => g.fills k) then
      (c.flushQueue sh.hwm k).orElse s fun c' =>
        .done (if 8 ≤ k ∨ (c.queue k).off = 0 then s.put c' else (s.put c').syncPoint n)
    else .done (s.updCore n fun c => { c with as := { c.as with flight := c.as.flight ++ [f] } })

/-- The checks of AMCAST, in order (R208). -/
def mcastCheck (s : State) (sh : Shard) (t ab : Word) (grp e : Nat) : Option (BitVec 8 × Word) :=
  match aperture t.toNat with
  | some (1, o) =>
    let named := (List.range 12).filter fun i => ab.getLsbD i
    if o % 64 ≠ 0 then some (11, t)
    else if 0x40000 < o + e then some (13, t)
    else if ab.toNat / 4096 ≠ 0 then some (13, ab)
    else if named.any fun i => !s.runsCtx (clusterBase s.curCore + 12 * grp + i) sh.ctx then some (13, ab)
    else if sh.pure && named.any fun i => clusterBase s.curCore + 12 * grp + i != s.curCore then some (10, ab)
    else none
  | _ => some (13, t)

/-- The 64-byte stores of one AMCAST: each target core, each granule, named by its address in the local aperture. DESIGN CHOICE: the word names the local aperture (R208) and its writes are cluster-aperture stores (R83); CR.TVAL of a race on one (R107) is the local address, whichever core's word conflicts (notes/assumptions/46.md). -/
def State.mcastStores (s : State) (sh : Shard) : List (Nat × Nat × List Byte) → State
  | [] => s
  | (k, o, bs) :: rest =>
    let n := s.curCore
    ((match s.core? n with
      | none => s
      | some c => s.storeA n c sh (beatReq (0xFF00000000000000 + BitVec.ofNat 64 o) 64 true) (.pad k o) bs)).mcastStores sh rest

/-- AMCAST: one entry of a store queue written at an offset of named cores of an array group (R208); the writes are data accesses of the A-stream. -/
def execAmcast (q : BitVec 4) (aa ab : BitVec 5) (grp : BitVec 3) (imm : BitVec 19) (s : State) : Out :=
  runOn .a s fun c sh =>
    let n := s.curCore
    let e := c.entryBytes q.toNat
    let t := c.areg aa + imm.signExtend 64
    let mask := c.areg ab
    match mcastCheck s sh t mask grp.toNat e with
    | some (code, tval) => .trap code tval
    | none =>
      let o := t.toNat - 0xFF00000000000000
      let cores := ((List.range 12).filter fun i => mask.getLsbD i).map fun i => clusterBase n + 12 * grp.toNat + i
      match (if cores.contains n && c.storesNow n (.pad n o) then s.raceAt (sh.popped (c.pops q.toNat e)) (.pad n o) e true true false else none) with
      | some d => .trap 8 (raceTval t d)
      | none =>
        taking s s c sh q.toNat 18 e fun s _ bs =>
          .done (s.mcastStores sh ((if cores.contains n then [n] else []) ++ (cores.filter fun k => k ≠ n)
            |>.flatMap fun k => (List.range (e / 64)).map fun g => (k, o + 64 * g, slice bs (64 * g) 64)))

end Sys2Proof.Machine
end

