-- ==== Sys2Proof/Machine/VecOps.lean ====
section
/-! DEFINITION. The course of a V-stream word (R211 to R214): its operand checks, reads, effect, writes and flags, one repeat at a time (R134, R135); and the lane arithmetic that the words share (R216 to R226). -/

namespace Sys2Proof.Machine

/-! ### Operands of a word (R212) -/

/-- The class of an operand of a V-stream word. -/
inductive Opn where
  | v
  | vn
  | w
  | wn
  | t
  /-- A control field: a value, not a specifier. -/
  | c
  /-- Unused: must be 0x000. -/
  | none
deriving DecidableEq, Repr

/-- The operand class, and whether it admits names only. -/
def Opn.cls? : Opn → Option (Cls × Bool)
  | .v => some (.v, false)
  | .vn => some (.v, true)
  | .w => some (.w, false)
  | .wn => some (.w, true)
  | .t => some (.t, false)
  | _ => Option.none

/-- What a V-stream word asks of its operands. -/
structure VSpec where
  self : Instr
  d : BitVec 12
  a : BitVec 12
  b : BitVec 12
  m : Bool
  x : BitVec 3
  dk : Opn
  ak : Opn
  bk : Opn
  /-- The word reads d, at a vector type, when d is a name. -/
  readD : Nat → Bool
  /-- The allowed vector types (check 1 of R213). -/
  types : Nat → Bool
  /-- The control values fit, at a vector type (check 2 of R213). -/
  control : Nat → Bool
  /-- The operands make the repeat an illegal encoding, with CR.TVAL the b field (R228). -/
  late : Nat → List (BitVec 512) → Bool

/-- Repeats of a word (R134). -/
def VSpec.reps (v : VSpec) : Nat := if v.m then v.x.toNat + 1 else 1

/-- Check 9 of R151 for one operand. DESIGN CHOICE: a non-zero operand that the word leaves unused fails here, as R132 lists it, and not as a reserved field at check 6 (notes/assumptions/46.md). -/
def Core.badOperand (c : Core) (hwm reps : Nat) (o : Opn) (dest : Bool) (d : BitVec 12) : Bool :=
  match o with
  | .c => false
  | .none => d != 0
  | o => match o.cls? with
    | some (cls, nameOnly) => c.badSpec hwm reps { cls := cls, nameOnly := nameOnly, dest := dest } d
    | Option.none => false

/-- The first operand that fails check 9, in the order d, a, b. -/
def Core.badOperands (c : Core) (hwm : Nat) (v : VSpec) : Option (BitVec 12) :=
  if c.badOperand hwm v.reps v.dk true v.d then some v.d
  else if c.badOperand hwm v.reps v.ak false v.a then some v.a
  else if c.badOperand hwm v.reps v.bk false v.b then some v.b
  else Option.none

/-- Check 3 of R213: a queue operand's entry size matches its class. -/
def Core.badEntry (c : Core) (o : Opn) (d : BitVec 12) : Bool :=
  match o.cls? with
  | some (cls, _) => isQueue d && (c.queue (specNum d)).size != cls.granules
  | Option.none => false

/-- Two names overlap in part (R214). -/
def Core.partly (c : Core) (o p : Opn) (d e : BitVec 12) : Bool :=
  match o.cls?, p.cls? with
  | some (x, _), some (y, _) =>
    let g := c.nameGranule x (specNum d)
    let h := c.nameGranule y (specNum e)
    !isQueue d && !isQueue e && decide (g < h + y.granules) && decide (h < g + x.granules) && !(g == h && x == y)
  | _, _ => false

/-- Check 4 of R213: some repeat has a partial overlap of its destination with a source. -/
def Core.overlaps (c : Core) (v : VSpec) : Bool :=
  (List.range v.reps).any fun j =>
    c.partly v.dk v.ak (stepSpec v.d j) (stepSpec v.a j) || c.partly v.dk v.bk (stepSpec v.d j) (stepSpec v.b j)

/-- Checks 9 of R151 and 1 to 4 of R213: the trap, if one fails. DESIGN CHOICE: of several queue operands that fail check 3, CR.TVAL names the first in the order d, a, b, which R213 does not give (notes/assumptions/46.md). -/
def Core.vcheck (c : Core) (hwm : Nat) (v : VSpec) : Option (BitVec 8 × Word) :=
  match c.badOperands hwm v with
  | some d => some (1, d.setWidth 64)
  | Option.none =>
    let t := c.vtype.toNat
    if ¬v.types t ∨ ¬v.control t then some (1, v.self.tval)
    else if c.badEntry v.dk v.d then some (1, v.d.setWidth 64)
    else if c.badEntry v.ak v.a then some (1, v.a.setWidth 64)
    else if c.badEntry v.bk v.b then some (1, v.b.setWidth 64)
    else if c.overlaps v then some (3, v.d.setWidth 64)
    else Option.none

/-! ### The numeric environment of a word -/

/-- The vector type, rounding mode and FTZ in force, the shard's key and counters for random bits, and the word's count n (R122, R211). -/
structure VEnv where
  t : Nat
  mode : Nat
  ftz : Bool
  seed : Word
  taskId : Word
  shard : Nat
  count : Nat

/-- The random word of a lane under rounding mode sr (R122, second row). -/
def VEnv.random (e : VEnv) (lane : Nat) : Nat :=
  (philox (bits e.seed.toNat 0 32) (bits e.seed.toNat 32 32) (64 * (e.count % 2 ^ 26) + lane) (e.shard % 2 ^ 32)
    (bits e.taskId.toNat 0 32) (bits e.taskId.toNat 32 32)).1

/-- Round a value to a type in the mode in force (R112). -/
def VEnv.round (e : VEnv) (t lane : Nat) (v : Val) : Nat × Word :=
  roundTo t e.mode (if e.mode = 5 then e.random lane else 0) e.ftz v

/-- An operand of a floating type (R116). -/
def VEnv.val (e : VEnv) (t b : Nat) : Val := operand e.ftz t b

/-- Width of the vector type. -/
def VEnv.w (e : VEnv) : Nat := typeWidth e.t

/-- Lanes at a width of `w` bits. -/
def lanesOf (w : Nat) : Nat := 512 / w

/-! ### Executing a repeat -/

/-- Read a source operand at repeat j, or nothing for an unused operand or a control field. -/
def Core.vread (c : Core) (hwm : Nat) (o : Opn) (d : BitVec 12) : RegRead (List (BitVec 512) × Core) :=
  match o.cls? with
  | some (cls, _) => c.source hwm cls d
  | Option.none => .ok ([], c)

/-- The environment of a word of a shard. -/
def Core.venv (c : Core) (sh : Shard) : VEnv :=
  { t := c.vtype.toNat, mode := c.rnd.toNat, ftz := c.ftz, seed := sh.seed, taskId := sh.taskId, shard := sh.num, count := c.vs.instret.toNat }

/-- A repeat has executed: the next one follows, without a second fetch or check, or the word completes (R134, R135). -/
def VSpec.advance (v : VSpec) (s : State) : Res :=
  match s.core? s.curCore with
  | Option.none => .whole s
  | some c =>
    if c.vs.rep + 1 < v.reps then
      .whole (s.put { c with vrun := some c.ir, vs := { c.vs with rep := c.vs.rep + 1, instret := c.vs.instret + 1, wait := .none } })
    else .done (s.put { c with vrun := Option.none, vs := { c.vs with rep := 0 } })

/-- The checks before a word's first repeat, which the later repeats do not make again (R134). -/
def Core.vcheckOnce (c : Core) (hwm : Nat) (v : VSpec) : Option (BitVec 8 × Word) := if c.vrun.isSome then Option.none else c.vcheck hwm v

/-- The word pops or pushes a queue, which synchronises (R90). -/
def VSpec.syncs (v : VSpec) : Bool :=
  (v.dk.cls?.isSome && isQueue v.d) || (v.ak.cls?.isSome && isQueue v.a) || (v.bk.cls?.isSome && isQueue v.b)

/-- A V-stream word: the checks, then one repeat of its effect on the granules of a, b and d, with the flags it raises (R134, R135, R211 to R214). -/
def vword (s : State) (v : VSpec)
    (f : VEnv → List (BitVec 512) → List (BitVec 512) → List (BitVec 512) → List (BitVec 512) × Word) : Out :=
  runOn .v s fun c sh =>
    match c.vcheckOnce sh.hwm v with
    | some (code, tval) => .trap code tval
    | Option.none =>
      if v.m = false ∧ ¬c.vs.p v.x.toNat then .done s
      else
        let e := c.venv sh
        let j := c.vs.rep
        let d := stepSpec v.d j
        (c.vread sh.hwm v.ak (stepSpec v.a j)).orElse s fun ra =>
        (ra.2.vread sh.hwm v.bk (stepSpec v.b j)).orElse s fun rb =>
        (if v.readD e.t && !isQueue v.d then rb.2.vread sh.hwm v.dk d else .ok ([], rb.2)).orElse s fun rd =>
          if v.late e.t rb.1 then .trap 1 (v.b.setWidth 64)
          else
            let (out, flags) := f e ra.1 rb.1 rd.1
            match v.dk.cls? with
            | Option.none => v.advance s
            | some (cls, _) =>
              (rd.2.dest sh.hwm cls d out).orElse s fun c' =>
                let s' := s.put { c' with fflags := c'.fflags ||| flags }
                v.advance (if v.syncs then s'.syncPoint s.curCore else s')

/-- A word with three specifier operands. -/
def vspec (self : Instr) (d a b : BitVec 12) (m : Bool) (x : BitVec 3) (dk ak bk : Opn) (types : Nat → Bool) : VSpec :=
  { self := self, d := d, a := a, b := b, m := m, x := x, dk := dk, ak := ak, bk := bk, readD := fun _ => false,
    types := types, control := fun _ => true, late := fun _ _ => false }

/-! ### Type sets (R211) -/

/-- Set I. -/
def setI (t : Nat) : Bool := isInt t
/-- Set I32. -/
def setI32 (t : Nat) : Bool := isInt t && decide (typeWidth t ≤ 32)
/-- Set F. -/
def setF (t : Nat) : Bool := isFloat t
/-- Any type. -/
def setAny (_ : Nat) : Bool := true

/-! ### Lane-wise words -/

/-- Pack lanes of `w` bits into granules. -/
def pack (w : Nat) (xs : List Nat) (granules : Nat) : List (BitVec 512) :=
  (List.range granules).map fun k => ofElems w ((xs.drop (k * lanesOf w)).take (lanesOf w))

/-- The OR of the flags of lanes. -/
def flagsOf (xs : List (Nat × Word)) : Word := xs.foldl (fun f x => f ||| x.2) 0

/-- Results per lane, as one granule of the vector type's width. -/
def VEnv.out (e : VEnv) (xs : List (Nat × Word)) : List (BitVec 512) × Word := (pack e.w (xs.map Prod.fst) 1, flagsOf xs)

/-- Lane numbers with the lanes of two granules. -/
def VEnv.lanes2 (e : VEnv) (a b : List (BitVec 512)) : List (Nat × Nat × Nat) :=
  (List.range (lanesOf e.w)).map fun i => (i, elem e.w (a.headD 0) i, elem e.w (b.headD 0) i)

/-- A binary lane-wise word d, a, b of class V (R216, R217). -/
def vbin (self : Instr) (d a b : BitVec 12) (m : Bool) (x : BitVec 3) (types : Nat → Bool) (s : State)
    (f : VEnv → Nat → Nat → Nat → Nat × Word) : Out :=
  vword s (vspec self d a b m x .v .v .v types) fun e ga gb _ => e.out ((e.lanes2 ga gb).map fun l => f e l.1 l.2.1 l.2.2)

/-- A unary lane-wise word d, a of class V. -/
def vun (self : Instr) (d a b : BitVec 12) (m : Bool) (x : BitVec 3) (types : Nat → Bool) (s : State)
    (f : VEnv → Nat → Nat → Nat × Word) : Out :=
  vword s (vspec self d a b m x .v .v .none types) fun e ga _ _ => e.out ((e.lanes2 ga ga).map fun l => f e l.1 l.2.1)

/-- A word that reads d after a and b: d of class Vn, a and b of class V (R217, R221). -/
def vtri (self : Instr) (d a b : BitVec 12) (m : Bool) (x : BitVec 3) (types : Nat → Bool) (s : State)
    (f : VEnv → Nat → Nat → Nat → Nat → Nat × Word) : Out :=
  vword s { vspec self d a b m x .vn .v .v types with readD := fun _ => true } fun e ga gb gd =>
    e.out ((e.lanes2 ga gb).map fun l => f e l.1 l.2.1 l.2.2 (elem e.w (gd.headD 0) l.1))

/-- All ones or zero. -/
def maskLane (w : Nat) (b : Bool) : Nat × Word := (if b then 2 ^ w - 1 else 0, 0)

/-! ### Minimum and maximum of floating lanes (R221) -/

/-- The bits of an operand after FTZ. -/
def flushed (ftz : Bool) (t b : Nat) : Nat := if ftz && isSubnormal t b then signBit t (bitAt b (typeWidth t - 1)) else b

/-- VFMIN: the smaller operand's bits, −0 below +0, a NaN yielding the other. -/
def fmin (ftz : Bool) (t a b : Nat) : Nat :=
  let x := operand ftz t a
  let y := operand ftz t b
  if x.isNan then (if y.isNan then nanBits t else flushed ftz t b)
  else if y.isNan then flushed ftz t a
  else if x.lt y then flushed ftz t a
  else if y.lt x then flushed ftz t b
  else if x.neg then flushed ftz t a else flushed ftz t b

/-- VFMAX: the larger operand's bits, under the same rules. -/
def fmax (ftz : Bool) (t a b : Nat) : Nat :=
  let x := operand ftz t a
  let y := operand ftz t b
  if x.isNan then (if y.isNan then nanBits t else flushed ftz t b)
  else if y.isNan then flushed ftz t a
  else if y.lt x then flushed ftz t a
  else if x.lt y then flushed ftz t b
  else if x.neg then flushed ftz t b else flushed ftz t a

/-! ### Approximations (R223 to R226) -/

/-- The largest y of `k` bits above `acc` that a downward-closed test accepts, found bit by bit from the top. -/
def searchBits (ok : Nat → Bool) : Nat → Nat → Nat
  | 0, acc => acc
  | k + 1, acc => searchBits ok k (if ok (acc + 2 ^ k) then acc + 2 ^ k else acc)

/-- C0(i) of VRCPA: floor(2^30 ÷ (64 + i) + 1/2). -/
def rcpTable (i : Nat) : Nat := (2 ^ 31 + (64 + i)) / (2 * (64 + i))

/-- C0(i) of VRSQA: floor(2^24 ÷ sqrt(u) + 1/2), the largest y with (2y − 1)^2 × u ≤ 2^50. -/
def rsqTable (i : Nat) : Nat :=
  let (num, den) := if i ≤ 32 then (32 + i, 32) else (32 + (i - 32), 16)
  searchBits (fun y => decide ((2 * y - 1) ^ 2 * num ≤ 2 ^ 50 * den)) 25 0

/-- C0(i) of VEXP2A: floor(2^23 × 2^(i ÷ 64) + 1/2), the largest y with (2y − 1)^64 ≤ 2^(24 × 64 + i). -/
def exp2Table (i : Nat) : Nat := searchBits (fun y => decide ((2 * y - 1) ^ 64 ≤ 2 ^ (1536 + i))) 25 0

/-- C0(i) of VLOG2A: floor(2^24 × log2(1 + i ÷ 64) + 1/2), entries 0 to 15. -/
def log2TableA : List Nat := [0, 375270, 744810, 1108793, 1467383, 1820738, 2169009, 2512340, 2850868, 3184728, 3514044, 3838941, 4159533, 4475935, 4788255, 5096595]

/-- Entries 16 to 31. -/
def log2TableB : List Nat := [5401057, 5701737, 5998727, 6292118, 6581994, 6868440, 7151536, 7431359, 7707984, 7981483, 8251926, 8519380, 8783912, 9045584, 9304457, 9560591]

/-- Entries 32 to 47. -/
def log2TableC : List Nat := [9814042, 10064867, 10313120, 10558852, 10802114, 11042956, 11281425, 11517568, 11751428, 11983051, 12212479, 12439752, 12664911, 12887994, 13109041, 13328087]

/-- Entries 48 to 64. -/
def log2TableD : List Nat := [13545168, 13760320, 13973576, 14184969, 14394532, 14602297, 14808293, 15012551, 15215099, 15415967, 15615181, 15812769, 16008758, 16203172, 16396036, 16587377, 16777216]

/-- C0(i) of VLOG2A. -/
def log2Table (i : Nat) : Nat := (log2TableA ++ log2TableB ++ log2TableC ++ log2TableD).getD i 0

/-- A finite non-zero magnitude as (1 + f ÷ 2^23) × 2^e: e and f. -/
def normal (num den : Nat) : Int × Nat :=
  let e := log2Floor num den
  (e, (scaled num den (e - 23)).1 - 2 ^ 23)

/-- The value VRCPA defines, and its flags (R224). -/
def rcpValue : Val → Val × Word
  | .nan => (.nan, 0)
  | .inf n => (.fin n 0 1, 0)
  | .fin n a b =>
    if a = 0 then (.inf n, flagDZ)
    else
      let (e, f) := normal a b
      let i := bits f 17 6
      let y := rcpTable i - (rcpTable i - rcpTable (i + 1)) * bits f 0 17 / 2 ^ 17
      (dyadic n y (-24 - e), 0)

/-- The value VRSQA defines, and its flags (R225). -/
def rsqValue : Val → Val × Word
  | .nan => (.nan, 0)
  | .inf n => if n then (.nan, flagNV) else (.fin false 0 1, 0)
  | .fin n a b =>
    if a = 0 then (.inf n, flagDZ)
    else if n then (.nan, flagNV)
    else
      let (e, f) := normal a b
      let q := (e % 2).toNat
      let h := (e - q) / 2
      let i := 32 * q + bits f 18 5
      let y := rsqTable i - (rsqTable i - rsqTable (i + 1)) * bits f 0 18 / 2 ^ 18
      (dyadic false y (-24 - h), 0)

/-- An exponent kept within ±2,000, far beyond every type's range: what rounds from it overflows or underflows all the same. -/
def nearExp (k : Int) : Int := max (-2000) (min 2000 k)

/-- The value VEXP2A defines (R226). -/
def exp2Value : Val → Val
  | .nan => .nan
  | .inf n => if n then .fin false 0 1 else .inf false
  | .fin neg a b =>
    let x := signedNum neg a
    let n := x / (b : Int)
    let z := ((x - n * b) * 2 ^ 24 / (b : Int)).toNat
    let i := bits z 18 6
    let y := exp2Table i + (exp2Table (i + 1) - exp2Table i) * bits z 0 18 / 2 ^ 18
    dyadic false y (nearExp n - 23)

/-- The value VLOG2A defines, and its flags (R226). -/
def log2Value : Val → Val × Word
  | .nan => (.nan, 0)
  | .inf n => if n then (.nan, flagNV) else (.inf false, 0)
  | .fin n a b =>
    if a = 0 then (.inf true, flagDZ)
    else if n then (.nan, flagNV)
    else
      let (e, f) := normal a b
      let i := bits f 17 6
      let l := log2Table i + (log2Table (i + 1) - log2Table i) * bits f 0 17 / 2 ^ 17
      let x : Int := e * 2 ^ 24 + (l : Nat)
      (.fin (decide (x < 0)) x.natAbs (2 ^ 24), 0)

end Sys2Proof.Machine
end

