-- ==== Sys2Proof/Machine/VecMove.lean ====
section
/-! DEFINITION. The V-stream's conversions, quantisation, MX blocks, reductions, lane movement and random bits (R227 to R234). -/

namespace Sys2Proof.Machine

/-! ### Conversions (R227, R228) -/

/-- Convert one element between two types (R115, R227). -/
def convert (e : VEnv) (src dst lane b : Nat) : Nat × Word :=
  let u := if e.mode = 5 then e.random lane else 0
  if isInt src then
    if isInt dst then
      let r := clampInt (intMin dst) (intMax dst) (intOf src b)
      (ofInt dst r.1, if r.2 then flagSATF else 0)
    else roundTo dst e.mode u e.ftz (valOfInt (intOf src b))
  else if isInt dst then toIntType dst e.mode u (e.val src b)
  else roundTo dst e.mode u e.ftz (e.val src b)

/-- Ratio of the wider width to the narrower. -/
def ratio (src dst : Nat) : Nat := max (typeWidth src) (typeWidth dst) / min (typeWidth src) (typeWidth dst)

/-- Put `xs`, elements of `w` bits, into a granule from element `lo`, keeping its other elements. -/
def intoSlice (w lo : Nat) (old : BitVec 512) (xs : List Nat) : BitVec 512 :=
  ofElems w ((List.range (512 / w)).map fun i => if lo ≤ i ∧ i < lo + xs.length then xs.getD (i - lo) 0 else elem w old i)

/-- VCVT (R227). -/
def execVcvt (d a : BitVec 12) (p : BitVec 3) (src : BitVec 4) (m : Bool) (x : BitVec 3) (s : State) : Out :=
  let S := src.toNat
  vword s { vspec (.vcvt d a p src m x) d a 0 m x .v .v .c (fun t => t != 13 && S != 13) with
      readD := fun t => decide (typeWidth t < typeWidth S)
      control := fun t => decide (p.toNat < ratio S t) }
    fun e ga _ gd =>
      let n := 512 / max (typeWidth S) e.w
      let lo := if typeWidth S < e.w then n * p.toNat else 0
      let ys := (List.range n).map fun i => convert e S e.t i (elem (typeWidth S) (ga.headD 0) (lo + i))
      let at_ := if e.w < typeWidth S then n * p.toNat else 0
      ([intoSlice e.w at_ (gd.headD 0) (ys.map Prod.fst)], flagsOf ys)

/-- Bytes 0 to 15 of a counter operand: version, base index, site and part (R228, R234). -/
def counterOf (g : List (BitVec 512)) : Nat × Nat × Nat × Nat :=
  let n := (g.headD 0).toNat
  (bits n 0 32, bits n 32 32, bits n 64 2, bits n 68 3)

/-- VCVTSR: 16 .f32 lanes rounded stochastically (R228). -/
def execVcvtsr (d a b : BitVec 12) (m : Bool) (x : BitVec 3) (s : State) : Out :=
  vword s { vspec (.vcvtsr d a b m x) d a b m x .v .v .v (fun t => t == 8 || t == 9 || t == 11 || t == 12) with
      readD := fun _ => true
      late := fun t gb => decide (32 / typeWidth t ≤ (counterOf gb).2.2.2) }
    fun e ga gb gd =>
      let (version, base, site, p) := counterOf gb
      let ys := (List.range 16).map fun i =>
        roundTo e.t 5 (drawWord e.seed e.taskId version (base + i) site) e.ftz (e.val 10 (elem 32 (ga.headD 0) i))
      ([intoSlice e.w (16 * p) (gd.headD 0) (ys.map Prod.fst)], flagsOf ys)

/-! ### Quantisation and MX blocks (R229, R230) -/

/-- The types of R118. -/
def setQ (t : Nat) : Bool := t == 14 || t == 15 || t == 0 || t == 1

/-- The types of R119. -/
def setMx (t : Nat) : Bool := t == 11 || t == 12

/-- The FP16 scale of VQNT as it is written: under FTZ a subnormal one is zero, with UF and NX (R116). DESIGN CHOICE: the zero point and the elements are computed with the scale that R118 rounds, before it is written (notes/assumptions/46.md). -/
def VEnv.scale (e : VEnv) (sc : Nat) : Nat × Word := if e.ftz && isSubnormal 8 sc then (0, flagUF ||| flagNX) else (sc, 0)

/-- VQNT: one group of 32 quantised into the group layout (R118, R229). -/
def execVqnt (d a b : BitVec 12) (m : Bool) (x : BitVec 3) (s : State) : Out :=
  vword s (vspec (.vqnt d a b m x) d a b m x .v .w .none setQ) fun e ga _ _ =>
    let (sc, zp, qs, fl) := quantise e.t ((elems 32 ga).map (e.val 10))
    ([granuleOf (padTo (packElems e.w qs) 56 ++ toBytes 2 (e.scale sc).1 ++ toBytes 1 zp)], fl ||| (e.scale sc).2)

/-- VDQNT: the group layout decoded, s × (q − zp) (R229). -/
def execVdqnt (d a b : BitVec 12) (m : Bool) (x : BitVec 3) (s : State) : Out :=
  vword s (vspec (.vdqnt d a b m x) d a b m x .w .v .none setQ) fun e ga _ _ =>
    let g := ga.headD 0
    let sc := e.val 8 (elem 16 g 28)
    let zp := intOf e.t (elem 8 g 58 % 2 ^ e.w)
    let ys := (List.range 32).map fun i =>
      let v := sc.mul (valOfInt (intOf e.t (elem e.w g i) - zp))
      let r := e.round 10 i v.1
      (r.1, v.2 ||| r.2)
    (pack 32 (ys.map Prod.fst) 2, flagsOf ys)

/-- VMXQ: one block of 32 encoded into the block layout (R120, R230). -/
def execVmxq (d a b : BitVec 12) (m : Bool) (x : BitVec 3) (s : State) : Out :=
  vword s (vspec (.vmxq d a b m x) d a b m x .v .w .none setMx) fun e ga _ _ =>
    let (sc, qs, fl) := mxEncode e.t e.ftz ((elems 32 ga).map (e.val 10))
    ([granuleOf (packElems 8 qs ++ toBytes 1 sc)], fl)

/-- The value of an MX element under its scale (R119). -/
def mxValue (v : Val) (sc : Nat) : Val := if sc = 0xFF then .nan else (v.mul (valOf 13 sc)).1

/-- VMXD: one block decoded (R119, R230). -/
def execVmxd (d a b : BitVec 12) (m : Bool) (x : BitVec 3) (s : State) : Out :=
  vword s (vspec (.vmxd d a b m x) d a b m x .w .v .none setMx) fun e ga _ _ =>
    let g := ga.headD 0
    let ys := (List.range 32).map fun i => e.round 10 i (mxValue (e.val e.t (elem 8 g i)) (elem 8 g 32))
    (pack 32 (ys.map Prod.fst) 2, flagsOf ys)

/-! ### Reductions (R231) -/

/-- Lane 0 holds the result, every other lane zero. -/
def VEnv.lane0 (e : VEnv) (r : Nat × Word) : List (BitVec 512) × Word := (pack e.w [r.1] 1, r.2)

/-- One level of the pairwise tree: addition j of level ℓ draws with lane (2j + 1) × 2^(ℓ − 1) (R121, R231). -/
def treeLevel (e : VEnv) (level : Nat) : Nat → List Nat → List (Nat × Word)
  | j, x :: y :: r =>
    let sm := (e.val e.t x).add e.mode (e.val e.t y)
    let q := e.round e.t ((2 * j + 1) * 2 ^ (level - 1)) sm.1
    (q.1, sm.2 ||| q.2) :: treeLevel e level (j + 1) r
  | _, _ => []

/-- The pairwise tree over the lanes, level by level. -/
def treeSum (e : VEnv) : Nat → Nat → List Nat → Word → Nat × Word
  | 0, _, xs, fl => (xs.headD 0, fl)
  | fuel + 1, level, xs, fl =>
    if xs.length ≤ 1 then (xs.headD 0, fl)
    else
      let ys := treeLevel e level 0 xs
      treeSum e fuel (level + 1) (ys.map Prod.fst) (fl ||| flagsOf ys)

/-- A reduction word d, a over integer or floating lanes. -/
def vred (self : Instr) (d a b : BitVec 12) (m : Bool) (x : BitVec 3) (s : State) (f : VEnv → List Nat → Nat × Word) : Out :=
  vword s (vspec self d a b m x .v .v .none fun t => setI t || setF t) fun e ga _ _ => e.lane0 (f e (elems e.w (ga.take 1)))

/-- VRSUM: the sum modulo 2^w, or the pairwise tree (R231). -/
def execVrsum (d a b : BitVec 12) (m : Bool) (x : BitVec 3) (s : State) : Out :=
  vred (.vrsum d a b m x) d a b m x s fun e xs =>
    if isInt e.t then (xs.foldl (· + ·) 0 % 2 ^ e.w, 0) else treeSum e 8 1 xs 0

/-- VRMAX: the largest lane (R231). -/
def execVrmax (d a b : BitVec 12) (m : Bool) (x : BitVec 3) (s : State) : Out :=
  vred (.vrmax d a b m x) d a b m x s fun e xs =>
    let pick (A B : Nat) : Nat :=
      if isInt e.t then (if intOf e.t A ≤ intOf e.t B then B else A) else fmax e.ftz e.t A B
    (xs.tail.foldl pick (pick (xs.headD 0) (xs.headD 0)), 0)

/-- VRMIN: the smallest lane (R231). -/
def execVrmin (d a b : BitVec 12) (m : Bool) (x : BitVec 3) (s : State) : Out :=
  vred (.vrmin d a b m x) d a b m x s fun e xs =>
    let pick (A B : Nat) : Nat :=
      if isInt e.t then (if intOf e.t A ≤ intOf e.t B then A else B) else fmin e.ftz e.t A B
    (xs.tail.foldl pick (pick (xs.headD 0) (xs.headD 0)), 0)

/-! ### Lane movement (R232, R233) -/

/-- The lanes of the first granule at the vector type's width. -/
def VEnv.lanes (e : VEnv) (g : List (BitVec 512)) : List Nat := (List.range (lanesOf e.w)).map (elem e.w (g.headD 0))

/-- VPERM: d_i := a_j with j = b_i mod n (R232). -/
def execVperm (d a b : BitVec 12) (m : Bool) (x : BitVec 3) (s : State) : Out :=
  vword s (vspec (.vperm d a b m x) d a b m x .v .v .v setAny) fun e ga gb _ =>
    (pack e.w ((e.lanes gb).map fun j => elem e.w (ga.headD 0) (j % lanesOf e.w)) 1, 0)

/-- VSLIDE: d_i := a_(i+k), zero from beyond either end (R232). -/
def execVslide (d a : BitVec 12) (amt : BitVec 8) (m : Bool) (x : BitVec 3) (s : State) : Out :=
  vword s (vspec (.vslide d a amt m x) d a 0 m x .v .v .c setAny) fun e ga _ _ =>
    (pack e.w ((List.range (lanesOf e.w)).map fun i =>
      let j : Int := i + amt.toInt
      if 0 ≤ j ∧ j < lanesOf e.w then elem e.w (ga.headD 0) j.toNat else 0) 1, 0)

/-- A word whose control field is a lane index (R232). -/
def laneSpec (self : Instr) (d a : BitVec 12) (lane : BitVec 7) (m : Bool) (x : BitVec 3) (dk : Opn) : VSpec :=
  { vspec self d a 0 m x dk .v .c setAny with control := fun t => decide (lane.toNat < lanesOf (typeWidth t)) }

/-- VBCAST: every lane takes a_l (R232). -/
def execVbcast (d a : BitVec 12) (lane : BitVec 7) (m : Bool) (x : BitVec 3) (s : State) : Out :=
  vword s (laneSpec (.vbcast d a lane m x) d a lane m x .v) fun e ga _ _ =>
    (pack e.w ((List.range (lanesOf e.w)).map fun _ => elem e.w (ga.headD 0) lane.toNat) 1, 0)

/-- VEXT: lane 0 takes a_l, every other lane zero (R232). -/
def execVext (d a : BitVec 12) (lane : BitVec 7) (m : Bool) (x : BitVec 3) (s : State) : Out :=
  vword s (laneSpec (.vext d a lane m x) d a lane m x .v) fun e ga _ _ => (pack e.w [elem e.w (ga.headD 0) lane.toNat] 1, 0)

/-- VINS: lane l of d takes a_0 (R232). -/
def execVins (d a : BitVec 12) (lane : BitVec 7) (m : Bool) (x : BitVec 3) (s : State) : Out :=
  vword s { laneSpec (.vins d a lane m x) d a lane m x .vn with readD := fun _ => true } fun e ga _ gd =>
    ([intoSlice e.w lane.toNat (gd.headD 0) [elem e.w (ga.headD 0) 0]], 0)

/-- VIOTA: d_i := a_0 + i (R232). -/
def execViota (d a b : BitVec 12) (m : Bool) (x : BitVec 3) (s : State) : Out :=
  vword s (vspec (.viota d a b m x) d a b m x .v .v .none setI) fun e ga _ _ =>
    (pack e.w ((List.range (lanesOf e.w)).map fun i => (elem e.w (ga.headD 0) 0 + i) % 2 ^ e.w) 1, 0)

/-- VTRANS: the transpose of a tile of 32-bit elements, or of each 16 × 16 half of a tile of 16-bit elements (R233). -/
def execVtrans (d a b : BitVec 12) (m : Bool) (x : BitVec 3) (s : State) : Out :=
  vword s (vspec (.vtrans d a b m x) d a b m x .t .t .none fun t => typeWidth t == 32 || typeWidth t == 16) fun e ga _ _ =>
    ((List.range 16).map fun i => ofElems e.w ((List.range (lanesOf e.w)).map fun j =>
      elem e.w (ga.getD (j % 16) 0) (16 * (j / 16) + i)), 0)

/-! ### Random bits (R234) -/

/-- VRNG: 16 lanes of .n32 from Philox (R122, R234). -/
def execVrng (d a : BitVec 12) (site : BitVec 2) (m : Bool) (x : BitVec 3) (s : State) : Out :=
  vword s (vspec (.vrng d a site m x) d a 0 m x .v .v .c setAny) fun e ga _ _ =>
    let (version, base, _, _) := counterOf ga
    (pack 32 ((List.range 16).map fun i => drawWord e.seed e.taskId version (base + i) site.toNat) 1, 0)

end Sys2Proof.Machine
end

