-- ==== Sys2Proof/Machine/Matrix.lean ====
section
/-! DEFINITION. The matrix arrays: M-commands, their checks, format words, windows, and their effects on the accumulators (R62, R235 to R252). -/

namespace Sys2Proof.Machine

/-! ### Codes and fields (R130, R239, R242) -/

/-- m and n. -/
def mnSize (x : BitVec 2) : Nat := 16 * 2 ^ x.toNat

/-- k. -/
def kSize (x : BitVec 2) : Nat := 32 * 2 ^ x.toNat

/-- Fields of a format word (R239). -/
def fmtTA (w : Word) : Nat := bits w.toNat 0 4
def fmtTB (w : Word) : Nat := bits w.toNat 4 4
def fmtTC (w : Word) : Nat := bits w.toNat 8 4
def fmtQA (w : Word) : Nat := bits w.toNat 14 2
def fmtQB (w : Word) : Nat := bits w.toNat 16 2
def fmtGB (w : Word) : Nat := bits w.toNat 18 2
def fmtXA (w : Word) : Bool := bitAt w.toNat 20
def fmtXB (w : Word) : Bool := bitAt w.toNat 21
def fmtSA (w : Word) : Nat := bits w.toNat 22 18
def fmtSB (w : Word) : Nat := bits w.toNat 40 18

/-- Elements of an asymmetric group of B. -/
def fmtGroup (w : Word) : Nat := 32 * 2 ^ fmtGB w

/-- A format word is one of the legal rows (R240). -/
def legalFormat (w : Word) : Bool :=
  let a := fmtTA w
  let b := fmtTB w
  let fp8 (t : Nat) : Bool := t == 11 || t == 12
  let i8 (t : Nat) : Bool := t == 0 || t == 1
  let i4 (t : Nat) : Bool := t == 14 || t == 15
  bits w.toNat 58 6 == 0 && bits w.toNat 12 2 == 0
  && (fmtQA w != 0 || (fmtSA w == 0 && !fmtXA w)) && (fmtQB w != 0 || (fmtSB w == 0 && !fmtXB w)) && (fmtQB w == 1 || fmtGB w == 0)
  && ((a == 9 && b == 9 && fmtQA w == 0 && fmtQB w == 0 && fmtTC w == 10)
    || (a == 8 && b == 8 && fmtQA w == 0 && fmtQB w == 0 && fmtTC w == 10)
    || (fp8 a && fp8 b && ((fmtQA w == 0 && fmtQB w == 0) || (fmtQA w == 2 && fmtQB w == 2)) && fmtTC w == 10)
    || (i8 a && i8 b && fmtQA w == 0 && fmtQB w == 0 && fmtTC w == 4)
    || (i4 a && i4 b && fmtQA w == 0 && fmtQB w == 0 && fmtTC w == 4)
    || ((a == 8 || a == 9) && (i8 b || i4 b) && fmtQA w == 0 && fmtQB w == 1 && fmtGB w != 3 && fmtTC w == 10))

/-- L: the group length of the sums (R240). -/
def groupLen (w : Word) : Nat :=
  if fmtQB w = 1 then fmtGroup w else if fmtQA w = 2 then 32 else if typeWidth (fmtTA w) = 16 then 32 else 64

/-- Fields of a window register (R242). -/
def winOff (ra : Word) : Nat := bits ra.toNat 0 18
def winRow (ra : Word) : Nat := bits ra.toNat 32 7
def winCol (ra : Word) : Nat := bits ra.toNat 40 7
def winType (ra : Word) : Nat := bits ra.toNat 48 4

/-! ### The commands -/

/-- Opcodes 0xB0 to 0xB8 (R235). -/
def opMfmt : BitVec 8 := 0xB0
def opMma : BitVec 8 := 0xB1
def opMmas : BitVec 8 := 0xB2
def opMresc : BitVec 8 := 0xB3
def opMzero : BitVec 8 := 0xB4
def opMldac : BitVec 8 := 0xB5
def opMstac : BitVec 8 := 0xB6
def opMstsm : BitVec 8 := 0xB7
def opMnorm : BitVec 8 := 0xB8

/-- The command multiplies. -/
def MCmd.mul (x : MCmd) : Bool := x.op == opMma || x.op == opMmas

/-- The command stores. -/
def MCmd.stores (x : MCmd) : Bool := x.op == opMstac || x.op == opMstsm

/-- flags [20:18] from a command's flag bits. -/
def flags3 (f20 f19 f18 : Bool) : BitVec 3 := (if f20 then 4 else 0) + (if f19 then 2 else 0) + if f18 then 1 else 0

/-- TA, TB and flag [18]: Z, SIDE, CLOSE or OTHER. -/
def MCmd.ta (x : MCmd) : Bool := x.flags.getLsbD 2
def MCmd.tb (x : MCmd) : Bool := x.flags.getLsbD 1
def MCmd.low (x : MCmd) : Bool := x.flags.getLsbD 0

/-- A command with an open result: it closes the chain (R250). -/
def MCmd.closes (x : MCmd) : Bool := x.stores && x.low

/-- An accumulator of a core. -/
def Core.acc (c : Core) (n : Bool) : Acc := if n then c.acc1 else c.acc0

/-- Replace an accumulator of a core. -/
def Core.setAcc (c : Core) (n : Bool) (a : Acc) : Core := if n then { c with acc1 := a } else { c with acc0 := a }

/-- Bytes of a region of elements (R242, R243). -/
def regionBytes (t count : Nat) : Nat := ceilDiv (count * typeWidth t) 8

/-- Store type of an accumulator command: TYPE, or .f32 (R242). -/
def MCmd.store (x : MCmd) : Nat := winType x.ra

/-- The regions of a command: offset and bytes of A, B, A's scales, B's scales, the source or destination (R243). -/
def MCmd.regions (x : MCmd) : List (Nat × Nat) :=
  if x.mul then
    [(winOff x.ra, regionBytes (fmtTA x.fmt) (x.m * x.k)), (bits x.rb.toNat 0 18, regionBytes (fmtTB x.fmt) (x.n * x.k))]
    ++ (if fmtQA x.fmt = 2 then [(fmtSA x.fmt, x.m * ceilDiv x.k 32)] else [])
    ++ (if fmtQB x.fmt = 2 then [(fmtSB x.fmt, x.n * ceilDiv x.k 32)]
        else if fmtQB x.fmt = 1 then [(fmtSB x.fmt, 4 * x.n * ceilDiv x.k (fmtGroup x.fmt))] else [])
  else if x.op = opMldac then [(winOff x.ra, 4 * x.m * x.n)]
  else if x.stores then [(winOff x.ra, regionBytes x.store (x.m * x.n))]
  else []

/-- A region lies inside one bank group (R82, R243). -/
def oneGroup (r : Nat × Nat) : Bool := r.1 / 0x8000 == (r.1 + r.2 - 1) / 0x8000

/-- The offset of the first region that breaks a rule of R243. DESIGN CHOICE: where A and B share a bank group, the spec does not say which of the two is the failing one; the model names B (notes/assumptions/57.md). -/
def bankConflict (x : MCmd) : Option Nat :=
  let rs := x.regions
  match rs with
  | a :: b :: rest =>
    if ¬oneGroup a then some a.1
    else if ¬oneGroup b ∨ (x.mul ∧ a.1 / 0x8000 = b.1 / 0x8000) then some b.1
    else (rest.find? fun r => !oneGroup r).map Prod.fst
  | _ => (rs.find? fun r => !oneGroup r).map Prod.fst

/-- A register breaks its layout, or the window leaves the accumulator (check 1 of R238). -/
def badWindow (x : MCmd) : Option Word :=
  let ra := x.ra.toNat
  let typed := x.op == opMldac || x.stores
  let offset := x.mul || typed
  if bits ra 52 12 ≠ 0 ∨ bitAt ra 47 ∨ bitAt ra 39 ∨ bits ra 18 14 ≠ 0 ∨ (¬typed ∧ winType x.ra ≠ 0) ∨ (¬offset ∧ winOff x.ra ≠ 0)
      ∨ 128 < winRow x.ra + x.m ∨ 128 < winCol x.ra + x.n then some x.ra
  else if x.mul ∧ x.rb.toNat / 2 ^ 18 ≠ 0 then some x.rb
  else none

/-- TYPE or the format word does not fit the command and the kind of the accumulator's contents (check 4 of R238; R240, R242, R394). -/
def badFormat (c : Core) (x : MCmd) : Bool :=
  let kind := (c.acc x.acc).kind
  let t := winType x.ra
  let floats := t == 10 || t == 9 || t == 8 || t == 11 || t == 12
  let ints := t == 4 || t == 2 || t == 0
  if x.mul then
    (fmtQA x.fmt != 0 && fmtXA x.fmt != x.ta) || (fmtQB x.fmt != 0 && fmtXB x.fmt != x.tb)
    || (x.op == opMmas && fmtTC x.fmt != 10) || (fmtQB x.fmt == 1 && fmtSB x.fmt % 4 != 0)
  else if x.op = opMstac then
    match kind with
    | some true => !ints
    | some false => !floats
    | none => !(ints || floats)
  else if x.op = opMstsm then !floats || kind == some true
  else if x.op = opMldac then !(t == 10 || t == 4)
  else if x.op = opMresc ∨ x.op = opMnorm then kind == some true
  else false

/-- The checks of R238, in order. -/
def mChecks (c : Core) (x : MCmd) : Option (BitVec 8 × Word) :=
  if x.op = opMfmt then (if legalFormat x.ra then none else some (7, x.ra))
  else match badWindow x with
    | some w => some (13, w)
    | none =>
      let offs := (if x.mul ∨ x.op = opMldac ∨ x.stores then [winOff x.ra] else []) ++ if x.mul then [bits x.rb.toNat 0 18] else []
      match offs.find? fun o => o % 64 != 0 with
      | some o => some (11, BitVec.ofNat 64 o)
      | none =>
        if x.mul ∧ c.fmts = [] then some (6, 0)
        else if badFormat c x then some (7, x.ra)
        else (bankConflict x).map fun o => (5, BitVec.ofNat 64 o)

/-- The chain and kind of an accumulator as a pushed command leaves them (R250, R394). -/
def Core.chained (c : Core) (x : MCmd) : Core :=
  let a := c.acc x.acc
  if x.op = opMfmt then c
  else if x.closes then c.setAcc x.acc { a with chain := false, kind := none, kindMma := false }
  else if x.stores then c
  else
    c.setAcc x.acc { a with
      chain := true
      kind := if x.mul then some (fmtTC x.fmt == 4) else if x.op = opMldac ∧ ¬a.kindMma then some (winType x.ra == 4) else a.kind
      kindMma := a.kindMma || x.mul }

/-- An M-command as its word pushes it (DESIGN CHOICE: a command keeps its entry of the queue until it completes; the spec does not say whether a started one still fills it, notes/assumptions/57.md): the lease, the format queue, the checks of R238, the pop, the queue (R196, R235 to R238, R241). -/
def pushM (self : Instr) (op : BitVec 8) (ra rb : BitVec 6) (acc : Bool) (m n k : Nat) (flags : BitVec 3) (pop push : BitVec 3) (s : State) : Out :=
  runC s fun c _ => c.ready s [ra, rb] (
    let core := s.curCore
    let x : MCmd :=
      { op := op, ra := c.sreg ra, rb := c.sreg rb, acc := acc, m := m, n := n, k := k, flags := flags, push := push,
        fmt := if op = opMfmt then c.sreg ra else if op = opMma ∨ op = opMmas then c.fmts.headD 0 else 0, index := c.lastRun + 1,
        pc := c.cs.pc, started := false, failed := none }
    if ¬s.hasLease core then .trap 15 (BitVec.ofNat 64 c.lastRun)
    else if op = opMfmt ∧ 8 ≤ c.fmts.length then .trap 1 self.tval
    else match mChecks c x with
      | some (code, tval) => .trap code tval
      | none => c.release s 0 (
        if pop ≠ 0 ∧ c.tokenCount pop.toNat = 0 then .wait s (.token pop.toNat)
        else if 16 ≤ c.mqueue.length then .wait s .engine
        else
          let c := if pop = 0 then c else { c.tokenTake pop.toNat with joined := s.order }
          let c := c.chained x
          let c := { c with
            mqueue := c.mqueue ++ [x]
            lastRun := c.lastRun + 1
            fmts := if op = opMfmt then c.fmts ++ [x.fmt] else if x.mul then c.fmts.drop 1 else c.fmts }
          let s := s.put c
          let s := { s with arrays := Map.upd s.arrays (arrayOf core) fun a => { a with accepted := a.accepted + 1 } }
          let s := if 64 ≤ c.lastRun then s.endRun core else s
          .done (s.syncPoint core)))

/-- MFMT appends a format word (R239 to R241). -/
def execMfmt (ra : BitVec 6) (pop push : BitVec 3) (s : State) : Out :=
  pushM (.mfmt ra pop push) opMfmt ra 0 false 0 0 0 0 pop push s

/-- MMA multiplies A by B into the window (R244). -/
def execMma (ra rb : BitVec 6) (acc : Bool) (m n k : BitVec 2) (ta tb z : Bool) (pop push : BitVec 3) (s : State) : Out :=
  pushM (.mma ra rb acc m n k ta tb z pop push) opMma ra rb acc (mnSize m) (mnSize n) (kSize k) (flags3 ta tb z) pop push s

/-- MMAS multiplies and updates the row maxima and sums (R245). -/
def execMmas (ra rb : BitVec 6) (acc : Bool) (m n k : BitVec 2) (ta tb z : Bool) (pop push : BitVec 3) (s : State) : Out :=
  pushM (.mmas ra rb acc m n k ta tb z pop push) opMmas ra rb acc (mnSize m) (mnSize n) (kSize k) (flags3 ta tb z) pop push s

/-- MRESC rescales accN to the row maxima of the other accumulator (R247). -/
def execMresc (ra : BitVec 6) (acc : Bool) (m n : BitVec 2) (pop push : BitVec 3) (s : State) : Out :=
  pushM (.mresc ra acc m n pop push) opMresc ra 0 acc (mnSize m) (mnSize n) 0 0 pop push s

/-- MZERO clears the window (R249). -/
def execMzero (ra : BitVec 6) (acc : Bool) (m n : BitVec 2) (side : Bool) (pop push : BitVec 3) (s : State) : Out :=
  pushM (.mzero ra acc m n side pop push) opMzero ra 0 acc (mnSize m) (mnSize n) 0 (flags3 false false side) pop push s

/-- MLDAC loads the window (R249). -/
def execMldac (ra : BitVec 6) (acc : Bool) (m n : BitVec 2) (pop push : BitVec 3) (s : State) : Out :=
  pushM (.mldac ra acc m n pop push) opMldac ra 0 acc (mnSize m) (mnSize n) 0 0 pop push s

/-- MSTAC stores the window converted to TYPE (R246). -/
def execMstac (ra : BitVec 6) (acc : Bool) (m n : BitVec 2) (close : Bool) (pop push : BitVec 3) (s : State) : Out :=
  pushM (.mstac ra acc m n close pop push) opMstac ra 0 acc (mnSize m) (mnSize n) 0 (flags3 false false close) pop push s

/-- MSTSM stores the window's softmax terms (R246). -/
def execMstsm (ra : BitVec 6) (acc : Bool) (m n : BitVec 2) (close : Bool) (pop push : BitVec 3) (s : State) : Out :=
  pushM (.mstsm ra acc m n close pop push) opMstsm ra 0 acc (mnSize m) (mnSize n) 0 (flags3 false false close) pop push s

/-- MNORM divides the window by the row sums (R248). -/
def execMnorm (ra : BitVec 6) (acc : Bool) (m n : BitVec 2) (other : Bool) (pop push : BitVec 3) (s : State) : Out :=
  pushM (.mnorm ra acc m n other pop push) opMnorm ra 0 acc (mnSize m) (mnSize n) 0 (flags3 false false other) pop push s

/-! ### Arithmetic of the array -/

/-- −∞ as FP32. -/
def negInf : BitVec 32 := 0xFF800000

/-- An FP32 value written to an accumulator, ROWMAX or ROWSUM: rounded with rne, a subnormal result as a zero with its sign, which sets AUF (R116, R244). -/
def accRound (v : Val) : BitVec 32 × Bool :=
  let b := (roundTo 10 0 0 false v).1
  if isSubnormal 10 b then (BitVec.ofNat 32 (signBit 10 (bitAt b 31)), true) else (BitVec.ofNat 32 b, false)

/-- flush() of R249 on the bits of a word. -/
def flushBits (b : Nat) : BitVec 32 × Bool :=
  if isSubnormal 10 b then (BitVec.ofNat 32 (signBit 10 (bitAt b 31)), true) else (BitVec.ofNat 32 b, false)

/-- The value of an FP32 pattern. -/
def f32 (b : BitVec 32) : Val := valOf 10 b.toNat

/-- The value of an element of A or B. -/
def elemVal (t b : Nat) : Val := if isInt t then valOfInt (intOf t b) else valOf t b

/-- A sum of products inside the exact adder (R121). -/
def exactSum : List Val → Val
  | [] => .fin false 0 1
  | x :: r => r.foldl (fun a y => (a.add 0 y).1) x

/-- A quotient (R111, R248). -/
def quotient (x y : Val) : Val :=
  match x, y with
  | .nan, _ => .nan
  | _, .nan => .nan
  | .inf _, .inf _ => .nan
  | .inf n, .fin m _ _ => .inf (n != m)
  | .fin n _ _, .inf m => .fin (n != m) 0 1
  | .fin n a _, .fin m c _ => if c = 0 then (if a = 0 then .nan else .inf (n != m)) else x.div y

/-- exp2f of R245. -/
def exp2f (x : Val) : BitVec 32 := BitVec.ofNat 32 (roundTo 10 0 0 false (exp2Value x)).1

/-- factor(o, M) of R245. -/
def rescale (o m : BitVec 32) : Val :=
  if (f32 o).eq (f32 m) then .fin false 1 1 else if o = negInf then .fin false 0 1 else f32 (exp2f ((f32 o).add 0 (f32 m).negate).1)

/-- e(x, M) of R245. -/
def softTerm (x m : BitVec 32) : BitVec 32 := if m = negInf then 0 else exp2f ((f32 x).add 0 (f32 m).negate).1

/-! ### Effects -/

/-- Element `i` of a region of the core's scratchpad, of `w` bits. -/
def Core.padElem (c : Core) (off w i : Nat) : Nat :=
  if w = 4 then bits (Memory.get c.pad (off + i / 2)).toNat (4 * (i % 2)) 4 else ofBytes (Memory.getN c.pad (off + i * (w / 8)) (w / 8))

/-- An accumulator element. -/
def Acc.get (a : Acc) (i j : Nat) : BitVec 32 := Map.lookD a.elems (128 * i + j) 0

/-- Side registers. -/
def Acc.max (a : Acc) (i : Nat) : BitVec 32 := Map.lookD a.rowmax i negInf
def Acc.sum (a : Acc) (i : Nat) : BitVec 32 := Map.lookD a.rowsum i 0

/-- Write the rows of a window. -/
def Acc.setWindow (a : Acc) (row col : Nat) (rows : List (List (BitVec 32))) : Acc :=
  { a with
    elems := (rows.zipIdx).foldl (fun m r => (r.1.zipIdx).foldl (fun m e => Map.put m (128 * (row + r.2) + (col + e.2)) e.1) m) a.elems }

/-- a(i, p) and b(p, j) (R243). -/
def MCmd.a (x : MCmd) (c : Core) (i p : Nat) : Val :=
  elemVal (fmtTA x.fmt) (c.padElem (winOff x.ra) (typeWidth (fmtTA x.fmt)) (if x.ta then p * x.m + i else i * x.k + p))
def MCmd.b (x : MCmd) (c : Core) (p j : Nat) : Val :=
  elemVal (fmtTB x.fmt) (c.padElem (bits x.rb.toNat 0 18) (typeWidth (fmtTB x.fmt)) (if x.tb then p * x.n + j else j * x.k + p))

/-- The value of group g for an element of the window (R121, R244): the rounded FP32 group sum. -/
def MCmd.group (x : MCmd) (c : Core) (i j g : Nat) : Val :=
  let l := groupLen x.fmt
  let ps := (List.range (min l (x.k - g * l))).map fun q => g * l + q
  let dot := exactSum (ps.map fun p => ((x.a c i p).mul (x.b c p j)).1)
  let v :=
    if fmtQA x.fmt = 2 then
      let sa := c.padElem (fmtSA x.fmt) 8 (i * ceilDiv x.k 32 + g)
      let sb := c.padElem (fmtSB x.fmt) 8 (j * ceilDiv x.k 32 + g)
      mxValue (mxValue dot sa) sb
    else if fmtQB x.fmt = 1 then
      let at_ := j * ceilDiv x.k (fmtGroup x.fmt) + g
      let w := c.padElem (fmtSB x.fmt) 32 at_
      let zp := valOfInt (intOf (fmtTB x.fmt) (bits w 16 8 % 2 ^ typeWidth (fmtTB x.fmt)))
      let corr := (zp.mul (exactSum (ps.map fun p => x.a c i p))).1
      ((valOf 8 (bits w 0 16)).mul (dot.add 0 corr.negate).1).1
    else dot
  valOf 10 (roundTo 10 0 0 false v).1

/-- The integer sum of a group. -/
def MCmd.intGroup (x : MCmd) (c : Core) (i j g : Nat) : Int :=
  let l := groupLen x.fmt
  ((List.range (min l (x.k - g * l))).map fun q => g * l + q).foldl (fun a p =>
    match ((x.a c i p).mul (x.b c p j)).1 with
    | .fin n num _ => a + signedNum n num
    | _ => a) 0

/-- A window element after MMA, and whether it was flushed (R244). -/
def MCmd.product (x : MCmd) (c : Core) (i j : Nat) : BitVec 32 × Bool :=
  let old : BitVec 32 := if x.low then 0 else (c.acc x.acc).get (winRow x.ra + i) (winCol x.ra + j)
  (List.range (ceilDiv x.k (groupLen x.fmt))).foldl (fun r g =>
    if fmtTC x.fmt = 4 then (r.1 + BitVec.ofInt 32 (x.intGroup c i j g), r.2)
    else
      let y := accRound ((f32 r.1).add 0 (x.group c i j g)).1
      (y.1, r.2 || y.2)) (old, false)

/-- The window's rows of a function of row and column. -/
def MCmd.rows {α : Type} (x : MCmd) (f : Nat → Nat → α) : List (List α) := (List.range x.m).map fun i => (List.range x.n).map (f i)

/-- Some element was flushed. -/
def anyFlush (rows : List (List (BitVec 32 × Bool))) : Bool := rows.any fun r => r.any Prod.snd

/-- The side registers of a row after MMAS, from its new values, and whether a value was flushed (R245). -/
def softRow (a : Acc) (i : Nat) (row : List (BitVec 32)) : BitVec 32 × BitVec 32 × Bool :=
  let old := a.max i
  let m := row.foldl (fun m v => BitVec.ofNat 32 (fmax false 10 m.toNat v.toNat)) old
  let r := accRound ((f32 (a.sum i)).mul (rescale old m)).1
  let q := row.foldl (fun (r : BitVec 32 × Bool) v =>
    let y := accRound ((f32 r.1).add 0 (f32 (softTerm v m))).1
    (y.1, r.2 || y.2)) r
  (m, q)

/-- Pack the elements of a stored window into bytes at its destination (R243). -/
def MCmd.image (x : MCmd) (f : Nat → Nat → Nat) : List Byte := packElems (typeWidth x.store) ((x.rows f).flatMap id)

/-- An element as MSTAC writes it (R246). -/
def storeElem (t : Nat) (b : BitVec 32) : Nat :=
  if isInt t then ofInt t (clampInt (intMin t) (intMax t) b.toInt).1 else (roundTo t 0 0 false (f32 b)).1

/-- The core after a command's effect on its accumulators, whether AUF is set, and the bytes it stores (R244 to R249). -/
def MCmd.effect (x : MCmd) (c : Core) : Core × Bool × List Byte :=
  let a := c.acc x.acc
  let other := c.acc (!x.acc)
  let row := winRow x.ra
  let col := winCol x.ra
  let put (rows : List (List (BitVec 32 × Bool))) : Acc := a.setWindow row col (rows.map fun r => r.map Prod.fst)
  let cur (i j : Nat) : BitVec 32 := a.get (row + i) (col + j)
  if x.mul then
    let rows := x.rows (x.product c)
    let a' := put rows
    if x.op = opMma then (c.setAcc x.acc a', anyFlush rows, [])
    else
      let side := (rows.zipIdx).map fun r => (row + r.2, softRow a (row + r.2) (r.1.map Prod.fst))
      (c.setAcc x.acc { a' with
          rowmax := side.foldl (fun m e => Map.put m e.1 e.2.1) a.rowmax
          rowsum := side.foldl (fun m e => Map.put m e.1 e.2.2.1) a.rowsum },
        anyFlush rows || side.any fun e => e.2.2.2, [])
  else if x.op = opMresc then
    let rows := x.rows fun i j => accRound ((f32 (cur i j)).mul (rescale (a.max (row + i)) (other.max (row + i)))).1
    (c.setAcc x.acc { put rows with
        rowmax := (List.range x.m).foldl (fun m i => Map.put m (row + i) (other.max (row + i))) a.rowmax }, anyFlush rows, [])
  else if x.op = opMzero then
    let a' := put (x.rows fun _ _ => (0, false))
    let rs := (List.range x.m).map (row + ·)
    (c.setAcc x.acc (if x.low then { a' with rowmax := rs.foldl Map.del a.rowmax, rowsum := rs.foldl Map.del a.rowsum } else a'), false, [])
  else if x.op = opMldac then
    let rows := x.rows fun i j =>
      let w := c.padElem (winOff x.ra) 32 (i * x.n + j)
      if winType x.ra = 4 then (BitVec.ofNat 32 w, false) else flushBits w
    (c.setAcc x.acc (put rows), anyFlush rows, [])
  else if x.op = opMnorm then
    let rows := x.rows fun i j => accRound (quotient (f32 (cur i j)) (f32 ((if x.low then other else a).sum (row + i))))
    (c.setAcc x.acc (put rows), anyFlush rows, [])
  else if x.op = opMstac then (c, false, x.image fun i j => storeElem x.store (cur i j))
  else if x.op = opMstsm then
    (c, false, x.image fun i j => (roundTo x.store 0 0 false (f32 (softTerm (cur i j) (a.max (row + i))))).1)
  else (c, false, [])

/-! ### Start and completion -/

/-- The accumulators a command touches (R237). -/
def MCmd.accs (x : MCmd) : List Bool :=
  if x.op = opMfmt then [] else if x.op = opMresc ∨ (x.op = opMnorm ∧ x.low) then [x.acc, !x.acc] else [x.acc]

/-- The place of the next command to start: every earlier one has started, and no earlier one that has not completed is on an accumulator it touches (R96, R237). -/
def nextStart (q : List MCmd) : Option Nat :=
  match q.findIdx? fun x => !x.started with
  | none => none
  | some k => match q[k]? with
    | none => none
    | some x => if (q.take k).any fun y => y.op != opMfmt && x.accs.contains y.acc then none else some k

/-- The regions that a command reads. -/
def MCmd.reads (x : MCmd) : List (Nat × Nat) := if x.mul ∨ x.op = opMldac then x.regions else []

/-- The first poisoned granule of the scratchpad that a command reads (R373). -/
def Core.poisonedRead (c : Core) (x : MCmd) : Option Nat :=
  x.reads.findSome? fun r => c.padPoison.find? fun g => decide (64 * g < r.1 + r.2) && decide (r.1 < 64 * g + 64)

/-- The command fails: an error of the array, a poisoned operand, or a poisoned accumulator (R372, R373). -/
def Core.mFails (c : Core) (x : MCmd) : Bool :=
  x.failed.isSome || (x.accs.any fun n => (c.acc n).poisoned)
  || (c.poisonedRead x).isSome

/-- accN returns to its dispatch values, the control engine's chain and kind kept (R62, R246). -/
def Acc.cleared (a : Acc) : Acc := { a with elems := [], rowmax := [], rowsum := [], poisoned := false }

/-- A command that has started completes: its effect, or its failure with a TYPE 8 record (R372, R377); its token joins the core's completion slot in push order (R236). -/
def State.finishM (s : State) (n : Nat) (sh : Shard) (c : Core) (x : MCmd) : State :=
  let rest := c.mqueue.drop 1
  let s :=
    if x.op = opMfmt then s.updCore n fun c => { c with mqueue := rest }
    else if c.mFails x then
      let at_ := (c.poisonedRead x).elim (winOff x.ra) (64 * ·)
      let cls := x.failed.getD (((c.poisonedRead x).bind fun g => Map.look s.poisonedBy (2 ^ 40 + 4096 * n + g)).getD 0xFF)
      let (s, at_) := s.postFault sh.ctx
        { typ := 8, cls := cls, cause := 9, strm := 3, core := n, shard := sh.num, taskId := sh.taskId,
          tval := 0xFF00000000000000 + BitVec.ofNat 64 at_, pc := x.pc, addr := 0, index := BitVec.ofNat 64 x.index }
      s.updCore n fun c =>
        let a := c.acc x.acc
        { c.setAcc x.acc (if x.closes then a.cleared else { a with poisoned := true }) with
          mqueue := rest
          mfailed := c.mfailed.orElse fun _ => some at_ }
    else
      let (c', auf, bytes) := x.effect c
      let c' := if x.closes then c'.setAcc x.acc (c'.acc x.acc).cleared else c'
      let s := s.setCore n { c' with mqueue := rest, fflags := if auf then c'.fflags ||| flagAUF else c'.fflags }
      if bytes = [] then s else s.writeTarget (.pad n (winOff x.ra)) bytes
  if x.push = 0 then s else s.updCore n fun c => { c with slotted := c.slotted ++ [x.push] }

/-- Completion tokens go out in order while their channels have room (R236). -/
def Core.sendTokens (c : Core) : List (BitVec 3) → Core
  | [] => { c with slotted := [] }
  | k :: r => if c.tokenCount k.toNat < 15 then (c.tokenAdd k.toNat).sendTokens r else { c with slotted := k :: r }

/-- Push what the completion slot can push; a push synchronises (R90, R105, R236). -/
def State.sendTokens (s : State) (n : Nat) : State :=
  match s.core? n with
  | none => s
  | some c =>
    let c' := c.sendTokens c.slotted
    let s := s.setCore n c'
    if c'.slotted = c.slotted then s else s.syncPoint n

/-- M_COMMAND_START: the core's next command starts (R96, R237); an MFMT at the head completes with it (R241). DESIGN CHOICE: an MFMT behind a command that has not completed starts, and completes only behind it: R241 completes it in the clk of its start, R237 in push order (notes/assumptions/57.md). -/
def execMCommandStart (s : State) : Out :=
  onShard s fun c sh =>
    let n := s.args.core
    match nextStart c.mqueue with
    | none => .refused .notEnabled
    | some k => match c.mqueue[k]? with
      | none => .refused .notEnabled
      | some x =>
        let c := { c with mqueue := c.mqueue.set k { x with started := true } }
        let s := s.setCore n c
        if k = 0 ∧ x.op = opMfmt then .next ((s.finishM n sh c x).sendTokens n) else .next s

/-- M_COMMAND_COMPLETE: the oldest started command completes, once no retry is in flight for a command of the core (R371), or, when none has, a completion that waited for its channel pushes its token (R236, R237). -/
def execMCommandComplete (s : State) : Out :=
  onShard s fun c sh =>
    let n := s.args.core
    match c.mqueue with
    | x :: _ =>
      if x.started then (if s.retrying n 2 then .refused .notEnabled else .next ((s.finishM n sh c x).sendTokens n))
      else if (c.sendTokens c.slotted).slotted ≠ c.slotted then .next (s.sendTokens n)
      else .refused .notEnabled
    | [] => if (c.sendTokens c.slotted).slotted ≠ c.slotted then .next (s.sendTokens n) else .refused .notEnabled

/-- Every M-command a core's run accepted completes, in push order (R196, R298); `fuel` bounds them. -/
def State.drainM (s : State) (n : Nat) (sh : Shard) : Nat → State
  | 0 => s
  | fuel + 1 =>
    match s.core? n with
    | none => s
    | some c => match c.mqueue with
      | [] => s
      | x :: _ => ((s.finishM n sh c x).sendTokens n).drainM n sh fuel

end Sys2Proof.Machine
end

