-- ==== Sys2Proof/Machine/LineageOps.lean ====
section
/-! DEFINITION. Lineage: record handles (R279), depth and users (R280), release (R282), replicas (R281), parked copies (R284), room in the tile store, the compression and checks of a parked stream (R263, R264), and transaction barriers (R187, R261). -/

namespace Sys2Proof.Machine

/-! ### Records -/

/-- Records of a shard's region (R277). -/
def recordCapacity : Nat := 22369621

/-- A record. -/
def State.record? (s : State) (d k : Nat) : Option Record := (Map.look s.almanac d).bind fun a => Map.look a.records k

/-- A record handle (R279): KIND 1 a tile input, 2 a Harvest result. -/
def recordHandle (kind d k ver : Nat) : Word := BitVec.ofNat 64 (kind * 2 ^ 62 + d * 2 ^ 59 + k * 2 ^ 34 + ver)

/-- KIND of a handle. -/
def handleKind (h : Word) : Nat := bits h.toNat 62 2

/-- The record a handle names, unless it is missing (R279). -/
def State.followHandle (s : State) (h : Word) : Option (Nat × Nat × Record) :=
  let d := bits h.toNat 59 3
  let k := bits h.toNat 34 25
  if handleKind h = 0 then none
  else match s.record? d k with
    | some r => if bits r.tile.toNat 96 32 = bits h.toNat 0 32 then some (d, k, r) else none
    | none => none

/-- One user less; a saturated count stays (R277). -/
def lessUser (u : Nat) : Nat := if u = 65535 then u else u - 1

/-- A rebuild task that lost its purpose is discarded with its shards; one that has others keeps them, and no report of the version re-seals it any more (R418). -/
def State.cancelRebuild (s : State) (d k : Nat) : State :=
  s.tasks.foldl (fun s e =>
    match e.2.rebuild with
    | some l =>
      if l.contains (d, k) then
        let l' := l.filter fun x => x ≠ (d, k)
        if l' = [] then
          let s := s.stopTask e.1
          { s with tasks := Map.del s.tasks e.1, seals := s.seals.filter fun q => q.task ≠ some e.1 }
        else
          let gone (q : Seal) : Bool := q.task == some e.1 && q.reseal && (Map.look s.versions q.version).any fun v => v.record == some (d, k)
          { s with
            tasks := Map.upd s.tasks e.1 fun t => { t with rebuild := some l', sealsLeft := t.sealsLeft - (s.seals.filter gone).length }
            seals := s.seals.filter fun q => !gone q }
      else s
    | none => s) s

/-- Free a record that is not needed, in its shard and in the mirror, and the version with it (R282). -/
def State.freeRecord (s : State) (d k : Nat) : State :=
  let s := s.cancelRebuild d k
  { s with
    almanac := Map.upd s.almanac d fun a => { a with records := Map.del a.records k, rebuilding := removeNat a.rebuilding k, short := false }
    versions := s.versions.filter fun e => e.2.record ≠ some (d, k) }

/-- Take a user from each record of a list of handles, and release each (R281, R282). -/
def State.dropUsersWith (release : State → Nat → Nat → State) (s : State) : List Word → State
  | [] => s
  | h :: r =>
    (match s.followHandle h with
      | some (d, k, _) => release (s.updRecord d k fun x => { x with users := lessUser x.users }) d k
      | none => s).dropUsersWith release r

/-- release(x) of R282; `fuel` bounds the chain. -/
def State.releaseRec : Nat → State → Nat → Nat → State
  | 0, s, _, _ => s
  | fuel + 1, s, d, k =>
    match s.record? d k with
    | none => s
    | some r =>
      if r.flags.getLsbD fDropped ∧ r.users = 0 then
        ((s.updRecord d k fun x => { x with ins := [], nin := 0 }).dropUsersWith (State.releaseRec fuel) r.ins).freeRecord d k
      else s

/-- Number of records on the device: a chain is no longer. -/
def State.recordCount (s : State) : Nat := s.almanac.foldl (fun a e => a + e.2.records.length) 0

/-- Release a record (R282). -/
def State.release (s : State) (d k : Nat) : State := State.releaseRec (s.recordCount + 1) s d k

/-- Take a user from each input of a record. -/
def State.dropUsers (s : State) (hs : List Word) : State := s.dropUsersWith State.release hs

/-- The depth of a version, from its flags and its inputs (R280). -/
def State.depthOf (s : State) (flags : BitVec 8) (ins : List Word) : Nat :=
  if flags.getLsbD fRoot || flags.getLsbD fReplica || flags.getLsbD fParked then 0
  else min 15 (ins.foldl (fun d h => max d ((s.followHandle h).elim 0 fun x => x.2.2.depth.toNat)) 0 + 1)

/-- The record's depth falls to 0 and its chain is trimmed (R281). -/
def State.trim (s : State) (d k : Nat) : State :=
  match s.record? d k with
  | none => s
  | some r =>
    let had := r.depth ≠ 0
    let s := s.updRecord d k fun x => { x with depth := 0, nin := 0, ins := [] }
    if had then s.dropUsers r.ins else s

/-- A replica of a version has performed on a die (R281). -/
def State.replicaDone (s : State) (d k target : Nat) : State :=
  match s.record? d k with
  | none => s
  | some r =>
    let s := s.updRecord d k fun x =>
      { x with replicaDie := target, replicaPresent := true, replicaFlight := false, flags := setBit x.flags fReplica true }
    (s.updVersion r.version fun v => { v with replica := some (v.image ++ v.twin.getD []) }).trim d k

/-- The first die in service after a die, in ascending order mod 8, or the die itself (R421, R430). -/
def State.nextDie (s : State) (home : Nat) : Nat :=
  ((List.range 7).map fun i => (home + 1 + i) % 8).find? (fun d => s.dies.getLsbD d && d != home) |>.getD home

/-- The buddy die, or its stand-in once it is lost: the first die in service after the home, mod 8 (R421, R430). -/
def State.buddy (s : State) (home : Nat) : Nat :=
  if s.dies.getLsbD (home ^^^ 4) then home ^^^ 4 else s.nextDie home

/-- Start a replica to a die, unless the version is parked, replicated, or on its way (R281). -/
def State.startReplicaTo (s : State) (d k target : Nat) : State :=
  match s.record? d k with
  | none => s
  | some r =>
    if r.flags.getLsbD fParked || r.replicaPresent || r.replicaFlight || target == r.home then s
    else
      { (s.updRecord d k fun x => { x with replicaFlight := true }) with
        replicas := s.replicas ++ [{ die := d, index := k, target := target }] }

/-- Start a replica to the buddy die (R281). -/
def State.startReplica (s : State) (d k : Nat) : State :=
  s.startReplicaTo d k ((s.record? d k).elim d fun r => s.buddy r.home)

/-! ### Use, parking and dropping -/

/-- A version is parked: the record takes the copy's place, depth 0, and its tile-store bytes are freed (R281, R284). -/
def State.parkDone (s : State) (key d k : Nat) (win : Word) (plen : Nat) (nonce : BitVec 32) (keyid : BitVec 8) : State :=
  ((s.updRecord d k fun r =>
    { r with win := win, plen := BitVec.ofNat 32 plen, nonce := nonce, keyid := keyid, flags := setBit r.flags fParked true }).trim d k).freeBytes key d k

/-- A record with DROPPED: its version is nowhere (R277, R282). -/
def Record.dropped (r : Record) : Record :=
  { r with flags := setBit (setBit r.flags fDropped true) fResident false, replicaPresent := false, replicaFlight := false }

/-- TDROP: the record takes DROPPED, the bytes of the version and its replica are freed, and the record is released (R282); a rebuild of it is cancelled (R418). -/
def State.dropVersion (s : State) (key d k : Nat) : State :=
  let s := (s.cancelRebuild d k).updVersion key fun v => { v with present := false, replica := none, freeLater := false }
  let s := { s with
    almanac := Map.upd s.almanac d fun a => { a with rebuilding := removeNat a.rebuilding k }
    fetches := s.fetches.filter fun f => ¬(f.die = d ∧ f.index = k)
    replicas := s.replicas.filter fun f => ¬(f.die = d ∧ f.index = k) }
  (s.updRecord d k Record.dropped).release d k

/-! ### Room in a die's tile store -/

/-- 1 KiB row pieces of a version, its twin's image included (R72, R321). -/
def Version.pieces (v : Version) : Nat := ceilDiv v.image.length 1024 + ceilDiv (v.twin.elim 0 List.length) 1024

/-- The home die of a version. -/
def State.homeDie (s : State) (v : Version) : Nat :=
  match s.recordOf v with
  | some r => r.home
  | none => match s.tensor v.ctx v.handle.toNat with
    | .ok t => s.standIn (t.homeOf v.ref)
    | _ => 0

/-- The places of the row pieces of a version on a die, its twin's behind the plain ones (R321). -/
def State.rowsOn (s : State) (die key : Nat) (v : Version) : List Nat :=
  ((List.range (ceilDiv v.image.length 1024)).map (s.piecePlace die key false))
  ++ (List.range (ceilDiv (v.twin.elim 0 List.length) 1024)).map (s.piecePlace die key true)

/-- The places of the row pieces of a version. -/
def State.versionRows (s : State) (key : Nat) (v : Version) : List Nat := s.rowsOn (s.homeDie v) key v

/-- A version lies in a row whose subarray group holds another row, or in a channel that is being retrained (R324, R403). -/
def State.versionBlocked (s : State) (key : Nat) (v : Version) : Bool := (s.versionRows key v).any fun p => s.groupHeld p || s.retraining p

/-- Row pieces are read or written for an activity: sixteen column accesses each, and an activate of those that no hold keeps open (R322, R333, R334). -/
def State.chargeRows (s : State) (places : List Nat) (act : Nat) : State := places.foldl (fun s p => (s.rowOpened p act).charge (quadOf p) act 16) s

/-- Every row piece of a version is read or written for an activity. -/
def State.chargeVersion (s : State) (key : Nat) (v : Version) (act : Nat) : State := s.chargeRows (s.versionRows key v) act

/-- The stack, m0 to m7, whose quadrant the controller of a port drives (R18). -/
def stackOf (p : Nat) : Nat := (p / 4 + 8 - 2 * (p % 4)) % 8

/-- A version is copied between its home and a die that holds, or takes, its replica: its row pieces there and here, and its flits over the mesh (R333). The buddy's quadrant of the same stack is reached over the base-die crossbar (R18, R320). -/
def State.chargeBetween (s : State) (key : Nat) (v : Version) (other act : Nat) : State :=
  let home := s.homeDie v
  let cross (p q : Nat) : Bool := other == home ^^^ 4 && stackOf (quadOf p) == stackOf (quadOf q)
  let far := ((s.rowsOn home key v).zip (s.rowsOn other key v)).filter fun e => !cross e.1 e.2
  ((s.chargeVersion key v act).chargeRows (s.rowsOn other key v) act).chargeFlits home other (s.choosePath home other) act (16 * far.length)

/-- A replica of a version is written on a die, at activity REPLICA (R333). -/
def State.chargeCopy (s : State) (key : Nat) (v : Version) (target : Nat) : State := s.chargeBetween key v target actReplica

/-- Row pieces that the tile store of a die holds for versions and replicas. -/
def State.usedPieces (s : State) (die : Nat) : Nat :=
  s.versions.foldl (fun a e =>
    let r := s.recordOf e.2
    a + (if s.homeDie e.2 = die ∧ (r.elim true fun r => r.flags.getLsbD fResident) then e.2.pieces else 0)
      + (if (r.any fun r => r.replicaPresent && r.replicaDie == die) then e.2.pieces else 0)) 0

/-- Row pieces that the quadrants in service of a die can hold (R72, R278, R404). -/
def State.roomPieces (s : State) (die : Nat) : Nat :=
  (List.range 4).foldl (fun a k =>
    a + if (s.port? (4 * die + k)).all Port.inService then ((s.tileRows k).2 - (s.tileRows k).1) * 256 else 0) 0

/-- The tile store of a die has no room for so many more bytes. -/
def State.tileStoreFull (s : State) (die pieces : Nat) : Bool := decide (s.roomPieces die < s.usedPieces die + pieces)

/-! ### Streams (R263, R264) -/

/-- Words of 8 bytes. -/
def words8 (bs : List Byte) : List (List Byte) := (List.range (bs.length / 8)).map fun k => slice bs (8 * k) 8

/-- A word of zeros. -/
def zeroWord (w : List Byte) : Bool := w.all fun b => b == 0

/-- The pieces of zrc(); `fuel` bounds them (R264). -/
def zrcPieces : Nat → List (List Byte) → List Byte
  | 0, _ => []
  | _, [] => []
  | fuel + 1, w :: ws =>
    let z := zeroWord w
    let run := ((w :: ws).takeWhile fun x => zeroWord x == z).take 128
    let head : Byte := BitVec.ofNat 8 ((if z then 0x80 else 0) + run.length - 1)
    (head :: if z then [] else run.flatMap id) ++ zrcPieces fuel ((w :: ws).drop run.length)

/-- zrc() of a stream whose length is a multiple of 8 (R264). -/
def zrc (bs : List Byte) : List Byte := zrcPieces (bs.length / 8) (words8 bs)

/-- The expansion of zrc(); `none` when a token runs past the end (R264). -/
def unzrcPieces : Nat → List Byte → Option (List Byte)
  | 0, _ => some []
  | _, [] => some []
  | fuel + 1, b :: bs =>
    if 0x80 ≤ b.toNat then (unzrcPieces fuel bs).map fun r => List.replicate (8 * (b.toNat - 0x7F)) 0 ++ r
    else
      let n := 8 * (b.toNat + 1)
      if bs.length < n then none else (unzrcPieces fuel (bs.drop n)).map fun r => bs.take n ++ r

/-- Expand a stream. -/
def unzrc (bs : List Byte) : Option (List Byte) := unzrcPieces bs.length bs

/-- Eight steps of CRC-32C. -/
def crcByte : Nat → BitVec 32 → BitVec 32
  | 0, c => c
  | n + 1, c => crcByte n (if c.getLsbD 0 then (c >>> 1) ^^^ 0x82F63B78 else c >>> 1)

/-- CRC-32C (R263); its polynomial, reflection and initial value are the standard's (notes/assumptions/9.md). -/
def crc32c (bs : List Byte) : BitVec 32 := ~~~(bs.foldl (fun c b => crcByte 8 (c ^^^ b.setWidth 32)) 0xFFFFFFFF)

/-- A stream with its check behind it. -/
def withCrc (bs : List Byte) : List Byte := bs ++ toBytes 4 (crc32c bs).toNat

/-- A stream whose check matches, without it. -/
def checkCrc (bs : List Byte) : Option (List Byte) :=
  let d := bs.take (bs.length - 4)
  if 4 ≤ bs.length ∧ withCrc d = bs then some d else none

/-- The IV of ENC: NONCE, then the address (R263, R272). -/
def gcmIv (nonce : BitVec 32) (a : Word) : BitVec 96 := nonce ++ a

/-- The parked stream of an image: ZRC, CSUM and ENC (R272). An image that is no multiple of 8 bytes is padded with zeros. -/
def parkStream (key : BitVec 256) (nonce : BitVec 32) (win : Word) (bs : List Byte) : List Byte :=
  Config.gcmSeal key (gcmIv nonce win) (withCrc (zrc (padTo bs (roundUp bs.length 8))))

/-- The image of `n` bytes of a parked stream, if its checks hold. -/
def unparkStream (key : BitVec 256) (nonce : BitVec 32) (win : Word) (n : Nat) (bs : List Byte) : Option (List Byte) :=
  (((Config.gcmOpen key (gcmIv nonce win) bs).bind checkCrc).bind unzrc).bind fun d =>
    if d.length = roundUp n 8 then some (d.take n) else none

/-! ### Transaction barriers (R187, R261) -/

/-- Enter what the arrivals of a phase know among what completed phases know (R106). -/
def phaseKnows (completed arriving : Map Nat) (phase : Nat) : Map Nat :=
  arriving.foldl (fun m e => Map.put m (phase * 2 ^ 64 + e.1) e.2) (completed.filter fun e => e.1 / 2 ^ 64 ≠ phase)

/-- What the arrivals of a completed phase know. -/
def knowsOf (completed : Map Nat) (phase : Nat) : Map Nat :=
  (completed.filter fun e => e.1 / 2 ^ 64 = phase).map fun e => (e.1 % 2 ^ 64, e.2)

/-- The key of a barrier in State.tbKnows: even for arrivals in the current phase; the next one for completed phases. -/
def tbKey : Target → Nat
  | .pad k o => 2 * (2 ^ 40 + k * 2 ^ 18 + o)
  | .dram a => 2 * a
  | .host _ a => 2 * a
  | .peer _ a => 2 * a

/-- Fields of a transaction barrier. -/
def tbPhase (w : Nat) : Nat := bits w 0 4
def tbArrivals (w : Nat) : Nat := bits w 4 32
def tbUnits (w : Nat) : Nat := bits w 36 32
def tbReload (w : Nat) : Nat := bits w 68 32
def tbWaiter (w : Nat) : Nat := bits w 100 28

/-- The 128 bits of a transaction barrier. -/
def tbWord (phase arrivals units reload waiter : Nat) : Nat :=
  phase % 16 + arrivals % 2 ^ 32 * 2 ^ 4 + units % 2 ^ 32 * 2 ^ 36 + reload * 2 ^ 68 + waiter * 2 ^ 100

/-- complete-if-done (R187). -/
def tbDone (w : Nat) : Nat :=
  if tbArrivals w = 0 ∧ tbUnits w = 0 then tbWord (tbPhase w + 1) (tbReload w) 0 (tbReload w) (tbWaiter w) else w

/-- Write a transaction barrier, with the phase-mode knowledge that an operation on it hands over (R106). -/
def State.tbWrite (s : State) (t : Target) (old new : Nat) (knows : Map Nat) : State :=
  let key := tbKey t
  let arriving := mergeKnows (Map.lookD s.tbKnows key []) knows
  let s := s.writeTarget t (toBytes 16 new)
  if tbPhase new = tbPhase old then { s with tbKnows := Map.put s.tbKnows key arriving }
  else { s with
    tbKnows := Map.put (Map.put s.tbKnows key []) (key + 1)
      (phaseKnows (Map.lookD s.tbKnows (key + 1) []) arriving (tbPhase old)) }

/-- Subtract units of a command from its completion barrier (R261). -/
def State.tbSubtract (s : State) (n tb units : Nat) (knows : Map Nat) : State :=
  let t := Target.pad n tb
  let w := ofBytes (s.readTarget t 16)
  s.tbWrite t w (tbDone (tbWord (tbPhase w) (tbArrivals w) (tbUnits w + 2 ^ 32 - units % 2 ^ 32) (tbReload w) (tbWaiter w))) knows

end Sys2Proof.Machine
end

