-- ==== Sys2Proof/Machine/TileOps.lean ====
section
/-! DEFINITION. What X-commands share: accesses of the copy engine and the layout unit (R104, R107, R260), copy packets and their stages (R262 to R265), and completion (R260, R261). -/

namespace Sys2Proof.Machine

/-! ### Accesses by an engine -/

/-- Opcodes 0xC0 to 0xCA. -/
def opCopy : BitVec 8 := 0xC0
def opTload : BitVec 8 := 0xC1
def opTstore : BitVec 8 := 0xC2
def opTseal : BitVec 8 := 0xC3
def opTmcast : BitVec 8 := 0xC4
def opPstore : BitVec 8 := 0xC5
def opTpark : BitVec 8 := 0xC6
def opTunpark : BitVec 8 := 0xC7
def opTrepl : BitVec 8 := 0xC8
def opReqnt : BitVec 8 := 0xC9
def opTdrop : BitVec 8 := 0xCA

/-- Where an engine's access on behalf of a shard goes, or the STATUS it fails with (R76, R260). -/
inductive Place where
  | at_ (t : Target)
  | fail (status : BitVec 8)

/-- The place of a generic address for an engine of a core. -/
def State.enginePlace (s : State) (n : Nat) (sh : Shard) (use : Use) (va : Word) : Place :=
  match aperture va.toNat with
  | none => .fail 2
  | some (0, off) =>
    match s.translateFor sh.ctx off use with
    | .poisoned => .fail 9
    | .fault | .miss => .fail 1
    | .ok t => .at_ t
  | some (kind, off) =>
    let (k, o) := padOf n kind off
    if s.runsCtx k sh.ctx then .at_ (.pad k o) else .fail 2

/-- What an engine's read answers; a failure with its STATUS and the address where it was met. -/
inductive EngRead where
  | ok (bs : List Byte)
  | fail (status : BitVec 8) (at_ : Word)
  /-- A peer's reply is missing; the load has to be sent when the flag is clear. -/
  | need (port a : Nat) (sent : Bool)

/-- The shard that an engine acts for, as its core holds it now. -/
def State.onCore (s : State) (n : Nat) (sh : Shard) : Shard := ((s.core? n).bind Core.shard).getD sh

/-- Accesses of a command to host and peer windows can go out: the hub link is up (R16), and every store of the core to a host window issued before the push has left the port (R85, R96). -/
def State.portClear (s : State) (n : Nat) (x : XCmd) : Bool :=
  s.hubOk (dieOf n) && (s.core? n).all fun c => (c.cs.flight ++ c.as.flight).all fun f =>
    f.kind == .load || f.failed || f.path != 5 || decide (x.order ≤ f.order)

/-- Read up to 64 bytes inside one line (R104, R373, R398, R412). -/
def State.engineRead (s : State) (n : Nat) (sh : Shard) (msgs : List XMsg) (va : Word) (len : Nat) : EngRead :=
  match s.enginePlace n sh .read va with
  | .fail st => .fail st va
  | .at_ (.peer p a) =>
    match msgs.find? fun m => !m.write && m.va == va && m.len == len with
    | none => .need p a false
    | some m => if m.failed then .fail 10 va else match m.data with
      | some bs => .ok bs
      | none => .need p a true
  | .at_ (.host p a) => if (Map.look s.hostDown p).isSome then .fail 10 va else .ok (s.readTarget (.host p a) len)
  | .at_ t =>
    if s.poisoned t len then .fail 9 va
    else if (s.raceAt (s.onCore n sh) t len false true false).isSome then .fail 4 va
    else .ok (s.readTarget t len)

/-- A line that a copy reads or writes is charged to TASKDATA: its column access, with an activate where `flag` says that its row was opened for it, and its flits (R322, R333, R334). -/
def State.chargePiece (s : State) (n : Nat) : Target → State
  | .dram a =>
    let path := (s.freePath (dieOf n) (a / 2 ^ 36 % 8)).getD 0
    let s := if s.args.flag then s.rowOpened (rowPlace a) actTask else s
    (s.charge (a / 2 ^ 34 % 32) actTask 1).chargeFlits (dieOf n) (a / 2 ^ 36 % 8) path actTask 1
  | .pad _ _ => s
  | _ => s.chargeHub (dieOf n) actTask 1

/-- Enter an engine's read of scratchpad or cell memory into the detector's metadata (R104), and charge it. -/
def State.engineNote (s : State) (n : Nat) (sh : Shard) (va : Word) (len : Nat) : State :=
  match s.enginePlace n sh .read va with
  | .at_ t =>
    let s := s.chargePiece n t
    if s.hitsSealed t len then s else s.watch n sh t len false true false
  | .fail _ => s

/-- Send a message of an X-command to a peer (R85, R348): its place in the core's queue is `idx`. -/
def State.sendX (s : State) (n : Nat) (sh : Shard) (idx port a : Nat) (va : Word) (len : Nat) (bs : Option (List Byte)) : State :=
  let payload := bs.getD []
  let typ := if bs.isSome then 1 else 2
  let hdr := messageHeader typ 0 (Config.peerCtx port sh.ctx) s.tag payload.length a (if bs.isSome then 0 else len)
  let m : XMsg := { tag := s.tag, va := va, len := len, write := bs.isSome, data := none, failed := false }
  let s := s.updCore n fun c => { c with xqueue := c.xqueue.modify idx fun x => { x with msgs := x.msgs ++ [m] } }
  { s with
    sent := s.sent ++ [{ port := port, hdr := hdr, payload := payload }]
    outstanding := s.outstanding ++ [{ port := port, tag := s.tag, typ := BitVec.ofNat 8 typ, core := n, strm := .c, va := va, engine := true, since := s.now }]
    tag := s.tag + 1 }

/-- Write up to 64 bytes inside one line, or fail with a STATUS and the address (R74, R107, R398). -/
def State.engineWrite (s : State) (n : Nat) (sh : Shard) (idx : Nat) (va : Word) (bs : List Byte) : State × Option (BitVec 8 × Word) :=
  match s.enginePlace n sh .write va with
  | .fail st => (s, some (st, va))
  | .at_ (.peer p a) => ((s.chargePiece n (.peer p a)).sendX n sh idx p a va bs.length (some bs), none)
  | .at_ (.host p a) => if (Map.look s.hostDown p).isSome then (s, some (10, va)) else ((s.chargePiece n (.host p a)).writeTarget (.host p a) bs, none)
  | .at_ t =>
    if s.hitsSealed t bs.length then (s, some (3, va))
    else if (s.raceAt (s.onCore n sh) t bs.length true true false).isSome then (s, some (4, va))
    else ((((s.chargePiece n t).watch n sh t bs.length true true false).writeTarget t bs).updCore n fun c => c.cacheDrop t, none)

/-- Cut a run of bytes into pieces that stay inside 64-byte lines; `fuel` bounds them. -/
def lineSegs : Nat → Word → Nat → List (Word × Nat)
  | 0, _, _ => []
  | fuel + 1, va, n =>
    if n = 0 then []
    else
      let m := min n (64 - va.toNat % 64)
      (va, m) :: lineSegs fuel (va + BitVec.ofNat 64 m) (n - m)

/-- Read pieces in order: all their bytes, or the first failure. -/
def State.engineReads (s : State) (n : Nat) (sh : Shard) (msgs : List XMsg) : List (Word × Nat) → EngRead
  | [] => .ok []
  | (va, len) :: r =>
    match s.engineRead n sh msgs va len with
    | .ok bs => match s.engineReads n sh msgs r with
      | .ok rest => .ok (bs ++ rest)
      | x => x
    | x => x

/-- Enter the reads of pieces. -/
def State.engineNotes (s : State) (n : Nat) (sh : Shard) (segs : List (Word × Nat)) : State :=
  segs.foldl (fun s p => s.engineNote n sh p.1 p.2) s

/-- Write bytes to pieces in order; a piece that fails is skipped, and the first failure is kept (R265, R372). -/
def State.engineWrites (s : State) (n : Nat) (sh : Shard) (idx : Nat) : List (Word × Nat) → List Byte → State × Option (BitVec 8 × Word)
  | [], _ => (s, none)
  | (va, len) :: r, bs =>
    let (s, e) := s.engineWrite n sh idx va (slice bs 0 len)
    let (s, e') := s.engineWrites n sh idx r (bs.drop len)
    (s, e.orElse fun _ => e')

/-- A 64-byte line or granule is no longer marked poisoned (R373). -/
def State.unpoison (s : State) : Target → State
  | .pad k o => s.updCore k fun c => { c with padPoison := clearPoison c.padPoison (o / 64 * 64) 64 }
  | .dram a => { s with poison := clearPoison s.poison (a / 64 * 64) 64 }
  | _ => s

/-- A copy that has written every byte of a line or granule clears its mark, in however many pieces (R373). A line that two groups of units share is judged when the second has been written (notes/assumptions/59.md). -/
def State.coverLines (s : State) (n : Nat) (sh : Shard) (segs : List (Word × Nat)) : State :=
  segs.foldl (fun s p =>
    let l := 64 * (p.1.toNat / 64)
    match s.enginePlace n sh .write (BitVec.ofNat 64 l) with
    | .at_ t =>
      if s.poisoned t 64 ∧ (List.range 64).all fun b => segs.any fun q => decide (q.1.toNat ≤ l + b) && decide (l + b < q.1.toNat + q.2) then s.unpoison t else s
    | .fail _ => s) s

/-- Loads to peers that pieces need and that have not been sent. -/
def State.engineNeeds (s : State) (n : Nat) (sh : Shard) (msgs : List XMsg) (segs : List (Word × Nat)) : List (Word × Nat × Nat × Nat) :=
  segs.filterMap fun p => match s.engineRead n sh msgs p.1 p.2 with
    | .need port a false => some (p.1, p.2, port, a)
    | _ => none

/-- A reply that pieces need has not come. -/
def State.engineWaits (s : State) (n : Nat) (sh : Shard) (msgs : List XMsg) (segs : List (Word × Nat)) : Bool :=
  segs.any fun p => match s.engineRead n sh msgs p.1 p.2 with
    | .need _ _ _ => true
    | _ => false

/-! ### Copy packets (R262, R263) -/

/-- A copy packet. -/
structure Packet where
  src : Word
  dst : Word
  len : Nat
  dcap : Nat
  aux : Word
  packw : Nat
  packs : Nat
  keyid : Nat
  nonce : BitVec 32
  decode : Bool
  stype : Nat
  dtype : Nat
  qg : Nat
  fill : Bool
  cvt : Bool
  qnt : Bool
  pack : Bool
  zrc : Bool
  csum : Bool
  enc : Bool
deriving DecidableEq, Repr

/-- The fields of a packet. -/
def Packet.of (bs : List Byte) : Packet :=
  let w := field bs 0x18 8
  { src := BitVec.ofNat 64 (field bs 0 8), dst := BitVec.ofNat 64 (field bs 8 8), len := field bs 0x10 4, dcap := field bs 0x14 4,
    aux := BitVec.ofNat 64 (field bs 0x20 8), packw := field bs 0x28 4, packs := field bs 0x2C 4, keyid := field bs 0x30 1,
    nonce := BitVec.ofNat 32 (field bs 0x34 4), decode := bitAt w 63, stype := bits w 20 4, dtype := bits w 16 4, qg := bits w 14 2,
    fill := bitAt w 13, cvt := bitAt w 12, qnt := bitAt w 11, pack := bitAt w 10, zrc := bitAt w 9, csum := bitAt w 8, enc := bitAt w 7 }

/-- One of the stages that make the copy a single stream (R265). -/
def Packet.whole (p : Packet) : Bool := p.zrc || p.csum || p.enc

/-- The type of the elements that enter the element stages, and of those that leave them. -/
def Packet.tin (p : Packet) : Nat := if p.decode then p.dtype else p.stype
def Packet.tout (p : Packet) : Nat := if p.decode then p.stype else p.dtype

/-- Most bytes that may be written at DST (R262). -/
def Packet.cap (p : Packet) : Nat := if p.dcap = 0 then p.len else p.dcap

/-- Elements of a QNT group. -/
def Packet.group (p : Packet) : Nat := 32 * 2 ^ p.qg

/-- Bytes that leave the element stages for `n` bytes that enter them. -/
def Packet.outLen (p : Packet) (n : Nat) : Nat :=
  if p.cvt || p.qnt then n * 8 / typeWidth p.tin * typeWidth p.tout / 8 else n

/-- A stream of `n` bytes is not a whole number of elements, before or after the element stages (R263). -/
def Packet.ragged (p : Packet) (n : Nat) : Bool :=
  (p.cvt || p.qnt) && (n * 8 % typeWidth p.tin != 0 || n * 8 / typeWidth p.tin * typeWidth p.tout % 8 != 0)

/-- Two runs of generic addresses share a byte. -/
def overlaps (a n b m : Nat) : Bool := decide (a < b + m) && decide (b < a + n)

/-- The runs of generic addresses that the source covers (R263). -/
def Packet.sources (p : Packet) : List (Nat × Nat) :=
  if p.fill then [] else if p.pack ∧ ¬p.decode then (List.range (p.len / p.packw)).map fun k => ((p.src + BitVec.ofNat 64 (k * p.packs)).toNat, p.packw)
  else [(p.src.toNat, p.len)]

/-- The runs of generic addresses that `n` bytes cover at the destination. -/
def Packet.dests (p : Packet) (n : Nat) : List (Nat × Nat) :=
  if p.pack ∧ p.decode then (List.range (ceilDiv n p.packw)).map fun k => ((p.dst + BitVec.ofNat 64 (k * p.packs)).toNat, min p.packw (n - k * p.packw))
  else [(p.dst.toNat, n)]

/-- Source and destination overlap (R265). -/
def Packet.overlapping (p : Packet) (n : Nat) : Bool :=
  p.sources.any fun a => (p.dests n).any fun b => overlaps a.1 a.2 b.1 b.2

/-- A packet is malformed (R263, R265). The element types of QNT are those of R118. -/
def Packet.malformed (bs : List Byte) : Bool :=
  let p := Packet.of bs
  let w := field bs 0x18 8
  let q (t : Nat) : Bool := t == 0 || t == 1 || t == 14 || t == 15
  bits w 24 39 != 0 || bits w 0 7 != 0 || !zeroRange bs 0x31 3 || !zeroRange bs 0x38 8 || p.len == 0 || decide (2 ^ 24 < p.len)
  || (p.fill && (p.decode || p.qnt || p.pack || p.whole)) || (p.cvt && p.qnt) || (p.qnt && p.qg == 3)
  || (p.pack && (p.packw == 0 || decide (p.packs < p.packw) || p.len % p.packw != 0))
  || (p.qnt && (!q p.dtype || !isFloat p.stype)) || p.stype == 13 || p.dtype == 13
  || (!(p.decode && p.whole) && p.ragged p.len)
  || (p.zrc && !p.decode && p.outLen p.len % 8 != 0)
  || (!p.whole && p.overlapping (p.outLen p.len))

/-- The run of generic addresses that the scale words of QNT cover (R263). -/
def Packet.auxRun (p : Packet) : List (Nat × Nat) :=
  if ¬p.qnt ∨ p.fill then []
  else
    let elems := if p.decode ∧ p.whole then p.cap * 8 / typeWidth p.tout else p.len * 8 / typeWidth p.tin
    [(p.aux.toNat, 4 * ceilDiv elems p.group)]

/-- Units of a copy (R265). -/
def Packet.units (p : Packet) : Nat := ceilDiv p.len 64

/-- Pieces of the stream from byte `lo`, `n` bytes long, where row k of `w` bytes starts at base + k × stride; `fuel` bounds the rows. -/
def rowSegs (base : Word) (w stride : Nat) : Nat → Nat → Nat → List (Word × Nat)
  | 0, _, _ => []
  | fuel + 1, lo, n =>
    if n = 0 then []
    else
      let m := min n (w - lo % w)
      lineSegs (m + 1) (base + BitVec.ofNat 64 (lo / w * stride + lo % w)) m ++ rowSegs base w stride fuel (lo + m) (n - m)

/-- Source pieces of bytes lo to lo + n − 1 of the stream. -/
def Packet.srcSegs (p : Packet) (lo n : Nat) : List (Word × Nat) :=
  if p.fill then []
  else if p.pack ∧ ¬p.decode then rowSegs p.src p.packw p.packs (n + 1) lo n
  else lineSegs (n + 1) (p.src + BitVec.ofNat 64 lo) n

/-- Destination pieces of bytes lo to lo + n − 1 of the result. -/
def Packet.dstSegs (p : Packet) (lo n : Nat) : List (Word × Nat) :=
  if p.pack ∧ p.decode then rowSegs p.dst p.packw p.packs (n + 1) lo n
  else lineSegs (n + 1) (p.dst + BitVec.ofNat 64 lo) n

/-- Scale pieces of the QNT groups of bytes lo to lo + n − 1 that enter the stage. -/
def Packet.auxSegs (p : Packet) (lo n : Nat) : List (Word × Nat) :=
  if ¬p.qnt then []
  else
    let per := p.group * typeWidth p.tin / 8
    (List.range (ceilDiv (lo + n) per - lo / per)).flatMap fun g => lineSegs 5 (p.aux + BitVec.ofNat 64 (4 * (lo / per + g))) 4

/-- The elements of a stream. -/
def streamElems (t : Nat) (bs : List Byte) : List Nat := (List.range (bs.length * 8 / typeWidth t)).map (elemOf (typeWidth t) bs)

/-- CVT of one element (R263): rounding with rne, no flags. -/
def cvtElem (src dst b : Nat) : Nat :=
  if isInt src then
    if isInt dst then ofInt dst (clampInt (intMin dst) (intMax dst) (intOf src b)).1 else (roundTo dst 0 0 false (valOfInt (intOf src b))).1
  else if isInt dst then (toIntType dst 0 0 (valOf src b)).1 else (roundTo dst 0 0 false (valOf src b)).1

/-- Cut a list into groups of `g`; `fuel` bounds them. -/
def groupsOf {α : Type} (g : Nat) : Nat → List α → List (List α)
  | 0, _ => []
  | _, [] => []
  | fuel + 1, xs => xs.take g :: groupsOf g fuel (xs.drop g)

/-- The scale word of a quantised group (R243). -/
def scaleWord (sb zp : Nat) : List Byte := toBytes 2 sb ++ toBytes 1 zp ++ [0]

/-- Dequantise one element with its group's scale word, exactly, then rounded (R118, R263). -/
def dequant (t dst : Nat) (scale : List Byte) (q : Nat) : Nat :=
  let zp := intOf t (field scale 2 1 % 2 ^ typeWidth t)
  (roundTo dst 0 0 false ((valOf 8 (field scale 0 2)).mul (valOfInt (intOf t q - zp))).1).1

/-- The element stages on a piece of the stream: the bytes that leave, and the scale words written (R263). `scales` holds the scale words read. -/
def Packet.elements (p : Packet) (bs scales : List Byte) : List Byte × List Byte :=
  let xs := streamElems p.tin bs
  if p.cvt then (packElems (typeWidth p.tout) (xs.map (cvtElem p.tin p.tout)), [])
  else if p.qnt then
    let gs := groupsOf p.group xs.length xs
    if p.decode then
      (packElems (typeWidth p.tout) ((gs.zipIdx).flatMap fun g => g.1.map (dequant p.tin p.tout (slice scales (4 * g.2) 4))), [])
    else
      let qs := gs.map fun g => quantise p.tout (g.map (valOf p.tin))
      (packElems (typeWidth p.tout) (qs.flatMap fun q => q.2.2.1), qs.flatMap fun q => scaleWord q.1 q.2.1)
  else (bs, [])

/-- The FILL pattern's bytes (R263). -/
def Packet.fillBytes (p : Packet) (lo n : Nat) : List Byte :=
  (List.range n).map fun i => BitVec.ofNat 8 (p.aux.toNat / 2 ^ (8 * ((lo + i) % 8)))

/-- Source bytes that are read before any of them is written: a sector, or with QNT the sectors of a group (R118, R265). -/
def Packet.chunk (p : Packet) : Nat := if p.qnt then max 64 (p.group * typeWidth p.tin / 8) else 64

/-! ### Completion (R260, R261) -/

/-- The completion value. -/
def completionValue (written : Nat) (status : BitVec 8) : Word := BitVec.ofNat 64 (2 ^ 63 + written * 2 ^ 8 + status.toNat)

/-- Subtract units of a command as far as it announces any (R261), and hand over what its shard knows (R106). -/
def State.subtractX (s : State) (n : Nat) (sh : Shard) (x : XCmd) (units : Nat) : State :=
  if x.cm.getLsbD 1 ∧ 0 < units then
    let s := (s.tbSubtract n x.tb units sh.release).tickClock n
    if x.op = opCopy then s.updCore n fun c => { c with latches := setBit c.latches 2 true } else s
  else s

/-- A command completes or has failed: its remaining units, its register or its fault record, and its place in the queue (R260, R261, R377). -/
def State.completeX (s : State) (n : Nat) (sh : Shard) (idx : Nat) (x : XCmd) (written units : Nat) (status : BitVec 8) : State :=
  let s := s.updCore n fun c => { c with xqueue := c.xqueue.eraseIdx idx }
  let s := s.subtractX n sh x (units - x.subtracted)
  let s :=
    if x.cm.getLsbD 0 then
      s.updCore n fun c =>
        let c := { c.settleReg x.rd (completionValue written status) with fresh := if x.rd = 0 then c.fresh else Map.put c.fresh x.rd sh.release }
        if x.op = opCopy then { c with latches := setBit c.latches 2 true } else c
    else if status ≠ 0 then
      (s.postFault sh.ctx
        { typ := 2, cls := x.cls.getD (if status = 9 ∧ x.failAt ≠ 0 then s.poisonClass n sh x.failAt true else 0xFF), cause := status.toNat, strm := 3,
          core := n, shard := sh.num, taskId := sh.taskId, tval := x.failAt,
          pc := x.pc, addr := x.ra, index := if x.op = opCopy ∨ x.cb then 0 else x.rb }).1
    else s
  s.freeWaiting

end Sys2Proof.Machine
end

