-- ==== Sys2Proof/Machine/Tile.lean ====
section
/-! DEFINITION. X-commands: their push (R258, R259, R267), copies (R262 to R266), tile reads and writes (R267 to R270), sealing, replicas, parking and dropping (R271 to R273), and the steps of the device that start and complete them. -/

namespace Sys2Proof.Machine

/-! ### The push (R259) -/

/-- The offset of a local-aperture address. -/
def localOff (v : Word) : Option Nat :=
  match aperture v.toNat with
  | some (1, off) => some off
  | _ => none

/-- The reference held in two registers. -/
def refOf (ra rb : Word) : BitVec 128 := rb ++ ra

/-- A pure shard may read the version a reference names: it is one of its resolved inputs (R267). -/
def Shard.mayRead (sh : Shard) (r : BitVec 128) : Bool := !sh.pure || sh.ins.contains r

/-- A pure shard may write the version a reference names: it is one of its outputs (R267). -/
def Shard.mayWrite (sh : Shard) (r : BitVec 128) : Bool := !sh.pure || sh.outs.contains r

/-- A run of generic addresses reaches the global aperture, at its start or past the last address, or the scratchpad of another core of the cluster (R36, R70). -/
def awayRun (n : Nat) (r : Nat × Nat) : Bool :=
  let lo := max r.1 (apertureBase 2).1
  let hi := min (r.1 + max 1 r.2) ((apertureBase 2).1 + (apertureBase 2).2 + 1)
  let own := (apertureBase 2).1 + n % 96 * 0x40000
  decide (r.1 < 2 ^ 56) || decide (2 ^ 64 < r.1 + r.2) || (decide (lo < hi) && (decide (lo < own) || decide (own + 0x40000 < hi)))

/-- What a copy reads or writes, the scale array of its QNT stage included, reaches the global aperture or another core's scratchpad (R36, R267); a malformed packet accesses nothing, and its addresses alone are looked at. -/
def impureCopy (n : Nat) (bs : List Byte) : Bool :=
  let p := Packet.of bs
  if Packet.malformed bs then
    (!p.fill && awayRun n (p.src.toNat, 1)) || awayRun n (p.dst.toNat, 1) || (p.qnt && !p.fill && awayRun n (p.aux.toNat, 1))
  else p.sources.any (awayRun n) || (p.dests (if p.whole then p.cap else p.outLen p.len)).any (awayRun n) || p.auxRun.any (awayRun n)

/-- Check 1 of R259: the register that names no place inside the local aperture. -/
def xCheck1 (op : BitVec 8) (cb : Bool) (ra rc : Word) : Option Word :=
  if op = opCopy then (if (localOff ra).isNone then some ra else none)
  else if op = opReqnt ∨ op = opTpark then (if (localOff rc).isNone then some rc else none)
  else if op = opTload ∨ op = opTstore ∨ op = opPstore then (if rc.toNat / 2 ^ 18 ≠ 0 then some rc else none)
  else if op = opTmcast then (if rc.toNat / 2 ^ 33 ≠ 0 then some rc else none)
  else if cb then none else none

/-- Check 2 of R259: the misaligned value. -/
def xCheck2 (op : BitVec 8) (cb : Bool) (ra rc : Word) : Option Word :=
  if op = opCopy then (if ra.toNat % 64 ≠ 0 then some ra else none)
  else if op = opReqnt then (if rc.toNat % 16 ≠ 0 then some rc else none)
  else if op = opTpark then (if rc.toNat % 32 ≠ 0 then some rc else none)
  else if op = opTload ∨ op = opTstore ∨ op = opPstore ∨ op = opTmcast then
    (if bits rc.toNat 0 18 % 64 ≠ 0 then some (BitVec.ofNat 64 (bits rc.toNat 0 18)) else none)
  else if cb then (if ra.toNat % 64 ≠ 0 then some ra else none) else none

/-- Check 3 of R259: the purity fault's CR.TVAL; `packet` is what the push reads, empty where that is poisoned, which leaves the engine nothing to act on (R260). -/
def xCheck3 (n : Nat) (sh : Shard) (op : BitVec 8) (ra rb rc : Word) (packet : List Byte) : Option Word :=
  if ¬sh.pure then none
  else if op = opCopy then (if packet ≠ [] ∧ impureCopy n packet then some ra else none)
  else if op = opTseal ∨ op = opTdrop ∨ op = opTpark then some ra
  else if op = opTstore ∨ op = opPstore then (if sh.mayWrite (refOf ra rb) then none else some ra)
  else if ¬sh.mayRead (refOf ra rb) then some ra
  else if op = opReqnt then (if packet = [] ∨ sh.mayWrite (BitVec.ofNat 128 (ofBytes packet)) then none else some rc)
  else none

/-- The local bytes that a push reads: offset and length (R262, R270, R272). -/
def xReads (op : BitVec 8) (ra rc : Word) : Option (Nat × Nat) :=
  if op = opCopy then (localOff ra).map fun o => (o, 64)
  else if op = opReqnt then (localOff rc).map fun o => (o, 16)
  else if op = opTpark then (localOff rc).map fun o => (o, 32)
  else none

/-- The push commits an impure shard (R37). -/
def xCommits (sh : Shard) (op : BitVec 8) (ra rb : Word) : Bool :=
  op == opTseal || op == opTdrop || op == opTpark || ((op == opTstore || op == opPstore) && !sh.outs.contains (refOf ra rb))

/-- The bytes that a push reads from the core's scratchpad, none where one of them is poisoned: the command then fails with STATUS 9 (R260, R373). -/
def State.xPacket (s : State) (n : Nat) (pad : List Host.Cell) (op : BitVec 8) (ra rc : Word) : List Byte :=
  match xReads op ra rc with
  | some (o, len) => if s.poisoned (.pad n o) len then [] else Memory.getN pad o len
  | none => []

/-- The STATUS that a command has from its push on: data lost, if what the push reads was poisoned, or a memory-model exception, if that read races (R104, R107, R398). -/
def State.xStatus (s : State) (n : Nat) (sh : Shard) (op : BitVec 8) (ra rc : Word) (packet : List Byte) : Option (BitVec 8) :=
  match xReads op ra rc with
  | none => none
  | some (o, len) =>
    if packet = [] then some 9
    else if (s.raceAt sh (.pad n o) len false true false).isSome then some 4
    else none

/-- The read that a push makes of the core's scratchpad is entered into the detector's metadata, if it succeeded (R104). -/
def State.xEnter (s : State) (n : Nat) (sh : Shard) (op : BitVec 8) (ra rc : Word) (status : Option (BitVec 8)) : State :=
  match xReads op ra rc, status with
  | some (o, len), none => s.watch n sh (.pad n o) len false true false
  | _, _ => s

/-- Push an X-command (R258, R259). `flags` gives the barrier's offset when cm[1] is set. -/
def pushX (op : BitVec 8) (cb : Bool) (rd ra rb rc : BitVec 6) (cm : BitVec 2) (flags : BitVec 14) (s : State) : Out :=
  runC s fun c sh => c.ready s ([ra, rb, rc] ++ if cm.getLsbD 0 then [rd] else []) (
    let n := s.curCore
    let a := c.sreg ra
    let b := c.sreg rb
    let d := c.sreg rc
    let packet := s.xPacket n c.pad op a d
    match xCheck1 op cb a d with
    | some v => .trap 13 v
    | none => match xCheck2 op cb a d with
      | some v => .trap 11 v
      | none => match xCheck3 n sh op a b d packet with
        | some v => .trap 10 v
        | none =>
          c.release s 0 (
            if 16 ≤ c.xqueue.length then .wait s .engine
            else
              let st := s.xStatus n sh op a d packet
              let x : XCmd :=
                { op := op, ra := a, rb := b, rc := d, rd := rd.toNat, cm := cm, tb := flags.toNat * 16, cb := cb, packet := packet,
                  pc := c.cs.pc, order := s.order, since := s.now, started := false, groups := 0, subtracted := 0, written := 0, status := st, pushed := st,
                  cls := none, failAt := if st.isNone then 0 else if op = opCopy then a else d, msgs := [], sent := false }
              let c := if cm.getLsbD 0 then c.setPending rd else c
              let s := (s.put { c with xqueue := c.xqueue ++ [x] }).xEnter n sh op a d st
              let s := if xCommits sh op a b then s.commit n else s
              .done ((s.syncPoint n).tickClock n)))

/-- COPY executes the packet at local address ra (R262). -/
def execCopy (rd ra : BitVec 6) (cm : BitVec 2) (flags : BitVec 14) (s : State) : Out := pushX opCopy false rd ra 0 0 cm flags s

/-- TLOAD copies a sealed version into an image of the own scratchpad (R268). -/
def execTload (rd ra rb rc : BitVec 6) (cm : BitVec 2) (flags : BitVec 14) (s : State) : Out := pushX opTload false rd ra rb rc cm flags s

/-- TMCAST copies a sealed version into images of cores of an array group (R268). -/
def execTmcast (rd ra rb rc : BitVec 6) (cm : BitVec 2) (flags : BitVec 14) (s : State) : Out := pushX opTmcast false rd ra rb rc cm flags s

/-- TSTORE writes an image into a version (R269). -/
def execTstore (rd ra rb rc : BitVec 6) (cm : BitVec 2) (flags : BitVec 14) (s : State) : Out := pushX opTstore false rd ra rb rc cm flags s

/-- PSTORE writes an image and its transposed twin (R269). -/
def execPstore (rd ra rb rc : BitVec 6) (cm : BitVec 2) (flags : BitVec 14) (s : State) : Out := pushX opPstore false rd ra rb rc cm flags s

/-- TSEAL, tile form (R271). -/
def execTseal (rd ra rb : BitVec 6) (reg : Bool) (s : State) : Out := pushX opTseal false rd ra rb 0 (if reg then 1 else 0) 0 s

/-- TSEAL.cb seals the lines of a control block (R74, R271). -/
def execTsealCb (rd ra rb : BitVec 6) (reg : Bool) (s : State) : Out := pushX opTseal true rd ra rb 0 (if reg then 1 else 0) 0 s

/-- TPARK copies a version to a host window and marks it parked (R272). -/
def execTpark (rd ra rb rc : BitVec 6) (cm : BitVec 2) (flags : BitVec 14) (s : State) : Out := pushX opTpark false rd ra rb rc cm flags s

/-- TUNPARK fetches a parked version back (R272). -/
def execTunpark (rd ra rb : BitVec 6) (cm : BitVec 2) (flags : BitVec 14) (s : State) : Out := pushX opTunpark false rd ra rb 0 cm flags s

/-- TREPL writes a replica on a target die (R272). -/
def execTrepl (rd ra rb rc : BitVec 6) (cm : BitVec 2) (flags : BitVec 14) (s : State) : Out := pushX opTrepl false rd ra rb rc cm flags s

/-- REQNT requantises a master tile into an output version (R270). -/
def execReqnt (rd ra rb rc : BitVec 6) (cm : BitVec 2) (flags : BitVec 14) (s : State) : Out := pushX opReqnt false rd ra rb rc cm flags s

/-- TDROP drops a version (R272). -/
def execTdrop (rd ra rb : BitVec 6) (cm : BitVec 2) (flags : BitVec 14) (s : State) : Out := pushX opTdrop false rd ra rb 0 cm flags s

/-! ### References -/

/-- The tensor of a reference, or STATUS 5 or 9 (R253, R254, R267, R373). -/
def State.checkRef (s : State) (sh : Shard) (r : Ref) : BitVec 8 ⊕ Tensor :=
  match s.tensor sh.ctx r.handle with
  | .unbound => .inl 5
  | .malformed => .inl 5
  | .lost => .inl 9
  | .ok t => if t.badRef r ∨ (r.latest ∧ s.det sh.ctx) then .inl 5 else .inr t

/-- The sealed version a reference names, with its exact reference, or STATUS 6 (R268); a rebuild task reads a dropped input that a rebuild has made present again (R415).
A version that is not present is a later need, which joins its rebuild: the command is held until the version is present or unrecoverable (R416, R418, R420; DEDUCED, log 11). -/
def State.sealedVersion (s : State) (sh : Shard) (r : Ref) : BitVec 8 ⊕ (Ref × Nat × Version) :=
  match s.resolveRef sh.ctx r with
  | none => .inl 6
  | some r' => match s.findVersion sh.ctx r' with
    | none => .inl 6
    | some (key, v) =>
      if ¬s.live v ∧ ¬(sh.rebuild ∧ v.sealed_) then .inl 6 else .inr (r', key, v)

/-- The image a reference names: T = 1 names the twin's (R254). -/
def Version.imageOf (v : Version) (twin : Bool) : List Byte := if twin then v.twin.getD [] else v.image

/-- The reference of a command. -/
def XCmd.ref (x : XCmd) : Ref := Ref.of (refOf x.ra x.rb)

/-- The output reference of REQNT. -/
def XCmd.outRef (x : XCmd) : Ref := Ref.of (BitVec.ofNat 128 (ofBytes x.packet))

/-- A rebuild task's REQNT to an output whose record has been freed: it writes nothing (R270, R417). -/
def XCmd.toNowhere (x : XCmd) (sh : Shard) : Bool := sh.rebuild && x.outRef.handle == 0xFFFFFFFF

/-- Target cores of TLOAD and TMCAST (R268). -/
def XCmd.targets (x : XCmd) (n : Nat) : List Nat :=
  if x.op = opTload then [n]
  else ((List.range 12).filter fun i => bitAt x.rc.toNat (21 + i)).map fun i => clusterBase n + 12 * bits x.rc.toNat 18 3 + i

/-- Units of a command (R265, R268 to R272); none when no descriptor gives the image size. -/
def State.unitsX (s : State) (n : Nat) (sh : Shard) (x : XCmd) : Option Nat :=
  let size (r : Ref) : Option Nat := match s.tensor sh.ctx r.handle with
    | .ok t => some (ceilDiv t.imageSize 64)
    | _ => none
  if (x.op = opCopy ∨ x.op = opReqnt) ∧ x.packet = [] then none
  else if x.op = opCopy then some (Packet.of x.packet).units
  else if x.op = opTload ∨ x.op = opTmcast then (size x.ref).map fun u => u * (x.targets n).length
  else if x.op = opTstore then size x.ref
  else if x.op = opPstore then (size x.ref).map (2 * ·)
  else if x.op = opReqnt then size x.outRef
  else if x.op = opTseal then some 0
  else some 1

/-- A command completes with a status and a count of bytes; units that no descriptor gives are a free value. -/
def State.endX (s : State) (n : Nat) (sh : Shard) (idx : Nat) (x : XCmd) (written : Nat) (status : BitVec 8) : State :=
  match s.unitsX n sh x with
  | some u => s.completeX n sh idx x written u status
  | none => { s with free := s.free + 1 }.completeX n sh idx x written ((Config.freeWord s.free).toNat % 2 ^ 32) status

/-! ### Start (R96, R267 to R273) -/

/-- A version another task of the context names as an output, while that task is in a store or running (R267). -/
def State.othersOutput (s : State) (sh : Shard) (r : Ref) : Bool :=
  s.tasks.any fun e => e.1 != sh.task && e.2.ctx == sh.ctx && e.2.outs.any fun o => Ref.of o == r

/-- The rebuild task of a shard re-seals a version (R417). -/
def State.rebuilds (s : State) (sh : Shard) (v : Version) : Bool :=
  sh.rebuild && !v.present && (Map.look s.tasks sh.task).any fun t => match t.rebuild, v.record with
    | some l, some r => l.contains r
    | _, _ => false

/-- A TDROP or TPARK has found the version it names unsealed: a report that seals it is then not of this clk, since the seal would come first (R274). -/
def State.askedFor (s : State) (sh : Shard) (x : XCmd) : State :=
  if x.op = opTdrop ∨ x.op = opTpark then
    match s.findVersion sh.ctx x.ref with
    | some (key, v) => if v.sealed_ then s else s.updVersion key fun v => { v with asked := some s.now }
    | none => s
  else s

/-- STATUS of a start that fails, or the command as it goes on: its "latest" reference resolved, and what else it keeps (R268 to R273). -/
def State.startX (s : State) (sh : Shard) (x : XCmd) : State × XCmd :=
  let fail (st : BitVec 8) : State × XCmd := (s, { x with status := some st })
  if x.status.isSome then (s, x)
  else if x.op = opCopy then (if Packet.malformed x.packet then fail 5 else (s, x))
  else if x.op = opTseal ∧ x.cb then
    let len := x.rb.toNat
    if len % 64 ≠ 0 ∨ len < 64 ∨ 2 ^ 24 < len then fail 5
    else if 2 ^ 56 < x.ra.toNat + len then fail 2
    else match s.range sh.ctx .read x.ra.toNat len with
      | .fault => fail 1
      | .poisoned => fail 9
      | .ok ps => if ps.any fun p => match p.1 with | .dram _ => false | _ => true then fail 1 else (s, x)
  else match s.checkRef sh x.ref with
    | .inl st =>
      if (x.op = opTstore ∨ x.op = opPstore) ∧ sh.rebuild ∧ x.ref.handle = 0xFFFFFFFF then (s, x) else fail st
    | .inr t =>
      if x.op = opTstore ∨ x.op = opPstore then
        if x.ref.latest ∨ x.ref.twin ∨ (t.twin ≠ (x.op = opPstore)) then fail 5 else (s, x)
      else if x.op = opTseal then
        if x.ref.latest then fail 5
        else match s.findVersion sh.ctx x.ref with
          | none => fail 6
          | some (key, v) =>
            if v.sealed_ ∨ s.seals.any fun q => q.version = key then fail 3
            else if ¬v.writers.any fun w => w.2.2 = (sh.task, sh.num) then fail 6
            else if sh.outs.any fun o => (Ref.of o).plain = v.ref then fail 5
            else
              ({ s with seals := s.seals ++ [
                  { version := key, task := some sh.task, outix := 0, round := none, root := true, replica := true, impure := false,
                    reseal := false, since := s.now, die := dieOf s.args.core }] }, x)
      else
        let target := if bitAt x.rc.toNat 3 then none else some (bits x.rc.toNat 0 3)
        let bad : Bool :=
          (x.op == opTrepl && (x.rc.toNat / 16 != 0))
          || (x.op == opReqnt && (t.quant != 0 || !(t.etype == 10 || t.etype == 9 || t.etype == 8)))
        if bad then fail 5
        else
          let stores := x.op = opReqnt ∧ ¬x.toNowhere sh
          let out : BitVec 8 ⊕ Tensor := if stores then s.checkRef sh x.outRef else .inr t
          match out with
          | .inl st => fail st
          | .inr o =>
            if stores ∧ (x.outRef.latest ∨ x.outRef.twin ∨ o.quant = 0 ∨ o.tr ≠ t.tr ∨ o.tc ≠ t.tc) then fail 5
            else match s.sealedVersion sh x.ref with
              | .inl st => (s.askedFor sh x, { x with status := some st })
              | .inr (r, _, v) =>
                let w := r.word
                let x := { x with ra := w.extractLsb' 0 64, rb := w.extractLsb' 64 64 }
                if x.op = opTrepl then
                  let home := (s.recordOf v).elim 0 Record.home
                  let to_ := target.getD (home ^^^ 4)
                  if to_ = home ∨ ¬s.dies.getLsbD to_ then (s, { x with status := some 5 }) else (s.startFetch v, x)
                else if x.op = opTpark ∨ x.op = opTdrop then (s, x)
                else (s.startFetch v, { x with written := if x.op = opTunpark ∧ ¬s.readable v then v.image.length + v.twin.elim 0 List.length else 0 })

/-- X_COMMAND_START: the oldest command of the core's queue that has not started starts (R96). -/
def execXCommandStart (s : State) : Out :=
  onShard s fun c sh =>
    let n := s.args.core
    match (if c.resuming.isSome then none else c.xqueue.findIdx? fun x => !x.started) with
    | none => .refused .notEnabled
    | some k => match c.xqueue[k]? with
      | none => .refused .notEnabled
      | some x =>
        let (s, x) := s.startX sh { x with started := true }
        .next (s.updCore n fun c => { c with xqueue := c.xqueue.set k x })

/-! ### Order of writes (R96) -/

/-- A run of addresses modulo 64 KiB, the smallest page: two names of one byte agree there. -/
def foldOverlap (a n b m : Nat) : Bool :=
  decide (65536 ≤ n + m) || overlaps (a % 65536) n (b % 65536) m || overlaps (a % 65536) n (b % 65536 + 65536) m
  || overlaps (a % 65536 + 65536) n (b % 65536) m

/-- What a command writes: runs of global addresses, runs of scratchpad bytes (core × 2^18 + offset), and the version written. -/
def State.writesX (s : State) (n : Nat) (sh : Shard) (x : XCmd) : List (Nat × Nat) × List (Nat × Nat) × Option Ref :=
  let size (r : Ref) : Nat := match s.tensor sh.ctx r.handle with
    | .ok t => t.imageSize
    | _ => 0
  if x.op = opCopy then
    let p := Packet.of x.packet
    let runs := (p.dests (if p.whole then p.cap else p.outLen p.len)) ++ if p.qnt then [(p.aux.toNat, 4 * (p.len + 1))] else []
    (runs.filter fun r => decide (r.1 < 2 ^ 56),
      runs.filterMap fun r => match aperture r.1 with
        | some (0, _) => none
        | some (k, off) => let q := padOf n k off; some (q.1 * 2 ^ 18 + q.2, r.2)
        | none => none, none)
  else if x.op = opTload ∨ x.op = opTmcast then
    ([], (x.targets n).map fun k => (k * 2 ^ 18 + bits x.rc.toNat 0 18, size x.ref), none)
  else if x.op = opTstore ∨ x.op = opPstore then ([], [], some x.ref)
  else if x.op = opReqnt then ([], [], some x.outRef)
  else if x.op = opTpark then ([(field x.packet 0 8, field x.packet 8 4)], [], none)
  else ([], [], none)

/-- An earlier command of the queue that has not completed writes bytes that this one writes (R96). -/
def State.behind (s : State) (n : Nat) (sh : Shard) (q : List XCmd) (idx : Nat) (x : XCmd) : Bool :=
  let (g, l, v) := s.writesX n sh x
  (q.take idx).any fun y =>
    let (g', l', v') := s.writesX n sh y
    (g.any fun a => g'.any fun b => foldOverlap a.1 a.2 b.1 b.2)
    || (l.any fun a => l'.any fun b => overlaps a.1 a.2 b.1 b.2)
    || (v.isSome && v == v')

/-! ### Copies (R262 to R266) -/

/-- Send the loads to peers that a copy waits for. -/
def State.sendNeeds (s : State) (n : Nat) (sh : Shard) (idx : Nat) (needs : List (Word × Nat × Nat × Nat)) : State :=
  needs.foldl (fun s m => s.sendX n sh idx m.2.2.1 m.2.2.2 m.1 m.2.1 none) s

/-- One chunk of a copy without a whole-stream stage: read, transform, write; the first failure (R263, R265, R372). -/
def State.copyChunk (s : State) (n : Nat) (sh : Shard) (idx : Nat) (msgs : List XMsg) (p : Packet) (lo m : Nat) : State × Option (BitVec 8 × Word) :=
  let segs := p.srcSegs lo m
  let aux := p.auxSegs lo m
  let got := if p.fill then .ok (p.fillBytes lo m) else s.engineReads n sh msgs segs
  match got with
  | .fail st va => (s, some (st, va))
  | .need _ _ _ => (s, some (10, p.src))
  | .ok bs =>
    match (if p.decode then s.engineReads n sh msgs aux else .ok []) with
    | .fail st va => (s, some (st, va))
    | .need _ _ _ => (s, some (10, p.aux))
    | .ok scales =>
      let s := s.engineNotes n sh (segs ++ if p.decode then aux else [])
      let (out, sc) := p.elements bs scales
      let at_ := p.outLen lo
      if p.cap < at_ + out.length then (s, some (7, 0))
      else
        let (s, e) := s.engineWrites n sh idx (p.dstSegs at_ out.length) out
        let (s, e') := if p.decode then (s, none) else s.engineWrites n sh idx aux sc
        (s, e.orElse fun _ => e')

/-- The chunks of a run of the stream; `fuel` bounds them. -/
def State.copyChunks (s : State) (n : Nat) (sh : Shard) (idx : Nat) (msgs : List XMsg) (p : Packet) : Nat → Nat → Nat → State × Option (BitVec 8 × Word)
  | 0, _, _ => (s, none)
  | fuel + 1, lo, m =>
    if m = 0 then (s, none)
    else
      let k := min m p.chunk
      let (s, e) := s.copyChunk n sh idx msgs p lo k
      let (s, e') := s.copyChunks n sh idx msgs p fuel (lo + k) (m - k)
      (s, e.orElse fun _ => e')

/-- A message of a command that writes still waits for its reply. -/
def XCmd.writesOut (x : XCmd) : Bool := x.msgs.any fun m => m.write && m.data.isNone && !m.failed

/-- A peer refused a write of a command. -/
def XCmd.writeRefused (x : XCmd) : Bool := x.msgs.any fun m => m.write && m.failed

/-- Change a command of a core's queue. -/
def State.setX (s : State) (n idx : Nat) (x : XCmd) : State := s.updCore n fun c => { c with xqueue := c.xqueue.set idx x }

/-- A command of a core's queue. -/
def State.getX (s : State) (n idx : Nat) : Option XCmd := (s.core? n).bind fun c => c.xqueue[idx]?

/-- A run of generic addresses of a copy touches a window, by the pages it reaches. -/
def State.runIn (s : State) (n : Nat) (sh : Shard) (use : Use) (window : Target → Bool) (r : Nat × Nat) : Bool :=
  (List.range (r.2 / 65536 + 2)).any fun k => match s.enginePlace n sh use (BitVec.ofNat 64 (r.1 + min (65536 * k) (r.2 - 1))) with
    | .at_ t => window t
    | .fail _ => false

/-- A copy touches a host window (R412), or any window. -/
def State.copyIn (s : State) (n : Nat) (sh : Shard) (p : Packet) (window : Target → Bool) : Bool :=
  (p.sources.any (s.runIn n sh .read window)) || ((p.dests (if p.whole then p.cap else p.outLen p.len)).any (s.runIn n sh .write window))

/-- A host window. -/
def Target.isHost : Target → Bool
  | .host _ _ => true
  | _ => false

/-- A run of generic addresses of a copy reaches a row whose subarray group holds another row, a channel that is being retrained, or a die to which every path would overtake an earlier access (R15, R324, R403). -/
def State.runBlocked (s : State) (n : Nat) (sh : Shard) (use : Use) (r : Nat × Nat) : Bool :=
  (List.range (r.2 / 1024 + 2)).any fun k => match s.enginePlace n sh use (BitVec.ofNat 64 (r.1 + min (1024 * k) (r.2 - 1))) with
    | .at_ t => s.rowBlocked t || s.pathsBusy (dieOf n) t
    | .fail _ => false

/-- A copy waits for what it reaches (R15, R324, R403). -/
def State.copyBlocked (s : State) (n : Nat) (sh : Shard) (p : Packet) : Bool :=
  (p.sources.any (s.runBlocked n sh .read)) || ((p.dests (if p.whole then p.cap else p.outLen p.len)).any (s.runBlocked n sh .write))
  || p.auxRun.any (s.runBlocked n sh (if p.decode then .read else .write))

/-- A copy may go on: what it does outside the module can go out, and no row it reaches waits for its group (R16, R85, R96, R324). -/
def State.copyClear (s : State) (n : Nat) (sh : Shard) (x : XCmd) (p : Packet) : Bool :=
  (s.portClear n x || !s.copyIn n sh p Target.outside) && !s.copyBlocked n sh p

/-- The STATUS that an error of a host window gives a copy (R412): code 1 a refusal or no completion, 2 a poisoned completion. -/
def hostStatus (code : BitVec 8) : BitVec 8 := if code = 1 then 10 else 9

/-- The writes of a group have performed: its units are subtracted and its bytes counted, or the copy has failed (R261, R265). -/
def State.groupEnd (s : State) (n : Nat) (sh : Shard) (idx : Nat) (x : XCmd) (p : Packet) : State :=
  let lo := 4096 * x.groups
  let m := min 4096 (p.len - lo)
  let status := x.status.orElse fun _ => if x.writeRefused then some 10 else none
  if status.isSome then s.setX n idx { x with status := status, sent := false, msgs := [] }
  else
    let upto := ceilDiv (lo + m) 64
    let s := s.setX n idx { x with
      groups := x.groups + 1, subtracted := max x.subtracted upto, sent := false, msgs := []
      written := x.written + p.outLen (lo + m) - p.outLen lo }
    s.subtractX n sh x (upto - x.subtracted)

/-- COPY_GROUP_DONE: the next 64 source sectors of a started copy are read and written, or, when that has been done, the replies of peers have come, and the group ends (R265). -/
def execCopyGroupDone (s : State) : Out :=
  onShard s fun c sh =>
    let n := s.args.core
    let idx := s.args.idx
    match c.xqueue[idx]? with
    | none => .refused .notEnabled
    | some x =>
      let p := Packet.of x.packet
      let lo := 4096 * x.groups
      let m := min 4096 (p.len - lo)
      if x.op ≠ opCopy ∨ ¬x.started ∨ (x.status.isSome ∧ ¬x.sent) ∨ p.whole ∨ m = 0 ∨ s.retrying n 1 ∨ s.behind n sh c.xqueue idx x ∨ ¬s.copyClear n sh x p then .refused .notEnabled
      else if x.sent then (if x.writesOut then .refused .notEnabled else .next (s.groupEnd n sh idx x p))
      else if s.args.code ≠ 0 then
        if s.copyIn n sh p Target.isHost then .next (s.setX n idx { x with status := some (hostStatus s.args.code) }) else .refused .notEnabled
      else
        let segs := p.srcSegs lo m ++ if p.decode then p.auxSegs lo m else []
        let needs := s.engineNeeds n sh x.msgs segs
        if needs ≠ [] then .next (s.sendNeeds n sh idx needs)
        else if s.engineWaits n sh x.msgs segs then .refused .notEnabled
        else
          let (s, e) := s.copyChunks n sh idx x.msgs p 65 lo m
          let from_ := p.outLen lo - 64
          let s := if e.isSome then s else s.coverLines n sh (p.dstSegs from_ (p.outLen (lo + m) - from_) ++ if p.decode then [] else p.auxSegs 0 (lo + m))
          match s.getX n idx with
          | none => .refused .notEnabled
          | some x' =>
            let x' := { x' with status := e.map Prod.fst, failAt := e.elim 0 Prod.snd, sent := true }
            if x'.writesOut then .next (s.setX n idx x') else .next (s.groupEnd n sh idx x' p)

/-- The element stages behind the whole-stream stages of a decode: the stream that PACK writes, or a STATUS (R263). -/
def Packet.opened (p : Packet) (key : Option (BitVec 256)) (bs : List Byte) : BitVec 8 ⊕ List Byte :=
  let enc : BitVec 8 ⊕ List Byte := if ¬p.enc then .inr bs else match key with
    | none => .inl 10
    | some k => match Config.gcmOpen k (gcmIv p.nonce p.src) bs with
      | some d => .inr d
      | none => .inl 8
  match enc with
  | .inl st => .inl st
  | .inr d =>
    match (if p.csum then checkCrc d else some d) with
    | none => .inl 8
    | some d => match (if p.zrc then unzrc d else some d) with
      | none => .inl 8
      | some d => if p.ragged d.length then .inl 5 else .inr d

/-- The whole-stream stages of an encode (R263). -/
def Packet.closed (p : Packet) (key : Option (BitVec 256)) (d : List Byte) : BitVec 8 ⊕ List Byte :=
  let d := if p.zrc then Machine.zrc d else d
  let d := if p.csum then withCrc d else d
  if ¬p.enc then .inr d else match key with
    | none => .inl 10
    | some k => .inr (Config.gcmSeal k (gcmIv p.nonce p.dst) d)

/-- A copy whose writes have all been sent completes, once the replies of peers have come. -/
def State.copyDone (s : State) (n : Nat) (sh : Shard) (idx : Nat) (written : Nat) (e : Option (BitVec 8 × Word)) : State :=
  match s.getX n idx with
  | none => s
  | some x =>
    let x := { x with failAt := e.elim 0 Prod.snd }
    if x.writesOut then s.setX n idx { x with status := e.map Prod.fst, written := written, sent := true }
    else s.endX n sh idx x (if e.isSome then 0 else written) (e.elim 0 Prod.fst)

/-- The completion of a copy with a whole-stream stage: everything is read, transformed and written (R263, R265). -/
def copyWhole (s : State) (n : Nat) (sh : Shard) (idx : Nat) (x : XCmd) (p : Packet) : Out :=
  let segs := p.srcSegs 0 p.len
  let key := Map.look s.keys p.keyid
  let needs := s.engineNeeds n sh x.msgs segs
  if needs ≠ [] then .next (s.sendNeeds n sh idx needs)
  else if s.engineWaits n sh x.msgs segs then .refused .notEnabled
  else match s.engineReads n sh x.msgs segs with
    | .fail st va => .next (s.endX n sh idx { x with failAt := va } 0 st)
    | .need _ _ _ => .refused .notEnabled
    | .ok bs =>
      let write (s : State) (d sc : List Byte) (aux : List (Word × Nat)) : Out :=
        if p.cap < d.length then .next (s.endX n sh idx x 0 7)
        else if p.overlapping d.length then .next (s.endX n sh idx x 0 5)
        else
          let (s, e) := s.engineWrites n sh idx (p.dstSegs 0 d.length) d
          let (s, e') := s.engineWrites n sh idx aux sc
          let s := if e.isSome ∨ e'.isSome then s else s.coverLines n sh (p.dstSegs 0 d.length ++ aux)
          .next (s.copyDone n sh idx d.length (e.orElse fun _ => e'))
      if p.decode then
        match p.opened key bs with
        | .inl st => .next (s.endX n sh idx x 0 st)
        | .inr d =>
          let aux := p.auxSegs 0 d.length
          let needs := s.engineNeeds n sh x.msgs aux
          if needs ≠ [] then .next (s.sendNeeds n sh idx needs)
          else match s.engineReads n sh x.msgs aux with
            | .fail st va => .next (s.endX n sh idx { x with failAt := va } 0 st)
            | .need _ _ _ => .refused .notEnabled
            | .ok scales => write (s.engineNotes n sh (segs ++ aux)) (p.elements d scales).1 [] []
      else
        let (d, sc) := p.elements bs []
        match p.closed key d with
        | .inl st => .next (s.endX n sh idx x 0 st)
        | .inr d => write (s.engineNotes n sh segs) d sc (p.auxSegs 0 p.len)

/-- Completion of a copy. -/
def copyComplete (s : State) (n : Nat) (sh : Shard) (idx : Nat) (x : XCmd) : Out :=
  let p := Packet.of x.packet
  if x.sent then
    if ¬p.whole ∨ x.writesOut then .refused .notEnabled
    else
      let st := x.status.orElse fun _ => if x.writeRefused then some 10 else none
      .next (s.endX n sh idx x (if st.isSome then 0 else x.written) (st.getD 0))
  else match x.status with
    | some st => .next (s.endX n sh idx x x.written st)
    | none =>
      if ¬p.whole then (if 4096 * x.groups < p.len then .refused .notEnabled else .next (s.endX n sh idx x x.written 0))
      else if s.args.code ≠ 0 then
        if s.copyIn n sh p Target.isHost then .next (s.endX n sh idx x 0 (hostStatus s.args.code)) else .refused .notEnabled
      else if ¬s.copyClear n sh x p then .refused .notEnabled
      else copyWhole s n sh idx x p

/-! ### Reading and writing versions -/

/-- The shard as a command that reads a version acts for it: the command's accesses, and what its completion hands over, follow the version's producer (R90, R97, R106). -/
def Shard.reading (sh : Shard) (v : Version) : Shard := { sh with knows := mergeKnows sh.knows v.knows }

/-- Check the targets of TLOAD and TMCAST (R268). -/
def State.badTarget (s : State) (sh : Shard) (off size : Nat) (k : Nat) : Bool :=
  !((s.core? k).bind Core.shard).any (fun h => h.ctx == sh.ctx && (!sh.pure || h.task == sh.task)) || decide (0x40000 < off + size)

/-- TLOAD and TMCAST write the image at every target (R268). -/
def loadVersion (s : State) (n : Nat) (sh : Shard) (idx : Nat) (x : XCmd) (v : Version) : State :=
  let img := v.imageOf x.ref.twin
  let off := bits x.rc.toNat 0 18
  let ks := x.targets n
  let x := { x with failAt := BitVec.ofNat 64 ((apertureBase 1).1 + off) }
  if ks.any (s.badTarget sh off img.length) then s.endX n sh idx x 0 2
  else if ks.any fun k => (s.raceAt sh (.pad k off) img.length true true false).isSome then s.endX n sh idx x 0 4
  else
    let s := ks.foldl (fun s k => (s.watch n sh (.pad k off) img.length true true false).writeTarget (.pad k off) img) s
    s.endX n sh idx x (img.length * ks.length) 0

/-- A version as its first write finds it: every element PAD (R39). -/
def blankVersion (ctx : Nat) (task writer : Option Nat) (t : Tensor) (r : Ref) : Version :=
  { ctx := ctx, handle := BitVec.ofNat 32 r.handle, i := r.i, j := r.j, b := r.b, version := BitVec.ofNat 32 r.version,
    image := t.blank, twin := if t.twin then some t.swapped.blank else none, sealed_ := false, present := true,
    task := task, writer := writer, writers := [], record := none, lost := 0, replica := none, freeLater := false, knows := [], asked := none, moved := [] }

/-- A version that a shard writes: an output of its task, or one of its own. -/
def newVersion (sh : Shard) (t : Tensor) (r : Ref) (out : Bool) : Version :=
  blankVersion sh.ctx (if out then some sh.task else none) (if out then none else some sh.uid) t r

/-- Write an image, edge elements kept at PAD, into a version a reference names; a STATUS where that fails, and whether bytes were written (R39, R267, R269, R417). `lost` says that the image could not be read. -/
def State.storeVersion (s : State) (n : Nat) (sh : Shard) (t : Tensor) (r : Ref) (img : List Byte) (lost : Bool) : State × BitVec 8 × Bool :=
  let out := sh.outs.contains r.word
  let old := s.findVersion sh.ctx r
  let v := ((old.map Prod.snd).getD (newVersion sh t r out))
  let new := v.filled t r img
  let again := s.rebuilds sh v
  let bytes := new.image.length + new.twin.elim 0 List.length
  if v.sealed_ ∧ sh.rebuild ∧ ¬again then (s, 0, false)
  else if v.sealed_ ∧ ¬again then (s, 3, false)
  else if old.isNone ∧ s.tileStoreFull (s.standIn (t.homeOf r)) v.pieces then (s, 7, false)
  else if lost then (s, 9, false)
  else if (¬out ∧ ¬again ∧ s.othersOutput sh r)
      ∨ (s.det sh.ctx ∧ v.writers.any fun w => w.2.2 ≠ (sh.task, sh.num) ∧ (¬again ∨ w.2.2.1 = sh.task)) then (s, 4, false)
  else
    let v := { new with writers := (v.writers.filter fun w => w.2.2 ≠ (sh.task, sh.num)) ++ [(0, bytes, sh.task, sh.num), (2 ^ 20, bytes, sh.task, sh.num)] }
    let key := (old.map Prod.fst).getD s.uid
    let s := { s with versions := Map.put s.versions key v, uid := if old.isNone then s.uid + 1 else s.uid }
    let s := s.chargeVersion key v actTask
    let s := if out ∨ again then s else s.updCore n fun c => { c with shard := c.shard.map fun h => { h with wrote := insertNat h.wrote key } }
    (s, 0, true)

/-- The rows of the version that TSTORE, PSTORE or REQNT writes wait for their groups (R324, R403). -/
def State.storeBlocked (s : State) (sh : Shard) (r : Ref) : Bool :=
  match s.checkRef sh r with
  | .inl _ => false
  | .inr t => match s.findVersion sh.ctx r with
    | some (key, v) => s.versionBlocked key v
    | none => s.versionBlocked s.uid (newVersion sh t r (sh.outs.contains r.word))

/-- TSTORE and PSTORE write the image at OFF (R269). -/
def storeImage (s : State) (n : Nat) (sh : Shard) (idx : Nat) (x : XCmd) : State :=
  match s.checkRef sh x.ref with
  | .inl st => if sh.rebuild ∧ x.ref.handle = 0xFFFFFFFF then s.endX n sh idx x 0 0 else s.endX n sh idx x 0 st
  | .inr t =>
    let off := bits x.rc.toNat 0 18
    let size := t.imageSize
    let x := { x with failAt := BitVec.ofNat 64 ((apertureBase 1).1 + off) }
    if 0x40000 < off + size then s.endX n sh idx x 0 2
    else
      let tg := Target.pad n off
      let race := (s.raceAt (s.onCore n sh) tg size false true false).isSome
      let (s', st, wrote) := s.storeVersion n sh t x.ref (s.readTarget tg size) (s.poisoned tg size)
      if st = 0 ∧ race then s.endX n sh idx x 0 4
      else (s'.watch n sh tg size false true false).endX n sh idx x (if wrote then size * (if t.twin then 2 else 1) else 0) st

/-- The blocks or groups of a tile along an axis: for each, the indices of its elements in the image, in the order of its scales (R257). -/
def Tensor.blocks (t : Tensor) (g : Nat) : List (List Nat) :=
  if t.ax then (List.range t.tc).flatMap fun c => groupsOf g t.tr ((List.range t.tr).map fun r => r * t.tc + c)
  else (List.range t.tr).flatMap fun r => groupsOf g t.tc ((List.range t.tc).map fun c => r * t.tc + c)

/-- The image that REQNT makes of a master image: elements, padding to S0, scales (R118, R120, R270). -/
def requantised (m o : Tensor) (img : List Byte) : List Byte :=
  let g := if o.quant = 2 then 32 else o.group
  let done := (o.blocks g).map fun ix =>
    let xs := ix.map fun i => valOf m.etype (elemOf (typeWidth m.etype) img i)
    if o.quant = 2 then
      let e := mxEncode o.etype false xs
      (ix.zip e.2.1, toBytes 1 e.1)
    else
      let e := quantise o.etype xs
      (ix.zip e.2.2.1, scaleWord e.1 e.2.1)
  let elems := (done.flatMap Prod.fst).foldl (fun (mp : Map Nat) e => Map.put mp e.1 e.2) []
  padTo (packElems (typeWidth o.etype) ((List.range (o.tr * o.tc)).map fun i => Map.lookD elems i 0)) o.s0 ++ done.flatMap Prod.snd

/-- REQNT writes the requantised master into the output version (R270). -/
def requantise (s : State) (n : Nat) (sh : Shard) (idx : Nat) (x : XCmd) (v : Version) : State :=
  if x.toNowhere sh then s.endX n sh idx x 0 0
  else match s.checkRef sh x.ref, s.checkRef sh x.outRef with
  | .inr m, .inr o =>
    let (s', st, wrote) := s.storeVersion n sh o x.outRef (requantised m o (v.imageOf x.ref.twin)) false
    s'.endX n sh idx x (if wrote then o.imageSize else 0) st
  | _, _ => s.endX n sh idx x 0 5

/-! ### Sealing, replicas, parking, dropping -/

/-- TSEAL.cb sets the sealed bit of every line (R74, R271). -/
def sealLines (s : State) (n : Nat) (sh : Shard) (idx : Nat) (x : XCmd) : State :=
  match s.range sh.ctx .read x.ra.toNat x.rb.toNat with
  | .ok ps =>
    let ls : List (Nat × Nat) := (ps.foldl (fun (q : Nat × List (Nat × Nat)) p => match p.1 with
      | .dram a => (q.1 + p.2, q.2 ++ (List.range (ceilDiv p.2 64)).map fun k => (a / 64 + k, q.1 / 64 + k))
      | _ => (q.1 + p.2, q.2)) (x.ra.toNat, [])).2
    { s with
      sealed_ := ls.foldl (fun (q : List Nat) (e : Nat × Nat) => insertNat q e.1) s.sealed_
      sealedBy := ls.foldl (fun (q : Map (Nat × Nat)) (e : Nat × Nat) => Map.put q e.1 (sh.ctx, e.2)) s.sealedBy }.endX n sh idx x 0 0
  | .fault => s.endX n sh idx x 0 1
  | .poisoned => s.endX n sh idx x 0 9

/-- The pages of a run of global addresses, whatever they permit. -/
def State.leaves (s : State) (ctx a n : Nat) : List Walk := (List.range ((a % 65536 + n - 1) / 65536 + 1)).map fun k => s.pageOf ctx (a / 65536 * 65536 + 65536 * k)

/-- The STATUS of a run that WIN names and that is no host window, before it is translated for the write (R272): 5 before 1. -/
def State.notWindow (s : State) (ctx : Nat) (win : Word) (n : Nat) : Option (BitVec 8) :=
  let ls := s.leaves ctx win.toNat n
  if 2 ^ 56 ≤ win.toNat ∨ ls.any (fun w => match w with | .leaf e _ => tgt e != 1 && tgt e != 2 | _ => false) then some 5
  else if ls.any (fun w => w == .fault) then some 1
  else none

/-- TPARK writes the parked stream to the host window, and the version is parked (R272, R284). -/
def parkVersion (s : State) (n : Nat) (sh : Shard) (idx : Nat) (x : XCmd) (key : Nat) (v : Version) : State :=
  let win := BitVec.ofNat 64 (field x.packet 0 8)
  let cap := field x.packet 8 4
  let keyid := field x.packet 0x0C 1
  let nonce := BitVec.ofNat 32 (field x.packet 0x10 4)
  let k := Map.look s.keys keyid
  let d := parkStream (k.getD 0) nonce win (v.image ++ v.twin.getD [])
  let fail (st : BitVec 8) : State := s.endX n sh idx x 0 st
  match s.notWindow sh.ctx win (max 1 d.length), s.range sh.ctx .write win.toNat (max 1 d.length) with
  | some st, _ => fail st
  | none, .fault => fail 1
  | none, .poisoned => fail 9
  | none, .ok ps =>
    if k.isNone ∨ (ps.any fun p => s.refuses p.1) ∨ s.args.code = 1 then fail 10
    else if cap < d.length then fail 7
    else match v.record, s.writeRange sh.ctx win.toNat d with
      | some (a, b), some s => ((s.chargeHub (s.homeDie v) actSwap (ceilDiv d.length 64)).parkDone key a b win d.length nonce (BitVec.ofNat 8 keyid)).endX n sh idx x d.length 0
      | _, _ => fail 10

/-- The target die of TREPL (R272). -/
def XCmd.replicaTarget (x : XCmd) (home : Nat) : Nat := if bitAt x.rc.toNat 3 then home ^^^ 4 else bits x.rc.toNat 0 3

/-- Another command or transfer must end before this one acts on the version (R273): one that reads it, though its bytes still be on their way from a safe tier. A version that is being rebuilt is dropped at once (R418). -/
def State.versionBusy (s : State) (x : XCmd) (key : Nat) (v : Version) : Bool :=
  (x.op == opTpark || x.op == opTdrop)
  && (v.present && s.readBy key || (x.op == opTpark && (s.recordOf v).any Record.replicaFlight))

/-- The effect of a started tile command on the version it names (R268 to R273). -/
def tileEffect (s : State) (n : Nat) (sh : Shard) (idx : Nat) (x : XCmd) (key : Nat) (v : Version) : Out :=
  let r := s.recordOf v
  let dk := v.record.getD (0, 0)
  let sh := if x.op = opTdrop ∨ x.op = opTunpark then sh else sh.reading v
  if s.versionBusy x key v then .refused .notEnabled
  else if x.op = opTdrop then
    .next (((s.revokeRows (fun _ h => h.ofVersion key) 3).dropVersion key dk.1 dk.2).endX n sh idx x 0 0)
  else if x.op = opTpark ∧ (r.any fun r => r.flags.getLsbD fParked) then .next (s.endX n sh idx x 0 0)
  else if x.op = opTunpark ∧ ¬(r.any fun r => r.flags.getLsbD fParked) then .next (s.endX n sh idx x 0 0)
  else if ¬s.readable v then .refused .notEnabled
  else if x.op = opTunpark then .next (s.endX n sh idx x x.written 0)
  else if s.versionBlocked key v then .refused .notEnabled
  else if x.op = opTpark then (if s.portClear n x then .next (parkVersion (s.chargeVersion key v actSwap) n sh idx x key v) else .refused .notEnabled)
  else if x.op = opTrepl then
    let to_ := x.replicaTarget (r.elim 0 Record.home)
    if s.tileStoreFull to_ v.pieces then .next (s.endX n sh idx x 0 7)
    else .next (((s.chargeCopy key v to_).replicaDone dk.1 dk.2 to_).endX n sh idx x (v.image.length + v.twin.elim 0 List.length) 0)
  else
    let s := s.chargeVersion key v actTask
    if x.op = opReqnt ∧ ¬x.toNowhere sh ∧ s.storeBlocked sh x.outRef then .refused .notEnabled
    else if x.op = opReqnt then .next (requantise s n sh idx x v) else .next (loadVersion s n sh idx x v)

/-- X_COMMAND_COMPLETE: a started command performs its writes and completes, or has failed (R96, R260, R273). -/
def execXCommandComplete (s : State) : Out :=
  onShard s fun c sh =>
    let n := s.args.core
    let idx := s.args.idx
    match c.xqueue[idx]? with
    | none => .refused .notEnabled
    | some x =>
      if ¬x.started ∨ s.retrying n 1 ∨ s.behind n sh c.xqueue idx x then .refused .notEnabled
      else if x.op = opCopy then copyComplete s n sh idx x
      else match x.status with
        | some st => .next (s.endX n sh idx x 0 st)
        | none =>
          if x.op = opTseal ∧ x.cb then .next (sealLines s n sh idx x)
          else if x.op = opTseal then
            match s.findVersion sh.ctx x.ref with
            | some (_, v) => if v.sealed_ then .next (s.endX n sh idx x 0 0) else .refused .notEnabled
            | none => .next (s.endX n sh idx x 0 6)
          else if x.op = opTstore ∨ x.op = opPstore then (if s.storeBlocked sh x.ref then .refused .notEnabled else .next (storeImage s n sh idx x))
          else match s.findVersion sh.ctx x.ref with
            | none => .next (s.endX n sh idx x 0 6)
            | some (key, v) =>
              if ¬s.kept v ∧ ¬(sh.rebuild ∧ v.sealed_) then .next (s.endX n sh idx x 0 6) else tileEffect s n sh idx x key v

end Sys2Proof.Machine
end

