-- ==== Sys2Proof/Machine/ParkOps.lean ====
section
/-! DEFINITION. Parking, resuming and discarding a shard (R298 to R302), the layout of a save slot (R299), and what happens when a park or a resume fails (R425). -/

namespace Sys2Proof.Machine

/-! ### The save slot (R299) -/

/-- Bytes of a save slot. -/
def slotBytes : Nat := 0x86000

/-- A free save slot of a context. -/
def State.freeSlot (s : State) (ctx : Nat) : Option Nat :=
  (Map.look s.ctxs ctx).bind fun x => (List.range x.slots).find? fun k => !x.usedSlots.contains k

/-- The global address of a save slot (R343). -/
def State.slotAddr (s : State) (ctx slot : Nat) : Nat := (Map.look s.ctxs ctx).elim 0 fun x => x.save.toNat + slot * slotBytes

/-- Take or free a save slot. -/
def State.takeSlot (s : State) (ctx slot : Nat) : State :=
  { s with ctxs := Map.upd s.ctxs ctx fun x => { x with usedSlots := insertNat x.usedSlots slot } }
def State.giveSlot (s : State) (ctx slot : Nat) : State :=
  { s with ctxs := Map.upd s.ctxs ctx fun x => { x with usedSlots := removeNat x.usedSlots slot } }

/-- The saved bytes of an accumulator: its elements row by row, ROWMAX, ROWSUM. -/
def Acc.saved (a : Acc) : List Byte :=
  ((List.range 128).flatMap fun i => (List.range 128).flatMap fun j => toBytes 4 (a.get i j).toNat)
  ++ ((List.range 128).flatMap fun i => toBytes 4 (a.max i).toNat) ++ ((List.range 128).flatMap fun i => toBytes 4 (a.sum i).toNat)

/-- The nth 32-bit value of a list of bytes, for each n below a count, without those that an absent entry stands for. -/
def wordsAt (bs : List Byte) (lo count : Nat) (absent : BitVec 32) : Map (BitVec 32) :=
  ((List.range count).map fun k => (k, BitVec.ofNat 32 (field bs (lo + 4 * k) 4))).filter fun e => e.2 ≠ absent

/-- An accumulator with the values of its saved bytes. -/
def Acc.restored (a : Acc) (bs : List Byte) : Acc :=
  { a with elems := wordsAt bs 0 16384 0, rowmax := wordsAt bs 0x10000 128 negInf, rowsum := wordsAt bs 0x10200 128 0 }

/-- The valid and full bits as the slot holds them. -/
def Core.savedBits (c : Core) : List Byte :=
  (List.range 512).map fun k => BitVec.ofNat 8 ((List.range 4).foldl (fun v i =>
    v + (if c.valid.getLsbD (4 * k + i) then 2 ^ (2 * i) else 0) + (if c.full.getLsbD (4 * k + i) then 2 ^ (2 * i + 1) else 0)) 0)

/-- The valid (`odd` 0) or full (`odd` 1) bits of saved bytes. -/
def restoredBits (bs : List Byte) (odd : Nat) : BitVec 2048 :=
  BitVec.ofNat 2048 (ofBytes ((List.range 256).map fun k =>
    BitVec.ofNat 8 ((List.range 8).foldl (fun v i =>
      v + if bitAt (field bs (2 * k + i / 4) 1) (2 * (i % 4) + odd) then 2 ^ i else 0) 0)))

/-- FLAGS of the header. -/
def Core.saveFlags (c : Core) (sh : Shard) (lease : Bool) : Nat :=
  (if c.acc0.chain then 1 else 0) + (if c.acc1.chain then 2 else 0) + (if lease then 4 else 0) + (if sh.keepsp then 8 else 0)
  + if sh.committed then 16 else 0

/-- The bytes of a slot's header behind the fields that the spec gives, which hold the rest of the state of R69 in the device's own layout: free values, by an index. -/
def headerRest (k : Nat) : List Byte := (List.range 0x1FF1).map fun i => Config.saveHeaderByte k (i + 15)

/-- What a park writes, by offset. -/
def State.slotParts (s : State) (n : Nat) (c : Core) (sh : Shard) (lease : Bool) : List (Nat × List Byte) :=
  [(0, toBytes 8 sh.taskId.toNat ++ toBytes 2 sh.num ++ toBytes 2 sh.hwm ++ toBytes 2 n ++ toBytes 1 (c.saveFlags sh lease) ++ headerRest s.free),
   (0x2000, (List.range sh.hwm).flatMap fun g => toBytes 64 (Map.lookD c.gran g 0).toNat),
   (0x22000, c.savedBits)]
  ++ (if c.acc0.chain then [(0x24000, c.acc0.saved)] else []) ++ (if c.acc1.chain then [(0x35000, c.acc1.saved)] else [])
  ++ if sh.keepsp then [(0x46000, Memory.getN c.pad 0 0x40000)] else []

/-- Lines of a slot, or of another range, are read or written for a die: each at activity TASKDATA, and each row once opened (R333; the spec names no activity for a save slot, notes/assumptions/58.md). -/
def State.chargeParts (s : State) (die : Nat) (ps : List (Target × Nat)) : State :=
  ps.foldl (fun s p => match p.1 with
    | .dram a =>
      let s := if a % 1024 = 0 then s.rowOpened (rowPlace a) actTask else s
      (s.charge (a / 2 ^ 34 % 32) actTask 1).chargeFlits die (a / 2 ^ 36 % 8) (s.choosePath die (a / 2 ^ 36 % 8)) actTask 1
    | .pad _ _ => s
    | _ => s.chargeHub die actTask 1) s

/-- Bit 16 of the environment's choice says that a write of a save slot fails as lasting (R425). -/
def State.slotFails (s : State) : Bool := bitAt s.choice 16

/-- Write the parts of a slot from a die; `none` when a write fails: it does not translate, is refused, or fails as lasting, as every write to a quadrant out of service does (R400, R425). -/
def State.writeParts (s : State) (die ctx base : Nat) : List (Nat × List Byte) → Option State
  | [] => some s
  | p :: r =>
    match s.range ctx .write (base + p.1) p.2.length with
    | .ok ps =>
      if s.slotFails || ps.any fun q => (match q.1 with
          | .dram a => s.deadQuad a
          | _ => false) then none
      else (s.writeRange ctx (base + p.1) p.2).bind fun t => (t.chargeParts die ps).writeParts die ctx base r
    | _ => none

/-- A shard with the fields that a slot's header holds (R299). -/
def Shard.reread (sh : Shard) (hd : List Byte) : Shard :=
  let flags := field hd 0xE 1
  { sh with
    taskId := BitVec.ofNat 64 (field hd 0 8), num := field hd 8 2, hwm := field hd 0xA 2
    keepsp := bitAt flags 3, committed := bitAt flags 4 }

/-! A slot whose header software has altered restores whatever it holds, and the layout behind the fields that the spec gives is the device's own: what it holds of the rest of the state of R69 is free, field by field (R299; notes/assumptions/49.md). `f` gives the free values. -/

/-- One free value out of a number of choices. -/
def oneOf (f : Nat → Word) (k n : Nat) : Nat := (f k).toNat % n

/-- Free loop slots. -/
def freeLoops (f : Nat → Word) (k : Nat) : Map LoopSlot :=
  (List.range 4).filterMap fun i =>
    let w := f (k + 8 * i)
    if w.getLsbD 0 then
      some (i, { isB := w.getLsbD 1, rot := w.getLsbD 2, start := f (k + 8 * i + 1), stop := f (k + 8 * i + 2),
                 remaining := (f (k + 8 * i + 3)).toNat, drain := (f (k + 8 * i + 4)).toNat })
    else none

/-- A stream with a free position. -/
def freeStream (f : Nat → Word) (k : Nat) : Stream :=
  { pc := f k, halted := (f (k + 1)).getLsbD 0, pred := (f (k + 2)).setWidth 8, loops := freeLoops f (k + 16), instret := f (k + 3),
    rep := oneOf f (k + 4) 128, wait := .none, flight := [] }

/-- A queue with free pointers and a free buffer. -/
def freeQueue (f : Nat → Word) (k : Nat) : Queue :=
  { base := (f k).setWidth 11, lenm1 := (f (k + 1)).setWidth 8, esz := (f (k + 2)).setWidth 2, head := (f (k + 3)).setWidth 8,
    tail := (f (k + 4)).setWidth 8, off := oneOf f (k + 5) 1024, buf := (List.range (oneOf f (k + 6) 1024)).map fun i => Config.saveHeaderByte (k + 6) i }

/-- A free core barrier. -/
def freeBarrier (f : Nat → Word) (k : Nat) : Barrier :=
  { init := (f k).getLsbD 0, phase := (f (k + 1)).setWidth 4, pending := (f (k + 2)).setWidth 12, expect := (f (k + 3)).setWidth 12,
    members := (f (k + 4) ++ f (k + 5)).setWidth 96, arriving := [], completed := [] }

/-- A slot that is free, revoked or expired, or that names a row of cell memory to be reopened. -/
def freeHoldSlot (f : Nat → Word) (k : Nat) : Hold :=
  let pa := oneOf f (k + 1) (2 ^ 39) / 1024 * 1024
  let st : HoldState := match oneOf f k 4 with
    | 0 => .free
    | 1 => .revoked
    | 2 => .expired
    | _ => .held
  { state := st, row := .cell pa, place := BitVec.ofNat 32 (rowPlace pa), save := true, request := oneOf f (k + 2) 65536, since := 0,
    deadline := oneOf f (k + 3) 65536, cause := (f (k + 4)).setWidth 4, stamp := (0, 0), before := st, rowBefore := .cell pa }

/-- A free command that has not started. -/
def freeCommand (f : Nat → Word) (k : Nat) : XCmd :=
  { op := BitVec.ofNat 8 (0xC0 + oneOf f k 11), ra := f (k + 1), rb := f (k + 2), rc := f (k + 3), rd := oneOf f (k + 4) 64, cm := (f (k + 5)).setWidth 2,
    tb := 16 * oneOf f (k + 6) 16384, cb := (f (k + 7)).getLsbD 0, packet := (List.range 64).map fun i => Config.saveHeaderByte (k + 8) i,
    pc := f (k + 9), order := 0, since := 0, started := false, groups := 0, subtracted := oneOf f (k + 10) (2 ^ 32), written := 0, status := none,
    failAt := 0, cls := none, pushed := none, msgs := [], sent := false }

/-- A free inbox entry. -/
def freeEntry (f : Nat → Word) (ctx k : Nat) : InboxEntry :=
  { block := BitVec.ofNat 512 (ofBytes ((List.range 64).map fun i => Config.saveHeaderByte k i)), sender := oneOf f k 3072, ctx := ctx, since := 0,
    sentBy := 0, clock := 0 }

/-- A saved core whose header software has altered. -/
def Core.unknown (c : Core) (ctx : Nat) (f : Nat → Word) : Core :=
  let list {α : Type} (k n : Nat) (g : Nat → α) : List α := (List.range (oneOf f k n)).map fun i => g (k + 64 * (i + 1))
  { c with
    sregs := (List.range 63).map fun k => (k + 1, f k), pending := []
    aregs := (List.range 31).map fun k => (k + 1, f (64 + k))
    cs := freeStream f 128, as := freeStream f 192, vs := freeStream f 256
    queues := (List.range 16).map fun q => (q, freeQueue f (320 + 8 * q))
    tokens := (List.range 7).map fun k => (k + 1, oneOf f (448 + k) 16)
    barriers := (List.range 512).map fun b => (b, freeBarrier f (512 + 8 * b))
    holds := (List.range 16).map fun h => (h, freeHoldSlot f (4608 + 8 * h))
    acc0 := { c.acc0 with kind := if (f 4740).getLsbD 1 then some ((f 4740).getLsbD 2) else none, kindMma := (f 4740).getLsbD 3, poisoned := false }
    acc1 := { c.acc1 with kind := if (f 4741).getLsbD 1 then some ((f 4741).getLsbD 2) else none, kindMma := (f 4741).getLsbD 3, poisoned := false }
    viewV := (f 4744).setWidth 11, viewW := (f 4745).setWidth 11, viewT := (f 4746).setWidth 11, cpl := f 4747
    ftz := (f 4748).getLsbD 0, rnd := (f 4749).setWidth 3, vtype := (f 4750).setWidth 4, fflags := f 4751
    stackBase := f 4752, stackLimit := f 4753, tvec := f 4754, cause := f 4755, tval := f 4756, epcC := f 4757, epcA := f 4758, epcV := f 4759
    scratch := f 4760, latches := (f 4761).setWidth 6, lastRun := oneOf f 4762 65, setas := [], beat := none, savedLoops := freeLoops f 4768
    barWait := if (f 4800).getLsbD 0 then some (f 4801, oneOf f 4802 16) else none
    savedBar := if (f 4803).getLsbD 0 then some (f 4804, oneOf f 4805 16) else none, ahead := none, fresh := [], mfailed := none
    inbox := list 4864 17 (freeEntry f ctx), xqueue := list 6144 17 (freeCommand f), fmts := list 7424 9 f
    slotted := (list 8192 17 f).map fun w => w.setWidth 3 }

/-- A parked shard whose header software has altered. -/
def Parked.unknown (p : Parked) (free : Nat) : Parked :=
  let f (k : Nat) : Word := Config.freeWord (free + k)
  { p with
    core := p.core.unknown p.shard.ctx f, trapAt := none
    rows := ((List.range 16).filter fun h => (freeHoldSlot f (4608 + 8 * h)).state == .held).map fun h => (h, oneOf f (4608 + 8 * h + 3) 65536) }

/-- Free values that an altered header takes. -/
def slotFree : Nat := 16384

/-- A parked shard as the header of its slot gives it. -/
def State.asRead (s : State) (ctx base : Nat) (p : Parked) : Parked :=
  match s.readRange ctx base 0x2000 with
  | some hd => if hd.drop 15 = headerRest p.header then p else p.unknown s.free
  | none => p

/-- The runs of a slot that a resume reads, by offset. -/
def slotRuns (c : Core) (sh : Shard) : List (Nat × Nat) :=
  [(0, 0x2000), (0x2000, 64 * sh.hwm), (0x22000, 512)] ++ (if c.acc0.chain then [(0x24000, 0x10400)] else [])
  ++ (if c.acc1.chain then [(0x35000, 0x10400)] else []) ++ if sh.keepsp then [(0x46000, 0x40000)] else []

/-- What a slot holds, over the rest of the saved core: the header's fields, the register space, the bits, the open accumulators and the saved scratchpad, with the lease flag; `none` when a read meets poisoned data. A slot that software altered restores whatever it holds (R299). DESIGN CHOICE: with KEEPSP 0 the scratchpad comes back as zeros (R84, R299, R300), although R360, R361 and R368, whose tasks have FLAGS 0, say that no park changes their final state (notes/assumptions/46.md). -/
def State.readSlot (s : State) (ctx base : Nat) (p : Parked) : Option (Core × Shard × Bool) :=
  let get (lo n : Nat) : Option (List Byte) := s.readRange ctx (base + lo) n
  (get 0 0x2000).bind fun hd =>
    let sh := p.shard.reread hd
    let flags := field hd 0xE 1
    let acc (a : Acc) (k lo : Nat) : Option Acc :=
      let a := { a with chain := bitAt flags k }
      if a.chain then (get lo 0x10400).map a.restored else some a
    let c := p.core
    match get 0x2000 (64 * min sh.hwm 2048), get 0x22000 512, acc c.acc0 0 0x24000, acc c.acc1 1 0x35000,
        (if sh.keepsp then get 0x46000 0x40000 else some []) with
    | some g, some b, some a0, some a1, some pad =>
      some ({ c with
        gran := ((List.range (min sh.hwm 2048)).map fun k => (k, granuleOf (slice g (64 * k) 64))).filter fun e => e.2 ≠ 0
        valid := restoredBits b 0, full := restoredBits b 1
        acc0 := a0, acc1 := a1, pad := Memory.setN [] 0 pad
        padPoison := if sh.keepsp then c.padPoison else [] }, sh, bitAt flags 2)
    | _, _, _, _, _ => none

/-! ### Stopping the streams (steps 2 and 3 of R298) -/

/-- An access that only another agent can end: its answer from a host or a peer has not come, or its posted write has not left the port. -/
def Access.abroad (f : Access) : Bool :=
  match f.target with
  | .peer _ _ => f.value.isNone && !f.failed
  | .host _ _ => f.value.isNone && !f.failed && !(f.kind == .store && f.path == 6)
  | _ => false

/-- The state of R69 can be saved now: nothing is awaited from outside, every access has performed or met an exception, and no started TSEAL or TDROP has still to complete (R298, R402). -/
def State.coreSettles (s : State) (c : Core) : Bool :=
  c.resuming.isNone
  && (c.shard.all fun sh => (c.cs.flight ++ c.as.flight).all fun f => !f.abroad && (!f.underway || f.marker || (s.heldFault sh f).isSome))
  && c.xqueue.all fun x => !(x.started && (x.op == opTseal || x.op == opTdrop))

/-- The exception that the resume takes: the first one in the stream order of R381 that an access left in flight has met, or the placing of a beat; while a handler runs they stay held (R383, R402). -/
def State.recorded (s : State) (c : Core) (sh : Shard) : Option Recorded :=
  if c.inh then none
  else
    (((c.cs.flight.map fun f => (Strm.c, f)) ++ c.as.flight.map fun f => (Strm.a, f)).findSome? fun x =>
      (s.heldFault sh x.2).map fun e => { strm := x.1, order := x.2.order, code := e.1, tval := e.2 }).orElse fun _ =>
    (c.placeTrap sh.hwm).map fun x => { strm := x.1, order := x.2.1.order, code := x.2.2.1, tval := x.2.2.2 }

/-- A cancelled command restarts from its beginning, with the STATUS its push found; units it has subtracted stay subtracted (R298, R300). DESIGN CHOICE: a "latest" reference that its start has resolved stays resolved; the spec does not say whether a restart resolves it again (notes/assumptions/57.md). -/
def XCmd.cancelled (x : XCmd) : XCmd :=
  { x with started := false, groups := 0, written := 0, status := x.pushed, failAt := if x.pushed.isSome then x.failAt else 0, cls := none, msgs := [], sent := false }

/-- The streams of a core stand at a boundary: an open speculation is rolled back, and a waiting word is abandoned. DESIGN CHOICE: a run-length word that stopped between repeats is fetched and checked again at the resume; the spec says only that it restarts at repeat j (notes/assumptions/57.md). -/
def Core.stopped (c : Core) : Core :=
  let c := c.rollback ((c.spec.map Spec.pc).getD c.cs.pc)
  { c with
    cs := { c.cs with wait := .none }, as := { c.as with wait := .none }, vs := { c.vs with wait := .none }
    xqueue := c.xqueue.map XCmd.cancelled, vrun := none, walkFails := [] }

/-! ### Park (R298) -/

/-- A held or opening slot as the park records it: to be reopened, or revoked with cause 1. -/
def Hold.parked (x : Hold) : Hold :=
  if x.state = .held ∨ x.state = .opening then (if x.save then x else { x with state := .revoked, cause := 1 }) else x

/-- The remaining hold clk of the rows that a resume reopens; a row that was still opening keeps its whole request. -/
def savedRows (holds : Map Hold) (now : Nat) : Map Nat :=
  holds.filterMap fun h =>
    if h.2.save ∧ (h.2.state = .held ∨ h.2.state = .opening) then
      some (h.1, if h.2.state = .opening ∨ h.2.deadline = 0 then h.2.request else h.2.deadline - now)
    else none

/-- A contribution of the shard has been sent and its result word has not come (R313). -/
def State.contributing (s : State) (uid : Nat) : Bool := s.groups.any fun g => g.2.inflight.any fun x => x.uid == uid

/-- The shard on a core can be parked now. -/
def State.canPark (s : State) (c : Core) : Bool := s.coreSettles c && c.shard.all fun sh => !s.contributing sh.uid

/-- The Harvest bindings of a shard, or of every shard of a task, are released (R307). -/
def State.unbind (s : State) (p : Nat × Nat → Bool) : State :=
  { s with groups := Map.each s.groups fun _ g =>
      { g with members := Map.each g.members fun _ m => { m with bound := m.bound.filter fun b => !p b } } }

/-- The shard is ready again, to restart from its entry points with its dispatch state; its Harvest bindings and its record of waits are gone (R301, R307). -/
def State.restartShard (s : State) (sh : Shard) : State :=
  let s := ((s.dropWatched sh.uid).dropUnsealed sh.uid).setShard sh.task sh.num .waiting
  ({ s with
    tasks := Map.upd s.tasks sh.task fun t =>
      { t with
        rosters := t.rosters.filter fun r => r.1 ≠ sh.num, waits := t.waits.filter fun w => w.1 ≠ sh.num
        again := Map.put t.again sh.num s.now } }).unbind
    fun b => b == (sh.task, sh.num)

/-- Discard the shard on a core (R301). -/
def State.discard (s : State) (n : Nat) (sh : Shard) : State :=
  (((s.updCore n Core.stopped).freeHolds n).vacate n |>.restartShard sh).refill (dieOf n)

/-- A save slot cannot be written or read: an uncommitted shard is discarded, and the task of a committed one fails with status 3 (R425). -/
def State.failTask3 (s : State) (sh : Shard) : State :=
  let s := s.stopTask sh.task
  { s with tasks := Map.upd s.tasks sh.task fun t => { t with failed := t.failed.orElse fun _ => some (3, none, 0) } }

/-- What a shard that parks has left of its accesses is saved with it, and no longer in flight on its core. -/
def Core.quiet (c : Core) : Core := { c with cs := { c.cs with flight := [] }, as := { c.as with flight := [] } }

/-- Steps 3 to 8 of R298, with the streams stopped and nothing in flight but what is saved: the lease was held on the core, or (`had`) before a resume that has not got it back. -/
def State.saveShard (s : State) (n : Nat) (sh0 : Shard) (slot : Nat) (trapAt : Option Recorded) (debug needs had : Bool) : State :=
  let s := s.drainM n sh0 ((s.core? n).elim 0 fun c => c.mqueue.length)
  let lease := s.hasLease n || had
  let s := (s.endRun n).dropLease n
  match s.core? n with
  | none => s
  | some c =>
    match c.shard with
    | none => s
    | some sh =>
      let saved : Core := { c with holds := Map.each c.holds fun _ h => h.parked, inbox := c.inbox.filter fun e => e.ctx = sh.ctx }
      let rows := savedRows c.holds s.now
      let s := s.freeHolds n
      match s.writeParts (dieOf n) sh.ctx (s.slotAddr sh.ctx slot) (s.slotParts n saved sh lease) with
      | none => if sh.committed then s.failTask3 sh else ((s.vacate n).restartShard sh).refill (dieOf n)
      | some s =>
        let s := ((s.syncPoint n).takeSlot sh.ctx slot).updCore n Core.quiet
        let s := if sh.keepsp then s.movePad n (parkedPad s.uid) else s
        let p : Parked :=
          { shard := { sh with halt := 0, reserve := 0, region := none }, core := { saved with shard := none, lastRun := 0 }, fromCore := n,
            slot := slot, header := s.free, lease := lease, rows := rows, parkedAt := s.now, aged := 0, debug := debug,
            needsArray := needs || lease || c.acc0.chain || c.acc1.chain, trapAt := trapAt }
        ((({ s with parked := Map.put s.parked s.uid p, uid := s.uid + 1, free := s.free + 1 }).setShard sh.task sh.num .parked).vacate n).refill (dieOf n)

/-- Park the shard on a core in a slot (R298): `debug` keeps it off the resume list (R194), `needs` marks that it needs an array in service (R424). -/
def State.park (s : State) (n slot : Nat) (debug needs : Bool) : State :=
  let s := s.updCore n Core.stopped
  match s.core? n with
  | none => s
  | some c =>
    match c.shard with
    | none => s
    | some sh =>
      s.saveShard n sh slot (s.recorded c sh) debug needs false

/-! ### Resume (R300) -/

/-- A core can hold a parked shard: it is large enough, has room for the saved inbox entries, and its array is in service if the shard needs it (R293, R300, R424). -/
def State.canResume (s : State) (p : Parked) (n : Nat) : Bool :=
  (s.core? n).any fun c =>
    s.fits n p.shard.hwm && decide (c.inbox.length + p.core.inbox.length ≤ 16)
    && (!p.needsArray || (Map.look s.arrays (arrayOf n)).any Array.inService)

/-- A saved row is reopened with its remaining time, or restored as revoked when its quadrant is out of service (in deterministic mode it stays held to the program, its row closed) or its version destroyed or dropped (R300, R325, R327, R425). -/
def State.reopened (s : State) (det : Bool) (x : Hold) (remaining : Nat) : Hold :=
  let gone : Bool := match x.row with
    | .piece key _ _ => (Map.look s.versions key).any fun v => !v.present && v.sealed_
    | _ => false
  let dropped : Bool := match x.row with
    | .piece key _ _ => (Map.look s.versions key).all fun v => v.sealed_ && !s.live v
    | _ => false
  if ¬s.quadOk x.place.toNat then (if det then { x with state := .held, deadline := 0 } else { x with state := .revoked, cause := 5 })
  else if dropped then { x with state := .revoked, cause := 3 }
  else if gone then { x with state := .revoked, cause := 2 }
  else { x with state := .opening, request := remaining, since := s.now, deadline := 0, cause := 0 }

/-- The last steps of a resume (a lease that an array out of service would have to give parks the shard again, R424), once every saved row is held, revoked or expired: the lease is requested if it was held or a chain is open; after its grant the run ends if the lease had not been held, recorded pushes are delivered, the slot is free, a recorded exception is taken with the saved PC in CR.EPC, and the streams start (R300, R402). -/
def State.finishResume (s : State) (n : Nat) : State :=
  match s.core? n with
  | none => s
  | some c =>
    match c.resuming, c.shard with
    | some (slot, lease, trap), some sh =>
      let chain := c.acc0.chain || c.acc1.chain
      if c.holds.any fun h => h.2.state == .opening then s
      else if (lease || chain) && !s.hasLease n && (Map.look s.arrays (arrayOf n)).any fun a => !a.inService then
        (s.updCore n fun c => { c with resuming := none }).saveShard n sh slot trap false true lease
      else if (lease || chain) && !s.hasLease n then
        { s with arrays := Map.upd s.arrays (arrayOf n) fun a => { a with waiting := insertNat a.waiting n } }
      else
        let s := if lease then s else s.endRun n
        let s := ((s.updCore n fun c => { c with resuming := none }).giveSlot sh.ctx slot).sendTokens n
        match trap with
        | none => s
        | some x =>
          let t := c.strm x.strm
          match t.flight.find? fun f => f.order == x.order && !f.marker with
          | some f => s.takeHeldAt n x.strm f t.pc x.code x.tval
          | none => s.takeTrap n x.strm x.code x.tval
    | _, _ => s

/-- An access left in flight goes on from the new core: the addresses of the local and cluster apertures name its scratchpads (R71), and a new path serves it (R15). -/
def State.movedAccess (s : State) (n : Nat) (f : Access) : Access :=
  if f.value.isSome ∨ f.target.outside ∨ f.marker then f
  else
    let t := match aperture f.va.toNat with
      | some (k + 1, off) => Target.pad (padOf n (k + 1) off).1 (padOf n (k + 1) off).2
      | _ => f.target
    { f with target := t, path := s.pathFor n [] t }

/-- A parked shard resumes on a core (R300). A slot that cannot be read ends as R425 gives. -/
def State.resume (s : State) (key : Nat) (p : Parked) (n : Nat) : State :=
  let s := { s with parked := Map.del s.parked key }
  let p := s.asRead p.shard.ctx (s.slotAddr p.shard.ctx p.slot) p
  let die := dieOf n
  match s.readSlot p.shard.ctx (s.slotAddr p.shard.ctx p.slot) p with
  | none =>
    let s := s.giveSlot p.shard.ctx p.slot
    let s := s.newPad (parkedPad key)
    if p.shard.committed then s.failTask3 p.shard else s.restartShard p.shard
  | some (c, sh, lease) =>
    match s.core? n with
    | none => s
    | some old =>
      let holds := Map.each c.holds fun h x => match Map.look p.rows h with
        | some r => s.reopened (s.det p.shard.ctx) x r
        | none => x
      let sh := { sh with reserve := 2, cycleBase := sh.cycleBase + (s.now - p.parkedAt), dispatchedAt := s.now }
      let c := { c with
        shard := some sh, capacity := old.capacity, inService := old.inService, inbox := c.inbox ++ old.inbox, holds := holds
        dcache := [], icache := old.icache, utlb := old.utlb, keptFor := none, resuming := some (p.slot, lease, p.trapAt)
        cs := { c.cs with flight := c.cs.flight.map (s.movedAccess n) }
        as := { c.as with flight := c.as.flight.map (s.movedAccess n) } }
      let s := (s.newPad n).setCore n c
      let s := (if sh.keepsp then s.movePad (parkedPad key) n else s.newPad (parkedPad key)).setShard sh.task p.shard.num (.running n)
      let s := (slotRuns c sh).foldl (fun s r => match s.range sh.ctx .read (s.slotAddr sh.ctx p.slot + r.1) r.2 with
        | .ok ps => s.chargeParts die ps
        | _ => s) s
      State.finishResume { s with free := s.free + slotFree } n

/-- Every resume that waited for a row which is no longer opening goes on (R300, R325). -/
def State.finishResumes (s : State) : State :=
  (s.cores.filter fun e => e.2.resuming.isSome && !(e.2.holds.any fun h => h.2.state == .opening)).foldl (fun s e => s.finishResume e.1) s

/-- A parked shard that no core can take any more restarts from the beginning, if it is uncommitted (R300). -/
def State.discardParked (s : State) (key : Nat) (p : Parked) : State :=
  (({ s.newPad (parkedPad key) with parked := Map.del s.parked key }).giveSlot p.shard.ctx p.slot).restartShard p.shard

end Sys2Proof.Machine
end

