-- ==== Sys2Proof/Machine/PoolOps.lean ====
section
/-! DEFINITION. The ready pools: effective priority (R291), who may take a ready shard (R289, R292, R303), the choice of a free core (R293), and the start of a shard on a core (R35, R48, R51, R84, R144). -/

namespace Sys2Proof.Machine

/-! ### Effective priority (R291) -/

/-- The addresses of a successor list: empty without one, `none` when its count exceeds 4,096 or it cannot be read in full (R27). -/
def State.successors (s : State) (ctx : Nat) (succ : Word) : Option (List Word) :=
  if succ = 0 then some []
  else match s.readRange ctx succ.toNat 8 with
    | none => none
    | some b =>
      let n := ofBytes b
      if 4096 < n then none
      else (s.readRange ctx (succ.toNat + 8) (8 * n)).map fun bs => (List.range n).map fun k => BitVec.ofNat 64 (field bs (8 * k) 8)

/-- A reference list names the tile version of a reference. -/
def namesRef (l : List (BitVec 128)) (r : BitVec 128) : Bool :=
  l.any fun x => !(Ref.of x).latest && (Ref.of x).plain == (Ref.of r).plain

/-- Task u of the store waits on task t: t is its predecessor, or u names an exact version that t will seal. -/
def State.waitsOn (s : State) (u t : Task) : Bool :=
  u.ctx == t.ctx
  && (((s.successors t.ctx t.succ).getD []).contains u.addr || t.outs.any fun o => namesRef u.ins o)

/-- PRIO and whole intervals, or 7 for a recovery task. -/
def Task.ownEff (t : Task) : Nat := if t.rebuild.isSome then 7 else min 6 (t.prio + t.aged)

/-- eff(t) with inheritance through chains; `fuel` bounds them. -/
def State.effRec (s : State) : Nat → Task → Nat
  | 0, t => t.ownEff
  | fuel + 1, t =>
    if t.rebuild.isSome then 7
    else s.tasks.foldl (fun e u => if s.waitsOn u.2 t then max e (min 6 (s.effRec fuel u.2)) else e) t.ownEff

/-- eff(t). -/
def State.eff (s : State) (t : Task) : Nat := s.effRec s.tasks.length t

/-- The effective priority of a shard that has been dispatched: its task's at dispatch, raised by what waits on the task now. -/
def State.shardEff (s : State) (sh : Shard) : Nat :=
  match Map.look s.tasks sh.task with
  | none => sh.eff
  | some t => s.tasks.foldl (fun e u => if s.waitsOn u.2 t then max e (min 6 (s.eff u.2)) else e) sh.eff

/-- The effective priority of a parked shard, which ages from the park. -/
def State.parkedEff (s : State) (p : Parked) : Nat :=
  let e := s.shardEff p.shard
  if 7 ≤ e then e else max e (min 6 (p.shard.eff + p.aged))

/-! ### Claims (R426) -/

/-- The X-command reads the version of a key, for a shard of a context. -/
def State.commandNames (s : State) (ctx : Nat) (x : XCmd) (key : Nat) : Bool :=
  match s.findVersion ctx x.ref with
  | some (k, _) => k == key && (x.op == opTload || x.op == opTmcast || x.op == opReqnt || x.op == opTpark || x.op == opTunpark || x.op == opTrepl)
  | none => false

/-- The claim of the rebuild of a version: what waits on it, directly or through rebuilds that need it; `fuel` bounds the chain. -/
def State.claimRec (s : State) : Nat → Nat → Nat
  | 0, _ => 0
  | fuel + 1, key =>
    let ref := (Map.look s.versions key).elim 0 fun v => v.ref.word
    let byTasks := s.tasks.foldl (fun m u =>
      if u.2.rebuild.isNone ∧ u.2.state = .pending ∧ namesRef u.2.ins ref then max m (s.eff u.2) else m) 0
    let byShards := s.cores.foldl (fun m e => match e.2.shard with
      | some sh => if e.2.xqueue.any fun x => x.started && s.commandNames sh.ctx x key then max m (s.shardEff sh) else m
      | none => m) byTasks
    s.almanac.foldl (fun m a => a.2.rebuilding.foldl (fun m k => match Map.look a.2.records k with
      | some r =>
        if r.ins.any fun h => (s.followHandle h).any fun x => x.2.2.version == key then max m (s.claimRec fuel r.version) else m
      | none => m) m) byShards

/-- The claims of the rebuild tasks are computed anew (R291, R426). -/
def State.reclaim (s : State) : State :=
  if s.tasks.all fun e => e.2.rebuild.isNone then s
  else
    let claim (l : List (Nat × Nat)) : Nat := l.foldl (fun m x => match s.record? x.1 x.2 with
      | some r => max m (s.claimRec 17 r.version)
      | none => m) 0
    { s with tasks := Map.each s.tasks fun _ t => { t with claim := t.rebuild.elim t.claim claim } }

/-! ### Who may take a shard (R289, R292, R303) -/

/-- A pool's register STEAL or PREEMPT (R295). -/
def State.poolCtl (s : State) (die bit : Nat) : Bool := (Map.look s.pools die).all fun p => p.ctl.getLsbD bit

/-- FLAGS.NOSTEAL. -/
def Task.noSteal (t : Task) : Bool := t.flags.getLsbD 2

/-- No shard of the task has been dispatched, though it may have been discarded since (R292). -/
def Task.fresh (t : Task) : Bool := !t.begun

/-- The cluster of a core within its die. -/
def clusterOf (n : Nat) : Nat := n % 384 / 96

/-- A core may take work whose affinity core is `a` after `aged` intervals; `whole` says that the task may move to another cluster or die. -/
def mayTake (a n aged : Nat) (whole : Bool) : Bool :=
  n == a || (decide (1 ≤ aged) && clusterBase n == clusterBase a)
  || (whole && decide (2 ≤ aged) && dieOf n == dieOf a) || (whole && decide (4 ≤ aged))

/-- A core may take a waiting shard of a task (R292, R303). -/
def State.mayTakeShard (s : State) (t : Task) (k : Kernel) (num n : Nat) : Bool :=
  match s.affinity t k num (s.shardDie t k num) with
  | none => false
  | some a =>
    s.fits n k.hwm
    && (if s.det t.ctx || t.noSteal || !s.poolCtl (dieOf a) 1 then n == a
        else mayTake a n (if t.rebuild.isSome then 4 else t.aged) (t.fresh && t.dprod == 1))

/-- The affinity core of a parked shard: the core it was parked on (R300); in deterministic mode, or when that core can no longer run it, the first of R289's search (R303). -/
def State.parkedAffinity (s : State) (p : Parked) (t : Task) : Option Nat :=
  if s.det p.shard.ctx || !s.fits p.fromCore p.shard.hwm then
    match s.kernel t.ctx t.kdesc.toNat with
    | some k => s.affinity t k p.shard.num (s.shardDie t k p.shard.num)
    | none => none
  else some p.fromCore

/-- A core is entitled to a parked shard of affinity core `a`: it ages from the park, and its task, which has been dispatched, stays in its cluster (R292, R300, R303). -/
def State.entitled (s : State) (p : Parked) (t : Task) (a n : Nat) : Bool :=
  if s.det p.shard.ctx || t.noSteal || !s.poolCtl (dieOf a) 1 then n == a
  else mayTake a n (if t.rebuild.isSome then 4 else p.aged) false

/-- A core may take a parked shard. -/
def State.mayResume (s : State) (p : Parked) (n : Nat) : Bool :=
  (Map.look s.tasks p.shard.task).any fun t => (s.parkedAffinity p t).any fun a => !p.debug && s.canResume p n && s.entitled p t a n

/-! ### The choice of a free core (R293) -/

/-- A candidate of a core: a waiting shard of a task, or a parked shard by its key in State.parked. -/
structure Cand where
  parked : Option Nat
  task : Nat
  num : Nat
  eff : Nat
  claim : Nat
  since : Nat
  taskId : Word
  ctx : Nat
deriving DecidableEq, Repr

/-- One candidate goes before another. -/
def Cand.before (a b : Cand) : Bool :=
  if a.eff ≠ b.eff then decide (b.eff < a.eff)
  else if a.eff = 7 ∧ a.claim ≠ b.claim then decide (b.claim < a.claim)
  else if a.since ≠ b.since then decide (a.since < b.since)
  else if a.taskId ≠ b.taskId then a.taskId.ult b.taskId
  else if a.ctx ≠ b.ctx then decide (a.ctx < b.ctx)
  else decide (a.num < b.num)

/-- The numbers of the shards of a task that wait to be dispatched. -/
def Task.waitingShards (t : Task) : List Nat :=
  (t.shards.zipIdx.filter fun x => x.1 == .waiting).map fun x => x.2

/-- Dispatch goes on for a context: it is resident and not parking, tearing down or held by a checkpoint (R342, R356, R358). -/
def State.dispatches (s : State) (ctx : Nat) : Bool := !s.frozen && (Map.look s.ctxs ctx).any fun x => x.state == 1

/-- A task whose shards can be dispatched. -/
def Task.runs (t : Task) : Bool := (t.state == .ready || t.state == .running) && t.failed.isNone && t.lost.isNone

/-- In deterministic mode a task behind the head of its core's affinity queue is not dispatched before the head (R303). -/
def State.headOf (s : State) (t : Task) (n : Nat) : Bool :=
  !s.det t.ctx || s.tasks.all fun e =>
    !(e.2.ctx == t.ctx && e.2.runs && e.2.taskId.ult t.taskId
      && (s.kernel e.2.ctx e.2.kdesc.toNat).any fun k =>
        e.2.waitingShards.any fun m => s.affinity e.2 k m (s.shardDie e.2 k m) == some n)

/-- The clk at which a waiting shard of a task became ready: with its task, or by its last discard (R301). -/
def Task.readySince (t : Task) (num : Nat) : Nat := Map.lookD t.again num t.readyAt

/-- The ready shards whose affinity core is a given one, as candidates with no priority yet (R289, R290). -/
def State.placedOn (s : State) (n : Nat) : List Cand :=
  s.tasks.flatMap fun e =>
    if e.2.runs then match s.kernel e.2.ctx e.2.kdesc.toNat with
      | some k => (e.2.waitingShards.filter fun m => s.affinity e.2 k m (s.shardDie e.2 k m) == some n).map fun m =>
          { parked := none, task := e.1, num := m, eff := 0, claim := 0, since := e.2.readySince m, taskId := e.2.taskId, ctx := e.2.ctx }
      | none => []
    else []

/-- One ready shard enters an affinity queue before another: in the order they became ready, or, within a deterministic-mode context, in ascending TASKID (R286, R290, R303). -/
def State.entersBefore (s : State) (a b : Cand) : Bool :=
  if a.ctx = b.ctx ∧ s.det a.ctx ∧ a.taskId ≠ b.taskId then a.taskId.ult b.taskId
  else a.before b

/-- Entries of an affinity queue (R286). -/
def affinityEntries : Nat := 32

/-- The affinity queue of a core: the first 32 of the ready shards placed on it; the others wait in the store (R286, R290). -/
def State.affinityQueue (s : State) (n : Nat) : List Cand :=
  let l := s.placedOn n
  l.filter fun x => decide ((l.filter fun y => s.entersBefore y x).length < affinityEntries)

/-- A core may take a waiting shard of a task, from its own affinity queue or by stealing (R290, R292). -/
def State.offers (s : State) (key : Nat) (t : Task) (k : Kernel) (m n : Nat) : Bool :=
  s.mayTakeShard t k m n
  && (s.affinity t k m (s.shardDie t k m) != some n || (s.affinityQueue n).any fun x => x.task == key && x.num == m)

/-- The ready work that a core may take (R293). -/
def State.work (s : State) (n : Nat) : List Cand :=
  (s.tasks.flatMap fun e =>
    if e.2.runs && s.dispatches e.2.ctx && s.headOf e.2 n then
      match s.kernel e.2.ctx e.2.kdesc.toNat with
      | some k => (e.2.waitingShards.filter fun m => s.offers e.1 e.2 k m n).map fun m =>
          { parked := none, task := e.1, num := m, eff := s.eff e.2, claim := e.2.claim, since := e.2.readySince m, taskId := e.2.taskId, ctx := e.2.ctx }
      | none => []
    else [])
  ++ (s.parked.filter fun e => s.dispatches e.2.shard.ctx && s.mayResume e.2 n).map fun e =>
    { parked := some e.1, task := e.2.shard.task, num := e.2.shard.num, eff := s.parkedEff e.2,
      claim := (Map.look s.tasks e.2.shard.task).elim 0 Task.claim, since := e.2.parkedAt, taskId := e.2.shard.taskId, ctx := e.2.shard.ctx }

/-- A task that a core of another cluster or die takes moves as a whole, with its entry of a store (R292). -/
def State.moved (s : State) (t : Task) (k : Kernel) (num n : Nat) : Task :=
  match s.affinity t k num (s.shardDie t k num) with
  | some a =>
    if clusterBase a = clusterBase n then t
    else if dieOf a = dieOf n then { t with cluster := clusterOf n }
    else { t with cluster := clusterOf n, die := dieOf n, entry := dieOf n }
  | none => t

/-- Entries of the store of a core's die that a candidate takes: the reserve of its shard, and that of a task which moves there (R287, R292). -/
def State.entriesFor (s : State) (n : Nat) (x : Cand) : Nat :=
  match x.parked, Map.look s.tasks x.task with
  | none, some t => match s.kernel t.ctx t.kdesc.toNat with
    | some k => if (s.moved t k x.num n).entry = t.entry then 2 else 3
    | none => 2
  | _, _ => 2

/-- The candidates of a core: a shard needs a reserve of two entries of the core's die that no SPAWN waits for, and a moving task one more (R287, R288). -/
def State.candidates (s : State) (n : Nat) : List Cand :=
  let room := s.freeEntries (dieOf n) - (s.claimants (dieOf n)).length
  if room < 2 then [] else (s.work n).filter fun x => decide (s.entriesFor n x ≤ room)

/-- A core is free to choose: in service, and running no shard. -/
def State.freeCore (s : State) (n : Nat) : Bool := (s.core? n).any fun c => c.inService && c.shard.isNone

/-- The choice of a core among its candidates; a pre-empted core is kept for its task (R293, R296). -/
def State.choiceOf (s : State) (n : Nat) : Option Cand :=
  let kept := (((s.core? n).bind Core.keptFor).map Prod.fst).filter fun k => (Map.look s.tasks k).any fun t => t.runs && !t.waitingShards.isEmpty
  ((s.candidates n).filter fun x => match kept with
    | some t => x.task == t && x.parked.isNone
    | none => true).foldl (fun b x => match b with
      | none => some x
      | some y => if x.before y then some x else b) none

/-- A core takes a candidate: it is the core's choice, and no free core with a lower number chooses it as well (R293). -/
def State.takes (s : State) (n : Nat) (p : Cand → Bool) : Option Cand :=
  if ¬s.freeCore n then none
  else match s.choiceOf n with
    | none => none
    | some x =>
      if p x ∧ ¬(s.cores.any fun e => decide (e.1 < n) && s.freeCore e.1 && s.choiceOf e.1 == some x) then some x else none

/-- A parked shard that would be chosen now by a free core whose register space is too small for it, while no core that is large enough can take it: an uncommitted one restarts (R300). -/
def State.tooLarge (s : State) (key : Nat) (p : Parked) : Bool :=
  !p.shard.committed && !p.debug && s.dispatches p.shard.ctx
  && (Map.look s.tasks p.shard.task).any fun t => (s.parkedAffinity p t).any fun a =>
    let x : Cand := { parked := some key, task := p.shard.task, num := p.shard.num, eff := s.parkedEff p, claim := t.claim, since := p.parkedAt,
                      taskId := p.shard.taskId, ctx := p.shard.ctx }
    (s.cores.any fun e => s.freeCore e.1 && !s.fits e.1 p.shard.hwm && s.entitled p t a e.1 && (s.candidates e.1).all fun y => x.before y)
    && !(s.cores.any fun e => s.freeCore e.1 && s.mayResume p e.1)

/-! ### Dispatch (R35) -/

/-- A queue at dispatch, from its field of the kernel descriptor (R54, R144). -/
def queueOf (q : Nat) : Queue :=
  { base := BitVec.ofNat 11 (bits q 0 11), lenm1 := BitVec.ofNat 8 (bits q 11 8), esz := BitVec.ofNat 2 (bits q 19 2),
    head := 0, tail := 0, buf := [], off := 0 }

/-- The granules of the queue rings and of the coupled range, whose valid bits are set at dispatch (R51). -/
def Kernel.validAtStart (k : Kernel) : BitVec 2048 :=
  let run (lo n : Nat) : BitVec 2048 := BitVec.ofNat 2048 ((2 ^ n - 1) * 2 ^ lo)
  k.queues.foldl (fun v q => v ||| run (bits q 0 11) ((bits q 11 8 + 1) * queueGranules q)) (run k.cplBase k.cplCount)

/-- The bytes of a kernel binary. -/
def State.binary (s : State) (ctx : Nat) (k : Kernel) : List Byte := (s.readRange ctx k.code k.codeLen).getD []

/-- A shard at its dispatch (R29, R35, R64, R68). -/
def State.newShard (s : State) (key : Nat) (t : Task) (k : Kernel) (num : Nat) : Shard :=
  { uid := s.uid, ctx := t.ctx, task := key, taskId := t.taskId, num := num, nshard := k.shards, idx := k.idx num,
    ext := k.loops.map loopExtent, seed := t.seed, arg0 := t.arg0, arg1 := t.arg1, kdesc := t.kdesc,
    taskInfo := BitVec.ofNat 14 (t.ins.length + t.outs.length * 2 ^ 4 + t.prio * 2 ^ 8 + bits t.flags.toNat 0 3 * 2 ^ 11), ins := t.ins, outs := t.outs,
    code := BitVec.ofNat 64 k.code, codeLen := k.codeLen, hwm := k.hwm, pure := !k.impure, committed := false,
    cycleBase := s.now, dispatchedAt := s.now, eff := s.eff t, keepsp := t.flags.getLsbD 1, rebuild := t.rebuild.isSome,
    nominal := s.nominalCore t k num, khash := Config.sha384 (s.binary t.ctx k), tree := t.tree, wrote := [],
    region := none, clock := 1, knows := t.knows, halt := 0, reserve := 2 }

/-- A core at the dispatch of a shard (R35, R45 to R66, R84, R144). -/
def Kernel.startCore (k : Kernel) (old : Core) (sh : Shard) : Core :=
  let strm (e : Nat) : Stream := { Stream.idle with pc := sh.code + BitVec.ofNat 64 e }
  { Core.idle with
    shard := some sh, capacity := old.capacity, inService := old.inService, inbox := old.inbox
    cs := strm k.entryC, as := strm k.entryA, vs := strm k.entryV
    valid := k.validAtStart, queues := (k.queues.zipIdx).map fun q => (q.2, queueOf q.1)
    viewV := BitVec.ofNat 11 k.viewV, viewW := BitVec.ofNat 11 k.viewW, viewT := BitVec.ofNat 11 k.viewT
    cpl := BitVec.ofNat 64 k.cpl, stackBase := BitVec.ofNat 64 k.stackBase &&& 0x3FFF0, stackLimit := BitVec.ofNat 64 k.stackLimit &&& 0x3FFF0
    tvec := BitVec.ofNat 64 k.tvec, sregs := Map.put [] 61 (BitVec.ofNat 64 k.stackBase &&& 0x3FFF0) }

end Sys2Proof.Machine
end

