-- ==== Sys2Proof/Machine/SealOps.lean ====
section
/-! DEFINITION. Sealing a version (R274 to R276, R280, R281, R283), and what becomes of a version whose bytes are lost (R373, R415, R419, R420). -/

namespace Sys2Proof.Machine

/-! ### Records of a seal (R275, R277) -/

/-- The handle of a sealed version as an input of a kind, or 0. -/
def State.handleOf (s : State) (kind : Nat) (v : Version) : Word :=
  match v.record with
  | some (d, k) => if (s.record? d k).isSome then recordHandle kind d k v.version.toNat else 0
  | none => 0

/-- The reference of a round's result (R305, R310): RESULT at version = round. -/
def Group.resultRef (g : Group) (round : Nat) : Ref :=
  { Ref.of (BitVec.ofNat 128 (field g.decl 8 16)) with twin := false, latest := false, version := round }

/-- The sealed result of a round of a group. -/
def State.resultOf (s : State) (grp round : Nat) : Option (Nat × Version) :=
  (Map.look s.groups grp).bind fun g => s.findVersion g.ctx (g.resultRef round)

/-- The distinct results that a task's shards waited on: shard by shard, within a shard in order of return (R277). -/
def Task.results (t : Task) : List (Nat × Nat) :=
  ((List.range t.shards.length).flatMap fun k => (t.waits.filter fun w => w.1 == k).map fun w => (w.2.1, w.2.2)).eraseDups

/-- More than eight inputs and distinct results: the outputs are treated as an impure task's (R275). -/
def Task.tooMany (t : Task) : Bool := decide (8 < t.ins.length + t.results.length)

/-- The input handles that a record of a task's output holds (R277). -/
def State.inputHandles (s : State) (t : Task) : List Word :=
  (t.ins.map fun r => match s.findVersion t.ctx (Ref.of r) with
    | some (_, v) => s.handleOf 1 v
    | none => 0)
  ++ t.results.map fun x => match s.resultOf x.1 x.2 with
    | some (_, v) => s.handleOf 2 v
    | none => 0

/-- What a record keeps of its producer beyond the fields of R277 (R43). -/
def Task.ownBits (t : Task) : BitVec 32 :=
  BitVec.ofNat 32 ((t.ins.zipIdx).foldl (fun v r => if (Ref.of r.1).twin then v + 2 ^ r.2 else v) 0 % 256 + bits t.flags.toNat 0 3 * 2 ^ 8 + t.outs.length * 2 ^ 11
    + (t.submitter.elim 0 fun d => d + 1) * 2 ^ 15)

/-- FLAGS of a new record. -/
def recordFlags (root replica harvest impure pair : Bool) : BitVec 8 :=
  BitVec.ofNat 8 ((if root then 1 else 0) + (if replica then 2 else 0) + (if harvest then 8 else 0) + (if impure then 16 else 0)
    + (if pair then 32 else 0) + 128)

/-- A free record index of a shard. -/
def Almanac.freeIndex (a : Almanac) : Option Nat :=
  if a.next < recordCapacity then some a.next
  else if recordCapacity ≤ a.records.length then none
  else (List.range recordCapacity).find? fun k => (Map.look a.records k).isNone

/-- One user more, saturating (R277, R280). -/
def moreUser (u : Nat) : Nat := min 65535 (u + 1)

/-- Add a user to the record of each handle (R280). -/
def State.addUsers (s : State) (hs : List Word) : State :=
  hs.foldl (fun s h => match s.followHandle h with
    | some (d, k, _) => s.updRecord d k fun r => { r with users := moreUser r.users }
    | none => s) s

/-- The record of a live version that has the least seal order among those with non-zero depth and no replica, present or under way (R283). -/
def Almanac.oldest (a : Almanac) : Option Nat :=
  (a.records.foldl (fun b e =>
    if e.2.depth ≠ 0 ∧ ¬e.2.replicaFlight ∧ ¬e.2.replicaPresent ∧ ¬e.2.flags.getLsbD fDropped then
      match b with
      | none => some e
      | some x => if e.2.order < x.2.order then some e else b
    else b) (none : Option (Nat × Record))).map Prod.fst

/-- Replicas start, or start again, for the records of a context that have reached their bound, in every shard (R281). -/
def State.retain (s : State) (ctx : Nat) : State :=
  s.almanac.foldl (fun s a => a.2.records.foldl (fun s e =>
    if e.2.ctx = ctx ∧ e.2.depth ≠ 0 ∧ e.2.retain.toNat ≤ e.2.depth.toNat ∧ ¬e.2.flags.getLsbD fDropped then s.startReplica a.1 e.1 else s) s) s

/-- A shard whose free records have fallen below 1/16 of its capacity replicates its oldest record that can be, so that its chain trims (R283). -/
def State.thinOut (s : State) (d : Nat) : State :=
  match Map.look s.almanac d with
  | none => s
  | some a =>
    if (recordCapacity - a.records.length) * 16 < recordCapacity then
      match a.oldest with
      | some k => s.startReplica d k
      | none => s
    else s

/-- Seal a version (R274): the record, its depth and its users, the mark as the latest, and the knowledge that its readers acquire. `replica` says that its producer's kind gives REPLICA (R275); the copy needs another die in service. `harvest` is (group number, round, roster, contribution handles). -/
def State.sealVersion (s : State) (key : Nat) (v : Version) (die idx : Nat) (t : Option Task) (outix : Nat) (root impure replica : Bool)
    (harvest : Option (Nat × Nat × BitVec 64 × List Word)) (knows : Map Nat) : State :=
  let target := s.buddy die
  let copy := replica && target != die
  let retain := match s.tensor v.ctx v.handle.toNat with
    | .ok x => x.retain
    | _ => 15
  let ins := match harvest with
    | some h => h.2.2.2
    | none => if root || impure then [] else t.elim [] s.inputHandles
  let flags := recordFlags root replica harvest.isSome impure v.twin.isSome
  let depth := if root || impure then 0 else s.depthOf flags ins
  let ins := if depth = 0 then [] else ins
  let w (f : Task → Word) : Word := t.elim 0 f
  let r : Record :=
    { version := key, tile := v.ref.word, taskId := w Task.taskId, kdesc := w Task.kdesc,
      khash := match t with
        | some x => match s.kernel x.ctx x.kdesc.toNat with
          | some k => (Config.sha384 (s.binary x.ctx k)).extractLsb' 0 128
          | none => 0
        | none => 0
      seed := w Task.seed, arg0 := w Task.arg0, arg1 := w Task.arg1, roster := harvest.elim 0 fun h => h.2.2.1, ins := ins,
      round := BitVec.ofNat 32 (harvest.elim 0 fun h => h.2.1), group := BitVec.ofNat 16 (harvest.elim 0 fun h => h.1 % 4096),
      ctx := v.ctx, flags := flags, depth := BitVec.ofNat 4 depth, retain := BitVec.ofNat 4 retain,
      prio := BitVec.ofNat 3 (t.elim 0 Task.prio), nin := if harvest.isSome then 0 else ins.length, outix := BitVec.ofNat 2 outix, home := die,
      replicaDie := if copy then target else 0, replicaPresent := copy, replicaFlight := false, users := 0, win := 0, plen := 0,
      nonce := 0, keyid := 0, order := s.order, own := t.elim 0 Task.ownBits }
  let s := if copy then s.chargeCopy key v target else s
  let s := s.addUsers ins
  let s := { s with
    order := s.order + 1
    almanac := Map.upd s.almanac die fun a => { a with records := Map.put a.records idx r, mirrorLost := removeNat a.mirrorLost idx, next := max a.next (idx + 1) } }
  (s.updVersion key fun v =>
    { v with
      sealed_ := true, present := true, record := some (die, idx), task := none, writer := none, writers := [], lost := 0
      replica := if copy then some (v.image ++ v.twin.getD []) else none
      knows := knows }).chargeRecord die idx |>.retain v.ctx |>.thinOut die

/-- A rebuild task re-seals a lost version: the bytes and RESIDENT come back, and nothing else of the record changes (R417). -/
def State.resealVersion (s : State) (key d k : Nat) : State :=
  let s := { s with almanac := Map.upd s.almanac d fun a => { a with rebuilding := removeNat a.rebuilding k } }
  (s.updVersion key fun v => { v with present := true, lost := 0, writers := [] }).updRecord d k fun r => { r with flags := setBit r.flags fResident true }

/-! ### Fault records that name a version (R377, R419, R420) -/

/-- A TYPE 7 record of a version. -/
def State.versionFault (s : State) (ctx cause : Nat) (taskId : Word) (tile : BitVec 128) (tval : Word) : State :=
  (s.postFault ctx
    { typ := 7, cls := 0xFF, cause := cause, strm := 3, core := 0, shard := 0, taskId := taskId, tval := tval, pc := 0,
      addr := tile.extractLsb' 0 64, index := tile.extractLsb' 64 64 }).1

/-- INFO that names a tile's handle and version (R41). -/
def refInfo (r : Ref) : Word := BitVec.ofNat 64 (r.handle + r.version * 2 ^ 32)

/-! ### Lost bytes -/

/-- The running or parked shards of a task stop, and the task is to be disposed of (R373, R423). -/
def State.loseTask (s : State) (task : Nat) : State :=
  let s := s.stopTask task
  { s with tasks := Map.upd s.tasks task fun t => { t with lost := some ((t.lost.elim false Prod.fst) || t.committed, (t.lost.elim 0 Prod.snd)) } }

/-- A started command that reads a version reports a status when it completes. -/
def State.failReaders (s : State) (key : Nat) (status : BitVec 8) : State :=
  { s with cores := Map.each s.cores fun _ c =>
      let hit (x : XCmd) : Bool := match c.shard.bind fun sh => s.findVersion sh.ctx x.ref with
        | some (k, _) => k == key
        | none => false
      let reads (x : XCmd) : Bool := x.op == opTload || x.op == opTmcast || x.op == opReqnt || x.op == opTpark || x.op == opTunpark || x.op == opTrepl
      { c with xqueue := c.xqueue.map fun x =>
          if x.started && x.status.isNone && reads x && hit x then { x with status := some status } else x } }

/-- A version is destroyed (R373, R415): an unsealed one is lost with the work that writes it; a sealed one is not present, with the pieces that were lost, and its rows held in quadrants in service are revoked (what becomes of the others, R327 and R404 say). -/
def State.destroy (s : State) (key : Nat) (pieces : BitVec 66) : State :=
  match Map.look s.versions key with
  | none => s
  | some v =>
    let s := s.revokeRows (fun _ h => h.ofVersion key && s.quadOk h.place.toNat) 2
    if v.sealed_ then
      let s := s.updVersion key fun v => { v with present := false, lost := v.lost ||| pieces }
      match v.record with
      | some (d, k) =>
        let s := s.updRecord d k fun r => { r with flags := setBit r.flags fResident false }
        { s with tasks := Map.each s.tasks fun _ t =>
            if t.state = .ready ∧ t.fresh ∧ t.ins.any (fun r => (s.findVersion t.ctx (Ref.of r)).any fun e => e.1 == key) then { t with state := .pending } else t }
      | none => s
    else
      let s := { s with versions := Map.del s.versions key, seals := s.seals.filter fun q => q.version ≠ key }
      match v.task, v.writer with
      | some t, _ => s.loseTask t
      | none, some u =>
        match (s.cores.findSome? fun e => e.2.shard.bind fun sh => if sh.uid = u then some sh.task else none).orElse
            fun _ => s.parked.findSome? fun e => if e.2.shard.uid = u then some e.2.shard.task else none with
        | some t => s.loseTask t
        | none => s
      | none, none => s

/-- Tasks that have not been dispatched and name a version fail with status 3, INFO holding its handle and version (R420). -/
def State.failTasks (s : State) (v : Version) : State :=
  { s with tasks := Map.each s.tasks fun _ t =>
      if t.ctx = v.ctx ∧ t.rebuild.isNone ∧ t.fresh ∧ t.failed.isNone ∧ (t.state = .pending ∨ t.state = .ready) ∧ namesRef t.ins v.ref.word then
        { t with failed := some (3, none, refInfo v.ref) } else t }

/-- A version cannot be rebuilt (R420): its readers and its tasks fail, and its record is dropped. -/
def State.unrecoverable (s : State) (key d k : Nat) : State :=
  match Map.look s.versions key, s.record? d k with
  | some v, some r =>
    let s := ((s.failReaders key 9).failTasks v).versionFault v.ctx 9 r.taskId r.tile 0
    let s :=
      if r.flags.getLsbD fHarvest then
        { s with groups := Map.upd s.groups r.group.toNat fun g =>
            if g.ctx ≠ v.ctx then g else { g with rounds := Map.upd g.rounds r.round.toNat fun x => { x with state := .lost } } }
      else s
    (s.revokeRows (fun _ h => h.ofVersion key) 2).dropVersion key d k
  | _, _ => s

/-- Zero the bytes of the lost pieces of an image whose first piece has a number. -/
def zeroPieces (img : List Byte) (first : Nat) (lost : BitVec 66) : List Byte :=
  (img.zipIdx).map fun b => if lost.getLsbD (first + b.2 / 1024) then 0 else b.1

/-- The lost pieces of a version take new rows (R419). -/
def Version.rehoused (v : Version) : Version :=
  { v with moved := (List.range 66).foldl (fun m p => if v.lost.getLsbD p then Map.put m p (Map.lookD m p 0 + 1) else m) v.moved }

/-- Zero-fill (R419): the lost pieces take new rows that hold zero, but for edge elements, which read PAD (R256); the version is present again, and a TYPE 7 record names them. -/
def State.zeroFill (s : State) (key d k : Nat) : State :=
  match Map.look s.versions key, s.record? d k with
  | some v, some r =>
    let twin := v.twin.map fun t => s.edged v true (zeroPieces t (ceilDiv v.image.length 1024) v.lost)
    let s := s.updVersion key fun v => { v.rehoused with image := s.edged v false (zeroPieces v.image 0 v.lost), twin := twin }
    (s.resealVersion key d k).versionFault v.ctx 0 r.taskId r.tile (v.lost.setWidth 64)
  | _, _ => s

/-- The home copy is restored from the replica, at activity RECOVER (R333, R416, R421). -/
def State.restoreFromReplica (s : State) (key d k : Nat) : State :=
  let s := match Map.look s.versions key, s.record? d k with
    | some v, some r => s.chargeBetween key v r.replicaDie actRecover
    | _, _ => s
  (s.updVersion key fun v => match v.replica with
    | some bs => { v with image := bs.take v.image.length, twin := v.twin.map fun _ => bs.drop v.image.length }
    | none => v).resealVersion key d k

end Sys2Proof.Machine
end

