-- ==== Sys2Proof/Machine/ErrOps.lean ====
section
/-! DEFINITION. Error counters and records (R371, R374, R375), the loss of a line or a held row (R373, R405, R407), and the Calendar's ports with their reset values (R333 to R336). -/

namespace Sys2Proof.Machine

/-! ### Lost lines and rows (R373, R405, R407) -/

/-- Lines of cell memory are poisoned at their point of coherence. -/
def State.poisonLines (s : State) (first n : Nat) : State :=
  { s with poison := (List.range n).foldl (fun p k => insertNat p (first + k)) s.poison }

/-- A column access in flight on a held row of cell memory (R204). -/
def Access.onRow (f : Access) (p : HoldRow → Bool) : Bool :=
  f.fn != 0 && f.underway && match f.target with
    | .dram a => p (.cell (a / 1024 * 1024))
    | _ => false

/-- A beat of a core's A-stream that has passed check 4 of R204 for a row, or that reads or writes bytes of a held cell row, and has not been served: an access in flight, or an ARST beat that waits for its entry; its column offset and its word (R407). -/
def Core.beatOn (c : Core) (p : HoldRow → Bool) : Option (Word × Word) :=
  ((c.as.flight.find? fun f => f.onRow p).map fun f => (f.va, f.pc)).orElse fun _ =>
    (c.beat.filter fun b => b.row.any p).map fun b =>
      (word ((bits b.base.toNat 4 10 : Nat) + b.j * sextNat b.step.toNat 16), c.as.pc)

/-- The beats on a row that have passed check 4 of R204 and have not been served end as data lost: each stops its shard with a TYPE 3 record, and a store among them writes nothing (R407). -/
def State.loseBeats (s : State) (p : HoldRow → Bool) : State :=
  s.cores.foldl (fun s e => match e.2.shard, e.2.beatOn p with
    | some sh, some (tval, pc) =>
      (s.updCore e.1 fun c => c.updStrm .a fun t => { t with flight := t.flight.filter fun f => !f.onRow p }).stopPoisoned e.1 sh .a tval pc true
    | _, _ => s) s

/-- A lasting error in piece `b` of a version (R405, R407). -/
def State.losePiece (s : State) (key b : Nat) : State :=
  let first := (Map.look s.versions key).elim 0 fun v => ceilDiv v.image.length 1024
  (s.loseBeats fun
    | .piece k twin p => k == key && (if twin then first + p else p) == b
    | _ => false).destroy key (1#66 <<< b)

/-- A lasting error in a held row (R407): the row is revoked in every slot, and its lines are poisoned or its version destroyed. -/
def State.loseRow (s : State) (row : HoldRow) : State :=
  let s := (s.loseBeats fun r => r == row).revokeRows (fun _ h => h.row == row && (h.state == .opening || h.state == .held)) 2
  match row with
  | .none => s
  | .latched _ => s
  | .cell pa => s.poisonLines (pa / 64) 16
  | .piece key twin p =>
    let first := if twin then (Map.look s.versions key).elim 0 fun v => ceilDiv v.image.length 1024 else 0
    s.destroy key (1#66 <<< (first + p))

/-- A lasting error in a line of cell memory (R373, R405): a held row goes as R407 gives, else the line is poisoned. -/
def State.loseLine (s : State) (pa : Nat) : State :=
  let row := HoldRow.cell (pa / 1024 * 1024)
  if s.cores.any fun e => e.2.holds.any fun h => h.2.open && h.2.row == row then s.loseRow row else s.poisonLines (pa / 64) 1

/-! ### The Calendar's ports (R333 to R336) -/

/-- The two dies of a link; 8 is the hub. -/
def endsOf (link : Nat) : Nat × Nat := linkEnds.getD link (8, 8)

/-- Die, UNIT and INST of a port's records (R375, R409): a direction of a link is its sending end's. -/
def portUnit (p : Nat) : Nat × Nat × Nat :=
  if isQuadrant p then (p / 4, 0, p % 4)
  else
    let e := endsOf ((p - 32) / 2)
    (if p % 2 = 0 then e.1 else e.2, 6, p - 32)

/-- Change a port. -/
def State.updPort (s : State) (p : Nat) (f : Port → Port) : State := { s with ports := Map.upd s.ports p f }

end Sys2Proof.Machine
end

