-- ==== Sys2Proof/Machine/Rows.lean ====
section
/-! DEFINITION. Held rows (R324 to R332), refresh and scrub (R318, R319, R323, R405), and the Calendar's period boundary (R333 to R337). -/

namespace Sys2Proof.Machine

/-! ### ROPEN (R329) -/

/-- The result word of a row instruction (R328). -/
def rowResult (status value : Nat) : Word := BitVec.ofNat 64 (status * 2 ^ 40 + value % 2 ^ 32)

/-- H: the hold request in clk (R325). -/
def holdRequest (ht : BitVec 4) : Nat := if ht = 0 then 3000 else 750 * ht.toNat

/-- What ROPEN in its tile form finds. -/
inductive RowFind where
  | status (st : Nat)
  /-- The row piece and the version it lies in; `new` says that nothing has written the version yet. -/
  | row (x : HoldRow) (place : Nat) (v : Version) (new : Bool)

/-- The row piece of a reference (R329): status 2, 3 or 4, in this order. An output that nothing has written yet gets its version if the row is opened (R39). -/
def State.findRow (s : State) (sh : Shard) (r : Ref) (rowoff : Nat) : RowFind :=
  match (if r.latest && s.det sh.ctx then Handle.unbound else s.tensor sh.ctx r.handle) with
  | .ok t =>
    if t.badRef r then .status 2
    else
      let piece (key : Nat) (v : Version) (new : Bool) : RowFind :=
        let img := if r.twin then v.twin.getD [] else v.image
        let out := match v.task with
          | some k => k == sh.task
          | none => false
        if ¬(s.live v || (!v.sealed_ && out)) then .status 3
        else if ceilDiv img.length 1024 ≤ rowoff then .status 4
        else .row (.piece key r.twin rowoff) (s.piecePlace (s.homeDie v) key r.twin rowoff) v new
      match (s.resolveRef sh.ctx r).bind (s.findVersion sh.ctx) with
      | some (key, v) => piece key v false
      | none =>
        if sh.outs.contains r.plain.word then piece s.uid (newVersion sh t r.plain true) true else .status 3
  | _ => .status 2

/-- The rank of ROPEN's event at a slot, behind those that R337 orders. -/
def openRank : Nat := 4

/-- A slot that opens a row. -/
def Hold.opening (x : HoldRow) (place : Nat) (save : Bool) (ht : BitVec 4) (now : Nat) : Hold :=
  { Hold.empty with state := .opening, row := x, place := BitVec.ofNat 32 place, save := save, request := holdRequest ht, since := now }

/-- The steps of ROPEN behind the choice of its row: busy, the old slot freed, refused, or opening (R329). A version that nothing has written yet is made with the opening of its row. -/
def openRow (s : State) (c : Core) (sh : Shard) (rd : BitVec 6) (h : BitVec 4) (save : Bool) (ht : BitVec 4) (x : HoldRow) (place : Nat) (v : Option (Version × Bool)) : Res :=
  let n := s.curCore
  let old := s.holdAt c h.toNat
  let fin (s : State) (st value : Nat) : Res := .done (s.updCore n fun c => c.setSreg rd (rowResult st value))
  if old.state = .opening ∨ old.state = .held then fin s 1 0
  else
    let s := if old.state = .free then s else s.freeHold n h.toNat
    if ¬s.quadOk place ∨ (Map.look s.ctxs sh.ctx).any Ctx.nohold then fin s 5 0
    else
      let s := match v with
        | some (v, true) => { s with versions := Map.put s.versions s.uid v, uid := s.uid + 1 }
        | _ => s
      let s := s.updCore n fun c => c.setHold h.toNat ((Hold.opening x place save ht s.now).after (c.hold h.toNat) s.now openRank)
      fin (v.elim s fun v => s.startFetch v.1) 0 place

/-- ROPEN in its tile form (R329): a pure shard names exactly an input or an output of its task (R267). -/
def execRopen (rd ra rb : BitVec 6) (h : BitVec 4) (save : Bool) (ht : BitVec 4) (rowoff : BitVec 7) (s : State) : Out :=
  runC s fun c sh => c.ready s [rd, ra, rb] (
    let r := refOf (c.sreg ra) (c.sreg rb)
    if ¬(sh.mayRead r || sh.outs.contains r) then .trap 10 (c.sreg ra)
    else match s.findRow sh (Ref.of r) rowoff.toNat with
      | .status st => .done (s.updCore s.curCore fun c => c.setSreg rd (rowResult st 0))
      | .row x place v new => openRow s c sh rd h save ht x place (some (v, new)))

/-- ROPEN.cell (R329): checks 1, 5 and 6 of R174 on ra, then the 1 KiB row around it. -/
def execRopenCell (rd ra : BitVec 6) (h : BitVec 4) (save : Bool) (ht : BitVec 4) (s : State) : Out :=
  runC s fun c sh => c.ready s [rd, ra] (
    let va := c.sreg ra
    match aperture va.toNat with
    | some (0, off) =>
      if sh.pure then .trap 10 va
      else match c.translate 0 sh.ctx off .read with
        | .poisoned => .poison va true
        | .miss => .wait (s.tlbMiss s.curCore 0 sh.ctx off) .translation
        | .ok (.dram a) => openRow s c sh rd h save ht (.cell (a / 1024 * 1024)) (rowPlace (a / 1024 * 1024)) none
        | _ => .trap 12 va
    | _ => .trap 13 va)

/-! ### RREL, RRENEW and RSTAT (R330 to R332) -/

/-- RREL: the slot is freed; VALUE is bits [63:32] of the slot word before (R330). -/
def execRrel (rd : BitVec 6) (h : BitVec 4) (s : State) : Out :=
  runC s fun c sh => c.ready s [rd] (
    let n := s.curCore
    let x := s.holdAt c h.toNat
    if x.state = .free then .done (s.updCore n fun c => c.setSreg rd (rowResult 6 0))
    else if ¬x.admits s.now HoldState.free.rank then .wait s .none
    else
      let w := s.slotWord n h.toNat x (s.det sh.ctx)
      .done ((s.freeHold n h.toNat).updCore n fun c => c.setSreg rd (rowResult 0 (w.toNat / 2 ^ 32))))

/-- The rows of DRAM that a run of generic addresses of a command reaches. -/
def State.runRows (s : State) (n : Nat) (sh : Shard) (use : Use) (r : Nat × Nat) : List Nat :=
  (List.range (r.2 / 1024 + 2)).filterMap fun k => match s.enginePlace n sh use (BitVec.ofNat 64 (r.1 + min (1024 * k) (r.2 - 1))) with
    | .at_ (.dram a) => some (rowPlace a)
    | _ => none

/-- The rows that a started command has to reach: those of its version, or of its copy's source and destination. -/
def State.xRows (s : State) (n : Nat) (sh : Shard) (x : XCmd) : List Nat :=
  if x.op = opCopy then
    let p := Packet.of x.packet
    p.sources.flatMap (s.runRows n sh .read) ++ (p.dests (if p.whole then p.cap else p.outLen p.len)).flatMap (s.runRows n sh .write)
  else match s.findVersion sh.ctx x.ref with
    | some (key, v) => s.versionRows key v
    | none => []

/-- Some access that waits on the group of a row has waited on it more than 1,500 clk, from its issue or from the opening of the row, whichever came later (R324, R331): a ROPEN's slot for another row, an access of a stream or of a host to another row, or a started command that reaches one. -/
def State.contended (s : State) (place : Nat) : Bool :=
  let other (p : Nat) : Bool := decide (groupOf p = groupOf place) && decide (p ≠ place)
  let opened := ((s.cores.flatMap fun e => e.2.holds.map Prod.snd).filter fun h => h.open && decide (h.place.toNat = place)).foldl (fun m h => min m h.since) s.now
  let long (since : Nat) : Bool := decide (max since opened + 1500 < s.now)
  s.barWaits.any (fun w => other (rowPlace w.1) && long w.2) || s.strays.any (fun x => (match x.access.target with
      | .dram a => other (rowPlace a) && long x.access.since
      | _ => false)) || s.cores.any fun e =>
    (e.2.holds.any fun h => h.2.state == .opening && other h.2.place.toNat && long h.2.since)
    || ((e.2.cs.flight ++ e.2.as.flight).any fun f => f.underway && long f.since && (match f.target with
      | .dram a => other (rowPlace a)
      | _ => false))
    || (match e.2.shard with
      | some sh => e.2.xqueue.any fun x => x.started && long x.since && (s.xRows e.1 sh x).any other
      | none => false)

/-- The rank of RRENEW at a slot (R337). -/
def renewRank : Nat := 2

/-- A slot as RRENEW finds it: one revoked earlier in this clk as it stood before, since the RRENEW of that clk still extends the hold, which the revocation has then ended (R408). -/
def State.holdRenewed (s : State) (c : Core) (h : Nat) : Hold :=
  let x := c.hold h
  if x.stamp.1 = s.now ∧ x.state = .revoked ∧ x.before = .held then { x with state := .held } else s.holdAt c h

/-- RRENEW: the deadline is extended, or refused (R331). -/
def execRrenew (rd : BitVec 6) (h ht : BitVec 4) (s : State) : Out :=
  runC s fun c sh => c.ready s [rd] (
    let n := s.curCore
    let x := s.holdRenewed c h.toNat
    let fin (s : State) (st value : Nat) : Res := .done (s.updCore n fun c => c.setSreg rd (rowResult st value))
    if x.state ≠ .held then fin s 6 0
    else if s.det sh.ctx then fin s 0 0
    else
      let lim := x.since + s.hmax x.place.toNat
      let left (d : Nat) : Nat := min (2 ^ 32 - 1) (d - s.now)
      if x.deadline = lim then fin s 8 (left x.deadline)
      else if s.contended x.place.toNat then fin s 7 (left x.deadline)
      else
        let d := min (max x.deadline (s.now + holdRequest ht)) lim
        fin (s.updCore n fun c => if (c.hold h.toNat).state = .revoked then c else c.setHold h.toNat (Hold.after { x with deadline := d } x s.now renewRank)) 0 (left d))

/-- RSTAT: the slot word (R332). -/
def execRstat (rd : BitVec 6) (h : BitVec 4) (s : State) : Out :=
  runC s fun c sh => c.ready s [rd] (
    .done (s.updCore s.curCore fun d => d.setSreg rd (s.slotWord s.curCore h.toNat (s.holdAt c h.toNat) (s.det sh.ctx))))

/-! ### Slots of the device's own making (R325 to R327) -/

/-- The version of a slot's row is resident; a cell row always is. -/
def State.rowResident (s : State) (x : Hold) : Bool :=
  match x.row with
  | .piece key _ _ => (Map.look s.versions key).any fun v => v.present && (!v.sealed_ || s.readable v)
  | _ => true

/-- A resume reopens its saved rows in slot order: a slot below is still opening (R300). -/
def Core.opensLater (c : Core) (h : Nat) : Bool := c.resuming.isSome && c.holds.any fun e => decide (e.1 < h) && e.2.state == .opening

/-- ROW_OPENED: the buffer is free and the version resident, and the row of slot `idx` is opened, at activity HOLD (R325, R326); a resume that waited for it goes on (R300). -/
def execRowOpened (s : State) : Out :=
  onShard s fun c _ =>
    let n := s.args.core
    let h := s.args.idx
    let x := c.hold h
    if x.state ≠ .opening ∨ s.groupHeld x.place.toNat ∨ ¬s.rowResident x ∨ s.retraining x.place.toNat ∨ c.opensLater h then .refused .notEnabled
    else
      let d := s.now + min x.request (s.hmax x.place.toNat)
      let s := if s.holders x.place.toNat = [] then s.charge (quadOf x.place.toNat) actHold 1 else s
      .next ((s.updCore n fun c => c.setHold h (Hold.after { x with state := .held, since := s.now, deadline := max 1 d } x s.now openRank)).finishResume n)

/-- HOLD_EXPIRY: the clk of the deadline of slot `idx` has passed, with the RRENEWs that it could still bring (R325, R337); in deterministic mode the slot stays held to the program, and its row closes all the same (R327). -/
def execHoldExpiry (s : State) : Out :=
  onShard s fun c sh =>
    let n := s.args.core
    let h := s.args.idx
    let x := c.hold h
    if ¬x.open ∨ s.now ≤ x.deadline then .refused .notEnabled
    else .next (s.closeHold n h (if s.det sh.ctx then .held else .expired) 0)

/-- HOLD_REVOKE: slot `idx` is revoked by a lasting error in its row (`code` 2, in every slot that holds it) or by system software (`code` 4) (R325, R407). -/
def execHoldRevoke (s : State) : Out :=
  onShard s fun c _ =>
    let n := s.args.core
    let h := s.args.idx
    let x := c.hold h
    if x.state ≠ .opening ∧ x.state ≠ .held then .refused .notEnabled
    else if s.args.code = 2 then .next ((s.loseRow x.row).finishResume n)
    else if s.args.code = 4 then .next ((s.revokeHold n h 4).finishResume n)
    else .refused .notEnabled

/-! ### Refresh and scrub (R318, R319, R323, R405) -/

/-- Held rows of the subarray group of a place. -/
def State.openRows (s : State) (place : Nat) : List Nat :=
  ((s.cores.flatMap fun e => e.2.holds.map Prod.snd).filter fun h => h.open && decide (groupOf h.place.toNat = groupOf place)).map fun h => h.place.toNat

/-- A row of the group opened in this clk: a refresh due in it has run before (R337). -/
def State.openedNow (s : State) (place : Nat) : Bool :=
  s.cores.any fun e => e.2.holds.any fun h => h.2.open && decide (h.2.since = s.now) && decide (groupOf h.2.place.toNat = groupOf place)

/-- REFRESH_DUE: eight rows of the subarray group of place `a` are refreshed; a held row of the group is closed and reopened, which counts one activation, and its hold stays as it is (R318, R319). -/
def execRefreshDue (s : State) : Out :=
  let q := quadOf s.args.a
  match s.port? q with
  | none => .refused .notEnabled
  | some p =>
    if ¬isQuadrant q ∨ ¬p.inService ∨ s.openedNow s.args.a then .refused .notEnabled
    else
      .next (((s.openRows s.args.a).eraseDups.foldl (fun s place => (s.charge q actHold 1).countActivation place) (s.charge q actRefresh 2)).updPort q
        fun p => { p with refreshes := p.refreshes + 1 })

/-- A record whose replica is lost gets a new one; its depth stays 0 (R405). -/
def State.loseReplica (s : State) (d k : Nat) : State :=
  match s.record? d k with
  | none => s
  | some r =>
    ((s.updRecord d k fun x => { x with replicaPresent := false }).updVersion r.version fun v => { v with replica := none }).startReplica d k

/-- The bytes of a parked version in the tile store are lost: only its safe-tier copy remains (R405). -/
def State.loseParked (s : State) (key : Nat) : Option State :=
  match (Map.look s.versions key).bind fun v => v.record with
  | some (d, k) =>
    if (s.record? d k).any fun r => r.flags.getLsbD fParked then some (s.updRecord d k fun r => { r with flags := setBit r.flags fResident false })
    else none
  | none => none

/-- PATROL_SCRUB: one ECC codeword is read, at activity SCRUB, and, when corrected, written back (R323, R333). `code` is the outcome: 0 clean, 1 corrected, 2 uncorrectable and read again with success, 3 uncorrectable for good, which R405 settles by where the codeword lies: `idx` 0 the cell memory at `value`, 1 piece `b` of the version `a`, 2 the replica of record `b` of die `a`. Of a parked version only the safe-tier copy remains. -/
def execPatrolScrub (s : State) : Out :=
  let pa := s.args.value.toNat
  let port := pa / 2 ^ 34 % 32
  let (die, unit, inst) := portUnit port
  let err (s : State) (o : Nat) : State := s.countError die unit inst 1 o
  let s := s.charge port actScrub (if s.args.code = 0 then 1 else 2)
  if s.args.code = 0 then .next s
  else if s.args.code = 1 then .next ((err s 0).postCorrected die unit inst 1 0xFF s.args.value 0)
  else if s.args.code = 2 then .next ((err s 1).postError 1 1 die unit inst 0xFF s.args.value 0)
  else if s.args.code = 3 then
    let s' := (err s 2).postError 2 1 die unit inst 0xFF s.args.value 0
    match s.args.idx with
    | 0 => if s.cellAddr pa then .next ((s'.loseLine pa).blame (pa / 64) 1) else .refused .notEnabled
    | 1 => match Map.look s.versions s.args.a with
      | some v => if v.present ∧ s.args.b < v.pieces then .next ((s'.loseParked s.args.a).getD (s'.losePiece s.args.a s.args.b)) else .refused .notEnabled
      | none => .refused .notEnabled
    | 2 => match s.record? s.args.a s.args.b with
      | some r => if r.replicaPresent then .next (s'.loseReplica s.args.a s.args.b) else .refused .notEnabled
      | none => .refused .notEnabled
    | _ => .refused .notEnabled
  else .refused .notEnabled

/-! ### The Calendar's period (R318, R333 to R337, R409) -/

/-- Slots for which the environment says that an activity has asked in the period, two bytes each: traffic that the model's own steps do not carry. -/
def usedOf (bs : List Byte) (a : Nat) : Nat := field bs (2 * a) 2

/-- The activities in the order in which a port grants them (R335). -/
def grantOrder : List Nat := [actRefresh, actMitigate, actRecover, actHold, actHarvest, actTask, actReplica, actCkpt, actSwap, actScrub, actMgmt]

/-- A refresh or mitigation is granted beyond its cap (R335). -/
def alwaysGranted (a : Nat) : Bool := a == actRefresh || a == actMitigate

/-- Grants of a period in the order given, out of the slots that are left: each activity gets what `want` says. -/
def grantAll (want : Nat → Nat) : List Nat → Nat → Map Nat
  | [], _ => []
  | a :: r, left =>
    let g := if alwaysGranted a then want a else min (want a) left
    (a, g) :: grantAll want r (left - g)

/-- Slots that each activity of a port is granted in a period, of those it asks for: first all below their caps, and every refresh and mitigation, then the borrowers, in the order of R335. -/
def Port.grants (p : Port) (key : Nat) (ask : Nat → Nat) : Nat → Nat :=
  let b (a : Nat) : Budget := Map.lookD p.budgets a { cap := 0, borrow := false, staged := none, used := 0, borrowed := 0, tally := 0, late := 0 }
  let first := grantAll (fun a => if alwaysGranted a then ask a else min (ask a) (b a).cap.toNat) grantOrder (calCap key)
  let rest (a : Nat) : Nat := if (b a).borrow then ask a - Map.lookD first a 0 else 0
  let second := grantAll (fun a => if alwaysGranted a then 0 else rest a) grantOrder (calCap key - (first.map Prod.snd).sum)
  fun a => Map.lookD first a 0 + Map.lookD second a 0

/-- Slots taken beyond the caps of REFRESH and MITIGATE (R335). -/
def Port.beyond (p : Port) (g : Nat → Nat) : Nat :=
  (p.budgets.filter fun b => alwaysGranted b.1).foldl (fun n b => n + (g b.1 - b.2.cap.toNat)) 0

/-- The budgets after a period: what was granted and what was borrowed of it, and what waits for the next one (R335, R336). -/
def Port.account (p : Port) (ask g : Nat → Nat) : Map Budget :=
  Map.each p.budgets fun a b =>
    { b with used := BitVec.ofNat 16 (g a), borrowed := if b.borrow then BitVec.ofNat 16 (g a - b.cap.toNat) else 0, tally := ask a - g a + b.late, late := 0 }

/-- Staged caps are applied together if they sum to at most CAL.CAP; else none is, and REJECT is set (R336). After an ECC error in the budget registers it is the reset budgets that apply, and REJECT is set (R409). -/
def Port.applyStaged (p : Port) (key : Nat) : Port :=
  if p.forced then
    { p with
      forced := false, reject := true
      budgets := (resetBudgets key).map fun x => (x.1, { Map.lookD p.budgets x.1 x.2 with cap := x.2.cap, borrow := x.2.borrow, staged := none }) }
  else if p.budgets.all fun b => b.2.staged.isNone then p
  else
    let new : Map Budget := p.budgets.map fun b => (b.1, match b.2.staged with
      | some v => { b.2 with cap := v.setWidth 16, borrow := v.getLsbD 16, staged := none }
      | none => b.2)
    if (new.map fun b => b.2.cap.toNat).sum ≤ calCap key then { p with budgets := new, reject := false }
    else { p with budgets := p.budgets.map fun b => (b.1, { b.2 with staged := none }), reject := true }

/-- The refresh rate of a layer at a reading: higher at once, lower only 3 °C or more below the threshold (R318). -/
def nextRate (rate temp : Nat) : Nat :=
  let up := if 95 < temp then 2 else if 85 < temp then 1 else 0
  if rate ≤ up then up
  else if rate = 2 then (if temp ≤ 92 then (if temp ≤ 82 then 0 else 1) else 2)
  else if temp ≤ 82 then 0 else rate

/-- The rates of the four layers of a quadrant after a reading. -/
def nextRates (rates : BitVec 8) (temps : BitVec 32) : BitVec 8 :=
  BitVec.ofNat 8 ((List.range 4).foldl (fun v n => v + nextRate (bits rates.toNat (2 * n) 2) (bits temps.toNat (8 * n) 8) * 4 ^ n) 0)

/-- CALENDAR_PERIOD: a period of port `idx` ends (R334). The slots charged to its activities in it, with those that `bytes` adds for traffic the model does not carry, are granted as R335 gives; the low half of `value` gives the layer temperatures read at the boundary (R318, R336, R337). -/
def execCalendarPeriod (s : State) : Out :=
  let k := s.args.idx
  match s.port? k with
  | none => .refused .notEnabled
  | some p =>
    if s.now < p.start + 1500 then .refused .notEnabled
    else
      let ask (a : Nat) : Nat := (Map.look p.budgets a).elim 0 Budget.tally + usedOf s.args.bytes a
      let g := p.grants k ask
      let extra := p.beyond g
      let temps := s.args.value.setWidth 32
      let p := { { p with budgets := p.account ask g }.applyStaged k with periods := p.periods + 1, start := p.start + 1500, ovr := p.ovr + BitVec.ofNat 32 extra }
      let p := if isQuadrant k then { p with rates := nextRates p.rates temps, temps := temps } else p
      let s := { s with ports := Map.put s.ports k p }
      let (die, unit, inst) := portUnit k
      .next (if extra = 0 then s else s.postCorrected die unit inst 255 0xFF 0 0)

end Sys2Proof.Machine
end

