-- ==== Sys2Proof/Machine/DoneOps.lean ====
section
/-! DEFINITION. The end of a task: its completion record, its successors and its signals (R27, R34, R40, R41), and the entries that its end frees (R286, R288, R426). -/

namespace Sys2Proof.Machine

/-! ### Queue signals (R32) -/

/-- A queue of a context. -/
def State.queue? (s : State) (ctx q : Nat) : Option HostQueue := (Map.look s.ctxs ctx).bind fun x => Map.look x.queues q

/-- Change a queue of a context. -/
def State.updQueue (s : State) (ctx q : Nat) (f : HostQueue → HostQueue) : State :=
  { s with ctxs := Map.upd s.ctxs ctx fun x => { x with queues := Map.upd x.queues q f } }

/-- Write a SIGNAL dword, if there is one and it can be written. -/
def State.writeSignal (s : State) (ctx : Nat) (a : Word) : State :=
  if a = 0 then s else (s.writeRange ctx a.toNat (toBytes 8 1)).getD s

/-- One unit of work of a packet is done: a packet with nothing left is done and writes its SIGNAL, and so does each MARK that has nothing undone before it (R32). -/
def State.packetWork (s : State) (ctx q i : Nat) : State :=
  match s.queue? ctx q with
  | none => s
  | some x =>
    let open_ := x.open_.map fun e => if e.1 = i then (e.1, e.2.1, e.2.2 - 1) else e
    let done := open_.filter fun e => e.2.2 == 0
    let rest := open_.filter fun e => e.2.2 != 0
    let marks := x.marks.filter fun m => rest.all fun e => decide (m.1 < e.1)
    let left := x.marks.filter fun m => !(rest.all fun e => decide (m.1 < e.1))
    let s := s.updQueue ctx q fun x => { x with open_ := rest, marks := left }
    let s := done.foldl (fun s e => s.writeSignal ctx e.2.1) s
    marks.foldl (fun s m => s.writeSignal ctx m.2) s

/-! ### Recovery tasks held by their Vigil (R426) -/

/-- The place of a recovery task that its die's reserve has no entry for: the queue of its Vigil. -/
def vigilQueue (die : Nat) : Nat := 8 + die

/-- The recovery task that a Vigil's queue releases next: the highest claim, and the oldest within one claim. -/
def State.nextHeld (s : State) (die : Nat) : Option (Nat × Task) :=
  s.tasks.foldl (fun b e =>
    if e.2.entry = vigilQueue die then
      match b with
      | none => some e
      | some x => if x.2.claim < e.2.claim then some e else b
    else b) none

/-- An entry of a die's recovery reserve goes to the next task of its Vigil's queue, which is read at activity RECOVER (R278, R333). -/
def State.promote (s : State) (die : Nat) : State :=
  if s.recoveryUsed die < 1024 then
    match s.nextHeld die with
    | some (k, _) => ({ s with tasks := Map.upd s.tasks k fun t => { t with entry := die } }).chargeBytes die (controlAt die) 256 actRecover
    | none => s
  else s

/-! ### Completion (R40, R41) -/

/-- The completion record (R41). -/
def completionRecord (t : Task) (status : Nat) (core : Option Nat) (now : Nat) (info : Word) : List Byte :=
  toBytes 8 t.taskId.toNat ++ toBytes 4 status ++ toBytes 2 (t.shards.filter fun x => x == .retired).length
  ++ toBytes 2 (core.elim 0 fun n => 0x8000 + n) ++ toBytes 8 now ++ toBytes 8 info.toNat

/-- A TYPE 9 record of a task's bookkeeping: cause 1 its completion record, 2 its successor list (R377). -/
def State.bookkeepingFault (s : State) (t : Task) (cause : Nat) (tval : Word) : State :=
  (s.postFault t.ctx
    { typ := 9, cls := 0xFF, cause := cause, strm := 3, core := 0, shard := 0, taskId := t.taskId, tval := tval, pc := 0, addr := 0, index := 0 }).1

/-- A range of a context has poisoned data. -/
def State.rangePoisoned (s : State) (ctx va n : Nat) : Bool :=
  match s.range ctx .write va n with
  | .ok ps => ps.any fun p => s.poisoned p.1 p.2
  | _ => false

/-- Step 3 of R40: the completion record is written, or a TYPE 9 record posted. -/
def State.writeCompletion (s : State) (t : Task) (status : Nat) (core : Option Nat) (info : Word) : State :=
  if t.crec = 0 then s
  else match (if s.rangePoisoned t.ctx t.crec.toNat 32 then none else s.writeRange t.ctx t.crec.toNat (completionRecord t status core s.now info)) with
    | some s => s
    | none => s.bookkeepingFault t 1 t.crec

/-- A successor of a task that ended with a status (R34, R41): DEPS falls, or the successor fails with 5 (4 at a teardown) unless it has been dispatched. A successor that is not in the store is counted as stale (R27). -/
def State.release1 (s : State) (t : Task) (status : Nat) (addr : Word) : State :=
  match s.taskAt t.ctx addr with
  | none => s.staleUp t.ctx
  | some (k, u) =>
    let s := { s with tasks := Map.upd s.tasks k fun u => { u with knows := mergeKnows u.knows t.doneKnows } }
    if status ≠ 0 ∧ u.fresh ∧ u.state ≠ .running then
      { s with tasks := Map.upd s.tasks k fun u => { u with failed := u.failed.orElse fun _ => some (if status = 4 then 4 else 5, none, 0) } }
    else s.lowerDeps k 1

/-- Step 4 of R40: every successor in list order; a list that cannot be used is not used at all (R27). -/
def State.releaseAll (s : State) (t : Task) (status : Nat) : State :=
  match s.successors t.ctx t.succ with
  | none => (s.staleUp t.ctx).bookkeepingFault t 2 t.succ
  | some l => l.foldl (fun s a => s.release1 t status a) s

/-- The unsealed outputs of a task that seals none are dropped, unless another task writes them too. -/
def State.dropOutputs (s : State) (key : Nat) : State :=
  { s with
    versions := s.versions.filter fun e =>
      !(e.2.task == some key && !e.2.sealed_ && !(s.tasks.any fun u => u.1 != key && u.2.ctx == e.2.ctx && namesRef u.2.outs e.2.ref.word))
    seals := s.seals.filter fun q => q.task != some key }

/-- A task completes with a status (R40 steps 3 to 5, R41, R106), and its entry frees (R288). -/
def State.completeTask (s : State) (key : Nat) (t : Task) (status : Nat) (core : Option Nat) (info : Word) : State :=
  let s := if status = 0 then s else s.dropOutputs key
  let s := (s.writeCompletion t status core info).releaseAll t status
  let s := if t.flags.getLsbD 0 then s.msixUp ((Map.look s.ctxs t.ctx).elim 0 Ctx.owner) (2 + t.ctx % 62) else s
  let s := match t.packet with
    | some (c, q, i) => s.packetWork c q i
    | none => s
  let s := { s with
    tasks := Map.del s.tasks key
    ctxs := Map.upd s.ctxs t.ctx fun x => { x with knows := mergeKnows x.knows t.doneKnows } }
  (((s.unbind fun b => b.1 == key).freeWaiting).refill t.entry).reclaim

end Sys2Proof.Machine
end

