-- ==== Sys2Proof/Machine/HarvestOps.lean ====
section
/-! DEFINITION. Harvest control: declarations (R305), members, tags and rounds (R307), the judgement of a contribution (R308), the quorum (R309), the states of a round (R310), and the fold (R311). -/

namespace Sys2Proof.Machine

/-! ### Declarations (R305) -/

def Group.n (g : Group) : Nat := field g.decl 2 1
def Group.k (g : Group) : Nat := field g.decl 3 1
def Group.combine (g : Group) : Nat := bits (field g.decl 4 1) 0 2
def Group.weight (g : Group) : Nat := bits (field g.decl 4 1) 2 2
def Group.etype (g : Group) : Nat := bits (field g.decl 5 1) 0 4
def Group.proxy (g : Group) : Bool := bitAt (field g.decl 6 2) 0
def Group.outPort (g : Group) : Nat := bits (field g.decl 6 2) 1 3
def Group.contrib (g : Group) : Nat := field g.decl 0x18 4
def Group.first (g : Group) : BitVec 32 := BitVec.ofNat 32 (field g.decl 0x1C 4)
def Group.peers (g : Group) : Nat := field g.decl 0x40 8

/-- The lag limit of a member. -/
def Group.lag (g : Group) (m : Nat) : Nat := bits (field g.decl (0x20 + m / 2) 1) (4 * (m % 2)) 4

/-- The reference of contribution tile (m, 0, 0) at a round. -/
def Group.contribRef (g : Group) (m round : Nat) : Ref :=
  { handle := g.contrib, i := m, j := 0, b := 0, twin := false, latest := false, version := round, rest := 0 }

/-- A declaration block is malformed (R305). -/
def State.badDecl (s : State) (ctx : Nat) (bs : List Byte) : Bool :=
  let n := field bs 2 1
  let k := field bs 3 1
  let op := field bs 4 1
  let et := field bs 5 1
  let fl := field bs 6 2
  let r := Ref.of (BitVec.ofNat 128 (field bs 8 16))
  bits (field bs 0 2) 12 4 != 0 || bits op 4 4 != 0 || bits et 4 4 != 0 || bits fl 4 12 != 0 || !zeroRange bs 0x48 56
  || r.rest != 0 || r.twin || r.latest || r.version != 0
  || n == 0 || decide (64 < n) || k == 0 || decide (n < k)
  || (decide (2 ≤ bits op 0 2) && !(bits op 2 2 == 0 || bits op 2 2 == 3))
  || !(et == 8 || et == 9 || et == 10)
  || (bitAt fl 0 && field bs 0x40 8 != 0)
  || (s.det ctx && k != n)
  || (match s.tensor ctx r.handle, s.tensor ctx (field bs 0x18 4) with
      | .ok t, .ok c =>
        t.quant != 0 || t.etype != et
        || decide (ceilDiv t.rows t.tr ≤ r.i) || decide (ceilDiv t.cols t.tc ≤ r.j) || decide (t.batch ≤ r.b)
        || c.etype != 10 || c.quant != 0 || c.tr != t.tr || c.tc != t.tc || decide (c.rows < n * t.tr) || decide (c.cols < t.tc) || c.batch != 1
      | _, _ => true)

/-! ### Rounds and members (R307) -/

/-- The index of a round. -/
def Group.index (g : Group) (r : BitVec 32) : Nat := (r - g.first).toNat

/-- A round has closed. -/
def Group.closed (g : Group) (r : BitVec 32) : Bool := decide (g.index r < g.index g.open_)

/-- A round lies before FIRST. -/
def Group.beforeFirst (g : Group) (r : BitVec 32) : Bool := decide (g.index g.open_ < 2 ^ 31) && decide (2 ^ 31 ≤ g.index r)

/-- δ(x), the offset from the open round. -/
def Group.delta (g : Group) (x : BitVec 32) : Int :=
  if (x - g.open_).toNat ≤ 16 then (x - g.open_).toNat else -((g.open_ - x).toNat : Int)

/-- The later of two tags or rounds. -/
def Group.later (g : Group) (x y : BitVec 32) : BitVec 32 := if g.delta x < g.delta y then y else x

/-- A member before anything is known of it. -/
def Member.fresh (present : Bool) : Member :=
  { bound := none, port := none, present := present, leaveAt := none, stalled := false, last := none, own := none, hist := [] }

/-- A member. -/
def Group.member (g : Group) (m : Nat) : Member := Map.lookD g.members m (Member.fresh false)

/-- LAST(m) + 1 as the member's own contributions set it (R68, R315). -/
def Group.ownNext (g : Group) (m : Nat) : BitVec 32 := match (g.member m).own with
  | some l => l + 1
  | none => g.first

/-- LAST(m) + 1, FIRST when there is none. -/
def Group.nextOf (g : Group) (m : Nat) : BitVec 32 := match (g.member m).last with
  | some l => l + 1
  | none => g.first

/-- Replace a member. -/
def Group.setMember (g : Group) (m : Nat) (x : Member) : Group := { g with members := Map.put g.members m x }

/-- A member is PRESENT in the open round. -/
def Group.present (g : Group) (m : Nat) : Bool :=
  let x := g.member m
  x.present && match x.leaveAt with
    | some l => decide (g.delta g.open_ < g.delta l)
    | none => true

/-- P: the members that are PRESENT and not STALLED. DESIGN CHOICE: in a deterministic-mode context R309 leaves STALLED members out while R307 makes every roster the whole group and R315 gives P = n; the model follows the latter two (notes/assumptions/46.md). -/
def Group.presentCount (g : Group) (det : Bool) : Nat := if det then g.n else ((List.range g.n).filter fun m => g.present m && !(g.member m).stalled).length

/-- A round in its first state. -/
def Round.future : Round := { state := .future, roster := 0, onTime := 0, lags := [], knows := [] }

/-- A round of a group. -/
def Group.round (g : Group) (r : BitVec 32) : Round := Map.lookD g.rounds r.toNat .future

/-- Replace a round. -/
def Group.setRound (g : Group) (r : BitVec 32) (x : Round) : Group := { g with rounds := Map.put g.rounds r.toNat x }

/-- Replace a group. -/
def State.setGroup (s : State) (k : Nat) (g : Group) : State := { s with groups := Map.put s.groups k g }

/-- The group of a context under a number (R306, R312). -/
def State.groupOf? (s : State) (ctx k : Nat) : Option Group := (Map.look s.groups k).filter fun g => g.ctx == ctx

/-- Shards bound to a group, as (task key, shard number). -/
def Group.bound (g : Group) : List (Nat × Nat) := g.members.filterMap fun m => m.2.bound

/-! ### Quorum (R309, R310) -/

/-- Latch 4 of every shard bound to a group (R193, R310). -/
def State.latchGroup (s : State) (g : Group) : State :=
  let hit (sh : Shard) : Bool := g.bound.contains (sh.task, sh.num)
  { s with
    cores := Map.each s.cores fun _ c => if c.shard.any hit then { c with latches := setBit c.latches 4 true } else c
    parked := Map.each s.parked fun _ p => if hit p.shard then { p with core := { p.core with latches := setBit p.core.latches 4 true } } else p }

/-- The state of a group is mirrored to the Harvest control of its die's buddy, at every counted contribution and every round close (R422). -/
def State.mirrorGroup (s : State) (k : Nat) : State := (Map.look s.groups k).elim s fun g => s.chargeShadow g.die 64

/-- Evaluate the quorum of a group, and of each round that becomes the open one; `fuel` bounds them. With `lost`, a round that no member is PRESENT in does not close (R427). -/
def State.evaluate (s : State) (k : Nat) (lost : Bool) : Nat → State
  | 0 => s
  | fuel + 1 =>
    match Map.look s.groups k with
    | none => s
    | some g =>
      let x := g.round g.open_
      let p := g.presentCount (s.det g.ctx)
      if x.roster = 0 ∨ x.onTime < min g.k p ∨ (lost ∧ p = 0) ∨ g.proxy then s
      else
        let g := { g.setRound g.open_ { x with state := .closing } with open_ := g.open_ + 1 }
        (((s.setGroup k g).latchGroup g).mirrorGroup k).evaluate k lost fuel

/-- An event of a class and a member may come to a group's Harvest control in this clk: none that R309 takes after it has come in it. -/
def Group.admits (g : Group) (now cls m : Nat) : Bool :=
  g.stamp.1 != now || decide (g.stamp.2.1 < cls) || (g.stamp.2.1 == cls && decide (g.stamp.2.2 ≤ m))

/-- Note an event that comes in this clk. -/
def State.stampGroup (s : State) (k cls m : Nat) : State := { s with groups := Map.upd s.groups k fun g => { g with stamp := (s.now, cls, m) } }

/-- Evaluate after an event. -/
def State.quorum (s : State) (k : Nat) (lost : Bool) : State := s.evaluate k lost 17

/-! ### Judging a contribution (R308) -/

/-- The result word (R312). -/
def harvestWord (status : Nat) (round : BitVec 32) : Word := BitVec.ofNat 64 (status * 2 ^ 40 + round.toNat)

/-- w(lag), exactly. -/
def lagWeight (weight lag : Nat) : Val :=
  if weight = 1 then .fin false 1 (2 ^ lag) else if weight = 2 then .fin false 1 (1 + lag) else .fin false 1 1

/-- The contribution version's image: each element weighted exactly and rounded once to .f32, edge elements from the result tensor's PAD (R308). -/
def weighted (t : Tensor) (r : Ref) (weight lag : Nat) (payload : List Byte) : List Byte :=
  let img := t.withEdges r payload
  (List.range (t.tr * t.tc)).flatMap fun k =>
    toBytes 4 (roundTo 10 0 0 false ((lagWeight weight lag).mul (valOf t.etype (elemOf (typeWidth t.etype) img k))).1).1

/-- What a judgement gives. -/
inductive Verdict where
  /-- It cannot be judged yet: a deterministic-mode contribution waits, or no record is free. -/
  | waits
  /-- The result word; the group afterwards; whether a contribution was counted. -/
  | word (s : State) (status : Nat) (round : BitVec 32) (counted : Bool)

/-- The ROUND of a result word that the rules give as O: in a deterministic-mode context the member's own next round stands for it (R68). -/
def State.openFor (s : State) (g : Group) (m : Nat) : BitVec 32 := if s.det g.ctx then g.ownNext m else g.open_

/-- Seal the contribution version, if its stores have room (R308): the version, as a root with its replica, or a status. -/
def State.sealContribution (s : State) (g : Group) (x : Contribution) (c : BitVec 32) (img : List Byte) : State ⊕ Option Nat :=
  let ref := g.contribRef x.member c.toNat
  match s.tensor g.ctx g.contrib with
  | .ok t =>
    let home := s.standIn (t.homeOf ref)
    let v := (blankVersion g.ctx none none t ref).filled t ref img
    match s.findVersion g.ctx ref with
    | some _ => .inr (some 8)
    | none =>
      if s.tileStoreFull home v.pieces ∨ s.tileStoreFull (s.buddy home) v.pieces then .inr (some 7)
      else match (Map.look s.almanac home).bind Almanac.freeIndex with
        | none => .inr none
        | some i =>
          let task := (s.tasks.find? fun e => e.2.ctx == g.ctx && e.2.taskId == x.taskId).map Prod.snd
          let key := s.uid
          let s := { s with versions := Map.put s.versions key v, uid := s.uid + 1 }
          .inl (((s.sealVersion key v home i task 0 true false true none x.knows).updRecord home i fun r => { r with taskId := x.taskId }).chargeVersion key v actHarvest)
  | _ => .inr (some 5)

/-- Judge a contribution (R308). -/
def State.judge (s : State) (k : Nat) (g : Group) (x : Contribution) : Verdict :=
  let m := g.member x.member
  let stop (st : Nat) (r : BitVec 32) : Verdict := .word s st r false
  match m.hist.find? fun h => h.1 == x.taskId && h.2.1 == x.shard && h.2.2.1 == x.tag with
  | some h => stop 0 h.2.2.2
  | none =>
    let o := s.openFor g x.member
    if m.stalled then stop 1 o
    else
      let c := g.later (g.later x.tag g.open_) (g.nextOf x.member)
      let lag := (c - x.tag).toNat
      if 15 < (c - g.open_).toNat then (if s.det g.ctx then .waits else stop 3 o)
      else if g.lag x.member < lag then .word (s.setGroup k (g.setMember x.member { m with stalled := true })) 1 o false
      else if g.weight = 3 ∧ 0 < lag then stop 2 c
      else match s.tensor g.ctx (g.resultRef 0).handle with
        | .ok t =>
          match s.sealContribution g x c (weighted t (g.resultRef 0) g.weight lag x.payload) with
          | .inr none => .waits
          | .inr (some st) => stop st o
          | .inl s =>
            let g := g.setMember x.member { m with last := some c, own := some c, hist := ((x.taskId, x.shard, x.tag, c) :: m.hist).take 16 }
            let r := g.round c
            let g := g.setRound c
              { r with
                roster := setBit r.roster x.member true, onTime := if lag = 0 then r.onTime + 1 else r.onTime
                lags := Map.put r.lags x.member lag, knows := mergeKnows r.knows x.knows }
            .word ((s.setGroup k g).mirrorGroup k) 0 c true
        | _ => stop 5 o

/-! ### The fold (R311) -/

/-- Members of a roster in ascending order. -/
def rosterMembers (roster : BitVec 64) : List Nat := (List.range 64).filter fun m => roster.getLsbD m

/-- The fold of one element over the contributions' .f32 values, before conversion. -/
def foldElement (combine : Nat) (weights : Val) : List Nat → Nat
  | [] => 0
  | x :: xs =>
    if combine = 2 then xs.foldl (fmax false 10) x
    else if combine = 3 then xs.foldl (fmin false 10) x
    else
      let sum := xs.foldl (fun a b => (roundTo 10 0 0 false ((valOf 10 a).add 0 (valOf 10 b)).1).1) x
      if combine = 1 then (roundTo 10 0 0 false ((valOf 10 sum).div weights)).1 else sum

/-- The exact sum of the weights of a roster. -/
def weightSum (weight : Nat) (lags : Map Nat) (roster : BitVec 64) : Val :=
  (rosterMembers roster).foldl (fun a m => (a.add 0 (lagWeight weight (Map.lookD lags m 0))).1) (.fin false 0 1)

/-- The result image of a round from its contributions' images: folded, converted with rne, edge elements at PAD (R311). -/
def Group.fold (g : Group) (t : Tensor) (x : Round) (images : List (List Byte)) : List Byte :=
  let w := weightSum g.weight x.lags x.roster
  t.withEdges (g.resultRef 0)
    (packElems (typeWidth g.etype) ((List.range (t.tr * t.tc)).map fun k =>
      (roundTo g.etype 0 0 false (valOf 10 (foldElement g.combine w (images.map fun i => elemOf 32 i k)))).1))

/-- The contribution versions of a round, if every one is present and can be read. -/
def State.contributions (s : State) (g : Group) (round : BitVec 32) (roster : BitVec 64) : Option (List (Nat × Version)) :=
  (rosterMembers roster).mapM fun m =>
    (s.findVersion g.ctx (g.contribRef m round.toNat)).filter fun e => e.2.sealed_ && e.2.present

/-- The record handles of a round's contributions. -/
def State.contributionHandles (s : State) (g : Group) (round : BitVec 32) (roster : BitVec 64) : List Word :=
  (rosterMembers roster).map fun m => match s.findVersion g.ctx (g.contribRef m round.toNat) with
    | some e => s.handleOf 1 e.2
    | none => 0

/-- Set the state of a round, which a proxy group may not have heard of yet (R316). -/
def State.roundState (s : State) (k round : Nat) (st : RoundState) : State :=
  { s with groups := Map.upd s.groups k fun g => { g with rounds := Map.put g.rounds round { Map.lookD g.rounds round .future with state := st } } }

/-- The round's result cannot be sealed: an error record, and status 8 for its waiters (R310). -/
def State.failRound (s : State) (k : Nat) (g : Group) (round : Nat) : State :=
  (s.roundState k round .failed).postError 2 255 g.die 12 0 g.ctx 0 0

/-! ### Members that leave or are lost (R312, R414, R427) -/

/-- A member is not PRESENT from the open round, and the quorum is evaluated; in deterministic mode it stays PRESENT (R427). -/
def State.loseMember (s : State) (k m : Nat) : State :=
  match Map.look s.groups k with
  | none => s
  | some g =>
    let x := { g.member m with bound := none, port := none }
    if s.det g.ctx then s.setGroup k (g.setMember m x)
    else (s.setGroup k (g.setMember m { x with present := false, leaveAt := none })).quorum k true

/-- Every member that a test on bindings accepts is lost. -/
def State.loseMembers (s : State) (p : Member → Bool) : State :=
  (s.groups.flatMap fun g => (g.2.members.filter fun m => p m.2).map fun m => (g.1, m.1)).foldl (fun s e => s.loseMember e.1 e.2) s

/-! ### Messages to peers (R316, R348, R349) -/

/-- Send a reply or message on a Bilot port. -/
def State.sendMsg (s : State) (port typ : Nat) (ctx : BitVec 8) (tag : BitVec 32) (addr arg : Nat) (payload : List Byte) : State :=
  { s with sent := s.sent ++ [{ port := port, hdr := messageHeader typ 0 ctx tag payload.length addr arg, payload := payload }] }

/-- Ports that peer members of a group are bound from. -/
def Group.memberPorts (g : Group) : List Nat := (g.members.filterMap fun m => m.2.port).eraseDups

/-- A sealed result goes to the peers whose members are bound (R316). -/
def State.sendResults (s : State) (k round : Nat) (img : List Byte) : State :=
  match Map.look s.groups k with
  | none => s
  | some g => g.memberPorts.foldl (fun s p =>
      { (s.sendMsg p 6 (Config.peerCtx p g.ctx) s.tag (k + round * 2 ^ 32) (g.round (BitVec.ofNat 32 round)).roster.toNat img) with
        tag := s.tag + 1
        outstanding := s.outstanding ++ [{ port := p, tag := s.tag, typ := 6, core := 0, strm := .c, va := 0, engine := false, since := s.now }] }) s

end Sys2Proof.Machine
end

