-- ==== Sys2Proof/Machine/Harvest.lean ====
section
/-! DEFINITION. The Harvest instructions (R312 to R315), and the arrival of contributions and the end of folds at Harvest control (R308, R310). -/

namespace Sys2Proof.Machine

/-- The group number and member index in ra (R312). -/
def raGroup (v : Word) : Nat := bits v.toNat 0 12
def raMember (v : Word) : Nat := bits v.toNat 12 6

/-- The operand check of R312 on ra and on an rb that carries a tag or round. -/
def harvestOperand (ra : Word) (rb : Option Word) : Option Word :=
  if ra.toNat / 2 ^ 18 ≠ 0 then some ra else rb.filter fun v => v.toNat / 2 ^ 32 != 0

/-- The shard is bound to a member of a group. -/
def Group.binds (g : Group) (m : Nat) (sh : Shard) : Bool := (g.member m).bound == some (sh.task, sh.num)

/-- Bindings that a shard holds (R307). -/
def State.bindings (s : State) (sh : Shard) : Nat := s.groups.foldl (fun n g => n + (g.2.bound.filter fun b => b == (sh.task, sh.num)).length) 0

/-- A word that answers with a result word at once. -/
def answer (s : State) (rd : BitVec 6) (w : Word) : Res := .done (s.updCore s.curCore fun c => c.setSreg rd w)

/-- A word of the Harvest fails where the spec names no STATUS for it: a race over its image, or a declaration in poisoned data, which is a status and no trap (R312). DESIGN CHOICE: the STATUS is a free value from 1 to 9 (notes/assumptions/50.md). -/
def answerFree (s : State) (rd : BitVec 6) (round : BitVec 32) : Res :=
  answer { s with free := s.free + 1 } rd (harvestWord (1 + (Config.freeWord s.free).toNat % 9) round)

/-! ### HJOIN, HLEAVE and HSYNC (R306, R307, R312) -/

/-- A group at its installation (R306, R307): in a deterministic-mode context every member is PRESENT from then on. DESIGN CHOICE: where the tensor of RESULT cannot be read, as may happen for a group of a park area, the spec does not say which die combines; the model takes die 0 (notes/assumptions/57.md). -/
def State.newGroup (s : State) (ctx : Nat) (bs : List Byte) : Group :=
  let first := BitVec.ofNat 32 (field bs 0x1C 4)
  let r := Ref.of (BitVec.ofNat 128 (field bs 8 16))
  let die := match s.tensor ctx r.handle with
    | .ok t => s.standIn (t.homeOf r)
    | _ => 0
  { ctx := ctx, decl := bs, die := die, open_ := first, members := (List.range (field bs 2 1)).map fun m => (m, Member.fresh (s.det ctx)),
    rounds := [(first.toNat, Round.future)], inflight := [], stamp := (0, 0, 0) }

/-- A group is installed (R306). -/
def State.install (s : State) (ctx k : Nat) (bs : List Byte) : State := s.setGroup k (s.newGroup ctx bs)

/-- The installed group that a declaration names, installed now if it is not, or a status (R306). -/
def State.joined (s : State) (sh : Shard) (bs : List Byte) : State ⊕ Nat :=
  let k := bits (field bs 0 2) 0 12
  match Map.look s.groups k with
  | some g => if g.ctx = sh.ctx ∧ g.decl = bs then .inl s else .inr 5
  | none =>
    if s.badDecl sh.ctx bs then .inr 5
    else if 4096 ≤ s.groups.length then .inr 7
    else .inl (s.install sh.ctx k bs)

/-- Bind a shard to a member (R307, R312). -/
def State.bindMember (s : State) (sh : Shard) (k m : Nat) : State × Nat × BitVec 32 :=
  match Map.look s.groups k with
  | none => (s, 5, 0)
  | some g =>
    let x := g.member m
    if g.n ≤ m then (s, 5, g.open_)
    else if g.binds m sh then (s, 0, s.openFor g m)
    else if x.bound.isSome ∨ x.port.isSome ∨ g.peers.testBit m then (s, 4, s.openFor g m)
    else if 8 ≤ s.bindings sh then (s, 7, s.openFor g m)
    else
      (s.setGroup k (g.setMember m
        { x with bound := some (sh.task, sh.num), present := true, leaveAt := none }), 0, s.openFor g m)

/-- HJOIN: the group of the declaration at ra is installed or checked, and the shard is bound to member rb (R306, R307, R312). The block is read by Harvest control, so that poisoned data in it is a status (R312, R373). -/
def execHjoin (rd ra rb : BitVec 6) (s : State) : Out :=
  runC s fun c sh => c.ready s [rd, ra, rb] (
    let va := c.sreg ra
    let m := (c.sreg rb).toNat
    if m / 2 ^ 6 ≠ 0 then .trap 13 (c.sreg rb)
    else match aperture va.toNat with
      | some (0, off) =>
        if off % 64 ≠ 0 then .trap 11 va
        else match c.translate 0 sh.ctx off .read with
          | .fault => .trap 12 va
          | .poisoned => .poison va true
          | .miss => .wait (s.tlbMiss s.curCore 0 sh.ctx off) .translation
          | .ok _ =>
            if ¬s.sealedRange sh.ctx off 128 then answer s rd (harvestWord 5 0)
            else match s.readRange sh.ctx off 128 with
              | none => answerFree s rd 0
              | some bs => match s.joined sh bs with
                | .inr st => answer s rd (harvestWord st 0)
                | .inl s' =>
                  let (s', st, r) := s'.bindMember sh (bits (field bs 0 2) 0 12) m
                  answer s' rd (harvestWord st r)
      | _ => .trap 13 va)

/-- HLEAVE: the shard is unbound, and in general mode the member is not PRESENT from LAST + 1, or from O if that is later (R312); behind an event of this clk that R309 takes after it, it comes in the next. -/
def execHleave (rd ra : BitVec 6) (s : State) : Out :=
  runC s fun c sh => c.ready s [rd, ra] (
    let va := c.sreg ra
    let k := raGroup va
    let m := raMember va
    match harvestOperand va none with
    | some v => .trap 13 v
    | none => match s.groupOf? sh.ctx k with
      | none => answer s rd (harvestWord 5 0)
      | some g =>
        if ¬g.binds m sh then answer s rd (harvestWord 6 (s.openFor g m))
        else if ¬g.admits s.now 2 m then .wait s .none
        else
          let x := { g.member m with bound := none }
          if s.det sh.ctx then answer ((s.setGroup k (g.setMember m x)).stampGroup k 2 m) rd (harvestWord 0 (g.ownNext m))
          else
            let from_ := g.later (g.nextOf m) g.open_
            answer (((s.setGroup k (g.setMember m { x with leaveAt := some from_ })).stampGroup k 2 m).quorum k false) rd (harvestWord 0 from_))

/-- HSYNC: the stall is cleared, LAST becomes O − 1 if it is none or earlier, and the quorum is evaluated (R312); behind an HLEAVE of this clk, or an HSYNC of a higher member, it comes in the next (R309). -/
def execHsync (rd ra : BitVec 6) (s : State) : Out :=
  runC s fun c sh => c.ready s [rd, ra] (
    let va := c.sreg ra
    let k := raGroup va
    let m := raMember va
    match harvestOperand va none with
    | some v => .trap 13 v
    | none => match s.groupOf? sh.ctx k with
      | none => answer s rd (harvestWord 5 0)
      | some g =>
        if ¬g.binds m sh then answer s rd (harvestWord 6 (s.openFor g m))
        else if ¬g.admits s.now 1 m then .wait s .none
        else
          let x := g.member m
          let before := g.open_ - 1
          let last := match x.last with
            | none => before
            | some l => if g.delta l < g.delta before then before else l
          let g' := g.setMember m { x with stalled := false, last := some last }
          answer (((s.setGroup k g').stampGroup k 1 m).quorum k false) rd (harvestWord 0 (s.openFor g' m)))

/-! ### HCONTRIB (R313) -/

/-- The size of a group's payload image: the result tile in ETYPE (R313). -/
def State.payloadSize (s : State) (g : Group) : Option Nat :=
  match s.tensor g.ctx (g.resultRef 0).handle with
  | .ok t => some t.imageSize
  | _ => none

/-- Send a payload to the group's Harvest control, or forward it unjudged from a proxy group (R313, R316). -/
def State.sendContribution (s : State) (n : Nat) (sh : Shard) (rd : BitVec 6) (k : Nat) (g : Group) (m : Nat) (tag : BitVec 32) (img : List Byte) : State :=
  let s := s.chargeFlits (dieOf n) g.die (s.choosePath (dieOf n) g.die) actHarvest (ceilDiv img.length 64)
  let x : Contribution :=
    { member := m, tag := tag, taskId := sh.taskId, shard := sh.num, payload := img, core := some (n, rd.toNat), peer := none, uid := sh.uid,
      knows := sh.release }
  if g.proxy then
    let p := g.outPort
    let s := s.setGroup k { g with inflight := g.inflight ++ [{ x with peer := some (p, s.tag) }] }
    { (s.sendMsg p 5 (Config.peerCtx p sh.ctx) s.tag (k + m * 2 ^ 12 + tag.toNat * 2 ^ 32) 0 img) with
      tag := s.tag + 1
      outstanding := s.outstanding ++ [{ port := p, tag := s.tag, typ := 5, core := n, strm := .c, va := 0, engine := false, since := s.now }] }
  else s.setGroup k { g with inflight := g.inflight ++ [x] }

/-- Every store of the A-stream has performed, for a contribution of a scope: at system scope the flushing reads behind host-window stores have returned too (R99, R101). -/
def Core.aStoresDone (c : Core) (scope : Nat) : Bool :=
  c.as.flight.all fun f => f.kind != .store || (decide (f.path = 6) && (decide (scope ≠ 3) || f.failed))

/-- HCONTRIB: a release; the image at OFF is read and sent, and rd is pending until the result word arrives (R313). In a re-execution nothing is sent. -/
def execHcontrib (rd ra rb : BitVec 6) (off : BitVec 12) (s : State) : Out :=
  runC s fun c sh => c.ready s [rd, ra, rb] (c.afterAcquire s (
    let va := c.sreg ra
    let k := raGroup va
    let m := raMember va
    let n := s.curCore
    let lo := 64 * off.toNat
    match harvestOperand va (some (c.sreg rb)) with
    | some v => .trap 13 v
    | none =>
      let tag := (c.sreg rb).setWidth 32
      if sh.rebuild then answer s rd (harvestWord 0 tag)
      else match s.groupOf? sh.ctx k with
        | none => answer s rd (harvestWord 5 0)
        | some g =>
          match s.payloadSize g with
          | none => answer s rd (harvestWord 5 (s.openFor g m))
          | some size =>
            if 0x40000 < lo + size then answer s rd (harvestWord 5 (s.openFor g m))
            else if ¬g.binds m sh then answer s rd (harvestWord 6 (s.openFor g m))
            else
              let scope := if g.peers ≠ 0 ∨ g.proxy then 3 else 2
              c.afterStores s scope (
                if ¬c.aStoresDone scope then .wait s .stores
                else if s.poisoned (.pad n lo) size then .poison (BitVec.ofNat 64 (0xFF00000000000000 + lo)) false
                else if (s.raceAt sh (.pad n lo) size false true false).isSome then answerFree s rd (s.openFor g m)
                else if g.proxy ∧ ¬s.hubOk (dieOf n) then .wait s .reply
                else
                  let s' := ((s.watch n sh (.pad n lo) size false true false).flushedOut n c sh scope).sendContribution n sh rd k g m tag (s.readTarget (.pad n lo) size)
                  .done (((s'.updCore n fun c => c.setPending rd).tickClock n).syncPoint n))))

/-! ### HWAIT (R314) -/

/-- How a round stands for a waiter. -/
inductive WaitFor where
  | waits
  | status (st : Nat)
  | ready (key : Nat) (v : Version) (x : Round)

/-- A round of a group, for HWAIT (R310, R314, R418); a round that a proxy group has not received fails while its port is down (R414). -/
def State.roundFor (s : State) (g : Group) (r : BitVec 32) : WaitFor :=
  let x := g.round r
  if g.beforeFirst r then .status 9
  else match x.state with
    | .failed => .status 8
    | .lost => .status 9
    | .dropped => .status 9
    | .sealed_ => match s.findVersion g.ctx (g.resultRef r.toNat) with
      | none => .status 9
      | some (key, v) => if ¬s.live v then .status 9 else if s.readable v then .ready key v x else .waits
    | _ => if g.proxy && s.bilotDown.contains g.outPort then .status 8 else .waits

/-- A completed wait is recorded with the task's lineage: a KIND 2 input (R277, R279), and its roster (R304). -/
def State.recordWait (s : State) (sh : Shard) (k : Nat) (r : BitVec 32) (x : Round) : State :=
  { s with tasks := Map.upd s.tasks sh.task fun t =>
      { t with waits := t.waits ++ [(sh.num, k, r.toNat)], rosters := t.rosters ++ [(sh.num, x.roster)] } }

/-- HWAIT with status 0: the image is loaded as TLOAD loads one, behind the rows that hold its groups (R268, R324), the wait recorded, and the contributors' releases acquired (R99, R106, R314). -/
def hwaitDone (s : State) (sh : Shard) (rd : BitVec 6) (k : Nat) (r : BitVec 32) (key : Nat) (v : Version) (x : Round) (noimg : Bool) (lo : Nat) : Res :=
  let n := s.curCore
  if ¬noimg ∧ 0x40000 < lo + v.image.length then answer s rd (harvestWord 5 r)
  else if ¬noimg ∧ (s.raceAt sh (.pad n lo) v.image.length true true false).isSome then answerFree s rd r
  else if ¬noimg ∧ s.versionBlocked key v then .wait s .round
  else
    let s := if noimg then s else ((s.chargeVersion key v actTask).watch n sh (.pad n lo) v.image.length true true false).writeTarget (.pad n lo) v.image
    let s := ((s.recordWait sh k r x).acquire n (mergeKnows x.knows v.knows)).syncPoint n
    answer (s.updCore n fun c => { c with dcache := [] }) rd (harvestWord 0 r)

/-- HWAIT: waits until round rb is sealed, failed, lost or dropped (R314); in a re-execution the recorded result returns at once (R279). -/
def execHwait (rd ra rb : BitVec 6) (noimg : Bool) (off : BitVec 12) (s : State) : Out :=
  runC s fun c sh => c.ready s [rd, ra, rb] (c.afterAcquire s (
    let va := c.sreg ra
    let k := raGroup va
    match harvestOperand va (some (c.sreg rb)) with
    | some v => .trap 13 v
    | none =>
      let r := (c.sreg rb).setWidth 32
      match s.groupOf? sh.ctx k with
      | none => answer s rd (harvestWord 5 0)
      | some g =>
        let replayed := sh.rebuild && (Map.look s.tasks sh.task).any fun t => t.replay.contains (k, r.toNat)
        match (if replayed then s.findVersion g.ctx (g.resultRef r.toNat) else none) with
        | some (key, v) => hwaitDone s sh rd k r key v (g.round r) noimg (64 * off.toNat)
        | none => match s.roundFor g r with
          | .waits =>
            let s := match s.findVersion g.ctx (g.resultRef r.toNat) with
              | some (_, v) => s.startFetch v
              | none => s
            .wait s .round
          | .status st => answer s rd (harvestWord st r)
          | .ready key v x => hwaitDone s sh rd k r key v x noimg (64 * off.toNat)))

/-! ### HSTAT (R315) -/

/-- HSTAT sel 0: the roster of a round, fixed or so far; in deterministic mode it waits until the round has closed. -/
def execHstatRoster (rd ra rb : BitVec 6) (s : State) : Out :=
  runC s fun c sh => c.ready s [rd, ra, rb] (
    match harvestOperand (c.sreg ra) (some (c.sreg rb)) with
    | some v => .trap 13 v
    | none =>
      let r := (c.sreg rb).setWidth 32
      match s.groupOf? sh.ctx (raGroup (c.sreg ra)) with
      | none => answer s rd 0
      | some g =>
        if g.beforeFirst r then answer s rd 0
        else if s.det sh.ctx ∧ ¬g.closed r then .wait s .round
        else answer s rd (g.round r).roster)

/-- HSTAT sel 1: the group word. -/
def execHstatGroup (rd ra rb : BitVec 6) (s : State) : Out :=
  runC s fun c sh => c.ready s [rd, ra, rb] (
    match harvestOperand (c.sreg ra) none with
    | some v => .trap 13 v
    | none => match s.groupOf? sh.ctx (raGroup (c.sreg ra)) with
      | none => answer s rd (BitVec.ofNat 64 (5 * 2 ^ 56))
      | some g =>
        let w (q p on : Nat) (o : BitVec 32) : Word := BitVec.ofNat 64 (q * 2 ^ 48 + p * 2 ^ 40 + on * 2 ^ 32 + o.toNat)
        if s.det sh.ctx then answer s rd (w g.n g.n 0 g.first)
        else answer s rd (w (min g.k (g.presentCount false)) (g.presentCount false) (g.round g.open_).onTime g.open_))

/-- HSTAT sel 2: the member word, in deterministic mode with LAST as the member's own contributions set it; 0 for a group or member that is not there. -/
def execHstatMember (rd ra rb : BitVec 6) (s : State) : Out :=
  runC s fun c sh => c.ready s [rd, ra, rb] (
    let m := raMember (c.sreg ra)
    match harvestOperand (c.sreg ra) none with
    | some v => .trap 13 v
    | none => match (s.groupOf? sh.ctx (raGroup (c.sreg ra))).filter fun g => decide (m < g.n) with
      | none => answer s rd 0
      | some g =>
        let x := g.member m
        let mine := g.binds m sh
        let bound := if s.det sh.ctx then mine else x.bound.isSome || x.port.isSome
        let b (v : Bool) (i : Nat) : Nat := if v then 2 ^ i else 0
        answer s rd (BitVec.ofNat 64
          (b mine 39 + b bound 38 + b x.stalled 37 + b (g.present m) 36 + g.lag m * 2 ^ 32 + (((if s.det sh.ctx then x.own else x.last).getD (g.first - 1))).toNat)))

/-! ### Harvest control (R308 to R310) -/

/-- The result word goes to the register that waits for it, or to the peer that sent the contribution (R313, R316). -/
def State.deliverWord (s : State) (x : Contribution) (w : Word) : State :=
  match x.core, x.peer with
  | some (n, rd), _ =>
    if ((s.core? n).bind Core.shard).any fun sh => sh.uid == x.uid then s.updCore n fun c => c.settleReg rd w else s
  | none, some (p, tag) => s.sendMsg p 0x84 0 tag 0 w.toNat []
  | none, none => s

/-- A contribution leaves the way to Harvest control. -/
def State.takeContribution (s : State) (k idx : Nat) : State :=
  { s with groups := Map.upd s.groups k fun g => { g with inflight := g.inflight.eraseIdx idx } }

/-- HARVEST_CONTRIBUTION: contribution `idx` on its way to group `a` reaches Harvest control, in the order that R309 gives events of one clk, and is judged; a lasting error on the way, which `flag` marks, gives status 8 and counts nothing (R308, R309, R372). -/
def execHarvestContribution (s : State) : Out :=
  let k := s.args.a
  match Map.look s.groups k with
  | none => .refused .notEnabled
  | some g =>
    match g.inflight[s.args.idx]? with
    | none => .refused .notEnabled
    | some x =>
      if g.proxy ∨ ¬g.admits s.now 0 x.member then .refused .notEnabled
      else if s.args.flag then
        .next ((s.takeContribution k s.args.idx).deliverWord x (harvestWord 8 (s.openFor g x.member)))
      else match s.judge k g x with
        | .waits => .refused .notEnabled
        | .word s' st r counted =>
          let s' := ((s'.takeContribution k s.args.idx).stampGroup k 0 x.member).deliverWord x (harvestWord st r)
          let stalls := st == 1 && !(g.member x.member).stalled
          .next (if counted || stalls then s'.quorum k false else s')

/-- The result version of a round as the fold leaves it, unsealed (R310, R311). -/
def State.placeResult (s : State) (g : Group) (t : Tensor) (round : BitVec 32) (img : List Byte) (knows : Map Nat) : State × Nat :=
  let ref := g.resultRef round.toNat
  match s.findVersion g.ctx ref with
  | some (key, _) => (s.updVersion key fun v => { v.filled t ref img with task := none, writer := none, knows := knows }, key)
  | none =>
    let v : Version := { (blankVersion g.ctx none none t ref).filled t ref img with knows := knows }
    ({ s with versions := Map.put s.versions s.uid v, uid := s.uid + 1 }, s.uid)

/-- The writes of a result version are charged to HARVEST (R333). -/
def State.chargeResult (s : State) (key : Nat) : State := (Map.look s.versions key).elim s fun v => s.chargeVersion key v actHarvest

/-- ROUND_FOLD_DONE: the fold of round `b` of group `a` is done, and its seal report goes out; a version already sealed fails the round, and a contribution lost for good loses it (R310, R311, R428). -/
def execRoundFoldDone (s : State) : Out :=
  let k := s.args.a
  let r := BitVec.ofNat 32 s.args.b
  match Map.look s.groups k with
  | none => .refused .notEnabled
  | some g =>
    let x := g.round r
    if x.state ≠ .closing then .refused .notEnabled
    else
      let gone := (rosterMembers x.roster).any fun m => match s.findVersion g.ctx (g.contribRef m r.toNat) with
        | some (_, v) => !s.live v
        | none => true
      if gone then .next (s.roundState k r.toNat .lost)
      else match s.tensor g.ctx (g.resultRef 0).handle, s.contributions g r x.roster with
        | .ok t, some vs =>
          if (s.findVersion g.ctx (g.resultRef r.toNat)).any fun e => e.2.sealed_ then .next (s.failRound k g r.toNat)
          else
            let s := vs.foldl (fun s v => s.chargeVersion v.1 v.2 actHarvest) s
            let (s, key) := s.placeResult g t r (g.fold t x (vs.map fun v => v.2.image)) x.knows
            let s := (s.roundState k r.toNat .sealing).chargeResult key
            .next { s with
              seals := s.seals ++
                [{ version := key, task := none, outix := 0, round := some (k, r.toNat), root := false, replica := false, impure := false, reseal := false, since := s.now, die := s.standIn g.die }] }
        | .ok _, none => .refused .notEnabled
        | _, _ => .next (s.failRound k g r.toNat)

/-- A shard that is bound as a member has been lost (R423, R427). -/
def State.lostShard (s : State) (b : Nat × Nat) : Bool :=
  match Map.look s.tasks b.1 with
  | none => true
  | some t => t.lost.isSome && match t.shards[b.2]? with
    | some .stopped => true
    | none => true
    | _ => false

/-- MEMBER_LOST: member `b` of group `a`, whose shard is lost or whose peer port has gone down, is not PRESENT from the open round (R414, R427). -/
def execMemberLost (s : State) : Out :=
  match Map.look s.groups s.args.a with
  | none => .refused .notEnabled
  | some g =>
    let m := g.member s.args.b
    if m.bound.any s.lostShard || m.port.any s.bilotDown.contains then .next (s.loseMember s.args.a s.args.b) else .refused .notEnabled

end Sys2Proof.Machine
end

