-- ==== Sys2Proof/Machine/Lineage.lean ====
section
/-! DEFINITION. Seal reports (R274 to R283), the end of replicas and fetches (R281, R284), the loss of a version (R415), and Vigil's walk (R416 to R420). -/

namespace Sys2Proof.Machine

/-! ### Seal reports (R274, R275, R417) -/

/-- The home die of the version of a report. -/
def State.sealHome (s : State) (q : Seal) : Nat := (Map.look s.versions q.version).elim 0 s.homeDie

/-- No report before it on the same channel is still there: a seal channel keeps its order (R21). -/
def State.firstSeal (s : State) (idx : Nat) (q : Seal) : Bool :=
  (s.seals.take idx).all fun p => !(s.sealHome p == s.sealHome q && p.die == q.die)

/-- A report leaves the channel, and its task has one less to wait for; a TSEAL's report is not the task's. -/
def State.acknowledge (s : State) (idx : Nat) (q : Seal) : State :=
  let s := { s with seals := s.seals.eraseIdx idx }
  match q.task with
  | some t => if q.root then s else { s with tasks := Map.upd s.tasks t fun t => { t with sealsLeft := t.sealsLeft - 1 } }
  | none => s

/-- What the release that precedes a report hands on (R106): the shard's for a TSEAL, the task's for an output. -/
def State.sealKnows (s : State) (q : Seal) (v : Version) (t : Option Task) : Map Nat :=
  match q.round with
  | some (k, r) => (Map.look s.groups k).elim [] fun g => (g.round (BitVec.ofNat 32 r)).knows
  | none =>
    if q.root then (s.cores.findSome? fun e => e.2.shard.filter fun h => some h.uid == v.writer).elim (t.elim [] Task.doneKnows) Shard.release
    else t.elim [] Task.doneKnows

/-- A shard has no free record: a capacity record goes onto the bus once in the shortage, and the report waits (R283). -/
def State.shortage (s : State) (die ctx : Nat) : Option State :=
  if (Map.look s.almanac die).any Almanac.short then none
  else some ({ s with almanac := Map.upd s.almanac die fun a => { a with short := true } }.postError 0 255 die 10 0 ctx 0 0)

/-- Report `idx` is taken by the home shard, which records, mirrors and acknowledges it (R274); none while it waits, for an earlier one, a free record (R283) or room for the replica it needs. -/
def State.takeReport (s : State) (idx : Nat) (q : Seal) : Option State :=
  match Map.look s.versions q.version with
  | none => some (s.acknowledge idx q)
  | some v =>
    if ¬s.firstSeal idx q then none
    else if q.reseal then
      match v.record with
      | some (d, k) => some (((s.resealVersion q.version d k).acknowledge idx q).reclaim)
      | none => some (s.acknowledge idx q)
    else
      let home := s.homeDie v
      match q.round.bind fun x => (Map.look s.groups x.1).map fun g => (x.1, x.2, g) with
      | some (k, r, g) =>
        if v.sealed_ ∨ s.tileStoreFull home 0 then some ((s.failRound k g r).acknowledge idx q)
        else match (Map.look s.almanac home).bind Almanac.freeIndex with
          | none => s.shortage home v.ctx
          | some i =>
            let x := g.round (BitVec.ofNat 32 r)
            let s' := s.sealVersion q.version v home i none 0 false false false
              (some (k, r, x.roster, s.contributionHandles g (BitVec.ofNat 32 r) x.roster)) (s.sealKnows q v none)
            some (((s'.roundState k r .sealed_).sendResults k r v.image).acknowledge idx q)
      | none =>
        let t := q.task.bind fun k => Map.look s.tasks k
        if v.sealed_ then
          some { (s.acknowledge idx q) with
            tasks := match q.task with
              | some k => Map.upd (s.acknowledge idx q).tasks k fun t => { t with failed := t.failed.orElse fun _ => some (2, none, 0) }
              | none => s.tasks }
        else match (Map.look s.almanac home).bind Almanac.freeIndex with
          | none => s.shortage home v.ctx
          | some i =>
            if q.replica ∧ s.buddy home ≠ home ∧ s.tileStoreFull (s.buddy home) v.pieces then none
            else some ((s.sealVersion q.version v home i t q.outix q.root q.impure q.replica none (s.sealKnows q v t)).acknowledge idx q)

/-- SEAL_REPORT: report `idx` reaches the home shard and is taken, or posts the shortage that it waits for (R274, R283). A report that meets a TDROP or TPARK of its clk is taken first: one whose version such a command has found unsealed in this clk comes in the next. -/
def execSealReport (s : State) : Out :=
  match s.seals[s.args.idx]? with
  | none => .refused .notEnabled
  | some q => match (if (Map.look s.versions q.version).any fun v => v.asked == some s.now then none else s.takeReport s.args.idx q) with
    | some s' => .next s'
    | none => .refused .notEnabled

/-! ### Replicas and fetches (R281, R284) -/

/-- Mark a record's version as being rebuilt. -/
def State.mark (s : State) (d k : Nat) : State :=
  { s with almanac := Map.upd s.almanac d fun a => { a with rebuilding := insertNat a.rebuilding k } }

/-- A record's version is marked as being rebuilt. -/
def State.marked (s : State) (d k : Nat) : Bool := (Map.look s.almanac d).any fun a => a.rebuilding.contains k

/-- A replica ends without its writes: the record stays as it was (R281). -/
def State.replicaFails (s : State) (d k : Nat) : State := s.updRecord d k fun r => { r with replicaFlight := false }

/-- REPLICA_DONE: replica `idx` has performed; `flag` says that a lasting error ended it, as a full or lost die does (R281). -/
def execReplicaDone (s : State) : Out :=
  let idx := s.args.idx
  match s.replicas[idx]? with
  | none => .refused .notEnabled
  | some x =>
    let s' := { s with replicas := s.replicas.eraseIdx idx }
    match (s.record? x.die x.index).bind fun r => Map.look s.versions r.version with
    | none => .next s'
    | some v =>
      if s.args.flag ∨ ¬s.readable v ∨ ¬s.dies.getLsbD x.target ∨ s.tileStoreFull x.target v.pieces then .next (s'.replicaFails x.die x.index)
      else .next ((s'.chargeCopy ((s.record? x.die x.index).elim 0 Record.version) v x.target).replicaDone x.die x.index x.target)

/-- A fetch that fails is served from the replica, or the version is lost: its waiting commands report a status (R284). -/
def State.fetchFails (s : State) (key d k : Nat) (r : Record) (status : BitVec 8) : State :=
  if r.replicaPresent then s.restoreFromReplica key d k else (s.failReaders key status).unrecoverable key d k

/-- A started command waits for the version of a key. -/
def State.awaited (s : State) (key : Nat) : Bool :=
  s.cores.any fun e => e.2.shard.any fun sh => e.2.xqueue.any fun x => x.started && x.status.isNone && s.commandNames sh.ctx x key

/-- PARKED_FETCH_DONE: fetch `idx` completes and the version is resident again (R284); `code` 10 says that the host refused it, and 9 that its completion came with the EP bit (R412). With no room in the home's tile store its commands report status 7 and the fetch stays. -/
def execParkedFetchDone (s : State) : Out :=
  let idx := s.args.idx
  match s.fetches[idx]? with
  | none => .refused .notEnabled
  | some f =>
    let s' := { s with fetches := s.fetches.eraseIdx idx }
    match s.record? f.die f.index with
    | none => .next s'
    | some r =>
      match Map.look s.versions r.version with
      | none => .next s'
      | some v =>
        let key := r.version
        let n := v.image.length + v.twin.elim 0 List.length
        match Map.look s.keys r.keyid.toNat, (if s.args.code = 10 ∨ s.args.code = 9 then none else s.readRange v.ctx r.win.toNat r.plen.toNat) with
        | some k, some bs =>
          match unparkStream k r.nonce r.win n bs with
          | none => .next ((s'.fetchFails key f.die f.index r 8).reclaim)
          | some img =>
            if s.tileStoreFull r.home v.pieces then (if s.awaited key then .next (s.failReaders key 7) else .refused .notEnabled)
            else
              .next ((((s'.chargeVersion key v (if s.marked f.die f.index then actRecover else actSwap)).updVersion key fun v =>
                { v with image := img.take v.image.length, twin := v.twin.map fun _ => img.drop v.image.length }).resealVersion key f.die f.index).reclaim)
        | _, _ => .next ((s'.fetchFails key f.die f.index r (if s.args.code = 9 then 9 else 10)).reclaim)

/-! ### Destruction and Vigil's walk (R415 to R419) -/

/-- VERSION_DESTROYED: the home copy of record `b` of die `a` is lost in the row pieces that the low bits of `hdr` name (R415). -/
def execVersionDestroyed (s : State) : Out :=
  match s.record? s.args.a s.args.b with
  | none => .refused .notEnabled
  | some r =>
    match Map.look s.versions r.version with
    | none => .refused .notEnabled
    | some v =>
      let pieces := s.args.hdr.setWidth 66
      if v.sealed_ ∧ s.readable v ∧ pieces ≠ 0 ∧ pieces.toNat < 2 ^ v.pieces then .next (s.destroy r.version pieces) else .refused .notEnabled

/-- The tensor of a version has LOSS = 1. -/
def State.lossy (s : State) (v : Version) : Bool :=
  match s.tensor v.ctx v.handle.toNat with
  | .ok t => t.loss
  | _ => false

/-- The records whose versions the rebuild of a record's version needs: of a Harvest result the contributions of its roster, else the inputs; `none` for one that is missing (R416). -/
def State.needs (s : State) (r : Record) : List (Option (Nat × Nat)) :=
  if r.flags.getLsbD fHarvest then
    match Map.look s.groups r.group.toNat with
    | none => [none]
    | some g => (rosterMembers r.roster).map fun m =>
        ((s.findVersion g.ctx (g.contribRef m r.round.toNat)).bind fun e => e.2.record).filter fun x => (s.record? x.1 x.2).isSome
  else r.ins.map fun h => (s.followHandle h).map fun x => (x.1, x.2.1)

/-- A record that is rebuilt by no rule: a root, an impure task's, or one that needs a missing record (R416). -/
def State.stuck (s : State) (r : Record) : Bool := r.flags.getLsbD fRoot || r.flags.getLsbD fImpure || (s.needs r).any Option.isNone

/-- The walk of R416 from a record ends at one that cannot be rebuilt; `fuel` bounds it. -/
def State.hopeless (s : State) : Nat → Nat → Nat → Bool
  | 0, _, _ => false
  | fuel + 1, d, k =>
    match s.record? d k with
    | none => true
    | some r =>
      match Map.look s.versions r.version with
      | none => true
      | some v =>
        if v.present ∨ r.replicaPresent ∨ r.flags.getLsbD fParked ∨ s.lossy v then false
        else s.stuck r || ((s.needs r).filterMap id).any fun x => s.hopeless fuel x.1 x.2

/-- The records that a rebuild needs and whose versions are not present. -/
def State.missingInputs (s : State) (r : Record) : List (Nat × Nat) :=
  ((s.needs r).filterMap id).filter fun x => !(s.record? x.1 x.2).any fun y => (Map.look s.versions y.version).any Version.present

/-- What a rebuild needs has been given up: the walk from it has ended without it (R416). -/
def State.givenUp (s : State) (x : Nat × Nat) : Bool := !s.marked x.1 x.2 && s.hopeless (s.recordCount + 1) x.1 x.2

/-- need(x) for every input that is not present: the walk extends to it. A dropped version is rebuilt only so (R282, R415). -/
def State.needAll (s : State) (xs : List (Nat × Nat)) : State := xs.foldl (fun s x => s.mark x.1 x.2) s

/-- The records of the outputs of a record's producer, by output: same context and TASKID, made by the task and not by a TSEAL or a Harvest round (R417). -/
def State.siblings (s : State) (r : Record) : List (Nat × Nat × Record) :=
  s.almanac.flatMap fun a => (a.2.records.filter fun e =>
    e.2.ctx == r.ctx && e.2.taskId == r.taskId && !e.2.flags.getLsbD fRoot && !e.2.flags.getLsbD fHarvest).map fun e => (a.1, e.1, e.2)

/-- The reference of a sibling output whose record has been freed (R417). -/
def noOutput : BitVec 128 := 0xFFFFFFFF

/-- A record's version can only come back by running its producer again. -/
def State.rerunOnly (s : State) (d k : Nat) (r : Record) : Bool :=
  match Map.look s.versions r.version with
  | none => false
  | some v => v.sealed_ && !v.present && !r.replicaPresent && !r.flags.getLsbD fParked && !s.lossy v && (!r.flags.getLsbD fDropped || s.marked d k)

/-- The rebuild task of a record's producer (R43, R417): it names the exact versions of the record as the first run named them, and its outputs keep the places the records give. -/
def State.rebuildTask (s : State) (r : Record) (lost : List (Nat × Nat)) : Task :=
  let hs := r.ins.filterMap s.followHandle
  let ins := (r.ins.filter fun h => handleKind h == 1).filterMap fun h => (s.followHandle h).map fun x => x.2.2.tile
  let results := (r.ins.zip hs).filterMap fun x => if handleKind x.1 = 2 then some (x.2.2.2.group.toNat, x.2.2.2.round.toNat) else none
  let sib := s.siblings r
  let ins := (ins.zipIdx).map fun x => if r.own.getLsbD x.2 then { Ref.of x.1 with twin := true }.word else x.1
  let outs := (List.range (bits r.own.toNat 11 4)).map fun n => (sib.find? fun e => e.2.2.outix.toNat == n).elim noOutput fun e => e.2.2.tile
  let k := s.kernel r.ctx r.kdesc.toNat
  let sub := (if bits r.own.toNat 15 4 = 0 then none else some (bits r.own.toNat 15 4 - 1))
  let die := s.standIn (s.firstDie r.ctx ins sub)
  let t : Task :=
  { ctx := r.ctx, taskId := r.taskId, kdesc := r.kdesc, seed := r.seed, succ := 0, crec := 0, deps := 0, prio := r.prio.toNat, flags := BitVec.ofNat 8 (bits r.own.toNat 8 3),
    arg0 := r.arg0, arg1 := r.arg1, ins := ins, outs := outs, addr := 0, die := die,
    entry := if s.recoveryUsed die < 1024 then die else vigilQueue die, submitter := sub, cluster := 0, state := .pending, resolved := true,
    shards := List.replicate (k.elim 0 Kernel.shards) .waiting, dprod := k.elim 1 fun k => k.prod 3, cprod := k.elim 1 fun k => k.prod 2,
    pure := k.any fun k => !k.impure, aged := 0, readyAt := 0, again := [], losses := 0, failed := if k.any Kernel.loopsOk then none else some (7, none, 0),
    lost := none, sealsLeft := 0, rebuild := some lost, claim := 0, packet := none, committed := false, begun := false, manifest := none, rosters := [], waits := [],
    replay := results, tree := s.treeOf r.ctx, knows := (Map.look s.ctxs r.ctx).elim [] Ctx.knows, doneKnows := [] }
  { t with cluster := t.hash / 8 % 4 }

/-- The bytes of a version that its producer writes again start as those of a version that nothing has written (R39). -/
def State.blankLost (s : State) (key : Nat) : State :=
  match Map.look s.versions key with
  | none => s
  | some v => match s.tensor v.ctx v.handle.toNat with
    | .ok t => s.updVersion key fun v => { v with image := t.blank, twin := v.twin.map fun _ => t.swapped.blank, writers := [] }
    | _ => s

/-- The rebuild task of the same producer, with its key. -/
def State.rebuilder (s : State) (r : Record) : Option (Nat × Task) :=
  s.tasks.find? fun e => e.2.rebuild.isSome && e.2.ctx == r.ctx && e.2.taskId == r.taskId

/-- Enqueue the producer of a record for every output of it that is lost (R417, R426), or join the rebuild task that has not been dispatched; `none` while one runs. -/
def State.enqueueProducer (s : State) (r : Record) : Option State :=
  let lost := (s.siblings r).filter fun e => s.rerunOnly e.1 e.2.1 e.2.2
  let l := lost.map fun e => (e.1, e.2.1)
  let s' := (lost.foldl (fun s e => s.blankLost e.2.2.version) s).needAll l
  match s.rebuilder r with
  | some (key, t) =>
    if ¬t.fresh ∨ t.state = .running ∨ l.all (fun x => (t.rebuild.getD []).contains x) then none
    else some { s' with tasks := Map.put s'.tasks key { t with rebuild := some l } }
  | none => some (s'.accept (s.rebuildTask r l))

/-- The result version of a round whose contributions are all present, folded over its recorded roster, and the contributions (R311, R416). -/
def State.refold (s : State) (r : Record) (v : Version) : Option (Version × List (Nat × Version)) :=
  match Map.look s.groups r.group.toNat with
  | none => none
  | some g =>
    match s.tensor v.ctx v.handle.toNat, s.contributions g r.round r.roster with
    | .ok t, some vs => some (v.filled t v.ref (g.fold t { g.round r.round with roster := r.roster } (vs.map fun x => x.2.image)), vs)
    | _, _ => none

/-- REBUILD: Vigil takes record `b` of die `a`, whose version is not present, one step along R416: what cannot be rebuilt is given up, each version of the walk for itself, from its far end. -/
def execRebuild (s : State) : Out :=
  let d := s.args.a
  let k := s.args.b
  match s.record? d k with
  | none => .refused .notEnabled
  | some r =>
    match Map.look s.versions r.version with
    | none => .refused .notEnabled
    | some v =>
      let key := r.version
      let dropped := r.flags.getLsbD fDropped
      if v.present ∨ ¬v.sealed_ ∨ (dropped ∧ ¬s.marked d k) then .refused .notEnabled
      else if r.replicaPresent then .next ((s.restoreFromReplica key d k).reclaim)
      else if r.flags.getLsbD fParked then
        if s.fetches.any fun f => f.die = d ∧ f.index = k then .refused .notEnabled
        else .next { (s.mark d k) with fetches := s.fetches ++ [{ die := d, index := k, target := d }] }
      else if s.lossy v then
        .next (((s.updVersion key fun v => if dropped then { v with lost := BitVec.ofNat 66 (2 ^ v.pieces - 1) } else v).zeroFill key d k).reclaim)
      else if s.stuck r then .next ((s.unrecoverable key d k).reclaim)
      else
        let missing := s.missingInputs r
        if missing ≠ [] then
          if s.marked d k ∧ missing.any s.givenUp then .next ((s.unrecoverable key d k).reclaim)
          else if s.marked d k ∧ missing.all (fun x => s.marked x.1 x.2) then .refused .notEnabled
          else .next (((s.mark d k).needAll missing).reclaim)
        else if r.flags.getLsbD fHarvest then
          match s.refold r v with
          | some (new, vs) =>
            let s := ((vs.foldl (fun s x => s.chargeVersion x.1 x.2 actRecover) s).updVersion key fun _ => new).chargeVersion key new actRecover
            .next ((s.resealVersion key d k).reclaim)
          | none => .next ((s.unrecoverable key d k).reclaim)
        else match s.enqueueProducer r with
          | some s => .next s.reclaim
          | none => .refused .notEnabled

end Sys2Proof.Machine
end

