-- ==== Sys2Proof/Machine/Pool.lean ====
section
/-! DEFINITION. The host-queue dispatcher (R32, R33, R345), readiness, dispatch and completion of tasks (R34, R35, R40), ageing and pre-emption (R291, R296), and the parking, discarding and resuming of shards (R297 to R301). -/

namespace Sys2Proof.Machine

/-! ### Host queues (R32, R33, R345) -/

/-- A packet as it stands in a slot: its index and its 64 bytes. -/
def State.slotAt (s : State) (ctx : Nat) (x : HostQueue) : Option (Nat × List Byte) :=
  if x.e = 0 then none
  else match s.readRange ctx x.ridx 8 with
    | none => none
    | some b =>
      let i := ofBytes b
      (s.readRange ctx (x.ring + 64 * (i % 2 ^ x.e)) 64).map fun p => (i, p)

/-- The packet at the head of a queue, if its TYPE is not 0. -/
def State.headPacket (s : State) (ctx : Nat) (x : HostQueue) : Option (Nat × List Byte) :=
  (s.slotAt ctx x).filter fun p => field p.2 0 2 != 0

/-- A packet's fields. -/
def pkType (p : List Byte) : Nat := field p 0 2
def pkCount (p : List Byte) : Nat := field p 4 4
def pkAddr (p : List Byte) : Nat := field p 8 8
def pkSignal (p : List Byte) : Word := if bitAt (field p 2 2) 0 then BitVec.ofNat 64 (field p 0x10 8) else 0

/-- The task records a packet names. -/
def pkRecords (p : List Byte) : Nat := if pkType p = 1 then 1 else if pkType p = 2 then pkCount p else 0

/-- The records of a packet, if all of them can be read. -/
def State.packetRecords (s : State) (ctx : Nat) (p : List Byte) : Option (List (List Byte × Word)) :=
  ((List.range (pkRecords p)).mapM fun k =>
    (s.readRange ctx (pkAddr p + 256 * k) 256).map fun b => (b, BitVec.ofNat 64 (pkAddr p + 256 * k)))

/-- A packet is consumed and discarded (R33). A COUNT that its type gives as 0 counts as reserved bits. -/
def State.badPacket (s : State) (ctx : Nat) (p : List Byte) : Bool :=
  decide (4 < pkType p) || field p 2 2 / 2 != 0 || !zeroRange p 0x18 40
  || ((pkType p == 1 || pkType p == 4) && pkCount p != 0)
  || (pkType p == 2 && (pkCount p == 0 || decide (4096 < pkCount p)))
  || ((pkType p == 1 || pkType p == 2) && (pkAddr p % 256 != 0 || (s.packetRecords ctx p).isNone))

/-- Tasks of a packet, as its records make them one behind the other. -/
def State.packetTasks (s : State) (ctx q i : Nat) (rs : List (List Byte × Word)) : List Task :=
  rs.map fun r => s.taskOf ctx r.1 r.2 none (some (ctx, q, i)) []

/-- Shards that wait for nothing but their reserves of a die's store: as many as its free cores have work for (R288 claimant 3). -/
def State.reservesWanted (s : State) (die : Nat) : Nat :=
  let ns := (s.cores.filter fun c => dieOf c.1 == die && s.freeCore c.1 && !(s.work c.1).isEmpty).map Prod.fst
  min ns.length ((ns.flatMap s.work).map fun x => (x.parked, x.task, x.num)).eraseDups.length

/-- The stores have entries for tasks, behind the other claimants of R288. -/
def State.roomFor (s : State) (ts : List Task) : Bool :=
  (List.range 8).all fun d =>
    let k := (ts.filter fun t => t.die == d).length
    k == 0 || decide ((s.claimants d).length + 2 * s.reservesWanted d + k ≤ s.freeEntries d)

/-- The dispatcher could consume the packet at the head of a queue now. -/
def State.consumable (s : State) (ctx q : Nat) (x : HostQueue) : Bool :=
  (Map.look s.ctxs ctx).any (fun c => c.state == 1) &&
  match s.headPacket ctx x with
  | none => false
  | some (i, p) => s.badPacket ctx p || s.roomFor (s.packetTasks ctx q i ((s.packetRecords ctx p).getD []))

/-- The queues of every context, as (64 × context + queue, queue). -/
def State.allQueues (s : State) : List (Nat × HostQueue) := s.ctxs.flatMap fun c => c.2.queues.map fun q => (64 * c.1 + q.1, q.2)

/-- The order of the round-robin from the queue behind the one served last (R345). -/
def turnOf (served key : Nat) : Nat := (key + 16384 - (served + 1)) % 16384

/-- A queue is the one to be served: it is being scanned, or no scanned queue can go on and it comes first among the pending ones that have a packet. -/
def State.serves (s : State) (ctx q : Nat) (x : HostQueue) : Bool :=
  s.consumable ctx q x &&
  (x.scanning
    || (x.pending && s.allQueues.all fun e =>
        !((e.2.scanning || (e.2.pending && decide (turnOf s.served e.1 < turnOf s.served (64 * ctx + q))))
          && s.consumable (e.1 / 64) (e.1 % 64) e.2)))

/-- TYPE := 0 and RIDX := RIDX + 1 (R33). -/
def State.consume (s : State) (ctx : Nat) (x : HostQueue) (i : Nat) : Option State :=
  (s.writeRange ctx (x.ring + 64 * (i % 2 ^ x.e)) (toBytes 2 0)).bind fun s => s.writeRange ctx x.ridx (toBytes 8 (i + 1))

/-- The dispatcher consumes the packet at the head of queue `b` of context `a`, if it is one of the types given; `act` is what a good packet does. A scan clears the pending flag before its first slot and ends at an empty one (R33, R345). -/
def consumePacket (s : State) (types : Nat → Bool) (act : State → Nat → Nat → Nat → List Byte → State) : Out :=
  let ctx := s.args.a
  let q := s.args.b
  match s.queue? ctx q with
  | none => .refused .notEnabled
  | some x =>
    match (if s.serves ctx q x then s.headPacket ctx x else none) with
    | none => .refused .notEnabled
    | some (i, p) =>
      if ¬types (pkType p) then .refused .notEnabled
      else match s.consume ctx x i with
        | none => .refused .notEnabled
        | some s' =>
          let bad := s.badPacket ctx p
          let s' := { s' with served := 64 * ctx + q }
          let s' := s'.updQueue ctx q fun x => { x with pending := x.pending && x.scanning, scanning := true, bad := if bad then x.bad + 1 else x.bad }
          let s' := if bad then s' else act s' ctx q i p
          let more := (s'.headPacket ctx x).isSome
          .next (s'.updQueue ctx q fun x => { x with scanning := more })

/-- Enter the tasks of a packet (R26, R33, R34). -/
def submitPacket (s : State) (ctx q i : Nat) (p : List Byte) : State :=
  let rs := (s.packetRecords ctx p).getD []
  let s := s.updQueue ctx q fun x => { x with open_ := x.open_ ++ [(i, pkSignal p, rs.length)] }
  (rs.foldl (fun s r => s.accept (s.taskOf ctx r.1 r.2 none (some (ctx, q, i)) [])) s).reclaim

/-- PACKET_SUBMIT: a SUBMIT packet, or one of a reserved TYPE, which is discarded (R32, R33). -/
def execPacketSubmit (s : State) : Out := consumePacket s (fun t => t == 1 || decide (4 < t)) submitPacket

/-- PACKET_BATCH: a BATCH packet (R32, R33). -/
def execPacketBatch (s : State) : Out := consumePacket s (fun t => t == 2) submitPacket

/-- PACKET_RELEASE: DEPS of the named task falls by COUNT, and the SIGNAL is written; a task that is not in the store is counted as stale (R32 to R34). -/
def execPacketRelease (s : State) : Out :=
  consumePacket s (fun t => t == 3) fun s ctx _ _ p =>
    let s := match s.taskAt ctx (BitVec.ofNat 64 (pkAddr p)) with
      | some (k, _) => s.lowerDeps k (pkCount p)
      | none => s.staleUp ctx
    s.writeSignal ctx (pkSignal p)

/-- PACKET_MARK: its SIGNAL is written when every packet before it is done (R32). -/
def execPacketMark (s : State) : Out :=
  consumePacket s (fun t => t == 4) fun s ctx q i p =>
    match s.queue? ctx q with
    | none => s
    | some x =>
      if x.open_.isEmpty then s.writeSignal ctx (pkSignal p)
      else s.updQueue ctx q fun x => { x with marks := x.marks ++ [(i, pkSignal p)] }

/-- A doorbell rings on port `port` (R345, R413): the pending flag of a queue in use, or the count of discarded doorbells. -/
def State.doorbell (s : State) (ctx q : Nat) : State :=
  match (Map.look s.ctxs ctx).filter (fun c => c.state == 1) |>.bind fun c => Map.look c.queues q with
  | some x => if x.e = 0 then { s with doorbellsDropped := s.doorbellsDropped + 1 } else s.updQueue ctx q fun x => { x with pending := true }
  | none => { s with doorbellsDropped := s.doorbellsDropped + 1 }

/-- QUEUE_DOORBELL: a host writes the doorbell of queue `b` of context `a` through port `idx`, whose link is up, while the control plane runs, behind a restart of the management processor as well (R345, R359, R413). -/
def execQueueDoorbell (s : State) : Out :=
  if 256 ≤ s.args.a ∨ 64 ≤ s.args.b ∨ (Map.look s.hostDown s.args.idx).isSome ∨ ¬s.planes then .refused .notEnabled
  else .next (s.doorbell s.args.a s.args.b)

/-! ### Readiness (R34) -/

/-- TASK_READY: task `a` has DEPS 0 and every input there; a rebuild task also has its entry (R34, R426). -/
def execTaskReady (s : State) : Out :=
  match Map.look s.tasks s.args.a with
  | none => .refused .notEnabled
  | some t =>
    if t.state = .pending ∧ t.deps = 0 ∧ t.failed.isNone ∧ t.lost.isNone ∧ t.entry < 8 ∧ s.inputsReady t ∧ (Map.look s.ctxs t.ctx).any (fun c => c.state == 1) then
      .next ({ s with tasks := Map.put s.tasks s.args.a { t with state := .ready, readyAt := s.now, again := [], aged := 0 } }.reclaim)
    else .refused .notEnabled

/-! ### Dispatch (R35) -/

/-- "Latest" inputs are resolved at the first dispatch (R35, R276): the exact references, or the first that resolves to nothing. -/
def State.resolveInputs (s : State) (t : Task) : List (BitVec 128) ⊕ Ref :=
  match t.ins.find? fun r => (s.resolveRef t.ctx (Ref.of r)).isNone with
  | some r => .inr (Ref.of r)
  | none => .inl (t.ins.map fun r => ((s.resolveRef t.ctx (Ref.of r)).getD (Ref.of r)).word)

/-- SHARD_DISPATCH: core `core` takes the ready shard it chooses and starts its three streams (R35, R292, R293). DESIGN CHOICE: the spec does not say what follows when the kernel descriptor can no longer be read at the dispatch; the model does not dispatch the shard (notes/assumptions/57.md). -/
def execShardDispatch (s : State) : Out :=
  let n := s.args.core
  match s.takes n (fun x => x.parked.isNone), s.core? n with
  | some x, some old =>
    match Map.look s.tasks x.task with
    | none => .refused .notEnabled
    | some t =>
      match s.kernel t.ctx t.kdesc.toNat, (if t.resolved then .inl t.ins else s.resolveInputs t) with
      | some _, .inr r =>
        .next { s with tasks := Map.put s.tasks x.task { t with failed := some (3, none, refInfo { r with version := 0 }) } }
      | some k, .inl ins =>
        let left := t.entry
        let t := { s.moved t k x.num n with ins := ins, resolved := true, state := .running, begun := true, shards := t.shards.set x.num (.running n) }
        let s := { s with tasks := Map.put s.tasks x.task t }
        let c := k.startCore old (s.newShard x.task t k x.num)
        let s := { (s.newPad n).setCore n c with uid := s.uid + 1 }
        let s := if t.entry = left then s else s.refill left
        .next (ins.foldl (fun s r => match s.findVersion t.ctx (Ref.of r) with
          | some e => s.startFetch e.2
          | none => s) s)
      | none, _ => .refused .notEnabled
  | _, _ => .refused .notEnabled

/-! ### Completion (R40) -/

/-- The distinct outputs of a task, each with its index. -/
def Task.outputs (t : Task) : List (Ref × Nat) :=
  (t.outs.zipIdx.map fun o => ((Ref.of o.1).plain, o.2)).foldl (fun l o => if l.any fun x => x.1 == o.1 then l else l ++ [o]) []

/-- An output is sealed already, or another task's report of it is in the channel (R42). -/
def State.outputTaken (s : State) (key : Nat) (t : Task) (r : Ref) : Bool :=
  match s.findVersion t.ctx r with
  | some (k, v) => v.sealed_ || s.seals.any fun q => q.version == k && q.task != some key
  | none => false

/-- Step 1 of R40: the versions that nothing wrote, and a seal report for each output. -/
def State.reportOutputs (s : State) (key : Nat) (t : Task) : State :=
  let s := t.outputs.foldl (fun s o =>
    if (s.findVersion t.ctx o.1).isSome then s
    else match s.tensor t.ctx o.1.handle with
      | .ok x => { s with versions := Map.put s.versions s.uid (blankVersion t.ctx (some key) none x o.1), uid := s.uid + 1 }
      | _ => s) s
  let impure := !t.pure || t.tooMany
  let new : List Seal := t.outputs.filterMap fun o => (s.findVersion t.ctx o.1).map fun e =>
    { version := e.1, task := some key, outix := o.2, round := none, root := false, replica := impure, impure := impure, reseal := false, since := s.now, die := s.standIn t.die }
  { s with
    seals := s.seals ++ new
    tasks := Map.put s.tasks key { t with state := .sealing, sealsLeft := new.length } }

/-- The end of a rebuild task: its lost versions are sealed again, it writes no record and releases nothing; one that failed leaves its versions unrecoverable (R417, R420). -/
def State.completeRebuild (s : State) (key : Nat) (t : Task) (l : List (Nat × Nat)) : Out :=
  let gone (s : State) : State := (({ s with tasks := Map.del s.tasks key, seals := s.seals.filter fun q => q.task != some key }.promote t.die).freeWaiting).reclaim
  if t.failed.isSome then
    .next (l.foldl (fun s x => match s.record? x.1 x.2 with
      | some r => s.unrecoverable r.version x.1 x.2
      | none => s) (gone s))
  else if t.lost.isSome then .refused .notEnabled
  else if t.state = .sealing then (if t.sealsLeft = 0 then .next (gone s) else .refused .notEnabled)
  else if t.state = .running ∧ t.shards.all (fun x => x == .retired) then
    let new : List Seal := l.filterMap fun x => (s.record? x.1 x.2).map fun r =>
      { version := r.version, task := some key, outix := r.outix.toNat, round := none, root := false, replica := false, impure := false, reseal := true, since := s.now, die := s.standIn t.die }
    .next { s with seals := s.seals ++ new, tasks := Map.put s.tasks key { t with state := .sealing, sealsLeft := new.length } }
  else .refused .notEnabled

/-- A shard of the task still runs or is parked. -/
def Task.live (t : Task) : Bool := t.shards.any fun x => match x with
  | .running _ => true
  | .parked => true
  | _ => false

/-- TASK_COMPLETE: task `a` sends its seal reports once every shard has retired, and completes once they are acknowledged, or with the status that it failed with (R40 to R42). -/
def execTaskComplete (s : State) : Out :=
  let key := s.args.a
  match Map.look s.tasks key with
  | none => .refused .notEnabled
  | some t =>
    if t.live then .refused .notEnabled
    else match t.rebuild, t.failed with
      | some l, _ => s.completeRebuild key t l
      | none, some (st, core, info) => .next (s.completeTask key t st core info)
      | none, none =>
        if t.lost.isSome then .refused .notEnabled
        else if t.state = .sealing then (if t.sealsLeft = 0 then .next (s.completeTask key t 0 none 0) else .refused .notEnabled)
        else if t.state = .running ∧ t.shards.all (fun x => x == .retired) then
          if t.outputs.any fun o => s.outputTaken key t o.1 then .next (s.completeTask key t 2 none 0)
          else if t.outs = [] then .next (s.completeTask key t 0 none 0)
          else .next (s.reportOutputs key t)
        else .refused .notEnabled

/-! ### Ageing and pre-emption (R291, R295 to R297) -/

/-- The die whose pool ages a task: its store's, or the one it has moved to (R291). -/
def State.poolDie (s : State) (t : Task) : Nat := s.standIn t.die

/-- AGEING_BOUNDARY: SCHED.AGE clk have passed on the pool of die `idx`: what was ready, or parked, before this clk ages (R291, R294); a staged value takes effect for the next interval (R295). -/
def execAgeingBoundary (s : State) : Out :=
  let d := s.args.idx
  match Map.look s.pools d with
  | none => .refused .notEnabled
  | some p =>
    if s.now < p.last + p.age.toNat then .refused .notEnabled
    else
      let p := { p with last := p.last + p.age.toNat, age := p.stagedAge.getD p.age, stagedAge := none }
      .next ({ s with
        pools := Map.put s.pools d p
        tasks := Map.each s.tasks fun _ (t : Task) => if t.state ≠ TaskState.pending ∧ t.readyAt < s.now ∧ s.poolDie t = d then { t with aged := t.aged + 1 } else t
        parked := Map.each s.parked fun _ (x : Parked) => if x.parkedAt < s.now ∧ s.standIn (dieOf x.fromCore) = d then { x with aged := x.aged + 1 } else x }.reclaim)

/-- A wait that the spec names as pre-emptible (R188, R190, R193, R194, R237, R259, R314). -/
def Wait.preemptible : Wait → Bool
  | .launch _ _ => true
  | .inbox => true
  | .engine => true
  | .round => true
  | .event _ => true
  | .save => true
  | _ => false

/-- The waiting shards of a task that a core may take. -/
def State.mayTakeAny (s : State) (t : Task) (k : Kernel) (n : Nat) : Bool := t.waitingShards.any fun m => s.mayTakeShard t k m n

/-- A ready task calls for a pre-emption (R296): no free core may take it, it has priority 7 or has been stealable device-wide for one interval, no pre-empted core is kept for each of its shards yet, and none was chosen in this clk. -/
def State.wantsCore (s : State) (key : Nat) (t : Task) (k : Kernel) : Bool :=
  t.runs && decide ((s.cores.filter fun c => c.2.keptFor.any fun k => k.1 == key).length < t.waitingShards.length)
  && !(s.cores.any fun c => c.2.keptFor == some (key, s.now))
  && !(s.cores.any fun c => s.freeCore c.1 && s.mayTakeAny t k c.1)
  && (s.eff t == 7
      || (s.poolCtl (s.poolDie t) 0 && !s.det t.ctx && !t.noSteal && s.poolCtl (s.poolDie t) 1 && t.fresh && t.dprod == 1 && decide (5 ≤ t.aged)))

/-- A shard can be chosen as a victim: not stopping already, not about to retire (R22), below the task's priority, and it can be parked or discarded (R296, R297). -/
def State.victimOk (s : State) (eff : Nat) (c : Core) (sh : Shard) : Bool :=
  sh.halt == 0 && !c.cs.halted && c.resuming.isNone && decide (s.shardEff sh < eff) && (!sh.committed || (s.freeSlot sh.ctx).isSome)

/-- One victim goes before another (R296): lowest effective priority, a pre-emptible wait, the latest dispatch, the highest core. -/
def State.victimBefore (s : State) (a b : Nat × Core × Shard) : Bool :=
  let w (x : Nat × Core × Shard) : Bool := x.2.1.cs.wait.preemptible
  if s.shardEff a.2.2 ≠ s.shardEff b.2.2 then decide (s.shardEff a.2.2 < s.shardEff b.2.2)
  else if w a ≠ w b then w a
  else if a.2.2.dispatchedAt ≠ b.2.2.dispatchedAt then decide (b.2.2.dispatchedAt < a.2.2.dispatchedAt)
  else decide (b.1 < a.1)

/-- The victim that a task's pre-emption chooses. -/
def State.victim (s : State) (t : Task) (k : Kernel) : Option (Nat × Core × Shard) :=
  (s.cores.filterMap fun e => match e.2.shard with
    | some sh => if s.victimOk (s.eff t) e.2 sh && s.mayTakeAny t k e.1 then some (e.1, e.2, sh) else none
    | none => none).foldl (fun b x => match b with
      | none => some x
      | some y => if s.victimBefore x y then some x else b) none

/-- A chosen shard is to be discarded: uncommitted, and young or without a save slot (R297). -/
def State.discards (s : State) (sh : Shard) : Bool :=
  !sh.committed
  && (decide (s.now - sh.cycleBase < (Map.look s.pools (s.standIn (dieOf (s.args.core)))).elim 15000 fun p => p.discard.toNat) || (s.freeSlot sh.ctx).isNone)

/-- PREEMPT: the pool chooses a victim for ready task `a`: its halt request line is raised for a park or a discard, and its core is kept for the task (R22, R296, R297). -/
def execPreempt (s : State) : Out :=
  match Map.look s.tasks s.args.a with
  | none => .refused .notEnabled
  | some t =>
    match s.kernel t.ctx t.kdesc.toNat with
    | none => .refused .notEnabled
    | some k =>
      if ¬s.wantsCore s.args.a t k then .refused .notEnabled
      else match s.victim t k with
        | none => .refused .notEnabled
        | some (n, _, sh) =>
          let s := { s with args := { s.args with core := n } }
          .next ((s.raiseHalt n (if s.discards sh then 2 else 1)).updCore n fun c => { c with keptFor := some (s.args.a, s.now) })

/-! ### Park, discard and resume (R298, R300, R301) -/

/-- SHARD_PARK: the shard on a core whose halt request line is up for a park is saved, if the state of R69 can be saved now; with no slot left it is discarded, or runs on if it has committed (R297, R298). -/
def execShardPark (s : State) : Out :=
  onShard s fun c sh =>
    let n := s.args.core
    if sh.halt ≠ 1 ∨ c.cs.halted ∨ ¬s.canPark c then .refused .notEnabled
    else match s.freeSlot sh.ctx with
      | some slot => .next (s.park n slot false false)
      | none =>
        if sh.committed then .next (s.updCore n fun c => { c with keptFor := none, shard := some { sh with halt := 0 } })
        else .next (s.discard n sh)

/-- SHARD_DISCARD: the shard on a core whose halt request line is up for a discard is discarded; one that has committed meanwhile is parked instead (R37, R301). -/
def execShardDiscard (s : State) : Out :=
  onShard s fun c sh =>
    let n := s.args.core
    if sh.halt ≠ 2 ∨ c.cs.halted then .refused .notEnabled
    else if sh.committed then .next (s.updCore n fun c => { c with shard := some { sh with halt := 1 } })
    else .next (s.discard n sh)

/-- A resume whose last saved row is no longer opening, since that row has been revoked, has its last steps to do (R300). -/
def State.lingers (s : State) (n : Nat) : Bool :=
  (s.core? n).any fun c => c.resuming.isSome && !(c.holds.any fun h => h.2.state == .opening)
    && !((Map.look s.arrays (arrayOf n)).any fun a => a.inService && a.waiting.contains n)

/-- SHARD_RESUME: core `core` takes the parked shard it chooses, or goes on with a resume whose rows are settled; or, with `flag`, parked shard `idx`, uncommitted and too large for the free core that would choose it, restarts from the beginning (R293, R300). -/
def execShardResume (s : State) : Out :=
  let n := s.args.core
  if s.args.flag then
    match Map.look s.parked s.args.idx with
    | some p =>
      if s.tooLarge s.args.idx p then .next (s.discardParked s.args.idx p) else .refused .notEnabled
    | none => .refused .notEnabled
  else if s.lingers n then .next (s.finishResume n)
  else match s.takes n (fun x => x.parked.isSome) with
    | none => .refused .notEnabled
    | some x =>
      match x.parked.bind fun k => (Map.look s.parked k).map fun p => (k, p) with
      | some (k, p) => .next (s.resume k p n)
      | none => .refused .notEnabled

end Sys2Proof.Machine
end

