-- ==== Sys2Proof/Machine/Recovery.lean ====
section
/-! DEFINITION. Errors and their retries (R370 to R376, R400 to R411), heartbeats (R380), and the loss of units, quadrants, dies and shards (R404, R421 to R424). -/

namespace Sys2Proof.Machine

/-! ### Detection and retry (R370, R371, R374) -/

/-- The units that detect an error of a class (R374); class 255 is a sector that arrives in error at a copy engine or layout unit (R370). -/
def detects (unit cls : Nat) : Bool :=
  match cls with
  | 0 => unit == 0
  | 1 => unit == 0
  | 2 => unit == 0
  | 3 => decide (unit ≤ 13)
  | 4 => unit == 3
  | 5 => unit == 6
  | 6 => unit == 7
  | 7 => unit == 8
  | 255 => unit == 4 || unit == 5
  | _ => false

/-- A class whose errors can be corrected in place (R370, R406, R412). -/
def correctable (cls : Nat) : Bool := cls == 1 || cls == 2 || cls == 3 || cls == 6

/-- An AER error is reported on a host port whose link is up. -/
def State.reportAer (s : State) (port kind : Nat) : State :=
  if (Map.look s.hostDown port).isSome then s else { s with aer := Map.put s.aer (4 * port + kind) (Map.lookD s.aer (4 * port + kind) 0 + 1) }

/-- The mitigation of a row whose counter is saturated or has lost its parity (R406). -/
def State.mitigateRow (s : State) (place : Nat) : State :=
  s.updPort (quadOf place) fun p =>
    let near := (neighbours (place % 65536)).length
    { p.charge actMitigate (2 * near) s.now with counters := Map.del p.counters place, mitigations := p.mitigations + near }

/-- The item that an error hit, from `hdr`: bits [15:0] the core plus 1, or 0 for no core's item, and bits [17:16] the kind of item (ErrRec.owner). -/
def Args.owner (a : Args) : Option (Nat × Nat) :=
  if bits a.hdr.toNat 0 16 = 0 then Option.none else some (bits a.hdr.toNat 0 16 - 1, bits a.hdr.toNat 16 2)

/-- Remove the entry of a list that a number picks, if the list has any. -/
def dropPicked {α : Type} (l : List α) (k : Nat) : List α := l.eraseIdx (k % l.length)

/-- An ECC error in a translation structure of a core, or of its cluster: an entry that a number picks is discarded, and what needed it walks again. The structures: 1 the micro-TLB, 2 the cluster TLB, 3 the walk cache, 4 the miss queue (R397). -/
def State.dropEntry (s : State) (n kind k : Nat) : State :=
  let cluster (f : Cluster → Cluster) : State := { s with clusters := Map.upd s.clusters (n / 96) f }
  match kind with
  | 1 => s.updCore n fun c => { c with utlb := dropPicked c.utlb k }
  | 2 => cluster fun x => { x with tlb := dropPicked x.tlb k }
  | 3 => cluster fun x => { x with walks := dropPicked x.walks k }
  | _ => cluster fun x => { x with misses := dropPicked x.misses k }

/-- ERROR_DETECTED: unit `idx`, instance `b` of die `a`, detects an error of class `code` at location `value` in item `value2`, of context `core` (0xFF for none), which `hdr` names. With `flag` it is corrected in place; else it is retried (R370, R371). An activation-counter error is mitigated at once (R406). An error in an entry of a translation structure, which bits [20:18] of `hdr` name and bits [52:21] pick, of the core of instance `b`, is transient whatever the ECC outcome (R397). -/
def execErrorDetected (s : State) : Out :=
  let cls := s.args.code.toNat
  let unit := s.args.idx
  let die := s.args.a
  let inst := s.args.b
  if ¬detects unit cls ∨ 8 < die ∨ (die < 8 ∧ ¬s.dies.getLsbD die) ∨ (s.args.flag ∧ ¬correctable cls) ∨ 65536 ≤ inst then .refused .notEnabled
  else if cls = 2 then
    let s := s.mitigateRow s.args.value.toNat
    if s.args.flag then .next ((s.countError die unit inst 2 0).postCorrected die unit inst 2 s.args.core s.args.value s.args.value2)
    else .next ((s.countError die unit inst 2 1).postError 1 2 die unit inst s.args.core s.args.value s.args.value2)
  else if cls = 3 ∧ unit = 2 ∧ bits s.args.hdr.toNat 18 3 ≠ 0 then
    .next (((s.dropEntry (384 * die + inst) (bits s.args.hdr.toNat 18 3) (bits s.args.hdr.toNat 21 32)).countError die unit inst 3 1).postError
      1 3 die unit inst s.args.core s.args.value s.args.value2)
  else if s.args.flag then
    let s := (s.countError die unit inst cls 0).postCorrected die unit inst cls s.args.core s.args.value s.args.value2
    .next (if cls = 6 then s.reportAer (inst % 2) 0 else s)
  else
    let r : ErrRec :=
      { sev := 1, cls := BitVec.ofNat 8 cls, die := BitVec.ofNat 8 die, unit := BitVec.ofNat 8 unit, inst := BitVec.ofNat 16 inst,
        ctx := BitVec.ofNat 8 s.args.core, loc := s.args.value, item := s.args.value2, time := BitVec.ofNat 64 s.now, owner := s.args.owner }
    .next { s with retries := s.retries ++ [r] }

/-- A record of the Almanac is lost in its shard: it is read from the mirror and rewritten, or, with no mirror or with its copy there lost as well, its version is unrecoverable at once (R380, R420). -/
def State.loseRecord (s : State) (d k : Nat) : Option State :=
  match Map.look s.almanac d, s.record? d k with
  | some a, some r => some (if a.mirrored ∧ ¬a.mirrorLost.contains k then s.updRecord d k id else (s.unrecoverable r.version d k).freeRecord d k)
  | _, _ => none

/-- The copy of a record in the mirror is lost (R380). -/
def State.loseMirror (s : State) (d k : Nat) : Option State :=
  if (s.record? d k).isSome ∧ (Map.look s.almanac d).any Almanac.mirrored then
    some { s with almanac := Map.upd s.almanac d fun a => { a with mirrorLost := insertNat a.mirrorLost k } }
  else none

/-- A task whose entry of a store is lost completes with STATUS 3, its shards stopped (R372). -/
def State.loseEntry (s : State) (key : Nat) : Option State :=
  if (Map.look s.tasks key).any fun t => t.rebuild.isNone then
    let s := s.stopTask key
    some { s with tasks := Map.upd s.tasks key fun t => { t with failed := t.failed.orElse fun _ => some (3, none, 0) } }
  else none

/-- A contribution of a group that is on its way to Harvest control, or waits there, fails with STATUS 8 and counts nothing (R372). -/
def State.loseContribution (s : State) (k idx : Nat) : Option State :=
  (Map.look s.groups k).bind fun g => (g.inflight[idx]?).map fun x => (s.takeContribution k idx).deliverWord x (harvestWord 8 (s.openFor g x.member))

/-- The write-backs of a channel fail in a period: the lines stay dirty, and the next attempt is charged to RECOVER (R403); a period counts once. -/
def Port.writeBackFails (p : Port) (ch now : Nat) : Port :=
  let period := p.periods.toNat
  match Map.look p.wbFails ch with
  | some (n, last) =>
    if last = period then p
    else ({ p with wbFails := Map.put p.wbFails ch (if last + 1 = period then n + 1 else 1, period) }).charge actRecover 1 now
  | none => ({ p with wbFails := Map.put p.wbFails ch (1, period) }).charge actRecover 1 now

/-- What a lasting error of a class destroys or fails (R372, R373, R401, R403, R405, R409), by what it strikes: 0 nothing that is stored, 1 the line of cell memory at the record's location, 2 piece `b` of version `a`, 3 the replica of record `b` of die `a`, 4 scratchpad granule `b` and 5 register-space granule `b` of core `core`, 6 X-command `b` and 7 M-command `b` of core `core`, 8 record `b` of die `a` in its shard and 13 in the mirror, 9 the write-back of channel `b` of port `a`, 10 the budget registers of port `a`, 11 the entry of task `a`, 12 contribution `b` of group `a`, 14 the metadata of the line at the record's location and 15 that of scratchpad granule `b` of core `core`. The spec does not say what each SRAM holds that an error can destroy: notes/assumptions/59.md. -/
def State.strike (s : State) (kind a b core cls : Nat) (loc : Word) : Option State :=
  match kind with
  | 0 => some s
  | 1 => if s.cellAddr loc.toNat then some ((s.loseLine loc.toNat).blame (loc.toNat / 64) cls) else none
  | 2 => match Map.look s.versions a with
    | some v => if v.present ∧ b < v.pieces then some ((s.loseParked a).getD (s.losePiece a b)) else none
    | none => none
  | 3 => if (s.record? a b).any Record.replicaPresent then some (s.loseReplica a b) else none
  | 4 => if (s.core? core).isSome ∧ b < 4096 then
      some ((s.updCore core fun c => { c with padPoison := insertNat c.padPoison b }).blame (2 ^ 40 + 4096 * core + b) cls) else none
  | 5 => if (s.core? core).any fun c => decide (b < c.capacity) then
      some ((s.updCore core fun c => { c with granPoison := insertNat c.granPoison b }).blame (2 ^ 41 + 2048 * core + b) cls) else none
  | 6 => if (s.core? core).any fun c => c.xqueue[b]?.any XCmd.started then
      some (s.updCore core fun c => { c with xqueue := c.xqueue.modify b fun x =>
        if x.status.isSome then x else { x with status := some 9, failAt := loc, cls := some cls } })
    else none
  | 7 => if (s.core? core).any fun c => c.mqueue[b]?.any MCmd.started then
      some (s.updCore core fun c => { c with mqueue := c.mqueue.modify b fun x => { x with failed := x.failed.orElse fun _ => some cls } })
    else none
  | 8 => s.loseRecord a b
  | 9 => if isQuadrant a ∧ b < 8 then some (s.updPort a fun p => p.writeBackFails b s.now) else none
  | 10 => some (s.updPort a fun p => { p with reject := true, forced := true })
  | 11 => s.loseEntry a
  | 12 => s.loseContribution a b
  | 13 => s.loseMirror a b
  | 14 => some (s.loseMetadata (.dram (loc.toNat / 64 * 64)))
  | 15 => if (s.core? core).isSome ∧ b < 4096 then some (s.loseMetadata (.pad core (64 * b))) else none
  | _ => none

/-- What an error of a class in a unit can strike. A read whose burst keeps failing its CRC is an uncorrectable read of the bytes (R403), and an item that reads them fails by what it then finds. -/
def canStrike (cls unit kind : Nat) : Bool :=
  match cls with
  | 0 => kind == 1 || kind == 2 || kind == 3 || kind == 9
  | 1 => kind == 1 || kind == 2 || kind == 3
  | 3 => match unit with
    | 0 => kind == 0 || kind == 10 || kind == 14
    | 1 => kind == 1 || kind == 14
    | 2 => kind == 0 || kind == 4 || kind == 5 || kind == 15
    | 3 => kind == 0 || kind == 7
    | 4 => kind == 6
    | 5 => kind == 6
    | 6 => kind == 0 || kind == 10
    | 9 => kind == 0 || kind == 11
    | 10 => kind == 0 || kind == 8 || kind == 13
    | 12 => kind == 0 || kind == 12
    | _ => kind == 0
  | 4 => kind == 7
  | 255 => kind == 6
  | _ => kind == 0

/-- A transient interface error of a channel is noted for R403: bits [12:10] of the location name the channel (R73). -/
def State.noteCrc (s : State) (r : ErrRec) : State :=
  s.updPort (4 * r.die.toNat + r.inst.toNat) fun p =>
    let ch := bits r.loc.toNat 10 3
    { p with crc := Map.put p.crc ch (s.now :: (Map.lookD p.crc ch []).filter fun t => decide (s.now < t + 1500000)) }

/-- An error that hit an item of a core fails that item and no other command. -/
def ErrRec.concerns (r : ErrRec) (kind core : Nat) : Bool :=
  r.owner.all fun o => (kind != 6 || o == (core, 1)) && (kind != 7 || o == (core, 2))

/-- RETRY_OUTCOME: the retry of error `idx` succeeds (`flag`), and the error was transient; or it fails, and the error is lasting and strikes what `code` names (R371 to R373). A lasting flit error is LANE_OUT_OF_SERVICE or BILOT_PORT_DOWN. -/
def execRetryOutcome (s : State) : Out :=
  match s.retries[s.args.idx]? with
  | none => .refused .notEnabled
  | some r =>
    let cls := r.cls.toNat
    let s' := { s with retries := s.retries.eraseIdx s.args.idx }
    let count (s : State) (o : Nat) : State := s.countError r.die.toNat r.unit.toNat r.inst.toNat cls o
    if s.args.flag then
      let s' := (count s' 1).postRetried r 1
      .next (if cls = 0 then s'.noteCrc r else s')
    else if cls = 5 ∨ cls = 7 ∨ ¬canStrike cls r.unit.toNat s.args.code.toNat ∨ ¬r.concerns s.args.code.toNat s.args.core then .refused .notEnabled
    else match ((count s' 2).postRetried r 2).strike s.args.code.toNat s.args.a s.args.b s.args.core cls r.loc with
      | some s => .next s
      | none => .refused .notEnabled

/-- The last of a list's entries. -/
def lastN {α : Type} (n : Nat) (l : List α) : List α := l.drop (l.length - n)

/-- ERROR_RECORD: record `idx` of the bus reaches the Vigil of its die and the management processor, in the order its unit sent them and behind no fatal one (R375, R376); a fatal record is reported on both host ports (R380). -/
def execErrorRecord (s : State) : Out :=
  match s.bus[s.args.idx]? with
  | none => .refused .notEnabled
  | some r =>
    let same (x : ErrRec) : Bool := x.die == r.die && x.unit == r.unit && x.inst == r.inst
    let before (x : ErrRec) : Bool := x.time == r.time && decide ((x.die.toNat * 256 + x.unit.toNat) * 65536 + x.inst.toNat < (r.die.toNat * 256 + r.unit.toNat) * 65536 + r.inst.toNat)
    if (s.bus.take s.args.idx).any same ∨ (r.sev ≠ 3 ∧ s.bus.any fun x => x.sev == 3) ∨ s.bus.any (fun x => (x.sev == 3) == (r.sev == 3) && before x) then
      .refused .notEnabled
    else
      let s := { s with
        bus := s.bus.eraseIdx s.args.idx, errors := lastN 4096 (s.errors ++ [r])
        almanac := Map.upd s.almanac r.die.toNat fun a => { a with log := r :: a.log } }
      .next (if r.sev = 3 then (s.reportAer 0 2).reportAer 1 2 else s)

/-! ### Heartbeats (R380) -/

/-- The units that detect a missed heartbeat of a die, with their dies: the Vigil of its buddy, if that is in service, and the management processor on the hub die (R374, R380). -/
def State.heartbeatUnits (s : State) (d : Nat) : List (Nat × Nat) := (if s.dies.getLsbD (d ^^^ 4) then [(d ^^^ 4, 11)] else []) ++ [(8, 13)]

/-- HEARTBEAT_PERIOD: a heartbeat period of the Vigil of die `idx` ends; `flag` says that its heartbeat arrived. One miss is retried, a second in a row is lasting (R380). -/
def execHeartbeatPeriod (s : State) : Out :=
  let d := s.args.idx
  match Map.look s.almanac d with
  | none => .refused .notEnabled
  | some a =>
    if ¬s.dies.getLsbD d ∨ 2 ≤ a.missed ∨ s.now < a.beat + 15000 then .refused .notEnabled
    else
      let set (s : State) (m : Nat) : State := { s with almanac := Map.upd s.almanac d fun a => { a with missed := m, beat := a.beat + 15000 } }
      if s.args.flag then
        if a.missed = 0 then .next (set s 0)
        else .next ((s.heartbeatUnits d).foldl (fun s u => (s.countError u.1 u.2 0 8 1).postError 1 8 u.1 u.2 0 0xFF (BitVec.ofNat 64 d) 0) (set s 0))
      else if a.missed = 0 then .next (set s 1)
      else .next ((s.heartbeatUnits d).foldl (fun s u => s.countError u.1 u.2 0 8 2) (set s 2))

/-! ### Quadrants, channels and lanes (R403, R404, R410, R411) -/

/-- Row pieces of a version that lie in a quadrant, by piece. -/
def State.piecesIn (s : State) (key : Nat) (v : Version) (quad : Nat) : BitVec 66 :=
  let die := s.homeDie v
  let n := ceilDiv v.image.length 1024
  let m := ceilDiv (v.twin.elim 0 List.length) 1024
  let ones (lo len : Nat) : BitVec 66 := BitVec.ofNat 66 ((2 ^ len - 1) * 2 ^ lo)
  (if quadOf (s.piecePlace die key false 0) = quad then ones 0 n else 0) ||| (if quadOf (s.piecePlace die key true 0) = quad then ones n m else 0)

/-- The bytes of a version are in its home's tile store. -/
def State.resident (s : State) (v : Version) : Bool := v.present && (s.recordOf v).all fun r => r.flags.getLsbD fResident

/-- A quadrant goes out of service (R404). -/
def State.quadOut (s : State) (q : Nat) : State :=
  let hit := (s.versions.map fun e => (e.1, if s.resident e.2 then s.piecesIn e.1 e.2 q else 0)).filter fun e => e.2 ≠ 0
  let s := s.revokeRows (fun _ h => (h.state == .opening || h.state == .held) && decide (quadOf h.place.toNat = q)) 5
  let s := hit.foldl (fun s e => s.destroy e.1 e.2) s
  s.updPort q fun p => { p with inService := false, retraining := [] }

/-- The ports of a stack's four quadrants: quadrant q is wired to die (s + 2q) mod 8 (R18). -/
def stackPorts (s : Nat) : List Nat := (List.range 4).map fun q => 4 * ((s + 2 * q) % 8) + q

/-- QUADRANT_OUT_OF_SERVICE: the quadrant of port `idx` has a channel whose write-backs failed in 16 periods, or, with `flag`, its stack has lost its base die, which takes the stack's four quadrants, on four dies (R18, R403, R404). -/
def execQuadrantOutOfService (s : State) : Out :=
  let q := s.args.idx
  match s.port? q with
  | none => .refused .notEnabled
  | some p =>
    if ¬isQuadrant q ∨ ¬p.inService ∨ ¬(s.args.flag ∨ p.wbFails.any fun w => decide (16 ≤ w.2.1)) then .refused .notEnabled
    else if s.args.flag then
      .next ((stackPorts (stackOf q)).foldl (fun s k => if (s.port? k).any Port.inService then s.quadOut k else s) s)
    else .next (s.quadOut q)

/-- CHANNEL_RETRAIN: channel `a` of the quadrant of port `idx` has had more than 256 transient interface errors in 1 ms: it is retrained, which is charged to MGMT (R403). -/
def execChannelRetrain (s : State) : Out :=
  let q := s.args.idx
  let ch := s.args.a
  match s.port? q with
  | none => .refused .notEnabled
  | some p =>
    let recent := (Map.lookD p.crc ch []).filter fun t => decide (s.now < t + 1500000)
    if ¬isQuadrant q ∨ ¬p.inService ∨ recent.length ≤ 256 ∨ (Map.look p.retraining ch).isSome then .refused .notEnabled
    else
      let (die, unit, inst) := portUnit q
      let s := s.updPort q fun p => ({ p with retraining := Map.put p.retraining ch s.now, crc := Map.del p.crc ch }).charge actMgmt 1 s.now
      .next ((s.countError die unit inst 0 2).postError 2 0 die unit inst 0xFF (BitVec.ofNat 64 ch) 0)

/-- CHANNEL_RETRAIN_DONE: 200 µs of retraining of channel `a` have passed, with success (`flag`) or not; a first failure is followed by a second retraining, and a second one in a row takes the quadrant out of service (R403, R404). -/
def execChannelRetrainDone (s : State) : Out :=
  let q := s.args.idx
  let ch := s.args.a
  match (s.port? q).bind fun p => (Map.look p.retraining ch).map fun t => (p, t) with
  | none => .refused .notEnabled
  | some (p, since) =>
    if s.now < since + 300000 then .refused .notEnabled
    else if s.args.flag then
      .next (s.updPort q fun p => { p with retraining := Map.del p.retraining ch, failedOnce := removeNat p.failedOnce ch })
    else if p.failedOnce.contains ch then .next (s.quadOut q)
    else .next (s.updPort q fun p => { p with retraining := Map.put p.retraining ch s.now, failedOnce := insertNat p.failedOnce ch })

/-- LANE_OUT_OF_SERVICE: the replay of flit error `idx` has failed: the lane that its location names, as 4 × link + lane, is out of service. Its held flits move to another lane and stay counted on their paths (R400, R410). -/
def execLaneOutOfService (s : State) : Out :=
  match s.retries[s.args.idx]? with
  | none => .refused .notEnabled
  | some r =>
    if r.cls ≠ 5 ∨ 72 ≤ r.loc.toNat ∨ s.lanes.contains r.loc.toNat then .refused .notEnabled
    else
      let s := { s with retries := s.retries.eraseIdx s.args.idx, lanes := insertNat s.lanes r.loc.toNat }
      .next ((s.countError r.die.toNat r.unit.toNat r.inst.toNat 5 2).postRetried r 2)

/-! ### Loss of a die (R421, R422, R424) -/

/-- Two dies have a path whose links are all up (R411). -/
def State.joinedDies (s : State) (a b : Nat) : Bool := (List.range 4).any fun p => (pathLinks a b p).all fun l => !s.linkDown l

/-- Mesh links of a die in service. -/
def State.meshLinks (s : State) (d : Nat) : Nat :=
  ((List.range 10).filter fun l => ((endsOf l).1 == d || (endsOf l).2 == d) && !s.linkDown l).length

/-- A die in service that has no path left to some other one, and has fewer mesh links than that one, or, on a tie, the higher number (R411). -/
def State.cutOff (s : State) (d : Nat) : Bool :=
  (List.range 8).any fun e => e != d && s.dies.getLsbD e && !s.joinedDies d e
    && (decide (s.meshLinks d < s.meshLinks e) || (s.meshLinks d == s.meshLinks e && decide (e < d)))

/-- A die is to be declared lost (R380, R404, R411, R424): two heartbeats missed, no quadrant left, no path or hub link left, or a unit of its own that failed its test. -/
def State.doomed (s : State) (d : Nat) : Bool :=
  (Map.look s.almanac d).any (fun a => decide (2 ≤ a.missed))
  || (List.range 4).all (fun k => (s.port? (4 * d + k)).any fun p => !p.inService)
  || s.linkDown (10 + d) || s.cutOff d || s.units.any fun u => u.2 == d && (u.1 == 1 || u.1 == 5 || u.1 == 9 || u.1 == 10)

/-- The die that takes over for a lost one: its buddy, or the next in service (R421, R430). -/
def State.heir (s : State) (d : Nat) : Nat := s.buddy d

/-- The shards that run on a core die are lost (R421 step 7). -/
def State.loseShardsOn (s : State) (p : Nat → Bool) : State :=
  (s.cores.filter fun e => p e.1).foldl (fun s e => match (s.core? e.1).bind Core.shard with
    | some sh => s.loseShard sh false 0
    | none => s) s

/-- A replica held on a die, or on its way there, is lost, and a new one starts to the first die in service after the home (R421 step 5); one on its way from the die ends. -/
def State.loseReplicasOn (s : State) (d : Nat) : State :=
  let home (x : Nat × Nat) : Nat := (s.record? x.1 x.2).elim x.1 Record.home
  let of (x : Transfer) : Bool := x.target == d || home (x.die, x.index) == d
  let flying := (s.replicas.filter of).map fun x => (x.die, x.index)
  let held := s.almanac.flatMap fun a => (a.2.records.filter fun e => e.2.replicaPresent && e.2.replicaDie == d).map fun e => (a.1, e.1)
  let s := flying.foldl (fun s x => s.updRecord x.1 x.2 fun r => { r with replicaFlight := false }) { s with replicas := s.replicas.filter fun x => !of x }
  let s := held.foldl (fun s x =>
    (s.updRecord x.1 x.2 fun r => { r with replicaPresent := false }).updVersion ((s.record? x.1 x.2).elim 0 Record.version) fun v => { v with replica := none }) s
  ((flying ++ held).filter fun x => home x != d).foldl (fun s x => s.startReplicaTo x.1 x.2 (s.nextDie (home x))) s

/-- A version homed on a lost die is destroyed, or restored from the replica on the die that takes over, which becomes its home copy; a new replica of it starts to the first die in service after that one (R421 step 4). -/
def State.rehome (s : State) (d b : Nat) (key : Nat) (v : Version) : State :=
  match v.record with
  | none => s.destroy key 0
  | some (x, k) =>
    match s.record? x k with
    | none => s
    | some r =>
      if r.home ≠ d then s
      else
        let resident := s.resident v
        let s := s.updRecord x k fun r => { r with home := b }
        if ¬resident then s
        else
          let s := s.destroy key (BitVec.ofNat 66 (2 ^ v.pieces - 1))
          if r.replicaPresent ∧ r.replicaDie = b then
            (((s.restoreFromReplica key x k).updRecord x k fun r => { r with replicaPresent := false }).updVersion key fun v => { v with replica := none }).startReplicaTo x k (s.nextDie b)
          else s

/-- Every record of a shard is lost (R420, R421). -/
def State.loseRecords (s : State) (d : Nat) : State :=
  ((Map.look s.almanac d).elim [] fun a => a.records).foldl (fun s e => (s.unrecoverable e.2.version d e.1).freeRecord d e.1) s

/-- Work placed on a die passes to another: the store's entries, the queue of its Vigil, its waiting SPAWNs and its groups (R421 step 3, R422). -/
def State.moveWork (s : State) (d b : Nat) : State :=
  { s with
    remap := Map.put (Map.each s.remap fun _ (x : Nat) => if x = d then b else x) d b
    tasks := Map.each s.tasks fun _ (t : Task) => { t with entry := if t.entry = d then b else if t.entry = vigilQueue d then vigilQueue b else t.entry }
    groups := Map.each s.groups fun _ (g : Group) => if g.die = d then { g with die := b } else g
    cores := Map.each s.cores fun n (c : Core) =>
      if dieOf n = d then { c with inService := false }
      else match c.cs.wait with
        | .launch since e => if e = d then { c with cs := { c.cs with wait := .launch since b } } else c
        | _ => c }

/-- The seal reports for versions homed on a die that arrive in this clk, which the environment names by their places, are taken before the fatal record for those versions (R22). -/
def State.takeSeals (s : State) (d : Nat) (now : Nat → Bool) : State :=
  ((s.seals.zipIdx).filter fun q => now q.2 && s.sealHome q.1 == d).foldl (fun s q =>
    match s.seals.findIdx? fun x => x.version == q.1.version with
    | some i => (s.takeReport i q.1).getD s
    | none => s) s

/-- A core die is lost (R421). -/
def State.loseDie (s : State) (d : Nat) : State :=
  let s := s.takeSeals d fun i => s.args.hdr.getLsbD i
  let cls := if (Map.look s.almanac d).any fun a => decide (2 ≤ a.missed) then 8 else 255
  let s := s.postError 3 cls d 13 0 0xFF 0 0
  let homed := (s.versions.filter fun e => s.homeDie e.2 == d).map Prod.fst
  let s := { s with dies := setBit s.dies d false }
  let b := s.heir d
  let other := d ^^^ 4
  let s := s.loseShardsOn fun n => dieOf n == d
  let s := if s.dies.getLsbD other then
      { s with almanac := Map.upd (Map.upd s.almanac d fun a => { a with mirrored := false }) other fun a => { a with mirrored := false } }
    else (s.loseRecords d).loseRecords other
  let s := (s.moveWork d b).loseReplicasOn d
  let s := homed.foldl (fun s key => match Map.look s.versions key with
    | some v => s.rehome d b key v
    | none => s) s
  s.reclaim

/-- DIE_LOSS: core die `idx` is declared lost, and the steps of R421 run, behind the seal reports that `hdr` names; loss of the hub die, `idx` 8, loses the device, with a fatal record, which both host ports report (R23, R375, R380, R429). -/
def execDieLoss (s : State) : Out :=
  let d := s.args.idx
  if d = 8 then .next { (((s.postError 3 255 8 13 0 0xFF 0 0).reportAer 0 2).reportAer 1 2) with deviceLost := true }
  else if d < 8 ∧ s.dies.getLsbD d ∧ s.doomed d then .next (s.loseDie d) else .refused .notEnabled

/-- Two lasting errors of a unit within 1 s (R424). -/
def State.testable (s : State) (die unit inst : Nat) : Bool :=
  let ts := (s.errors.filter fun r => r.sev == 2 && r.die.toNat == die && r.unit.toNat == unit && r.inst.toNat == inst).map fun r => r.time.toNat
  (ts.zip (ts.drop 1)).any fun x => decide (x.2 < x.1 + 1500000000)

/-- Cores go out of service: no shard is dispatched to them, and a running shard is lost (R424). -/
def State.coresOut (s : State) (lo n : Nat) : State :=
  let s := s.loseShardsOn fun k => decide (lo ≤ k) && decide (k < lo + n)
  { s with cores := Map.each s.cores fun k (c : Core) => if lo ≤ k ∧ k < lo + n then { c with inService := false } else c }

/-- A matrix array goes out of service: a resume on one of its cores that would request its lease parks its shard again (R424). -/
def State.arrayOut (s : State) (arr : Nat) : State :=
  ((List.range 12).map fun k => 12 * arr + k).foldl State.finishResume
    { s with arrays := Map.upd s.arrays arr fun a => { a with inService := false }, units := s.units ++ [(3, arr)] }

/-- UNIT_TEST_FAIL: unit `idx`, instance `b` of die `a`, which has reported two lasting errors within 1 s, fails its test and goes out of service (R424). -/
def execUnitTestFail (s : State) : Out :=
  let die := s.args.a
  let inst := s.args.b
  if 8 ≤ die ∨ ¬s.testable die s.args.idx inst then .refused .notEnabled
  else match s.args.idx with
    | 3 => if 32 ≤ inst then .refused .notEnabled else .next (s.arrayOut (32 * die + inst))
    | 2 => if 384 ≤ inst then .refused .notEnabled else .next { (s.coresOut (384 * die + inst) 1) with units := s.units ++ [(2, 384 * die + inst)] }
    | 4 => if 4 ≤ inst then .refused .notEnabled else .next { (s.coresOut (384 * die + 96 * inst) 96) with units := s.units ++ [(4, 4 * die + inst)] }
    | 1 => .next { s with units := s.units ++ [(1, die)] }
    | 5 => .next { s with units := s.units ++ [(5, die)] }
    | 9 => .next { s with units := s.units ++ [(9, die)] }
    | 10 => .next { s with units := s.units ++ [(10, die)] }
    | _ => .refused .notEnabled

/-! ### Lost shards (R423) -/

/-- A task whose shard was lost runs again with its dispatch state (R35, R123, R423). -/
def State.rerun (s : State) (key : Nat) (t : Task) : State :=
  let t := { t with
    shards := t.shards.map fun _ => .waiting, lost := none, losses := t.losses + 1, committed := false, rosters := [], waits := [], sealsLeft := 0,
    doneKnows := [], state := TaskState.pending, aged := 0, readyAt := s.now, again := [] }
  let s := { s with seals := s.seals.filter fun q => q.task ≠ some key || q.root }
  { s with tasks := Map.put s.tasks key (if s.inputsReady t then { t with state := .ready } else t) }

/-- SHARD_LOST: task `idx` has a lost shard, and its other shards have stopped: it fails with status 3 when a shard had committed, when an impure shard read poisoned cell memory, or at the third loss; else it is ready again (R423). Its members are not PRESENT from then on (R427). -/
def execShardLost (s : State) : Out :=
  let key := s.args.idx
  match Map.look s.tasks key with
  | none => .refused .notEnabled
  | some t =>
    match t.lost with
    | none => .refused .notEnabled
    | some (bad, info) =>
      if t.live then .refused .notEnabled
      else
        let s := s.loseMembers fun m => m.bound.any fun b => b.1 == key
        if bad ∨ t.committed ∨ 2 ≤ t.losses then
          .next { s with tasks := Map.upd s.tasks key fun t => { t with lost := none, failed := t.failed.orElse fun _ => some (3, none, info) } }
        else .next ((s.rerun key t).reclaim)

end Sys2Proof.Machine
end

