-- ==== Sys2Proof/Machine/Device.lean ====
section
/-! DEFINITION. The mailbox commands (R341, R342) but for parking a context and checkpoints: contexts and their tables (R343 to R346), translations (R78), shards (R297 to R301), keys (R355), attestation (R354) and access tables (R350). -/

namespace Sys2Proof.Machine

/-! ### Running a command (R341) -/

/-- The code of a command and its arguments. -/
def Mailbox.code (m : Mailbox) : Nat := bits m.cmd.toNat 0 16
def Mailbox.arg (m : Mailbox) (k : Nat) : Nat := (Map.lookD m.args k 0).toNat

/-- What a command has come to. -/
inductive CmdRes where
  /-- It completes with a status. -/
  | done (s : State) (status : Nat)
  /-- It goes on; the state is what it has done so far. -/
  | going (s : State)
  /-- It cannot go on yet. -/
  | waits

/-- MSI-X vector 0 of a port, whose link is up (R347). -/
def State.raise0 (s : State) (port : Nat) : State := if (Map.look s.hostDown port).isSome then s else s.msixUp port 0

/-- DEV.STAT.STATE changes, and vector 0 of both ports is raised (R340, R347). -/
def State.toState (s : State) (v : BitVec 4) : State := ({ s with devState := v }.raise0 0).raise0 1

/-- The command at the head of the queue completes: STATUS is written, BUSY is cleared and vector 0 raised (R341). -/
def State.finishCommand (s : State) (port : Nat) (status : Nat) : State :=
  { s with
    commands := s.commands.drop 1
    mailboxes := Map.upd s.mailboxes port fun m => { m with busy := false, status := BitVec.ofNat 8 status } }.raise0 port

/-- The management processor runs the command at the head of the queue, if its code is one of those given and the firmware runs; in the clk of its arrival the other port's may still come before it (R341, R352). -/
def command (s : State) (codes : Nat → Bool) (act : Nat → Mailbox → CmdRes) : Out :=
  match s.commands with
  | [] => .refused .notEnabled
  | (p, since) :: _ =>
    match Map.look s.mailboxes p with
    | none => .refused .notEnabled
    | some m =>
      if ¬codes m.code ∨ s.devState ≠ 4 ∨ s.now ≤ since then .refused .notEnabled
      else match act p m with
        | .done s' st => .next (s'.finishCommand p st)
        | .going s' => .next s'
        | .waits => .refused .notEnabled

/-- A command that names a resident context in ARG0, owned by the issuing port (R342). -/
def onContext (s : State) (port : Nat) (m : Mailbox) (act : Nat → Ctx → CmdRes) : CmdRes :=
  match (if m.arg 0 < 256 then Map.look s.ctxs (m.arg 0) else none) with
  | none => .done s 3
  | some x => if x.owner ≠ port then .done s 2 else act (m.arg 0) x

/-- Bytes of cell memory at a device physical address, none poisoned. -/
def State.physOk (s : State) (a n : Nat) : Bool :=
  s.cellAddr a && s.cellAddr (a + n - 1) && a / 2 ^ 34 == (a + n - 1) / 2 ^ 34 && !s.poisoned (.dram a) n

/-- Change a context. -/
def State.updCtx (s : State) (c : Nat) (f : Ctx → Ctx) : State := { s with ctxs := Map.upd s.ctxs c f }

/-- MAILBOX_UNKNOWN: a code that R342 does not list completes with STATUS 1. -/
def execMailboxUnknown (s : State) : Out := command s (fun c => c == 0 || decide (17 < c)) fun _ _ => .done s 1

/-! ### Contexts (R342 to R346) -/

/-- The address of a context table entry, and a field of it (R343). -/
def State.entryAddr (s : State) (c : Nat) : Nat := s.ctxt.toNat + 256 * c
def State.entryField (s : State) (c lo n : Nat) : Nat := ofBytes (Memory.getN s.mem (s.entryAddr c + lo) n)

/-- The device writes STATE and OWNER of an entry. -/
def State.writeEntry (s : State) (c st owner : Nat) : State :=
  (s.writeTarget (.dram (s.entryAddr c)) (toBytes 1 st)).writeTarget (.dram (s.entryAddr c + 2)) (toBytes 1 owner)

/-- An entry is well formed: it lies in readable cell memory, and its fields keep the alignments and ranges of R343. -/
def State.entryFits (s : State) (c : Nat) : Bool :=
  let f (lo n : Nat) : Nat := s.entryField c lo n
  let global (a : Nat) : Bool := decide (a < 2 ^ 56)
  s.physOk (s.entryAddr c) 256
  && f 8 8 % 2048 == 0 && s.cellAddr (f 8 8) && f 0x10 8 % 16 == 0 && decide (f 0x18 4 ≤ 2 ^ 20) && (f 0x18 4 == 0 || s.cellAddr (f 0x10 8))
  && f 0x20 8 % 4096 == 0 && global (f 0x20 8) && decide (4 ≤ f 0x2C 1) && decide (f 0x2C 1 ≤ 16) && global (f 0x30 8)
  && decide (f 0x40 1 ≤ 64) && global (f 0x38 8) && decide (f 0x50 2 ≤ 4096) && global (f 0x48 8)

/-- The context of an entry, its queues and counters not yet read. The versions of its tables are free values (the spec states none). -/
def State.ctxOf (s : State) (c port : Nat) : Ctx :=
  let f (lo n : Nat) : Nat := s.entryField c lo n
  let mode := f 1 1
  { state := 1, det := bitAt mode 0, nohold := bitAt mode 1, owner := port, ptroot := f 8 8, htab := f 0x10 8, hcount := f 0x18 4,
    htv := Config.freeWord s.free, ltv := Config.freeWord (s.free + 1), save := BitVec.ofNat 64 (f 0x20 8), slots := f 0x28 4,
    usedSlots := [], fqlog := f 0x2C 1, fq := BitVec.ofNat 64 (f 0x30 8), qtab := BitVec.ofNat 64 (f 0x38 8), nq := f 0x40 1,
    pubtab := BitVec.ofNat 64 (f 0x48 8), npub := f 0x50 2, queues := [], pubs := [], staleSucc := 0, underflow := 0, debug := false,
    ncore := (s.cores.filter fun e => e.2.inService).length, knows := [] }

/-- A queue table entry (R345): `none` when its ring or its size is malformed. -/
def queueEntry (bs : List Byte) : Option HostQueue :=
  let e := field bs 24 1
  if e = 0 ∨ (6 ≤ e ∧ e ≤ 16 ∧ field bs 0 8 % 64 = 0) then
    some { ring := field bs 0 8, widx := field bs 8 8, ridx := field bs 16 8, e := e, pending := false, scanning := false, bad := 0, open_ := [], marks := [] }
  else none

/-- The queues of a context, from its queue table. -/
def State.queueTable (s : State) (c : Nat) (x : Ctx) : Option (Map HostQueue) :=
  (s.readRange c x.qtab.toNat (32 * x.nq)).bind fun bs =>
    (List.range x.nq).mapM fun k => (queueEntry (slice bs (32 * k) 32)).map fun q => (k, q)

/-- Every page of a range has a TGT; `fuel` bounds the pages. -/
def State.pagesTarget (s : State) (c t : Nat) : Nat → Nat → Nat → Bool
  | 0, _, n => n == 0
  | fuel + 1, va, n =>
    n == 0 || match s.pageOf c va with
      | .leaf e b =>
        let m := min n (2 ^ b - va % 2 ^ b)
        tgt e == t && s.pagesTarget c t fuel (va + m) (n - m)
      | _ => false

/-- A publication counter, from its entry: bound when WLEN is not 0 and its pages check (R346). -/
def State.pubEntry (s : State) (c : Nat) (bs : List Byte) : Pub :=
  let port := field bs 0 1
  let wbase := field bs 8 8
  let wlen := field bs 16 8
  { bound := decide (port < 2) && wlen != 0 && decide (wbase + wlen ≤ 2 ^ 56) && s.pagesTarget c (1 + port) (wlen / 65536 + 2) wbase wlen,
    port := port, wbase := wbase, wlen := wlen, caddr := field bs 24 8, count := 0 }

/-- The publication counters of a context, from its publication table. -/
def State.pubTable (s : State) (c : Nat) (x : Ctx) : Option (Map Pub) :=
  (s.readRange c x.pubtab.toNat (32 * x.npub)).map fun bs => (List.range x.npub).map fun k => (k, s.pubEntry c (slice bs (32 * k) 32))

/-- A context is installed with its tables; `none` when a table cannot be read or is malformed. -/
def State.installCtx (s : State) (c : Nat) (x : Ctx) : Option State :=
  let s := { s with ctxs := Map.put s.ctxs c x }
  match s.queueTable c x, s.pubTable c x with
  | some q, some p => some ({ s with ctxs := Map.put s.ctxs c { x with queues := q, pubs := p } }.writeEntry c 1 x.owner)
  | _, _ => none

/-- CTX_ACTIVATE: the entry is read and the context is resident, with the issuing port as its owner (R342). -/
def execCtxActivate (s : State) : Out :=
  command s (fun c => c == 1) fun p m =>
    let c := m.arg 0
    if 256 ≤ c ∨ (Map.look s.ctxs c).isSome ∨ ¬s.entryFits c then .done s 3
    else match { s with free := s.free + 2 }.installCtx c (s.ctxOf c p) with
      | some s => .done s 0
      | none => .done s 3

/-- A cluster without the translations of a context that a test on entries picks, nor anything of its tables (R77, R78). -/
def Cluster.without (k : Cluster) (c : Nat) (p : Tlb → Bool) : Cluster :=
  { k with tlb := k.tlb.filter (fun t => !(t.ctx == c && p t)), walks := k.walks.filter fun w => w.ctx ≠ c }

/-- A core's micro-TLB without them. -/
def Core.withoutTlb (k : Core) (c : Nat) (p : Tlb → Bool) : Core :=
  { k with utlb := k.utlb.filter (fun t => !(t.ctx == c && p t)), walkFails := if k.shard.any fun h => h.ctx == c then [] else k.walkFails }

/-- Everything of a context leaves the device but its tasks, whose end comes first: records, versions, groups, inbox entries, translations and metadata (R283, R301, R306, R342). -/
def State.clearCtx (s : State) (c : Nat) : State :=
  { s with
    ctxs := Map.del s.ctxs c
    versions := s.versions.filter fun e => e.2.ctx ≠ c
    almanac := Map.each s.almanac fun _ (a : Almanac) =>
      let gone := (a.records.filter fun r => r.2.ctx == c).map Prod.fst
      { a with records := a.records.filter fun r => r.2.ctx ≠ c, rebuilding := a.rebuilding.filter fun k => !gone.contains k, short := a.short && gone.isEmpty }
    seals := s.seals.filter fun q => (Map.look s.versions q.version).any fun v => v.ctx ≠ c
    replicas := s.replicas.filter fun x => (s.record? x.die x.index).any fun r => r.ctx ≠ c
    fetches := s.fetches.filter fun x => (s.record? x.die x.index).any fun r => r.ctx ≠ c
    groups := s.groups.filter fun g => g.2.ctx ≠ c
    clusters := Map.each s.clusters fun _ k => k.without c fun _ => true
    watched := s.watched.filter fun w => w.ctx ≠ c
    cores := Map.each s.cores fun _ (k : Core) => { k.withoutTlb c fun _ => true with inbox := k.inbox.filter fun e => e.ctx ≠ c } }

/-- Every task of a context completes with status 4, whatever it was doing (R34, R44). -/
def State.cancelTasks (s : State) (c : Nat) : State :=
  (s.tasks.filter fun e => e.2.ctx == c).foldl (fun s e =>
    let s := s.stopTask e.1
    match Map.look s.tasks e.1 with
    | none => s
    | some t =>
      if t.rebuild.isSome then { s with tasks := Map.del s.tasks e.1, seals := s.seals.filter fun q => q.task ≠ some e.1 }
      else s.completeTask e.1 t 4 none 0) s

/-- The reserves of every die's store are refilled (R287). -/
def State.refillAll (s : State) : State := (List.range 8).foldl State.refill s

/-- CTX_TEARDOWN (R342). -/
def execCtxTeardown (s : State) : Out :=
  command s (fun c => c == 2) fun p m => onContext s p m fun c x =>
    let s := s.updCtx c fun x => { x with state := 3 }
    .done (((s.cancelTasks c).clearCtx c).refillAll.writeEntry c 0 x.owner) 0

/-- A started tile command of a context, which uses the handle table as it stood at its start (R344). -/
def State.tilesGoing (s : State) (c : Nat) : Bool :=
  s.cores.any fun e => e.2.shard.any (fun sh => sh.ctx == c) && e.2.xqueue.any fun x => x.started && x.op != opCopy

/-- CTX_HTAB: the new handle table is installed once no started tile command of the context still uses the old one, and its version rises by 1 (R344). -/
def execCtxHtab (s : State) : Out :=
  command s (fun c => c == 5) fun p m => onContext s p m fun c _ =>
    if m.arg 1 % 16 ≠ 0 ∨ 2 ^ 20 < m.arg 2 ∨ ¬(m.arg 2 = 0 ∨ (s.cellAddr (m.arg 1) ∧ s.cellAddr (m.arg 1 + 16 * m.arg 2 - 1))) then .done s 3
    else if s.tilesGoing c then .waits
    else .done (s.updCtx c fun x => { x with htab := m.arg 1, hcount := m.arg 2, htv := x.htv + 1 }) 0

/-- CTX_PUB: the entry of a publication counter is read again, and its count is 0 (R342, R346). -/
def execCtxPub (s : State) : Out :=
  command s (fun c => c == 6) fun p m => onContext s p m fun c x =>
    if x.npub ≤ m.arg 1 then .done s 3
    else match s.readRange c (x.pubtab.toNat + 32 * m.arg 1) 32 with
      | some bs => .done (s.updCtx c fun x => { x with pubs := Map.put x.pubs (m.arg 1) (s.pubEntry c bs) }) 0
      | none => .done s 3

/-- DEBUG: debug mode for BRK is set or cleared (R194, R342). -/
def execDebug (s : State) : Out :=
  command s (fun c => c == 0x0B) fun p m => onContext s p m fun c _ => .done (s.updCtx c fun x => { x with debug := bitAt (m.arg 1) 0 }) 0

/-! ### Translations (R74, R78) -/

/-- A range of global addresses, given by base and length, holds an address; length 0 is the whole space. -/
def inRange (base len a : Nat) : Bool := len == 0 || (decide (base ≤ a) && decide (a < base + len))

/-- An access of a stream or command that was translated by an entry of a range has not completed; a store held under speculation is one (R78). The page of an entry may be of any size up to 1 GiB, so that an access is waited for wherever it lies in one that meets the range. -/
def State.translating (s : State) (c base len : Nat) : Bool :=
  let lo := base / 2 ^ 30 * 2 ^ 30
  let hit (a : Word) : Bool := decide (a.toNat < 2 ^ 56) && inRange lo (if len = 0 then 0 else (base + len - lo + 2 ^ 30 - 1) / 2 ^ 30 * 2 ^ 30) a.toNat
  s.cores.any fun e => e.2.shard.any (fun sh => sh.ctx == c)
    && ((e.2.cs.flight ++ e.2.as.flight).any (fun f => !f.marker && f.path != 6 && hit f.va)
      || e.2.spec.any (fun x => x.stores.any fun f => hit f.va)
      || e.2.xqueue.any fun x => x.msgs.any fun g => !g.failed && g.data.isNone && hit g.va)

/-- A TLB entry holds a page that meets a range. -/
def Tlb.meets (t : Tlb) (base len : Nat) : Bool :=
  len == 0 || (decide (base < (t.page + 1) * 2 ^ t.bits) && decide (t.page * 2 ^ t.bits < base + len))

/-- A global address of a context no longer maps to a line of DRAM by the tables. -/
def State.unmapped (s : State) (c va line : Nat) : Bool :=
  match s.pageOf c va with
  | .leaf e n => !(tgt e == 0 && (frame e + va % 2 ^ n) / 64 == line)
  | _ => true

/-- The sealed lines that an invalidation frees: those whose page, by which they were sealed or by an entry that the invalidation takes out of a TLB, system software has unmapped (R74; notes/assumptions/51.md). -/
def State.unsealable (s : State) (c base len : Nat) (gone : List Tlb) (line : Nat) : Bool :=
  (match Map.look s.sealedBy line with
    | some (c', a) => c' == c && inRange base len (64 * a) && s.unmapped c (64 * a) line
    | none => false)
  || gone.any fun t =>
    let f := frame t.entry.toNat
    tgt t.entry.toNat == 0 && decide (f ≤ 64 * line) && decide (64 * line < f + 2 ^ t.bits)
      && s.unmapped c (t.page * 2 ^ t.bits + (64 * line - f)) line

/-- The sealed bits of lines are cleared (R74). DESIGN CHOICE: the spec does not say whether lines in an instruction cache leave when their sealed bit is cleared; the model drops them (R81; notes/assumptions/57.md). -/
def State.unseal (s : State) (p : Nat → Bool) : State :=
  let gone := s.sealed_.filter p
  if gone = [] then s
  else
    { s with
      sealed_ := s.sealed_.filter fun l => !p l
      sealedBy := s.sealedBy.filter fun e => !gone.contains e.1
      cores := Map.each s.cores fun _ (k : Core) => { k with icache := k.icache.filter fun e => !gone.contains e.1 } }

/-- TLB_INVAL: no cached entry of the range remains in a micro-TLB, a cluster TLB or a walk cache, once every access translated by one has completed (R78). -/
def execTlbInval (s : State) : Out :=
  command s (fun c => c == 7) fun p m => onContext s p m fun c _ =>
    let base := m.arg 1
    let len := m.arg 2
    if 2 ^ 56 ≤ base ∨ 2 ^ 56 < base + len then .done s 3
    else if s.translating c base len then .waits
    else
      let meets (t : Tlb) : Bool := t.meets base len
      let gone := ((s.clusters.flatMap fun k => k.2.tlb) ++ s.cores.flatMap fun k => k.2.utlb).filter fun t => t.ctx == c && meets t
      let s' := { s with
        clusters := Map.each s.clusters fun _ k => k.without c meets
        cores := Map.each s.cores fun _ k => k.withoutTlb c meets }
      .done (s'.unseal (s'.unsealable c base len gone)) 0

/-! ### Shards (R194, R297 to R301, R342) -/

/-- The shard that ARG1 and ARG2 name: its task, and how far it has got. -/
def State.namedShard (s : State) (c : Nat) (m : Mailbox) : Option ShardState :=
  (s.tasks.find? fun e => e.2.ctx == c && e.2.taskId.toNat == m.arg 1).bind fun e => e.2.shards[m.arg 2]?

/-- The core that runs the named shard. -/
def State.namedCore (s : State) (c : Nat) (m : Mailbox) : Option (Nat × Core × Shard) :=
  match s.namedShard c m with
  | some (.running n) => (s.core? n).bind fun k => k.shard.map fun sh => (n, k, sh)
  | _ => none

/-- SHARD_PARK_CMD: the halt request line of the named shard's core is raised, and the shard is parked once its state can be saved; a shard that retires first is not running (R22, R298, R342). With no free slot left, it runs on. -/
def execShardParkCmd (s : State) : Out :=
  command s (fun c => c == 8) fun p m => onContext s p m fun c _ =>
    match s.namedCore c m with
    | none => .done s 3
    | some (n, k, sh) =>
      match s.freeSlot sh.ctx with
      | none => .done (if sh.halt = 3 then s.raiseHalt n 0 else s) 4
      | some slot =>
        if k.cs.halted then .waits
        else if sh.halt = 0 then .going (s.raiseHalt n 3)
        else if s.canPark k then .done (s.park n slot false false) 0
        else .waits

/-- SHARD_DISCARD_CMD: the named shard, uncommitted, is discarded (R301, R342). -/
def execShardDiscardCmd (s : State) : Out :=
  command s (fun c => c == 9) fun p m => onContext s p m fun c _ =>
    match s.namedCore c m with
    | none => .done s 3
    | some (n, k, sh) => if sh.committed then .done s 3 else if k.cs.halted then .waits else .done (s.discard n sh) 0

/-- SHARD_RESUME_CMD: a debug-parked shard returns to the resume list (R194, R342). -/
def execShardResumeCmd (s : State) : Out :=
  command s (fun c => c == 0x0A) fun p m => onContext s p m fun c _ =>
    match s.parked.find? fun e => e.2.debug && e.2.shard.ctx == c && e.2.shard.taskId.toNat == m.arg 1 && e.2.shard.num == m.arg 2 with
    | some (k, _) => .done { s with parked := Map.upd s.parked k fun p => { p with debug := false } } 0
    | none => .done s 3

/-! ### Keys, attestation and access tables (R350, R354, R355) -/

/-- A started copy or park, or a fetch on its way, that has read a key slot at its start (R355). -/
def State.keyInUse (s : State) (slot : Nat) : Bool :=
  (s.cores.any fun e => e.2.xqueue.any fun x => x.started
    && ((x.op == opCopy && (Packet.of x.packet).enc && (Packet.of x.packet).keyid == slot) || (x.op == opTpark && field x.packet 0x0C 1 == slot)))
  || s.fetches.any fun f => (s.record? f.die f.index).any fun r => r.keyid.toNat == slot

/-- KEY_INSTALL: the wrapped key block and its extension, 176 bytes, are unwrapped into a slot; the reserved bytes 97 to 111 are ignored (R5, R355). -/
def execKeyInstall (s : State) : Out :=
  command s (fun c => c == 0x0C) fun _ m =>
    if 256 ≤ m.arg 0 ∨ ¬s.physOk (m.arg 1) 176 then .done s 3
    else if s.keyInUse (m.arg 0) then .waits
    else match Config.unwrapKey (Memory.getN s.mem (m.arg 1) 97 ++ Memory.getN s.mem (m.arg 1 + 112) 64) with
      | some k => .done { s with keys := Map.put s.keys (m.arg 0) k } 0
      | none => .done s 5

/-- KEY_CLEAR: a key slot is empty (R355). -/
def execKeyClear (s : State) : Out :=
  command s (fun c => c == 0x0D) fun _ m =>
    if 256 ≤ m.arg 0 then .done s 3
    else if s.keyInUse (m.arg 0) then .waits
    else .done { s with keys := Map.del s.keys (m.arg 0) } 0

/-- The 23 manifest CSRs of a task, in number order (R304, R354). -/
def State.manifestNow (s : State) (c : Nat) (x : Ctx) (key : Nat) (t : Task) : List Byte :=
  let khash := match s.kernel t.ctx t.kdesc.toNat with
    | some k => Config.sha384 (s.binary t.ctx k)
    | none => 0
  let digest (d : BitVec 384) : List Byte := (List.range 6).flatMap fun k => toBytes 8 (digestWord d k).toNat
  digest khash ++ toBytes 8 (if s.det c then 0x10F else 0x100) ++ toBytes 8 x.htv.toNat ++ toBytes 8 x.ltv.toNat ++ toBytes 8 t.seed.toNat
  ++ digest t.tree ++ digest (Config.sha384 (s.rosterBytes key)) ++ toBytes 8 x.ncore

/-- The manifest of a task as ATTEST reports it: what it held when the first such command read it, since a task's manifest does not change while it exists (R304, R354; notes/assumptions/57.md). -/
def State.manifest (s : State) (c : Nat) (x : Ctx) (key : Nat) (t : Task) : List Byte := t.manifest.getD (s.manifestNow c x key t)

/-- ATTEST: the signed block of a task is written behind its nonce (R354). -/
def execAttest (s : State) : Out :=
  command s (fun c => c == 0x0E) fun p m => onContext s p m fun c x =>
    let a := m.arg 2
    match s.tasks.find? fun e => e.2.ctx == c && e.2.taskId.toNat == m.arg 1 with
    | none => .done s 3
    | some (key, t) =>
      if ¬s.physOk a 416 ∨ s.hitsSealed (.dram a) 416 then .done s 3
      else
        let block := Memory.getN s.mem a 32 ++ toBytes 16 Config.serial.toNat ++ toBytes 8 s.fwver.toNat ++ toBytes 8 t.taskId.toNat
          ++ toBytes 48 s.imageHash.toNat ++ padTo (toBytes 1 c) 16 ++ s.manifest c x key t ++ List.replicate 8 0
        let s := { s with tasks := Map.upd s.tasks key fun t => { t with manifest := some (s.manifest c x key t) } }
        .done (s.writeTarget (.dram a) (block ++ slice (Config.ecdsaSign block) 0 96)) 0

/-- PEER_SET: a Bilot port's access table of 64 entries of 32 bytes is loaded (R350). -/
def execPeerSet (s : State) : Out :=
  command s (fun c => c == 0x11) fun _ m =>
    if 8 ≤ m.arg 0 ∨ ¬s.physOk (m.arg 1) 2048 then .done s 3
    else .done { s with peerTable := Map.put s.peerTable (m.arg 0) (Memory.getN s.mem (m.arg 1) 2048) } 0

end Sys2Proof.Machine
end

