-- ==== Sys2Proof/Machine/ParkArea.lean ====
section
/-! DEFINITION. Parking a context to the host and installing it again (R285, R356), and checkpoints (R358). -/

namespace Sys2Proof.Machine

/-! ### Runs of memory -/

/-- A memory with `n` bytes from `at_` replaced by those of another from `lo`. -/
def Memory.copy (src : List Host.Cell) (lo n : Nat) (dst : List Host.Cell) (at_ : Nat) : List Host.Cell :=
  (dst.filter fun c => decide (c.1 < at_))
  ++ ((src.filter fun c => decide (lo ≤ c.1) && decide (c.1 < lo + n)).map fun c => (c.1 - lo + at_, c.2))
  ++ dst.filter fun c => decide (at_ + n ≤ c.1)

/-- The little-endian value of `n` bytes of a memory. -/
def Memory.num (m : List Host.Cell) (a n : Nat) : Nat := ofBytes (Memory.getN m a n)

/-! ### The pages of a context -/

/-- The leaf pages below a table: global address, bits of the page, entry (R75, R76). -/
def State.leafPages (s : State) : List (Nat × Nat × Nat × List Nat) → Nat → Nat → List (Nat × Nat × Nat)
  | [], _, _ => []
  | (lo, n, _, sizes) :: rest, table, va =>
    (List.range (2 ^ n)).flatMap fun i =>
      let e := Memory.num s.mem (table + 8 * i) 8
      let next := match rest with
        | (_, _, size, _) :: _ => size
        | [] => 256
      if ¬s.entryOk e sizes next then []
      else if bits e 5 2 = 0 then s.leafPages rest (frame e) (va + i * 2 ^ lo)
      else [(va + i * 2 ^ lo, pageBits (bits e 5 2), e)]

/-- The context whose pages hold a line of cell memory, and the line's global address (R86). -/
def State.pageOwner (s : State) (pa : Nat) : Option (Nat × Nat) :=
  s.ctxs.findSome? fun c => ((s.leafPages pageLevels c.2.ptroot 0).find? fun l =>
    tgt l.2.2 == 0 && decide (frame l.2.2 ≤ pa) && decide (pa < frame l.2.2 + 2 ^ l.2.1)).map fun l => (c.1, l.1 + (pa - frame l.2.2))

/-- Bytes of a page in the page image, with its descriptor and bit map (R356). -/
def pageImage (b : Nat) : Nat := 16 + 2 ^ b + 2 ^ b / 512

/-- SIZE of a page of so many bits. -/
def sizeOfPage (b : Nat) : Nat := if b = 16 then 1 else if b = 21 then 2 else 3

/-- Write pages into the page image from an offset: descriptor, bytes, and a bit for every sealed line (R74, R356). -/
def State.writePages (s : State) (m : List Host.Cell) : Nat → List (Nat × Nat × Nat) → List Host.Cell
  | _, [] => m
  | off, (va, b, e) :: r =>
    let f := frame e
    let n := 2 ^ b
    let m := Memory.setN m off (toBytes 8 va ++ toBytes 8 (sizeOfPage b))
    let m := Memory.copy s.mem f n m (off + 16)
    let m := Memory.copy [] 0 (n / 512) m (off + 16 + n)
    let m := (s.sealed_.filter fun l => decide (f ≤ 64 * l) && decide (64 * l < f + n)).foldl (fun m l =>
      let i := l - f / 64
      let a := off + 16 + n + i / 8
      Memory.set m a (setBit (Memory.get m a) (i % 8) true)) m
    s.writePages m (off + pageImage b) r

/-- The pages of an image: global address, bits, offset. -/
def imagePages (m : List Host.Cell) : Nat → Nat → List (Nat × Nat × Nat)
  | 0, _ => []
  | k + 1, off =>
    let b := pageBits (Memory.num m (off + 8) 8)
    (Memory.num m off 8, b, off) :: imagePages m k (off + pageImage b)

/-- A saved page of a context comes back into the frame of its global address, with its sealed bits (R356). -/
def State.readPage (s : State) (c : Nat) (m : List Host.Cell) (va b off f : Nat) : State :=
  let n := 2 ^ b
  let s := s.unseal fun l => decide (f ≤ 64 * l) && decide (64 * l < f + n)
  let map_ := m.filter fun e => decide (off + 16 + n ≤ e.1) && decide (e.1 < off + 16 + n + n / 512)
  let lines := map_.flatMap fun e => (List.range 8).filterMap fun i => if e.2.getLsbD i then some (8 * (e.1 - (off + 16 + n)) + i) else none
  { s with
    mem := Memory.copy m (off + 16) n s.mem f
    sealed_ := lines.foldl (fun (q : List Nat) (l : Nat) => insertNat q (f / 64 + l)) s.sealed_
    sealedBy := lines.foldl (fun (q : Map (Nat × Nat)) (l : Nat) => Map.put q (f / 64 + l) (c, va / 64 + l)) s.sealedBy
    poison := s.poison.filter fun l => decide (64 * l < f) || decide (f + n ≤ 64 * l) }

/-! ### Records and tasks as bytes (R25, R277) -/

/-- The 192 bytes of an Almanac record. -/
def Record.bytes (r : Record) : List Byte :=
  let ins := if r.flags.getLsbD fHarvest then [] else r.ins
  let dies := r.home + 8 * r.replicaDie + (if r.replicaPresent then 64 else 0) + if r.replicaFlight then 128 else 0
  toBytes 16 r.tile.toNat ++ toBytes 8 r.taskId.toNat ++ toBytes 8 r.kdesc.toNat ++ toBytes 16 r.khash.toNat ++ toBytes 8 r.seed.toNat
  ++ toBytes 8 r.arg0.toNat ++ toBytes 8 r.arg1.toNat ++ toBytes 8 r.roster.toNat
  ++ (List.range 8).flatMap (fun i => toBytes 8 (ins.getD i 0).toNat)
  ++ toBytes 4 r.round.toNat ++ toBytes 2 r.group.toNat ++ toBytes 1 r.ctx ++ toBytes 1 r.flags.toNat
  ++ toBytes 1 (r.depth.toNat + 16 * r.retain.toNat) ++ toBytes 1 r.prio.toNat ++ toBytes 1 r.nin ++ toBytes 1 r.outix.toNat ++ toBytes 1 dies
  ++ toBytes 1 0 ++ toBytes 2 r.users ++ toBytes 8 r.win.toNat ++ toBytes 4 r.plen.toNat ++ toBytes 4 r.nonce.toNat ++ toBytes 1 r.keyid.toNat
  ++ List.replicate 15 0

/-- A tile reference as a record keeps it, without the reserved bits of SEL (R5, R254). -/
def tileOf (n : Nat) : BitVec 128 := { Ref.of (BitVec.ofNat 128 n) with rest := 0 }.word

/-- A record with the fields that its 192 bytes give; the reserved ones are ignored (R5, R277). -/
def Record.reread (r : Record) (bs : List Byte) : Record :=
  let w (lo : Nat) : Word := BitVec.ofNat 64 (field bs lo 8)
  let nin := field bs 0x9A 1
  let flags := BitVec.ofNat 8 (field bs 0x97 1)
  let dies := field bs 0x9C 1
  { r with
    tile := tileOf (field bs 0 16), taskId := w 0x10, kdesc := w 0x18, khash := BitVec.ofNat 128 (field bs 0x20 16)
    seed := w 0x30, arg0 := w 0x38, arg1 := w 0x40, roster := w 0x48
    ins := if flags.getLsbD fHarvest then r.ins else (List.range (min nin 8)).map fun i => w (0x50 + 8 * i)
    round := BitVec.ofNat 32 (field bs 0x90 4), group := BitVec.ofNat 16 (field bs 0x94 2 % 2 ^ 12), flags := flags
    depth := BitVec.ofNat 4 (field bs 0x98 1), retain := BitVec.ofNat 4 (field bs 0x98 1 / 16), prio := BitVec.ofNat 3 (field bs 0x99 1), nin := nin
    outix := BitVec.ofNat 2 (field bs 0x9B 1), replicaDie := bits dies 3 3, replicaPresent := bitAt dies 6, replicaFlight := bitAt dies 7
    users := field bs 0x9E 2, win := w 0xA0, plen := BitVec.ofNat 32 (field bs 0xA8 4), nonce := BitVec.ofNat 32 (field bs 0xAC 4)
    keyid := BitVec.ofNat 8 (field bs 0xB0 1) }

/-- A record read back: under its new version, context, home and seal order, not resident and without a replica. -/
def Record.ofBytes (bs : List Byte) (version ctx home order : Nat) (own : BitVec 32) : Record :=
  let r : Record :=
    { version := version, tile := 0, taskId := 0, kdesc := 0, khash := 0, seed := 0, arg0 := 0, arg1 := 0, roster := 0, ins := [], round := 0, group := 0,
      ctx := ctx, flags := 0, depth := 0, retain := 0, prio := 0, nin := 0, outix := 0, home := home, replicaDie := 0, replicaPresent := false,
      replicaFlight := false, users := 0, win := 0, plen := 0, nonce := 0, keyid := 0, order := order, own := own }
  let r := r.reread bs
  { r with flags := setBit r.flags fResident false, replicaDie := 0, replicaPresent := false, replicaFlight := false }

/-- The 256 bytes of a task record, with the current DEPS. -/
def Task.bytes (t : Task) : List Byte :=
  let refs (l : List (BitVec 128)) (n : Nat) : List Byte := padTo (l.flatMap fun r => toBytes 16 r.toNat) (16 * n)
  toBytes 8 t.taskId.toNat ++ toBytes 8 t.kdesc.toNat ++ toBytes 8 t.seed.toNat ++ toBytes 8 t.succ.toNat ++ toBytes 8 t.crec.toNat
  ++ toBytes 4 t.deps ++ toBytes 1 t.ins.length ++ toBytes 1 t.outs.length ++ toBytes 1 t.prio ++ toBytes 1 (bits t.flags.toNat 0 3)
  ++ toBytes 8 t.arg0.toNat ++ toBytes 8 t.arg1.toNat ++ refs t.ins 8 ++ refs t.outs 4

/-- A saved task with the fields of its record; reserved bits are ignored (R5). -/
def Task.reload (t : Task) (bs : List Byte) : Task :=
  let w (lo : Nat) : Word := BitVec.ofNat 64 (field bs lo 8)
  { t with
    taskId := w 0, kdesc := w 8, seed := w 0x10, succ := w 0x18, crec := w 0x20, deps := field bs 0x28 4
    prio := bits (field bs 0x2E 1) 0 3, flags := BitVec.ofNat 8 (bits (field bs 0x2F 1) 0 3), arg0 := w 0x30, arg1 := w 0x38
    ins := refsAt bs 0x40 (min (field bs 0x2C 1) 8), outs := refsAt bs 0xC0 (min (field bs 0x2D 1) 4) }

/-! ### CTX.PARK (R285, R356) -/

/-- The halt request lines of the running shards that a test accepts go up for a park; `none` when all are up. -/
def State.haltAll (s : State) (p : Shard → Bool) : Option State :=
  match s.cores.filter fun e => e.2.shard.any fun sh => p sh && sh.halt == 0 with
  | [] => none
  | up => some (up.foldl (fun s e => s.raiseHalt e.1 1) s)

/-- A round is being folded or sealed. -/
def Group.busy (g : Group) : Bool := !g.inflight.isEmpty || g.rounds.any fun r => r.2.state == .closing || r.2.state == .sealing

/-- Work of a context that must end before its state can be written out: running shards, seals, transfers, contributions and tasks about to complete. -/
def State.ctxBusy (s : State) (c : Nat) : Bool :=
  (s.cores.any fun e => e.2.shard.any fun sh => sh.ctx == c)
  || (s.seals.any fun q => (Map.look s.versions q.version).any fun v => v.ctx == c)
  || ((s.replicas ++ s.fetches).any fun x => (s.record? x.die x.index).any fun r => r.ctx == c)
  || (s.groups.any fun g => g.2.ctx == c && g.2.busy)
  || s.tasks.any fun e => e.2.ctx == c && e.2.rebuild.isNone && (e.2.failed.isSome || e.2.lost.isSome || e.2.state == .sealing)

/-- Every rebuild task of a context is cancelled. -/
def State.cancelRebuilds (s : State) (c : Nat) : State :=
  (s.tasks.filter fun e => e.2.ctx == c && e.2.rebuild.isSome).foldl (fun s e =>
    let s := s.stopTask e.1
    { s with tasks := Map.del s.tasks e.1 }) s

/-- A TPARK that a parked shard of the context has still to carry out and that names a version: the window, CAP, key slot and nonce of its park block (R272, R356). -/
def State.parkOrder (s : State) (c key : Nat) : Option (BitVec 64 × Nat × Nat × BitVec 32) :=
  s.parked.findSome? fun p => if p.2.shard.ctx ≠ c then none else p.2.core.xqueue.findSome? fun x =>
    if x.op == opTpark && x.packet != [] && ((s.resolveRef c x.ref).bind (s.findVersion c)).any fun e => e.1 == key then
      some (BitVec.ofNat 64 (field x.packet 0 8), field x.packet 8 4, field x.packet 0x0C 1, BitVec.ofNat 32 (field x.packet 0x10 4))
    else none

/-- Park a version to the window that its own TPARK names, if it can be (R272, R285). -/
def State.parkOut (s : State) (c key d k : Nat) (v : Version) : Option State :=
  match s.parkOrder c key with
  | none => none
  | some (win, cap, keyid, nonce) =>
    match Map.look s.keys keyid with
    | none => none
    | some q =>
      let bs := parkStream q nonce win (v.image ++ v.twin.getD [])
      if ¬s.readable v ∨ (s.notWindow c win (max 1 bs.length)).isSome ∨ cap < bs.length then none
      else match s.range c .write win.toNat (max 1 bs.length) with
        | .ok ps =>
          if ps.any fun p => s.refuses p.1 then none
          else (s.writeRange c win.toNat bs).map fun s => (s.chargeVersion key v actSwap).parkDone key d k win bs.length nonce (BitVec.ofNat 8 keyid)
        | _ => none

/-- Step 2 of R285: every sealed version that is not parked is parked to the window that its own TPARK names; one that no TPARK names a window for, or that cannot be written there, cannot be parked and is dropped; its record stands until it has been written out (R285, R356; notes/assumptions/52.md). -/
def State.parkVersions (s : State) (c : Nat) : State :=
  (s.versions.filter fun e => e.2.ctx == c).foldl (fun s e =>
    match e.2.record with
    | none => s
    | some (d, k) => match s.record? d k with
      | some r =>
        if r.flags.getLsbD fParked ∨ r.flags.getLsbD fDropped then s
        else (s.parkOut c e.1 d k e.2).getD (s.updRecord d k Record.dropped)
      | none => s) s

/-- The hub links of the dies in service are up: what a park area or a checkpoint holds goes out or comes in over them (R16). -/
def State.hubsUp (s : State) : Bool := (List.range 8).all fun d => !s.dies.getLsbD d || s.hubOk d

/-- The records of a context in seal order, with die and index. -/
def State.ctxRecords (s : State) (c : Nat) : List (Nat × Nat × Record) :=
  (s.almanac.flatMap fun a => (a.2.records.filter fun r => r.2.ctx == c).map fun r => (a.1, r.1, r.2)).mergeSort
    fun x y => decide (x.2.2.order ≤ y.2.2.order)

/-- The parts of a park area, and its length. -/
structure Area where
  records : List (Nat × Nat × Record)
  tasks : Map Task
  groups : Map Group
  pages : List (Nat × Nat × Nat)
  leaves : List (Nat × Nat × Nat)
  stream : List Byte
deriving DecidableEq, Repr

/-- Offsets of the page image, of the handle table's stream and of the device's own table of the records' places in a park area. -/
def Area.pagesAt (a : Area) : Nat := 96 + 192 * a.records.length + 256 * a.tasks.length + 512 * a.groups.length + 16 * a.leaves.length
def Area.streamAt (a : Area) : Nat := a.pagesAt + (a.pages.map fun p => pageImage p.2.1).sum
def Area.placesAt (a : Area) : Nat := a.streamAt + a.stream.length
def Area.length (a : Area) : Nat := a.placesAt + 16 * a.records.length

/-- The park block of R272. -/
def parkBlock (win cap keyid nonce : Nat) : List Byte :=
  toBytes 8 win ++ toBytes 4 cap ++ toBytes 1 keyid ++ List.replicate 3 0 ++ toBytes 4 nonce ++ List.replicate 12 0

/-- Step 3 of R285: the handle table as version HTV of tile (0, 0, 0) of the reserved handle 0xFFFF_FFFF. -/
def State.tableVersion (s : State) (c : Nat) (x : Ctx) : Version :=
  { ctx := c, handle := 0xFFFFFFFF, i := 0, j := 0, b := 0, version := x.htv.setWidth 32, image := Memory.getN s.mem x.htab (16 * x.hcount),
    twin := none, sealed_ := true, present := true, task := none, writer := none, writers := [], record := none, lost := 0, replica := none,
    freeLater := false, asked := none, moved := [], knows := [] }

/-- The park area of a context at a host bus address (R356); the handle-table tile's parked stream lies behind the page image, and a group's state block holds its declaration and then bytes of the device's own layout. -/
def State.areaOf (s : State) (c area : Nat) (x : Ctx) (key : BitVec 256) (nonce : Nat) : Area :=
  let leaves := s.leafPages pageLevels x.ptroot 0
  let a : Area :=
    { records := s.ctxRecords c, tasks := s.tasks.filter fun e => e.2.ctx == c, groups := s.groups.filter fun g => g.2.ctx == c,
      pages := leaves.filter fun l => tgt l.2.2 == 0, leaves := leaves, stream := [] }
  { a with stream := parkStream key (BitVec.ofNat 32 nonce) (BitVec.ofNat 64 (area + a.streamAt)) (s.tableVersion c x).image }

/-- The bytes of a group's state block behind its declaration, in the device's own layout: free values, by an index. -/
def blockRest (k : Nat) : List Byte := (List.range 384).map fun i => Config.saveHeaderByte k i

/-- Write a park area into the memory of a host; the last bytes of its header hold the number of pages in the table, the number of the park and the device's serial, and the last bytes of the area the old places of the records, in the device's own layout. -/
def State.writeArea (s : State) (m : List Host.Cell) (area : Nat) (a : Area) (htv : Word) (keyid nonce serial : Nat) : List Host.Cell :=
  let head := padTo ([a.records.length, a.tasks.length, a.groups.length, a.pages.length, htv.toNat, a.leaves.length, serial, Config.serial.toNat].flatMap (toBytes 8)) 64
  let m := Memory.setN m area (head ++ parkBlock (area + a.streamAt) a.stream.length keyid nonce
    ++ (a.records.flatMap fun r => r.2.2.bytes) ++ (a.tasks.flatMap fun t => t.2.bytes)
    ++ (a.groups.flatMap fun g => padTo g.2.decl 128 ++ blockRest s.free)
    ++ a.leaves.flatMap fun l => toBytes 8 l.1 ++ toBytes 8 l.2.2)
  Memory.setN (s.writePages m (area + a.pagesAt) a.pages) (area + a.streamAt)
    (a.stream ++ a.records.flatMap fun r => toBytes 8 (r.1 * 2 ^ 25 + r.2.1) ++ toBytes 8 r.2.2.own.toNat)

/-- What stays in the device's own layout of an area. -/
def State.shelfOf (s : State) (port area serial c : Nat) (x : Ctx) (a : Area) : Shelf :=
  { port := port, area := area, serial := serial, places := a.records.map fun r => (r.1, r.2.1, r.2.2.version, r.2.2.own)
    header := s.free, parked := s.parked.filter fun p => p.2.shard.ctx == c, groups := a.groups, tasks := a.tasks
    versions := s.versions.filter fun v => v.2.ctx == c && !v.2.sealed_, queues := x.queues
    poison := a.pages.flatMap fun p => (s.poison.filter fun l => decide (frame p.2.2 ≤ 64 * l) && decide (64 * l < frame p.2.2 + 2 ^ p.2.1)).map
      fun l => (p.1 + (64 * l - frame p.2.2)) / 64 }

/-- The bytes of the pages that go to a host or come from one are charged to SWAP (R333, R356). -/
def State.chargePages (s : State) (pages : List (Nat × Nat)) : State :=
  pages.foldl (fun s p => (s.charge (p.1 / 2 ^ 34 % 32) actSwap (17 * (2 ^ p.2 / 1024))).chargeHub (p.1 / 2 ^ 36 % 8) actSwap (2 ^ p.2 / 64)) s

/-- A context stops for its park: its entry shows it (R343). -/
def State.stopCtx (s : State) (c owner : Nat) : State := (s.updCtx c fun x => { x with state := 2 }).writeEntry c 2 owner

/-- CTX_PARK: dispatch of the context stops and its running shards park; then its state is written to the park area, and its number is free (R285, R356). Its lines stay sealed in the frames that held it until system software has unmapped and invalidated them there (R74). -/
def execCtxPark (s : State) : Out :=
  command s (fun c => c == 3) fun p m => onContext s p m fun c x =>
    let keyid := bits (m.arg 3) 0 8
    let nonce := bits (m.arg 3) 32 32
    match Map.look s.keys keyid with
    | none => .done s 3
    | some key =>
      match s.haltAll fun sh => sh.ctx == c with
      | some s => .going (s.stopCtx c x.owner)
      | none =>
        if s.ctxBusy c ∨ ¬s.hubsUp then (if x.state = 1 then .going (s.stopCtx c x.owner) else .waits)
        else
          let s' := (s.cancelRebuilds c).parkVersions c
          let a := s'.areaOf c (m.arg 1) x key nonce
          if m.arg 2 < a.length ∨ (Map.look s.hostDown p).isSome then .done ((s.updCtx c fun x => { x with state := 1 }).writeEntry c 1 x.owner) 4
          else
            let shelf := s'.shelfOf p (m.arg 1) s'.uid c x a
            let host := s'.writeArea (s'.hostMem p) (m.arg 1) a x.htv keyid nonce s'.uid
            let s' := { ((s'.setHostMem p host).chargePages (a.pages.map fun l => (frame l.2.2, l.2.1))) with
              shelves := shelf :: s'.shelves.filter fun z => !(z.port == p && z.area == m.arg 1)
              free := s'.free + 1
              uid := s'.uid + 1
              tasks := s'.tasks.filter fun e => e.2.ctx ≠ c
              parked := s'.parked.filter fun e => e.2.shard.ctx ≠ c }
            .done ((s'.clearCtx c).refillAll.writeEntry c 0 x.owner) 0

/-! ### CTX.RESUME (R285, R356) -/

/-- Identities of a parked context get new numbers, all above those in use. -/
def shiftKeys {v : Type} (base : Nat) (m : Map v) : Map v := m.map fun e => (e.1 + base, e.2)

/-- A saved row names its version by its new identity. -/
def HoldRow.shifted (base : Nat) : HoldRow → HoldRow
  | .piece v t p => .piece (v + base) t p
  | x => x

/-- A parked shard in its new context. -/
def Parked.moved (base c : Nat) (p : Parked) : Parked :=
  { p with
    shard := { p.shard with uid := p.shard.uid + base, ctx := c, task := p.shard.task + base, wrote := p.shard.wrote.map (· + base), knows := shiftKeys base p.shard.knows }
    core := { p.core with
      holds := Map.each p.core.holds fun _ (h : Hold) => { h with row := h.row.shifted base }
      inbox := p.core.inbox.map fun e => { e with ctx := c } } }

/-- A saved page that has found its frame. -/
structure SavedPage where
  va : Nat
  bits : Nat
  off : Nat
  frame : Nat
deriving DecidableEq, Repr

/-- The saved pages find their frames: each with the same SIZE and TGT 0 under the new page table, or `none`. -/
def State.framesFor (s : State) (root : Nat) (pages : List (Nat × Nat × Nat)) : Option (List SavedPage) :=
  pages.mapM fun p => match s.walk [] 0 p.1 pageLevels root with
    | .leaf e b => if b = p.2.1 ∧ tgt e = 0 ∧ p.1 % 2 ^ b = 0 then some { va := p.1, bits := b, off := p.2.2, frame := frame e } else none
    | _ => none

/-- A saved record enters the shard of its version's new home, with the version it describes; the place it gets, or `none` when no record is free. -/
def State.reloadRecord (s : State) (c base : Nat) (bs : List Byte) (key : Nat) (own : BitVec 32) : Option (State × Nat × Nat) :=
  let ref := Ref.of (BitVec.ofNat 128 (field bs 0 16))
  let t := s.tensor c ref.handle
  let home := match t with
    | .ok t => s.standIn (t.homeOf ref)
    | _ => s.standIn 0
  match (Map.look s.almanac home).bind Almanac.freeIndex with
  | none => none
  | some i =>
    let r := Record.ofBytes bs (key + base) c home s.order own
    let v : Version := match t with
      | .ok t => blankVersion c none none t ref
      | _ => { ctx := c, handle := BitVec.ofNat 32 ref.handle, i := ref.i, j := ref.j, b := ref.b, version := BitVec.ofNat 32 ref.version, image := [],
               twin := none, sealed_ := true, present := true, task := none, writer := none, writers := [], record := none, lost := 0, replica := none,
               freeLater := false, asked := none, moved := [], knows := [] }
    some ({ s with
      order := s.order + 1
      versions := Map.put s.versions (key + base) { v with sealed_ := true, present := !r.flags.getLsbD fDropped, record := some (home, i) }
      almanac := Map.upd s.almanac home fun a => { a with records := Map.put a.records i r, next := max a.next (i + 1) } }, home, i)

/-- The saved records enter in order; the places they get beside the ones they had. -/
def State.reloadRecords (s : State) (c base : Nat) (m : List Host.Cell) (at_ : Nat) : List (Nat × Nat × Nat × BitVec 32) → Option (State × List ((Nat × Nat) × (Nat × Nat)))
  | [] => some (s, [])
  | (d, k, key, own) :: r =>
    (s.reloadRecord c base (Memory.getN m at_ 192) key own).bind fun (s, p) =>
      (s.reloadRecords c base m (at_ + 192) r).map fun (s, l) => (s, ((d, k), p) :: l)

/-- A handle rewritten to the new place of its record; one that names no saved record names a missing one. -/
def rewriteHandle (places : List ((Nat × Nat) × (Nat × Nat))) (h : Word) : Word :=
  let d := bits h.toNat 59 3
  let k := bits h.toNat 34 25
  let v := bits h.toNat 0 32
  match places.find? fun p => p.1 == (d, k) with
  | some p => recordHandle (handleKind h) p.2.1 p.2.2 v
  | none => recordHandle (handleKind h) d (2 ^ 25 - 1) v

/-- The handles of the reloaded records are rewritten; a Harvest result finds its contributions by its round (R316, R311). -/
def State.rewriteHandles (s : State) (c : Nat) (places : List ((Nat × Nat) × (Nat × Nat))) : State :=
  places.foldl (fun s p => s.updRecord p.2.1 p.2.2 fun r =>
    { r with ins :=
        if r.flags.getLsbD fHarvest then
          (if r.depth = 0 then [] else (Map.look s.groups r.group.toNat).elim [] fun g => if g.ctx = c then s.contributionHandles g r.round r.roster else [])
        else r.ins.map (rewriteHandle places) }) s

/-- A saved task in its new context: placed again, with its shards as they were saved. -/
def State.movedTask (s : State) (base c : Nat) (t : Task) : Task :=
  let die := s.standIn (s.firstDie c t.ins t.submitter)
  { t with
    ctx := c, die := die, entry := die, state := if t.fresh then .pending else .running, aged := 0, readyAt := s.now, claim := 0
    packet := t.packet.map fun p => (c, p.2), knows := shiftKeys base t.knows, doneKnows := shiftKeys base t.doneKnows }

/-- A saved task enters its store, and the fetches of its parked inputs start (R284, R285). -/
def State.readmit (s : State) (base c : Nat) (e : Nat × Task) (bs : List Byte) : State :=
  let t := s.movedTask base c (e.2.reload bs)
  t.ins.foldl (fun s r => match (s.resolveRef c (Ref.of r)).bind (s.findVersion c) with
    | some v => s.startFetch v.2
    | none => s) { s with tasks := Map.put s.tasks (e.1 + base) t }

/-- A saved group in its new context (R306). -/
def State.movedGroup (s : State) (base c : Nat) (g : Group) : Group :=
  let ref := g.resultRef 0
  { g with
    ctx := c
    die := match s.tensor c ref.handle with
      | .ok t => s.standIn (t.homeOf ref)
      | _ => g.die
    members := Map.each g.members fun _ (m : Member) => { m with bound := m.bound.map fun b => (b.1 + base, b.2) }
    rounds := Map.each g.rounds fun _ (r : Round) => { r with knows := shiftKeys base r.knows } }

/-- The packets of a queue that had work left; one of which nothing is known is looked at. -/
def HostQueue.withWork (q : HostQueue) (old : Option HostQueue) : HostQueue :=
  match old with
  | some o => { q with pending := o.pending, bad := o.bad, open_ := o.open_, marks := o.marks }
  | none => { q with pending := true }

/-! What an area holds in a layout of the device's own is free where another device wrote it, or where software altered it: the rest of a group's state, the rest of a parked shard, unsealed versions and the work left in the queues (R299, R356; notes/assumptions/52.md). -/

/-- A group whose state block is its declaration and bytes that say nothing here: `f` gives free values. -/
def State.strangeGroup (s : State) (c : Nat) (decl : List Byte) (f : Nat → Word) : Group :=
  let g := s.newGroup c decl
  let first := (f 0).setWidth 32
  { g with
    open_ := first, rounds := [(first.toNat, Round.future)]
    members := Map.each g.members fun k (m : Member) =>
      { m with present := m.present || (f (4 * k + 1)).getLsbD 0, stalled := (f (4 * k + 2)).getLsbD 0, last := some ((f (4 * k + 3)).setWidth 32)
               own := some ((f (4 * k + 4)).setWidth 32) } }

/-- The groups of an area, by their numbers: as this device parked them, or with a free state (R356). -/
def State.areaGroups (s : State) (c : Nat) (m : List Host.Cell) (at_ n : Nat) (known : Option Shelf) : Map Group :=
  ((List.range n).map fun i =>
    let bs := Memory.getN m (at_ + 512 * i) 512
    let decl := slice bs 0 128
    let k := bits (field bs 0 2) 0 12
    match known.bind fun z => (Map.look z.groups k).filter fun g => decide (padTo g.decl 128 = decl) && decide (bs.drop 128 = blockRest z.header) with
    | some g => (k, g)
    | none => (k, s.strangeGroup c decl fun j => Config.freeWord (s.free + 512 * i + j))).foldl (fun gs e => Map.put gs e.1 e.2) []

/-- The parked shards of an area of another device: those that the save slots of the pool name among the tasks given, each by its lowest slot. -/
def State.strangeParked (s : State) (c base : Nat) (x : Ctx) (tasks : Map Task) : Map Parked :=
  (List.range x.slots).foldl (fun ps j =>
    match s.readRange c (s.slotAddr c j) 0x2000 with
    | none => ps
    | some hd =>
      let num := field hd 8 2
      match tasks.find? fun e => e.2.taskId.toNat == field hd 0 8 && decide (num < e.2.shards.length) with
      | none => ps
      | some e => match s.kernel c e.2.kdesc.toNat with
        | none => ps
        | some k =>
          if ps.any fun q => q.2.shard.task == e.1 && q.2.shard.num == num then ps
          else
            let sh := { (s.newShard e.1 e.2 k num).reread hd with uid := base + j }
            let flags := field hd 0xE 1
            let q : Parked :=
              { shard := sh, core := { k.startCore Core.idle sh with shard := none }, fromCore := field hd 0xC 2 % 3072, slot := j, header := s.free + j,
                lease := bitAt flags 2, rows := [], parkedAt := s.now, aged := 0, debug := false, needsArray := decide (flags % 8 ≠ 0), trapAt := none }
            Map.put ps (base + j) (q.unknown (s.free + 2 ^ 20 + slotFree * j))) []

/-- The tasks of an area of another device, from their records; a shard that no slot names has retired or still waits. -/
def State.strangeTasks (s : State) (c base : Nat) (recs : List (List Byte)) : Map Task :=
  (recs.zipIdx).map fun e =>
    let t := s.taskOf c e.1 (Config.freeWord (s.free + 2 ^ 19 + e.2)) none none []
    (base + e.2, { t with shards := (t.shards.zipIdx).map fun h => if (Config.freeWord (s.free + 2 ^ 30 + 2 ^ 16 * e.2 + h.2)).getLsbD 0 then .retired else .waiting })

/-- The unsealed outputs of tasks with parked shards, in an area of another device: what their shards have written is free. -/
def State.strangeOutputs (s : State) (c base : Nat) (tasks : Map Task) (parked : Map Parked) : Map Version :=
  ((tasks.filter fun e => parked.any fun p => p.2.shard.task == e.1).flatMap fun e => e.2.outs.filterMap fun r =>
    let ref := Ref.of r
    match s.tensor c ref.handle with
    | .ok t => some (e.1, blankVersion c (some e.1) none t ref)
    | _ => none).zipIdx.map fun v =>
      let free (img : List Byte) : List Byte := (List.range img.length).map fun i => Config.saveHeaderByte (s.free + v.2) i
      (base + v.2, { v.1.2 with image := free v.1.2.image, twin := v.1.2.twin.map free })

/-- The device's own part of an area that it did not write. -/
def State.strangeShelf (s : State) (c p area : Nat) (x : Ctx) (n0 n1 placesAt : Nat) : Shelf :=
  let m := s.hostMem p
  let tasks := s.strangeTasks c n0 ((List.range n1).map fun i => Memory.getN m (area + 96 + 192 * n0 + 256 * i) 256)
  let parked := s.strangeParked c (n0 + n1) x tasks
  { port := p, area := area, serial := 0, header := 0, groups := [], queues := [], poison := []
    places := (List.range n0).map fun i =>
      let w := Memory.num m (placesAt + 16 * i) 8
      (w / 2 ^ 25 % 8, w % 2 ^ 25, i, BitVec.ofNat 32 (Memory.num m (placesAt + 16 * i + 8) 8))
    parked := parked
    tasks := Map.each tasks fun k (t : Task) =>
      { t with begun := parked.any fun q => q.2.shard.task == k
               shards := (t.shards.zipIdx).map fun h => if parked.any fun q => q.2.shard.task == k && q.2.shard.num == h.2 then .parked else h.1 }
    versions := s.strangeOutputs c (n0 + n1 + x.slots) tasks parked }

/-- A context is installed from a park area whose frames are known, with what this device knows of the area if it wrote it; `inr` gives the status that nothing is installed with. -/
def State.reinstall (s : State) (c p area : Nat) (x : Ctx) (known : Option Shelf) (frames : List SavedPage) (htab : List Byte) (placesAt : Nat) : State ⊕ Nat :=
  let m := s.hostMem p
  let base := s.uid
  let n (k : Nat) : Nat := Memory.num m (area + 8 * k) 8
  let htv := BitVec.ofNat 64 (n 4)
  let s := (frames.foldl (fun s f => s.readPage c m f.va f.bits f.off f.frame) s).chargePages (frames.map fun f => (f.frame, f.bits))
  let s := s.writeTarget (.dram x.htab) htab
  let x := { x with htv := htv, hcount := htab.length / 16 }
  match s.installCtx c x with
  | none => .inr 3
  | some s =>
    let z := known.getD (s.strangeShelf c p area x (n 0) (n 1) placesAt)
    let groups := s.areaGroups c m (area + 96 + 192 * n 0 + 256 * n 1) (n 2) known
    if groups.any fun g => (Map.look s.groups g.1).isSome then .inr 4 else
    let s := s.updCtx c fun x => { x with
      queues := Map.each x.queues fun k (q : HostQueue) => q.withWork (Map.look z.queues k)
      usedSlots := (z.parked.map fun e => e.2.slot).foldl insertNat [] }
    let s := { s with
      free := s.free + 2 ^ 40
      poison := z.poison.foldl (fun (p : List Nat) (l : Nat) => match s.translate c (64 * l) .read with
        | some (.dram a) => insertNat p (a / 64)
        | _ => p) s.poison
      versions := z.versions.foldl (fun (vs : Map Version) (v : Nat × Version) => Map.put vs (v.1 + base)
        { v.2 with ctx := c, task := v.2.task.map (· + base), writer := v.2.writer.map (· + base), knows := shiftKeys base v.2.knows }) s.versions
      groups := groups.foldl (fun (gs : Map Group) (g : Nat × Group) => Map.put gs g.1 (s.movedGroup base c g.2)) s.groups
      uid := 2 * base + 1 + n 0 + n 1 + 5 * (x.slots + n 1) }
    match s.reloadRecords c base m (area + 96) z.places with
    | none => .inr 4
    | some (s, places) =>
      let s := s.rewriteHandles c places
      if ¬s.roomFor (z.tasks.map fun t => s.movedTask base c t.2) then .inr 4 else
      let tasksAt := area + 96 + 192 * z.places.length
      let s := (z.tasks.zipIdx).foldl (fun (s : State) (e : (Nat × Task) × Nat) => s.readmit base c e.1 (Memory.getN m (tasksAt + 256 * e.2) 256)) s
      .inl { s with parked := z.parked.foldl (fun (ps : Map Parked) (e : Nat × Parked) => Map.put ps (e.1 + base) (e.2.moved base c)) s.parked }

/-- What this device knows of a park area, if it wrote it. -/
def State.ownShelf (s : State) (m : List Host.Cell) (area : Nat) : Option Shelf :=
  let n (k : Nat) : Nat := Memory.num m (area + 8 * k) 8
  s.shelves.find? fun z =>
    z.serial == n 6 && n 7 == Config.serial.toNat % 2 ^ 64 && n 0 == z.places.length && n 1 == z.tasks.length && n 2 == z.groups.length

/-- CTX_RESUME: a parked context is installed under a free number, from an area in the memory of the issuing port's host, which need not be where, nor on the port, it was parked; the port becomes its owner (R342, R356). -/
def execCtxResume (s : State) : Out :=
  command s (fun c => c == 4) fun p m =>
    let c := m.arg 0
    let area := m.arg 1
    if 256 ≤ c ∨ (Map.look s.ctxs c).isSome ∨ ¬s.entryFits c ∨ (Map.look s.hostDown p).isSome then .done s 3
    else if ¬s.hubsUp then .waits
    else
      let mem := s.hostMem p
      let n (k : Nat) : Nat := Memory.num mem (area + 8 * k) 8
      let pagesAt := area + 96 + 192 * n 0 + 256 * n 1 + 512 * n 2 + 16 * n 5
      if area + m.arg 2 < pagesAt then .done s 3
      else
        let pages := imagePages mem (n 3) pagesAt
        let streamAt := pagesAt + (pages.map fun q => pageImage q.2.1).sum
        let x := s.ctxOf c p
        let block := Memory.getN mem (area + 64) 32
        let win := field block 0 8
        let cap := field block 8 4
        match s.framesFor x.ptroot pages, Map.look s.keys (field block 12 1) with
        | none, _ => .done s 3
        | _, none => .done s 5
        | some frames, some key =>
          if area + m.arg 2 < streamAt + cap + 16 * n 0 then .done s 3
          else
            match ((Config.gcmOpen key (gcmIv (BitVec.ofNat 32 (field block 16 4)) (BitVec.ofNat 64 win)) (Memory.getN mem streamAt cap)).bind checkCrc).bind unzrc with
            | none => .done s 5
            | some htab =>
              match { s with free := s.free + 2 }.reinstall c p area x (s.ownShelf mem area) frames htab (streamAt + cap) with
              | .inl s' => .done s' 0
              | .inr st => .done s st

/-! ### Checkpoints (R358) -/

/-- The host port and the bus address that a die's home quadrants go to: even dies to the port-0 area, odd dies to port 1, or all to the one that is given. -/
def ckptPlace (area0 area1 die : Nat) : Nat × Nat :=
  if area1 = 0 then (0, area0 + die * 2 ^ 36)
  else if area0 = 0 then (1, area1 + die * 2 ^ 36)
  else if die % 2 = 0 then (0, area0 + die / 2 * 2 ^ 36) else (1, area1 + die / 2 * 2 ^ 36)

/-- Entries of the control area of a die: the shadows of its buddy's store and Harvest groups, and its rebuild queue (R278, R422, R426). -/
def State.controlEntries (s : State) (die : Nat) : Nat :=
  (s.tasks.filter fun e => if e.2.rebuild.isSome then e.2.die == die else e.2.entry == die ^^^ 4).length + 2 * (s.groups.filter fun g => g.2.die == die ^^^ 4).length

/-- What the tile store and the Almanac region of a die hold, as runs of bytes by device physical address (R73, R278, R321): the row pieces of versions and replicas, the records of the shard, those of the buddy's, if it is mirrored, and the entries of the control area, 256 bytes each, whose bytes the spec does not state. -/
def State.highRuns (s : State) (die : Nat) : List (Nat × List Byte) :=
  let rows (key : Nat) (v : Version) (img : List Byte) : List (Nat × List Byte) :=
    ((s.rowsOn die key v).zipIdx).map fun p => (rowAddr p.1, slice (padTo img (1024 * v.pieces)) (1024 * p.2) 1024)
  let image (v : Version) : List Byte := padTo v.image (1024 * ceilDiv v.image.length 1024) ++ v.twin.getD []
  (s.versions.flatMap fun e =>
    (if s.homeDie e.2 = die ∧ s.readable e.2 then rows e.1 e.2 (image e.2) else [])
    ++ if (s.recordOf e.2).any fun r => r.replicaPresent && r.replicaDie == die then
        rows e.1 e.2 (image { e.2 with image := (e.2.replica.getD []).take e.2.image.length, twin := e.2.twin.map fun _ => (e.2.replica.getD []).drop e.2.image.length }) else [])
  ++ ((Map.look s.almanac die).elim [] fun a => a.records.map fun r => (shardAt die + 192 * r.1, r.2.bytes))
  ++ ((Map.look s.almanac (die ^^^ 4)).elim [] fun a => if a.mirrored then a.records.map fun r => (mirrorAt die + 192 * r.1, r.2.bytes) else [])
  ++ [(controlAt die, (List.range (256 * s.controlEntries die)).map fun i => Config.saveHeaderByte s.free i)]

/-- The bytes of every home quadrant go to the hosts, at activity CKPT: cell memory, the tile store and the Almanac region. -/
def State.streamOut (s : State) (area0 area1 : Nat) : State :=
  (List.range 8).foldl (fun s d =>
    let (p, a) := ckptPlace area0 area1 d
    let m := Memory.copy s.mem (d * 2 ^ 36) (2 ^ 36) (s.hostMem p) a
    let m := (s.highRuns d).foldl (fun m r => Memory.setN m (a + r.1 % 2 ^ 36) r.2) m
    ((List.range 4).foldl (fun s k => s.charge (4 * d + k) actCkpt (17 * 2 ^ 24)) (s.setHostMem p m)).chargeHub d actCkpt (2 ^ 30)) s

/-- Bytes of the image of a checkpoint, by device physical address. -/
def State.imageAt (s : State) (area0 area1 a n : Nat) : List Byte :=
  let (p, at_) := ckptPlace area0 area1 (a / 2 ^ 36 % 8)
  Memory.getN (s.hostMem p) (at_ + a % 2 ^ 36) n

/-- A version with the bytes that the image holds in the rows of its home copy and of its replica. -/
def State.versionFrom (s : State) (area0 area1 key : Nat) (v : Version) : Version :=
  let rows (d : Nat) : List Byte := (s.rowsOn d key v).flatMap fun r => s.imageAt area0 area1 (rowAddr r) 1024
  let part (bs : List Byte) : List Byte × Option (List Byte) :=
    (bs.take v.image.length, v.twin.map fun t => slice bs (1024 * ceilDiv v.image.length 1024) t.length)
  let (img, twin) := if s.readable v then part (rows (s.homeDie v)) else (v.image, v.twin)
  let copy := match s.recordOf v with
    | some r => if r.replicaPresent ∧ v.replica.isSome then (let q := part (rows r.replicaDie); some (q.1 ++ q.2.getD [])) else v.replica
    | none => v.replica
  { v with image := img, twin := twin, replica := copy }

/-- Every home quadrant is written back: its cell memory, the records of its Almanac shard, and the versions and replicas that its tile store held, as the image gives them; the layout tables, the control area and what the records do not hold come with the device's own part of the checkpoint (R278, R358). -/
def State.streamIn (s : State) (area0 area1 : Nat) : State :=
  let s := (List.range 8).foldl (fun s d =>
    let (p, a) := ckptPlace area0 area1 d
    (List.range 4).foldl (fun s k =>
      { s with mem := Memory.copy (s.hostMem p) (a + k * 2 ^ 34) (s.tsb.toNat * 2 ^ 30) s.mem (d * 2 ^ 36 + k * 2 ^ 34) }) s) s
  let s := { s with almanac := Map.each s.almanac fun d (a : Almanac) =>
    { a with records := Map.each a.records fun k (r : Record) => r.reread (s.imageAt area0 area1 (shardAt d + 192 * k) 192) } }
  { s with versions := Map.each s.versions fun key (v : Version) => s.versionFrom area0 area1 key v }

/-- A port that a checkpoint uses is down. -/
def State.ckptDown (s : State) (area0 area1 : Nat) : Bool :=
  (area0 != 0 && (Map.look s.hostDown 0).isSome) || (area1 != 0 && (Map.look s.hostDown 1).isSome)

/-- CKPT: dispatch stops device-wide, every running shard parks, outstanding seals end, and every home quadrant is streamed to the hosts (R358). -/
def execCkpt (s : State) : Out :=
  command s (fun c => c == 0x0F) fun _ m =>
    let a0 := m.arg 0
    let a1 := m.arg 1
    if a0 = 0 ∧ a1 = 0 then .done s 3
    else if s.ckptDown a0 a1 then .done { s with frozen := false } 4
    else match s.haltAll fun _ => true with
      | some s => .going { s with frozen := true }
      | none =>
        if (s.cores.any fun e => e.2.shard.isSome) ∨ s.seals ≠ [] ∨ ¬s.hubsUp then (if s.frozen then .waits else .going { s with frozen := true })
        else
          let snap : Snapshot :=
            { area0 := a0, area1 := a1, sealed_ := s.sealed_, sealedBy := s.sealedBy, poison := s.poison, tasks := s.tasks, parked := s.parked, ctxs := s.ctxs,
              versions := s.versions, almanac := s.almanac, groups := s.groups, remap := s.remap, replicas := s.replicas, fetches := s.fetches }
          .done { (s.streamOut a0 a1) with
            ckpts := snap :: s.ckpts.filter fun z => !(z.area0 == a0 && z.area1 == a1)
            frozen := !bitAt (m.arg 2) 0 } 0

/-- CKPT_RESTORE: with both planes held, the image is written back; they restart with the resident contexts and parked shards as they were (R358). What a checkpoint holds of the planes' own state is in no layout that the spec gives, so that an image which this device did not write gives STATUS 3 (notes/assumptions/52.md). -/
def execCkptRestore (s : State) : Out :=
  command s (fun c => c == 0x10) fun _ m =>
    let a0 := m.arg 0
    let a1 := m.arg 1
    match (if s.ckptDown a0 a1 then none else s.ckpts.find? fun z => z.area0 == a0 && z.area1 == a1) with
    | none => .done s 3
    | some z =>
      if ¬s.hubsUp then .waits else
      .done ({ s with
        sealed_ := z.sealed_, sealedBy := z.sealedBy, poison := z.poison, tasks := z.tasks, parked := z.parked, ctxs := z.ctxs, versions := z.versions
        almanac := z.almanac, groups := z.groups, remap := z.remap, frozen := false, seals := [], replicas := z.replicas, fetches := z.fetches
        clusters := clustersAtReset, watched := [], regions := [], lostMarks := [], outstanding := [], strays := [], retries := [], barWaits := []
        cores := Map.each s.cores fun _ (c : Core) => { Core.idle with capacity := c.capacity, inService := c.inService }
        arrays := Map.each s.arrays fun _ (a : Array) => { a with holder := none, runOpen := false, waiting := [] } }.streamIn a0 a1) 0

end Sys2Proof.Machine
end

