-- ==== Sys2Proof/Machine/Boot.lean ====
section
/-! DEFINITION. Registers (R5, R295, R336, R339 to R341), boot (R352, R353), power (R357) and the restarts of the management plane (R359). -/

namespace Sys2Proof.Machine

/-! ### Reads of registers -/

/-- A device register (R340). -/
def State.devReg (s : State) (off : Nat) : Word :=
  match off with
  | 0x000 => BitVec.ofNat 64 (0x6A20 * 2 ^ 16 + 2 ^ 8 + Config.stepping.toNat)
  | 0x008 => BitVec.ofNat 64 (s.dies.toNat * 2 ^ 16 + s.devState.toNat)
  | 0x010 => s.fwver
  | 0x018 => s.bar2
  | 0x020 => s.ctxt
  | 0x028 => s.tsb.setWidth 64
  | 0x038 => s.pwrLimit.setWidth 64
  | 0x040 => BitVec.ofNat 64 (s.throttle.toNat * 2 ^ 16 + s.pwrNow.toNat)
  | _ => 0

/-- Parked shards of a die on the resume list. -/
def State.resumeList (s : State) (d : Nat) : Nat := (s.parked.filter fun p => !p.2.debug && s.standIn (dieOf p.2.fromCore) == d).length

/-- A ready-pool register of a die (R295). -/
def State.poolReg (s : State) (d off : Nat) : Word :=
  match Map.look s.pools d with
  | none => 0
  | some p =>
    match off with
    | 0x000 => (p.stagedAge.getD p.age).setWidth 64
    | 0x008 => p.discard.setWidth 64
    | 0x010 => p.ctl.setWidth 64
    | 0x018 => BitVec.ofNat 64 (s.reserved d * 2 ^ 32 + s.freeEntries d)
    | 0x020 => BitVec.ofNat 64 (s.resumeList d % 2 ^ 16)
    | _ => 0

/-- A register of a Calendar port (R336). -/
def State.calReg (s : State) (k off : Nat) : Word :=
  match s.port? k with
  | none => 0
  | some p =>
    let quad (w : Word) : Word := if isQuadrant k then w else 0
    if off = 0x000 then BitVec.ofNat 64 (calCap k)
    else if off = 0x008 then BitVec.ofNat 64 ((if p.reject then 2 else 0) + if p.budgets.any fun b => b.2.staged.isSome then 1 else 0)
    else if off = 0x010 then p.periods + BitVec.ofNat 64 ((s.now - p.start) / 1500)
    else if off = 0x018 then p.ovr.setWidth 64
    else if off = 0x200 then quad (p.hmax.setWidth 64)
    else if off = 0x208 then quad (p.mitth.setWidth 64)
    else if off = 0x210 then quad (p.temps.setWidth 64)
    else if off = 0x218 then quad (p.rates.setWidth 64)
    else if 0x040 ≤ off ∧ off < 0x098 ∧ off % 8 = 0 then
      (Map.look p.budgets ((off - 0x040) / 8)).elim 0 fun b => (b.staged.getD (BitVec.ofNat 17 (b.cap.toNat + if b.borrow then 65536 else 0))).setWidth 64
    else if 0x0C0 ≤ off ∧ off < 0x118 ∧ off % 8 = 0 then
      (Map.look p.budgets ((off - 0x0C0) / 8)).elim 0 fun b => BitVec.ofNat 64 (b.borrowed.toNat * 65536 + b.used.toNat)
    else 0

/-- A register of a port's mailbox (R341). -/
def State.mailReg (s : State) (port off : Nat) : Word :=
  match Map.look s.mailboxes port with
  | none => 0
  | some m =>
    if off = 0 then m.cmd
    else if off = 8 then BitVec.ofNat 64 ((if m.busy then 2 ^ 63 else 0) + m.status.toNat)
    else if off % 8 = 0 then Map.lookD m.args ((off - 0x10) / 8) 0
    else 0

/-- Registers that are only written: DEV.BOOT and the doorbells; what a read of one gives is not stated (R340, R345; notes/assumptions/53.md). -/
def writeOnly (off : Nat) : Bool := off == 0x030 || (decide (0x100000 ≤ off) && decide (off < 0x120000) && off % 8 == 0)

/-- A read of 8 bytes of BAR 0 of a port (R339); reserved offsets read as zero (R5). -/
def State.bar0 (s : State) (port off : Nat) : Word :=
  if writeOnly off then Config.freeWord s.free
  else if off < 0x1000 then s.devReg off
  else if off < 0x1040 then s.mailReg port (off - 0x1000)
  else if 0x10000 ≤ off ∧ off < 0x18000 then s.poolReg ((off - 0x10000) / 0x1000) (off % 0x1000)
  else if 0x200000 ≤ off ∧ off < 0x400000 then BitVec.ofNat 64 (ofBytes (Memory.getN s.bootWin (off - 0x200000) (min 8 (0x400000 - off))))
  else 0

/-! ### Writes of registers -/

/-- DEV.STAT.STATE changes to 2 at the first write of DEV.BOOT in STATE 1; later ones are ignored (R352). -/
def State.writeBoot (s : State) (v : Word) : State := if s.devState = 1 then { s with bootLen := v.setWidth 32 }.toState 2 else s

/-- A write of a device register (R340). -/
def State.writeDev (s : State) (off : Nat) (v : Word) : State :=
  match off with
  | 0x030 => s.writeBoot v
  | 0x018 => { s with bar2 := v &&& 0xFFFFFFC0000000 }
  | 0x020 => { s with ctxt := v &&& 0xFFFFFFFFFF0000 }
  | 0x028 =>
    let t := v.setWidth 4
    if 1 ≤ t.toNat ∧ t.toNat ≤ 11 ∧ s.ctxs.isEmpty then { s with tsb := t } else s
  | 0x038 =>
    let w := v.setWidth 12
    if 1500 ≤ w.toNat ∧ w.toNat ≤ 3800 then { s with pwrLimit := w } else s
  | _ => s

/-- A mailbox that nothing has written. -/
def Mailbox.empty : Mailbox := { cmd := 0, busy := false, status := 0, args := [] }

/-- A command joins the queue: in order of arrival, port 0's before port 1's in one clk (R341). -/
def State.queueCommand (s : State) (port : Nat) : List (Nat × Nat) :=
  let (earlier, same) := s.commands.partition fun (q : Nat × Nat) => port != 0 || decide (q.2 < s.now)
  earlier ++ (port, s.now) :: same

/-- A write of a port's mailbox: a write of CMD sets BUSY and queues the command; one of CMD or ARGn while BUSY is set is discarded (R341). -/
def State.writeMail (s : State) (port off : Nat) (v : Word) : State :=
  let m := Map.lookD s.mailboxes port .empty
  if m.busy then s
  else if off = 0 then { s with mailboxes := Map.put s.mailboxes port { m with cmd := v, busy := true }, commands := s.queueCommand port }
  else if 0x10 ≤ off ∧ off % 8 = 0 then { s with mailboxes := Map.put s.mailboxes port { m with args := Map.put m.args ((off - 0x10) / 8) v } }
  else s

/-- A write of a ready-pool register (R295): a new SCHED.AGE takes effect at the next boundary. -/
def State.writePool (s : State) (d off : Nat) (v : Word) : State :=
  { s with pools := Map.upd s.pools d fun p =>
      match off with
      | 0x000 => if 1500 ≤ (v.setWidth 32).toNat then { p with stagedAge := some (v.setWidth 32) } else p
      | 0x008 => { p with discard := v.setWidth 32 }
      | 0x010 => { p with ctl := v.setWidth 2 }
      | _ => p }

/-- A write of a Calendar port's register: budgets are staged (R336). -/
def State.writeCal (s : State) (k off : Nat) (v : Word) : State :=
  s.updPort k fun p =>
    let h := v.setWidth 16
    let t := v.setWidth 12
    if 0x040 ≤ off ∧ off < 0x098 ∧ off % 8 = 0 then { p with budgets := Map.upd p.budgets ((off - 0x040) / 8) fun b => { b with staged := some (v.setWidth 17) } }
    else if off = 0x200 then (if isQuadrant k ∧ 1500 ≤ h.toNat ∧ h.toNat ≤ 48000 then { p with hmax := h } else p)
    else if off = 0x208 then (if isQuadrant k ∧ 64 ≤ t.toNat then { p with mitth := t } else p)
    else p

/-- A write of BAR 0 of a port; a reserved offset ignores it (R5, R339). The boot window is writable while STATE is 1. -/
def State.writeBar0 (s : State) (port off : Nat) (v : Word) (bs : List Byte) : State :=
  if off < 0x1000 then s.writeDev off v
  else if off < 0x1040 then s.writeMail port (off - 0x1000) v
  else if 0x10000 ≤ off ∧ off < 0x18000 then s.writePool ((off - 0x10000) / 0x1000) (off % 0x1000) v
  else if 0x100000 ≤ off ∧ off < 0x120000 ∧ off % 8 = 0 then s.doorbell ((off - 0x100000) / 0x200) (off % 0x200 / 8)
  else if 0x200000 ≤ off ∧ off < 0x400000 ∧ s.devState = 1 then
    { s with bootWin := Memory.setN s.bootWin (off - 0x200000) (bs.take (0x400000 - off)) }
  else s

/-- REGISTER_WRITE: `value` is written at offset `b` of BAR 0 of host port `a` (`idx` 0; `bytes` into the boot window), or of the block of Calendar port `a` (`idx` 1); with `flag` the 8 bytes there are read instead (R5). `idx` 2 resizes BAR 2 of host port `a` to 2^`b` bytes (R338); `idx` 3 reaches the ready-pool registers of die `a` over the sideband bus (R295). -/
def execRegisterWrite (s : State) : Out :=
  let off := s.args.b
  let answer (w : Word) : Out := .next { s with free := s.free + 1, reply := 0 :: toBytes 8 w.toNat }
  match s.args.idx with
  | 0 =>
    let p := s.args.a
    if 2 ≤ p ∨ (Map.look s.hostDown p).isSome ∨ 0x400000 ≤ off then .refused .notEnabled
    else if s.args.flag then answer (s.bar0 p off)
    else .next (s.writeBar0 p off s.args.value s.args.bytes)
  | 1 => if s.args.flag then answer (s.calReg s.args.a off) else .next (s.writeCal s.args.a off s.args.value)
  | 2 =>
    if 2 ≤ s.args.a ∨ off < 30 ∨ 36 < off then .refused .notEnabled else .next { s with barBits := Map.put s.barBits s.args.a off }
  | 3 => if s.args.flag then answer (s.poolReg s.args.a off) else .next (s.writePool s.args.a off s.args.value)
  | _ => .refused .notEnabled

/-! ### Boot (R352, R353) -/

/-- POWER_ON_RESET: the module is reset, and the management processor starts from ROM (R352); the hosts and what they hold are outside it. -/
def execPowerOnReset (s : State) : Out :=
  .next { State.reset with
    agenda := s.agenda, free := s.free, host0 := s.host0, host1 := s.host1, hostDown := s.hostDown, hostPassed := s.hostPassed, bilotDown := s.bilotDown
    shelves := s.shelves, ckpts := s.ckpts }

/-- Time passes; the processor that runs from ROM has checked the fuses and waits for firmware (R352 steps 1 and 2). -/
def State.pass (s : State) (k : Nat) : State :=
  let s := { s with now := s.now + k }
  if s.devState = 0 ∧ 0 < k then s.toState 1 else s

/-- DEV_BOOT: a write of DEV.BOOT; the first one in STATE 1 starts verification, and later ones are ignored (R352). -/
def execDevBoot (s : State) : Out :=
  if 2 ≤ s.args.a ∨ (Map.look s.hostDown s.args.a).isSome then .refused .notEnabled
  else .next (s.writeBoot s.args.value)

/-- The ASCII bytes ZHGAZFWI. -/
def bootMagic : List Byte := [0x5A, 0x48, 0x47, 0x41, 0x5A, 0x46, 0x57, 0x49]

/-- An image is accepted (R353). -/
def imageOk (bs : List Byte) (len : Nat) : Bool :=
  let key := slice bs 0x50 97
  let body := slice bs 512 (field bs 0x14 4)
  slice bs 0 8 == bootMagic && len == 512 + field bs 0x14 4
  && Config.sha384 key == Config.fusedKeyHash && Config.ecdsaVerify key (slice bs 0x100 96) (slice bs 0 256)
  && slice bs 0x20 48 == toBytes 48 (Config.sha384 body).toNat
  && decide (Config.fusedRollback.toNat ≤ field bs 0x10 4)

/-- BOOT_VERIFY_DONE: the image is accepted, and its version and hash are the running image's, or boot fails (R352, R353). -/
def execBootVerifyDone (s : State) : Out :=
  if s.devState ≠ 2 then .refused .notEnabled
  else
    let len := s.bootLen.toNat
    let bs := Memory.getN s.bootWin 0 (min len 0x200000)
    if len ≤ 0x200000 ∧ imageOk bs len then
      .next ({ s with fwver := BitVec.ofNat 64 (field bs 8 8), imageHash := Config.sha384 bs }.toState 3)
    else .next (s.toState 5)

/-- A register-space capacity found at boot, from entries of a core number and its capacity, two bytes each; 0 marks a core out of service (R13). -/
def capacityOf (bs : List Byte) (n : Nat) : Nat :=
  ((List.range (bs.length / 4)).find? fun k => field bs (4 * k) 2 == n).elim 2048 fun k => field bs (4 * k + 2) 2

/-- The control and data planes as they start (R10, R11, R295, R336, R352): the cores, arrays, Almanac shards and ports of the dies given are in service. -/
def State.startPlanes (s : State) (dies : BitVec 8) (caps : List Byte) : State :=
  let up (d : Nat) : Bool := dies.getLsbD d
  let s := { s with
    planes := true
    dies := dies
    cores := Map.each s.cores fun n _ =>
      { Core.idle with capacity := capacityOf caps n, inService := up (dieOf n) && capacityOf caps n != 0 }
    arrays := Map.each s.arrays fun k _ => { Array.initial k with inService := up (k / 32) }
    pools := Map.each s.pools fun _ p => { p with last := s.now }
    almanac := ((List.range 8).filter up).map fun d =>
      (d, { records := [], next := 0, mirrored := up (d ^^^ 4), rebuilding := [], missed := 0, beat := s.now, log := [], short := false, mirrorLost := [] }) }
  { s with remap := ((List.range 8).filter fun d => !up d).map fun d => (d, s.buddy d) }

/-- Capacities found at boot lie within R13. -/
def capsOk (bs : List Byte) : Bool := (List.range (bs.length / 4)).all fun k =>
  let v := field bs (4 * k + 2) 2
  v == 0 || (decide (1024 ≤ v) && decide (v ≤ 2048))

/-- BOOT_INIT_DONE: training and repair are done: the dies of `a` passed, with the capacities of `bytes`; the planes start, or, behind a restart of the management plane alone, go on (R352, R359). -/
def execBootInitDone (s : State) : Out :=
  if s.devState ≠ 3 then .refused .notEnabled
  else if s.planes then .next (s.toState 4)
  else if s.args.a = 0 ∨ 256 ≤ s.args.a ∨ ¬capsOk s.args.bytes then .refused .notEnabled
  else .next ((s.startPlanes (BitVec.ofNat 8 s.args.a) s.args.bytes).toState 4)

/-! ### Power and restarts (R357, R359) -/

/-- What a command cut short has set is undone: the planes go on, a context that was to park dispatches again, and a shard that was to park runs on (R359; notes/assumptions/57.md). -/
def State.cutShort (s : State) (m : Mailbox) : State :=
  if m.code = 0x0F then { s with frozen := false }
  else if m.code = 3 then match Map.look s.ctxs (m.arg 0) with
    | some x => if x.state = 2 then (s.updCtx (m.arg 0) fun x => { x with state := 1 }).writeEntry (m.arg 0) 1 x.owner else s
    | none => s
  else if m.code = 8 then
    { s with cores := Map.each s.cores fun _ (c : Core) => { c with shard := c.shard.map fun h => if h.halt = 3 then { h with halt := 0 } else h } }
  else s

/-- WATCHDOG_EXPIRY: only the management processor restarts, and waits for firmware; the command in progress completes with STATUS 6 (R359). -/
def execWatchdogExpiry (s : State) : Out :=
  if s.devState = 0 ∨ s.devState = 5 ∨ s.devState = 6 then .refused .notEnabled
  else
    let s := match s.commands with
      | (p, since) :: _ => if since < s.now then (s.cutShort (Map.lookD s.mailboxes p .empty)).finishCommand p 6 else s
      | [] => s
    .next (s.toState 1)

/-- Both planes are reset without saving (R357): what they hold is as after reset. -/
def State.resetPlanes (s : State) : State :=
  { s with
    planes := false, cores := coresAtReset, arrays := arraysAtReset, clusters := clustersAtReset, pools := poolsAtReset s.now,
    ports := Map.each portsAtReset fun _ p => { p with start := s.now }, strays := [], poisonedBy := [], barWaits := [],
    tasks := [], parked := [], ctxs := [], versions := [], almanac := [], remap := [], seals := [], replicas := [], fetches := [], groups := [],
    watched := [], regions := [], lostMarks := [], tbKnows := [], sealed_ := [], sealedBy := [], poison := [], retries := [], bus := [],
    sent := [], outstanding := [], frozen := false }

/-- POWER_CONTROL: the reading of the last 1 ms is `value` W, the coolant inlet `a` °C, the hottest junction `b` °C; the throttle level is `idx`, which is 15 above 45 °C or 100 °C. Above 110 °C both planes are reset (R357). -/
def execPowerControl (s : State) : Out :=
  let lvl := s.args.idx
  if 16 ≤ lvl ∨ ((45 < s.args.a ∨ 100 < s.args.b) ∧ lvl ≠ 15) ∨ s.devState = 0 ∨ s.devState = 5 ∨ s.devState = 6 then .refused .notEnabled
  else
    let s := { s with pwrNow := s.args.value.setWidth 12, throttle := BitVec.ofNat 4 lvl }
    if 110 < s.args.b then .next (((s.resetPlanes.reportAer 0 2).reportAer 1 2).toState 6) else .next s

end Sys2Proof.Machine
end

