-- ==== Sys2Proof/Machine/HostPeer.lean ====
section
/-! DEFINITION. What hosts and peer devices do to the module: accesses through BAR 2 (R33, R86), host links that go down (R413), messages of the Bilot link ports and their replies (R316, R348 to R351), and Bilot ports that go down (R414). -/

namespace Sys2Proof.Machine

/-! ### BAR 2 (R86) -/

/-- A host reaches device DRAM through BAR 2: its link is up, and the planes that serve it run (R352). -/
def State.barUp (s : State) (port : Nat) : Bool := decide (port < 2) && (Map.look s.hostDown port).isNone && s.planes

/-- The device physical address behind `n` bytes at an offset of a port's BAR 2, whose size is a power of two from 1 GiB to 64 GiB (R338); none outside cell memory, which completes with Unsupported Request. -/
def State.barAddr (s : State) (port off n : Nat) : Option Nat :=
  let pa := s.bar2.toNat + off
  if off + n ≤ 2 ^ Map.lookD s.barBits port 36 ∧ (s.cellAddr pa && s.cellAddr (pa + n - 1) && pa / 2 ^ 34 == (pa + n - 1) / 2 ^ 34) then some pa
  else none

/-- The lines of bytes at a device physical address: the first byte and the length of each part. -/
def barLines (pa n : Nat) : List (Nat × Nat) := (lineSegs (n / 64 + 2) (BitVec.ofNat 64 pa) n).map fun x => (x.1.toNat, x.2)

/-- An access from outside waits for the subarray group of a row it reaches (R324). -/
def State.barBlocked (s : State) (pa n : Nat) : Bool := (barLines pa n).any fun x => s.rowBlocked (.dram x.1)

/-- The column accesses and flits of an access from outside are charged to TASKDATA, with the activate of each row opened for it, which is counted (R322, R333, R334). -/
def State.chargeBar (s : State) (pa n : Nat) (opened : Bool) : State :=
  (barLines pa n).foldl (fun s x =>
    let q := x.1 / 2 ^ 34 % 32
    let s := if opened ∧ (x.1 = pa ∨ x.1 % 1024 = 0) then (s.charge q actTask 1).countActivation (rowPlace x.1) else s
    (s.charge q actTask 1).chargeHub (x.1 / 2 ^ 36 % 8) actTask 1) s

/-- The completion that a host receives (R86, R372). -/
def State.completes (s : State) (status : Byte) (bs : List Byte) : State := { s with reply := status :: bs }

/-- A host write to a sealed line is discarded, and a TYPE 6 record is posted for the context that owns the page (R86, R377). -/
def State.sealedWrite (s : State) (pa : Nat) : State :=
  match s.pageOwner pa with
  | none => s
  | some (ctx, va) =>
    (s.postFault ctx
      { typ := 6, cls := 0xFF, cause := 0, strm := 3, core := 0, shard := 0, taskId := 0, tval := BitVec.ofNat 64 va, pc := 0,
        addr := 0, index := 0 }).1

/-- Write bytes line by line; those of sealed lines are discarded. -/
def State.barWrite (s : State) (pa : Nat) (bs : List Byte) : State :=
  (barLines pa bs.length).foldl (fun s x =>
    if s.hitsSealed (.dram x.1) x.2 then s.sealedWrite x.1 else s.writeTarget (.dram x.1) (slice bs (x.1 - pa) x.2)) s

/-- An access of `n` bytes of a host through BAR 2 at an offset: Unsupported Request, or what it does at its place once it is served (R86, R324). One that must wait for a row is noted with the clk it came, for the other holders of the group (R331). The home die is reached over its hub link (R16). -/
def State.barAccess (s : State) (off n : Nat) (opened : Bool) (k : State → Nat → State) : Out :=
  match s.barAddr s.args.idx off n with
  | none => .next (s.completes 1 [])
  | some pa =>
    if ¬s.hubOk (pa / 2 ^ 36 % 8) then .refused .notEnabled
    else if s.barBlocked pa n then
      (if (Map.look s.barWaits pa).isSome then .refused .notEnabled else .next { s with barWaits := Map.put s.barWaits pa s.now })
    else .next (k ({ s with barWaits := Map.del s.barWaits pa }.chargeBar pa n opened) pa)

/-- HOST_BAR2_READ: port `idx` reads `b` bytes at offset `a` of BAR 2: the data, with the EP bit where it is poisoned (R86, R372, R412); with `flag` a row was opened for it. -/
def execHostBar2Read (s : State) : Out :=
  let n := s.args.b
  if ¬s.barUp s.args.idx ∨ n = 0 ∨ 4096 < n then .refused .notEnabled
  else s.barAccess s.args.a n s.args.flag fun s pa => s.completes (if s.poisoned (.dram pa) n then 2 else 0) (s.readTarget (.dram pa) n)

/-- At the set-up of a context, before it has a task, the host on the port that owns it writes a version into the tile store: it is sealed with ROOT alone, no inputs and depth 0 (R275; the way the bytes take is not stated, notes/assumptions/54.md). -/
def State.writeRoot (s : State) (port ctx : Nat) (ref : Ref) (img : List Byte) : Option State :=
  if ¬((Map.look s.ctxs ctx).any fun c => c.state == 1 && c.owner == port) ∨ (s.tasks.any fun t => t.2.ctx == ctx) then none
  else match s.tensor ctx ref.handle with
    | .ok t =>
      let home := s.standIn (t.homeOf ref)
      let v : Version :=
        { blankVersion ctx none none t ref with
          image := t.withEdges ref (img.take t.imageSize), twin := if t.twin then some (t.twinEdges ref (img.drop t.imageSize)) else none }
      if ref.latest ∨ ref.twin ∨ ¬s.hubOk home ∨ t.badRef ref ∨ img.length ≠ (if t.twin then 2 else 1) * t.imageSize ∨ (s.findVersion ctx ref).isSome
          ∨ s.tileStoreFull home v.pieces then none
      else ((Map.look s.almanac home).bind Almanac.freeIndex).map fun i =>
        let s' := { s with versions := Map.put s.versions s.uid v, uid := s.uid + 1 }
        (s'.sealVersion s.uid v home i none 0 true false false none []).chargeVersion s.uid v actTask
    | _ => none

/-- HOST_BAR2_WRITE: port `idx` writes `bytes` at offset `a` of BAR 2; sealed lines keep their bytes (R86); with `b` 1 a row was opened for it. With `flag` it writes a version, which `hdr` names, into the tile store at the set-up of context `a` (R275). -/
def execHostBar2Write (s : State) : Out :=
  let bs := s.args.bytes
  if ¬s.barUp s.args.idx ∨ bs.length = 0 then .refused .notEnabled
  else if s.args.flag then
    match s.writeRoot s.args.idx s.args.a (Ref.of (s.args.hdr.setWidth 128)) bs with
    | some s => .next (s.completes 0 [])
    | none => .refused .notEnabled
  else if 512 < bs.length then .refused .notEnabled
  else s.barAccess s.args.a bs.length (s.args.b == 1) fun s pa => (s.barWrite pa bs).completes 0 []

/-- The value an AtomicOp leaves: 0 FetchAdd, 1 Swap, 2 CAS, with an operand, or a compare and a swap value. -/
def atomicOp (op n old x y : Nat) : Nat :=
  let m := 2 ^ (8 * n)
  if op = 0 then (old + x) % m else if op = 1 then x % m else if old = x % m then y % m else old

/-- HOST_BAR2_ATOMIC: port `idx` performs AtomicOp `code` (0 FetchAdd, 1 Swap, 2 CAS) of `b` bytes at offset `a` with `value` and, for CAS, `value2` (R33, R338); the old value returns. Poisoned data fails as a read and nothing is written (R373); a sealed line keeps its bytes (R86). -/
def execHostBar2Atomic (s : State) : Out :=
  let n := s.args.b
  if ¬s.barUp s.args.idx ∨ ¬(n = 4 ∨ n = 8) ∨ 2 < s.args.code.toNat then .refused .notEnabled
  else if s.args.a % n ≠ 0 then .next (s.completes 1 [])
  else s.barAccess s.args.a n s.args.flag fun s pa =>
    let old := s.readTarget (.dram pa) n
    if s.poisoned (.dram pa) n then s.completes 2 old
    else
      let new := toBytes n (atomicOp s.args.code.toNat n (ofBytes old) s.args.value.toNat s.args.value2.toNat)
      (s.barWrite pa new).completes 0 old

/-! ### Host links (R413) -/

/-- HOST_LINK_DOWN: the PCIe link of port `idx` goes down and the 100 ms timer starts; with `flag` it comes up again (R413). -/
def execHostLinkDown (s : State) : Out :=
  let p := s.args.idx
  if 2 ≤ p ∨ (Map.look s.hostDown p).isSome ≠ s.args.flag then .refused .notEnabled
  else if s.args.flag then .next { s with hostDown := Map.del s.hostDown p, hostPassed := removeNat s.hostPassed p }
  else .next { s with hostDown := Map.put s.hostDown p s.now }

/-- HOST_LINK_DOWN_TIMEOUT: the link of port `idx` has been down for 100 ms: its contexts pass to the other port, their entries are rewritten, and vector 0 of that port is raised (R413). -/
def execHostLinkDownTimeout (s : State) : Out :=
  let p := s.args.idx
  match Map.look s.hostDown p with
  | none => .refused .notEnabled
  | some t =>
    if 2 ≤ p ∨ s.now < t + 150000000 ∨ s.hostPassed.contains p then .refused .notEnabled
    else
      let mine := (s.ctxs.filter fun c => c.2.owner == p).map fun c => (c.1, c.2.state)
      let s := mine.foldl (fun s c => (s.updCtx c.1 fun x => { x with owner := 1 - p }).writeEntry c.1 c.2 (1 - p)) s
      .next ({ s with hostPassed := insertNat s.hostPassed p }.raise0 (1 - p))

/-! ### Incoming messages (R348 to R351) -/

/-- Fields of a header (R349). -/
structure Head where
  typ : Nat
  ops : Nat
  ctx : Nat
  src : Nat
  tag : BitVec 32
  len : Nat
  addr : Nat
  arg : Nat
  /-- A reserved byte is not zero. -/
  rest : Bool

/-- Read a header. -/
def Head.of (h : BitVec 256) : Head :=
  let n := h.toNat
  { typ := bits n 0 8, ops := bits n 8 8, ctx := bits n 16 8, src := bits n 32 16, tag := BitVec.ofNat 32 (bits n 64 32),
    len := bits n 96 32, addr := bits n 128 64, arg := bits n 192 64, rest := bits n 24 8 != 0 || bits n 48 16 != 0 }

/-- Bytes of the operand of an ATOMIC message. -/
def Head.opSize (h : Head) : Nat := if bitAt h.ops 2 then 8 else 4

/-- TYPE, OPS, LEN, ADDR and ARG fit together (R349); the length of an image is judged with its tensor. -/
def Head.fits (h : Head) : Bool :=
  !h.rest && decide (h.len ≤ 2 ^ 24)
  && (if h.typ = 3 then decide (h.ops < 8) && h.ops % 4 != 3 else h.ops == 0)
  && (match h.typ with
      | 1 => decide (1 ≤ h.len) && decide (h.len ≤ 256) && h.arg == 0
      | 2 => h.len == 0 && decide (1 ≤ h.arg) && decide (h.arg ≤ 256)
      | 3 => h.len == (if h.ops % 4 = 2 then 2 else 1) * h.opSize && h.addr % h.opSize == 0 && h.arg == 0
      | 4 => h.len == 64 && decide (h.addr < 64) && h.arg == 0
      | 5 => bits h.addr 18 14 == 0 && h.arg == 0
      | 6 => bits h.addr 12 20 == 0
      | 7 => decide (16 ≤ h.len) && h.addr == 0 && h.arg == 0
      | _ => false)

/-- The bytes of DRAM that a message names: address and length. -/
def Head.range (h : Head) : Nat × Nat :=
  match h.typ with
  | 1 => (h.addr, h.len)
  | 2 => (h.addr, h.arg)
  | 3 => (h.addr, h.opSize)
  | _ => (0, 0)

/-- The permission bit a message needs (R350). -/
def Head.perm (h : Head) : Nat := if h.typ = 2 then 0 else if h.typ = 1 ∨ h.typ = 3 then 1 else if h.typ = 4 then 2 else if h.typ = 7 then 4 else 3

/-- The permissions of the entries of a port's access table that match a message (R350). -/
def State.peerPerms (s : State) (port : Nat) (h : Head) : List Nat :=
  let table := Map.lookD s.peerTable port []
  ((List.range 64).map fun k => slice table (32 * k) 32).filterMap fun e =>
    let inside := decide (field e 8 8 ≤ h.addr) && decide (h.range.1 + h.range.2 ≤ field e 8 8 + field e 16 8)
    if e.length == 32 && field e 0 2 == h.src && field e 2 1 == h.ctx && (decide (3 < h.typ) || inside) then some (field e 3 1) else none

/-- Why a message is refused before it is served: 5 malformed, 0 no matching entry, 1 permission (R349, R350). -/
def State.refusal (s : State) (port : Nat) (h : Head) : Option Nat :=
  let ps := s.peerPerms port h
  if !h.fits then some 5 else if ps.isEmpty then some 0 else if ps.all (fun p => !bitAt p h.perm) then some 1 else none

/-- Answer a message. -/
def State.answerMsg (s : State) (port typ : Nat) (h : Head) (arg : Nat) (bs : List Byte) : State := s.sendMsg port typ 0 h.tag 0 arg bs

/-- Serve the message that arrives on port `idx`, with header `hdr` and payload `bytes`, if it is of a type; a message of a reserved TYPE is answered with the STOREs. -/
def serve (s : State) (typ : Nat) (k : Nat → Head → List Byte → Out) : Out :=
  let p := s.args.idx
  let h := Head.of s.args.hdr
  let mine := h.typ == typ || (typ == 1 && !(decide (1 ≤ h.typ) && decide (h.typ ≤ 7)) && !(decide (0x81 ≤ h.typ) && decide (h.typ ≤ 0x84)))
  if 8 ≤ p ∨ s.bilotDown.contains p ∨ ¬mine ∨ s.args.bytes.length ≠ h.len ∨ ¬s.planes then .refused .notEnabled
  else match s.refusal p h with
    | some r => .next (s.answerMsg p 0x82 h r [])
    | none => k p h s.args.bytes

/-- Serve a message that names bytes of DRAM: a sealed line or the tile store gives NAK 2, an address that does not exist NAK 0 (R350). Poisoned data gives a NAK whose reason is not stated (R372). It waits for the subarray groups of its rows (R324), and reaches their die over its hub link (R16). -/
def serveAt (s : State) (typ : Nat) (reads : Bool) (k : Nat → Head → Nat → List Byte → Out) : Out :=
  serve s typ fun p h bs =>
    let (a, n) := h.range
    if 2 ^ 39 < a + n then .next (s.answerMsg p 0x82 h 0 [])
    else if ¬s.cellAddr a ∨ ¬s.cellAddr (a + n - 1) ∨ a / 2 ^ 34 ≠ (a + n - 1) / 2 ^ 34 ∨ s.hitsSealed (.dram a) n then .next (s.answerMsg p 0x82 h 2 [])
    else if reads ∧ s.poisoned (.dram a) n then .next ({ s with free := s.free + 1 }.answerMsg p 0x82 h (Config.freeWord s.free).toNat [])
    else if ¬s.hubOk (a / 2 ^ 36 % 8) ∨ s.barBlocked a n then .refused .notEnabled
    else k p h a bs

/-- BILOT_STORE: an incoming STORE is performed at the memory-side cache and acknowledged (R348, R351). -/
def execBilotStore (s : State) : Out :=
  serveAt s 1 false fun p h a bs => .next (((s.chargeBar a bs.length s.args.flag).writeTarget (.dram a) bs).answerMsg p 0x81 h 0 [])

/-- BILOT_LOAD: an incoming LOAD is answered with its bytes. -/
def execBilotLoad (s : State) : Out :=
  serveAt s 2 true fun p h a _ => .next ((s.chargeBar a h.arg s.args.flag).answerMsg p 0x83 h 0 (s.readTarget (.dram a) h.arg))

/-- BILOT_ATOMIC: an incoming AMADD, AMSWAP or CAS is performed and answered with the old value. -/
def execBilotAtomic (s : State) : Out :=
  serveAt s 3 true fun p h a bs =>
    let n := h.opSize
    let old := s.readTarget (.dram a) n
    let new := atomicOp (h.ops % 4) n (ofBytes old) (ofBytes (slice bs 0 n)) (ofBytes (slice bs n n))
    .next (((s.chargeBar a n s.args.flag).writeTarget (.dram a) (toBytes n new)).answerMsg p 0x83 h 0 old)

/-- The hub link of the die that holds a generic address of a context is up (R16). -/
def State.hubReaches (s : State) (ctx va : Nat) : Bool :=
  match s.translateFor ctx va .write with
  | .ok (.dram a) => s.hubOk (a / 2 ^ 36 % 8)
  | _ => true

/-- BILOT_QAPPEND: a packet is appended to a queue of the bound context as R33 gives, once its slot is free, and the doorbell rings; memory that cannot be written, or is sealed, gives a NAK. -/
def execBilotQappend (s : State) : Out :=
  serve s 4 fun p h bs =>
    match ((Map.look s.ctxs h.ctx).filter fun c => c.state == 1).bind fun c => (Map.look c.queues h.addr).filter fun q => q.e != 0 with
    | none => .next (s.answerMsg p 0x82 h 0 [])
    | some q =>
      match s.readRange h.ctx q.widx 8, s.readRange h.ctx q.ridx 8 with
      | some w, some r =>
        let i := ofBytes w
        if ofBytes r + 2 ^ q.e ≤ i ∨ ¬([q.widx, q.ring + 64 * (i % 2 ^ q.e)].all (s.hubReaches h.ctx)) then .refused .notEnabled
        else match s.writeRange h.ctx q.widx (toBytes 8 (i + 1)) with
          | none => .next (s.answerMsg p 0x82 h 2 [])
          | some s' => match s'.writeRange h.ctx (q.ring + 64 * (i % 2 ^ q.e)) bs with
            | none => .next (s.answerMsg p 0x82 h 2 [])
            | some s' => .next ((s'.doorbell h.ctx h.addr).answerMsg p 0x81 h 0 [])
      | _, _ => .next (s.answerMsg p 0x82 h 0 [])

/-- BILOT_HCONTRIB: a contribution of a member whose PEERS bit is set goes to Harvest control, and the member is bound from the port (R316); a group that is not installed gives status 5, another member a NAK. -/
def execBilotHcontrib (s : State) : Out :=
  serve s 5 fun p h bs =>
    let k := bits h.addr 0 12
    let m := bits h.addr 12 6
    match s.groupOf? h.ctx k with
    | none => .next (s.answerMsg p 0x84 h (harvestWord 5 0).toNat [])
    | some g =>
      if g.n ≤ m ∨ ¬bitAt g.peers m then .next (s.answerMsg p 0x82 h 1 [])
      else if ¬s.hubOk g.die then .refused .notEnabled
      else if s.payloadSize g ≠ some h.len then .next (s.answerMsg p 0x82 h 5 [])
      else
        let x := { g.member m with port := some p }
        let g := g.setMember m (if s.det g.ctx then x else { x with present := true, leaveAt := none })
        let y : Contribution :=
          { member := m, tag := BitVec.ofNat 32 (bits h.addr 32 32), taskId := Config.peerTask p, shard := 0, payload := bs, core := none,
            peer := some (p, h.tag), uid := 0, knows := [] }
        .next (s.setGroup k { g with inflight := g.inflight ++ [y] })

/-- BILOT_HRESULT: the result of a round arrives at its proxy group and is sealed as version = round, with the received roster and no contribution inputs (R316); one that cannot be sealed fails the round (R310), and one of a round already sealed is refused and changes nothing. -/
def execBilotHresult (s : State) : Out :=
  serve s 6 fun p h bs =>
    let k := bits h.addr 0 12
    let r := bits h.addr 32 32
    match (s.groupOf? h.ctx k).filter fun g => g.proxy && g.outPort == p with
    | none => .next (s.answerMsg p 0x82 h 0 [])
    | some g =>
      match s.tensor g.ctx (g.resultRef r).handle with
      | .ok t =>
        if bs.length ≠ t.imageSize then .next (s.answerMsg p 0x82 h 5 [])
        else
          let round := BitVec.ofNat 32 r
          let home := s.standIn (t.homeOf (g.resultRef r))
          let known := s.findVersion g.ctx (g.resultRef r)
          let room := !s.tileStoreFull home (ceilDiv t.imageSize 1024) && !s.tileStoreFull (s.buddy home) (ceilDiv t.imageSize 1024)
          if ¬s.hubOk g.die then .refused .notEnabled
          else if (g.round round).state = .sealed_ then .next (s.answerMsg p 0x82 h 2 [])
          else if (known.any fun e => e.2.sealed_) ∨ ¬room then .next ((s.failRound k g r).answerMsg p 0x82 h 2 [])
          else match (Map.look s.almanac home).bind Almanac.freeIndex with
            | none => .refused .notEnabled
            | some i =>
              let (s', key) := s.placeResult g t round bs []
              match Map.look s'.versions key with
              | none => .refused .notEnabled
              | some v =>
                let s' := s'.sealVersion key v home i none 0 false false true (some (k, r, BitVec.ofNat 64 h.arg, [])) []
                let g := g.setRound round { g.round round with state := .sealed_, roster := BitVec.ofNat 64 h.arg }
                let g := { g with open_ := g.later g.open_ (round + 1) }
                .next ((((s'.setGroup k g).latchGroup g).chargeVersion key v actHarvest).answerMsg p 0x81 h 0 [])
      | _ => .next (s.answerMsg p 0x82 h 5 [])

/-- BILOT_TREPL: a tile version arrives and is sealed as a replica: its reference, its image, and the twin's image for a PSTORE pair (R348, R349). -/
def execBilotTrepl (s : State) : Out :=
  serve s 7 fun p h bs =>
    let ref := Ref.of (BitVec.ofNat 128 (field bs 0 16))
    match s.tensor h.ctx ref.handle with
    | .ok t =>
      let img := bs.drop 16
      let want := if t.twin then 2 * t.imageSize else t.imageSize
      if ref.latest ∨ ref.twin ∨ t.badRef ref ∨ img.length ≠ want then .next (s.answerMsg p 0x82 h 5 [])
      else
        let home := s.standIn (t.homeOf ref)
        let v : Version :=
          { blankVersion h.ctx none none t ref with
            image := t.withEdges ref (img.take t.imageSize), twin := if t.twin then some (t.twinEdges ref (img.drop t.imageSize)) else none }
        if ¬s.hubOk home then .refused .notEnabled
        else if (s.findVersion h.ctx ref).isSome ∨ s.tileStoreFull home v.pieces ∨ s.tileStoreFull (s.buddy home) v.pieces then .next (s.answerMsg p 0x82 h 2 [])
        else match (Map.look s.almanac home).bind Almanac.freeIndex with
          | none => .refused .notEnabled
          | some i =>
            let s' := { s with versions := Map.put s.versions s.uid v, uid := s.uid + 1 }
            .next ((s'.sealVersion s.uid v home i none 0 false false true none []).answerMsg p 0x81 h 0 [])
    | _ => .next (s.answerMsg p 0x82 h 5 [])

/-! ### Replies (R349, R350, R414) -/

/-- What a reply brings to the sender: an acknowledgement or data, a result word, or a NAK. -/
inductive Reply where
  | data (bs : List Byte)
  | word (w : Word)
  | nak

/-- Bytes of data that a message of a core waits for, if it is still in flight: 0 for a store. -/
def State.replyBytes (s : State) (x : Pending) : Option Nat :=
  match s.core? x.core with
  | none => none
  | some c =>
    if x.engine then (c.xqueue.flatMap fun q => q.msgs).findSome? fun m => if m.tag = x.tag then some (if m.write then 0 else m.len) else none
    else (c.strm x.strm).flight.findSome? fun f => match f.target with
      | .peer p _ => if p = x.port ∧ f.tag = x.tag then some (if f.kind = .store then 0 else f.size) else none
      | _ => none

/-- The reply to a message of an X-command (R260, R350). -/
def XCmd.replied (q : XCmd) (tag : BitVec 32) (r : Reply) : XCmd :=
  { q with msgs := q.msgs.map fun m =>
      if m.tag ≠ tag then m
      else match r with
        | .data bs => { m with data := some bs }
        | _ => { m with failed := true } }

/-- The reply to an access of a stream (R85, R350): a store is acknowledged, and one refused leaves a TYPE 4 record; the value of a load or atomic goes to its register or its beat, or the access has failed. A synchronising access closes its region (R105). -/
def State.replyAccess (s : State) (n : Nat) (sh : Shard) (σ : Strm) (idx : Nat) (f : Access) (r : Reply) : State :=
  let s := s.chargeAccess n f false
  let s := if f.ord = 0 then s else s.closeRegion f.region
  match r with
  | .data bs =>
    if f.kind = .store then (s.land n σ idx).afterStore n σ f
    else if σ = .a then s.arriveA n idx { f with value := some 0, data := BitVec.ofNat 512 (ofBytes bs) }
    else (s.land n σ idx).returned n f (extend f.signed f.size (ofBytes bs)) []
  | _ =>
    if f.kind = .store then
      ((s.postFault sh.ctx
        { typ := 4, cls := 0xFF, cause := 0, strm := strmNum σ, core := n, shard := sh.num, taskId := sh.taskId, tval := f.va,
          pc := f.pc, addr := f.va, index := 0 }).1.land n σ idx).afterStore n σ f
    else s.updCore n fun c => c.updStrm σ fun t => { t with flight := t.flight.set idx { f with failed := true } }

/-- The result word of a forwarded contribution arrives, or its message has failed: status 8 (R316, R372). -/
def State.replyContribution (s : State) (x : Pending) (r : Reply) : State :=
  match s.groups.findSome? fun g => (g.2.inflight.findIdx? fun y => y.peer == some (x.port, x.tag) && y.core.isSome).map fun i => (g.1, g.2, i) with
  | none => s
  | some (k, g, i) => match g.inflight[i]? with
    | none => s
    | some y =>
      let w := match r with
        | .word w => w
        | _ => harvestWord 8 y.tag
      (s.takeContribution k i).deliverWord y w

/-- A message has been answered. -/
def State.answered (s : State) (x : Pending) (r : Reply) : State :=
  let s := { s with outstanding := s.outstanding.filter fun y => y ≠ x }
  if x.typ = 5 then s.replyContribution x r
  else if x.typ = 6 then s
  else if x.engine then s.updCore x.core fun c => { c with xqueue := c.xqueue.map fun q => q.replied x.tag r }
  else match s.core? x.core with
    | none => s
    | some c =>
      match c.shard, (c.strm x.strm).flight.findIdx? fun f => f.tag == x.tag && (match f.target with | .peer p _ => p == x.port | _ => false) with
      | some sh, some i => match (c.strm x.strm).flight[i]? with
        | some f => s.replyAccess x.core sh x.strm i f r
        | none => s
      | _, _ => s

/-- The reply that a header and payload carry for a message, if they fit it (R348, R349). -/
def State.replyFor (s : State) (x : Pending) (h : Head) (bs : List Byte) : Option Reply :=
  if h.typ = 0x82 then some .nak
  else if x.typ = 5 then (if h.typ = 0x84 then some (.word (BitVec.ofNat 64 h.arg)) else none)
  else if x.typ = 2 ∨ x.typ = 3 then (if h.typ = 0x83 ∧ (s.replyBytes x).all (· == bs.length) then some (.data bs) else none)
  else if h.typ = 0x81 then some (.data []) else none

/-- The die that a message came from: that of its core, or of the group whose result it is. -/
def State.senderDie (s : State) (x : Pending) : Nat :=
  if x.typ = 5 then
    ((s.groups.find? fun g => g.2.inflight.any fun y => y.peer == some (x.port, x.tag) && y.core.isSome).map fun g => g.2.die).getD (dieOf x.core)
  else dieOf x.core

/-- BILOT_REPLY: an ACK, NAK, DATA or RWORD arrives on port `idx` for the message that its TAG names (R349, R350); it enters a die over its hub link (R16). -/
def execBilotReply (s : State) : Out :=
  let p := s.args.idx
  let h := Head.of s.args.hdr
  if s.bilotDown.contains p ∨ s.args.bytes.length ≠ h.len then .refused .notEnabled
  else match s.outstanding.find? fun x => x.port == p && x.tag == h.tag with
    | none => .refused .notEnabled
    | some x => match s.replyFor x h s.args.bytes with
      | none => .refused .notEnabled
      | some r => if s.hubOk (s.senderDie x) then .next (s.answered x r) else .refused .notEnabled

/-- BILOT_REPLY_TIMEOUT: message `idx` of those not yet answered has had no reply for 10 ms, or went out on a port that is down, and completes as a NAK (R414). -/
def execBilotReplyTimeout (s : State) : Out :=
  match s.outstanding[s.args.idx]? with
  | none => .refused .notEnabled
  | some x =>
    if s.now < x.since + 15000000 ∧ ¬s.bilotDown.contains x.port then .refused .notEnabled
    else .next (s.answered x .nak)

/-- BILOT_PORT_DOWN: port `idx` goes down: a lasting error of class 7, in which a replay still under way on the port has ended (R371), a NAK for every message not yet answered, and the peer members reached through it are lost (R414). -/
def execBilotPortDown (s : State) : Out :=
  let p := s.args.idx
  if 8 ≤ p ∨ s.bilotDown.contains p then .refused .notEnabled
  else
    let s := { s with bilotDown := insertNat s.bilotDown p, retries := s.retries.filter fun r => ¬(r.cls.toNat = 7 ∧ r.unit.toNat = 8 ∧ r.inst.toNat = p) }
    let s := (s.countError 8 8 p 7 2).postError 2 7 8 8 p 0xFF 0 0
    let s := (s.outstanding.filter fun x => x.port == p).foldl (fun s x => s.answered x .nak) s
    .next (s.loseMembers fun m => m.port == some p)

end Sys2Proof.Machine
end

