-- ==== Sys2Proof/Machine/Scalar.lean ====
section
/-! DEFINITION. The C-stream's register–register and immediate ALU, constants and selection (R153 to R157). -/

namespace Sys2Proof.Machine

/-- sh of R154: B[5:0]. -/
def shAmt (B : Word) : Nat := B.toNat % 64

/-- Bits [127:64] of an exact product (R154). -/
def mulHigh (a b : Int) : Word := BitVec.ofInt 64 (a * b / 2 ^ 64)

/-- DIV: a divisor of zero gives all ones; the most negative value by −1 gives itself (R115, R154). -/
def divSigned (A B : Word) : Word := if B = 0 then BitVec.allOnes 64 else A.sdiv B

/-- REM: a divisor of zero gives A; the most negative value by −1 gives 0 (R115, R154). -/
def remSigned (A B : Word) : Word := if B = 0 then A else A.srem B

/-- DIVU (R115, R154). -/
def divUnsigned (A B : Word) : Word := if B = 0 then BitVec.allOnes 64 else A / B

/-- REMU (R115, R154). -/
def remUnsigned (A B : Word) : Word := if B = 0 then A else A % B

/-- The eight bytes of a word in reverse order (R154). -/
def byteSwap (A : Word) : Word := BitVec.ofNat 64 (ofBytes (toBytes 8 A.toNat).reverse)

/-- An operation of two scalar registers into a third (R153, R154). -/
def alu2 (rd ra rb : BitVec 6) (s : State) (f : Word → Word → Word) : Out :=
  runSpec s fun c _ => c.ready s [rd, ra, rb] (.done (s.put (c.setSreg rd (f (c.sreg ra) (c.sreg rb)))))

/-- An operation of one scalar register into another (R153, R154). -/
def alu1 (rd ra : BitVec 6) (s : State) (f : Word → Word) : Out :=
  runSpec s fun c _ => c.ready s [rd, ra] (.done (s.put (c.setSreg rd (f (c.sreg ra)))))

/-- An operation of a scalar register and I := sext(imm22, 22) (R155). -/
def aluImm (rd ra : BitVec 6) (imm : BitVec 22) (s : State) (f : Word → Word → Word) : Out :=
  alu1 rd ra s fun A => f A (imm.signExtend 64)

/-- ADD: rd := (A + B) mod 2^64 (R154). -/
def execAdd (rd ra rb : BitVec 6) (s : State) : Out := alu2 rd ra rb s fun A B => A + B

/-- SUB: rd := (A − B) mod 2^64 (R154). -/
def execSub (rd ra rb : BitVec 6) (s : State) : Out := alu2 rd ra rb s fun A B => A - B

/-- AND: rd := A AND B (R154). -/
def execAnd (rd ra rb : BitVec 6) (s : State) : Out := alu2 rd ra rb s fun A B => A &&& B

/-- OR: rd := A OR B (R154). -/
def execOr (rd ra rb : BitVec 6) (s : State) : Out := alu2 rd ra rb s fun A B => A ||| B

/-- XOR: rd := A XOR B (R154). -/
def execXor (rd ra rb : BitVec 6) (s : State) : Out := alu2 rd ra rb s fun A B => A ^^^ B

/-- ANDN: rd := A AND NOT B (R154). -/
def execAndn (rd ra rb : BitVec 6) (s : State) : Out := alu2 rd ra rb s fun A B => A &&& ~~~B

/-- SHL: rd := A shifted left by B[5:0] (R154). -/
def execShl (rd ra rb : BitVec 6) (s : State) : Out := alu2 rd ra rb s fun A B => A <<< shAmt B

/-- SHR: rd := A shifted right by B[5:0], zeros entering (R154). -/
def execShr (rd ra rb : BitVec 6) (s : State) : Out := alu2 rd ra rb s fun A B => A >>> shAmt B

/-- SRA: rd := A shifted right by B[5:0], copies of A[63] entering (R154). -/
def execSra (rd ra rb : BitVec 6) (s : State) : Out := alu2 rd ra rb s fun A B => A.sshiftRight (shAmt B)

/-- ROL: rd := A rotated left by B[5:0] (R154). -/
def execRol (rd ra rb : BitVec 6) (s : State) : Out := alu2 rd ra rb s fun A B => A.rotateLeft (shAmt B)

/-- ROR: rd := A rotated right by B[5:0] (R154). -/
def execRor (rd ra rb : BitVec 6) (s : State) : Out := alu2 rd ra rb s fun A B => A.rotateRight (shAmt B)

/-- MIN: rd := the smaller, signed (R154). -/
def execMin (rd ra rb : BitVec 6) (s : State) : Out := alu2 rd ra rb s fun A B => if A.slt B then A else B

/-- MAX: rd := the larger, signed (R154). -/
def execMax (rd ra rb : BitVec 6) (s : State) : Out := alu2 rd ra rb s fun A B => if A.slt B then B else A

/-- MINU: rd := the smaller, unsigned (R154). -/
def execMinu (rd ra rb : BitVec 6) (s : State) : Out := alu2 rd ra rb s fun A B => if A.ult B then A else B

/-- MAXU: rd := the larger, unsigned (R154). -/
def execMaxu (rd ra rb : BitVec 6) (s : State) : Out := alu2 rd ra rb s fun A B => if A.ult B then B else A

/-- SEQ: rd := 1 if A = B, else 0 (R154). -/
def execSeq (rd ra rb : BitVec 6) (s : State) : Out := alu2 rd ra rb s fun A B => flagWord (A == B)

/-- SNE: rd := 1 if A ≠ B, else 0 (R154). -/
def execSne (rd ra rb : BitVec 6) (s : State) : Out := alu2 rd ra rb s fun A B => flagWord (A != B)

/-- SLT: rd := 1 if A < B as signed, else 0 (R154). -/
def execSlt (rd ra rb : BitVec 6) (s : State) : Out := alu2 rd ra rb s fun A B => flagWord (A.slt B)

/-- SLTU: rd := 1 if A < B as unsigned, else 0 (R154). -/
def execSltu (rd ra rb : BitVec 6) (s : State) : Out := alu2 rd ra rb s fun A B => flagWord (A.ult B)

/-- MUL: rd := (A × B) mod 2^64 (R154). -/
def execMul (rd ra rb : BitVec 6) (s : State) : Out := alu2 rd ra rb s fun A B => A * B

/-- MULH: rd := bits [127:64] of the exact signed product (R154). -/
def execMulh (rd ra rb : BitVec 6) (s : State) : Out := alu2 rd ra rb s fun A B => mulHigh A.toInt B.toInt

/-- MULHU: rd := bits [127:64] of the exact unsigned product (R154). -/
def execMulhu (rd ra rb : BitVec 6) (s : State) : Out := alu2 rd ra rb s fun A B => mulHigh A.toNat B.toNat

/-- DIV: rd := signed quotient truncated toward zero (R115) (R154). -/
def execDiv (rd ra rb : BitVec 6) (s : State) : Out := alu2 rd ra rb s fun A B => divSigned A B

/-- DIVU: rd := unsigned quotient (R115) (R154). -/
def execDivu (rd ra rb : BitVec 6) (s : State) : Out := alu2 rd ra rb s fun A B => divUnsigned A B

/-- REM: rd := remainder with the sign of A (R115) (R154). -/
def execRem (rd ra rb : BitVec 6) (s : State) : Out := alu2 rd ra rb s fun A B => remSigned A B

/-- REMU: rd := unsigned remainder (R115) (R154). -/
def execRemu (rd ra rb : BitVec 6) (s : State) : Out := alu2 rd ra rb s fun A B => remUnsigned A B

/-- CLZ: rd := number of leading zero bits of A (R154). -/
def execClz (rd ra : BitVec 6) (s : State) : Out := alu1 rd ra s fun A => BitVec.ofNat 64 (clzBits A.toNat 64)

/-- CTZ: rd := number of trailing zero bits of A (R154). -/
def execCtz (rd ra : BitVec 6) (s : State) : Out := alu1 rd ra s fun A => BitVec.ofNat 64 (ctzBits A.toNat 64)

/-- POPC: rd := number of one bits of A (R154). -/
def execPopc (rd ra : BitVec 6) (s : State) : Out := alu1 rd ra s fun A => BitVec.ofNat 64 (popBits A.toNat 64)

/-- SEXTB: rd := sext of A[7:0] (R154). -/
def execSextb (rd ra : BitVec 6) (s : State) : Out := alu1 rd ra s fun A => (A.setWidth 8).signExtend 64

/-- SEXTH: rd := sext of A[15:0] (R154). -/
def execSexth (rd ra : BitVec 6) (s : State) : Out := alu1 rd ra s fun A => (A.setWidth 16).signExtend 64

/-- SEXTW: rd := sext of A[31:0] (R154). -/
def execSextw (rd ra : BitVec 6) (s : State) : Out := alu1 rd ra s fun A => (A.setWidth 32).signExtend 64

/-- ZEXTW: rd := zext of A[31:0] (R154). -/
def execZextw (rd ra : BitVec 6) (s : State) : Out := alu1 rd ra s fun A => (A.setWidth 32).setWidth 64

/-- BSWAP: rd := the eight bytes of A in reverse order (R154). -/
def execBswap (rd ra : BitVec 6) (s : State) : Out := alu1 rd ra s fun A => byteSwap A

/-- ADDI: rd := (A + I) mod 2^64 (R155). -/
def execAddi (rd ra : BitVec 6) (imm : BitVec 22) (s : State) : Out := aluImm rd ra imm s fun A I => A + I

/-- ANDI: rd := A AND I (R155). -/
def execAndi (rd ra : BitVec 6) (imm : BitVec 22) (s : State) : Out := aluImm rd ra imm s fun A I => A &&& I

/-- ORI: rd := A OR I (R155). -/
def execOri (rd ra : BitVec 6) (imm : BitVec 22) (s : State) : Out := aluImm rd ra imm s fun A I => A ||| I

/-- XORI: rd := A XOR I (R155). -/
def execXori (rd ra : BitVec 6) (imm : BitVec 22) (s : State) : Out := aluImm rd ra imm s fun A I => A ^^^ I

/-- SLTI: rd := 1 if A < I as signed, else 0 (R155). -/
def execSlti (rd ra : BitVec 6) (imm : BitVec 22) (s : State) : Out := aluImm rd ra imm s fun A I => flagWord (A.slt I)

/-- SLTUI: rd := 1 if A < I, both read as unsigned, else 0 (R155). -/
def execSltui (rd ra : BitVec 6) (imm : BitVec 22) (s : State) : Out := aluImm rd ra imm s fun A I => flagWord (A.ult I)

/-- MULI: rd := (A × I) mod 2^64 (R155). -/
def execMuli (rd ra : BitVec 6) (imm : BitVec 22) (s : State) : Out := aluImm rd ra imm s fun A I => A * I

/-- SHLI: rd := A shifted left by the immediate (R155). -/
def execShli (rd ra : BitVec 6) (sh : BitVec 6) (s : State) : Out := alu1 rd ra s fun A => A <<< sh.toNat

/-- SHRI: rd := A shifted right by the immediate, zeros entering (R155). -/
def execShri (rd ra : BitVec 6) (sh : BitVec 6) (s : State) : Out := alu1 rd ra s fun A => A >>> sh.toNat

/-- SRAI: rd := A shifted right by the immediate, copies of A[63] entering (R155). -/
def execSrai (rd ra : BitVec 6) (sh : BitVec 6) (s : State) : Out := alu1 rd ra s fun A => A.sshiftRight sh.toNat

/-- LI: rd := sext(imm32, 32) (R156). -/
def execLi (rd : BitVec 6) (imm : BitVec 32) (s : State) : Out :=
  runSpec s fun c _ => c.ready s [rd] (.done (s.put (c.setSreg rd (imm.signExtend 64))))

/-- LI.u: rd := zext(imm32, 32) (R156). -/
def execLiU (rd : BitVec 6) (imm : BitVec 32) (s : State) : Out :=
  runSpec s fun c _ => c.ready s [rd] (.done (s.put (c.setSreg rd (imm.setWidth 64))))

/-- LIH: rd[63:32] := imm32, rd[31:0] unchanged (R156). -/
def execLih (rd : BitVec 6) (imm : BitVec 32) (s : State) : Out :=
  runSpec s fun c _ => c.ready s [rd] (.done (s.put (c.setSreg rd (imm ++ (c.sreg rd).setWidth 32))))

/-- SEL: rd := ra if rd ≠ 0, else rd := rb (R157). -/
def execSel (rd ra rb : BitVec 6) (s : State) : Out :=
  runSpec s fun c _ => c.ready s [rd, ra, rb]
    (.done (s.put (c.setSreg rd (if c.sreg rd ≠ 0 then c.sreg ra else c.sreg rb))))

end Sys2Proof.Machine
end

