-- ==== Sys2Proof/Machine/Sync.lean ====
section
/-! DEFINITION. Barriers, transaction barriers, the creating and handing on of work, waiting, traps and return, and array leases (R185 to R196); a shard's retirement (R38). -/

namespace Sys2Proof.Machine

/-! ### Core barriers (R185, R186) -/

/-- A barrier at dispatch (R59). -/
def Barrier.zero : Barrier := { init := false, phase := 0, pending := 0, expect := 0, members := 0, arriving := [], completed := [] }

/-- A barrier of a core. -/
def Core.barrier (c : Core) (b : Nat) : Barrier := Map.lookD c.barriers b .zero

/-- Replace a barrier of a core. -/
def State.setBarrier (s : State) (k b : Nat) (x : Barrier) : State := s.updCore k fun c => { c with barriers := Map.put c.barriers b x }

/-- The owner core of a barrier word, or the aperture fault of R185. -/
def barrierOwner (s : State) (c : Core) (sh : Shard) (ra : BitVec 6) (remote : Bool) : Option Nat :=
  if remote then
    let k := clusterBase s.curCore + (c.sreg ra).toNat
    if 95 < (c.sreg ra).toNat ∨ ¬s.runsCtx k sh.ctx then none else some k
  else some s.curCore

/-- Run a barrier word at its owner core. -/
def atBarrier (s : State) (rd ra : BitVec 6) (remote : Bool) (m : Core → Shard → Nat → Res) : Out :=
  runC s fun c sh => c.ready s (if remote then [rd, ra] else [rd]) (c.afterAcquire s (
    match barrierOwner s c sh ra remote with
    | none => .trap 13 (c.sreg ra)
    | some k => m c sh k))

/-- BARINIT: the barrier is set up; rd := PHASE (R186). -/
def execBarinit (rd ra : BitVec 6) (remote : Bool) (expect : BitVec 12) (bar : BitVec 9) (s : State) : Out :=
  atBarrier s rd ra remote fun _ _ k =>
    let x := ((s.core? k).elim .zero fun c => c.barrier bar.toNat)
    let s' := s.setBarrier k bar.toNat
      { x with init := true, expect := expect, pending := expect, members := setBit x.members (s.curCore % 96) true, arriving := [] }
    .done (s'.updCore s.curCore fun c => c.setSreg rd (x.phase.setWidth 64))

/-- One arrival at a barrier that is set up (R186): the state after it. A phase that completes sets the owner's latch 3 (R193). -/
def State.arrive (s : State) (k b n : Nat) (sh : Shard) : State :=
  let x := (s.core? k).elim .zero fun c => c.barrier b
  let x := { x with members := setBit x.members (n % 96) true, pending := x.pending - 1, arriving := mergeKnows x.arriving sh.release }
  let s :=
    if x.pending = 0 then
      (s.setBarrier k b
        { x with
          phase := x.phase + 1, pending := x.expect, arriving := []
          completed := phaseKnows x.completed x.arriving x.phase.toNat }).updCore k
        fun c => { c with latches := setBit c.latches 3 true }
    else s.setBarrier k b x
  (s.tickClock n).syncPoint n

/-- A wait on phase p of a barrier completes: an acquire of cluster scope of that phase's arrivals (R79, R90, R106, R186). -/
def State.waited (s : State) (n : Nat) (sh : Shard) (x : Barrier) (p : Nat) : State :=
  ((((s.acquire n (knowsOf x.completed p)).passed sh.uid).syncPoint n).updCore n fun c => { c with dcache := [], barWait := none })

/-- BARARV: arrives; rd := the phase arrived in (R186). -/
def execBararv (rd ra : BitVec 6) (remote : Bool) (bar : BitVec 9) (s : State) : Out :=
  atBarrier s rd ra remote fun c sh k =>
    let x := (s.core? k).elim .zero fun c => c.barrier bar.toNat
    if ¬x.init then .wait s .barrier
    else c.afterStores s 1 (.done ((s.arrive k bar.toNat s.curCore sh).updCore s.curCore fun c => c.setSreg rd (x.phase.setWidth 64)))

/-- BARWAIT: waits until the barrier is set up and its phase is not rd[3:0]; rd := PHASE (R186). -/
def execBarwait (rd ra : BitVec 6) (remote : Bool) (bar : BitVec 9) (s : State) : Out :=
  atBarrier s rd ra remote fun c sh k =>
    let x := (s.core? k).elim .zero fun c => c.barrier bar.toNat
    let p := bits (c.sreg rd).toNat 0 4
    if ¬x.init ∨ x.phase.toNat = p then .wait s .barrier
    else .done ((s.waited s.curCore sh x p).updCore s.curCore fun c => c.setSreg rd (x.phase.setWidth 64))

/-- BARARW: arrives, once, then waits until the phase differs from the phase arrived in; rd := PHASE (R186). The phase operand of a word that has arrived is kept by its address (R69, R186). -/
def execBararw (rd ra : BitVec 6) (remote : Bool) (bar : BitVec 9) (s : State) : Out :=
  atBarrier s rd ra remote fun c sh k =>
    let x := (s.core? k).elim .zero fun c => c.barrier bar.toNat
    match c.barWait with
    | some (pc, p) =>
      if pc = c.cs.pc then
        if x.phase.toNat = p then .wait s .barrier
        else .done ((s.waited s.curCore sh x p).updCore s.curCore fun c => c.setSreg rd (x.phase.setWidth 64))
      else if ¬x.init then .wait s .barrier
      else c.afterStores s 1 (bararwArrive c sh k x)
    | none =>
      if ¬x.init then .wait s .barrier
      else c.afterStores s 1 (bararwArrive c sh k x)
where
  bararwArrive (c : Core) (sh : Shard) (k : Nat) (x : Barrier) : Res :=
    let s' := s.arrive k bar.toNat s.curCore sh
    let y := (s'.core? k).elim .zero fun c => c.barrier bar.toNat
    let sh' := ((s'.core? s.curCore).bind Core.shard).getD sh
    if y.phase = x.phase then .wait (s'.updCore s.curCore fun d => { d with barWait := some (c.cs.pc, x.phase.toNat) }) .barrier
    else .done ((s'.waited s.curCore sh' y x.phase.toNat).updCore s.curCore fun c => c.setSreg rd (y.phase.setWidth 64))

/-! ### Transaction barriers (R187) -/

/-- The scope of an operation on a barrier at a target: cluster for a scratchpad, device for cell memory. -/
def tbScope : Target → Nat
  | .pad _ _ => 1
  | _ => 2

/-- A transaction-barrier word has to wait: for its row or its path (R15, R324), for the stream's earlier accesses of the line (R93), or for the core's earlier accesses to the scratchpad (R82). -/
def State.tbWaits (s : State) (c : Core) (t : Target) : Bool :=
  s.blocked s.curCore t || (c.cs.flight.any fun f => f.underway && !f.marker && sameLine f.target t)
  || (t.pad?.isSome && (c.cs.flight ++ c.as.flight).any fun f => f.underway && !f.marker && f.target.pad? == t.pad?)

/-- Run a transaction-barrier word at its target: one indivisible access. -/
def atTb (s : State) (rd ra : BitVec 6) (off : BitVec 22) (m : Core → Shard → Target → Nat → Res) : Out :=
  runC s fun c sh => c.ready s [rd, ra] (c.afterAcquire s (
    let va := c.sreg ra + off.signExtend 64
    let r : Req := { va := va, size := 16, write := true, data := false, atomic := true, ord := 0, scope := 0, fn := 0, deviceOnly := true }
    checkedFor 0 s sh r fun t =>
      if s.tbWaits c t then .wait s .stores
      else match s.raceAt sh t 16 true false false with
        | some d => .trap 8 (raceTval va d)
        | none => m c sh t (ofBytes (s.readTarget t 16))))

/-- A transaction-barrier word performs its access to the barrier's 16 bytes, which is watched and charged (R104, R187, R333). -/
def State.watchTb (s : State) (sh : Shard) (t : Target) : State := (s.chargeAt s.curCore t 16).watch s.curCore sh t 16 true false false

/-- The state after a transaction-barrier word has written its barrier and rd. -/
def State.tbDoneWord (s : State) (sh : Shard) (rd : BitVec 6) (t : Target) (old new : Nat) (knows : Map Nat) (v : Nat) : State :=
  ((s.watchTb sh t).tbWrite t old new knows).updCore s.curCore fun c => (c.cacheDrop t).setSreg rd (BitVec.ofNat 64 v)

/-- TBINIT: phase 0, max(rd[31:0], 1) arrivals, recorded as the reload value; rd := 0 (R187). -/
def execTbinit (rd ra : BitVec 6) (off : BitVec 22) (s : State) : Out :=
  atTb s rd ra off fun c sh t _ =>
    let a := max (bits (c.sreg rd).toNat 0 32) 1
    let new := tbWord 0 a 0 a 0
    let s := { s with tbKnows := Map.put (Map.put s.tbKnows (tbKey t) []) (tbKey t + 1) [] }
    .done (s.tbDoneWord sh rd t new new [] 0)

/-- TBEXP: rd[31:0] is added to the pending units; rd := the phase (R187). -/
def execTbexp (rd ra : BitVec 6) (off : BitVec 22) (s : State) : Out :=
  atTb s rd ra off fun c sh t w =>
    .done (s.tbDoneWord sh rd t w (tbWord (tbPhase w) (tbArrivals w) (tbUnits w + bits (c.sreg rd).toNat 0 32) (tbReload w) (tbWaiter w)) [] (tbPhase w))

/-- TBARV: one arrival, a release of the barrier's scope; rd := the phase before it (R187). -/
def execTbarv (rd ra : BitVec 6) (off : BitVec 22) (s : State) : Out :=
  atTb s rd ra off fun c sh t w =>
    c.afterStores s (tbScope t) (
      let new := tbDone (tbWord (tbPhase w) (tbArrivals w + 2 ^ 32 - 1) (tbUnits w) (tbReload w) (tbWaiter w))
      .done (((s.tbDoneWord sh rd t w new sh.release (tbPhase w)).tickClock s.curCore).syncPoint s.curCore))

/-- TBWAIT: waits until the phase is not rd[3:0]; an acquire of the barrier's scope; rd := the phase (R97, R187). -/
def execTbwait (rd ra : BitVec 6) (off : BitVec 22) (s : State) : Out :=
  atTb s rd ra off fun c sh t w =>
    let p := bits (c.sreg rd).toNat 0 4
    if tbPhase w = p then .wait s .transBarrier
    else
      let s := ((((s.watchTb sh t).acquire s.curCore (knowsOf (Map.lookD s.tbKnows (tbKey t + 1) []) p)).passed sh.uid).syncPoint s.curCore)
      .done (s.updCore s.curCore fun c => { c with dcache := [] }.setSreg rd (BitVec.ofNat 64 (tbPhase w)))

/-! ### SPAWN (R188) -/

/-- The store's entry for a spawned task (R287, R288): a general entry of the task's die that no older SPAWN waits for, else one of the shard's reserve. Answers the die whose entry it is and the reserve left. -/
def State.spawnEntry (s : State) (n : Nat) (sh : Shard) (t : Task) (since : Nat) : Option (Nat × Nat) :=
  let older := (s.claimants t.die).filter fun x => x.2 ≠ n && (decide (x.1 < since) || (x.1 == since && decide (x.2 < n)))
  if older.length < s.freeEntries t.die then some (t.die, sh.reserve)
  else if 0 < sh.reserve then some (dieOf n, sh.reserve - 1)
  else none

/-- SPAWN and SPAWN.nb, without a result register for the first. A record may lie in a host window, which is cell memory (R9); one that the window refuses is a translation fault (R412). -/
def spawnWord (s : State) (c : Core) (sh : Shard) (ra : BitVec 6) (rd : Option (BitVec 6)) : Res :=
  let va := c.sreg ra
  let n := s.curCore
  let r : Req := { va := va, size := 256, write := false, data := false, atomic := false, ord := 0, scope := 2, fn := 0, deviceOnly := false }
  if 2 ^ 56 ≤ va.toNat then .trap 13 va
  else checkedFor 0 s sh r fun tg =>
      if s.refuses tg then .trap 12 va
      else c.afterStores s 2 (
        if (c.as.flight.any fun f => f.writes && f.underway) || s.blocked n tg then .wait s .stores
        else
          let since := match c.cs.wait with
            | .launch k _ => k
            | _ => s.now
          let t := s.taskOf sh.ctx (s.readTarget tg 256) va (some (dieOf n)) none sh.release
          match s.spawnEntry n sh t since with
          | some (entry, reserve) =>
            let s := ((s.chargeAt n tg 256).updCore n fun c => { c with shard := some { sh with reserve := reserve } }).accept { t with entry := entry } |>.reclaim
            let s := ((s.tickClock n).commit n).syncPoint n
            .done (match rd with
              | some d => s.updCore n fun c => c.setSreg d 0
              | none => s)
          | none => match rd with
            | some d => if s.det sh.ctx then .wait s (.launch since t.die) else .done (s.updCore n fun c => c.setSreg d 1)
            | none => .wait s (.launch since t.die))

/-- SPAWN (R188). -/
def execSpawn (ra : BitVec 6) (s : State) : Out :=
  runC s fun c sh => c.ready s [ra] (c.afterAcquire s (spawnWord s c sh ra none))

/-- SPAWN.nb: rd := 0 when the store accepts the record, 1 when it is busy (R188); in deterministic mode it waits (R68). -/
def execSpawnNb (rd ra : BitVec 6) (s : State) : Out :=
  runC s fun c sh => c.ready s [rd, ra] (c.afterAcquire s (spawnWord s c sh ra (some rd)))

/-! ### Inboxes (R189, R190) -/

/-- The word by which the detector judges a core's inbox (R106). -/
def inboxWord (k : Nat) : Target := .pad k 0x40000

/-- A conflict of an append to, or a take from, an inbox in phase mode (R106). -/
def State.inboxRace (s : State) (sh : Shard) (k : Nat) (write : Bool) : Bool :=
  s.det sh.ctx && (s.raceAt sh (inboxWord k) 8 write false true).isSome

/-- An own scratchpad address that ENQR or INBOX names (check 1). -/
def localOnly (va : Word) : Option Nat :=
  match aperture va.toNat with
  | some (1, off) => some off
  | _ => none

/-- An entry joins an inbox: behind what is there, but for entries of the same clk that higher sender core numbers have sent (R189). -/
def InboxEntry.enqueue (e : InboxEntry) : List InboxEntry → List InboxEntry
  | [] => [e]
  | x :: r => if x.since = e.since ∧ e.sender < x.sender then e :: x :: r else x :: e.enqueue r

/-- ENQR: appends the 64 bytes at ra to the inbox of a core of the cluster; waits while it is full, and takes the aperture fault if the core's shard leaves meanwhile (R189, R302). -/
def execEnqr (ra rb : BitVec 6) (s : State) : Out :=
  runC s fun c sh => c.ready s [ra, rb] (c.afterAcquire s (
    let va := c.sreg ra
    let k := clusterBase s.curCore + (c.sreg rb).toNat
    match localOnly va with
    | none => .trap 13 va
    | some off =>
      if 95 < (c.sreg rb).toNat ∨ ¬s.runsCtx k sh.ctx ∨ c.cs.wait = .appendGone then .trap 13 (c.sreg rb)
      else if off % 64 ≠ 0 then .trap 11 va
      else if sh.pure then .trap 10 va
      else c.afterStores s 1 (
        if c.as.flight.any fun f => f.writes && f.underway then .wait s .stores
        else if 16 ≤ ((s.core? k).elim 0 fun c => c.inbox.length) then .wait s (.append k)
        else if s.poisoned (.pad s.curCore off) 64 then .poison va false
        else match s.raceAt sh (.pad s.curCore off) 64 false true false with
          | some d => .trap 8 (raceTval va d)
          | none =>
            if s.inboxRace sh k true then .trap 8 (raceTval va 0)
            else
              let e : InboxEntry :=
                { block := BitVec.ofNat 512 (ofBytes (s.readTarget (.pad s.curCore off) 64)), sender := s.curCore, ctx := sh.ctx, since := s.now,
                  sentBy := sh.uid, clock := sh.clock }
              let s := s.watch s.curCore sh (.pad s.curCore off) 64 false true false
              let s := if s.det sh.ctx then s.watch s.curCore sh (inboxWord k) 8 true false true else s
              let s := s.updCore k fun c => { c with inbox := e.enqueue c.inbox, latches := setBit c.latches 0 true }
              .done ((s.commit s.curCore).syncPoint s.curCore))))

/-- INBOX and INBOX.nb: the oldest entry of the shard's context is written at ra and removed; an acquire of cluster scope. A take goes before an append of its clk (R190). In deterministic mode the second waits as the first does (R68). -/
def inboxTake (s : State) (c : Core) (sh : Shard) (rd ra : BitVec 6) (nb : Bool) : Res :=
  let va := c.sreg ra
  let n := s.curCore
  match localOnly va with
  | none => .trap 13 va
  | some off =>
    if off % 64 ≠ 0 then .trap 11 va
    else match c.inbox.find? fun e => e.ctx == sh.ctx && e.since != s.now with
      | none => if nb ∧ ¬s.det sh.ctx then .done (s.put (c.setSreg rd 0)) else .wait s .inbox
      | some e =>
        match s.raceAt sh (.pad n off) 64 true true false with
        | some d => .trap 8 (raceTval va d)
        | none =>
          if s.inboxRace sh n false then .trap 8 (raceTval va 0)
          else
            let s := s.watch n sh (.pad n off) 64 true true false
            let s := if s.det sh.ctx then s.watch n sh (inboxWord n) 8 false false true else s
            let s := s.writeTarget (.pad n off) (granuleBytes e.block)
            .done (((s.acquire n []).updCore n fun c =>
              { c with inbox := c.inbox.erase e, dcache := [] }.setSreg rd (BitVec.ofNat 64 (2 ^ 63 + e.sender))).syncPoint n)

/-- INBOX: waits until an entry arrives (R190). -/
def execInbox (rd ra : BitVec 6) (s : State) : Out :=
  runC s fun c sh => c.ready s [rd, ra] (c.afterAcquire s (inboxTake s c sh rd ra false))

/-- INBOX.nb: rd := 0 when there is no entry (R190). -/
def execInboxNb (rd ra : BitVec 6) (s : State) : Out :=
  runC s fun c sh => c.ready s [rd, ra] (c.afterAcquire s (inboxTake s c sh rd ra true))

/-! ### YIELD, WFE, TRAP, BRK and RTE (R192 to R195) -/

/-- The C-stream completes its word, and the shard is parked behind it. -/
def State.parkBehind (s : State) (n slot : Nat) (debug : Bool) : State :=
  (s.updCore n fun c => { c with cs := (c.cs.complete c.cs.pc).count }).park n slot debug false

/-- YIELD: parks the shard when a ready task of effective priority at least its own waits for this core, with rd := 1 at the resume; else rd := 0 (R192, R297). -/
def execYield (rd : BitVec 6) (s : State) : Out :=
  runC s fun c sh => c.ready s [rd] (
    let n := s.curCore
    match (if s.det sh.ctx then none else s.freeSlot sh.ctx) with
    | none => .done (s.put (c.setSreg rd 0))
    | some slot =>
      if (s.work n).any fun x => decide (s.shardEff sh ≤ x.eff) then
        if s.canPark c then .whole ((s.put (c.setSreg rd 1)).parkBehind n slot false) else .wait s .save
      else .done (s.put (c.setSreg rd 0)))

/-- WFE: rd := the latches once one is set, which clears them; in deterministic mode rd := 0 (R68, R193). -/
def execWfe (rd ra : BitVec 6) (s : State) : Out :=
  runC s fun c sh => c.ready s [rd, ra] (
    if c.latches ≠ 0 then
      .done (s.put ({ c with latches := 0 }.setSreg rd (if s.det sh.ctx then 0 else c.latches.setWidth 64)))
    else match c.cs.wait with
      | .event d => .wait s (.event d)
      | _ => .wait s (.event (if c.sreg ra = 0 ∨ s.det sh.ctx then none else some (s.now + (c.sreg ra).toNat))))

/-- WFE_TIMEOUT: ra clk have passed since the WFE of a core issued, and latch 5 is set (R193). -/
def execWfeTimeout (s : State) : Out :=
  onShard s fun c _ =>
    match c.cs.wait with
    | .event (some d) =>
      if d ≤ s.now then .next (s.updCore s.args.core fun c => { c with latches := setBit c.latches 5 true }) else .refused .notEnabled
    | _ => .refused .notEnabled

/-- TRAP: code 16 with CR.TVAL the immediate (R194). -/
def execTrap (imm : BitVec 16) (s : State) : Out := runC s fun _ _ => .trap 16 (imm.setWidth 64)

/-- BRK: code 17 with CR.TVAL the immediate; under debug it completes and the shard is parked off the resume list, with a TYPE 5 record (R194). -/
def execBrk (s : State) : Out :=
  runC s fun c sh =>
    let imm : Word := (c.ir.extractLsb' 0 16).setWidth 64
    let n := s.curCore
    if (Map.look s.ctxs sh.ctx).any Ctx.debug then
      match s.freeSlot sh.ctx with
      | none => .wait s .save
      | some slot =>
        if s.canPark c then
          let f : FaultRec :=
            { typ := 5, cls := 0xFF, cause := 0, strm := 0, core := n, shard := sh.num, taskId := sh.taskId, tval := imm, pc := c.cs.pc, addr := 0, index := 0 }
          .whole ((s.postFault sh.ctx f).1.parkBehind n slot true)
        else .wait s .save
    else .trap 17 imm

/-- RTE and RTE.skip: an illegal encoding with INH = 0; else the streams resume, the accesses that had no effect issue again, and a held exception is taken as a new trap (R195, R383). -/
def returnWord (s : State) (c : Core) (sh : Shard) (self : Instr) (skip : Bool) : Res :=
  let n := s.curCore
  if ¬c.inh then .trap 1 self.tval
  else
    let s' := (s.put ({ c with cs := c.cs.count }.returnFromTrap skip)).reissueAll n sh c
    match (s.heldTrap n c sh).filter fun x => (s'.core? n).any fun d => (d.strm x.1).flight.any fun f => f.order == x.2.1.order with
    | some (τ, f, code, tval) => .whole (s'.takeHeld n τ f code tval)
    | none => .whole s'

/-- RTE (R195). -/
def execRte (s : State) : Out := runC s fun c sh => returnWord s c sh .rte false

/-- RTE.skip: the trapping stream completes its word with no effect (R195). -/
def execRteSkip (s : State) : Out := runC s fun c sh => returnWord s c sh .rteSkip true

/-! ### Array leases (R196, R391) -/

/-- The lease of an array is free: no run is open within its bound, and every command the last run accepted has completed. -/
def State.leaseFree (s : State) (arr : Nat) : Bool :=
  (Map.look s.arrays arr).any fun a =>
    !(a.runOpen && decide (s.now < a.runStart + 16384)) && a.holder.all fun h => (s.core? h).all fun c => c.mqueue.isEmpty

/-- A run starts (R196). -/
def State.grantLease (s : State) (n : Nat) : State :=
  ({ s with arrays := Map.upd s.arrays (arrayOf n) fun a =>
      { a with holder := some n, runOpen := true, runStart := s.now, accepted := 0, waiting := removeNat a.waiting n } }).updCore n
    fun c => { c with lastRun := 0 }

/-- Cores other than this one that wait for the lease. -/
def State.leaseWaiters (s : State) (n : Nat) : List Nat := (Map.look s.arrays (arrayOf n)).elim [] fun a => a.waiting.filter fun m => m ≠ n

/-- LEASE in its blocking form, with a result register where LEASE.nb waits as LEASE does. An array out of service parks the shard with a mark (R424). -/
def leaseWord (s : State) (c : Core) (sh : Shard) (rd : Option (BitVec 6)) : Res :=
  let n := s.curCore
  let fin (s : State) : Res := .done (match rd with
    | some d => s.updCore n fun c => c.setSreg d 1
    | none => s)
  if s.hasLease n then fin s
  else if (Map.look s.arrays (arrayOf n)).any fun a => !a.inService then
    match (if s.canPark c then s.freeSlot sh.ctx else none) with
    | some slot => .whole (s.park n slot false true)
    | none => .wait s .save
  else if s.leaseFree (arrayOf n) ∧ s.leaseWaiters n = [] then fin (s.grantLease n)
  else .wait { s with arrays := Map.upd s.arrays (arrayOf n) fun a => { a with waiting := insertNat a.waiting n } } .lease

/-- LEASE (R196). -/
def execLease (s : State) : Out := runC s fun c sh => leaseWord s c sh none

/-- LEASE.nb: rd := 1 when the lease is held or granted at once, else 0 (R196); in deterministic mode it waits and gives 1 (R68). -/
def execLeaseNb (rd : BitVec 6) (s : State) : Out :=
  runC s fun c sh => c.ready s [rd] (
    let n := s.curCore
    if s.det sh.ctx then leaseWord s c sh (some rd)
    else if s.hasLease n then .done (s.put (c.setSreg rd 1))
    else if (Map.look s.arrays (arrayOf n)).any Array.inService ∧ s.leaseFree (arrayOf n) ∧ s.leaseWaiters n = [] then
      .done ((s.grantLease n).updCore n fun c => c.setSreg rd 1)
    else .done (s.put (c.setSreg rd 0)))

/-- UNLEASE: the run ends, if the lease is held (R196). -/
def execUnlease (s : State) : Out :=
  runC s fun _ _ => .done (if s.hasLease s.curCore then s.endRun s.curCore else s)

/-- The next core of a round-robin choice: the first behind the last holder, in ascending order and around. -/
def nextHolder (last : Nat) (waiting : List Nat) : Option Nat :=
  (waiting.find? fun m => decide (last < m)).orElse fun _ => waiting.head?

/-- The last holder of an array: of its open run, if one is open past its bound (R196, R391). -/
def Array.lastHolder (a : Array) : Nat := if a.runOpen then a.holder.getD a.last else a.last

/-- LEASE_GRANT: the free lease of array `idx` goes to the next waiting core; a resume that waited for it goes on (R196, R300). -/
def execLeaseGrant (s : State) : Out :=
  match Map.look s.arrays s.args.idx with
  | none => .refused .notEnabled
  | some a =>
    match (if a.inService && s.leaseFree s.args.idx then nextHolder a.lastHolder a.waiting else none) with
    | none => .refused .notEnabled
    | some n => .next (((s.grantLease n).updCore n fun c => { c with cs := { c.cs with wait := .none } }).finishResume n)

/-- LEASE_RUN_BOUND: the run of array `idx` has lasted 16,384 clk and ends (R391). -/
def execLeaseRunBound (s : State) : Out :=
  match Map.look s.arrays s.args.idx with
  | none => .refused .notEnabled
  | some a =>
    match a.holder with
    | some n => if a.runOpen ∧ a.runStart + 16384 ≤ s.now then .next (s.endRun n) else .refused .notEnabled
    | none => .refused .notEnabled

/-! ### Retirement (R38) -/

/-- The shard on a core retires: its rows, its lease and its Harvest bindings are released, and what it knows goes to its task (R38, R106, R271, R307). -/
def State.retire (s : State) (n : Nat) (sh : Shard) : State :=
  let s := ((s.syncPoint n).passed sh.uid).freeHolds n
  let s := ((s.vacate n).dropUnsealed sh.uid).unbind fun b => b == (sh.task, sh.num)
  let s := (s.setShard sh.task sh.num .retired)
  let s := { s with tasks := Map.upd s.tasks sh.task fun t => { t with doneKnows := mergeKnows t.doneKnows sh.release } }
  s.refill (dieOf n)

/-- SHARD_RETIRE: a shard whose HALT has met its conditions retires; one with a failed M-command is lost instead (R22, R38, R372, R423). -/
def execShardRetire (s : State) : Out :=
  onShard s fun c sh =>
    let n := s.args.core
    if ¬c.cs.halted then .refused .notEnabled
    else match c.mfailed with
      | some info => .next ((s.freeHolds n).loseShard sh false info)
      | none => .next (s.retire n sh)

end Sys2Proof.Machine
end

