-- ==== Sys2Proof/Machine/VecFloat.lean ====
section
/-! DEFINITION. The V-stream's floating-point arithmetic, compares and approximations (R221 to R226). -/

namespace Sys2Proof.Machine

/-- The class code of an element of a floating type (R222). -/
def classCode (t b : Nat) : Nat :=
  match valOf t b with
  | .nan => 0
  | .inf n => if n then 1 else 8
  | .fin n a _ =>
    if a = 0 then (if n then 4 else 5)
    else if isSubnormal t b then (if n then 3 else 6)
    else if n then 2 else 7

/-- VFADD: round(A + B) (R221). -/
def execVfadd (d a b : BitVec 12) (m : Bool) (x : BitVec 3) (s : State) : Out :=
  vbin (.vfadd d a b m x) d a b m x setF s fun e i A B =>
    let r := (e.val e.t A).add e.mode (e.val e.t B)
    let q := e.round e.t i r.1
    (q.1, r.2 ||| q.2)

/-- VFSUB: round(A − B) (R221). -/
def execVfsub (d a b : BitVec 12) (m : Bool) (x : BitVec 3) (s : State) : Out :=
  vbin (.vfsub d a b m x) d a b m x setF s fun e i A B =>
    let r := (e.val e.t A).add e.mode (e.val e.t B).negate
    let q := e.round e.t i r.1
    (q.1, r.2 ||| q.2)

/-- VFMUL: round(A × B) (R221). -/
def execVfmul (d a b : BitVec 12) (m : Bool) (x : BitVec 3) (s : State) : Out :=
  vbin (.vfmul d a b m x) d a b m x setF s fun e i A B =>
    let r := (e.val e.t A).mul (e.val e.t B)
    let q := e.round e.t i r.1
    (q.1, r.2 ||| q.2)

/-- VFMA: round(A × B + D), rounded once (R221). -/
def execVfma (d a b : BitVec 12) (m : Bool) (x : BitVec 3) (s : State) : Out :=
  vtri (.vfma d a b m x) d a b m x setF s fun e i A B D =>
    let p := (e.val e.t A).mul (e.val e.t B)
    let r := p.1.add e.mode (e.val e.t D)
    let q := e.round e.t i r.1
    (q.1, p.2 ||| r.2 ||| q.2)

/-- VFMS: round(A × B − D), rounded once (R221). -/
def execVfms (d a b : BitVec 12) (m : Bool) (x : BitVec 3) (s : State) : Out :=
  vtri (.vfms d a b m x) d a b m x setF s fun e i A B D =>
    let p := (e.val e.t A).mul (e.val e.t B)
    let r := p.1.add e.mode (e.val e.t D).negate
    let q := e.round e.t i r.1
    (q.1, p.2 ||| r.2 ||| q.2)

/-- VFNMA: round(D − A × B), rounded once (R221). -/
def execVfnma (d a b : BitVec 12) (m : Bool) (x : BitVec 3) (s : State) : Out :=
  vtri (.vfnma d a b m x) d a b m x setF s fun e i A B D =>
    let p := (e.val e.t A).mul (e.val e.t B)
    let r := (e.val e.t D).add e.mode p.1.negate
    let q := e.round e.t i r.1
    (q.1, p.2 ||| r.2 ||| q.2)

/-- VFMIN (R221). -/
def execVfmin (d a b : BitVec 12) (m : Bool) (x : BitVec 3) (s : State) : Out :=
  vbin (.vfmin d a b m x) d a b m x setF s fun e _ A B => (fmin e.ftz e.t A B, 0)

/-- VFMAX (R221). -/
def execVfmax (d a b : BitVec 12) (m : Bool) (x : BitVec 3) (s : State) : Out :=
  vbin (.vfmax d a b m x) d a b m x setF s fun e _ A B => (fmax e.ftz e.t A B, 0)

/-- VFABS: A with sign 0; a NaN yields the NaN of R111 (R221). -/
def execVfabs (d a b : BitVec 12) (m : Bool) (x : BitVec 3) (s : State) : Out :=
  vun (.vfabs d a b m x) d a b m x setF s fun e _ A =>
    (if (e.val e.t A).isNan then nanBits e.t else flushed e.ftz e.t A % 2 ^ (e.w - 1), 0)

/-- VFNEG: A with its sign inverted; a NaN yields the NaN of R111 (R221). -/
def execVfneg (d a b : BitVec 12) (m : Bool) (x : BitVec 3) (s : State) : Out :=
  vun (.vfneg d a b m x) d a b m x setF s fun e _ A =>
    (if (e.val e.t A).isNan then nanBits e.t else flushed e.ftz e.t A ^^^ 2 ^ (e.w - 1), 0)

/-- VFSCL: round(A × 2^k), k the lane of b read as a signed integer (R221). -/
def execVfscl (d a b : BitVec 12) (m : Bool) (x : BitVec 3) (s : State) : Out :=
  vbin (.vfscl d a b m x) d a b m x setF s fun e i A B =>
    let r := (e.val e.t A).mul (dyadic false 1 (nearExp (sextNat B e.w)))
    e.round e.t i r.1

/-- VFCEQ: all ones where A = B; +0 equals −0, and a NaN compares false (R222). -/
def execVfceq (d a b : BitVec 12) (m : Bool) (x : BitVec 3) (s : State) : Out :=
  vbin (.vfceq d a b m x) d a b m x setF s fun e _ A B => maskLane e.w ((e.val e.t A).eq (e.val e.t B))

/-- VFCLT: all ones where A < B; +0 equals −0, and a NaN compares false (R222). -/
def execVfclt (d a b : BitVec 12) (m : Bool) (x : BitVec 3) (s : State) : Out :=
  vbin (.vfclt d a b m x) d a b m x setF s fun e _ A B => maskLane e.w ((e.val e.t A).lt (e.val e.t B))

/-- VFCLE: all ones where A ≤ B; +0 equals −0, and a NaN compares false (R222). -/
def execVfcle (d a b : BitVec 12) (m : Bool) (x : BitVec 3) (s : State) : Out :=
  vbin (.vfcle d a b m x) d a b m x setF s fun e _ A B => maskLane e.w ((e.val e.t A).lt (e.val e.t B) || (e.val e.t A).eq (e.val e.t B))

/-- VFCLASS: the class code of the raw bits (R222). -/
def execVfclass (d a b : BitVec 12) (m : Bool) (x : BitVec 3) (s : State) : Out :=
  vun (.vfclass d a b m x) d a b m x setF s fun e _ A => (classCode e.t A, 0)

/-- VRCPA (R224). -/
def execVrcpa (d a b : BitVec 12) (m : Bool) (x : BitVec 3) (s : State) : Out :=
  vun (.vrcpa d a b m x) d a b m x setF s fun e i A =>
    let v := rcpValue (e.val e.t A)
    let q := e.round e.t i v.1
    (q.1, v.2 ||| q.2)

/-- VRSQA (R225). -/
def execVrsqa (d a b : BitVec 12) (m : Bool) (x : BitVec 3) (s : State) : Out :=
  vun (.vrsqa d a b m x) d a b m x setF s fun e i A =>
    let v := rsqValue (e.val e.t A)
    let q := e.round e.t i v.1
    (q.1, v.2 ||| q.2)

/-- VLOG2A (R226). -/
def execVlog2a (d a b : BitVec 12) (m : Bool) (x : BitVec 3) (s : State) : Out :=
  vun (.vlog2a d a b m x) d a b m x setF s fun e i A =>
    let v := log2Value (e.val e.t A)
    let q := e.round e.t i v.1
    (q.1, v.2 ||| q.2)

/-- VEXP2A (R226). -/
def execVexp2a (d a b : BitVec 12) (m : Bool) (x : BitVec 3) (s : State) : Out :=
  vun (.vexp2a d a b m x) d a b m x setF s fun e i A => e.round e.t i (exp2Value (e.val e.t A))

end Sys2Proof.Machine
end

