-- ==== Sys2Proof/Machine/VecInt.lean ====
section
/-! DEFINITION. The V-stream's mode word, its lane-wise integer and bitwise words, compares, moves, and the words that widen and narrow integers (R215 to R220). -/

namespace Sys2Proof.Machine

/-- VMODE writes the vector type and the mode (R215). -/
def execVmode (typ : BitVec 4) (wt wm ftz : Bool) (rnd : BitVec 3) (s : State) : Out :=
  runOn .v s fun c _ =>
    .done (s.put { c with
      vtype := if wt then typ else c.vtype
      ftz := if wm then ftz else c.ftz
      rnd := if wm then rnd else c.rnd })

/-- The lane value of VMOVI by type (R218). -/
def moviLane (t imm : Nat) : Nat :=
  match t with
  | 0xA => imm * 2 ^ 16
  | 0x4 => ofInt 4 (sextNat imm 16)
  | 0x6 => ofInt 6 (sextNat imm 16)
  | _ => imm % 2 ^ typeWidth t

/-- VMOVI: every lane takes the immediate (R218). -/
def execVmovi (d a : BitVec 12) (imm : BitVec 16) (s : State) : Out :=
  vword s (vspec (.vmovi d a imm) d a 0 false 0 .v .none .none setAny) fun e _ _ _ =>
    e.out ((List.range (lanesOf e.w)).map fun _ => (moviLane e.t imm.toNat, 0))

/-- VZERO: zero (R216). -/
def execVzero (d a b : BitVec 12) (m : Bool) (x : BitVec 3) (s : State) : Out :=
  vword s (vspec (.vzero d a b m x) d a b m x .v .none .none setAny) fun _ _ _ _ => ([0], 0)

/-- VCLRF clears the full bit of one granule per repeat (R219). -/
def execVclrf (d a b : BitVec 12) (m : Bool) (x : BitVec 3) (s : State) : Out :=
  runOn .v s fun c sh =>
    let v := vspec (.vclrf d a b m x) d a b m x .vn .none .none setAny
    match c.vcheckOnce sh.hwm v with
    | some (code, tval) => .trap code tval
    | none =>
      if m = false ∧ ¬c.vs.p x.toNat then .done s
      else v.advance (s.put (c.clearFull (c.nameGranule .v (specNum (stepSpec d c.vs.rep))) 1))

/-- VADD: A + B (R216). -/
def execVadd (d a b : BitVec 12) (m : Bool) (x : BitVec 3) (s : State) : Out :=
  vbin (.vadd d a b m x) d a b m x setI s fun e _ A B => ((A + B) % 2 ^ e.w, 0)

/-- VSUB: A − B (R216). -/
def execVsub (d a b : BitVec 12) (m : Bool) (x : BitVec 3) (s : State) : Out :=
  vbin (.vsub d a b m x) d a b m x setI s fun e _ A B => ((A + 2 ^ e.w - B) % 2 ^ e.w, 0)

/-- VMUL: A × B (R216). -/
def execVmul (d a b : BitVec 12) (m : Bool) (x : BitVec 3) (s : State) : Out :=
  vbin (.vmul d a b m x) d a b m x setI s fun e _ A B => (A * B % 2 ^ e.w, 0)

/-- VMULH: the high half of the exact product, read by the type (R216). -/
def execVmulh (d a b : BitVec 12) (m : Bool) (x : BitVec 3) (s : State) : Out :=
  vbin (.vmulh d a b m x) d a b m x setI s fun e _ A B => (ofInt e.t (intOf e.t A * intOf e.t B / 2 ^ e.w), 0)

/-- VAND: A AND B (R216). -/
def execVand (d a b : BitVec 12) (m : Bool) (x : BitVec 3) (s : State) : Out :=
  vbin (.vand d a b m x) d a b m x setAny s fun _ _ A B => (A &&& B, 0)

/-- VOR: A OR B (R216). -/
def execVor (d a b : BitVec 12) (m : Bool) (x : BitVec 3) (s : State) : Out :=
  vbin (.vor d a b m x) d a b m x setAny s fun _ _ A B => (A ||| B, 0)

/-- VXOR: A XOR B (R216). -/
def execVxor (d a b : BitVec 12) (m : Bool) (x : BitVec 3) (s : State) : Out :=
  vbin (.vxor d a b m x) d a b m x setAny s fun _ _ A B => (A ^^^ B, 0)

/-- VANDN: A AND NOT B (R216). -/
def execVandn (d a b : BitVec 12) (m : Bool) (x : BitVec 3) (s : State) : Out :=
  vbin (.vandn d a b m x) d a b m x setAny s fun e _ A B => (A &&& (2 ^ e.w - 1 - B), 0)

/-- VSHL: A × 2^c with c = B mod w (R216). -/
def execVshl (d a b : BitVec 12) (m : Bool) (x : BitVec 3) (s : State) : Out :=
  vbin (.vshl d a b m x) d a b m x setI s fun e _ A B => (A * 2 ^ (B % e.w) % 2 ^ e.w, 0)

/-- VSHR: A shifted right by c, zeros entering (R216). -/
def execVshr (d a b : BitVec 12) (m : Bool) (x : BitVec 3) (s : State) : Out :=
  vbin (.vshr d a b m x) d a b m x setI s fun e _ A B => (A / 2 ^ (B % e.w), 0)

/-- VSRA: A shifted right by c, copies of its top bit entering (R216). -/
def execVsra (d a b : BitVec 12) (m : Bool) (x : BitVec 3) (s : State) : Out :=
  vbin (.vsra d a b m x) d a b m x setI s fun e _ A B => ((sextNat A e.w / 2 ^ (B % e.w) % 2 ^ e.w).toNat, 0)

/-- VMIN: the smaller, read by the type (R216). -/
def execVmin (d a b : BitVec 12) (m : Bool) (x : BitVec 3) (s : State) : Out :=
  vbin (.vmin d a b m x) d a b m x setI s fun e _ A B => (if intOf e.t A ≤ intOf e.t B then A else B, 0)

/-- VMAX: the larger, read by the type (R216). -/
def execVmax (d a b : BitVec 12) (m : Bool) (x : BitVec 3) (s : State) : Out :=
  vbin (.vmax d a b m x) d a b m x setI s fun e _ A B => (if intOf e.t A ≤ intOf e.t B then B else A, 0)

/-- VADDS: the sum saturated to the type's range; SATF when a lane clamps (R216). -/
def execVadds (d a b : BitVec 12) (m : Bool) (x : BitVec 3) (s : State) : Out :=
  vbin (.vadds d a b m x) d a b m x setI s fun e _ A B =>
    let r := clampInt (intMin e.t) (intMax e.t) (intOf e.t A + intOf e.t B)
    (ofInt e.t r.1, if r.2 then flagSATF else 0)

/-- VSUBS: the difference saturated to the type's range; SATF when a lane clamps (R216). -/
def execVsubs (d a b : BitVec 12) (m : Bool) (x : BitVec 3) (s : State) : Out :=
  vbin (.vsubs d a b m x) d a b m x setI s fun e _ A B =>
    let r := clampInt (intMin e.t) (intMax e.t) (intOf e.t A - intOf e.t B)
    (ofInt e.t r.1, if r.2 then flagSATF else 0)

/-- VABS: the absolute value of a signed lane, the most negative value staying; an unsigned lane as it stands (R216). -/
def execVabs (d a b : BitVec 12) (m : Bool) (x : BitVec 3) (s : State) : Out :=
  vun (.vabs d a b m x) d a b m x setI s fun e _ A => (if isSigned e.t && decide (intOf e.t A < 0) then (2 ^ e.w - A) % 2 ^ e.w else A, 0)

/-- VNEG: −A (R216). -/
def execVneg (d a b : BitVec 12) (m : Bool) (x : BitVec 3) (s : State) : Out :=
  vun (.vneg d a b m x) d a b m x setI s fun e _ A => ((2 ^ e.w - A) % 2 ^ e.w, 0)

/-- VCNT: the number of one bits (R216). -/
def execVcnt (d a b : BitVec 12) (m : Bool) (x : BitVec 3) (s : State) : Out :=
  vun (.vcnt d a b m x) d a b m x setI s fun e _ A => (popBits A e.w, 0)

/-- VMOV: A (R216). -/
def execVmov (d a b : BitVec 12) (m : Bool) (x : BitVec 3) (s : State) : Out :=
  vun (.vmov d a b m x) d a b m x setAny s fun e _ A => ((A : Nat) % 2 ^ e.w, 0)

/-- VINV: NOT A (R216). -/
def execVinv (d a b : BitVec 12) (m : Bool) (x : BitVec 3) (s : State) : Out :=
  vun (.vinv d a b m x) d a b m x setAny s fun e _ A => (2 ^ e.w - 1 - A, 0)

/-- VCEQ: all ones where A = B (R217). -/
def execVceq (d a b : BitVec 12) (m : Bool) (x : BitVec 3) (s : State) : Out :=
  vbin (.vceq d a b m x) d a b m x setAny s fun e _ A B => maskLane e.w (A == B)

/-- VCNE: all ones where A ≠ B (R217). -/
def execVcne (d a b : BitVec 12) (m : Bool) (x : BitVec 3) (s : State) : Out :=
  vbin (.vcne d a b m x) d a b m x setAny s fun e _ A B => maskLane e.w (A != B)

/-- VCLT: all ones where A < B, signed (R217). -/
def execVclt (d a b : BitVec 12) (m : Bool) (x : BitVec 3) (s : State) : Out :=
  vbin (.vclt d a b m x) d a b m x setAny s fun e _ A B => maskLane e.w (decide (sextNat A e.w < sextNat B e.w))

/-- VCLE: all ones where A ≤ B, signed (R217). -/
def execVcle (d a b : BitVec 12) (m : Bool) (x : BitVec 3) (s : State) : Out :=
  vbin (.vcle d a b m x) d a b m x setAny s fun e _ A B => maskLane e.w (decide (sextNat A e.w ≤ sextNat B e.w))

/-- VCLTU: all ones where A < B, unsigned (R217). -/
def execVcltu (d a b : BitVec 12) (m : Bool) (x : BitVec 3) (s : State) : Out :=
  vbin (.vcltu d a b m x) d a b m x setAny s fun e _ A B => maskLane e.w (decide (A < B))

/-- VCLEU: all ones where A ≤ B, unsigned (R217). -/
def execVcleu (d a b : BitVec 12) (m : Bool) (x : BitVec 3) (s : State) : Out :=
  vbin (.vcleu d a b m x) d a b m x setAny s fun e _ A B => maskLane e.w (decide (A ≤ B))

/-- VSEL: A where the lane of d is not 0, else B (R217). -/
def execVsel (d a b : BitVec 12) (m : Bool) (x : BitVec 3) (s : State) : Out :=
  vtri (.vsel d a b m x) d a b m x setAny s fun _ _ A B D => (if D ≠ 0 then A else B, 0)

/-- A lane extended to twice its width, by the type (R220). -/
def extendLane (e : VEnv) (b : Nat) : Int := intOf e.t b

/-- VMAD: d + A × B at twice the width (R220). -/
def execVmad (d a b : BitVec 12) (m : Bool) (x : BitVec 3) (s : State) : Out :=
  vword s { vspec (.vmad d a b m x) d a b m x .wn .v .v setI32 with readD := fun _ => true } fun e ga gb gd =>
    let ds := elems (2 * e.w) gd
    (pack (2 * e.w) ((e.lanes2 ga gb).map fun l =>
      ((ds.getD l.1 0 + extendLane e l.2.1 * extendLane e l.2.2) % (2 : Int) ^ (2 * e.w)).toNat) 2, 0)

/-- VUNPK: the lanes extended to twice their width (R220). -/
def execVunpk (d a b : BitVec 12) (m : Bool) (x : BitVec 3) (s : State) : Out :=
  vword s (vspec (.vunpk d a b m x) d a b m x .w .v .none setI32) fun e ga _ _ =>
    (pack (2 * e.w) ((e.lanes2 ga ga).map fun l => (extendLane e l.2.1 % (2 : Int) ^ (2 * e.w)).toNat) 2, 0)

/-- VPACK: the low halves of the wide lanes of a, then of b (R220). -/
def execVpack (d a b : BitVec 12) (m : Bool) (x : BitVec 3) (s : State) : Out :=
  vword s (vspec (.vpack d a b m x) d a b m x .v .v .v setI32) fun e ga gb _ =>
    (pack e.w ((elems (2 * e.w) ga ++ elems (2 * e.w) gb).map fun y => y % 2 ^ e.w) 1, 0)

end Sys2Proof.Machine
end

