-- ==== Sys2Proof/Machine/Dispatch.lean ====
section
/-! DEFINITION. One arm per constructor of Instr: a direct call of its meaning. -/

namespace Sys2Proof.Machine

/-- The meaning of every instruction word and of every step of the device. -/
def exec (i : Instr) (s : State) : Host.Outcome State Fault Refusal :=
  match i with
  | .add rd ra rb => Sys2Proof.Machine.execAdd rd ra rb s
  | .sub rd ra rb => Sys2Proof.Machine.execSub rd ra rb s
  | .and rd ra rb => Sys2Proof.Machine.execAnd rd ra rb s
  | .or rd ra rb => Sys2Proof.Machine.execOr rd ra rb s
  | .xor rd ra rb => Sys2Proof.Machine.execXor rd ra rb s
  | .andn rd ra rb => Sys2Proof.Machine.execAndn rd ra rb s
  | .shl rd ra rb => Sys2Proof.Machine.execShl rd ra rb s
  | .shr rd ra rb => Sys2Proof.Machine.execShr rd ra rb s
  | .sra rd ra rb => Sys2Proof.Machine.execSra rd ra rb s
  | .rol rd ra rb => Sys2Proof.Machine.execRol rd ra rb s
  | .ror rd ra rb => Sys2Proof.Machine.execRor rd ra rb s
  | .min rd ra rb => Sys2Proof.Machine.execMin rd ra rb s
  | .max rd ra rb => Sys2Proof.Machine.execMax rd ra rb s
  | .minu rd ra rb => Sys2Proof.Machine.execMinu rd ra rb s
  | .maxu rd ra rb => Sys2Proof.Machine.execMaxu rd ra rb s
  | .seq rd ra rb => Sys2Proof.Machine.execSeq rd ra rb s
  | .sne rd ra rb => Sys2Proof.Machine.execSne rd ra rb s
  | .slt rd ra rb => Sys2Proof.Machine.execSlt rd ra rb s
  | .sltu rd ra rb => Sys2Proof.Machine.execSltu rd ra rb s
  | .mul rd ra rb => Sys2Proof.Machine.execMul rd ra rb s
  | .mulh rd ra rb => Sys2Proof.Machine.execMulh rd ra rb s
  | .mulhu rd ra rb => Sys2Proof.Machine.execMulhu rd ra rb s
  | .div rd ra rb => Sys2Proof.Machine.execDiv rd ra rb s
  | .divu rd ra rb => Sys2Proof.Machine.execDivu rd ra rb s
  | .rem rd ra rb => Sys2Proof.Machine.execRem rd ra rb s
  | .remu rd ra rb => Sys2Proof.Machine.execRemu rd ra rb s
  | .clz rd ra => Sys2Proof.Machine.execClz rd ra s
  | .ctz rd ra => Sys2Proof.Machine.execCtz rd ra s
  | .popc rd ra => Sys2Proof.Machine.execPopc rd ra s
  | .sextb rd ra => Sys2Proof.Machine.execSextb rd ra s
  | .sexth rd ra => Sys2Proof.Machine.execSexth rd ra s
  | .sextw rd ra => Sys2Proof.Machine.execSextw rd ra s
  | .zextw rd ra => Sys2Proof.Machine.execZextw rd ra s
  | .bswap rd ra => Sys2Proof.Machine.execBswap rd ra s
  | .addi rd ra imm => Sys2Proof.Machine.execAddi rd ra imm s
  | .andi rd ra imm => Sys2Proof.Machine.execAndi rd ra imm s
  | .ori rd ra imm => Sys2Proof.Machine.execOri rd ra imm s
  | .xori rd ra imm => Sys2Proof.Machine.execXori rd ra imm s
  | .shli rd ra sh => Sys2Proof.Machine.execShli rd ra sh s
  | .shri rd ra sh => Sys2Proof.Machine.execShri rd ra sh s
  | .srai rd ra sh => Sys2Proof.Machine.execSrai rd ra sh s
  | .slti rd ra imm => Sys2Proof.Machine.execSlti rd ra imm s
  | .sltui rd ra imm => Sys2Proof.Machine.execSltui rd ra imm s
  | .muli rd ra imm => Sys2Proof.Machine.execMuli rd ra imm s
  | .li rd imm => Sys2Proof.Machine.execLi rd imm s
  | .liU rd imm => Sys2Proof.Machine.execLiU rd imm s
  | .lih rd imm => Sys2Proof.Machine.execLih rd imm s
  | .sel rd ra rb => Sys2Proof.Machine.execSel rd ra rb s
  | .beq ra rb off => Sys2Proof.Machine.execBeq ra rb off s
  | .bne ra rb off => Sys2Proof.Machine.execBne ra rb off s
  | .blt ra rb off => Sys2Proof.Machine.execBlt ra rb off s
  | .bge ra rb off => Sys2Proof.Machine.execBge ra rb off s
  | .bltu ra rb off => Sys2Proof.Machine.execBltu ra rb off s
  | .bgeu ra rb off => Sys2Proof.Machine.execBgeu ra rb off s
  | .bz ra off => Sys2Proof.Machine.execBz ra off s
  | .bnz ra off => Sys2Proof.Machine.execBnz ra off s
  | .j off => Sys2Proof.Machine.execJ off s
  | .jr ra => Sys2Proof.Machine.execJr ra s
  | .call off => Sys2Proof.Machine.execCall off s
  | .callr ra => Sys2Proof.Machine.execCallr ra s
  | .spec ra off => Sys2Proof.Machine.execSpec ra off s
  | .rndx rd ra rb site => Sys2Proof.Machine.execRndx rd ra rb site s
  | .csrr rd csr => Sys2Proof.Machine.execCsrr rd csr s
  | .csrw rd ra csr => Sys2Proof.Machine.execCsrw rd ra csr s
  | .csrs rd ra csr => Sys2Proof.Machine.execCsrs rd ra csr s
  | .csrc rd ra csr => Sys2Proof.Machine.execCsrc rd ra csr s
  | .ldb rd ra ord scope off => Sys2Proof.Machine.execLdb rd ra ord scope off s
  | .ldbu rd ra ord scope off => Sys2Proof.Machine.execLdbu rd ra ord scope off s
  | .ldh rd ra ord scope off => Sys2Proof.Machine.execLdh rd ra ord scope off s
  | .ldhu rd ra ord scope off => Sys2Proof.Machine.execLdhu rd ra ord scope off s
  | .ldw rd ra ord scope off => Sys2Proof.Machine.execLdw rd ra ord scope off s
  | .ldwu rd ra ord scope off => Sys2Proof.Machine.execLdwu rd ra ord scope off s
  | .ldd rd ra ord scope off => Sys2Proof.Machine.execLdd rd ra ord scope off s
  | .stb rd ra ord scope off => Sys2Proof.Machine.execStb rd ra ord scope off s
  | .sth rd ra ord scope off => Sys2Proof.Machine.execSth rd ra ord scope off s
  | .stw rd ra ord scope off => Sys2Proof.Machine.execStw rd ra ord scope off s
  | .std rd ra ord scope off => Sys2Proof.Machine.execStd rd ra ord scope off s
  | .amadd rd ra rb ord scope dw => Sys2Proof.Machine.execAmadd rd ra rb ord scope dw s
  | .amand rd ra rb ord scope dw => Sys2Proof.Machine.execAmand rd ra rb ord scope dw s
  | .amor rd ra rb ord scope dw => Sys2Proof.Machine.execAmor rd ra rb ord scope dw s
  | .amxor rd ra rb ord scope dw => Sys2Proof.Machine.execAmxor rd ra rb ord scope dw s
  | .ammin rd ra rb ord scope dw => Sys2Proof.Machine.execAmmin rd ra rb ord scope dw s
  | .ammax rd ra rb ord scope dw => Sys2Proof.Machine.execAmmax rd ra rb ord scope dw s
  | .amminu rd ra rb ord scope dw => Sys2Proof.Machine.execAmminu rd ra rb ord scope dw s
  | .ammaxu rd ra rb ord scope dw => Sys2Proof.Machine.execAmmaxu rd ra rb ord scope dw s
  | .amswap rd ra rb ord scope dw => Sys2Proof.Machine.execAmswap rd ra rb ord scope dw s
  | .cas rd ra rb ord scope dw => Sys2Proof.Machine.execCas rd ra rb ord scope dw s
  | .fence ord scope => Sys2Proof.Machine.execFence ord scope s
  | .publish rd ra => Sys2Proof.Machine.execPublish rd ra s
  | .cvtaTo rd ra ap => Sys2Proof.Machine.execCvtaTo rd ra ap s
  | .cvtaFrom rd ra ap => Sys2Proof.Machine.execCvtaFrom rd ra ap s
  | .aptest rd ra ap => Sys2Proof.Machine.execAptest rd ra ap s
  | .setview rd ra mask => Sys2Proof.Machine.execSetview rd ra mask s
  | .seta ad ra => Sys2Proof.Machine.execSeta ad ra s
  | .popv rd q => Sys2Proof.Machine.execPopv rd q s
  | .pushv ra rb q => Sys2Proof.Machine.execPushv ra rb q s
  | .barinit rd ra remote expect bar => Sys2Proof.Machine.execBarinit rd ra remote expect bar s
  | .bararv rd ra remote bar => Sys2Proof.Machine.execBararv rd ra remote bar s
  | .barwait rd ra remote bar => Sys2Proof.Machine.execBarwait rd ra remote bar s
  | .bararw rd ra remote bar => Sys2Proof.Machine.execBararw rd ra remote bar s
  | .tbinit rd ra off => Sys2Proof.Machine.execTbinit rd ra off s
  | .tbexp rd ra off => Sys2Proof.Machine.execTbexp rd ra off s
  | .tbarv rd ra off => Sys2Proof.Machine.execTbarv rd ra off s
  | .tbwait rd ra off => Sys2Proof.Machine.execTbwait rd ra off s
  | .spawn ra => Sys2Proof.Machine.execSpawn ra s
  | .spawnNb rd ra => Sys2Proof.Machine.execSpawnNb rd ra s
  | .enqr ra rb => Sys2Proof.Machine.execEnqr ra rb s
  | .inbox rd ra => Sys2Proof.Machine.execInbox rd ra s
  | .inboxNb rd ra => Sys2Proof.Machine.execInboxNb rd ra s
  | .yield rd => Sys2Proof.Machine.execYield rd s
  | .wfe rd ra => Sys2Proof.Machine.execWfe rd ra s
  | .trap imm => Sys2Proof.Machine.execTrap imm s
  | .leaseNb rd => Sys2Proof.Machine.execLeaseNb rd s
  | .ald dstq aa step rpt size pop push => Sys2Proof.Machine.execAld dstq aa step rpt size pop push s
  | .ast dstq aa step rpt size pop push => Sys2Proof.Machine.execAst dstq aa step rpt size pop push s
  | .arld dstq aa step rpt size pop push => Sys2Proof.Machine.execArld dstq aa step rpt size pop push s
  | .arst dstq aa step rpt size pop push => Sys2Proof.Machine.execArst dstq aa step rpt size pop push s
  | .agth dstq aa src idx it shift rpt size pop push => Sys2Proof.Machine.execAgth dstq aa src idx it shift rpt size pop push s
  | .asct dstq aa src idx it shift rpt size pop push => Sys2Proof.Machine.execAsct dstq aa src idx it shift rpt size pop push s
  | .apart c aa keyq kt rpt size pop push => Sys2Proof.Machine.execApart c aa keyq kt rpt size pop push s
  | .aadd ad aa ab => Sys2Proof.Machine.execAadd ad aa ab s
  | .asub ad aa ab => Sys2Proof.Machine.execAsub ad aa ab s
  | .aand ad aa ab => Sys2Proof.Machine.execAand ad aa ab s
  | .aor ad aa ab => Sys2Proof.Machine.execAor ad aa ab s
  | .axor ad aa ab => Sys2Proof.Machine.execAxor ad aa ab s
  | .ashl ad aa ab => Sys2Proof.Machine.execAshl ad aa ab s
  | .ashr ad aa ab => Sys2Proof.Machine.execAshr ad aa ab s
  | .amul ad aa ab => Sys2Proof.Machine.execAmul ad aa ab s
  | .amax ad aa ab => Sys2Proof.Machine.execAmax ad aa ab s
  | .aaddi ad aa imm => Sys2Proof.Machine.execAaddi ad aa imm s
  | .ali ad imm => Sys2Proof.Machine.execAli ad imm s
  | .aflush q => Sys2Proof.Machine.execAflush q s
  | .amcast q aa ab grp imm => Sys2Proof.Machine.execAmcast q aa ab grp imm s
  | .vmode typ wt wm ftz rnd => Sys2Proof.Machine.execVmode typ wt wm ftz rnd s
  | .vmovi d a imm => Sys2Proof.Machine.execVmovi d a imm s
  | .vadd d a b m x => Sys2Proof.Machine.execVadd d a b m x s
  | .vsub d a b m x => Sys2Proof.Machine.execVsub d a b m x s
  | .vmul d a b m x => Sys2Proof.Machine.execVmul d a b m x s
  | .vmulh d a b m x => Sys2Proof.Machine.execVmulh d a b m x s
  | .vmad d a b m x => Sys2Proof.Machine.execVmad d a b m x s
  | .vand d a b m x => Sys2Proof.Machine.execVand d a b m x s
  | .vor d a b m x => Sys2Proof.Machine.execVor d a b m x s
  | .vxor d a b m x => Sys2Proof.Machine.execVxor d a b m x s
  | .vandn d a b m x => Sys2Proof.Machine.execVandn d a b m x s
  | .vshl d a b m x => Sys2Proof.Machine.execVshl d a b m x s
  | .vshr d a b m x => Sys2Proof.Machine.execVshr d a b m x s
  | .vsra d a b m x => Sys2Proof.Machine.execVsra d a b m x s
  | .vmin d a b m x => Sys2Proof.Machine.execVmin d a b m x s
  | .vmax d a b m x => Sys2Proof.Machine.execVmax d a b m x s
  | .vadds d a b m x => Sys2Proof.Machine.execVadds d a b m x s
  | .vsubs d a b m x => Sys2Proof.Machine.execVsubs d a b m x s
  | .vceq d a b m x => Sys2Proof.Machine.execVceq d a b m x s
  | .vcne d a b m x => Sys2Proof.Machine.execVcne d a b m x s
  | .vclt d a b m x => Sys2Proof.Machine.execVclt d a b m x s
  | .vcle d a b m x => Sys2Proof.Machine.execVcle d a b m x s
  | .vcltu d a b m x => Sys2Proof.Machine.execVcltu d a b m x s
  | .vcleu d a b m x => Sys2Proof.Machine.execVcleu d a b m x s
  | .vsel d a b m x => Sys2Proof.Machine.execVsel d a b m x s
  | .vpack d a b m x => Sys2Proof.Machine.execVpack d a b m x s
  | .vfadd d a b m x => Sys2Proof.Machine.execVfadd d a b m x s
  | .vfsub d a b m x => Sys2Proof.Machine.execVfsub d a b m x s
  | .vfmul d a b m x => Sys2Proof.Machine.execVfmul d a b m x s
  | .vfma d a b m x => Sys2Proof.Machine.execVfma d a b m x s
  | .vfms d a b m x => Sys2Proof.Machine.execVfms d a b m x s
  | .vfnma d a b m x => Sys2Proof.Machine.execVfnma d a b m x s
  | .vfmin d a b m x => Sys2Proof.Machine.execVfmin d a b m x s
  | .vfmax d a b m x => Sys2Proof.Machine.execVfmax d a b m x s
  | .vfscl d a b m x => Sys2Proof.Machine.execVfscl d a b m x s
  | .vfceq d a b m x => Sys2Proof.Machine.execVfceq d a b m x s
  | .vfclt d a b m x => Sys2Proof.Machine.execVfclt d a b m x s
  | .vfcle d a b m x => Sys2Proof.Machine.execVfcle d a b m x s
  | .vcvtsr d a b m x => Sys2Proof.Machine.execVcvtsr d a b m x s
  | .vperm d a b m x => Sys2Proof.Machine.execVperm d a b m x s
  | .vabs d a b m x => Sys2Proof.Machine.execVabs d a b m x s
  | .vneg d a b m x => Sys2Proof.Machine.execVneg d a b m x s
  | .vcnt d a b m x => Sys2Proof.Machine.execVcnt d a b m x s
  | .vmov d a b m x => Sys2Proof.Machine.execVmov d a b m x s
  | .vinv d a b m x => Sys2Proof.Machine.execVinv d a b m x s
  | .vunpk d a b m x => Sys2Proof.Machine.execVunpk d a b m x s
  | .vfabs d a b m x => Sys2Proof.Machine.execVfabs d a b m x s
  | .vfneg d a b m x => Sys2Proof.Machine.execVfneg d a b m x s
  | .vrcpa d a b m x => Sys2Proof.Machine.execVrcpa d a b m x s
  | .vrsqa d a b m x => Sys2Proof.Machine.execVrsqa d a b m x s
  | .vexp2a d a b m x => Sys2Proof.Machine.execVexp2a d a b m x s
  | .vlog2a d a b m x => Sys2Proof.Machine.execVlog2a d a b m x s
  | .vfclass d a b m x => Sys2Proof.Machine.execVfclass d a b m x s
  | .vqnt d a b m x => Sys2Proof.Machine.execVqnt d a b m x s
  | .vdqnt d a b m x => Sys2Proof.Machine.execVdqnt d a b m x s
  | .vmxq d a b m x => Sys2Proof.Machine.execVmxq d a b m x s
  | .vmxd d a b m x => Sys2Proof.Machine.execVmxd d a b m x s
  | .vrsum d a b m x => Sys2Proof.Machine.execVrsum d a b m x s
  | .vrmax d a b m x => Sys2Proof.Machine.execVrmax d a b m x s
  | .vrmin d a b m x => Sys2Proof.Machine.execVrmin d a b m x s
  | .vtrans d a b m x => Sys2Proof.Machine.execVtrans d a b m x s
  | .viota d a b m x => Sys2Proof.Machine.execViota d a b m x s
  | .vzero d a b m x => Sys2Proof.Machine.execVzero d a b m x s
  | .vclrf d a b m x => Sys2Proof.Machine.execVclrf d a b m x s
  | .vcvt d a p src m x => Sys2Proof.Machine.execVcvt d a p src m x s
  | .vslide d a amt m x => Sys2Proof.Machine.execVslide d a amt m x s
  | .vbcast d a lane m x => Sys2Proof.Machine.execVbcast d a lane m x s
  | .vext d a lane m x => Sys2Proof.Machine.execVext d a lane m x s
  | .vins d a lane m x => Sys2Proof.Machine.execVins d a lane m x s
  | .vrng d a site m x => Sys2Proof.Machine.execVrng d a site m x s
  | .mfmt ra pop push => Sys2Proof.Machine.execMfmt ra pop push s
  | .mma ra rb acc m n k ta tb z pop push => Sys2Proof.Machine.execMma ra rb acc m n k ta tb z pop push s
  | .mmas ra rb acc m n k ta tb z pop push => Sys2Proof.Machine.execMmas ra rb acc m n k ta tb z pop push s
  | .mresc ra acc m n pop push => Sys2Proof.Machine.execMresc ra acc m n pop push s
  | .mzero ra acc m n side pop push => Sys2Proof.Machine.execMzero ra acc m n side pop push s
  | .mldac ra acc m n pop push => Sys2Proof.Machine.execMldac ra acc m n pop push s
  | .mstac ra acc m n close pop push => Sys2Proof.Machine.execMstac ra acc m n close pop push s
  | .mstsm ra acc m n close pop push => Sys2Proof.Machine.execMstsm ra acc m n close pop push s
  | .mnorm ra acc m n other pop push => Sys2Proof.Machine.execMnorm ra acc m n other pop push s
  | .copy rd ra cm flags => Sys2Proof.Machine.execCopy rd ra cm flags s
  | .tload rd ra rb rc cm flags => Sys2Proof.Machine.execTload rd ra rb rc cm flags s
  | .tstore rd ra rb rc cm flags => Sys2Proof.Machine.execTstore rd ra rb rc cm flags s
  | .tmcast rd ra rb rc cm flags => Sys2Proof.Machine.execTmcast rd ra rb rc cm flags s
  | .pstore rd ra rb rc cm flags => Sys2Proof.Machine.execPstore rd ra rb rc cm flags s
  | .tpark rd ra rb rc cm flags => Sys2Proof.Machine.execTpark rd ra rb rc cm flags s
  | .trepl rd ra rb rc cm flags => Sys2Proof.Machine.execTrepl rd ra rb rc cm flags s
  | .reqnt rd ra rb rc cm flags => Sys2Proof.Machine.execReqnt rd ra rb rc cm flags s
  | .tseal rd ra rb reg => Sys2Proof.Machine.execTseal rd ra rb reg s
  | .tsealCb rd ra rb reg => Sys2Proof.Machine.execTsealCb rd ra rb reg s
  | .tunpark rd ra rb cm flags => Sys2Proof.Machine.execTunpark rd ra rb cm flags s
  | .tdrop rd ra rb cm flags => Sys2Proof.Machine.execTdrop rd ra rb cm flags s
  | .hjoin rd ra rb => Sys2Proof.Machine.execHjoin rd ra rb s
  | .hleave rd ra => Sys2Proof.Machine.execHleave rd ra s
  | .hcontrib rd ra rb off => Sys2Proof.Machine.execHcontrib rd ra rb off s
  | .hwait rd ra rb noimg off => Sys2Proof.Machine.execHwait rd ra rb noimg off s
  | .hstatRoster rd ra rb => Sys2Proof.Machine.execHstatRoster rd ra rb s
  | .hstatGroup rd ra rb => Sys2Proof.Machine.execHstatGroup rd ra rb s
  | .hstatMember rd ra rb => Sys2Proof.Machine.execHstatMember rd ra rb s
  | .hsync rd ra => Sys2Proof.Machine.execHsync rd ra s
  | .ropen rd ra rb h save ht rowoff => Sys2Proof.Machine.execRopen rd ra rb h save ht rowoff s
  | .ropenCell rd ra h save ht => Sys2Proof.Machine.execRopenCell rd ra h save ht s
  | .rrel rd h => Sys2Proof.Machine.execRrel rd h s
  | .rrenew rd h ht => Sys2Proof.Machine.execRrenew rd h ht s
  | .rstat rd h => Sys2Proof.Machine.execRstat rd h s
  | .loop level cnt r off => Sys2Proof.Machine.execLoop level cnt r off s
  | .loopi level cnt r off => Sys2Proof.Machine.execLoopi level cnt r off s
  | .loopb level cnt drain off => Sys2Proof.Machine.execLoopb level cnt drain off s
  | .tkpush k => Sys2Proof.Machine.execTkpush k s
  | .tkpop k => Sys2Proof.Machine.execTkpop k s
  | .sj sense p off => Sys2Proof.Machine.execSj sense p off s
  | .prset mask vals => Sys2Proof.Machine.execPrset mask vals s
  | .ret => Sys2Proof.Machine.execRet s
  | .specend => Sys2Proof.Machine.execSpecend s
  | .specx => Sys2Proof.Machine.execSpecx s
  | .halt => Sys2Proof.Machine.execHalt s
  | .brk => Sys2Proof.Machine.execBrk s
  | .rte => Sys2Proof.Machine.execRte s
  | .rteSkip => Sys2Proof.Machine.execRteSkip s
  | .lease => Sys2Proof.Machine.execLease s
  | .unlease => Sys2Proof.Machine.execUnlease s
  | .nop => Sys2Proof.Machine.execNop s
  | .shalt => Sys2Proof.Machine.execShalt s
  | .specResolve => Sys2Proof.Machine.execSpecResolve s
  | .loadReturn => Sys2Proof.Machine.execLoadReturn s
  | .storeAck => Sys2Proof.Machine.execStoreAck s
  | .shardRetire => Sys2Proof.Machine.execShardRetire s
  | .wfeTimeout => Sys2Proof.Machine.execWfeTimeout s
  | .trapEntry => Sys2Proof.Machine.execTrapEntry s
  | .leaseGrant => Sys2Proof.Machine.execLeaseGrant s
  | .leaseRunBound => Sys2Proof.Machine.execLeaseRunBound s
  | .asBeat => Sys2Proof.Machine.execAsBeat s
  | .mCommandStart => Sys2Proof.Machine.execMCommandStart s
  | .mCommandComplete => Sys2Proof.Machine.execMCommandComplete s
  | .xCommandStart => Sys2Proof.Machine.execXCommandStart s
  | .copyGroupDone => Sys2Proof.Machine.execCopyGroupDone s
  | .xCommandComplete => Sys2Proof.Machine.execXCommandComplete s
  | .harvestContribution => Sys2Proof.Machine.execHarvestContribution s
  | .roundFoldDone => Sys2Proof.Machine.execRoundFoldDone s
  | .rowOpened => Sys2Proof.Machine.execRowOpened s
  | .holdExpiry => Sys2Proof.Machine.execHoldExpiry s
  | .holdRevoke => Sys2Proof.Machine.execHoldRevoke s
  | .queueAccessResume => Sys2Proof.Machine.execQueueAccessResume s
  | .fullBitWaitResume => Sys2Proof.Machine.execFullBitWaitResume s
  | .packetSubmit => Sys2Proof.Machine.execPacketSubmit s
  | .packetBatch => Sys2Proof.Machine.execPacketBatch s
  | .packetRelease => Sys2Proof.Machine.execPacketRelease s
  | .packetMark => Sys2Proof.Machine.execPacketMark s
  | .queueDoorbell => Sys2Proof.Machine.execQueueDoorbell s
  | .taskReady => Sys2Proof.Machine.execTaskReady s
  | .shardDispatch => Sys2Proof.Machine.execShardDispatch s
  | .taskComplete => Sys2Proof.Machine.execTaskComplete s
  | .sealReport => Sys2Proof.Machine.execSealReport s
  | .replicaDone => Sys2Proof.Machine.execReplicaDone s
  | .parkedFetchDone => Sys2Proof.Machine.execParkedFetchDone s
  | .ageingBoundary => Sys2Proof.Machine.execAgeingBoundary s
  | .preempt => Sys2Proof.Machine.execPreempt s
  | .shardPark => Sys2Proof.Machine.execShardPark s
  | .shardDiscard => Sys2Proof.Machine.execShardDiscard s
  | .shardResume => Sys2Proof.Machine.execShardResume s
  | .tlbWalkDone => Sys2Proof.Machine.execTlbWalkDone s
  | .refreshDue => Sys2Proof.Machine.execRefreshDue s
  | .patrolScrub => Sys2Proof.Machine.execPatrolScrub s
  | .calendarPeriod => Sys2Proof.Machine.execCalendarPeriod s
  | .errorDetected => Sys2Proof.Machine.execErrorDetected s
  | .retryOutcome => Sys2Proof.Machine.execRetryOutcome s
  | .errorRecord => Sys2Proof.Machine.execErrorRecord s
  | .heartbeatPeriod => Sys2Proof.Machine.execHeartbeatPeriod s
  | .dieLoss => Sys2Proof.Machine.execDieLoss s
  | .quadrantOutOfService => Sys2Proof.Machine.execQuadrantOutOfService s
  | .unitTestFail => Sys2Proof.Machine.execUnitTestFail s
  | .laneOutOfService => Sys2Proof.Machine.execLaneOutOfService s
  | .channelRetrain => Sys2Proof.Machine.execChannelRetrain s
  | .channelRetrainDone => Sys2Proof.Machine.execChannelRetrainDone s
  | .versionDestroyed => Sys2Proof.Machine.execVersionDestroyed s
  | .rebuild => Sys2Proof.Machine.execRebuild s
  | .shardLost => Sys2Proof.Machine.execShardLost s
  | .memberLost => Sys2Proof.Machine.execMemberLost s
  | .ctxActivate => Sys2Proof.Machine.execCtxActivate s
  | .ctxTeardown => Sys2Proof.Machine.execCtxTeardown s
  | .ctxPark => Sys2Proof.Machine.execCtxPark s
  | .ctxResume => Sys2Proof.Machine.execCtxResume s
  | .ctxHtab => Sys2Proof.Machine.execCtxHtab s
  | .ctxPub => Sys2Proof.Machine.execCtxPub s
  | .tlbInval => Sys2Proof.Machine.execTlbInval s
  | .shardParkCmd => Sys2Proof.Machine.execShardParkCmd s
  | .shardDiscardCmd => Sys2Proof.Machine.execShardDiscardCmd s
  | .shardResumeCmd => Sys2Proof.Machine.execShardResumeCmd s
  | .debug => Sys2Proof.Machine.execDebug s
  | .keyInstall => Sys2Proof.Machine.execKeyInstall s
  | .keyClear => Sys2Proof.Machine.execKeyClear s
  | .attest => Sys2Proof.Machine.execAttest s
  | .ckpt => Sys2Proof.Machine.execCkpt s
  | .ckptRestore => Sys2Proof.Machine.execCkptRestore s
  | .peerSet => Sys2Proof.Machine.execPeerSet s
  | .mailboxUnknown => Sys2Proof.Machine.execMailboxUnknown s
  | .devBoot => Sys2Proof.Machine.execDevBoot s
  | .bootVerifyDone => Sys2Proof.Machine.execBootVerifyDone s
  | .bootInitDone => Sys2Proof.Machine.execBootInitDone s
  | .powerOnReset => Sys2Proof.Machine.execPowerOnReset s
  | .registerWrite => Sys2Proof.Machine.execRegisterWrite s
  | .watchdogExpiry => Sys2Proof.Machine.execWatchdogExpiry s
  | .powerControl => Sys2Proof.Machine.execPowerControl s
  | .hostLinkDownTimeout => Sys2Proof.Machine.execHostLinkDownTimeout s
  | .hostBar2Read => Sys2Proof.Machine.execHostBar2Read s
  | .hostBar2Write => Sys2Proof.Machine.execHostBar2Write s
  | .hostCompletion => Sys2Proof.Machine.execHostCompletion s
  | .bilotStore => Sys2Proof.Machine.execBilotStore s
  | .bilotLoad => Sys2Proof.Machine.execBilotLoad s
  | .bilotAtomic => Sys2Proof.Machine.execBilotAtomic s
  | .bilotQappend => Sys2Proof.Machine.execBilotQappend s
  | .bilotHcontrib => Sys2Proof.Machine.execBilotHcontrib s
  | .bilotHresult => Sys2Proof.Machine.execBilotHresult s
  | .bilotTrepl => Sys2Proof.Machine.execBilotTrepl s
  | .bilotReply => Sys2Proof.Machine.execBilotReply s
  | .bilotReplyTimeout => Sys2Proof.Machine.execBilotReplyTimeout s
  | .bilotPortDown => Sys2Proof.Machine.execBilotPortDown s
  | .hostBar2Atomic => Sys2Proof.Machine.execHostBar2Atomic s
  | .hostLinkDown => Sys2Proof.Machine.execHostLinkDown s
  | .postedWriteLeftPort => Sys2Proof.Machine.execPostedWriteLeftPort s

end Sys2Proof.Machine
end

