-- ==== Sys2Proof/Machine/Run.lean ====
section
/-! DEFINITION. A stream's step: fetch, decode and execute one word, or one beat or repeat of a word. -/

namespace Sys2Proof.Machine

/-- The word that a stream executes next: the run-length word whose repeats run, which is not fetched again, or the word at its PC (R125, R134, R151). -/
def State.nextWord (s : State) (n : Nat) (c : Core) (sh : Shard) (σ : Strm) : Fetched :=
  match (if σ = .v then c.vrun else none) with
  | some w => match decode .v w with
    | .ok i => .word w i
    | .error e => .trap 1 (rejectTval w e)
  | none => s.fetch n sh σ (c.strm σ).pc

/-- The state in which a stream of a core executes a word: of one that was fetched, the lines that had to be read are charged, and are in the instruction cache (R81, R333). -/
def State.holding (s : State) (n : Nat) (c : Core) (sh : Shard) (σ : Strm) (w : BitVec 48) : State :=
  if σ = .v ∧ c.vrun.isSome then s.setCore n { c with ir := w }
  else (s.chargeFetched n c sh (c.strm σ).pc).setCore n (s.fetched c sh (c.strm σ).pc w)

/-- The stream moves: it fetches and decodes the word at its PC and executes it, or does the next beat or repeat of a word (R125, R134, R151, R198). It waits for the translation of its PC (R77), and it has stopped once the core's halt request line is up (R298). -/
def State.streamStep (s : State) (n : Nat) (σ : Strm) (choice : Nat) : Out :=
  match s.core? n with
  | none => .refused .noShard
  | some c =>
    match c.shard with
    | none => .refused .noShard
    | some sh =>
      if (c.strm σ).halted || (σ != .c && c.inh) || c.resuming.isSome || sh.halt != 0 then .refused .notEnabled
      else
        let s := { s with curCore := n, curStrm := σ, choice := choice }
        if σ = .a ∧ c.beat.isSome then exec .asBeat { s with args := { s.args with core := n } }
        else match s.nextWord n c sh σ with
          | .word w i => exec i (s.holding n c sh σ w)
          | .trap code tval => .next (s.trapWord σ c code tval)
          | .poison tval => s.settle σ c sh (.poison tval true)
          | .held => s.settle σ c sh (.wait s .translation)
          | .miss va => s.settle σ c sh (.wait (s.tlbMiss n 2 sh.ctx va) .translation)

end Sys2Proof.Machine
end

