-- ==== Sys2Proof/Machine/Auto.lean ====
section
/-! DEFINITION. The model's own order of moves when the agenda names none: every move that the module can make by itself, each tried in turn (notes/assumptions/1.md). -/

namespace Sys2Proof.Machine

/-- A step of the device with its parameters. -/
def Args.at (core : Nat) (strm : Strm) (idx a b : Nat) : Args :=
  { Args.none with
    core := core, strm := strm, idx := idx, a := a, b := b }

/-- Steps of a core that concern one of a numbered list. -/
def eventsOf (i : Instr) (core : Nat) (strm : Strm) (n : Nat) : List Move := (List.range n).map fun k => Move.event i (Args.at core strm k 0 0)

/-- Steps of a core, or of the device, that need no further parameter. -/
def plainEvents (core : Nat) (strm : Strm) (is : List Instr) : List Move := is.map fun i => Move.event i (Args.at core strm 0 0 0)

/-- Steps of the device that concern one of the keys of a table, given as parameter `a`. -/
def keyedEvents (i : Instr) (ks : List Nat) : List Move := ks.map fun k => Move.event i (Args.at 0 .c 0 k 0)

/-- What a stream of a core can do: its next word, the ends of its waits, and its accesses. -/
def Core.strmMoves (c : Core) (n : Nat) (σ : Strm) : List Move :=
  let k := (c.strm σ).flight.length
  List.flatten
    [[Move.stream n σ 0], plainEvents n σ [.trapEntry, .queueAccessResume, .fullBitWaitResume], eventsOf .loadReturn n σ k,
      eventsOf .storeAck n σ k, eventsOf .postedWriteLeftPort n σ k, eventsOf .hostCompletion n σ k]

/-- What a core that runs a shard can do. -/
def Core.moves (c : Core) (n : Nat) : List Move :=
  List.flatten
    [c.strmMoves n .c, c.strmMoves n .a, c.strmMoves n .v,
      plainEvents n .c [.specResolve, .mCommandStart, .mCommandComplete, .xCommandStart, .wfeTimeout, .shardPark, .shardDiscard, .shardRetire, .shardResume],
      eventsOf .copyGroupDone n .c c.xqueue.length, eventsOf .xCommandComplete n .c c.xqueue.length,
      eventsOf .rowOpened n .c 16, eventsOf .holdExpiry n .c 16]

/-- What a core can do; one in service that runs no shard takes a shard of its pool. -/
def coreMoves (e : Nat × Core) : List Move :=
  if e.2.shard.isSome then e.2.moves e.1 else if e.2.inService then plainEvents e.1 .c [.shardDispatch, .shardResume] else []

/-- The commands of the mailboxes (R342). -/
def commandEvents : List Instr :=
  [.mailboxUnknown, .ctxActivate, .ctxTeardown, .ctxPark, .ctxResume, .ctxHtab, .ctxPub, .tlbInval, .shardParkCmd, .shardDiscardCmd,
    .shardResumeCmd, .debug, .keyInstall, .keyClear, .attest, .ckpt, .ckptRestore, .peerSet]

/-- What the host-queue dispatcher can do with the queues of a context. -/
def queueMoves (c : Nat × Ctx) : List Move :=
  c.2.queues.flatMap fun q => [Instr.packetSubmit, .packetBatch, .packetRelease, .packetMark].map fun i => Move.event i (Args.at 0 .c 0 c.1 q.1)

/-- What a group's Harvest control can do. -/
def groupMoves (e : Nat × Group) : List Move :=
  List.flatten
    [(List.range e.2.inflight.length).map fun i => Move.event .harvestContribution (Args.at 0 .c i e.1 0),
      e.2.rounds.map fun r => Move.event .roundFoldDone (Args.at 0 .c 0 e.1 r.1),
      e.2.members.map fun m => Move.event .memberLost (Args.at 0 .c 0 e.1 m.1)]

/-- The walkers of a cluster (R77). -/
def walkMoves (e : Nat × Cluster) : List Move := (List.range (min 8 e.2.misses.length)).map fun i => Move.event .tlbWalkDone (Args.at 0 .c i e.1 0)

/-- What the Vigil of a die can do. -/
def vigilMoves (e : Nat × Almanac) : List Move := e.2.records.map fun r => Move.event .rebuild (Args.at 0 .c 0 e.1 r.1)

/-- What the scheduler, the Almanac, the Vigils, Harvest control and the management processor can do. -/
def State.deviceMoves (s : State) : List Move :=
  let tasks := Map.keys s.tasks
  List.flatten
    [plainEvents 0 .c commandEvents, plainEvents 0 .c [.bootVerifyDone], s.ctxs.flatMap queueMoves,
      keyedEvents .taskReady tasks, keyedEvents .taskComplete tasks, keyedEvents .preempt tasks,
      tasks.map fun k => Move.event .shardLost (Args.at 0 .c k 0 0),
      s.arrays.map fun a => Move.event .leaseGrant (Args.at 0 .c a.1 0 0),
      s.arrays.map fun a => Move.event .leaseRunBound (Args.at 0 .c a.1 0 0),
      s.pools.map fun p => Move.event .ageingBoundary (Args.at 0 .c p.1 0 0),
      s.ports.map fun p => Move.event .calendarPeriod (Args.at 0 .c p.1 0 0), s.clusters.flatMap walkMoves,
      eventsOf .storeAck 0 .v s.strays.length, eventsOf .postedWriteLeftPort 0 .v s.strays.length, eventsOf .hostCompletion 0 .v s.strays.length,
      eventsOf .sealReport 0 .c s.seals.length, eventsOf .replicaDone 0 .c s.replicas.length, eventsOf .parkedFetchDone 0 .c s.fetches.length,
      eventsOf .errorRecord 0 .c s.bus.length, eventsOf .bilotReplyTimeout 0 .c s.outstanding.length, eventsOf .hostLinkDownTimeout 0 .c 2,
      s.groups.flatMap groupMoves, s.almanac.flatMap vigilMoves]

/-- Every move that the module can make by itself, in the order in which they take their turns; time passes last. -/
def State.ownMoves (s : State) : List Move :=
  List.flatten [s.deviceMoves, s.cores.flatMap coreMoves, [Move.tick 1]]

/-- Clk at which something must happen before time goes on, unless the boot has failed: the clk behind the deadline of an open hold, the ends of lease runs, the boundaries of Calendar periods and, while the planes run, of ageing intervals, and this clk while a speculation has to resolve in it (R162, R291, R325, R334, R337, R391). -/
def State.deadlines (s : State) : List Nat :=
  if s.devState = 5 then [] else List.flatten
    [s.cores.flatMap fun e => if e.2.shard.isNone then [] else (e.2.holds.filter fun h => h.2.open).map fun h =>
        h.2.deadline + 1,
      (s.arrays.filter fun a => a.2.runOpen && a.2.holder.isSome).map fun a => a.2.runStart + 16384,
      s.ports.map fun p => p.2.start + 1500,
      if s.planes then s.pools.map fun p => p.2.last + p.2.age.toNat else [],
      if s.cores.any fun e => e.2.shard.isSome && e.2.resolvable then [s.now] else []]

/-- Time passes, up to the next deadline at most. -/
def State.elapse (s : State) (k : Nat) : State := s.pass (s.deadlines.foldl (fun k d => min k (d - s.now)) k)

/-- What a module whose boot has failed still meets: time, its registers as they are read, its host links, and the next power-on reset (R352). -/
def Move.outside : Move → Bool
  | .stream _ _ _ => false
  | .event i a => i == .powerOnReset || i == .hostLinkDown || (i == .registerWrite && a.flag)
  | .tick _ => true

/-- Carry out a move. In STATE 5 the device does nothing further until its next power-on reset (R352). -/
def State.move (s : State) (m : Move) : Out :=
  if s.devState = 5 ∧ ¬m.outside then .refused .notEnabled
  else match m with
  | .stream n σ choice => s.streamStep n σ choice
  | .event i a => exec i { s with args := a }
  | .tick k => .next (s.elapse k)

/-- The next move in turn; one that is not enabled, or whose stream only waits, costs the turn and nothing else. -/
def State.ownStep (s : State) : Out :=
  let ms := s.ownMoves
  let s := { s with rr := s.rr + 1 }
  match s.move (ms.getD (s.rr % ms.length) (Move.tick 1)) with
  | .refused _ => .next s
  | r => r

end Sys2Proof.Machine
end

