-- ==== Sys2Proof/Machine/Step.lean ====
section
/-! DEFINITION. One step of the module, and the module with a given instruction next to run. -/

namespace Sys2Proof.Machine

/-- One step: the head of the agenda moves; with an empty agenda the moves that the module can make by itself take turns (notes/assumptions/1.md). -/
def step (s : State) : Host.Outcome State Fault Refusal :=
  if s.deviceLost then .fault .deviceLost
  else match s.agenda with
    | m :: r => { s with agenda := r }.move m
    | [] => s.ownStep

/-! ### A given instruction next -/

/-- Where the word is placed: global address and device physical address, on die 0 (any 2-byte-aligned place would do). -/
def fetchPlace : Nat := 0x1000

/-- A translation of the first GiB of context 0, in which every use is permitted (R76). -/
def fetchTlb : Tlb := { ctx := 0, page := 0, bits := 30, entry := 0x79 }

/-- A running shard of a one-shard task whose kernel binary is the page of the word: all 2,048 granules (R144). -/
def fetchShard : Shard :=
  { uid := 0, ctx := 0, task := 0, taskId := 0, num := 0, nshard := 1, idx := [], ext := [], seed := 0, arg0 := 0, arg1 := 0, kdesc := 0,
    taskInfo := 0, ins := [], outs := [], code := BitVec.ofNat 64 fetchPlace, codeLen := 0x10000, hwm := 2048, pure := false,
    committed := false, cycleBase := 0, dispatchedAt := 0, eff := 0, keepsp := false, rebuild := false, nominal := 0, khash := 0, tree := 0,
    wrote := [], region := none, clock := 1, knows := [], halt := 0, reserve := 0 }

/-- The core that runs it: the stream stands at the word, its micro-TLB holds the word's page and its instruction cache not the word's line, and nothing keeps the stream from moving. -/
def Core.atWord (c : Core) (σ : Strm) : Core :=
  let sh : Shard := { (c.shard.getD fetchShard) with ctx := 0, code := BitVec.ofNat 64 fetchPlace, codeLen := 0x10000, halt := 0 }
  let c : Core :=
    { c with
      shard := some sh, beat := none, resuming := none, vrun := none, utlb := fetchTlb :: c.utlb.take 63
      icache := Map.del c.icache (fetchPlace / 64), cause := if σ = Strm.c then c.cause else setBit c.cause 15 false }
  c.updStrm σ fun t => { t with pc := BitVec.ofNat 64 fetchPlace, halted := false, wait := .none }

/-- The module with the word `w` stored where a stream of core 0 fetches its next word, and that stream next to move (notes/assumptions/10.md): the stream is the one whose opcodes the word's belongs to. -/
def State.withFetchWord (s : State) (nbits w : Nat) : State :=
  let word : BitVec 48 := BitVec.ofNat 48 (w % 2 ^ nbits)
  let σ := streamOfOpcode (fld word 40 8)
  { s with
    mem := Memory.setN s.mem fetchPlace (wordBytes word)
    poison := s.poison.filter fun l => l != fetchPlace / 64
    remap := Map.del s.remap 0
    ports := Map.upd s.ports 0 fun p => { p with inService := true, retraining := [] }
    devState := if s.devState = 5 then 4 else s.devState
    cores := Map.put s.cores 0 ((Map.lookD s.cores 0 .idle).atWord σ)
    deviceLost := false
    agenda := [.stream 0 σ 0] }

end Sys2Proof.Machine
end

