-- ==== Sys2Proof/Safety.lean ====
section
/-! DEFINITION. What counts as a safe run: no step is a fault or a refusal. -/

namespace Sys2Proof

/-- The next `k` steps of a state all answer a next state. -/
def Safe : Nat → Machine.State → Prop
  | 0, _ => True
  | k + 1, s => ∃ t, Machine.step s = .next t ∧ Safe k t

end Sys2Proof
end

