-- ==== Sys2Proof/Certificates/Slice0/Obligations.lean ====
section
/-! DEFINITION. The statements for the provers. `Runs` and the names below it say, once for all of them, when a word executes and what a completed word leaves. -/

namespace Sys2Proof.Claim

open Sys2Proof.Machine

/-! ### When a word executes, and what it leaves -/

/-- The word of a stream executes on a core that runs a shard; a speculation whose register has its value has been resolved (R161, R162). -/
def Runs (s : State) (σ : Strm) (c : Core) (sh : Shard) : Prop :=
  s.core? s.curCore = some c ∧ c.shard = some sh ∧ s.curStrm = σ ∧ (σ = .c → c.resolvable = false)

/-- The same, with no speculation open (R161). -/
def RunsPlain (s : State) (σ : Strm) (c : Core) (sh : Shard) : Prop :=
  Runs s σ c sh ∧ (σ = .c → c.spec = none)

/-- No scalar register of a list is pending (R153). -/
def Free (c : Core) (l : List (BitVec 6)) : Prop := ∀ r ∈ l, c.isPending r = false

/-- A core as a completed word leaves it: the stream stands behind the word, and one more instruction has executed (R67, R137). -/
def after (c : Core) (σ : Strm) : Core := c.updStrm σ fun t => (t.complete t.pc).count

/-- A core as a completed word with a taken branch leaves it (R129, R137). -/
def jumped (c : Core) (σ : Strm) (target : Word) : Core := c.updStrm σ fun t => (t.branch target).count

/-- The state with the current core replaced, and nothing else. -/
def on (s : State) (c : Core) : State := s.setCore s.curCore c

/-- A C-stream word has written a scalar register and completed. -/
def wrote (s : State) (c : Core) (rd : BitVec 6) (v : Word) : State := on s (after (c.setSreg rd v) .c)

/-- 1 or 0. -/
def oneIf (p : Prop) [Decidable p] : Word := if p then 1 else 0

/-- The bytes of memory are as before: DRAM, the scratchpads and the hosts' memory. -/
def SameMemory (s u : State) : Prop := ∀ x k, u.readTarget x k = s.readTarget x k

/-- The place of a byte: every host port but 0 is the second host's. -/
def place : Target → Target
  | .host p a => .host (min p 1) a
  | t => t

/-- Every byte outside `n` bytes at a target is as before. -/
def SameBut (s u : State) (t : Target) (n : Nat) : Prop := ∀ x, (∀ k < n, place x ≠ place (t.plus k)) → u.readTarget x 1 = s.readTarget x 1

/-- A core stands as given, and every other is as before, but for a speculation that a write has spoilt (R162). -/
def Touches (s u : State) (n : Nat) (d : Core) : Prop :=
  u.core? n = some d ∧ ∀ m, m ≠ n → (u.core? m).map (fun c => { c with spec := none }) = (s.core? m).map fun c => { c with spec := none }

/-- Outside the cores, only the race detector's metadata and its regions have changed (R104, R105). -/
def Quiet (s u : State) : Prop := u = { s with cores := u.cores, watched := u.watched, regions := u.regions, order := u.order }

/-- The same, and what an access to the device's memory has been charged at the ports it passes (R322, R333). -/
def Charged (s u : State) : Prop := u = { s with cores := u.cores, watched := u.watched, regions := u.regions, order := u.order, ports := u.ports }

/-- The request of a load or store word (R174). -/
def plainReq (va : Word) (size : Nat) (write : Bool) (ord scope : BitVec 2) : Req :=
  { va := va, size := size, write := write, data := ord == 0, atomic := false, ord := ord, scope := scope, fn := 0, deviceOnly := false }

/-- The request of an atomic word (R174). -/
def atomicReq (va : Word) (size fn : Nat) (ord scope : BitVec 2) : Req :=
  { va := va, size := size, write := true, data := false, atomic := true, ord := ord, scope := scope, fn := fn, deviceOnly := false }

/-- The C-stream behind a completed word, with an access more in flight. -/
def sent (t : Stream) (f : Access) : Stream := { (t.complete t.pc).count with flight := t.flight ++ [f] }

/-- A state whose C-stream word now writes a scalar register and completes. -/
def ends (u : State) (rd : BitVec 6) (v : Word) : State := u.updCore u.curCore fun d => after (d.setSreg rd v) .c

/-- A word has left a core as it was, but for the parts that its statement says by name: the address registers, the views, the modes and flags of the vector unit, the trap registers, the stack bounds and the instruction register are as before. -/
def Kept (c d : Core) : Prop :=
  d = { c with
    shard := d.shard, cs := d.cs, as := d.as, vs := d.vs, sregs := d.sregs, pending := d.pending, gran := d.gran, full := d.full, valid := d.valid, granPoison := d.granPoison
    queues := d.queues, tokens := d.tokens, barriers := d.barriers, holds := d.holds, inbox := d.inbox, acc0 := d.acc0, acc1 := d.acc1, fmts := d.fmts
    mqueue := d.mqueue, slotted := d.slotted, xqueue := d.xqueue, latches := d.latches, beat := d.beat, pad := d.pad, padPoison := d.padPoison
    dcache := d.dcache, joined := d.joined, heard := d.heard, fresh := d.fresh, mfailed := d.mfailed, barWait := d.barWait, lastRun := d.lastRun, keptFor := d.keptFor }

/-- Plain progress of the current core: it stands as `d`, whose C-stream has completed its word, whose scalar registers are given, and whose other registers are as before. -/
def Went (u : State) (c d : Core) (regs : Map Word) : Prop :=
  u.core? u.curCore = some d ∧ d.cs = (c.cs.complete c.cs.pc).count ∧ d.sregs = regs ∧ Kept c d ∧ d.gran = c.gran ∧ d.full = c.full ∧ d.valid = c.valid

/-! ### Words of the V-stream (R134, R211 to R214) -/

/-- A repeat of a V-stream word has its operands: its checks pass, or the word's first repeat has passed them, its predicate holds, and a, b and d (where it reads d) give their granules; `c'` is the core behind the pops. -/
def VReads (c : Core) (sh : Shard) (v : VSpec) (ga gb gd : List (BitVec 512)) (c' : Core) : Prop :=
  c.vcheckOnce sh.hwm v = none ∧ (v.m = true ∨ c.vs.p v.x.toNat = true) ∧ v.late c.vtype.toNat gb = false
  ∧ ∃ c1 c2, c.vread sh.hwm v.ak (stepSpec v.a c.vs.rep) = .ok (ga, c1) ∧ c1.vread sh.hwm v.bk (stepSpec v.b c.vs.rep) = .ok (gb, c2)
    ∧ if (v.readD c.vtype.toNat && !isQueue v.d) = true then c2.vread sh.hwm v.dk (stepSpec v.d c.vs.rep) = .ok (gd, c') else gd = [] ∧ c' = c2

/-- The V-stream behind one repeat of a word: the next repeat, or the next word (R134, R135). -/
def advanced (c : Core) (reps : Nat) : Core :=
  if c.vs.rep + 1 < reps then { c with vrun := some c.ir, vs := { c.vs with rep := c.vs.rep + 1, instret := c.vs.instret + 1, wait := .none } }
  else after { c with vrun := none, vs := { c.vs with rep := 0 } } .v

/-- The repeat writes granules to its destination, ORs flags into CR.FFLAGS, and changes nothing else but the race detector's regions; memory is as before. -/
def VWrites (s : State) (c : Core) (sh : Shard) (v : VSpec) (c' : Core) (out : List (BitVec 512)) (flags : Word) : Prop :=
  ∀ cls nameOnly d', v.dk.cls? = some (cls, nameOnly) → c'.dest sh.hwm cls (stepSpec v.d c.vs.rep) out = .ok d' →
    ∃ u d, exec v.self s = .next u ∧ Quiet s u ∧ SameMemory s u ∧ Touches s u s.curCore d
      ∧ { d with shard := d'.shard } = advanced { d' with fflags := d'.fflags ||| flags } v.reps

/-- The lanes of a granule at a width. -/
def Lanes (w : Nat) (r : BitVec 512) (f : Nat → Nat) : Prop := ∀ i < 512 / w, elem w r i = f i % 2 ^ w

/-- A lane-wise word: lane i of its result, and the flags it raises, are functions of i and lane i of a, b and d. -/
def LaneWord (s : State) (c : Core) (sh : Shard) (v : VSpec) (f : Nat → Nat → Nat → Nat → Nat × Word) : Prop :=
  ∀ ga gb gd c', VReads c sh v ga gb gd c' →
    let w := typeWidth c.vtype.toNat
    let lane (i : Nat) : Nat × Word := f i (elem w (ga.headD 0) i) (elem w (gb.headD 0) i) (elem w (gd.headD 0) i)
    ∃ r, Lanes w r (fun i => (lane i).1) ∧ VWrites s c sh v c' [r] ((List.range (512 / w)).foldl (fun fl i => fl ||| (lane i).2) 0)

end Sys2Proof.Claim

open Sys2Proof Sys2Proof.Machine Sys2Proof.Claim

/-! ### The C-stream's ALU (R153 to R157) -/

/-- The register ALU, SEL, and the frame that `wrote` says: rd takes the value the tables give, and the word completes. -/
def Sys2Proof.Claim.ScalarBinaryResults : Prop :=
  ∀ (s : State) (c : Core) (sh : Shard) (rd ra rb : BitVec 6),
    Runs s .c c sh → Free c [rd, ra, rb] →
    let A := c.sreg ra
    let B := c.sreg rb
    let k := B.toNat % 64
    ∀ e ∈ [
      (Instr.add rd ra rb, A + B), (.sub rd ra rb, A - B), (.and rd ra rb, A &&& B), (.or rd ra rb, A ||| B),
      (.xor rd ra rb, A ^^^ B), (.andn rd ra rb, A &&& ~~~B),
      (.shl rd ra rb, A <<< k), (.shr rd ra rb, A >>> k), (.sra rd ra rb, BitVec.ofInt 64 (A.toInt / 2 ^ k)),
      (.rol rd ra rb, A <<< k ||| A >>> (64 - k)), (.ror rd ra rb, A >>> k ||| A <<< (64 - k)),
      (.min rd ra rb, BitVec.ofInt 64 (min A.toInt B.toInt)), (.max rd ra rb, BitVec.ofInt 64 (max A.toInt B.toInt)),
      (.minu rd ra rb, BitVec.ofNat 64 (min A.toNat B.toNat)), (.maxu rd ra rb, BitVec.ofNat 64 (max A.toNat B.toNat)),
      (.seq rd ra rb, oneIf (A = B)), (.sne rd ra rb, oneIf (A ≠ B)),
      (.slt rd ra rb, oneIf (A.toInt < B.toInt)), (.sltu rd ra rb, oneIf (A.toNat < B.toNat)),
      (.mul rd ra rb, BitVec.ofNat 64 (A.toNat * B.toNat)),
      (.mulh rd ra rb, BitVec.ofInt 64 (A.toInt * B.toInt / 2 ^ 64)),
      (.mulhu rd ra rb, BitVec.ofNat 64 (A.toNat * B.toNat / 2 ^ 64)),
      (.div rd ra rb, if B = 0 then BitVec.allOnes 64 else BitVec.ofInt 64 (A.toInt.tdiv B.toInt)),
      (.divu rd ra rb, if B = 0 then BitVec.allOnes 64 else BitVec.ofNat 64 (A.toNat / B.toNat)),
      (.rem rd ra rb, if B = 0 then A else BitVec.ofInt 64 (A.toInt.tmod B.toInt)),
      (.remu rd ra rb, if B = 0 then A else BitVec.ofNat 64 (A.toNat % B.toNat)),
      (.sel rd ra rb, if c.sreg rd ≠ 0 then A else B)],
    exec e.1 s = .next (wrote s c rd e.2)

/-- The one-register operations of R154: counts, extensions and the byte swap. -/
def Sys2Proof.Claim.ScalarUnaryResults : Prop :=
  ∀ (s : State) (c : Core) (sh : Shard) (rd ra : BitVec 6),
    Runs s .c c sh → Free c [rd, ra] →
    let A := c.sreg ra
    let byte (k : Nat) := A.extractLsb' (8 * k) 8
    ∀ e ∈ [
      (Instr.clz rd ra, BitVec.ofNat 64 (((List.range 64).find? fun i => A.getLsbD (63 - i)).getD 64)),
      (.ctz rd ra, BitVec.ofNat 64 (((List.range 64).find? fun i => A.getLsbD i).getD 64)),
      (.popc rd ra, BitVec.ofNat 64 ((List.range 64).filter fun i => A.getLsbD i).length),
      (.sextb rd ra, (A.extractLsb' 0 8).signExtend 64), (.sexth rd ra, (A.extractLsb' 0 16).signExtend 64),
      (.sextw rd ra, (A.extractLsb' 0 32).signExtend 64), (.zextw rd ra, (A.extractLsb' 0 32).setWidth 64),
      (.bswap rd ra, byte 0 ++ byte 1 ++ byte 2 ++ byte 3 ++ byte 4 ++ byte 5 ++ byte 6 ++ byte 7)],
    exec e.1 s = .next (wrote s c rd e.2)

/-- The immediate ALU (R155) and the constants (R156). -/
def Obligations.ScalarImmediateResults : Prop :=
  ∀ (s : State) (c : Core) (sh : Shard) (rd ra : BitVec 6) (imm : BitVec 22) (k : BitVec 6) (imm32 : BitVec 32),
    Runs s .c c sh → Free c [rd, ra] →
    let A := c.sreg ra
    let I := imm.signExtend 64
    ∀ e ∈ [
      (Instr.addi rd ra imm, A + I), (.andi rd ra imm, A &&& I), (.ori rd ra imm, A ||| I), (.xori rd ra imm, A ^^^ I),
      (.shli rd ra k, A <<< k.toNat), (.shri rd ra k, A >>> k.toNat), (.srai rd ra k, BitVec.ofInt 64 (A.toInt / 2 ^ k.toNat)),
      (.slti rd ra imm, oneIf (A.toInt < imm.toInt)), (.sltui rd ra imm, oneIf (A.toNat < I.toNat)),
      (.muli rd ra imm, BitVec.ofInt 64 (A.toInt * imm.toInt)),
      (.li rd imm32, BitVec.ofInt 64 imm32.toInt), (.liU rd imm32, BitVec.ofNat 64 imm32.toNat),
      (.lih rd imm32, BitVec.ofNat 64 (imm32.toNat * 2 ^ 32 + (c.sreg rd).toNat % 2 ^ 32))],
    exec e.1 s = .next (wrote s c rd e.2)

/-- What `wrote` leaves as it was: the frame of every word whose completion is `wrote`. Scalar registers but rd, and s0 always; every other register file and status of the core; every other core; every memory; the rest of the module. -/
def Sys2Proof.Claim.ScalarWriteFrame : Prop :=
  ∀ (s : State) (c : Core) (rd : BitVec 6) (v : Word),
    s.core? s.curCore = some c →
    let t := wrote s c rd v
    (∃ d, t.core? s.curCore = some d
      ∧ (∀ r, d.sreg r = if r = 0 then 0 else if r = rd then v else c.sreg r)
      ∧ (∀ a, d.areg a = c.areg a) ∧ d.pending = c.pending ∧ d.gran = c.gran ∧ d.full = c.full ∧ d.valid = c.valid
      ∧ d.fflags = c.fflags ∧ d.rnd = c.rnd ∧ d.ftz = c.ftz ∧ d.acc0 = c.acc0 ∧ d.acc1 = c.acc1 ∧ d.tokens = c.tokens ∧ d.queues = c.queues
      ∧ d.cause = c.cause ∧ d.tval = c.tval ∧ d.epcC = c.epcC ∧ d.epcA = c.epcA ∧ d.epcV = c.epcV ∧ d.tvec = c.tvec ∧ d.scratch = c.scratch
      ∧ d.as = c.as ∧ d.vs = c.vs ∧ d.cs.halted = c.cs.halted ∧ d.cs.flight = c.cs.flight ∧ d.cs.instret = c.cs.instret + 1
      ∧ ∀ a, Memory.get d.pad a = Memory.get c.pad a)
    ∧ (∀ n, n ≠ s.curCore → t.core? n = s.core? n)
    ∧ (∀ a, Memory.get t.mem a = Memory.get s.mem a) ∧ t.host0 = s.host0 ∧ t.host1 = s.host1
    ∧ t.tasks = s.tasks ∧ t.versions = s.versions ∧ t.ctxs = s.ctxs ∧ t.sealed_ = s.sealed_ ∧ t.now = s.now

/-- Without an active loop slot a completed word stands 6 bytes behind, its slots and its predicate window as they were (R125, R137). -/
def Sys2Proof.Claim.CompletedWordFollowsOn : Prop :=
  ∀ (t : Stream), t.loops = [] →
    (t.complete t.pc).pc = t.pc + 6 ∧ (t.complete t.pc).loops = [] ∧ (t.complete t.pc).pred = t.pred

/-! ### Branches, jumps, calls (R158 to R160) -/

/-- The conditional branches, J and JR (R129, R158, R159): taken, not taken, and a taken branch to an invalid target. -/
def Obligations.BranchesAndJumps : Prop :=
  ∀ (s : State) (c : Core) (sh : Shard) (ra rb : BitVec 6) (off : BitVec 24) (off32 : BitVec 32),
    RunsPlain s .c c sh → Free c [ra, rb] →
    let A := c.sreg ra
    let B := c.sreg rb
    let near := c.cs.pc + 2 * off.signExtend 64
    ∀ e ∈ [
      (Instr.beq ra rb off, near, decide (A = B)), (.bne ra rb off, near, decide (A ≠ B)),
      (.blt ra rb off, near, decide (A.toInt < B.toInt)), (.bge ra rb off, near, decide (B.toInt ≤ A.toInt)),
      (.bltu ra rb off, near, decide (A.toNat < B.toNat)), (.bgeu ra rb off, near, decide (B.toNat ≤ A.toNat)),
      (.bz ra off, near, decide (A = 0)), (.bnz ra off, near, decide (A ≠ 0)),
      (.j off32, c.cs.pc + 2 * off32.signExtend 64, true), (.jr ra, A, true)],
    (e.2.2 = true → validPc sh e.2.1 = true → exec e.1 s = .next (on s (jumped c .c e.2.1)))
    ∧ (e.2.2 = true → validPc sh e.2.1 = false → exec e.1 s = .next (s.takeTrap s.curCore .c 1 e.2.1))
    ∧ (e.2.2 = false → exec e.1 s = .next (on s (after c .c)))

/-- CALL and CALLR push the return address at sp, add 8 to sp and set lk; RET pops it; each checks the stack bounds before the alignment (R160). The stack lies in the core's own scratchpad, so its bytes are what `readTarget` gives there; these are the accesses behind which no earlier one to the scratchpad is underway (R82). -/
def Obligations.CallsAndReturns : Prop :=
  ∀ (s : State) (c : Core) (sh : Shard) (ra : BitVec 6) (off : BitVec 32),
    RunsPlain s .c c sh → Free c [ra, 61, 62] → c.cs.acquiring = false →
    let sp := c.sreg 61
    let lo := c.stackBase.toNat % 2 ^ 18
    let hi := c.stackLimit.toNat % 2 ^ 18
    let near := c.cs.pc + 2 * off.signExtend 64
    (∀ e ∈ [(Instr.call off, near), (.callr ra, c.sreg ra)],
      (validPc sh e.2 = false → exec e.1 s = .next (s.takeTrap s.curCore .c 1 e.2))
      ∧ (validPc sh e.2 = true →
        (sp.toNat < lo ∨ hi < sp.toNat + 8 → exec e.1 s = .next (s.takeTrap s.curCore .c 4 sp))
        ∧ (lo ≤ sp.toNat → sp.toNat + 8 ≤ hi →
          (sp.toNat % 8 ≠ 0 → exec e.1 s = .next (s.takeTrap s.curCore .c 11 sp))
          ∧ (sp.toNat % 8 = 0 → sp.toNat < 0x40000 → c.direct s.curCore (.pad s.curCore sp.toNat) = true →
            s.raceAt sh (.pad s.curCore sp.toNat) 8 true true false = none →
            ∃ t d, exec e.1 s = .next t ∧ t.core? s.curCore = some d ∧ d.sreg 61 = sp + 8 ∧ d.sreg 62 = c.cs.pc + 6 ∧ d.cs.pc = e.2
              ∧ (∀ r, r ≠ 61 → r ≠ 62 → d.sreg r = c.sreg r)
              ∧ d.pad = Memory.setN c.pad sp.toNat (toBytes 8 (c.cs.pc + 6).toNat)
              ∧ Kept c d ∧ d.gran = c.gran ∧ SameBut s t (.pad s.curCore sp.toNat) 8 ∧ Touches s t s.curCore d ∧ Quiet s t))))
    ∧ ((sp.toNat < lo + 8 ∨ hi < sp.toNat → exec .ret s = .next (s.takeTrap s.curCore .c 4 sp))
      ∧ (lo + 8 ≤ sp.toNat → sp.toNat ≤ hi →
        (sp.toNat % 8 ≠ 0 → exec .ret s = .next (s.takeTrap s.curCore .c 11 sp))
        ∧ (sp.toNat % 8 = 0 → sp.toNat ≤ 0x40000 → c.direct s.curCore (.pad s.curCore (sp.toNat - 8)) = true → s.raceAt sh (.pad s.curCore (sp.toNat - 8)) 8 false true false = none →
          s.poisoned (.pad s.curCore (sp.toNat - 8)) 8 = false →
          let target := BitVec.ofNat 64 (ofBytes (s.readTarget (.pad s.curCore (sp.toNat - 8)) 8))
          (validPc sh target = false → exec .ret s = .next (s.takeTrap s.curCore .c 1 target))
          ∧ (validPc sh target = true →
            ∃ t d, exec .ret s = .next t ∧ t.core? s.curCore = some d ∧ d.sreg 61 = sp - 8 ∧ d.cs.pc = target
              ∧ (∀ r, r ≠ 61 → d.sreg r = c.sreg r) ∧ Kept c d ∧ d.gran = c.gran ∧ SameMemory s t ∧ ∀ n, n ≠ s.curCore → t.core? n = s.core? n))))

/-! ### Speculation (R161 to R164) -/

/-- A core behind a rollback to its checkpoint that goes on at the label (R162, R164). -/
def Sys2Proof.Claim.AtLabel (x : Spec) (d : Core) : Prop :=
  d.spec = none ∧ d.sregs = x.sregs ∧ d.pending = x.pending ∧ d.cs.pc = x.label ∧ d.cs.wait = .none

/-- SPEC, SPECEND, SPECX and SPEC_RESOLVE (R161, R162, R164). SPEC with its register there is a branch; with it pending it takes a checkpoint. SPECEND and SPECX without a speculation only complete; under one SPEC and SPECEND wait for its resolution, and SPECX rolls back to the label. A resolved register of 0 rolls back to the label; another value commits, or, if a watched line was written, starts again behind the SPEC word. -/
def Obligations.SpeculationWords : Prop :=
  ∀ (s : State) (c : Core) (sh : Shard),
    (∀ (ra : BitVec 6) (off : BitVec 24), RunsPlain s .c c sh →
      let label := c.cs.pc + 2 * off.signExtend 64
      (c.isPending ra = false → c.sreg ra = 0 → validPc sh label = true → exec (.spec ra off) s = .next (on s (jumped c .c label)))
      ∧ (c.isPending ra = false → c.sreg ra ≠ 0 → exec (.spec ra off) s = .next (on s (after c .c)))
      ∧ (ra ≠ 0 → c.pending.contains ra.toNat = true → Map.look c.fresh ra.toNat = none → ∃ x, exec (.spec ra off) s = .next (on s (after { c with spec := some x } .c))
          ∧ x.reg = ra.toNat ∧ x.label = label ∧ x.pc = c.cs.pc ∧ x.sregs = c.sregs ∧ x.pending = c.pending ∧ x.pred = c.cs.pred
          ∧ x.stores = [] ∧ x.loads = [] ∧ x.watched = [] ∧ x.spoilt = false)
      ∧ exec .specend s = .next (on s (after c .c)) ∧ exec .specx s = .next (on s (after c .c)))
    ∧ (∀ x, Runs s .c c sh → c.spec = some x → validPc sh x.label = true →
      ∃ d, exec .specx s = .next (on s d) ∧ AtLabel x d)
    ∧ (∀ (ra : BitVec 6) (off : BitVec 24), Runs s .c c sh → c.speculating = true →
      ∀ i ∈ [Instr.spec ra off, .specend], exec i s = .next (s.waitOn .c .resolution))
    ∧ (∀ x, s.core? s.args.core = some c → c.shard = some sh → c.spec = some x → x.pending.contains x.reg = false →
      (Map.lookD c.sregs x.reg 0 = 0 → validPc sh x.label = true →
        ∃ d, exec .specResolve s = .next (s.setCore s.args.core d) ∧ AtLabel x d)
      ∧ (Map.lookD c.sregs x.reg 0 ≠ 0 → x.spoilt = true →
        ∃ d, exec .specResolve s = .next (s.setCore s.args.core d) ∧ d.spec = none ∧ d.sregs = x.sregs ∧ d.pending = x.pending)
      ∧ (Map.lookD c.sregs x.reg 0 ≠ 0 → x.spoilt = false →
        ∃ t d, exec .specResolve s = .next t ∧ t.core? s.args.core = some d ∧ d.spec = none ∧ d.sregs = c.sregs ∧ d.pending = c.pending
          ∧ (x.stores = [] → x.loads = [] → t = s.setCore s.args.core { c with spec := none, cs := { c.cs with wait := .none } })))

/-! ### Random bits and CSRs (R63 to R68, R165, R166) -/

/-- RNDX writes one word of the philox output; CSRR reads a CSR; CSRW, CSRS and CSRC write an RW CSR and return its old value; a number of 0x100 or above, and a write of an RO CSR, is an illegal encoding. -/
def Sys2Proof.Claim.RandomAndCsrWords : Prop :=
  ∀ (s : State) (c : Core) (sh : Shard) (rd ra rb : BitVec 6) (site : BitVec 2) (csr : BitVec 12),
    RunsPlain s .c c sh → Free c [rd, ra, rb] →
    let k := csr.toNat
    let old := s.csr s.curCore c sh k
    let A := c.sreg ra
    exec (.rndx rd ra rb site) s
      = .next (wrote s c rd (BitVec.ofNat 64 (drawWord sh.seed sh.taskId A.toNat (c.sreg rb).toNat site.toNat)))
    ∧ (k < 0x100 → exec (.csrr rd csr) s = .next (wrote s c rd old))
    ∧ (0x100 ≤ k → exec (.csrr rd csr) s = .next (s.takeTrap s.curCore .c 1 (Instr.csrr rd csr).tval))
    ∧ ∀ e ∈ [(Instr.csrw rd ra csr, A), (.csrs rd ra csr, old ||| A), (.csrc rd ra csr, old &&& ~~~A)],
      (k < 0x100 → csrRO k = false → exec e.1 s = .next (wrote s (c.writeCsr k e.2) rd old))
      ∧ (0x100 ≤ k ∨ csrRO k = true → exec e.1 s = .next (s.takeTrap s.curCore .c 1 e.1.tval))

/-- What the CSRs read as (R64 to R67): the task's identity and arguments, the views, the rounding and flag state, the trap registers, the instruction counts and the manifest. Those that vary in time read 0 in deterministic mode (R68). -/
def Sys2Proof.Claim.CsrValues : Prop :=
  ∀ (s : State) (n : Nat) (c : Core) (sh : Shard),
    let det := s.det sh.ctx
    let num (k : Nat) : Word := BitVec.ofNat 64 k
    (∀ e ∈ [(0x000, num sh.num), (0x001, num sh.nshard), (0x002, sh.taskId), (0x003, num (sh.ctx + if det then 256 else 0)),
        (0x004, num (if det then sh.nominal else n)), (0x005, sh.seed), (0x006, sh.arg0), (0x007, sh.arg1), (0x008, sh.kdesc),
        (0x040, c.viewV.setWidth 64), (0x041, c.viewW.setWidth 64), (0x042, c.viewT.setWidth 64), (0x043, c.cpl),
        (0x044, num (c.rnd.toNat + if c.ftz then 8 else 0)), (0x045, c.fflags), (0x060, (c.cs.pred ||| 1).setWidth 64),
        (0x080, c.stackBase), (0x081, c.stackLimit), (0x082, c.tvec), (0x083, c.cause), (0x084, c.tval), (0x085, c.epcC), (0x086, c.epcA),
        (0x087, c.epcV), (0x088, c.scratch), (0x0C8, num (if det then sh.hwm else c.capacity)), (0x0C9, num sh.hwm),
        (0x0D6, num (if det then 0x10F else 0x100)), (0x0D9, sh.seed)], s.csr n c sh e.1 = e.2)
    ∧ (∀ k < 16, s.csr n c sh (0x010 + k) = (sh.ins.getD (k / 2) 0).extractLsb' (64 * (k % 2)) 64)
    ∧ (∀ k < 8, s.csr n c sh (0x020 + k) = (sh.outs.getD (k / 2) 0).extractLsb' (64 * (k % 2)) 64)
    ∧ (∀ e ∈ [(0x0C0, num (s.now - sh.cycleBase)), (0x0C1, num s.now), (0x0C2, c.cs.instret), (0x0C3, c.as.instret), (0x0C4, c.vs.instret)],
        s.csr n c sh e.1 = if det then 0 else e.2)

/-- A written RW CSR reads back with the bits that R65 and R66 do not list as zero: views, flags, the predicate window (p0 reads 1), the stack bounds, the vector base and the scratch register; a queue's base, length and element size, with head and tail at 0 (R57). -/
def Sys2Proof.Claim.CsrWritesReadBack : Prop :=
  ∀ (s : State) (n : Nat) (c : Core) (sh : Shard) (v : Word),
    (∀ e ∈ [(0x040, v &&& 0x7FF), (0x041, v &&& 0x7FF), (0x042, v &&& 0x7FF), (0x045, v &&& 0x31F), (0x060, (v &&& 0xFF) ||| 1),
        (0x080, v &&& 0x3FFF0), (0x081, v &&& 0x3FFF0), (0x082, v &&& ~~~1), (0x088, v)],
      s.csr n (c.writeCsr e.1 v) sh e.1 = e.2)
    ∧ (∀ q < 16, bits v.toNat 19 2 ≠ 3 → s.csr n (c.writeCsr (0x048 + q) v) sh (0x048 + q) = v &&& 0x1FFFFF)

/-! ### Words common to the three streams (R167 to R173) -/

/-- NOP, TKPUSH, TKPOP, HALT, SHALT, PRSET and SJ in the stream that executes them; a push of the A-stream that follows accesses still underway joins them in flight (R58, R167 to R171, R191, R209). -/
def Obligations.CommonWords : Prop :=
  ∀ (s : State) (σ : Strm) (c : Core) (sh : Shard) (k : BitVec 3) (mask vals : BitVec 7) (sense : Bool) (p : BitVec 3) (off : BitVec 32),
    RunsPlain s σ c sh →
    exec .nop s = .next (on s (after c σ))
    ∧ ((c.strm σ).acquiring = false → (c.strm σ).released 0 = true →
        (σ = .a → (c.as.flight.all fun f => !(f.rd == 255 && f.fn == k.toNat)) = true) →
        (c.tokenCount k.toNat < 15 → ∃ t d, exec (.tkpush k) s = .next t ∧ t.core? s.curCore = some d
          ∧ d.tokenCount k.toNat = c.tokenCount k.toNat + 1 ∧ d.sregs = c.sregs ∧ d.gran = c.gran ∧ Kept c d ∧ SameMemory s t
          ∧ d.strm σ = ((c.strm σ).complete (c.strm σ).pc).count)
        ∧ (15 ≤ c.tokenCount k.toNat → exec (.tkpush k) s = .next (s.waitOn σ (.token k.toNat))))
    ∧ (σ = .a → c.as.released 0 = false ∨ (∃ f ∈ c.as.flight, f.rd = 255 ∧ f.fn = k.toNat) →
        ∃ f : Access, f.marker = true ∧ f.fn = k.toNat ∧ exec (.tkpush k) s = .next (on s (after { c with as := { c.as with flight := c.as.flight ++ [f] } } .a)))
    ∧ ((c.strm σ).acquiring = false →
        (0 < c.tokenCount k.toNat → ∃ t d, exec (.tkpop k) s = .next t ∧ t.core? s.curCore = some d
          ∧ d.tokenCount k.toNat + 1 = c.tokenCount k.toNat ∧ d.sregs = c.sregs ∧ d.gran = c.gran ∧ Kept c d ∧ SameMemory s t
          ∧ d.strm σ = ((c.strm σ).complete (c.strm σ).pc).count)
        ∧ (c.tokenCount k.toNat = 0 → exec (.tkpop k) s = .next (s.waitOn σ (.token k.toNat))))
    ∧ (σ = .c → ∀ i ∈ [Instr.halt, .shalt],
        (c.canRetire = true → exec i s = .next (on s { c with cs := { c.cs with halted := true, wait := .none, instret := c.cs.instret + 1 } }))
        ∧ (c.canRetire = false → exec i s = .next (s.waitOn .c .retire)))
    ∧ (σ ≠ .c → (σ = .a → (c.as.flight.all fun f => f.kind != .load) = true) → exec .shalt s = .next (on s (c.updStrm σ fun t => { t with halted := true, wait := .none, instret := t.instret + 1 })))
    ∧ (∃ q : BitVec 8, exec (.prset mask vals) s = .next (on s (after (c.updStrm σ fun t => { t with pred := q }) σ))
        ∧ ∀ i < 7, q.getLsbD (i + 1) = if mask.getLsbD i then vals.getLsbD i else (c.strm σ).pred.getLsbD (i + 1))
    ∧ (∀ target, target = (c.strm σ).pc + 2 * off.signExtend 64 →
        ((c.strm σ).p p.toNat = sense → validPc sh target = true → exec (.sj sense p off) s = .next (on s (jumped c σ target)))
        ∧ ((c.strm σ).p p.toNat ≠ sense → exec (.sj sense p off) s = .next (on s (after c σ))))

/-- A loop of a level whose body ends at `stop` may start here: it is inside every active slot (R136). -/
def Sys2Proof.Claim.Nests (t : Stream) (level : Nat) (stop : Word) : Prop :=
  ∀ e ∈ t.loops, e.1 < level ∧ stop.toNat ≤ e.2.stop.toNat

/-- LOOP and LOOPI activate a slot with their count, or skip the body at 0; LOOPB iterates, drains or falls through (R136, R172, R173). The count of LOOP and LOOPB is a scalar or address register's low 32 bits; in the V-stream, element 0 of a source name. Readings that are the model's own choice: log entry 46. -/
def Obligations.LoopWords : Prop :=
  ∀ (s : State) (σ : Strm) (c : Core) (sh : Shard) (level : BitVec 2) (cnt : BitVec 12) (r : Bool) (off : BitVec 24) (drain : BitVec 4)
      (off20 : BitVec 20) (n : Nat),
    RunsPlain s σ c sh →
    let t := c.strm σ
    let stop := t.pc + 2 * off.setWidth 64
    let label := t.pc - 2 * off20.setWidth 64
    let slotOf (n : Nat) : LoopSlot := { isB := false, start := t.pc + 6, stop := stop, remaining := n, rot := r, drain := 0 }
    let started (n : Nat) : State :=
      if n = 0 then on s (c.updStrm σ fun t => (t.complete stop).count)
      else on s (after (c.updStrm σ fun t => { t with loops := Map.put t.loops level.toNat (slotOf n) }) σ)
    let counted : Prop :=
      (σ = .c ∧ c.isPending (cnt.setWidth 6) = false ∧ n = (c.sreg (cnt.setWidth 6)).toNat % 2 ^ 32)
      ∨ (σ = .a ∧ n = (c.areg (cnt.setWidth 5)).toNat % 2 ^ 32)
      ∨ (σ = .v ∧ badCount s c sh cnt = false ∧ ∃ x, c.source sh.hwm .v cnt = .ok x ∧ n = elem 32 (x.1.headD 0) 0 % 2 ^ 32)
    let turned (x : Bool) (slot : LoopSlot) : State :=
      on s (jumped (c.updStrm σ fun t => { t with pred := shiftIn t.pred x, loops := Map.put t.loops level.toNat slot }) σ label)
    let turn (i : Instr) (slot : LoopSlot) : Prop :=
      (1 < slot.remaining → validPc sh label = true → exec i s = .next (turned true { slot with remaining := slot.remaining - 1 }))
      ∧ (slot.remaining ≤ 1 → 0 < slot.drain → validPc sh label = true →
          exec i s = .next (turned false { slot with remaining := 0, drain := slot.drain - 1 }))
      ∧ (slot.remaining ≤ 1 → slot.drain = 0 →
          exec i s = .next (on s (after (c.updStrm σ fun t => { t with loops := Map.del t.loops level.toNat }) σ)))
    (Nests t level.toNat stop → exec (.loopi level cnt r off) s = .next (started cnt.toNat))
    ∧ (Nests t level.toNat stop → counted → exec (.loop level cnt r off) s = .next (started n))
    ∧ (¬ Nests t level.toNat stop → exec (.loopi level cnt r off) s = .next (s.takeTrap s.curCore σ 1 (Instr.loopi level cnt r off).tval))
    ∧ (∀ slot, Map.look t.loops level.toNat = some slot → slot.isB = true → badCount s c sh cnt = false → turn (.loopb level cnt drain off20) slot)
    ∧ (Map.look t.loops level.toNat = none → Nests t level.toNat t.pc → counted →
        turn (.loopb level cnt drain off20) { isB := true, start := label, stop := t.pc, remaining := n, rot := false, drain := drain.toNat })

/-! ### Loads, stores and atomics (R80, R82, R174 to R178) -/

/-- No flushing read behind a host-window store of the core has failed (R412). -/
def Sys2Proof.Claim.Flushed (c : Core) : Prop := ∀ f ∈ c.cs.flight ++ c.as.flight, flushFailed f = false

/-- Besides the cores and the race detector, only the committed task and the messages to peers have changed (R37, R348). -/
def Sys2Proof.Claim.Issued (s u : State) : Prop :=
  u = { s with cores := u.cores, watched := u.watched, regions := u.regions, order := u.order, tasks := u.tasks, sent := u.sent, outstanding := u.outstanding, tag := u.tag }

/-- LDB to LDD anywhere: rd becomes pending, one load goes into flight, to a peer as a message, and the word completes. Its value is there at once from the own scratchpad, once no earlier access of the core to it is underway, or from the line of the scalar data cache that serves it: for no acquire of cluster scope or wider, nor while an earlier access of the stream to the line is underway (R79, R82, R85, R93, R94, R153, R175). Nothing is stored. Readings that are the model's own choice: log entries 13, 42. -/
def Obligations.LoadWords : Prop :=
  ∀ (s : State) (c : Core) (sh : Shard) (rd ra : BitVec 6) (ord scope : BitVec 2) (off : BitVec 21) (t : Target),
    RunsPlain s .c c sh → Free c [rd, ra] → c.cs.acquiring = false →
    ∀ e ∈ [(Instr.ldb rd ra ord scope off, 1, true), (.ldbu rd ra ord scope off, 1, false), (.ldh rd ra ord scope off, 2, true),
        (.ldhu rd ra ord scope off, 2, false), (.ldw rd ra ord scope off, 4, true), (.ldwu rd ra ord scope off, 4, false),
        (.ldd rd ra ord scope off, 8, true)],
      let r := plainReq (c.sreg ra + off.signExtend 64) e.2.1 false ord scope
      let hit := c.served r t
      s.checkAccess s.curCore sh r = .ok t →
      (c.direct s.curCore t = true ∨ hit.isSome = true → s.raceAt sh t e.2.1 false (ord == 0) false = none) →
      ∃ u d f g, exec e.1 s = .next u ∧ Touches s u s.curCore d ∧ Issued s u ∧ u.tasks = s.tasks ∧ SameMemory s u
        ∧ d = { c.setPending rd with shard := some { sh with region := g }, cs := sent c.cs f }
        ∧ f.kind = .load ∧ f.va = c.sreg ra + off.signExtend 64 ∧ f.target = t ∧ f.size = e.2.1 ∧ f.rd = rd.toNat ∧ f.signed = e.2.2
        ∧ f.value = (if c.direct s.curCore t then some (extend e.2.2 e.2.1 (ofBytes (s.readTarget t e.2.1)))
            else hit.map fun bs => extend e.2.2 e.2.1 (ofBytes (bs.take e.2.1)))
        ∧ ((∀ p a, t ≠ .peer p a) → u.sent = s.sent)
        ∧ ∀ p a, t = .peer p a → s.hubOk (dieOf s.curCore) = true → ∃ hdr, u.sent = s.sent ++ [{ port := p, hdr := hdr, payload := [] }]

/-- STB to STD: to the own scratchpad the low bytes of rd are stored at once, when no earlier access of the core to it is underway; else a store goes into flight, to a peer as a message. A store to global memory commits an impure shard, and the scalar data cache is as before until the store performs (R37, R79, R82, R95, R176). Every other byte of memory is as before. Readings that are the model's own choice: log entries 13, 42. -/
def Obligations.StoreWords : Prop :=
  ∀ (s : State) (c : Core) (sh : Shard) (rd ra : BitVec 6) (ord scope : BitVec 2) (off : BitVec 22) (t : Target),
    RunsPlain s .c c sh → Free c [rd, ra] → c.cs.acquiring = false → (ord = 0 ∨ c.released (scopeAt scope t) = true ∧ s.heardOut s.curCore c (scopeAt scope t) = true ∧ Flushed c) →
    ∀ e ∈ [(Instr.stb rd ra ord scope off, 1), (.sth rd ra ord scope off, 2), (.stw rd ra ord scope off, 4), (.std rd ra ord scope off, 8)],
      s.checkAccess s.curCore sh (plainReq (c.sreg ra + off.signExtend 64) e.2 true ord scope) = .ok t →
      (c.direct s.curCore t = true → s.raceAt sh t e.2 true (ord == 0) false = none) →
      let bytes := toBytes e.2 (c.sreg rd).toNat
      ∃ u d h, exec e.1 s = .next u ∧ Touches s u s.curCore d ∧ Issued s u
        ∧ d = { c with shard := some h, cs := { (c.cs.complete c.cs.pc).count with flight := d.cs.flight }, pad := d.pad, padPoison := d.padPoison }
        ∧ h = { sh with region := h.region, committed := h.committed }
        ∧ h.committed = (sh.committed || (aperture (c.sreg ra + off.signExtend 64).toNat).any fun a => a.1 == 0)
        ∧ (c.direct s.curCore t = true → d.cs.flight = c.cs.flight ∧ u.readTarget t e.2 = bytes ∧ SameBut s u t e.2 ∧ u.sent = s.sent ∧ u.tasks = s.tasks)
        ∧ (c.direct s.curCore t = false → SameMemory s u ∧ ∃ f, d.cs.flight = c.cs.flight ++ [f] ∧ f.kind = .store ∧ f.target = t ∧ f.size = e.2
            ∧ f.va = c.sreg ra + off.signExtend 64 ∧ f.data = (c.sreg rd).setWidth 512 ∧ f.value = none
            ∧ ((∀ p a, t ≠ .peer p a) → u.sent = s.sent)
            ∧ ∀ p a, t = .peer p a → s.hubOk (dieOf s.curCore) = true → ∃ hdr, u.sent = s.sent ++ [{ port := p, hdr := hdr, payload := bytes }])

/-- AMADD to AMSWAP and CAS: in the own scratchpad, when no earlier access of the core to it is underway, the new value is stored at once and the old one is on its way to rd; else the atomic goes into flight. The line leaves the scalar data cache, and an atomic of global memory commits an impure shard (R37, R79, R82, R177, R178). Every other byte of memory is as before. Readings that are the model's own choice: log entries 13, 42. -/
def Obligations.AtomicWords : Prop :=
  ∀ (s : State) (c : Core) (sh : Shard) (rd ra rb : BitVec 6) (ord scope : BitVec 2) (dw : Bool) (t : Target),
    RunsPlain s .c c sh → Free c [rd, ra, rb] → c.cs.acquiring = false → (ord.getLsbD 1 = true → c.released (scopeAt scope t) = true ∧ s.heardOut s.curCore c (scopeAt scope t) = true ∧ Flushed c) →
    let size := if dw then 8 else 4
    let w := 8 * size
    let old := ofBytes (s.readTarget t size)
    let b := (c.sreg rb).toNat % 2 ^ w
    ∀ e ∈ [(Instr.amadd rd ra rb ord scope dw, 0, (old + b) % 2 ^ w), (.amand rd ra rb ord scope dw, 1, old &&& b),
        (.amor rd ra rb ord scope dw, 2, old ||| b), (.amxor rd ra rb ord scope dw, 3, old ^^^ b),
        (.ammin rd ra rb ord scope dw, 4, if sextNat old w ≤ sextNat b w then old else b),
        (.ammax rd ra rb ord scope dw, 5, if sextNat old w ≤ sextNat b w then b else old),
        (.amminu rd ra rb ord scope dw, 6, min old b), (.ammaxu rd ra rb ord scope dw, 7, max old b), (.amswap rd ra rb ord scope dw, 8, b),
        (.cas rd ra rb ord scope dw, 9, if old = (c.sreg rd).toNat % 2 ^ w then b else old)],
      s.checkAccess s.curCore sh (atomicReq (c.sreg ra) size e.2.1 ord scope) = .ok t →
      (c.direct s.curCore t = true → s.raceAt sh t size true false true = none) →
      ∃ u d f h, exec e.1 s = .next u ∧ Touches s u s.curCore d ∧ Issued s u
        ∧ d = { c.setPending rd with shard := some h, cs := sent c.cs f, dcache := (c.cacheDrop t).dcache, pad := d.pad, padPoison := d.padPoison }
        ∧ h = { sh with region := h.region, committed := h.committed }
        ∧ h.committed = (sh.committed || (aperture (c.sreg ra).toNat).any fun a => a.1 == 0)
        ∧ f.kind = (if e.2.1 = 9 then AccessKind.cas else .atomic) ∧ f.target = t ∧ f.size = size ∧ f.rd = rd.toNat
        ∧ f.data = (c.sreg rb).setWidth 512 ∧ f.cmp = c.sreg rd
        ∧ f.signed = !((e.2.1 == 6 || e.2.1 == 7) && !dw)
        ∧ (c.direct s.curCore t = true → f.value = some (extend f.signed size old) ∧ u.readTarget t size = toBytes size e.2.2 ∧ SameBut s u t size)
        ∧ (c.direct s.curCore t = false → f.value = none ∧ SameMemory s u)
        ∧ ((∀ p a, t ≠ .peer p a) → u.sent = s.sent)

/-- Under speculation a plain store is held, and a plain load outside host and peer windows reads memory with the held stores forwarded and watches its line, once no row buffer or earlier access holds it up (R15, R161, R324). An acquire on the register of the speculation holds neither back (R162). Memory is as before. -/
def Obligations.SpeculativeAccesses : Prop :=
  ∀ (s : State) (c : Core) (sh : Shard) (x : Spec) (rd ra : BitVec 6) (scope : BitVec 2) (t : Target),
    Runs s .c c sh → c.spec = some x → Free c [rd, ra] → (∀ f ∈ c.cs.flight, f.ord.getLsbD 0 = true → f.kind ≠ .store → f.rd = x.reg) →
    (∀ (off : BitVec 22), ∀ e ∈ [(Instr.stb rd ra 0 scope off, 1), (.sth rd ra 0 scope off, 2), (.stw rd ra 0 scope off, 4), (.std rd ra 0 scope off, 8)],
      s.checkAccess s.curCore sh (plainReq (c.sreg ra + off.signExtend 64) e.2 true 0 scope) = .ok t →
      (x.stores.length < 32 → ∃ f, exec e.1 s = .next { on s (after { c with spec := some { x with stores := x.stores ++ [f] } } .c) with order := s.order + 1 }
        ∧ f.kind = .store ∧ f.target = t ∧ f.size = e.2 ∧ f.data = (c.sreg rd).setWidth 512)
      ∧ (32 ≤ x.stores.length → exec e.1 s = .next (s.waitOn .c .resolution)))
    ∧ (∀ (off : BitVec 21), ∀ e ∈ [(Instr.ldb rd ra 0 scope off, 1, true), (.ldbu rd ra 0 scope off, 1, false), (.ldh rd ra 0 scope off, 2, true),
        (.ldhu rd ra 0 scope off, 2, false), (.ldw rd ra 0 scope off, 4, true), (.ldwu rd ra 0 scope off, 4, false), (.ldd rd ra 0 scope off, 8, true)],
      s.checkAccess s.curCore sh (plainReq (c.sreg ra + off.signExtend 64) e.2.1 false 0 scope) = .ok t →
      s.raceAt sh t e.2.1 false true false = none → t.outside = false → x.watched.length < 32 → s.blocked s.curCore t = false →
      (∀ g ∈ c.cs.flight, g.kind ≠ .load → g.target.line ≠ t.line) →
      ∃ u d f y, exec e.1 s = .next u ∧ Touches s u s.curCore d ∧ Charged s u ∧ SameMemory s u ∧ d.spec = some y ∧ t.line ∈ y.watched
        ∧ y = { x with watched := y.watched, loads := y.loads }
        ∧ d = { c.setPending rd with spec := some y, dcache := (c.cacheDrop t).dcache, cs := sent c.cs f }
        ∧ f.rd = rd.toNat ∧ f.value = some (extend e.2.2 e.2.1 (ofBytes (forwarded s x.stores t e.2.1))))

/-- A load or atomic of a host or peer window is sent once: rd stays pending until its completion, and the stream goes on. Refused by the host or the peer it traps with code 12, precisely: CR.EPC.C is its word, CR.TVAL its address, and rd is pending no more (R85, R153, R350, R412). Readings that are the model's own choice: log entry 15. -/
def Obligations.WindowAccessWords : Prop :=
  (∀ (s : State) (c : Core) (sh : Shard) (rd ra rb : BitVec 6) (ord scope : BitVec 2) (off : BitVec 21) (dw : Bool) (t : Target),
    RunsPlain s .c c sh → Free c [rd, ra, rb] → c.cs.acquiring = false → t.outside = true →
    let lva := c.sreg ra + off.signExtend 64
    let n := if dw then 8 else 4
    ∀ e ∈ [(Instr.ldb rd ra ord scope off, plainReq lva 1 false ord scope), (.ldbu rd ra ord scope off, plainReq lva 1 false ord scope),
        (.ldh rd ra ord scope off, plainReq lva 2 false ord scope), (.ldhu rd ra ord scope off, plainReq lva 2 false ord scope),
        (.ldw rd ra ord scope off, plainReq lva 4 false ord scope), (.ldwu rd ra ord scope off, plainReq lva 4 false ord scope),
        (.ldd rd ra ord scope off, plainReq lva 8 false ord scope), (.amadd rd ra rb ord scope dw, atomicReq (c.sreg ra) n 0 ord scope),
        (.amand rd ra rb ord scope dw, atomicReq (c.sreg ra) n 1 ord scope), (.amor rd ra rb ord scope dw, atomicReq (c.sreg ra) n 2 ord scope),
        (.amxor rd ra rb ord scope dw, atomicReq (c.sreg ra) n 3 ord scope), (.ammin rd ra rb ord scope dw, atomicReq (c.sreg ra) n 4 ord scope),
        (.ammax rd ra rb ord scope dw, atomicReq (c.sreg ra) n 5 ord scope), (.amminu rd ra rb ord scope dw, atomicReq (c.sreg ra) n 6 ord scope),
        (.ammaxu rd ra rb ord scope dw, atomicReq (c.sreg ra) n 7 ord scope), (.amswap rd ra rb ord scope dw, atomicReq (c.sreg ra) n 8 ord scope), (.cas rd ra rb ord scope dw, atomicReq (c.sreg ra) n 9 ord scope)],
      s.checkAccess s.curCore sh e.2 = .ok t →
      (e.2.atomic = true → ord.getLsbD 1 = true → c.released (scopeAt scope t) = true ∧ s.heardOut s.curCore c (scopeAt scope t) = true ∧ Flushed c) →
        ∃ (u : State) (d : Core) (f : Access), exec e.1 s = .next u ∧ u.core? s.curCore = some d ∧ SameMemory s u ∧ f.target = t ∧ f.va = e.2.va ∧ f.pc = c.cs.pc ∧ f.rd = rd.toNat
          ∧ f.value = none ∧ f.failed = false ∧ f.held = false ∧ d.cs.flight = c.cs.flight ++ [f]
          ∧ d.cs.pc = (c.cs.complete c.cs.pc).pc ∧ d.pending = (c.setPending rd).pending ∧ d.sregs = c.sregs ∧ Kept c d)
  ∧ ∀ (s : State) (c : Core) (sh : Shard) (f : Access), s.core? s.args.core = some c → c.shard = some sh → c.inh = false → c.tvec ≠ 0 → c.spec = none →
    c.cs.flight = [f] → f.target.outside = true → f.failed = true → f.held = false → f.fault = none → f.kind ≠ .store →
    ∃ u d, exec .trapEntry s = .next u ∧ u.core? s.args.core = some d ∧ d.cause = 0x800C ∧ d.tval = f.va ∧ d.epcC = f.pc ∧ d.epcA = c.as.pc
      ∧ d.epcV = c.vs.pc ∧ d.cs.pc = c.tvec ∧ d.pending = removeNat c.pending f.rd ∧ d.sregs = c.sregs ∧ d.gran = c.gran ∧ SameMemory s u

/-- The checks of R174 on a load or store word, in order: each failure traps with its code and the address, and nothing else happens; a translation that the micro-TLB does not hold is waited for (R77). A race met at issue in the own scratchpad, with no earlier access of the core to it underway, traps with code 8 (R107). -/
def Obligations.AccessChecksTrap : Prop :=
  ∀ (s : State) (c : Core) (sh : Shard) (rd ra : BitVec 6) (ord scope : BitVec 2) (off : BitVec 21) (off' : BitVec 22),
    RunsPlain s .c c sh → Free c [rd, ra] → c.cs.acquiring = false →
    ∀ e ∈ [(Instr.ldd rd ra ord scope off, c.sreg ra + off.signExtend 64, false), (.std rd ra ord scope off', c.sreg ra + off'.signExtend 64, true)],
      let va := e.2.1
      let traps (code : BitVec 8) : Prop := exec e.1 s = .next (s.takeTrap s.curCore .c code va)
      (aperture va.toNat = none → traps 13)
      ∧ (∀ a, aperture va.toNat = some (0, a) →
          (a % 8 ≠ 0 → traps 11)
          ∧ (a % 8 = 0 → sh.pure = true → traps 10)
          ∧ (a % 8 = 0 → sh.pure = false →
              let tr := c.translate 0 sh.ctx a (if e.2.2 then .write else .read)
              (tr = .fault → traps 12)
              ∧ (tr = .miss → exec e.1 s = .next ((s.tlbMiss s.curCore 0 sh.ctx va.toNat).waitOn .c .translation))
              ∧ (tr = .poisoned → exec e.1 s = .next (s.stopPoisoned s.curCore sh .c va c.cs.pc true))
              ∧ (∀ p, tr = .ok (.dram p) → e.2.2 = true → s.hitsSealed (.dram p) 8 = true → traps 9)
              ∧ (∀ p, tr = .ok (.dram p) → e.2.2 = false → s.poisoned (.dram p) 8 = true →
                  exec e.1 s = .next (s.stopPoisoned s.curCore sh .c va c.cs.pc true))))
      ∧ (∀ kind a, aperture va.toNat = some (kind, a) → kind ≠ 0 →
          let k := (padOf s.curCore kind a).1
          let o := (padOf s.curCore kind a).2
          (s.runsCtx k sh.ctx = false → traps 13)
          ∧ (s.runsCtx k sh.ctx = true → scope = 3 → traps 1)
          ∧ (s.runsCtx k sh.ctx = true → scope ≠ 3 → o % 8 ≠ 0 → traps 11)
          ∧ (s.runsCtx k sh.ctx = true → scope ≠ 3 → o % 8 = 0 → sh.pure = true → k ≠ s.curCore → traps 10))
      ∧ (∀ t d, s.checkAccess s.curCore sh (plainReq va 8 e.2.2 ord scope) = .ok t → c.direct s.curCore t = true → s.raceAt sh t 8 e.2.2 (ord == 0) false = some d →
          (e.2.2 = true → ord ≠ 0 → c.released (scopeAt scope t) = true ∧ s.heardOut s.curCore c (scopeAt scope t) = true ∧ Flushed c) →
          exec e.1 s = .next (s.takeTrap s.curCore .c 8 (raceTval va d)))

/-! ### Fences, publication, apertures, views and queues (R179 to R184) -/

/-- FENCE completes once the accesses it orders are done, those of other cores that happen-before it among them, and its acquire side empties the scalar data cache; at system scope it completes although a flushing read has failed. PUBLISH counts the window up, posts the count to the host, and writes it to rd; behind a failed flushing read, and with the host's port down, it is a translation fault (R16, R90, R101, R102, R179, R180, R412, R413). -/
def Obligations.FenceAndPublish : Prop :=
  ∀ (s : State) (c : Core) (sh : Shard) (rd ra : BitVec 6) (ord scope : BitVec 2),
    RunsPlain s .c c sh →
    let done := c.cs.loadsDone = true ∧ c.fenced ord scope = true ∧ s.heardOut s.curCore c scope.toNat = true
    let fetches := ord ≠ 2 ∧ scope ≠ 0
    (done → (scope = 3 → Flushed c) →
      ∃ u, exec (.fence ord scope) s = .next u ∧ Quiet s u ∧ SameMemory s u
        ∧ Touches s u s.curCore { c with shard := some { sh with region := none }, cs := (c.cs.complete c.cs.pc).count, dcache := if fetches then [] else c.dcache,
                                         heard := if fetches then s.order else c.heard })
    ∧ (done → scope = 3 → ∃ u d, exec (.fence ord scope) s = .next u ∧ u.core? s.curCore = some d ∧ Flushed d ∧ SameMemory s u ∧ Kept c d ∧ d.sregs = c.sregs ∧ d.gran = c.gran
        ∧ d.cs.pc = (c.cs.complete c.cs.pc).pc ∧ ∀ f, f ∈ d.cs.flight ↔ f ∈ c.cs.flight ∧ flushFailed f = false)
    ∧ (c.cs.loadsDone = false → exec (.fence ord scope) s = .next (s.waitOn .c .acquire))
    ∧ (c.cs.loadsDone = true → c.fenced ord scope = false ∨ s.heardOut s.curCore c scope.toNat = false → exec (.fence ord scope) s = .next (s.waitOn .c .stores))
    ∧ (∀ x p, Free c [rd, ra] → c.cs.acquiring = false → sh.pure = false →
        (c.sreg ra).toNat < 4096 → Map.look s.ctxs sh.ctx = some x → Map.look x.pubs (c.sreg ra).toNat = some p → p.bound = true →
        let ready := c.cs.loadsDone = true ∧ c.cs.allZero = true ∧ s.heardOut s.curCore c 3 = true ∧ ∀ f ∈ c.as.flight, f.kind = .store → f.target.outside = true → f.held = true
        (Flushed c → ready → Map.look s.hostDown p.port = none → s.hubOk (dieOf s.curCore) = true →
          ∃ u d, exec (.publish rd ra) s = .next u ∧ u.core? s.curCore = some d ∧ d.sregs = (c.setSreg rd (p.count + 1)).sregs
            ∧ d.cs = (c.cs.complete c.cs.pc).count ∧ Kept c d ∧ d.gran = c.gran ∧ d.shard.any (·.committed) = true
            ∧ (∃ y, Map.look u.ctxs sh.ctx = some y ∧ Map.look y.pubs (c.sreg ra).toNat = some { p with count := p.count + 1 })
            ∧ u.readTarget (.host p.port p.caddr) 8 = toBytes 8 (p.count + 1).toNat
            ∧ SameBut s u (.host p.port p.caddr) 8)
        ∧ (Flushed c → ready → Map.look s.hostDown p.port ≠ none → exec (.publish rd ra) s = .next (s.takeTrap s.curCore .c 12 (c.sreg ra)))
        ∧ (Flushed c → ready → Map.look s.hostDown p.port = none → s.hubOk (dieOf s.curCore) = false → exec (.publish rd ra) s = .next (s.waitOn .c .stores))
        ∧ (¬Flushed c → exec (.publish rd ra) s = .next ((s.dropFailed s.curCore).takeTrap s.curCore .c 12 (c.sreg ra))))

/-- CVTA, APTEST, SETVIEW and SETA (R181 to R183). Readings that are the model's own choice: log entry 5. -/
def Obligations.ApertureAndViewWords : Prop :=
  ∀ (s : State) (c : Core) (sh : Shard) (rd ra : BitVec 6) (ap : BitVec 2) (ad : BitVec 5) (mask : BitVec 3) (x : Nat),
    RunsPlain s .c c sh → Free c [rd, ra] →
    let A := c.sreg ra
    (aperture A.toNat = some (ap.toNat, x) → exec (.cvtaTo rd ra ap) s = .next (wrote s c rd (BitVec.ofNat 64 x)))
    ∧ ((∀ y, aperture A.toNat ≠ some (ap.toNat, y)) → exec (.cvtaTo rd ra ap) s = .next (s.takeTrap s.curCore .c 13 A))
    ∧ (∀ e ∈ [((0 : BitVec 2), (0 : Word), 2 ^ 56 - 1), (1, 0xFF00000000000000, 0x3FFFF), (2, 0xFF10000000000000, 0x17FFFFF)], ap = e.1 →
        (A.toNat ≤ e.2.2 → exec (.cvtaFrom rd ra ap) s = .next (wrote s c rd (e.2.1 + A)))
        ∧ (e.2.2 < A.toNat → exec (.cvtaFrom rd ra ap) s = .next (s.takeTrap s.curCore .c 13 A)))
    ∧ (aperture A.toNat = some (ap.toNat, x) → exec (.aptest rd ra ap) s = .next (wrote s c rd 1))
    ∧ ((∀ y, aperture A.toNat ≠ some (ap.toNat, y)) → exec (.aptest rd ra ap) s = .next (wrote s c rd 0))
    ∧ (∃ d, exec (.setview rd ra mask) s = .next (wrote s d rd (c.viewV.setWidth 64 + (c.viewW.setWidth 64 <<< 16) + (c.viewT.setWidth 64 <<< 32)))
        ∧ d = { c with viewV := d.viewV, viewW := d.viewW, viewT := d.viewT }
        ∧ d.viewV = (if mask.getLsbD 0 then A.extractLsb' 0 11 else c.viewV)
        ∧ d.viewW = (if mask.getLsbD 1 then A.extractLsb' 16 11 else c.viewW)
        ∧ d.viewT = (if mask.getLsbD 2 then A.extractLsb' 32 11 else c.viewT))
    ∧ (c.beat = none → exec (.seta ad ra) s = .next (on s (after (c.setAreg ad A) .c)))
    ∧ (c.beat ≠ none → exec (.seta ad ra) s = .next (on s (after { c with setas := c.setas ++ [(ad.toNat, A)] } .c)))

/-- POPV takes the entry at the head of a queue, PUSHV fills the one at its tail with two registers; an entry that is not full or not empty makes them wait, and one that reaches past HWM traps (R54, R55, R184). -/
def Obligations.QueueWords : Prop :=
  ∀ (s : State) (c : Core) (sh : Shard) (rd ra rb : BitVec 6) (q : BitVec 4),
    RunsPlain s .c c sh → Free c [rd, ra, rb] → c.cs.acquiring = false →
    let r := c.queue q.toNat
    let h := r.entry r.head.toNat
    let t := r.entry r.tail.toNat
    (h + r.size ≤ sh.hwm → c.allFull true h r.size = true → (∀ i < r.size, (h + i) ∉ c.granPoison) →
      ∃ u d, exec (.popv rd q) s = .next u ∧ Quiet s u ∧ Touches s u s.curCore d ∧ d.sregs = (c.setSreg rd ((c.granule h).setWidth 64)).sregs
        ∧ d.gran = c.gran ∧ Kept c d ∧ SameMemory s u ∧ d.allFull false h r.size = true ∧ d.cs = (c.cs.complete c.cs.pc).count
        ∧ d.queue q.toNat = { r with head := BitVec.ofNat 8 ((r.head.toNat + 1) % r.len) })
    ∧ (h + r.size ≤ sh.hwm → c.allFull true h r.size = false → exec (.popv rd q) s = .next (s.waitOn .c (.queue q.toNat false)))
    ∧ (sh.hwm < h + r.size → exec (.popv rd q) s = .next (s.takeTrap s.curCore .c 1 (0x800 + q.setWidth 64)))
    ∧ (c.released 0 = true →
      (t + r.size ≤ sh.hwm → sh.hwm ≤ 2048 → c.allFull false t r.size = true →
        ∃ u d, exec (.pushv ra rb q) s = .next u ∧ Quiet s u ∧ Touches s u s.curCore d ∧ d.sregs = c.sregs ∧ Kept c d ∧ SameMemory s u
          ∧ d.granule t = (c.sreg rb ++ c.sreg ra).setWidth 512 ∧ (∀ i, 0 < i → i < r.size → d.granule (t + i) = 0)
          ∧ (∀ g, g < t ∨ t + r.size ≤ g → d.granule g = c.granule g) ∧ d.allFull true t r.size = true ∧ d.cs = (c.cs.complete c.cs.pc).count
          ∧ d.queue q.toNat = { r with tail := BitVec.ofNat 8 ((r.tail.toNat + 1) % r.len) })
      ∧ (t + r.size ≤ sh.hwm → c.allFull false t r.size = false → exec (.pushv ra rb q) s = .next (s.waitOn .c (.queue q.toNat true)))
      ∧ (sh.hwm < t + r.size → exec (.pushv ra rb q) s = .next (s.takeTrap s.curCore .c 1 (0x800 + q.setWidth 64))))

/-! ### The steps that end an access, a walk or a wait (R51, R55, R77, R79, R95, R101, R397, R400, R412) -/

/-- LOAD_RETURN and STORE_ACK: an access in flight that may reach its point of coherence, and meets no exception there, performs; a load's or atomic's value reaches its register, a store's bytes memory and the line of the scalar data cache that is there; a store of the A-stream drops that line. A store that fails as lasting does not perform: its line is poisoned and its shard stops (R79, R80, R93, R95, R153, R400). -/
def Sys2Proof.Claim.AccessesPerform : Prop :=
  ∀ (s : State) (c : Core) (sh : Shard) (f : Access),
    let n := s.args.core
    s.core? n = some c → c.shard = some sh → (c.strm s.args.strm).flight[s.args.idx]? = some f → f.target.outside = false → f.held = false →
    (s.args.strm = .c → f.kind ≠ .store → ∀ v, f.value = some v → ∃ u, exec .loadReturn s = .next u ∧ Quiet s u ∧ SameMemory s u
        ∧ ∃ d, Touches s u n d ∧ d.cs.flight = c.cs.flight.eraseIdx s.args.idx ∧ d.sregs = (c.settleReg f.rd v).sregs ∧ d.pending = removeNat c.pending f.rd
          ∧ (f.ord.getLsbD 0 = true → f.scope ≠ 0 → d.dcache = []))
    ∧ (s.arrives n s.args.strm s.args.idx f = true → s.heldFault sh f = none →
      (s.args.strm = .c → f.kind ≠ .store →
        (s.poisoned f.target f.size = false → ∃ u d, exec .loadReturn s = .next u ∧ u.core? n = some d
          ∧ d.cs.flight = c.cs.flight.eraseIdx s.args.idx ∧ d.sregs = (c.settleReg f.rd (extend f.signed f.size (ofBytes (s.readTarget f.target f.size)))).sregs
          ∧ d.pending = removeNat c.pending f.rd ∧ SameBut s u f.target f.size ∧ (f.kind = .load → SameMemory s u)
          ∧ (f.kind = .load → f.ord = 0 → ∀ a, f.target = .dram a → Map.look d.dcache (a / 64) ≠ none)
          ∧ (f.ord.getLsbD 0 = true → f.scope ≠ 0 → d.dcache = []))
        ∧ (s.poisoned f.target f.size = true → exec .loadReturn s = .next (s.stopPoisoned n sh .c f.va f.pc f.target.pad?.isNone)))
      ∧ (s.args.strm = .a → f.kind = .load → s.poisoned f.target f.size = false →
        ∃ u, exec .loadReturn s = .next u ∧ SameMemory s u)
      ∧ (f.kind = .store → s.args.strm ≠ .v →
        (s.storeFails f.target = false → (∀ k o, f.target = .pad k o → (s.core? k).isSome = true) →
          ∃ u d, exec .storeAck s = .next u ∧ u.core? n = some d ∧ u.readTarget f.target f.size = toBytes f.size f.data.toNat
            ∧ SameBut s u f.target f.size ∧ (s.args.strm = .a → d.dcache = (c.cacheDrop f.target).dcache)
            ∧ (s.args.strm = .c → d.cs.flight = c.cs.flight.eraseIdx s.args.idx ∧ d.sregs = c.sregs ∧ d.dcache = (c.cacheStore f.target (toBytes f.size f.data.toNat)).dcache))
        ∧ (s.storeFails f.target = true → exec .storeAck s = .next (((s.poisonTarget f.target).land n s.args.strm s.args.idx).stopPoisoned n sh s.args.strm f.va f.pc true))))

/-- POSTED_WRITE_LEFT_PORT and HOST_COMPLETION: with the die's hub link up, the oldest store of a core to a host port leaves it and lies in the host's memory, or is dropped where the port's link is down; a completion of a request that is outstanding at the port brings the value of a load or atomic, ends the flushing read behind a store, which closes the region of a synchronising one, or marks a failure, and poisoned data stops the shard (R16, R85, R95, R101, R105, R338, R412, R413). -/
def Sys2Proof.Claim.HostWindowSteps : Prop :=
  ∀ (s : State) (c : Core) (sh : Shard) (f : Access) (p a : Nat),
    let n := s.args.core
    let σ := s.args.strm
    let i := s.args.idx
    let up := s.hubOk (dieOf n) = true
    let fails := s.args.flag = true ∨ Map.look s.hostDown p ≠ none ∨ ¬up
    let waits := f.kind ≠ .store ∧ f.value = none ∧ f.failed = false ∧ f.held = false ∧ inOrder σ (c.strm σ).flight i f = true
    s.core? n = some c → c.shard = some sh → (c.strm σ).flight[i]? = some f → f.target = .host p a → σ ≠ .v →
    (f.kind = .store → f.path ≠ 6 → up → s.leavesLater n p f = false →
      ∃ u, exec .postedWriteLeftPort s = .next u ∧ SameBut s u (.host p a) f.size
        ∧ (Map.look s.hostDown p = none → u.readTarget (.host p a) f.size = toBytes f.size f.data.toNat)
        ∧ (Map.look s.hostDown p ≠ none → SameMemory s u)
        ∧ (σ = .c → ∃ d, u.core? n = some d ∧ d.cs.flight = c.cs.flight.set i { f with path := 6 }))
    ∧ (s.hasTag p f = true →
      (f.kind = .store → f.path = 6 → ¬fails →
          exec .hostCompletion s = .next ((s.setCore n (c.updStrm σ fun t => { t with flight := t.flight.eraseIdx i })).closedBy f))
      ∧ (f.kind = .store → f.path = 6 → fails →
          exec .hostCompletion s = .next ((s.setCore n (c.updStrm σ fun t => { t with flight := t.flight.set i { f with failed := true } })).closedBy f))
      ∧ (waits → s.args.code ≠ 1 → fails →
          exec .hostCompletion s = .next (s.setCore n (c.updStrm σ fun t => { t with flight := t.flight.set i { f with failed := true } })))
      ∧ (waits → s.args.code = 1 → exec .hostCompletion s = .next (s.stopPoisoned n sh σ f.va f.pc true))
      ∧ (waits → s.args.code ≠ 1 → ¬fails →
          ∃ u d, exec .hostCompletion s = .next u ∧ u.core? n = some d ∧ SameBut s u (.host p a) f.size ∧ (f.kind = .load → SameMemory s u)
            ∧ (σ = .c → d.cs.flight = c.cs.flight.eraseIdx i ∧ d.pending = removeNat c.pending f.rd
                ∧ d.sregs = (c.settleReg f.rd (extend f.signed f.size (ofBytes (s.readTarget (.host p a) f.size)))).sregs)))

/-- TLB_WALK_DONE installs the leaf of a walk that finds one, and leaves a fault or poisoned table data to the requests that wait; QUEUE_ACCESS_RESUME and FULL_BIT_WAIT_RESUME end a wait whose full bits have changed; TRAP_ENTRY takes a trap that fetching or decoding the word at the PC raises, and the exception that an access in flight meets at its point of coherence (R51, R55, R77, R107, R151, R381, R383). -/
def Obligations.WalksAndResumes : Prop :=
  (∀ (s : State) (k : Cluster) (m : Miss) (x : Ctx), Map.look s.clusters s.args.a = some k → (k.misses.take 8)[s.args.idx]? = some m → Map.look s.ctxs m.ctx = some x →
    let va := m.page * 2 ^ m.bits
    let walk := s.walk k.walks m.ctx va pageLevels x.ptroot
    let popped (k' : Cluster) : State := { s with clusters := Map.put s.clusters s.args.a k' }
    let rest := k.misses.eraseIdx s.args.idx
    (∀ e n, walk = .leaf e n → ∃ k' ports, exec .tlbWalkDone s = .next { popped k' with ports := ports } ∧ k'.misses = rest
        ∧ { ctx := m.ctx, page := va / 2 ^ n, bits := n, entry := BitVec.ofNat 64 e } ∈ k'.tlb)
    ∧ (∀ bad, (walk = .fault ∧ bad = false) ∨ (walk = .poisoned ∧ bad = true) →
        ∃ u, exec .tlbWalkDone s = .next u ∧ u = { popped { k with misses := rest } with cores := u.cores }
          ∧ ∀ c, s.core? m.core = some c → c.shard.any (fun h => h.ctx == m.ctx) = true → ∃ d, u.core? m.core = some d
              ∧ { path := m.path, page := m.page, bits := m.bits, poisoned := bad } ∈ d.walkFails))
  ∧ ∀ (s : State) (c : Core) (sh : Shard) (σ : Strm), s.core? s.args.core = some c → c.shard = some sh → s.args.strm = σ →
    let resumed := s.setCore s.args.core (c.updStrm σ fun t => { t with wait := .none })
    (∀ q push, σ ≠ .a → (c.strm σ).wait = .queue q push →
      c.allFull (!push) ((c.queue q).entry (if push then (c.queue q).tail.toNat else (c.queue q).head.toNat)) (c.queue q).size = true →
      exec .queueAccessResume s = .next resumed)
    ∧ (∀ g, (c.strm σ).wait = .full g → c.full.getLsbD g = true → exec .fullBitWaitResume s = .next resumed)
    ∧ (∀ code tval, σ = .v → c.inh = false → s.heldTrap s.args.core c sh = none → c.vs.halted = false → s.fetch s.args.core sh .v c.vs.pc = .trap code tval →
      exec .trapEntry s = .next ({ s with curCore := s.args.core }.takeTrap s.args.core .v code tval))
    ∧ (∀ τ f code tval, c.inh = false → s.heldTrap s.args.core c sh = some (τ, f, code, tval) →
      exec .trapEntry s = .next (s.takeHeld s.args.core τ f code tval))

/-! ### Barriers (R59, R185 to R187) -/

/-- BARINIT, BARARV, BARWAIT and BARARW at their owner core: what they make of EXPECT, PENDING, PHASE and MEMBERS, what rd receives, and when they wait (R186). A remote owner outside the cluster or the context is an aperture fault (R185). -/
def Sys2Proof.Claim.CoreBarrierWords : Prop :=
  ∀ (s : State) (c o : Core) (sh : Shard) (rd ra : BitVec 6) (remote : Bool) (expect : BitVec 12) (bar : BitVec 9) (k : Nat),
    RunsPlain s .c c sh → Free c [rd, ra] → c.cs.acquiring = false → s.core? k = some o →
    let b := bar.toNat
    let x := o.barrier b
    let joined := setBit x.members (s.curCore % 96) true
    let arrived (u : State) : Prop := ∃ o' y, u.core? k = some o' ∧ y = o'.barrier b ∧ y.init = true ∧ y.expect = x.expect ∧ y.members = joined
      ∧ (x.pending = 1 → y.phase = x.phase + 1 ∧ y.pending = x.expect ∧ o'.latches.getLsbD 3 = true)
      ∧ (x.pending ≠ 1 → y.phase = x.phase ∧ y.pending = x.pending - 1)
    (barrierOwner s c sh ra remote = none → ∀ i ∈ [Instr.barinit rd ra remote expect bar, .bararv rd ra remote bar, .barwait rd ra remote bar, .bararw rd ra remote bar],
      exec i s = .next (s.takeTrap s.curCore .c 13 (c.sreg ra)))
    ∧ (barrierOwner s c sh ra remote = some k →
      (∃ u d o' y, exec (.barinit rd ra remote expect bar) s = .next u ∧ Quiet s u ∧ SameMemory s u ∧ Went u c d (c.setSreg rd (x.phase.setWidth 64)).sregs
        ∧ u.core? k = some o' ∧ y = o'.barrier b ∧ y.init = true ∧ y.phase = x.phase ∧ y.expect = expect ∧ y.pending = expect ∧ y.members = joined)
      ∧ (x.init = true → c.released 1 = true →
        ∃ u d, exec (.bararv rd ra remote bar) s = .next u ∧ Quiet s u ∧ SameMemory s u ∧ Went u c d (c.setSreg rd (x.phase.setWidth 64)).sregs ∧ arrived u)
      ∧ (x.init = true → x.phase.toNat ≠ bits (c.sreg rd).toNat 0 4 →
        ∃ u d, exec (.barwait rd ra remote bar) s = .next u ∧ SameMemory s u ∧ Went u c d (c.setSreg rd (x.phase.setWidth 64)).sregs ∧ d.dcache = [])
      ∧ (x.init = true → x.phase.toNat = bits (c.sreg rd).toNat 0 4 → exec (.barwait rd ra remote bar) s = .next (s.waitOn .c .barrier))
      ∧ (x.init = false → ∀ i ∈ [Instr.bararv rd ra remote bar, .barwait rd ra remote bar], exec i s = .next (s.waitOn .c .barrier))
      ∧ (x.init = true → c.released 1 = true → (∀ p, c.barWait ≠ some (c.cs.pc, p)) →
        (x.pending = 1 → ∃ u d, exec (.bararw rd ra remote bar) s = .next u ∧ SameMemory s u ∧ Went u c d (c.setSreg rd ((x.phase + 1).setWidth 64)).sregs ∧ arrived u)
        ∧ (x.pending ≠ 1 → ∃ u d, exec (.bararw rd ra remote bar) s = .next u ∧ Quiet s u ∧ SameMemory s u ∧ arrived u ∧ u.core? s.curCore = some d
            ∧ d.cs = { c.cs with wait := .barrier } ∧ d.barWait = some (c.cs.pc, x.phase.toNat) ∧ d.sregs = c.sregs))
      ∧ (∀ p, c.barWait = some (c.cs.pc, p) →
        (x.phase.toNat ≠ p → ∃ u d, exec (.bararw rd ra remote bar) s = .next u ∧ SameMemory s u ∧ Went u c d (c.setSreg rd (x.phase.setWidth 64)).sregs ∧ d.barWait = none)
        ∧ (x.phase.toNat = p → exec (.bararw rd ra remote bar) s = .next (s.waitOn .c .barrier))))

/-- TBINIT, TBEXP, TBARV and TBWAIT on the 128 bits of a transaction barrier (R187): PHASE [3:0], pending arrivals [35:4], pending units [67:36], reload value [99:68]. Every other byte of memory is as before. They wait for the row buffer and the accesses that go ahead of them (R15, R82, R93, R324). -/
def Sys2Proof.Claim.TransactionBarrierWords : Prop :=
  ∀ (s : State) (c : Core) (sh : Shard) (rd ra : BitVec 6) (off : BitVec 22) (t : Target),
    RunsPlain s .c c sh → Free c [rd, ra] → c.cs.acquiring = false →
    s.checkAccess s.curCore sh
      { va := c.sreg ra + off.signExtend 64, size := 16, write := true, data := false, atomic := true, ord := 0, scope := 0, fn := 0, deviceOnly := true } = .ok t →
    (s.tbWaits c t = true → ∀ i ∈ [Instr.tbinit rd ra off, .tbexp rd ra off, .tbarv rd ra off, .tbwait rd ra off], exec i s = .next (s.waitOn .c .stores))
    ∧ (s.tbWaits c t = false → s.raceAt sh t 16 true false false = none →
    let w := ofBytes (s.readTarget t 16)
    let D := (c.sreg rd).toNat
    let phase := w % 16
    let left := (w / 2 ^ 4 + 2 ^ 32 - 1) % 2 ^ 32
    let writes (i : Instr) (v new : Nat) : Prop :=
      ∃ u d, exec i s = .next u ∧ Went u c d (c.setSreg rd (BitVec.ofNat 64 v)).sregs ∧ SameBut s u t 16 ∧ ofBytes (u.readTarget t 16) = new
        ∧ u = { s with cores := u.cores, mem := u.mem, poison := u.poison, watched := u.watched, regions := u.regions, order := u.order, tbKnows := u.tbKnows, ports := u.ports }
    writes (.tbinit rd ra off) 0 (max (D % 2 ^ 32) 1 * 2 ^ 4 + max (D % 2 ^ 32) 1 * 2 ^ 68)
    ∧ writes (.tbexp rd ra off) phase (w % 2 ^ 36 + (w / 2 ^ 36 + D) % 2 ^ 32 * 2 ^ 36 + w / 2 ^ 68 * 2 ^ 68)
    ∧ (c.released (tbScope t) = true → s.heardOut s.curCore c (tbScope t) = true →
      (left = 0 ∧ w / 2 ^ 36 % 2 ^ 32 = 0 → writes (.tbarv rd ra off) phase ((w + 1) % 16 + w / 2 ^ 68 % 2 ^ 32 * 2 ^ 4 + w / 2 ^ 68 * 2 ^ 68))
      ∧ (¬(left = 0 ∧ w / 2 ^ 36 % 2 ^ 32 = 0) → writes (.tbarv rd ra off) phase (phase + left * 2 ^ 4 + w / 2 ^ 36 * 2 ^ 36)))
    ∧ (phase ≠ D % 16 → ∃ u d, exec (.tbwait rd ra off) s = .next u ∧ SameMemory s u ∧ Went u c d (c.setSreg rd (BitVec.ofNat 64 phase)).sregs ∧ d.dcache = [])
    ∧ (phase = D % 16 → exec (.tbwait rd ra off) s = .next (s.waitOn .c .transBarrier)))

/-! ### Creating work, inboxes, waiting (R188 to R193) -/

/-- SPAWN and SPAWN.nb: the record at ra enters the pending-launch store of its die, or, with no entry for it, SPAWN waits and SPAWN.nb writes 1 (R188, R287, R288). -/
def Sys2Proof.Claim.SpawnWords : Prop :=
  ∀ (s : State) (c : Core) (sh : Shard) (rd ra : BitVec 6) (tg : Target),
    RunsPlain s .c c sh → Free c [rd, ra] → c.cs.acquiring = false → c.cs.wait = .none → (c.sreg ra).toNat < 2 ^ 56 →
    s.checkAccess s.curCore sh
      { va := c.sreg ra, size := 256, write := false, data := false, atomic := false, ord := 0, scope := 2, fn := 0, deviceOnly := false } = .ok tg →
    s.refuses tg = false → c.released 2 = true → s.heardOut s.curCore c 2 = true → (∀ f ∈ c.as.flight, f.writes = true → f.underway = false) → s.blocked s.curCore tg = false →
    let t := s.taskOf sh.ctx (s.readTarget tg 256) (c.sreg ra) (some (dieOf s.curCore)) none sh.release
    let enters (i : Instr) (regs : Map Word) : Prop := ∃ u d t' entry reserve, s.spawnEntry s.curCore sh t s.now = some (entry, reserve)
      ∧ exec i s = .next u ∧ Went u c d regs ∧ Map.look u.tasks s.uid = some t' ∧ t'.addr = c.sreg ra ∧ t'.ctx = sh.ctx ∧ t'.taskId = t.taskId
      ∧ t'.entry = entry ∧ t'.die = t.die ∧ d.shard.any (fun h => h.committed && h.reserve == reserve) = true ∧ SameMemory s u
    (s.spawnEntry s.curCore sh t s.now ≠ none → enters (.spawn ra) c.sregs ∧ enters (.spawnNb rd ra) (c.setSreg rd 0).sregs)
    ∧ (s.spawnEntry s.curCore sh t s.now = none →
        exec (.spawn ra) s = .next (s.waitOn .c (.launch s.now t.die))
        ∧ (s.det sh.ctx = false → exec (.spawnNb rd ra) s = .next (wrote s c rd 1))
        ∧ (s.det sh.ctx = true → exec (.spawnNb rd ra) s = .next (s.waitOn .c (.launch s.now t.die))))

/-- ENQR appends the 64 bytes at ra to the inbox of a core, before those that higher cores have sent in this clk, and sets its latch 0; it waits while the inbox is full, and takes the aperture fault if the shard there leaves meanwhile; INBOX and INBOX.nb take the oldest entry of the shard's context that was there before this clk (R61, R189, R190, R193, R302). -/
def Sys2Proof.Claim.InboxWords : Prop :=
  ∀ (s : State) (c o : Core) (sh : Shard) (rd ra rb : BitVec 6) (off : Nat),
    RunsPlain s .c c sh → Free c [rd, ra, rb] → c.cs.acquiring = false → aperture (c.sreg ra).toNat = some (1, off) → off % 64 = 0 →
    let k := clusterBase s.curCore + (c.sreg rb).toNat
    let here : Target := .pad s.curCore off
    ((c.sreg rb).toNat ≤ 95 → s.runsCtx k sh.ctx = true → sh.pure = false → c.released 1 = true → (∀ f ∈ c.as.flight, f.writes = true → f.underway = false) → c.cs.wait ≠ .appendGone → s.core? k = some o →
      (o.inbox.length < 16 → s.poisoned here 64 = false → s.raceAt sh here 64 false false false = none → s.inboxRace sh k true = false →
        ∃ u d o' e, exec (.enqr ra rb) s = .next u ∧ SameMemory s u ∧ Went u c d c.sregs ∧ u.core? k = some o' ∧ o'.inbox = e.enqueue o.inbox ∧ ((∀ x ∈ o.inbox, x.since ≠ s.now) → o'.inbox = o.inbox ++ [e])
          ∧ o'.latches.getLsbD 0 = true ∧ e.block = BitVec.ofNat 512 (ofBytes (s.readTarget here 64)) ∧ e.sender = s.curCore ∧ e.ctx = sh.ctx ∧ e.since = s.now
          ∧ d.shard.any (·.committed) = true)
      ∧ (16 ≤ o.inbox.length → exec (.enqr ra rb) s = .next (s.waitOn .c (.append k))))
    ∧ ((95 < (c.sreg rb).toNat ∨ s.runsCtx k sh.ctx = false ∨ c.cs.wait = .appendGone) → exec (.enqr ra rb) s = .next (s.takeTrap s.curCore .c 13 (c.sreg rb)))
    ∧ (∀ e, c.inbox.find? (fun x => x.ctx == sh.ctx && x.since != s.now) = some e → s.raceAt sh here 64 true false false = none → s.inboxRace sh s.curCore false = false →
        ∀ i ∈ [Instr.inbox rd ra, .inboxNb rd ra],
        ∃ u d, exec i s = .next u ∧ Went u c d (c.setSreg rd (0x8000000000000000 + BitVec.ofNat 64 e.sender)).sregs ∧ d.inbox = c.inbox.erase e ∧ d.dcache = []
          ∧ u.readTarget here 64 = toBytes 64 e.block.toNat ∧ SameBut s u here 64)
    ∧ (c.inbox.find? (fun x => x.ctx == sh.ctx && x.since != s.now) = none →
        exec (.inbox rd ra) s = .next (s.waitOn .c .inbox)
        ∧ (s.det sh.ctx = false → exec (.inboxNb rd ra) s = .next (wrote s c rd 0))
        ∧ (s.det sh.ctx = true → exec (.inboxNb rd ra) s = .next (s.waitOn .c .inbox)))

/-- YIELD parks the shard behind the word when a ready task of at least its priority waits for the core, else it writes 0; WFE takes the event latches, or waits, at most ra clk; WFE_TIMEOUT sets latch 5 (R192, R193). -/
def Sys2Proof.Claim.YieldAndWfe : Prop :=
  (∀ (s : State) (c : Core) (sh : Shard) (rd ra : BitVec 6), RunsPlain s .c c sh → Free c [rd, ra] →
    let wanted := (s.work s.curCore).any fun x => decide (s.shardEff sh ≤ x.eff)
    (s.det sh.ctx = true ∨ s.freeSlot sh.ctx = none ∨ wanted = false → exec (.yield rd) s = .next (wrote s c rd 0))
    ∧ (∀ slot, s.det sh.ctx = false → s.freeSlot sh.ctx = some slot → wanted = true →
        (s.canPark c = true → exec (.yield rd) s = .next ((on s (after (c.setSreg rd 1) .c)).park s.curCore slot false false))
        ∧ (s.canPark c = false → exec (.yield rd) s = .next (s.waitOn .c .save)))
    ∧ (c.latches ≠ 0 → exec (.wfe rd ra) s = .next (wrote s { c with latches := 0 } rd (if s.det sh.ctx then 0 else c.latches.setWidth 64)))
    ∧ (c.latches = 0 → c.cs.wait = .none → exec (.wfe rd ra) s
        = .next (s.waitOn .c (.event (if c.sreg ra = 0 ∨ s.det sh.ctx = true then none else some (s.now + (c.sreg ra).toNat)))))
    ∧ (∀ d, c.latches = 0 → c.cs.wait = .event d → exec (.wfe rd ra) s = .next (s.waitOn .c (.event d))))
  ∧ ∀ (s : State) (c : Core) (sh : Shard) (d : Nat), s.core? s.args.core = some c → c.shard = some sh → c.cs.wait = .event (some d) → d ≤ s.now →
    exec .wfeTimeout s = .next (s.setCore s.args.core { c with latches := setBit c.latches 5 true })

/-! ### Traps and the return from them (R66, R194, R195, R379, R382) -/

/-- TRAP and BRK trap with codes 16 and 17 and their immediate; under debug BRK completes with a TYPE 5 record and parks the shard. Any trap of a running shard with a handler enters it: CR.CAUSE, CR.TVAL and the three CR.EPC are written, the C-stream goes to CR.TVEC with no active loop slot, the loop slots and the phase operand of a waiting BARARW are set aside (R172, R186), and nothing else of the core changes. -/
def Sys2Proof.Claim.TrapEntry : Prop :=
  (∀ (s : State) (c : Core) (sh : Shard) (imm : BitVec 16), RunsPlain s .c c sh →
    exec (.trap imm) s = .next (s.takeTrap s.curCore .c 16 (imm.setWidth 64))
    ∧ ((Map.look s.ctxs sh.ctx).any Ctx.debug = false → exec .brk s = .next (s.takeTrap s.curCore .c 17 ((c.ir.extractLsb' 0 16).setWidth 64)))
    ∧ (∀ slot, (Map.look s.ctxs sh.ctx).any Ctx.debug = true → s.freeSlot sh.ctx = some slot → s.canPark c = true → ∃ f : FaultRec,
        exec .brk s = .next ((s.postFault sh.ctx f).1.parkBehind s.curCore slot true)
        ∧ f.typ = 5 ∧ f.core = s.curCore ∧ f.shard = sh.num ∧ f.taskId = sh.taskId ∧ f.tval = (c.ir.extractLsb' 0 16).setWidth 64 ∧ f.pc = c.cs.pc))
  ∧ ∀ (s : State) (n : Nat) (c : Core) (sh : Shard) (σ : Strm) (code : BitVec 8) (tval : Word),
    s.core? n = some c → c.shard = some sh → c.spec = none → c.tvec ≠ 0 → c.inh = false →
    let u := s.takeTrap n σ code tval
    u = { s with cores := u.cores, arrays := u.arrays } ∧ (∀ m, m ≠ n → u.core? m = s.core? m)
    ∧ ∃ d, u.core? n = some d
      ∧ d = { c with cause := d.cause, tval := tval, epcC := c.cs.pc, epcA := c.as.pc, epcV := c.vs.pc, savedLoops := c.cs.loops, savedBar := c.barWait, barWait := none, vrun := none, walkFails := [], cs := d.cs, as := d.as, vs := d.vs }
      ∧ d.cause = 0x8000 + (match σ with | .c => 0 | .a => 0x100 | .v => 0x200) + code.setWidth 64 ∧ d.inh = true
      ∧ d.cs = { c.cs with pc := c.tvec, loops := [], wait := .none } ∧ d.as = { c.as with wait := .none } ∧ d.vs = { c.vs with wait := .none }

/-- A trap with no handler, or inside one, halts the shard: its core is free, no shard of its task runs any more, and the task is to end with STATUS 1 (R41, R42, R379). -/
def Sys2Proof.Claim.TrapWithoutHandler : Prop :=
  ∀ (s : State) (n : Nat) (c : Core) (sh : Shard) (t : Task) (σ : Strm) (code : BitVec 8) (tval : Word),
    s.core? n = some c → c.shard = some sh → c.spec = none → (c.tvec = 0 ∨ c.inh = true) → Map.look s.tasks sh.task = some t → t.failed = none →
    let u := s.takeTrap n σ code tval
    (∃ d, u.core? n = some d ∧ d.shard = none)
    ∧ (∀ m d h, u.core? m = some d → d.shard = some h → h.task ≠ sh.task)
    ∧ ∃ t' info, Map.look u.tasks sh.task = some t' ∧ t'.failed = some (1, some n, info) ∧ ∀ x ∈ t'.shards, x = .retired ∨ x = .stopped

/-- RTE and RTE.skip: the streams resume at their CR.EPC, the loop slots of the C-stream come back, and INH is cleared; RTE.skip completes the word of the stream that trapped. Where the trap came from an access behind its stream, the stream goes on where it stood, and its access issues again (R383). Outside a handler they are illegal encodings (R195). -/
def Obligations.TrapReturn : Prop :=
  ∀ (s : State) (c : Core) (sh : Shard) (skip : Bool), RunsPlain s .c c sh →
    let i := if skip then Instr.rteSkip else .rte
    (c.inh = false → exec i s = .next (s.takeTrap s.curCore .c 1 i.tval))
    ∧ (c.inh = true → s.heldTrap s.curCore c sh = none → c.cs.halted = false → c.ahead = none → (∀ f ∈ c.cs.flight ++ c.as.flight, f.held = false) →
      let who := c.cause.extractLsb' 8 2
      ∃ d, exec i s = .next (on s d)
        ∧ d = { c with cause := c.cause &&& ~~~0x8000, savedLoops := [], savedBar := none, cs := d.cs, as := d.as, vs := d.vs, beat := d.beat, barWait := d.barWait, aregs := d.aregs, setas := d.setas }
        ∧ d.barWait = (if skip = true ∧ who = 0 then none else c.savedBar)
        ∧ (skip = true ∧ who = 1 ∧ c.beat ≠ none → d.setas = []) ∧ (¬(skip = true ∧ who = 1 ∧ c.beat ≠ none) → d.setas = c.setas ∧ d.aregs = c.aregs)
        ∧ d.cs.instret = c.cs.instret + (if skip = true ∧ who = 0 then 2 else 1)
        ∧ (¬(skip = true ∧ who = 0) → d.cs.pc = c.epcC ∧ d.cs.loops = c.savedLoops ∧ d.cs.pred = c.cs.pred)
        ∧ (skip = true ∧ who = 0 → d.cs.pc = ({ c.cs with loops := c.savedLoops }.complete c.epcC).pc)
        ∧ (c.as.halted = true → d.as = c.as) ∧ (c.vs.halted = true → d.vs = c.vs)
        ∧ (c.as.halted = false → ¬(skip = true ∧ who = 1) → d.as = { c.as with pc := c.epcA, wait := .none })
        ∧ (c.vs.halted = false → ¬(skip = true ∧ who = 2) → d.vs = { c.vs with pc := c.epcV, wait := .none })
        ∧ (c.vs.halted = false → skip = true ∧ who = 2 → d.vs.pc = (c.vs.complete c.epcV).pc ∧ d.vs.instret = c.vs.instret + 1)
        ∧ (c.as.halted = false → skip = true ∧ who = 1 → d.as.pc = (c.as.complete c.epcA).pc ∧ d.as.instret = c.as.instret + 1 ∧ d.beat = none)
        ∧ (¬(skip = true ∧ who = 1) → d.beat = c.beat))
    ∧ (∀ τ w pc, c.inh = true → s.heldTrap s.curCore c sh = none → c.ahead = some (τ, w, pc) → skip = false →
        ∃ u d, exec .rte s = .next u ∧ u.core? s.curCore = some d ∧ SameMemory s u ∧ d.inh = false ∧ d.ahead = none ∧ (d.strm τ).pc = pc ∧ (d.strm τ).flight.length = (c.strm τ).flight.length
          ∧ ∀ f ∈ (d.strm τ).flight, f.held = false)

/-! ### Leases and retirement (R38, R196, R391) -/

/-- LEASE, LEASE.nb and UNLEASE (R196): a free lease that no core waits for is granted at once, a busy one makes LEASE wait in line and LEASE.nb write 0; LEASE_GRANT gives a free lease to the next in turn, LEASE_RUN_BOUND ends a run of 16,384 clk (R391). -/
def Sys2Proof.Claim.LeaseWords : Prop :=
  (∀ (s : State) (c : Core) (sh : Shard) (rd : BitVec 6) (a : Array), RunsPlain s .c c sh → Free c [rd] → Map.look s.arrays (arrayOf s.curCore) = some a →
    let n := s.curCore
    let grants (i : Instr) (regs : Map Word) : Prop := ∃ u d, exec i s = .next u ∧ Went u c d regs ∧ d.lastRun = 0 ∧ SameMemory s u
      ∧ Map.look u.arrays (arrayOf n) = some { a with holder := some n, runOpen := true, runStart := s.now, accepted := 0, waiting := removeNat a.waiting n }
    (s.hasLease n = true → exec .lease s = .next (on s (after c .c)) ∧ exec (.leaseNb rd) s = .next (wrote s c rd 1))
    ∧ (s.hasLease n = false → a.inService = true →
        (s.leaseFree (arrayOf n) = true → s.leaseWaiters n = [] → grants .lease c.sregs ∧ grants (.leaseNb rd) (c.setSreg rd 1).sregs)
        ∧ (s.leaseFree (arrayOf n) = false ∨ s.leaseWaiters n ≠ [] →
            (∃ u, exec .lease s = .next u ∧ u.core? n = some { c with cs := { c.cs with wait := .lease } }
              ∧ Map.look u.arrays (arrayOf n) = some { a with waiting := insertNat a.waiting n })
            ∧ (s.det sh.ctx = false → exec (.leaseNb rd) s = .next (wrote s c rd 0))))
    ∧ (∃ u d, exec .unlease s = .next u ∧ Went u c d c.sregs
        ∧ (s.hasLease n = true → Map.look u.arrays (arrayOf n) = some { a with runOpen := false, last := n })
        ∧ (s.hasLease n = false → u.arrays = s.arrays)))
  ∧ ∀ (s : State) (a : Array) (n : Nat), Map.look s.arrays s.args.idx = some a → arrayOf n = s.args.idx →
    (∀ c, a.inService = true → s.leaseFree s.args.idx = true → nextHolder a.lastHolder a.waiting = some n → s.core? n = some c → c.resuming = none →
      ∃ u, exec .leaseGrant s = .next u ∧ u.core? n = some { c with lastRun := 0, cs := { c.cs with wait := .none } }
        ∧ Map.look u.arrays s.args.idx = some { a with holder := some n, runOpen := true, runStart := s.now, accepted := 0, waiting := removeNat a.waiting n })
    ∧ (a.holder = some n → a.runOpen = true → a.runStart + 16384 ≤ s.now →
      exec .leaseRunBound s = .next { s with arrays := Map.put s.arrays s.args.idx { a with runOpen := false, last := n } })

/-- SHARD_RETIRE: the core of a shard whose HALT has ended is free, and its task counts the shard as retired (R22, R38); with a failed M-command the task's shards stop instead, and the task is lost (R372, R423). -/
def Sys2Proof.Claim.ShardRetires : Prop :=
  ∀ (s : State) (c : Core) (sh : Shard) (t : Task), s.core? s.args.core = some c → c.shard = some sh → c.cs.halted = true → Map.look s.tasks sh.task = some t →
    (c.mfailed = none → sh.num < t.shards.length →
      ∃ u d t', exec .shardRetire s = .next u ∧ u.core? s.args.core = some d ∧ d.shard = none ∧ Map.look u.tasks sh.task = some t'
        ∧ t'.shards = t.shards.set sh.num .retired ∧ t'.failed = t.failed)
    ∧ (∀ info, c.mfailed = some info →
      ∃ u d t', exec .shardRetire s = .next u ∧ u.core? s.args.core = some d ∧ d.shard = none ∧ Map.look u.tasks sh.task = some t'
        ∧ t'.lost.isSome = true ∧ ∀ x ∈ t'.shards, x = .retired ∨ x = .stopped)

/-! ### Held rows (R204, R317 to R337, R405) -/

/-- ROPEN and ROPEN.cell: status 1 while the slot is opening or held, the status of the first check that fails, 5 in a quadrant or context that refuses, else the slot is opening its row, of a version made with it for an output that nothing has written, and rd names it (R329). -/
def Sys2Proof.Claim.RowOpenWords : Prop :=
  ∀ (s : State) (c : Core) (sh : Shard) (rd ra rb : BitVec 6) (h : BitVec 4) (save : Bool) (ht : BitVec 4) (off : BitVec 7),
    RunsPlain s .c c sh → Free c [rd, ra, rb] →
    let i := Instr.ropen rd ra rb h save ht off
    let r := refOf (c.sreg ra) (c.sreg rb)
    let old := s.holdAt c h.toNat
    let busy := old.state = .opening ∨ old.state = .held
    let refuses (place : Nat) : Prop := s.quadOk place = false ∨ (Map.look s.ctxs sh.ctx).any Ctx.nohold = true
    let opens (j : Instr) (x : HoldRow) (place : Nat) (made : Option Version) : Prop :=
      (busy → exec j s = .next (wrote s c rd (BitVec.ofNat 64 (1 * 2 ^ 40))))
      ∧ (¬ busy → refuses place → ∃ u d, exec j s = .next u ∧ Went u c d (c.setSreg rd (BitVec.ofNat 64 (5 * 2 ^ 40))).sregs ∧ SameMemory s u ∧ u.uid = s.uid
          ∧ d.hold h.toNat = if old.state = .free then old else Hold.empty.after (c.hold h.toNat) s.now 0)
      ∧ (¬ busy → ¬ refuses place → ∃ (u : State) (d : Core) (y : Hold), exec j s = .next u ∧ Went u c d (c.setSreg rd (BitVec.ofNat 64 (place % 2 ^ 32))).sregs ∧ SameMemory s u
          ∧ d.hold h.toNat = y ∧ y.state = .opening ∧ y.row = x ∧ y.place = BitVec.ofNat 32 place ∧ y.save = save
          ∧ y.request = (if ht = 0 then 3000 else 750 * ht.toNat)
          ∧ (made = none → u.uid = s.uid) ∧ ∀ v, made = some v → u.uid = s.uid + 1 ∧ Map.look u.versions s.uid = some v)
    ((sh.mayRead r || sh.outs.contains r) = false → exec i s = .next (s.takeTrap s.curCore .c 10 (c.sreg ra)))
    ∧ ((sh.mayRead r || sh.outs.contains r) = true →
        (∀ st, s.findRow sh (Ref.of r) off.toNat = .status st → exec i s = .next (wrote s c rd (BitVec.ofNat 64 (st * 2 ^ 40))))
        ∧ (∀ x place v new, s.findRow sh (Ref.of r) off.toNat = .row x place v new → opens i x place (if new then some v else none)))
    ∧ (∀ a, aperture (c.sreg ra).toNat = some (0, a) →
        (sh.pure = true → exec (.ropenCell rd ra h save ht) s = .next (s.takeTrap s.curCore .c 10 (c.sreg ra)))
        ∧ (∀ pa, sh.pure = false → c.translate 0 sh.ctx a .read = .ok (.dram pa) →
            opens (.ropenCell rd ra h save ht) (.cell (pa / 1024 * 1024)) (rowPlace (pa / 1024 * 1024)) none)
        ∧ (sh.pure = false → c.translate 0 sh.ctx a .read = .miss → exec (.ropenCell rd ra h save ht) s = .next ((s.tlbMiss s.curCore 0 sh.ctx a).waitOn .c .translation))
        ∧ (sh.pure = false → (c.translate 0 sh.ctx a .read = .fault ∨ ∃ t, t.outside = true ∧ c.translate 0 sh.ctx a .read = .ok t) → exec (.ropenCell rd ra h save ht) s = .next (s.takeTrap s.curCore .c 12 (c.sreg ra)))
        ∧ (sh.pure = false → c.translate 0 sh.ctx a .read = .poisoned → exec (.ropenCell rd ra h save ht) s = .next (s.stopPoisoned s.curCore sh .c (c.sreg ra) c.cs.pc true)))
    ∧ ((∀ a, aperture (c.sreg ra).toNat ≠ some (0, a)) → exec (.ropenCell rd ra h save ht) s = .next (s.takeTrap s.curCore .c 13 (c.sreg ra)))

/-- RREL frees a slot and returns the high half of its slot word; RRENEW extends the deadline of a held row up to its limit, or gives status 6, 7 or 8, where a revocation of this clk has yet to come for it; RREL waits for the next clk behind an event of the slot that R337 takes after its own; RSTAT reads the slot word (R330 to R332, R337, R408). -/
def Sys2Proof.Claim.RowSlotWords : Prop :=
  ∀ (s : State) (c : Core) (sh : Shard) (rd : BitVec 6) (h ht : BitVec 4), RunsPlain s .c c sh → Free c [rd] →
    let x := s.holdAt c h.toNat
    let w := s.slotWord s.curCore h.toNat x (s.det sh.ctx)
    let y := s.holdRenewed c h.toNat
    let lim := y.since + s.hmax y.place.toNat
    let left (d : Nat) : Nat := min (2 ^ 32 - 1) (d - s.now)
    exec (.rstat rd h) s = .next (wrote s c rd w)
    ∧ (x.state = .free → exec (.rrel rd h) s = .next (wrote s c rd (BitVec.ofNat 64 (6 * 2 ^ 40))))
    ∧ (x.state ≠ .free → x.admits s.now 0 = true → ∃ u d, exec (.rrel rd h) s = .next u ∧ Went u c d (c.setSreg rd (w >>> 32)).sregs
        ∧ d.hold h.toNat = Hold.empty.after (c.hold h.toNat) s.now 0 ∧ SameMemory s u)
    ∧ (x.state ≠ .free → x.admits s.now 0 = false → exec (.rrel rd h) s = .next (s.waitOn .c .none))
    ∧ ((c.hold h.toNat).stamp.1 ≠ s.now → y = x)
    ∧ (y.state ≠ .held → exec (.rrenew rd h ht) s = .next (wrote s c rd (BitVec.ofNat 64 (6 * 2 ^ 40))))
    ∧ (y.state = .held → s.det sh.ctx = true → exec (.rrenew rd h ht) s = .next (wrote s c rd 0))
    ∧ (y.state = .held → s.det sh.ctx = false →
        (y.deadline = lim → exec (.rrenew rd h ht) s = .next (wrote s c rd (BitVec.ofNat 64 (8 * 2 ^ 40 + left lim))))
        ∧ (y.deadline ≠ lim → s.contended y.place.toNat = true → exec (.rrenew rd h ht) s = .next (wrote s c rd (BitVec.ofNat 64 (7 * 2 ^ 40 + left y.deadline))))
        ∧ (y.deadline ≠ lim → s.contended y.place.toNat = false → ∀ d, d = min (max y.deadline (s.now + if ht = 0 then 3000 else 750 * ht.toNat)) lim →
            exec (.rrenew rd h ht) s = .next (wrote s (if (c.hold h.toNat).state = .revoked then c else c.setHold h.toNat (Hold.after { y with deadline := d } y s.now 2)) rd (BitVec.ofNat 64 (left d)))))

/-- ROW_OPENED, HOLD_EXPIRY and HOLD_REVOKE complete: an opening slot becomes held until the earlier of its request and ROW.HMAX, and the opening is charged to HOLD unless the row is open already; one behind its deadline expires, and in deterministic mode stays held to the program with its row closed; a revoked slot takes its cause (R325 to R327, R337). -/
def Sys2Proof.Claim.RowSlotSteps : Prop :=
  ∀ (s : State) (c : Core) (sh : Shard) (x : Hold), s.core? s.args.core = some c → c.shard = some sh → c.hold s.args.idx = x → c.resuming = none →
    let n := s.args.core
    let h := s.args.idx
    let place := x.place.toNat
    (x.state = .opening → s.groupHeld place = false → s.rowResident x = true → s.retraining place = false →
      exec .rowOpened s = .next ((if s.holders place = [] then s.charge (quadOf place) actHold 1 else s).setCore n (c.setHold h
        (Hold.after { x with state := .held, since := s.now, deadline := max 1 (s.now + min x.request (s.hmax place)) } x s.now 4))))
    ∧ (x.open = true → x.deadline < s.now → ∃ u d, exec .holdExpiry s = .next u ∧ u.core? n = some d ∧ SameMemory s u ∧ d = { c with holds := d.holds }
        ∧ d.hold h = if s.det sh.ctx then Hold.after { x with cause := 0, deadline := 0 } x s.now 1 else Hold.after { x with state := .expired, cause := 0 } x s.now 3)
    ∧ ((x.state = .opening ∨ x.state = .held) → s.args.code = 4 →
        ∃ u d, exec .holdRevoke s = .next u ∧ u.core? n = some d ∧ SameMemory s u ∧ d = { c with holds := d.holds } ∧ d.hold h = Hold.after { x with state := .revoked, cause := 4 } x s.now 1)
    ∧ ((x.state = .opening ∨ x.state = .held) → s.args.code = 2 → ∃ u, exec .holdRevoke s = .next u)

/-- REFRESH_DUE counts a refresh of its quadrant and charges it to REFRESH; PATROL_SCRUB, charged to SCRUB, leaves a clean codeword alone, counts and records an error, poisons the line of a lasting one in cell memory that no slot holds, and leaves a parked version to its safe-tier copy; a Calendar period ends with its counters, staged caps and layer rates as the rules say (R318, R319, R323, R333 to R337, R405). -/
def Sys2Proof.Claim.RowUpkeepSteps : Prop :=
  (∀ (s : State) (p : Port), s.port? (quadOf s.args.a) = some p → isQuadrant (quadOf s.args.a) = true → p.inService = true → s.openedNow s.args.a = false →
    ∃ u q, exec .refreshDue s = .next u ∧ u = { s with ports := u.ports } ∧ u.port? (quadOf s.args.a) = some q ∧ q.refreshes = p.refreshes + 1
      ∧ q.periods = p.periods ∧ (s.openRows s.args.a = [] → q = { p.charge actRefresh 2 s.now with refreshes := p.refreshes + 1 }))
  ∧ (∀ s : State,
      let pa := s.args.value.toNat
      let charged (n : Nat) : State := s.charge (pa / 2 ^ 34 % 32) actScrub n
      (s.args.code = 0 → exec .patrolScrub s = .next (charged 1))
      ∧ (∀ code ∈ [(1 : BitVec 8), 2], s.args.code = code →
          ∃ u, exec .patrolScrub s = .next u ∧ u = { charged 2 with counters := u.counters, bus := u.bus, correctedAt := u.correctedAt })
      ∧ (s.args.code = 3 → s.args.idx = 0 → s.cellAddr pa = true →
          (∀ c ∈ s.cores, ∀ h ∈ c.2.holds, h.2.open = true → h.2.row ≠ .cell (pa / 1024 * 1024)) →
          ∃ u, exec .patrolScrub s = .next u ∧ pa / 64 ∈ u.poison ∧ SameMemory s u
            ∧ u = { charged 2 with counters := u.counters, bus := u.bus, poison := u.poison, poisonedBy := u.poisonedBy })
      ∧ (∀ v d k r, s.args.code = 3 → s.args.idx = 1 → Map.look s.versions s.args.a = some v → v.present = true → s.args.b < v.pieces → v.record = some (d, k) →
          s.record? d k = some r → r.flags.getLsbD fParked = true →
          ∃ u r', exec .patrolScrub s = .next u ∧ u.versions = s.versions ∧ u.record? d k = some r' ∧ r'.flags = setBit r.flags fResident false))
  ∧ ∀ (s : State) (p : Port), s.port? s.args.idx = some p → p.start + 1500 ≤ s.now →
    let ask (a : Nat) : Nat := (Map.look p.budgets a).elim 0 Budget.tally + usedOf s.args.bytes a
    let g := p.grants s.args.idx ask
    ∃ u q, exec .calendarPeriod s = .next u ∧ u = { s with ports := u.ports, bus := u.bus, correctedAt := u.correctedAt } ∧ u.port? s.args.idx = some q
      ∧ q.periods = p.periods + 1 ∧ q.start = p.start + 1500 ∧ q.ovr = p.ovr + BitVec.ofNat 32 (p.beyond g) ∧ q.counters = p.counters
      ∧ (isQuadrant s.args.idx = true → q.temps = s.args.value.setWidth 32 ∧ q.rates = nextRates p.rates (s.args.value.setWidth 32))
      ∧ (isQuadrant s.args.idx = false → q.temps = p.temps ∧ q.rates = p.rates)
      ∧ (p.forced = false → (q.budgets.map fun b => (b.1, b.2.used, b.2.borrowed, b.2.tally)) = p.budgets.map (fun b =>
          (b.1, BitVec.ofNat 16 (g b.1), if b.2.borrow then BitVec.ofNat 16 (g b.1 - b.2.cap.toNat) else 0, ask b.1 - g b.1 + b.2.late)))
      ∧ (p.forced = true → q.reject = true ∧ q.forced = false
          ∧ (q.budgets.map fun b => (b.1, b.2.cap, b.2.borrow)) = (resetBudgets s.args.idx).map fun b => (b.1, b.2.cap, b.2.borrow))
      ∧ (p.forced = false → (∀ b ∈ p.budgets, b.2.staged = none) → q.reject = p.reject ∧ (q.budgets.map fun b => (b.1, b.2.cap, b.2.borrow)) = p.budgets.map fun b => (b.1, b.2.cap, b.2.borrow))

/-! ### The A-stream (R197 to R209) -/

/-- The eleven words of the address ALU: ad receives the value, a write of a0 is discarded, and nothing else changes but the A-stream's own position (R46, R205, R206). -/
def Sys2Proof.Claim.AddressWords : Prop :=
  ∀ (s : State) (c : Core) (sh : Shard) (ad aa ab : BitVec 5) (imm : BitVec 19), RunsPlain s .a c sh →
    let A := c.areg aa
    let B := c.areg ab
    ∀ e ∈ [(Instr.aadd ad aa ab, A + B), (.asub ad aa ab, A - B), (.aand ad aa ab, A &&& B), (.aor ad aa ab, A ||| B), (.axor ad aa ab, A ^^^ B),
        (.ashl ad aa ab, A <<< (B.setWidth 6)), (.ashr ad aa ab, A >>> (B.setWidth 6)), (.amul ad aa ab, A * B), (.amax ad aa ab, if A < B then B else A),
        (.aaddi ad aa imm, A + imm.signExtend 64), (.ali ad imm, imm.signExtend 64)],
      exec e.1 s = .next (on s (after (c.setAreg ad e.2) .a)) ∧ (c.setAreg 0 e.2 = c) ∧ (ad ≠ 0 → (c.setAreg ad e.2).areg ad = e.2)

/-- The words of beats take their token and read their address registers once; their beats follow. Without the token they wait (R58, R197, R198, R200 to R204). -/
def Sys2Proof.Claim.BeatWordsIssue : Prop :=
  ∀ (s : State) (c : Core) (sh : Shard) (q keyq : BitVec 4) (aa idx : BitVec 5) (step : BitVec 16) (src : Bool) (it kt : BitVec 2) (shift : BitVec 4)
      (rpt : BitVec 7) (size : BitVec 2) (pop push : BitVec 3), RunsPlain s .a c sh →
    let S := 8 * 2 ^ size.toNat
    let n := rpt.toNat + 1
    let spec (src : Nat) (idx it shift : Nat) : BitVec 16 := BitVec.ofNat 16 (src * 2 ^ 15 + idx * 2 ^ 10 + it * 2 ^ 8 + shift * 2 ^ 4)
    let beat (op : BitVec 8) (ibase : Word) (step : BitVec 16) (beats : Nat) : Beat :=
      { op := op, q := q.toNat, base := c.areg aa, ibase := ibase, step := step, beats := beats, size := S, push := push, j := 0, index := none, row := none, c0 := 0, c1 := 0 }
    ∀ e ∈ [(Instr.ald q aa step rpt size pop push, beat 0x40 0 step n), (.ast q aa step rpt size pop push, beat 0x41 0 step n),
        (.arld q aa step rpt size pop push, beat 0x45 0 step n), (.arst q aa step rpt size pop push, beat 0x46 0 step n),
        (.agth q aa src idx it shift rpt size pop push, beat 0x42 (c.areg idx) (spec src.toNat idx.toNat it.toNat shift.toNat) n),
        (.asct q aa src idx it shift rpt size pop push, beat 0x43 (c.areg idx) (spec src.toNat idx.toNat it.toNat shift.toNat) n),
        (.apart q aa keyq kt rpt size pop push, beat 0x44 0 (spec 0 keyq.toNat kt.toNat 0) (n * S / 2 ^ kt.toNat))],
      (pop = 0 → exec e.1 s = .next (on s { c with beat := some e.2, as := { c.as with wait := .none } }))
      ∧ (pop ≠ 0 → c.tokenCount pop.toNat = 0 → exec e.1 s = .next (s.waitOn .a (.token pop.toNat)))
      ∧ (pop ≠ 0 → 0 < c.tokenCount pop.toNat → ∃ u d, exec e.1 s = .next u ∧ Quiet s u ∧ SameMemory s u ∧ u.core? s.curCore = some d
          ∧ d.beat = some e.2 ∧ d.tokenCount pop.toNat + 1 = c.tokenCount pop.toNat ∧ d.as = { c.as with wait := .none } ∧ d.aregs = c.aregs ∧ d.gran = c.gran)

/-- AS_BEAT, for a beat of ALD or AST at base + j × step: a load goes into flight, or its bytes are there at once from the own scratchpad; a store takes its bytes from its queue, and writes them there or sends them. Neither takes effect at once behind an earlier access of the core to its scratchpad that is underway (R82). Then the next beat follows, or the word completes. A beat whose check fails traps there, and one at the limit of 64 beats waits (R197 to R200, R209). -/
def Sys2Proof.Claim.LinearBeats : Prop :=
  ∀ (s : State) (c : Core) (sh : Shard) (b : Beat) (size : BitVec 2),
    let n := s.args.core
    let here : State := { s with curCore := n, curStrm := .a }
    let va := b.base + BitVec.ofNat 64 b.j * b.step.signExtend 64
    s.core? n = some c → c.shard = some sh → c.beat = some b → c.as.halted = false → c.inh = false → c.setas = [] → b.size = 8 * 2 ^ size.toNat →
    let goesOn (u : State) : Prop := ∃ d, u.core? n = some d ∧ d.sregs = c.sregs ∧ d.aregs = c.aregs ∧ d.cs = c.cs
      ∧ (b.j + 1 < b.beats → d.beat = some { b with j := b.j + 1, index := none, row := none } ∧ d.as.pc = c.as.pc ∧ d.as.instret = c.as.instret)
      ∧ (b.beats ≤ b.j + 1 → d.beat = none ∧ d.as.pc = (c.as.complete c.as.pc).pc ∧ d.as.instret = c.as.instret + 1)
    (∀ t, b.op = 0x40 → c.beatsOut < 64 → here.checkFor 1 n sh (beatReq va b.size false) = .ok t →
      (c.direct n t = true → here.raceAt sh t b.size false true false = none) → ∃ u, exec .asBeat s = .next u ∧ SameMemory s u ∧ goesOn u)
    ∧ (∀ t bs c', b.op = 0x41 → c.beatsOut < 64 → here.checkFor 1 n sh (beatReq va b.size true) = .ok t →
      (c.storesNow n t = true → here.raceAt (sh.popped (c.pops b.q b.size)) t b.size true true false = none) →
      c.take sh.hwm b.q 2 b.size = .ok (bs, c') → bs.length = b.size → ∃ u, exec .asBeat s = .next u ∧ goesOn u
        ∧ (c.storesNow n t = true → u.readTarget t b.size = bs ∧ SameBut s u t b.size) ∧ (c.storesNow n t = false → SameMemory s u))
    ∧ (∀ code tval, (b.op = 0x40 ∧ c.beatsOut < 64 ∧ here.checkFor 1 n sh (beatReq va b.size false) = .trap code tval
          ∨ b.op = 0x41 ∧ c.beatsOut < 64 ∧ here.checkFor 1 n sh (beatReq va b.size true) = .trap code tval) → exec .asBeat s = .next (here.takeTrap n .a code tval))
    ∧ (b.op = 0x40 ∨ b.op = 0x41 → 64 ≤ c.beatsOut → exec .asBeat s = .next (here.waitOn .a (.queue b.q true)))

/-- AFLUSH zero-fills and pushes a partly placed entry of a load queue and discards a partly taken one of a store queue. Behind earlier accesses that its push has to follow, or earlier placements on its queue, it joins the flight, and the stream goes on (R207, R209). -/
def Sys2Proof.Claim.FlushWords : Prop :=
  ∀ (s : State) (c : Core) (sh : Shard) (q : BitVec 4), RunsPlain s .a c sh →
    let k := q.toNat
    let r := c.queue k
    let idle := ∀ f ∈ c.as.flight, f.fills k = false
    let clear := ∀ f ∈ c.as.flight, f.held = true ∨ f.marker = true ∨ if f.kind = .store then 5 ≤ f.path else f.value.isSome = true
    let pushed := c.push sh.hwm k (0x800 + q.setWidth 64) (granulesFrom (padTo (r.buf.take r.off) (c.entryBytes k)) r.size)
    (r.off = 0 → (8 ≤ k ∨ idle) → exec (.aflush q) s = .next (on s (after c .a)))
    ∧ (r.off ≠ 0 → 8 ≤ k → exec (.aflush q) s = .next (on s (after (c.setBuf k [] 0) .a)))
    ∧ (r.off ≠ 0 → k < 8 → idle → clear →
        (∀ c', pushed = .ok c' → ∃ u, exec (.aflush q) s = .next u ∧ Quiet s u ∧ SameMemory s u
          ∧ Touches s u s.curCore { c'.setBuf k [] 0 with shard := some { sh with region := none }, as := (c'.as.complete c'.as.pc).count })
        ∧ (∀ code tval, pushed = .trap code tval → exec (.aflush q) s = .next (s.takeTrap s.curCore .a code tval))
        ∧ (∀ w, pushed = .wait w → exec (.aflush q) s = .next (s.waitOn .a w)))
    ∧ (k < 8 → ¬ idle ∨ (r.off ≠ 0 ∧ ¬ clear) →
        ∃ f : Access, f.flushes = some k ∧ exec (.aflush q) s = .next (on s (after { c with as := { c.as with flight := c.as.flight ++ [f] } } .a)))

/-- AMCAST takes one entry of a store queue and writes it at an offset of the named cores of an array group: at once to its own scratchpad, unless an earlier access to it is underway (R82), with a store in flight for each granule of each other core (R83, R208). A failed check traps. -/
def Sys2Proof.Claim.MulticastWords : Prop :=
  ∀ (s : State) (c : Core) (sh : Shard) (q : BitVec 4) (aa ab : BitVec 5) (grp : BitVec 3) (imm : BitVec 19), RunsPlain s .a c sh →
    let k := q.toNat
    let n := s.curCore
    let t := c.areg aa + imm.signExtend 64
    let e := c.entryBytes k
    let cores := ((List.range 12).filter fun i => (c.areg ab).getLsbD i).map fun i => clusterBase n + 12 * grp.toNat + i
    (∀ code tval, mcastCheck s sh t (c.areg ab) grp.toNat e = some (code, tval) → exec (.amcast q aa ab grp imm) s = .next (s.takeTrap n .a code tval))
    ∧ ∀ o, mcastCheck s sh t (c.areg ab) grp.toNat e = none → aperture t.toNat = some (1, o) →
      let now := n ∈ cores ∧ c.storesNow n (.pad n o) = true
      let races := s.raceAt (sh.popped (c.pops k e)) (.pad n o) e true true false
      (∀ d, now → races = some d → exec (.amcast q aa ab grp imm) s = .next (s.takeTrap n .a 8 (raceTval t d)))
      ∧ ((now → races = none) →
        (∀ w, c.take sh.hwm k 18 e = .wait w → exec (.amcast q aa ab grp imm) s = .next (s.waitOn .a w))
        ∧ ∀ bs c', c.take sh.hwm k 18 e = .ok (bs, c') → bs.length = e →
          ∃ u d, exec (.amcast q aa ab grp imm) s = .next u ∧ u.core? n = some d ∧ d.as.pc = (c.as.complete c.as.pc).pc ∧ d.as.instret = c.as.instret + 1
            ∧ d.sregs = c.sregs ∧ d.aregs = c.aregs ∧ d.cs = c.cs ∧ d.queues = c'.queues ∧ u.mem = s.mem
            ∧ (now → u.readTarget (.pad n o) e = bs ∧ SameBut s u (.pad n o) e ∧ d.as.flight.length = c.as.flight.length + e / 64 * (cores.filter (· ≠ n)).length)
            ∧ (¬now → SameMemory s u ∧ d.as.flight.length = c.as.flight.length + e / 64 * cores.length))

/-! ### The V-stream (R210 to R234) -/

/-- Integer and bitwise words, compares and selection, lane by lane: result and SATF (R216, R217). -/
def Sys2Proof.Claim.VectorIntegerLanes : Prop :=
  ∀ (s : State) (c : Core) (sh : Shard) (d a b : BitVec 12) (m : Bool) (x : BitVec 3), RunsPlain s .v c sh →
    let t := c.vtype.toNat
    let w := typeWidth t
    let two (i : Instr) (types : Nat → Bool) : VSpec := vspec i d a b m x .v .v .v types
    let one (i : Instr) (types : Nat → Bool) : VSpec := vspec i d a b m x .v .v .none types
    let mask (p : Prop) [Decidable p] : Nat := if p then 2 ^ w - 1 else 0
    let wrap (v : Int) : Nat := (v % 2 ^ w).toNat
    let sat (v : Int) : Nat × Word := if v < intMin t then (wrap (intMin t), flagSATF) else if intMax t < v then (wrap (intMax t), flagSATF) else (wrap v, 0)
    (∀ e ∈ [(two (.vadd d a b m x) setI, fun A B => A + B), (two (.vsub d a b m x) setI, fun A B => A + (2 ^ w - B)), (two (.vmul d a b m x) setI, fun A B => A * B),
        (two (.vmulh d a b m x) setI, fun A B => wrap (intOf t A * intOf t B / 2 ^ w)), (two (.vand d a b m x) setAny, fun A B => A &&& B),
        (two (.vor d a b m x) setAny, fun A B => A ||| B), (two (.vxor d a b m x) setAny, fun A B => A ^^^ B),
        (two (.vandn d a b m x) setAny, fun A B => A &&& (2 ^ w - 1 - B)), (two (.vshl d a b m x) setI, fun A B => A * 2 ^ (B % w)),
        (two (.vshr d a b m x) setI, fun A B => A / 2 ^ (B % w)), (two (.vsra d a b m x) setI, fun A B => wrap (sextNat A w / 2 ^ (B % w))),
        (two (.vmin d a b m x) setI, fun A B => if intOf t A ≤ intOf t B then A else B), (two (.vmax d a b m x) setI, fun A B => if intOf t A ≤ intOf t B then B else A),
        (two (.vceq d a b m x) setAny, fun A B => mask (A = B)), (two (.vcne d a b m x) setAny, fun A B => mask (A ≠ B)),
        (two (.vclt d a b m x) setAny, fun A B => mask (sextNat A w < sextNat B w)), (two (.vcle d a b m x) setAny, fun A B => mask (sextNat A w ≤ sextNat B w)),
        (two (.vcltu d a b m x) setAny, fun A B => mask (A < B)), (two (.vcleu d a b m x) setAny, fun A B => mask (A ≤ B))],
      LaneWord s c sh e.1 fun _ A B _ => (e.2 A B, 0))
    ∧ LaneWord s c sh (two (.vadds d a b m x) setI) (fun _ A B _ => sat (intOf t A + intOf t B))
    ∧ LaneWord s c sh (two (.vsubs d a b m x) setI) (fun _ A B _ => sat (intOf t A - intOf t B))
    ∧ (∀ e ∈ [(one (.vabs d a b m x) setI, fun A => wrap (intOf t A).natAbs), (one (.vneg d a b m x) setI, fun A => wrap (-(A : Int))),
        (one (.vcnt d a b m x) setI, fun A => ((List.range w).filter A.testBit).length), (one (.vmov d a b m x) setAny, fun A => A),
        (one (.vinv d a b m x) setAny, fun A => 2 ^ w - 1 - A)], LaneWord s c sh e.1 fun _ A _ _ => (e.2 A, 0))
    ∧ LaneWord s c sh { two (.vsel d a b m x) setAny with dk := .vn, readD := fun _ => true } (fun _ A B D => (if D ≠ 0 then A else B, 0))

/-- VMOVI, VZERO and the words that widen and narrow: VMAD, VUNPK, VPACK (R216, R218, R220). Lane i of a wide result lies in granule i ÷ (lanes of a granule). -/
def Sys2Proof.Claim.VectorWideWords : Prop :=
  ∀ (s : State) (c : Core) (sh : Shard) (d a b : BitVec 12) (m : Bool) (x : BitVec 3) (imm : BitVec 16) (ga gb gd : List (BitVec 512)) (c' : Core), RunsPlain s .v c sh →
    let t := c.vtype.toNat
    let w := typeWidth t
    let lane (g : List (BitVec 512)) (i : Nat) : Nat := elem w (g.headD 0) i
    let wide (g : List (BitVec 512)) (i : Nat) : Nat := elem (2 * w) (g.getD (i / (512 / (2 * w))) 0) (i % (512 / (2 * w)))
    let vzero := vspec (.vzero d a b m x) d a b m x .v .none .none setAny
    let vmovi := vspec (.vmovi d a imm) d a 0 false 0 .v .none .none setAny
    let vmad : VSpec := { vspec (.vmad d a b m x) d a b m x .wn .v .v setI32 with readD := fun _ => true }
    let vunpk := vspec (.vunpk d a b m x) d a b m x .w .v .none setI32
    let vpack := vspec (.vpack d a b m x) d a b m x .v .v .v setI32
    (VReads c sh vzero ga gb gd c' → VWrites s c sh vzero c' [0] 0)
    ∧ (VReads c sh vmovi ga gb gd c' → ∃ r, VWrites s c sh vmovi c' [r] 0
        ∧ Lanes w r (fun _ => if t = 0xA then imm.toNat * 2 ^ 16 else if t = 4 ∨ t = 6 then (imm.toInt % 2 ^ w).toNat else imm.toNat))
    ∧ (VReads c sh vmad ga gb gd c' → ∃ r0 r1, VWrites s c sh vmad c' [r0, r1] 0
        ∧ ∀ i < 512 / w, (wide [r0, r1] i : Int) = (wide gd i + intOf t (lane ga i) * intOf t (lane gb i)) % 2 ^ (2 * w))
    ∧ (VReads c sh vunpk ga gb gd c' → ∃ r0 r1, VWrites s c sh vunpk c' [r0, r1] 0 ∧ ∀ i < 512 / w, (wide [r0, r1] i : Int) = intOf t (lane ga i) % 2 ^ (2 * w))
    ∧ (VReads c sh vpack ga gb gd c' → ga.length = 1 → gb.length = 1 → ∃ r, VWrites s c sh vpack c' [r] 0
        ∧ Lanes w r (fun i => if i < 256 / w then elem (2 * w) (ga.headD 0) i else elem (2 * w) (gb.headD 0) (i - 256 / w)))

/-- VMODE writes the type and the mode; VCLRF clears a full bit; a word whose predicate is 0 completes with no effect, and one whose checks fail traps with the failing operand or the word in CR.TVAL (R134, R213, R215, R219). -/
def Obligations.VectorModeAndChecks : Prop :=
  ∀ (s : State) (c : Core) (sh : Shard) (d a b : BitVec 12) (m : Bool) (x : BitVec 3) (typ : BitVec 4) (wt wm ftz : Bool) (rnd : BitVec 3), RunsPlain s .v c sh →
    exec (.vmode typ wt wm ftz rnd) s = .next (on s (after { c with vtype := if wt then typ else c.vtype, ftz := if wm then ftz else c.ftz, rnd := if wm then rnd else c.rnd } .v))
    ∧ (∀ v, v = vspec (.vclrf d a b m x) d a b m x .vn .none .none setAny → c.vcheckOnce sh.hwm v = none → (m = true ∨ c.vs.p x.toNat = true) →
        let g := c.nameGranule .v (specNum (stepSpec d c.vs.rep))
        exec (.vclrf d a b m x) s = .next (on s (advanced { c with full := setBit c.full g false } v.reps)))
    ∧ (∀ e ∈ [vspec (.vadd d a b m x) d a b m x .v .v .v setI, vspec (.vfadd d a b m x) d a b m x .v .v .v setF, vspec (.vclrf d a b m x) d a b m x .vn .none .none setAny],
        (c.vcheckOnce sh.hwm e = none → m = false → c.vs.p x.toNat = false → exec e.self s = .next (on s (after c .v)))
        ∧ (∀ code tval, c.vrun = none → c.vcheck sh.hwm e = some (code, tval) → exec e.self s = .next (s.takeTrap s.curCore .v code tval))
        ∧ (c.badOperands sh.hwm e = none →
            e.types c.vtype.toNat = false → c.vcheck sh.hwm e = some (1, e.self.tval)))

/-- Floating-point words, lane by lane: result and flags, through the operands of R116 and the one rounding of R112 (R221 to R226). -/
def Sys2Proof.Claim.VectorFloatLanes : Prop :=
  ∀ (s : State) (c : Core) (sh : Shard) (d a b : BitVec 12) (m : Bool) (x : BitVec 3), RunsPlain s .v c sh →
    let E := c.venv sh
    let t := c.vtype.toNat
    let w := typeWidth t
    let V := operand c.ftz t
    let two (i : Instr) : VSpec := vspec i d a b m x .v .v .v setF
    let one (i : Instr) : VSpec := vspec i d a b m x .v .v .none setF
    let three (i : Instr) : VSpec := { two i with dk := .vn, readD := fun _ => true }
    let rounded (i : Nat) (r : Val × Word) : Nat × Word := ((E.round t i r.1).1, r.2 ||| (E.round t i r.1).2)
    let fused (i : Nat) (p r : Val × Word) : Nat × Word := ((E.round t i r.1).1, p.2 ||| r.2 ||| (E.round t i r.1).2)
    let mask (p : Bool) : Nat × Word := (if p then 2 ^ w - 1 else 0, 0)
    (∀ e ∈ [(two (.vfadd d a b m x), fun i A B => rounded i ((V A).add E.mode (V B))), (two (.vfsub d a b m x), fun i A B => rounded i ((V A).add E.mode (V B).negate)),
        (two (.vfmul d a b m x), fun i A B => rounded i ((V A).mul (V B))), (two (.vfmin d a b m x), fun _ A B => (fmin c.ftz t A B, 0)),
        (two (.vfmax d a b m x), fun _ A B => (fmax c.ftz t A B, 0)), (two (.vfceq d a b m x), fun _ A B => mask ((V A).eq (V B))),
        (two (.vfclt d a b m x), fun _ A B => mask ((V A).lt (V B))), (two (.vfcle d a b m x), fun _ A B => mask ((V A).lt (V B) || (V A).eq (V B))),
        (two (.vfscl d a b m x), fun i A B => E.round t i ((V A).mul (dyadic false 1 (nearExp (sextNat B w)))).1)],
      LaneWord s c sh e.1 fun i A B _ => e.2 i A B)
    ∧ (∀ e ∈ [(one (.vfabs d a b m x), fun _ A => (if (V A).isNan then nanBits t else flushed c.ftz t A % 2 ^ (w - 1), 0)),
        (one (.vfneg d a b m x), fun _ A => (if (V A).isNan then nanBits t else flushed c.ftz t A ^^^ 2 ^ (w - 1), 0)),
        (one (.vfclass d a b m x), fun _ A => (classCode t A, (0 : Word))), (one (.vrcpa d a b m x), fun i A => rounded i (rcpValue (V A))),
        (one (.vrsqa d a b m x), fun i A => rounded i (rsqValue (V A))), (one (.vlog2a d a b m x), fun i A => rounded i (log2Value (V A))),
        (one (.vexp2a d a b m x), fun i A => E.round t i (exp2Value (V A)))],
      LaneWord s c sh e.1 fun i A _ _ => e.2 i A)
    ∧ LaneWord s c sh (three (.vfma d a b m x)) (fun i A B D => let p := (V A).mul (V B); fused i p (p.1.add E.mode (V D)))
    ∧ LaneWord s c sh (three (.vfms d a b m x)) (fun i A B D => let p := (V A).mul (V B); fused i p (p.1.add E.mode (V D).negate))
    ∧ LaneWord s c sh (three (.vfnma d a b m x)) (fun i A B D => let p := (V A).mul (V B); fused i p ((V D).add E.mode p.1.negate))

/-- VCVT, VCVTSR, VQNT, VDQNT, VMXQ and VMXD: which elements are converted, where they land, and what stays of d (R117 to R120, R227 to R230). -/
def Sys2Proof.Claim.VectorConversions : Prop :=
  ∀ (s : State) (c : Core) (sh : Shard) (d a b : BitVec 12) (m : Bool) (x p : BitVec 3) (src : BitVec 4) (ga gb gd : List (BitVec 512)) (c' : Core), RunsPlain s .v c sh →
    let E := c.venv sh
    let t := c.vtype.toNat
    let w := typeWidth t
    let S := src.toNat
    let ws := typeWidth S
    let g := ga.headD 0
    let V := operand c.ftz
    let vcvt : VSpec := { vspec (.vcvt d a p src m x) d a 0 m x .v .v .c (fun t => t != 13 && S != 13) with
                          readD := fun t => decide (typeWidth t < typeWidth S), control := fun t => decide (p.toNat < ratio S t) }
    let vcvtsr : VSpec := { vspec (.vcvtsr d a b m x) d a b m x .v .v .v (fun t => t == 8 || t == 9 || t == 11 || t == 12) with
                            readD := fun _ => true, late := fun t gb => decide (32 / typeWidth t ≤ (counterOf gb).2.2.2) }
    let vqnt := vspec (.vqnt d a b m x) d a b m x .v .w .none setQ
    let vdqnt := vspec (.vdqnt d a b m x) d a b m x .w .v .none setQ
    let vmxq := vspec (.vmxq d a b m x) d a b m x .v .w .none setMx
    let vmxd := vspec (.vmxd d a b m x) d a b m x .w .v .none setMx
    let half (r : List (BitVec 512)) (i : Nat) : Nat := elem 32 (r.getD (i / 16) 0) (i % 16)
    (VReads c sh vcvt ga gb gd c' → ∃ r fl, VWrites s c sh vcvt c' [r] fl
        ∧ (ws ≤ w → Lanes w r (fun i => (convert E S t i (elem ws g (if ws < w then 512 / w * p.toNat + i else i))).1))
        ∧ (w < ws → p.toNat < ratio S t → (∀ i < 512 / ws, elem w r (512 / ws * p.toNat + i) = (convert E S t i (elem ws g i)).1 % 2 ^ w)
            ∧ ∀ j < 512 / w, (j < 512 / ws * p.toNat ∨ 512 / ws * p.toNat + 512 / ws ≤ j) → elem w r j = elem w (gd.headD 0) j))
    ∧ (VReads c sh vcvtsr ga gb gd c' → ∃ r fl, VWrites s c sh vcvtsr c' [r] fl
        ∧ let k := counterOf gb
          (∀ i < 16, elem w r (16 * k.2.2.2 + i) = (roundTo t 5 (drawWord sh.seed sh.taskId k.1 (k.2.1 + i) k.2.2.1) c.ftz (V 10 (elem 32 g i))).1 % 2 ^ w)
          ∧ ∀ j < 512 / w, (j < 16 * k.2.2.2 ∨ 16 * k.2.2.2 + 16 ≤ j) → elem w r j = elem w (gd.headD 0) j)
    ∧ (VReads c sh vqnt ga gb gd c' → setQ t = true → let q := quantise t ((elems 32 ga).map (V 10))
        let tiny := c.ftz && isSubnormal 8 q.1
        ∃ r, VWrites s c sh vqnt c' [r] (q.2.2.2 ||| if tiny then flagUF ||| flagNX else 0)
          ∧ (∀ i < 32, elem w r i = q.2.2.1.getD i 0 % 2 ^ w) ∧ elem 16 r 28 = (if tiny then 0 else q.1 % 2 ^ 16) ∧ elem 8 r 58 = q.2.1 % 2 ^ 8)
    ∧ (VReads c sh vdqnt ga gb gd c' → ∃ r0 r1 fl, VWrites s c sh vdqnt c' [r0, r1] fl
        ∧ ∀ i < 32, half [r0, r1] i = (E.round 10 i ((V 8 (elem 16 g 28)).mul (valOfInt (intOf t (elem w g i) - intOf t (elem 8 g 58 % 2 ^ w)))).1).1 % 2 ^ 32)
    ∧ (VReads c sh vmxq ga gb gd c' → let q := mxEncode t c.ftz ((elems 32 ga).map (V 10))
        ∃ r, VWrites s c sh vmxq c' [r] q.2.2 ∧ (∀ i < 32, elem 8 r i = q.2.1.getD i 0 % 2 ^ 8) ∧ elem 8 r 32 = q.1 % 2 ^ 8)
    ∧ (VReads c sh vmxd ga gb gd c' → ∃ r0 r1 fl, VWrites s c sh vmxd c' [r0, r1] fl
        ∧ ∀ i < 32, half [r0, r1] i = (E.round 10 i (if elem 8 g 32 = 0xFF then .nan else ((V t (elem 8 g i)).mul (valOf 13 (elem 8 g 32))).1)).1 % 2 ^ 32)

/-- Reductions leave their result in lane 0 and zero elsewhere (R231); lane movement, transposition and random bits (R122, R232 to R234). -/
def Obligations.VectorReductionsAndMoves : Prop :=
  ∀ (s : State) (c : Core) (sh : Shard) (d a b : BitVec 12) (m : Bool) (x : BitVec 3) (lane : BitVec 7) (amt : BitVec 8) (site : BitVec 2)
      (ga gb gd : List (BitVec 512)) (c' : Core), RunsPlain s .v c sh →
    let E := c.venv sh
    let t := c.vtype.toNat
    let w := typeWidth t
    let n := 512 / w
    let A (i : Nat) : Nat := elem w (ga.headD 0) i
    let red (i : Instr) : VSpec := vspec i d a b m x .v .v .none fun t => setI t || setF t
    let writes (v : VSpec) (f : Nat → Nat) : Prop := VReads c sh v ga gb gd c' → ga.length = v.ak.cls?.elim 0 (fun k => k.1.granules) → ∃ r, VWrites s c sh v c' [r] 0 ∧ Lanes w r f
    let first (v : Nat) (i : Nat) : Nat := if i = 0 then v else 0
    let minus (f : Nat → Nat → Nat) : Nat := ((List.range n).map A).tail.foldl f (f (A 0) (A 0))
    (isInt t = true → writes (red (.vrsum d a b m x)) (first (((List.range n).map A).sum))
      ∧ writes (red (.vrmax d a b m x)) (first (minus fun p q => if intOf t p ≤ intOf t q then q else p))
      ∧ writes (red (.vrmin d a b m x)) (first (minus fun p q => if intOf t p ≤ intOf t q then p else q)))
    ∧ (isInt t = false → writes (red (.vrmax d a b m x)) (first (minus (fmax c.ftz t))) ∧ writes (red (.vrmin d a b m x)) (first (minus (fmin c.ftz t)))
      ∧ (VReads c sh (red (.vrsum d a b m x)) ga gb gd c' → ga.length = 1 → ∃ r fl, VWrites s c sh (red (.vrsum d a b m x)) c' [r] fl
          ∧ Lanes w r (first (treeSum E 8 1 ((List.range n).map A) 0).1)))
    ∧ writes (vspec (.vperm d a b m x) d a b m x .v .v .v setAny) (fun i => A (elem w (gb.headD 0) i % n))
    ∧ writes (vspec (.vslide d a amt m x) d a 0 m x .v .v .c setAny) (fun i => if 0 ≤ (i : Int) + amt.toInt ∧ (i : Int) + amt.toInt < n then A ((i : Int) + amt.toInt).toNat else 0)
    ∧ writes (laneSpec (.vbcast d a lane m x) d a lane m x .v) (fun _ => A lane.toNat)
    ∧ writes (laneSpec (.vext d a lane m x) d a lane m x .v) (first (A lane.toNat))
    ∧ writes { laneSpec (.vins d a lane m x) d a lane m x .vn with readD := fun _ => true } (fun i => if i = lane.toNat then A 0 else elem w (gd.headD 0) i)
    ∧ writes (vspec (.viota d a b m x) d a b m x .v .v .none setI) (fun i => A 0 + i)
    ∧ (let v := vspec (.vtrans d a b m x) d a b m x .t .t .none fun t => typeWidth t == 32 || typeWidth t == 16
      VReads c sh v ga gb gd c' → ∃ rs : List (BitVec 512), rs.length = 16 ∧ VWrites s c sh v c' rs 0
        ∧ ∀ i < 16, ∀ j < n, elem w (rs.getD i 0) j = elem w (ga.getD (j % 16) 0) (16 * (j / 16) + i))
    ∧ (let v := vspec (.vrng d a site m x) d a 0 m x .v .v .c setAny
      VReads c sh v ga gb gd c' → ∃ r, VWrites s c sh v c' [r] 0
        ∧ ∀ i < 16, elem 32 r i = drawWord sh.seed sh.taskId (elem 32 (ga.headD 0) 0) (elem 32 (ga.headD 0) 1 + i) site.toNat % 2 ^ 32)

/-! ### Matrix arrays (R235 to R252, R371, R372) -/

/-- The nine words of the matrix array push a command with their registers, sizes and flags, count it in the run, and take or add a format word; without the lease they trap with code 15, and a check of R238 that fails traps with its code. Pushing releases: the word waits for the earlier accesses (R89, R90, R196, R235 to R241, R251). -/
def Obligations.MatrixPushWords : Prop :=
  ∀ (s : State) (c : Core) (sh : Shard) (ra rb : BitVec 6) (acc : Bool) (m n k : BitVec 2) (f20 f19 f18 : Bool) (pop push : BitVec 3),
    RunsPlain s .c c sh → Free c [ra, rb] → c.cs.acquiring = false →
    let M := 16 * 2 ^ m.toNat
    let N := 16 * 2 ^ n.toNat
    let K := 32 * 2 ^ k.toNat
    let cmd (op : BitVec 8) (rb : Word) (acc : Bool) (m n k : Nat) (flags : BitVec 3) (fmt : Word) : MCmd :=
      { op := op, ra := c.sreg ra, rb := rb, acc := acc, m := m, n := n, k := k, flags := flags, push := push, fmt := fmt,
        index := c.lastRun + 1, pc := c.cs.pc, started := false, failed := none }
    let one : BitVec 3 := if f18 then 1 else 0
    let all : BitVec 3 := (if f20 then 4 else 0) + (if f19 then 2 else 0) + one
    ∀ e ∈ [(Instr.mfmt ra pop push, cmd 0xB0 0 false 0 0 0 0 (c.sreg ra)), (.mma ra rb acc m n k f20 f19 f18 pop push, cmd 0xB1 (c.sreg rb) acc M N K all (c.fmts.headD 0)),
        (.mmas ra rb acc m n k f20 f19 f18 pop push, cmd 0xB2 (c.sreg rb) acc M N K all (c.fmts.headD 0)), (.mresc ra acc m n pop push, cmd 0xB3 0 acc M N 0 0 0),
        (.mzero ra acc m n f18 pop push, cmd 0xB4 0 acc M N 0 one 0), (.mldac ra acc m n pop push, cmd 0xB5 0 acc M N 0 0 0),
        (.mstac ra acc m n f18 pop push, cmd 0xB6 0 acc M N 0 one 0), (.mstsm ra acc m n f18 pop push, cmd 0xB7 0 acc M N 0 one 0),
        (.mnorm ra acc m n f18 pop push, cmd 0xB8 0 acc M N 0 one 0)],
      let room := e.2.op = 0xB0 → c.fmts.length < 8
      (s.hasLease s.curCore = false → exec e.1 s = .next (s.takeTrap s.curCore .c 15 (BitVec.ofNat 64 c.lastRun)))
      ∧ (s.hasLease s.curCore = true → ¬ room → exec e.1 s = .next (s.takeTrap s.curCore .c 1 e.1.tval))
      ∧ (∀ code tval, s.hasLease s.curCore = true → room → mChecks c e.2 = some (code, tval) → exec e.1 s = .next (s.takeTrap s.curCore .c code tval))
      ∧ (s.hasLease s.curCore = true → room → mChecks c e.2 = none → c.cs.loadsDone = false → exec e.1 s = .next (s.waitOn .c .acquire))
      ∧ (s.hasLease s.curCore = true → room → mChecks c e.2 = none → c.cs.loadsDone = true → c.cs.fiveZero = false → exec e.1 s = .next (s.waitOn .c .stores))
      ∧ (s.hasLease s.curCore = true → room → mChecks c e.2 = none → c.released 0 = true →
        (pop ≠ 0 → c.tokenCount pop.toNat = 0 → exec e.1 s = .next (s.waitOn .c (.token pop.toNat)))
        ∧ ((pop ≠ 0 → 0 < c.tokenCount pop.toNat) → 16 ≤ c.mqueue.length → exec e.1 s = .next (s.waitOn .c .engine))
        ∧ ((pop ≠ 0 → 0 < c.tokenCount pop.toNat) → c.mqueue.length < 16 → ∃ u d, exec e.1 s = .next u ∧ Went u c d c.sregs ∧ SameMemory s u
            ∧ d.mqueue = c.mqueue ++ [e.2] ∧ d.lastRun = c.lastRun + 1 ∧ d.gran = c.gran
            ∧ d.fmts = (if e.2.op = 0xB0 then c.fmts ++ [c.sreg ra] else if e.2.op = 0xB1 ∨ e.2.op = 0xB2 then c.fmts.drop 1 else c.fmts)
            ∧ (∀ b, (d.acc b).elems = (c.acc b).elems ∧ (d.acc b).rowmax = (c.acc b).rowmax ∧ (d.acc b).rowsum = (c.acc b).rowsum)
            ∧ (pop ≠ 0 → d.tokenCount pop.toNat + 1 = c.tokenCount pop.toNat)
            ∧ u = { s with cores := u.cores, arrays := u.arrays, watched := u.watched, regions := u.regions, order := u.order }
            ∧ ((Map.look u.arrays (arrayOf s.curCore)).any fun a => decide (c.lastRun + 1 < 64) || !a.runOpen) = true))

/-- M_COMMAND_START starts the oldest command that no earlier one on its accumulators holds back, and an MFMT at the head is done with it; a command that M_COMMAND_COMPLETE ends with an error poisons its accumulator and fails the shard (R96, R236, R237, R241, R372). -/
def Sys2Proof.Claim.MatrixCommandSteps : Prop :=
  ∀ (s : State) (c : Core) (sh : Shard) (x : MCmd), s.core? s.args.core = some c → c.shard = some sh →
    (∀ k, nextStart c.mqueue = some k → c.mqueue[k]? = some x →
      (k ≠ 0 ∨ x.op ≠ 0xB0 → exec .mCommandStart s = .next (s.setCore s.args.core { c with mqueue := c.mqueue.set k { x with started := true } }))
      ∧ (k = 0 → x.op = 0xB0 → ∃ u d, exec .mCommandStart s = .next u ∧ Quiet s u ∧ u.core? s.args.core = some d ∧ d.mqueue = c.mqueue.drop 1 ∧ d.acc0 = c.acc0 ∧ d.acc1 = c.acc1))
    ∧ (∀ rest, c.mqueue = x :: rest → x.started = true → s.retrying s.args.core 2 = false → x.op ≠ 0xB0 → c.mFails x = true →
        ∃ u d, exec .mCommandComplete s = .next u ∧ u.core? s.args.core = some d ∧ d.mqueue = rest ∧ d.mfailed.isSome = true
          ∧ (x.closes = false → (d.acc x.acc).poisoned = true) ∧ (x.closes = true → (d.acc x.acc).elems = [] ∧ (d.acc x.acc).poisoned = false))
    ∧ (∀ rest, c.mqueue = x :: rest → x.started = true → s.retrying s.args.core 2 = false → c.slotted = [] → x.push ≠ 0 → c.tokenCount x.push.toNat < 15 →
        ∃ u d, exec .mCommandComplete s = .next u ∧ u.core? s.args.core = some d ∧ d.mqueue = rest ∧ d.slotted = []
          ∧ d.tokenCount x.push.toNat = c.tokenCount x.push.toNat + 1)

/-- M_COMMAND_COMPLETE of a command that does not fail: the new elements of its window, by command; every element outside the window stays, nothing but the bytes that MSTAC and MSTSM store changes in memory, and one that closes returns its accumulator to its dispatch values (R242 to R249). -/
def Sys2Proof.Claim.MatrixCommandEffects : Prop :=
  ∀ (s : State) (c : Core) (sh : Shard) (x : MCmd) (rest : List MCmd),
    let n := s.args.core
    s.core? n = some c → c.shard = some sh → c.mqueue = x :: rest → x.started = true → s.retrying n 2 = false → c.mFails x = false → badWindow x = none →
    let a := c.acc x.acc
    let other := c.acc (!x.acc)
    let row := winRow x.ra
    let col := winCol x.ra
    let inside (i j : Nat) : Prop := row ≤ i ∧ i < row + x.m ∧ col ≤ j ∧ j < col + x.n
    let makes (f : Nat → Nat → BitVec 32) : Prop := ∃ u d, exec .mCommandComplete s = .next u ∧ u.core? n = some d ∧ d.mqueue = rest ∧ SameMemory s u
      ∧ (d.acc (!x.acc)).elems = other.elems ∧ (∀ i < x.m, ∀ j < x.n, (d.acc x.acc).get (row + i) (col + j) = f i j)
      ∧ ∀ i j, j < 128 → ¬ inside i j → (d.acc x.acc).get i j = a.get i j
    let stores (f : Nat → Nat → Nat) : Prop := ∃ u d, exec .mCommandComplete s = .next u ∧ u.core? n = some d ∧ d.mqueue = rest
      ∧ (x.closes = false → d.acc0 = c.acc0 ∧ d.acc1 = c.acc1) ∧ (x.closes = true → d.acc x.acc = a.cleared ∧ d.acc (!x.acc) = other)
      ∧ u.readTarget (.pad n (winOff x.ra)) (x.image f).length = x.image f ∧ SameBut s u (.pad n (winOff x.ra)) (x.image f).length
    let cur (i j : Nat) : BitVec 32 := a.get (row + i) (col + j)
    (x.op = 0xB1 → makes fun i j => (x.product c i j).1)
    ∧ (x.op = 0xB2 → makes (fun i j => (x.product c i j).1)
        ∧ ∃ u d, exec .mCommandComplete s = .next u ∧ u.core? n = some d ∧ ∀ i < x.m,
            let r := softRow a (row + i) ((List.range x.n).map fun j => (x.product c i j).1)
            (d.acc x.acc).max (row + i) = r.1 ∧ (d.acc x.acc).sum (row + i) = r.2.1)
    ∧ (x.op = 0xB3 → makes fun i j => (accRound ((f32 (cur i j)).mul (rescale (a.max (row + i)) (other.max (row + i)))).1).1)
    ∧ (x.op = 0xB4 → makes fun _ _ => 0)
    ∧ (x.op = 0xB5 → makes fun i j => let w := c.padElem (winOff x.ra) 32 (i * x.n + j); if winType x.ra = 4 then BitVec.ofNat 32 w else (flushBits w).1)
    ∧ (x.op = 0xB8 → makes fun i j => (accRound (quotient (f32 (cur i j)) (f32 ((if x.low then other else a).sum (row + i))))).1)
    ∧ (x.op = 0xB6 → stores fun i j => storeElem (winType x.ra) (cur i j))
    ∧ (x.op = 0xB7 → stores fun i j => (roundTo (winType x.ra) 0 0 false (f32 (softTerm (cur i j) (a.max (row + i))))).1)
    ∧ (x.op = 0xB0 → ∃ u d, exec .mCommandComplete s = .next u ∧ u.core? n = some d ∧ d.mqueue = rest ∧ d.acc0 = c.acc0 ∧ d.acc1 = c.acc1 ∧ SameMemory s u)

/-! ### Data-movement commands (R258 to R273) -/

/-- The twelve words of the X-engines: the checks of R259 in order, then the command joins the core's queue with its registers and what the push reads, with STATUS 9 if that is poisoned and STATUS 4 if the read races; a register destination becomes pending. Pushing releases: the word waits for the accesses before it (R89, R90, R104, R258 to R262, R267 to R272). Readings that are the model's own choice: log entry 13. -/
def Obligations.CommandPushWords : Prop :=
  ∀ (s : State) (c : Core) (sh : Shard) (rd ra rb rc : BitVec 6) (cm : BitVec 2) (flags : BitVec 14) (reg : Bool),
    RunsPlain s .c c sh → Free c [rd, ra, rb, rc] → c.cs.acquiring = false →
    let A := c.sreg ra
    let B := c.sreg rb
    let D := c.sreg rc
    let status (op : BitVec 8) (d : Word) := s.xStatus s.curCore sh op A d (s.xPacket s.curCore c.pad op A d)
    let cmd (op : BitVec 8) (cb : Bool) (b d : Word) (cm : BitVec 2) (tb : Nat) : XCmd :=
      { op := op, ra := A, rb := b, rc := d, rd := rd.toNat, cm := cm, tb := tb, cb := cb, packet := s.xPacket s.curCore c.pad op A d,
        pc := c.cs.pc, order := s.order, since := s.now, started := false, groups := 0, subtracted := 0, written := 0,
        status := status op d, pushed := status op d, cls := none, failAt := if status op d = none then 0 else if op = 0xC0 then A else d, msgs := [], sent := false }
    let tb := 16 * flags.toNat
    let form : BitVec 2 := if reg then 1 else 0
    ∀ e ∈ [(Instr.copy rd ra cm flags, cmd 0xC0 false 0 0 cm tb), (.tload rd ra rb rc cm flags, cmd 0xC1 false B D cm tb), (.tstore rd ra rb rc cm flags, cmd 0xC2 false B D cm tb),
        (.tseal rd ra rb reg, cmd 0xC3 false B 0 form 0), (.tsealCb rd ra rb reg, cmd 0xC3 true B 0 form 0), (.tmcast rd ra rb rc cm flags, cmd 0xC4 false B D cm tb),
        (.pstore rd ra rb rc cm flags, cmd 0xC5 false B D cm tb), (.tpark rd ra rb rc cm flags, cmd 0xC6 false B D cm tb), (.tunpark rd ra rb cm flags, cmd 0xC7 false B 0 cm tb),
        (.trepl rd ra rb rc cm flags, cmd 0xC8 false B D cm tb), (.reqnt rd ra rb rc cm flags, cmd 0xC9 false B D cm tb), (.tdrop rd ra rb cm flags, cmd 0xCA false B 0 cm tb)],
      let x := e.2
      let traps (code : BitVec 8) (v : Word) : Prop := exec e.1 s = .next (s.takeTrap s.curCore .c code v)
      let ok1 := xCheck1 x.op x.cb x.ra x.rc = none
      let ok2 := xCheck2 x.op x.cb x.ra x.rc = none
      let ok3 := xCheck3 s.curCore sh x.op x.ra x.rb x.rc x.packet = none
      (∀ v, xCheck1 x.op x.cb x.ra x.rc = some v → traps 13 v)
      ∧ (∀ v, ok1 → xCheck2 x.op x.cb x.ra x.rc = some v → traps 11 v)
      ∧ (∀ v, ok1 → ok2 → xCheck3 s.curCore sh x.op x.ra x.rb x.rc x.packet = some v → traps 10 v)
      ∧ (ok1 → ok2 → ok3 → c.cs.loadsDone = false → exec e.1 s = .next (s.waitOn .c .acquire))
      ∧ (ok1 → ok2 → ok3 → c.cs.loadsDone = true → c.released 0 = false → exec e.1 s = .next (s.waitOn .c .stores))
      ∧ (ok1 → ok2 → ok3 → c.released 0 = true → s.heardOut s.curCore c 0 = true →
        (16 ≤ c.xqueue.length → exec e.1 s = .next (s.waitOn .c .engine))
        ∧ (c.xqueue.length < 16 → ∃ u d, exec e.1 s = .next u ∧ Went u c d c.sregs ∧ SameMemory s u ∧ d.xqueue = c.xqueue ++ [x]
            ∧ d.pending = (if x.cm.getLsbD 0 = true ∧ rd ≠ 0 then insertNat c.pending rd.toNat else c.pending) ∧ d.gran = c.gran
            ∧ u = { s with cores := u.cores, tasks := u.tasks, watched := u.watched, regions := u.regions, order := u.order }
            ∧ d.shard.any (fun h => h.committed == (sh.committed || (xCommits sh x.op x.ra x.rb && !sh.pure))) = true))

/-- X_COMMAND_START starts the oldest command that has not started: a copy with a malformed packet and a tile command with a bad reference take their STATUS, any other goes on as it is (R96, R262, R263, R267 to R271). -/
def Sys2Proof.Claim.CommandStarts : Prop :=
  ∀ (s : State) (c : Core) (sh : Shard) (k : Nat) (x : XCmd), s.core? s.args.core = some c → c.shard = some sh → c.resuming = none →
    c.xqueue.findIdx? (fun y => !y.started) = some k → c.xqueue[k]? = some x →
    let n := s.args.core
    let starts (u : State) (y : XCmd) : Prop := ∃ d, u.core? n = some d ∧ d.xqueue = c.xqueue.set k y ∧ d.sregs = c.sregs ∧ d.cs = c.cs
    let exactly (y : XCmd) : Prop := exec .xCommandStart s = .next (s.setCore n { c with xqueue := c.xqueue.set k { y with started := true } })
    (x.status ≠ none → exactly x)
    ∧ (x.status = none →
    (x.op = 0xC0 → Packet.malformed x.packet = true → exactly { x with status := some 5 })
    ∧ (x.op = 0xC0 → Packet.malformed x.packet = false → exactly x)
    ∧ (x.op = 0xC3 → x.cb = true → (x.rb.toNat % 64 ≠ 0 ∨ x.rb.toNat < 64 ∨ 2 ^ 24 < x.rb.toNat) → exactly { x with status := some 5 })
    ∧ (x.op = 0xC2 ∨ x.op = 0xC5 → sh.rebuild = false →
        (∀ st, s.checkRef sh x.ref = .inl st → exactly { x with status := some st })
        ∧ (∀ t, s.checkRef sh x.ref = .inr t → (x.ref.latest = true ∨ x.ref.twin = true ∨ t.twin ≠ decide (x.op = 0xC5)) → exactly { x with status := some 5 })
        ∧ (∀ t, s.checkRef sh x.ref = .inr t → x.ref.latest = false → x.ref.twin = false → t.twin = decide (x.op = 0xC5) → exactly x))
    ∧ (x.op = 0xC1 → (∀ st, s.checkRef sh x.ref = .inl st → exactly { x with status := some st })
        ∧ (∀ t st, s.checkRef sh x.ref = .inr t → s.sealedVersion sh x.ref = .inl st → exactly { x with status := some st })
        ∧ (∀ t r key v, s.checkRef sh x.ref = .inr t → s.sealedVersion sh x.ref = .inr (r, key, v) → ∃ u y, exec .xCommandStart s = .next u ∧ starts u y
            ∧ y = { x with started := true, ra := r.word.extractLsb' 0 64, rb := r.word.extractLsb' 64 64, written := 0 })))

/-- COPY_GROUP_DONE for a plain copy of one piece within the own scratchpad: its bytes are at DST, and nothing else has changed in memory. A group of any other copy is done, or fails, as well (R262, R263, R265). -/
def Sys2Proof.Claim.CopyGroups : Prop :=
  ∀ (s : State) (c : Core) (sh : Shard) (x : XCmd), s.core? s.args.core = some c → c.shard = some sh → c.xqueue[s.args.idx]? = some x →
    let n := s.args.core
    let p := Packet.of x.packet
    let lo := 4096 * x.groups
    let m := min 4096 (p.len - lo)
    x.op = 0xC0 → x.started = true → x.status = none → x.sent = false → x.msgs = [] → s.args.code = 0 → p.whole = false → m ≠ 0 → s.retrying n 1 = false → s.behind n sh c.xqueue s.args.idx x = false → s.copyClear n sh x p = true →
    (s.engineNeeds n sh [] (p.srcSegs lo m ++ if p.decode then p.auxSegs lo m else []) = [] →
      s.engineWaits n sh [] (p.srcSegs lo m ++ if p.decode then p.auxSegs lo m else []) = false → ∃ u d y, exec .copyGroupDone s = .next u ∧ u.core? n = some d
        ∧ d.xqueue[s.args.idx]? = some y ∧ d.sregs = c.sregs ∧ (y.sent = true ∨ y.status ≠ none ∨ y.groups = x.groups + 1))
    ∧ (∀ a b, p.decode = false → p.fill = false → p.cvt = false → p.qnt = false → p.pack = false → p.len ≤ p.cap → x.groups = 0 → x.cm.getLsbD 1 = false →
        aperture p.src.toNat = some (1, a) → aperture p.dst.toNat = some (1, b) → a % 64 + p.len ≤ 64 → b % 64 + p.len ≤ 64 →
        s.poisoned (.pad n a) p.len = false → s.watched = [] → s.lostMarks = [] →
        ∃ u d y, exec .copyGroupDone s = .next u ∧ u.core? n = some d ∧ d.xqueue = c.xqueue.set s.args.idx y ∧ y.groups = 1 ∧ y.written = x.written + p.len ∧ y.status = none
          ∧ d.sregs = c.sregs ∧ u.readTarget (.pad n b) p.len = s.readTarget (.pad n a) p.len ∧ SameBut s u (.pad n b) p.len)

/-- X_COMMAND_COMPLETE with a register destination: the command leaves the queue, and its register receives bit 63, the bytes written and the STATUS (R260). A copy behind its last group, a failed tile command, TSEAL of sealed versions, TSEAL.cb, TLOAD and TSTORE do what their rules say (R74, R260, R268, R269, R271). Readings that are the model's own choice: log entries 11, 21. -/
def Obligations.CommandsComplete : Prop :=
  ∀ (s : State) (c : Core) (sh : Shard) (x : XCmd), s.core? s.args.core = some c → c.shard = some sh → c.xqueue[s.args.idx]? = some x →
    let n := s.args.core
    x.started = true → s.retrying n 1 = false → s.behind n sh c.xqueue s.args.idx x = false → x.cm = 1 →
    let ends (u : State) (written status : Nat) : Prop := ∃ d, u.core? n = some d ∧ d.xqueue = c.xqueue.eraseIdx s.args.idx
      ∧ d.sregs = (c.settleReg x.rd (BitVec.ofNat 64 (2 ^ 63 + written * 2 ^ 8 + status))).sregs ∧ d.pending = removeNat c.pending x.rd ∧ d.cs = c.cs
    let off := x.rc.toNat % 2 ^ 18
    (x.op = 0xC0 → x.sent = false → (∀ st, x.status = some st → ∃ u, exec .xCommandComplete s = .next u ∧ ends u x.written st.toNat ∧ SameMemory s u)
        ∧ (x.status = none → (Packet.of x.packet).whole = false → (Packet.of x.packet).len ≤ 4096 * x.groups → ∃ u, exec .xCommandComplete s = .next u ∧ ends u x.written 0 ∧ SameMemory s u))
    ∧ (x.op ≠ 0xC0 → ∀ st, x.status = some st → ∃ u, exec .xCommandComplete s = .next u ∧ ends u 0 st.toNat ∧ SameMemory s u)
    ∧ (x.status = none →
      (∀ key v, x.op = 0xC3 → x.cb = false → s.findVersion sh.ctx x.ref = some (key, v) → v.sealed_ = true → ∃ u, exec .xCommandComplete s = .next u ∧ ends u 0 0 ∧ SameMemory s u)
      ∧ (∀ ps, x.op = 0xC3 → x.cb = true → s.range sh.ctx .read x.ra.toNat x.rb.toNat = .ok ps → ∃ u, exec .xCommandComplete s = .next u ∧ ends u 0 0 ∧ SameMemory s u
          ∧ (∀ a k, (Target.dram a, k) ∈ ps → 0 < k → a / 64 ∈ u.sealed_) ∧ ∀ l ∈ s.sealed_, l ∈ u.sealed_)
      ∧ (∀ key v, x.op = 0xC1 → s.findVersion sh.ctx x.ref = some (key, v) → s.kept v = true → s.readable v = true → s.versionBlocked key v = false →
          let img := v.imageOf x.ref.twin
          (off + img.length ≤ 0x40000 → s.raceAt (sh.reading v) (.pad n off) img.length true true false = none →
            ∃ u, exec .xCommandComplete s = .next u ∧ ends u img.length 0 ∧ u.readTarget (.pad n off) img.length = img ∧ SameBut s u (.pad n off) img.length)
          ∧ (0x40000 < off + img.length → ∃ u, exec .xCommandComplete s = .next u ∧ ends u 0 2 ∧ SameMemory s u))
      ∧ (∀ t, x.op = 0xC2 → s.storeBlocked sh x.ref = false → s.checkRef sh x.ref = .inr t → t.twin = false → off + t.imageSize ≤ 0x40000 → s.findVersion sh.ctx x.ref = none → sh.outs.contains x.ref.word = true →
          s.tileStoreFull (s.standIn (t.homeOf x.ref)) (newVersion sh t x.ref true).pieces = false → s.poisoned (.pad n off) t.imageSize = false → s.det sh.ctx = false →
          s.raceAt sh (.pad n off) t.imageSize false true false = none →
          ∃ u v, exec .xCommandComplete s = .next u ∧ ends u t.imageSize 0 ∧ SameMemory s u ∧ Map.look u.versions s.uid = some v ∧ v.sealed_ = false ∧ v.task = some sh.task
            ∧ v.image = t.withEdges x.ref (s.readTarget (.pad n off) t.imageSize)))

/-! ### Harvest (R305 to R316, R427) -/

/-- A result word: STATUS in [47:40], ROUND in [31:0] (R312). -/
def Sys2Proof.Claim.resultWord (status : Nat) (round : BitVec 32) : Word := BitVec.ofNat 64 (status * 2 ^ 40 + round.toNat)

/-- HJOIN: checks of rb and of the block's address, status 5 for a block that is not sealed or not the installed one, and else the status of the binding, which binds the shard to the member; HLEAVE and HSYNC answer 5 and 6, unbind the member, and clear its stall, each behind the events of its clk that R309 takes before it (R306, R307, R312). -/
def Sys2Proof.Claim.HarvestMembershipWords : Prop :=
  ∀ (s : State) (c : Core) (sh : Shard) (rd ra rb : BitVec 6), RunsPlain s .c c sh → Free c [rd, ra, rb] →
    let A := c.sreg ra
    let k := A.toNat % 2 ^ 12
    let m := A.toNat / 2 ^ 12 % 2 ^ 6
    let mj := (c.sreg rb).toNat
    let join := Instr.hjoin rd ra rb
    (2 ^ 6 ≤ mj → exec join s = .next (s.takeTrap s.curCore .c 13 (c.sreg rb)))
    ∧ (∀ off, mj < 2 ^ 6 → aperture A.toNat = some (0, off) →
        (off % 64 ≠ 0 → exec join s = .next (s.takeTrap s.curCore .c 11 A))
        ∧ (off % 64 = 0 → c.translate 0 sh.ctx off .read = .fault → exec join s = .next (s.takeTrap s.curCore .c 12 A))
        ∧ (off % 64 = 0 → c.translate 0 sh.ctx off .read = .miss → exec join s = .next ((s.tlbMiss s.curCore 0 sh.ctx off).waitOn .c .translation))
        ∧ (∀ tg, off % 64 = 0 → c.translate 0 sh.ctx off .read = .ok tg →
            (s.sealedRange sh.ctx off 128 = false → exec join s = .next (wrote s c rd (resultWord 5 0)))
            ∧ (s.sealedRange sh.ctx off 128 = true → s.readRange sh.ctx off 128 = none →
                ∃ w : Word, exec join s = .next (ends { s with free := s.free + 1 } rd w))
            ∧ (∀ bs, s.sealedRange sh.ctx off 128 = true → s.readRange sh.ctx off 128 = some bs →
                (∀ st, s.joined sh bs = .inr st → exec join s = .next (wrote s c rd (resultWord st 0)))
                ∧ (∀ t t' st r, s.joined sh bs = .inl t → t.bindMember sh (bits (field bs 0 2) 0 12) mj = (t', st, r) → exec join s = .next (ends t' rd (resultWord st r)))
                ∧ (∀ g, Map.look s.groups (bits (field bs 0 2) 0 12) = some g → g.ctx = sh.ctx → g.decl = bs → mj < g.n → (g.member mj).bound = none → (g.member mj).port = none →
                    g.peers.testBit mj = false → s.bindings sh < 8 → ∃ u d g', exec join s = .next u ∧ Went u c d (c.setSreg rd (resultWord 0 (s.openFor g mj))).sregs ∧ SameMemory s u
                      ∧ Map.look u.groups (bits (field bs 0 2) 0 12) = some g' ∧ (g'.member mj).bound = some (sh.task, sh.num) ∧ (g'.member mj).present = true ∧ g'.rounds = g.rounds))))
    ∧ (∀ i ∈ [Instr.hleave rd ra, .hsync rd ra],
        (2 ^ 18 ≤ A.toNat → exec i s = .next (s.takeTrap s.curCore .c 13 A))
        ∧ (A.toNat < 2 ^ 18 → s.groupOf? sh.ctx k = none → exec i s = .next (wrote s c rd (resultWord 5 0)))
        ∧ (∀ g, A.toNat < 2 ^ 18 → s.groupOf? sh.ctx k = some g → g.binds m sh = false → exec i s = .next (wrote s c rd (resultWord 6 (s.openFor g m)))))
    ∧ (∀ g, A.toNat < 2 ^ 18 → s.groupOf? sh.ctx k = some g → g.binds m sh = true →
        let leave := if s.det sh.ctx then g.ownNext m else g.later (g.nextOf m) g.open_
        (g.admits s.now 2 m = false → exec (.hleave rd ra) s = .next (s.waitOn .c .none))
        ∧ (g.admits s.now 1 m = false → exec (.hsync rd ra) s = .next (s.waitOn .c .none))
        ∧ (g.admits s.now 2 m = true → ∃ u d g', exec (.hleave rd ra) s = .next u ∧ Went u c d (c.setSreg rd (resultWord 0 leave)).sregs ∧ SameMemory s u ∧ Map.look u.groups k = some g'
          ∧ (g'.member m).bound = none ∧ (s.det sh.ctx = false → (g'.member m).leaveAt = some leave))
        ∧ (g.admits s.now 1 m = true → ∃ u d g', exec (.hsync rd ra) s = .next u ∧ Went u c d (c.setSreg rd (resultWord 0 (s.openFor g m))).sregs ∧ SameMemory s u ∧ Map.look u.groups k = some g'
          ∧ (g'.member m).stalled = false ∧ (∀ l, (g.member m).last = some l → ¬ g.delta l < g.delta (g.open_ - 1) → (g'.member m).last = some l)
          ∧ (((g.member m).last = none ∨ ∃ l, (g.member m).last = some l ∧ g.delta l < g.delta (g.open_ - 1)) → (g'.member m).last = some (g.open_ - 1))))

/-- HCONTRIB sends the image at OFF to the group, with rd pending until the result word comes; HWAIT loads the result of a sealed round or returns its status; HSTAT reads the roster, the group word and the member word (R313 to R315). -/
def Sys2Proof.Claim.HarvestRoundWords : Prop :=
  ∀ (s : State) (c : Core) (sh : Shard) (rd ra rb : BitVec 6) (off : BitVec 12) (noimg : Bool) (g : Group), RunsPlain s .c c sh → Free c [rd, ra, rb] → c.cs.acquiring = false →
    (c.sreg ra).toNat < 2 ^ 18 → (c.sreg rb).toNat < 2 ^ 32 →
    let k := (c.sreg ra).toNat % 2 ^ 12
    let m := (c.sreg ra).toNat / 2 ^ 12 % 2 ^ 6
    let r := (c.sreg rb).setWidth 32
    let lo := 64 * off.toNat
    let n := s.curCore
    (s.groupOf? sh.ctx k = none →
      (sh.rebuild = false → exec (.hcontrib rd ra rb off) s = .next (wrote s c rd (resultWord 5 0)))
      ∧ exec (.hwait rd ra rb noimg off) s = .next (wrote s c rd (resultWord 5 0))
      ∧ exec (.hstatRoster rd ra rb) s = .next (wrote s c rd 0) ∧ exec (.hstatGroup rd ra rb) s = .next (wrote s c rd (BitVec.ofNat 64 (5 * 2 ^ 56)))
      ∧ exec (.hstatMember rd ra rb) s = .next (wrote s c rd 0))
    ∧ (sh.rebuild = true → exec (.hcontrib rd ra rb off) s = .next (wrote s c rd (resultWord 0 r)))
    ∧ (s.groupOf? sh.ctx k = some g →
      (∀ size, sh.rebuild = false → s.payloadSize g = some size → lo + size ≤ 0x40000 → g.binds m sh = false → exec (.hcontrib rd ra rb off) s = .next (wrote s c rd (resultWord 6 (s.openFor g m))))
      ∧ (∀ size, sh.rebuild = false → s.payloadSize g = some size → lo + size ≤ 0x40000 → g.binds m sh = true → g.proxy = false →
          (let scope := if g.peers ≠ 0 then 3 else 2; c.released scope = true ∧ s.heardOut n c scope = true ∧ c.aStoresDone scope = true) → Flushed c → s.poisoned (.pad n lo) size = false →
          s.raceAt sh (.pad n lo) size false true false = none →
          ∃ u d g' y, exec (.hcontrib rd ra rb off) s = .next u ∧ Went u c d c.sregs ∧ SameMemory s u ∧ d.pending = (c.setPending rd).pending
            ∧ Map.look u.groups k = some g' ∧ g' = { g with inflight := g.inflight ++ [y] } ∧ y.member = m ∧ y.tag = r ∧ y.taskId = sh.taskId ∧ y.shard = sh.num
            ∧ y.payload = s.readTarget (.pad n lo) size ∧ y.core = some (n, rd.toNat))
      ∧ (sh.rebuild = false →
        (∀ st, s.roundFor g r = .status st → exec (.hwait rd ra rb noimg off) s = .next (wrote s c rd (resultWord st r)))
        ∧ (s.roundFor g r = .waits → ∃ u d, exec (.hwait rd ra rb noimg off) s = .next u ∧ u.core? n = some d ∧ d = { c with cs := { c.cs with wait := .round } } ∧ SameMemory s u)
        ∧ (∀ key v x, s.roundFor g r = .ready key v x →
            (noimg = true → ∃ u d, exec (.hwait rd ra rb noimg off) s = .next u ∧ Went u c d (c.setSreg rd (resultWord 0 r)).sregs ∧ SameMemory s u ∧ d.dcache = [])
            ∧ (noimg = false → 0x40000 < lo + v.image.length → exec (.hwait rd ra rb noimg off) s = .next (wrote s c rd (resultWord 5 r)))
            ∧ (noimg = false → lo + v.image.length ≤ 0x40000 → s.versionBlocked key v = false → s.raceAt sh (.pad n lo) v.image.length true true false = none →
                ∃ u d, exec (.hwait rd ra rb noimg off) s = .next u ∧ Went u c d (c.setSreg rd (resultWord 0 r)).sregs ∧ d.dcache = []
                  ∧ u.readTarget (.pad n lo) v.image.length = v.image ∧ SameBut s u (.pad n lo) v.image.length)))
      ∧ (g.beforeFirst r = true → exec (.hstatRoster rd ra rb) s = .next (wrote s c rd 0))
      ∧ (g.beforeFirst r = false → (s.det sh.ctx = false ∨ g.closed r = true) → exec (.hstatRoster rd ra rb) s = .next (wrote s c rd (g.round r).roster))
      ∧ (g.beforeFirst r = false → s.det sh.ctx = true → g.closed r = false → exec (.hstatRoster rd ra rb) s = .next (s.waitOn .c .round))
      ∧ (s.det sh.ctx = false → exec (.hstatGroup rd ra rb) s = .next (wrote s c rd (BitVec.ofNat 64
          (min g.k (g.presentCount false) * 2 ^ 48 + g.presentCount false * 2 ^ 40 + (g.round g.open_).onTime * 2 ^ 32 + g.open_.toNat))))
      ∧ (s.det sh.ctx = true → exec (.hstatGroup rd ra rb) s = .next (wrote s c rd (BitVec.ofNat 64 (g.n * 2 ^ 48 + g.n * 2 ^ 40 + g.first.toNat))))
      ∧ (g.n ≤ m → exec (.hstatMember rd ra rb) s = .next (wrote s c rd 0))
      ∧ (m < g.n → ∃ v : Word, exec (.hstatMember rd ra rb) s = .next (wrote s c rd v) ∧ v.getLsbD 39 = g.binds m sh ∧ v.getLsbD 37 = (g.member m).stalled ∧ v.getLsbD 36 = g.present m
          ∧ (g.lag m < 16 → v.setWidth 32 = (if s.det sh.ctx then (g.member m).own else (g.member m).last).getD (g.first - 1))))

/-- HARVEST_CONTRIBUTION: the result word by the order of R308: a repeat its round, a stalled member status 1, a tag too far ahead 3, a lag beyond the member's limit 1 and the stall, a late one where no weight is given 2; any other is counted in its round, its version sealed, with status 0; one lost on the way gives 8 and counts nothing (R308, R309, R372). -/
def Sys2Proof.Claim.ContributionsJudged : Prop :=
  ∀ (s : State) (g : Group) (x : Contribution) (n rd : Nat) (c : Core), Map.look s.groups s.args.a = some g → g.inflight[s.args.idx]? = some x → g.proxy = false →
    g.admits s.now 0 x.member = true → x.core = some (n, rd) → s.core? n = some c → c.shard.any (fun h => h.uid == x.uid) = true →
    let m := g.member x.member
    let o := s.openFor g x.member
    let replies (st : Nat) (r : BitVec 32) (after : Group → Prop) : Prop := ∃ u d g', exec .harvestContribution s = .next u ∧ u.core? n = some d ∧ SameMemory s u
      ∧ d.sregs = (c.settleReg rd (resultWord st r)).sregs ∧ d.pending = removeNat c.pending rd ∧ Map.look u.groups s.args.a = some g' ∧ g'.inflight = g.inflight.eraseIdx s.args.idx ∧ after g'
    let same (g' : Group) : Prop := g'.members = g.members ∧ g'.rounds = g.rounds ∧ g'.open_ = g.open_
    let tag := g.later (g.later x.tag g.open_) (g.nextOf x.member)
    let lag := (tag - x.tag).toNat
    (s.args.flag = true → replies 8 o same)
    ∧ (s.args.flag = false →
      (∀ h, (m.hist.find? fun h => h.1 == x.taskId && h.2.1 == x.shard && h.2.2.1 == x.tag) = some h → replies 0 h.2.2.2 same)
      ∧ ((m.hist.find? fun h => h.1 == x.taskId && h.2.1 == x.shard && h.2.2.1 == x.tag) = none →
        (m.stalled = true → replies 1 o same)
        ∧ (m.stalled = false →
          (15 < (tag - g.open_).toNat → s.det g.ctx = false → replies 3 o same)
          ∧ ((tag - g.open_).toNat ≤ 15 → g.lag x.member < lag → replies 1 o fun g' => (g'.member x.member).stalled = true)
          ∧ ((tag - g.open_).toNat ≤ 15 → lag ≤ g.lag x.member → g.weight = 3 → 0 < lag → replies 2 tag same)
          ∧ (∀ t tc i, (tag - g.open_).toNat ≤ 15 → lag ≤ g.lag x.member → (g.weight = 3 → lag = 0) → s.tensor g.ctx (g.resultRef 0).handle = .ok t → s.tensor g.ctx g.contrib = .ok tc →
              let ref := g.contribRef x.member tag.toNat
              let home := s.standIn (tc.homeOf ref)
              let img := weighted t (g.resultRef 0) g.weight lag x.payload
              let v := (blankVersion g.ctx none none tc ref).filled tc ref img
              s.findVersion g.ctx ref = none → s.tileStoreFull home v.pieces = false → s.tileStoreFull (s.buddy home) v.pieces = false → (Map.look s.almanac home).bind Almanac.freeIndex = some i →
              replies 0 tag fun g' => (g'.member x.member).last = some tag ∧ (g'.member x.member).own = some tag
                ∧ (g'.member x.member).hist.head? = some (x.taskId, x.shard, x.tag, tag)
                ∧ (g'.round tag).roster = setBit (g.round tag).roster x.member true ∧ Map.look (g'.round tag).lags x.member = some lag))))

/-- ROUND_FOLD_DONE sends the seal report of the folded result, or loses or fails the round; MEMBER_LOST unbinds a member whose shard or port is lost, and in general mode it is no longer PRESENT (R310, R311, R414, R427, R428). -/
def Sys2Proof.Claim.RoundsAndMembersEnd : Prop :=
  ∀ (s : State) (g : Group), Map.look s.groups s.args.a = some g →
    let r := BitVec.ofNat 32 s.args.b
    let x := g.round r
    let ref := g.resultRef r.toNat
    let lostOne := (rosterMembers x.roster).any fun m => match s.findVersion g.ctx (g.contribRef m r.toNat) with
      | some (_, v) => !s.live v
      | none => true
    let ends (st : RoundState) (u : State) : Prop := ∃ g', Map.look u.groups s.args.a = some g' ∧ (g'.round r).state = st ∧ (g'.round r).roster = x.roster ∧ g'.members = g.members
    (Map.look g.rounds r.toNat = some x → x.state = .closing →
      (lostOne = true → ∃ u, exec .roundFoldDone s = .next u ∧ u = { s with groups := u.groups } ∧ ends .lost u)
      ∧ (∀ t vs, lostOne = false → s.tensor g.ctx (g.resultRef 0).handle = .ok t → s.contributions g r x.roster = some vs →
          (∀ key v, s.findVersion g.ctx ref = some (key, v) → v.sealed_ = true → ∃ u, exec .roundFoldDone s = .next u ∧ ends .failed u)
          ∧ (s.findVersion g.ctx ref = none → ∃ u v q, exec .roundFoldDone s = .next u ∧ ends .sealing u ∧ u.seals = s.seals ++ [q] ∧ q.version = s.uid
              ∧ q.round = some (s.args.a, r.toNat) ∧ Map.look u.versions s.uid = some v ∧ v.image = t.withEdges ref (g.fold t x (vs.map fun v => v.2.image)) ∧ v.sealed_ = false ∧ SameMemory s u)))
    ∧ (((g.member s.args.b).bound.any s.lostShard = true ∨ (g.member s.args.b).port.any s.bilotDown.contains = true) →
      ∃ u g', exec .memberLost s = .next u ∧ SameMemory s u ∧ Map.look u.groups s.args.a = some g' ∧ (g'.member s.args.b).bound = none ∧ (g'.member s.args.b).port = none
        ∧ (s.det g.ctx = false → (g'.member s.args.b).present = false) ∧ (s.det g.ctx = true → (g'.member s.args.b).present = (g.member s.args.b).present)
        ∧ ∀ m, m ≠ s.args.b → g'.member m = g.member m)

/-! ### Host queues and tasks (R32 to R35, R40, R41, R291, R296 to R301, R345) -/

/-- PACKET_SUBMIT, PACKET_BATCH, PACKET_RELEASE and PACKET_MARK consume the packet at the head of the queue to be served: TYPE is 0, RIDX one more; `s'` is the state behind the two writes. A malformed packet is only counted; each record of a SUBMIT or BATCH becomes a task; RELEASE lowers DEPS; a MARK behind open packets waits (R32, R33, R345). -/
def Sys2Proof.Claim.HostPackets : Prop :=
  ∀ (s s' : State) (x : HostQueue) (i : Nat) (p : List Byte),
    let ctx := s.args.a
    let q := s.args.b
    s.queue? ctx q = some x → s.serves ctx q x = true → s.headPacket ctx x = some (i, p) → s.consume ctx x i = some s' → s'.queue? ctx q = some x →
    ∀ e ∈ [(Instr.packetSubmit, 1), (.packetBatch, 2), (.packetRelease, 3), (.packetMark, 4)], pkType p = e.2 →
      ∃ u y, exec e.1 s = .next u ∧ u.served = 64 * ctx + q ∧ u.queue? ctx q = some y ∧ y.pending = (x.pending && x.scanning)
        ∧ y.bad = x.bad + (if s.badPacket ctx p = true then 1 else 0)
        ∧ (s.badPacket ctx p = true → u = { s' with served := u.served, ctxs := u.ctxs } ∧ y.open_ = x.open_ ∧ y.marks = x.marks)
        ∧ (s.badPacket ctx p = false →
          (e.2 ≤ 2 → ∀ rs, s'.packetRecords ctx p = some rs → y.open_ = x.open_ ++ [(i, pkSignal p, pkRecords p)]
            ∧ ∀ k r, rs[k]? = some r → ∃ t, Map.look u.tasks (s'.uid + k) = some t ∧ t.ctx = ctx ∧ t.addr = r.2
              ∧ t.taskId = BitVec.ofNat 64 (field r.1 0 8) ∧ t.deps = field r.1 0x28 4 ∧ t.state = .pending ∧ t.packet = some (ctx, q, i) ∧ t.rebuild = none)
          ∧ (e.2 = 3 → ∀ k t, s'.taskAt ctx (BitVec.ofNat 64 (pkAddr p)) = some (k, t) → Map.look s'.tasks k = some t →
              ∃ t', Map.look u.tasks k = some t' ∧ t' = { t with deps := t.deps - pkCount p })
          ∧ (e.2 = 3 → s'.taskAt ctx (BitVec.ofNat 64 (pkAddr p)) = none → u.tasks = s'.tasks
              ∧ (Map.look u.ctxs ctx).map Ctx.staleSucc = (Map.look s'.ctxs ctx).map fun c => c.staleSucc + 1)
          ∧ (e.2 = 4 → x.open_ ≠ [] → y.marks = x.marks ++ [(i, pkSignal p)] ∧ u = { s' with served := u.served, ctxs := u.ctxs })
          ∧ (e.2 = 4 → x.open_ = [] → pkSignal p = 0 → y.marks = x.marks ∧ u = { s' with served := u.served, ctxs := u.ctxs }))

/-- QUEUE_DOORBELL, while the control plane runs, sets the pending flag of a queue in use of a resident context; any other doorbell is counted and discarded (R345, R359). -/
def Sys2Proof.Claim.QueueDoorbells : Prop :=
  ∀ (s : State), s.args.a < 256 → s.args.b < 64 → Map.look s.hostDown s.args.idx = none → s.planes = true →
    (∀ c x, Map.look s.ctxs s.args.a = some c → c.state = 1 → Map.look c.queues s.args.b = some x → x.e ≠ 0 →
      exec .queueDoorbell s = .next (s.updQueue s.args.a s.args.b fun y => { y with pending := true }))
    ∧ ((∀ c x, Map.look s.ctxs s.args.a = some c → c.state = 1 → Map.look c.queues s.args.b = some x → x.e = 0) →
      exec .queueDoorbell s = .next { s with doorbellsDropped := s.doorbellsDropped + 1 })

/-- TASK_READY: a pending task with DEPS 0 and every input there becomes ready; with DEPS left, or an input missing, it does not (R34). AGEING_BOUNDARY: every dispatched or ready task of the pool, and every parked shard, that was so before this clk ages by one interval, and a staged length takes effect (R291, R294, R295). -/
def Sys2Proof.Claim.TasksBecomeReadyAndAge : Prop :=
  (∀ (s : State) (t : Task), Map.look s.tasks s.args.a = some t →
    (t.state = .pending → t.deps = 0 → t.failed = none → t.lost = none → t.entry < 8 → s.inputsReady t = true → (Map.look s.ctxs t.ctx).any (fun c => c.state == 1) = true →
      ∃ u t', exec .taskReady s = .next u ∧ u = { s with tasks := u.tasks } ∧ Map.look u.tasks s.args.a = some t'
        ∧ t' = { t with state := .ready, readyAt := s.now, again := [], aged := 0, claim := t'.claim })
    ∧ (t.deps ≠ 0 ∨ s.inputsReady t = false → exec .taskReady s = .refused .notEnabled))
  ∧ ∀ (s : State) (p : Pool), Map.look s.pools s.args.idx = some p → p.last + p.age.toNat ≤ s.now →
    ∃ u, exec .ageingBoundary s = .next u ∧ u = { s with pools := u.pools, tasks := u.tasks, parked := u.parked }
      ∧ Map.look u.pools s.args.idx = some { p with last := p.last + p.age.toNat, age := p.stagedAge.getD p.age, stagedAge := none }
      ∧ (∀ k t, Map.look s.tasks k = some t → ∃ t', Map.look u.tasks k = some t'
          ∧ t' = { t with claim := t'.claim, aged := if t.state ≠ .pending ∧ t.readyAt < s.now ∧ s.poolDie t = s.args.idx then t.aged + 1 else t.aged })
      ∧ ∀ k x, Map.look s.parked k = some x → Map.look u.parked k
          = some { x with aged := if x.parkedAt < s.now ∧ s.standIn (dieOf x.fromCore) = s.args.idx then x.aged + 1 else x.aged }

/-- SHARD_DISPATCH: a free core takes the ready shard of its choice: the streams stand at their entries, sp holds the stack base, every other scalar register is 0, no granule is full, and the task runs (R35, R293). A latest input that resolves to nothing fails the task with status 3. -/
def Sys2Proof.Claim.ShardsDispatch : Prop :=
  ∀ (s : State) (x : Cand) (t : Task) (k : Kernel) (old : Core),
    let n := s.args.core
    s.takes n (fun y => y.parked.isNone) = some x → s.core? n = some old → Map.look s.tasks x.task = some t → s.kernel t.ctx t.kdesc.toNat = some k →
    (∀ ins, (if t.resolved = true then .inl t.ins else s.resolveInputs t) = Sum.inl ins →
      ∃ u c sh t', exec .shardDispatch s = .next u ∧ u.core? n = some c ∧ c.shard = some sh ∧ u.mem = s.mem ∧ u.host0 = s.host0 ∧ u.host1 = s.host1
        ∧ (∀ m d, m ≠ n → u.core? m = some d → ∃ e, s.core? m = some e ∧ d = { e with shard := d.shard } ∧ ∀ h, e.shard = some h → ∃ h', d.shard = some h' ∧ h' = { h with reserve := h'.reserve })
        ∧ Map.look u.tasks x.task = some t' ∧ t'.state = .running ∧ t'.ins = ins ∧ t'.resolved = true ∧ t'.begun = true ∧ t'.shards = t.shards.set x.num (.running n)
        ∧ sh.num = x.num ∧ sh.taskId = t.taskId ∧ sh.ctx = t.ctx ∧ sh.nshard = k.shards ∧ sh.hwm = k.hwm ∧ sh.ins = ins ∧ sh.outs = t.outs ∧ sh.seed = t.seed
        ∧ sh.arg0 = t.arg0 ∧ sh.arg1 = t.arg1 ∧ sh.pure = !k.impure ∧ sh.committed = false ∧ sh.code = BitVec.ofNat 64 k.code
        ∧ (∀ e ∈ [(c.cs, k.entryC), (c.as, k.entryA), (c.vs, k.entryV)], e.1.pc = sh.code + BitVec.ofNat 64 e.2 ∧ e.1.halted = false ∧ e.1.flight = [] ∧ e.1.loops = [])
        ∧ (∀ r, c.sreg r = if r = 61 then BitVec.ofNat 64 k.stackBase &&& 0x3FFF0 else 0) ∧ (∀ a, c.areg a = 0) ∧ c.full = 0 ∧ c.valid = k.validAtStart
        ∧ c.pending = [] ∧ c.cause = 0 ∧ c.tvec = BitVec.ofNat 64 k.tvec ∧ c.fflags = 0 ∧ c.inbox = old.inbox)
    ∧ (∀ r, t.resolved = false → s.resolveInputs t = .inr r → exec .shardDispatch s
        = .next { s with tasks := Map.put s.tasks x.task { t with failed := some (3, none, refInfo { r with version := 0 }) } })

/-- TASK_COMPLETE: with every shard retired a task with outputs sends one seal report for each, and one without completes; a task that failed completes with its status. Completion removes the task and writes its completion record: TASKID, STATUS, retired shards, the core at fault, the clock, INFO (R40, R41). -/
def Sys2Proof.Claim.TasksComplete : Prop :=
  ∀ (s : State) (t : Task),
    let key := s.args.a
    Map.look s.tasks key = some t → t.live = false → t.rebuild = none →
    let ends (status : Nat) (core : Option Nat) (info : Word) : Prop := ∃ u, exec .taskComplete s = .next u ∧ Map.look u.tasks key = none
      ∧ (t.succ = 0 → t.packet = none → t.crec = 0 → SameMemory s u)
      ∧ (∀ tg, t.succ = 0 → t.packet = none → t.crec ≠ 0 → s.rangePoisoned t.ctx t.crec.toNat 32 = false → s.range t.ctx .write t.crec.toNat 32 = .ok [(tg, 32)] →
          s.refuses tg = false → s.hitsSealed tg 32 = false → (∀ c o, tg ≠ .pad c o) →
          u.readTarget tg 32 = toBytes 8 t.taskId.toNat ++ toBytes 4 status ++ toBytes 2 (t.shards.filter fun x => x == .retired).length
              ++ toBytes 2 (core.elim 0 fun n => 0x8000 + n) ++ toBytes 8 s.now ++ toBytes 8 info.toNat
            ∧ SameBut s u tg 32)
    (∀ st core info, t.failed = some (st, core, info) → ends st core info)
    ∧ (t.failed = none → t.lost = none → t.state = .sealing → t.sealsLeft = 0 → ends 0 none 0)
    ∧ (t.failed = none → t.lost = none → t.state = .sealing → t.sealsLeft ≠ 0 → exec .taskComplete s = .refused .notEnabled)
    ∧ (t.failed = none → t.lost = none → t.state = .running → (∀ x ∈ t.shards, x = .retired) →
      (t.outs = [] → ends 0 none 0)
      ∧ ((t.outputs.any fun o => s.outputTaken key t o.1) = true → ends 2 none 0)
      ∧ (t.outs ≠ [] → (t.outputs.any fun o => s.outputTaken key t o.1) = false → (∀ o ∈ t.outputs, (s.findVersion t.ctx o.1).isSome = true) →
        ∃ u t', exec .taskComplete s = .next u ∧ u = { s with seals := u.seals, tasks := u.tasks } ∧ Map.look u.tasks key = some t'
          ∧ t' = { t with state := .sealing, sealsLeft := t.outputs.length } ∧ u.seals.length = s.seals.length + t.outputs.length))

/-- PREEMPT raises the halt request line of the victim, which ends an open speculation with its checkpoint, and keeps its core for the task; SHARD_PARK and SHARD_DISCARD stop a shard whose line is up: saved, or ready again from its entry points; a committed shard with no slot runs on; SHARD_RESUME puts a parked shard on a core with its registers (R22, R163, R296 to R301, R425). Readings that are the model's own choice: log entry 28. -/
def Obligations.PreemptionSteps : Prop :=
  (∀ (s : State) (t : Task) (k : Kernel) (n : Nat) (c : Core) (sh : Shard), Map.look s.tasks s.args.a = some t → s.kernel t.ctx t.kdesc.toNat = some k →
    s.wantsCore s.args.a t k = true → s.victim t k = some (n, c, sh) → s.core? n = some c →
    ∃ u d h, exec .preempt s = .next u ∧ u.core? n = some d ∧ d = { c.rollback ((c.spec.map Spec.pc).getD c.cs.pc) with keptFor := some (s.args.a, s.now), shard := some h } ∧ h = { sh with halt := h.halt }
      ∧ (sh.committed = true → h.halt = 1) ∧ (sh.committed = false → s.freeSlot sh.ctx = none → h.halt = 2) ∧ (h.halt = 1 ∨ h.halt = 2) ∧ (∀ m, m ≠ n → u.core? m = s.core? m) ∧ SameMemory s u)
  ∧ (∀ (s : State) (c : Core) (sh : Shard) (t : Task),
    let n := s.args.core
    s.core? n = some c → c.shard = some sh → c.cs.halted = false → Map.look s.tasks sh.task = some t →
    let restarts (i : Instr) : Prop := ∃ u d t', exec i s = .next u ∧ u.core? n = some d ∧ d.shard = none ∧ Map.look u.tasks sh.task = some t'
      ∧ t'.shards = t.shards.set sh.num .waiting
    let line (h : Nat) : State := s.updCore n fun c => { c with shard := some { sh with halt := h } }
    (sh.halt = 1 → s.canPark c = true → s.freeSlot sh.ctx = none →
      (sh.committed = true → exec .shardPark s = .next (s.updCore n fun c => { c with keptFor := none, shard := some { sh with halt := 0 } })) ∧ (sh.committed = false → restarts .shardPark))
    ∧ (∀ slot, sh.halt = 1 → s.canPark c = true → s.freeSlot sh.ctx = some slot → c.cs.flight = [] → c.as.flight = [] → c.mqueue = [] → c.spec = none →
        ∃ u d, exec .shardPark s = .next u ∧ u.core? n = some d ∧ d.shard = none
          ∧ ((∃ p t', Map.look u.parked s.uid = some p ∧ p.shard = { sh with halt := 0, reserve := 0, region := none } ∧ p.slot = slot ∧ p.fromCore = n ∧ p.debug = false
                ∧ p.core.sregs = c.sregs ∧ p.core.gran = c.gran ∧ p.core.cs.pc = c.cs.pc ∧ p.core.as.pc = c.as.pc ∧ p.core.vs.pc = c.vs.pc
                ∧ Map.look u.tasks sh.task = some t' ∧ t'.shards = t.shards.set sh.num .parked)
            ∨ ∃ t', Map.look u.tasks sh.task = some t' ∧ if sh.committed then t'.failed.isSome = true else t'.shards = t.shards.set sh.num .waiting))
    ∧ (sh.halt = 2 → (sh.committed = true → exec .shardDiscard s = .next (line 1)) ∧ (sh.committed = false → restarts .shardDiscard)))
  ∧ ∀ (s : State) (p : Parked) (x : Cand) (old c : Core) (h : Shard) (key : Nat),
    let n := s.args.core
    let free : State := { s with parked := Map.del s.parked key }
    Map.look s.parked key = some p →
    (s.args.flag = true → s.args.idx = key → s.tooLarge key p = true →
      ∃ u, exec .shardResume s = .next u ∧ SameMemory s u ∧ u.cores = s.cores ∧ Map.look u.parked key = none
        ∧ ∀ t, Map.look s.tasks p.shard.task = some t → ∃ t', Map.look u.tasks p.shard.task = some t' ∧ t'.shards = t.shards.set p.shard.num .waiting)
    ∧ (s.args.flag = false → s.lingers n = false → s.takes n (fun y => y.parked.isSome) = some x → x.parked = some key → s.core? n = some old →
        free.asRead p.shard.ctx (s.slotAddr p.shard.ctx p.slot) p = p → (Map.look s.arrays (arrayOf n)).all Array.inService = true →
        free.readSlot p.shard.ctx (s.slotAddr p.shard.ctx p.slot) p = some (c, h, true) → c.holds = [] → s.hasLease n = false →
        ∃ u d sh, exec .shardResume s = .next u ∧ u.mem = s.mem ∧ u.host0 = s.host0 ∧ u.host1 = s.host1 ∧ u.core? n = some d ∧ d.shard = some sh ∧ sh = { h with reserve := 2, cycleBase := h.cycleBase + (s.now - p.parkedAt), dispatchedAt := s.now }
          ∧ d.sregs = c.sregs ∧ d.gran = c.gran ∧ d.full = c.full ∧ d.vs = c.vs
          ∧ d.cs = { c.cs with flight := c.cs.flight.map (free.movedAccess n) } ∧ d.as = { c.as with flight := c.as.flight.map (free.movedAccess n) } ∧ d.resuming = some (p.slot, true, p.trapAt)
          ∧ Map.look u.parked key = none
          ∧ ((Map.look u.arrays (arrayOf n)).all fun a => a.waiting.contains n) = true)

/-! ### Seals, copies, losses and rebuilding (R274 to R284, R415 to R423) -/

/-- SEAL_REPORT seals its version under a free record of its home's shard, counts the report off its task and leaves the channel; a second seal fails the task with status 2; with no free record a capacity record is posted first; a report of a version that a TDROP or TPARK of this clk has found unsealed comes in the next. REPLICA_DONE and PARKED_FETCH_DONE end a copy, or a fetch with the stored bytes (R274 to R284). Readings that are the model's own choice: log entry 30. -/
def Obligations.SealsAndCopies : Prop :=
  (∀ (s : State) (q : Seal) (v : Version) (a : Almanac), s.seals[s.args.idx]? = some q → Map.look s.versions q.version = some v →
    s.firstSeal s.args.idx q = true → q.round = none → Map.look s.almanac (s.homeDie v) = some a →
    let home := s.homeDie v
    let acknowledged (u : State) : Prop := u.seals = s.seals.eraseIdx s.args.idx ∧ SameMemory s u ∧ u.cores = s.cores
    (v.asked = some s.now → exec .sealReport s = .refused .notEnabled)
    ∧ (v.asked ≠ some s.now → (∀ d k, q.reseal = true → v.record = some (d, k) → ∃ u w, exec .sealReport s = .next u ∧ acknowledged u ∧ Map.look u.versions q.version = some w
        ∧ w = { v with present := true, lost := 0, writers := [] } ∧ u.marked d k = false)
    ∧ (q.reseal = false → v.sealed_ = true → ∃ u, exec .sealReport s = .next u ∧ acknowledged u ∧ u.versions = s.versions
        ∧ ∀ k t, q.task = some k → Map.look s.tasks k = some t → t.failed = none → ∃ t', Map.look u.tasks k = some t' ∧ t'.failed = some (2, none, 0))
    ∧ (q.reseal = false → v.sealed_ = false → a.freeIndex = none →
        (a.short = false → exec .sealReport s
          = .next (({ s with almanac := Map.put s.almanac home { a with short := true } } : State).postError 0 255 home 10 0 v.ctx 0 0))
        ∧ (a.short = true → exec .sealReport s = .refused .notEnabled))
    ∧ (∀ i, q.reseal = false → v.sealed_ = false → a.freeIndex = some i → (q.replica = true → s.tileStoreFull (s.buddy home) v.pieces = false) →
      ∃ u w r, exec .sealReport s = .next u ∧ acknowledged u ∧ u.order = s.order + 1 ∧ Map.look u.versions q.version = some w ∧ w.sealed_ = true ∧ w.present = true
        ∧ w.image = v.image ∧ w.twin = v.twin ∧ w.record = some (home, i) ∧ w.task = none ∧ u.record? home i = some r ∧ r.version = q.version ∧ r.tile = v.ref.word
        ∧ r.ctx = v.ctx ∧ r.home = home ∧ r.order = s.order ∧ r.users = 0 ∧ r.outix = BitVec.ofNat 2 q.outix
        ∧ r.flags.getLsbD 0 = q.root ∧ r.flags.getLsbD 1 = q.replica ∧ r.flags.getLsbD 3 = false ∧ r.flags.getLsbD 4 = q.impure ∧ r.flags.getLsbD 5 = v.twin.isSome ∧ r.flags.getLsbD 7 = true
        ∧ (q.root = true → r.depth = 0 ∧ r.ins = [])
        ∧ ∀ k t, q.task = some k → Map.look s.tasks k = some t → r.taskId = t.taskId ∧ r.kdesc = t.kdesc ∧ r.seed = t.seed
            ∧ Map.look u.tasks k = some (if q.root = true then t else { t with sealsLeft := t.sealsLeft - 1 }))))
  ∧ (∀ (s : State) (x : Transfer) (r : Record) (v : Version), s.replicas[s.args.idx]? = some x → s.record? x.die x.index = some r → Map.look s.versions r.version = some v →
    let rest : State := { s with replicas := s.replicas.eraseIdx s.args.idx }
    let fails : Bool := s.args.flag || !s.readable v || !s.dies.getLsbD x.target || s.tileStoreFull x.target v.pieces
    (fails = true → exec .replicaDone s = .next (rest.updRecord x.die x.index fun r => { r with replicaFlight := false }))
    ∧ (fails = false → (r.depth = 0 ∨ r.ins = []) → ∃ u r' v', exec .replicaDone s = .next u ∧ u = { rest with almanac := u.almanac, versions := u.versions, ports := u.ports }
        ∧ u.record? x.die x.index = some r' ∧ r'.replicaPresent = true ∧ r'.replicaDie = x.target ∧ r'.replicaFlight = false ∧ r'.depth = 0 ∧ r'.ins = []
        ∧ Map.look u.versions r.version = some v' ∧ v' = { v with replica := some (v.image ++ v.twin.getD []) }))
  ∧ ∀ (s : State) (f : Transfer) (r : Record) (v : Version), s.fetches[s.args.idx]? = some f → s.record? f.die f.index = some r → Map.look s.versions r.version = some v →
    let brings (img twin : List Byte) : Prop := ∃ u v' r', exec .parkedFetchDone s = .next u ∧ u.fetches = s.fetches.eraseIdx s.args.idx ∧ SameMemory s u
      ∧ Map.look u.versions r.version = some v' ∧ v'.image = img ∧ v'.twin = v.twin.map (fun _ => twin) ∧ v'.present = true
      ∧ u.record? f.die f.index = some r' ∧ r'.flags.getLsbD 7 = true
    (∀ key bs img, s.args.code ≠ 10 → s.args.code ≠ 9 → Map.look s.keys r.keyid.toNat = some key → s.readRange v.ctx r.win.toNat r.plen.toNat = some bs →
      unparkStream key r.nonce r.win (v.image.length + v.twin.elim 0 List.length) bs = some img → s.tileStoreFull r.home v.pieces = false →
      brings (img.take v.image.length) (img.drop v.image.length))
    ∧ (∀ bs, (s.args.code = 10 ∨ s.args.code = 9) → r.replicaPresent = true → v.replica = some bs → brings (bs.take v.image.length) (bs.drop v.image.length))

/-- VERSION_DESTROYED: the version is not present, with the pieces that were lost, and its record is not RESIDENT (R277). REBUILD takes a version that is not present one step along R416: its replica, the fetch of its parked copy, zero-fill, the walk to its missing inputs, the fold of its round, or its producer again. SHARD_LOST ends the task with status 3, or makes it ready to run again (R415 to R419, R423). Readings that are the model's own choice: log entry 26. -/
def Obligations.LossAndRebuilding : Prop :=
  (∀ (s : State) (r : Record) (v : Version), s.record? s.args.a s.args.b = some r → Map.look s.versions r.version = some v →
    let pieces := s.args.hdr.setWidth 66
    (v.sealed_ = true → s.readable v = true → pieces ≠ 0 → pieces.toNat < 2 ^ v.pieces →
      ∃ u v', exec .versionDestroyed s = .next u ∧ SameMemory s u ∧ Map.look u.versions r.version = some v' ∧ v'.present = false ∧ v'.lost = v.lost ||| pieces
        ∧ v'.sealed_ = true ∧ v'.image = v.image
        ∧ (v.record = some (s.args.a, s.args.b) → ∃ r', u.record? s.args.a s.args.b = some r' ∧ r'.flags.getLsbD 7 = false))
    ∧ ((v.present = true ∨ v.sealed_ = false) → exec .rebuild s = .refused .notEnabled)
    ∧ (v.present = false → v.sealed_ = true → r.flags.getLsbD 6 = false →
      let comes (img : List Byte) : Prop := ∃ u v', exec .rebuild s = .next u ∧ Map.look u.versions r.version = some v' ∧ v'.present = true ∧ v'.lost = 0 ∧ v'.image = img
      (∀ bs, r.replicaPresent = true → v.replica = some bs → comes (bs.take v.image.length))
      ∧ (r.replicaPresent = false →
        (r.flags.getLsbD 2 = true → (∀ f ∈ s.fetches, ¬ (f.die = s.args.a ∧ f.index = s.args.b)) → ∃ u, exec .rebuild s = .next u ∧ u = { s with almanac := u.almanac, fetches := u.fetches }
          ∧ u.fetches = s.fetches ++ [{ die := s.args.a, index := s.args.b, target := s.args.a }])
        ∧ (r.flags.getLsbD 2 = false →
          (s.lossy v = true → comes (s.edged v false (zeroPieces v.image 0 v.lost)))
          ∧ (s.lossy v = false → s.hopeless (s.recordCount + 1) s.args.a s.args.b = false →
            (s.missingInputs r ≠ [] → s.marked s.args.a s.args.b = false → ∃ u, exec .rebuild s = .next u ∧ u = { s with almanac := u.almanac, tasks := u.tasks }
              ∧ u.marked s.args.a s.args.b = true ∧ u.versions = s.versions)
            ∧ (s.missingInputs r = [] →
              (∀ new vs, r.flags.getLsbD 3 = true → s.refold r v = some (new, vs) → comes new.image)
              ∧ (r.flags.getLsbD 3 = false → s.rebuilder r = none → ∃ u t, exec .rebuild s = .next u ∧ u = { s with tasks := u.tasks, almanac := u.almanac, versions := u.versions, uid := s.uid + 1, fetches := u.fetches, ports := u.ports }
                  ∧ Map.look u.tasks s.uid = some t ∧ t.ctx = r.ctx ∧ t.taskId = r.taskId ∧ t.kdesc = r.kdesc ∧ t.seed = r.seed ∧ t.arg0 = r.arg0 ∧ t.arg1 = r.arg1 ∧ t.state = .pending
                  ∧ t.rebuild.isSome = true ∧ t.succ = 0 ∧ t.crec = 0 ∧ t.deps = 0)))))))
  ∧ ∀ (s : State) (t : Task) (bad : Bool) (info : Word), Map.look s.tasks s.args.idx = some t → t.lost = some (bad, info) → t.live = false →
    let becomes (f : Task → Prop) : Prop := ∃ u t', exec .shardLost s = .next u ∧ Map.look u.tasks s.args.idx = some t' ∧ f t'
    ((bad = true ∨ t.committed = true ∨ 2 ≤ t.losses) → becomes fun t' => t'.lost = none ∧ t'.shards = t.shards ∧ (t.failed = none → t'.failed = some (3, none, info)))
    ∧ (¬ (bad = true ∨ t.committed = true ∨ 2 ≤ t.losses) → becomes fun t' => t'.lost = none ∧ t'.losses = t.losses + 1 ∧ (∀ x ∈ t'.shards, x = .waiting)
        ∧ t'.shards.length = t.shards.length ∧ (t'.state = .ready ∨ t'.state = .pending) ∧ t'.ins = t.ins ∧ t'.seed = t.seed ∧ t'.taskId = t.taskId)

/-! ### Errors and units out of service (R370 to R376, R380, R400, R403, R404, R410, R411, R421, R424) -/

/-- ERROR_DETECTED takes an error into retry, or counts a corrected one; RETRY_OUTCOME counts and posts it as transient, or as lasting with what it strikes; ERROR_RECORD delivers the record that is next; HEARTBEAT_PERIOD retries one missed heartbeat, and a second in a row is lasting. An error in an entry of a translation structure discards the entry and is transient (R370 to R376, R380, R397). -/
def Sys2Proof.Claim.ErrorSteps : Prop :=
  (∀ (s : State), let cls := s.args.code.toNat
    let key := errKey s.args.a s.args.idx s.args.b cls
    let old := Map.lookD s.counters key { corr := 0, trans := 0, last := 0 }
    let entry : Prop := cls = 3 ∧ s.args.idx = 2 ∧ bits s.args.hdr.toNat 18 3 ≠ 0
    detects s.args.idx cls = true → s.args.a ≤ 8 → (s.args.a < 8 → s.dies.getLsbD s.args.a = true) → s.args.b < 65536 →
    (entry → ∃ u r, exec .errorDetected s = .next u ∧ u.retries = s.retries ∧ SameMemory s u ∧ u.bus = s.bus ++ [r] ∧ r.sev = 1 ∧ r.cls = 3
        ∧ Map.look u.counters key = some { old with trans := moreErrors old.trans }
        ∧ (bits s.args.hdr.toNat 18 3 = 1 → ∀ c, s.core? (384 * s.args.a + s.args.b) = some c →
            u.core? (384 * s.args.a + s.args.b) = some { c with utlb := dropPicked c.utlb (bits s.args.hdr.toNat 21 32) }))
    ∧ (s.args.flag = false → cls ≠ 2 → ¬entry → ∃ u r, exec .errorDetected s = .next u ∧ u = { s with retries := s.retries ++ [r] } ∧ r.sev = 1 ∧ r.cls = BitVec.ofNat 8 cls
        ∧ r.die = BitVec.ofNat 8 s.args.a ∧ r.unit = BitVec.ofNat 8 s.args.idx ∧ r.inst = BitVec.ofNat 16 s.args.b ∧ r.loc = s.args.value ∧ r.item = s.args.value2)
    ∧ (s.args.flag = true → correctable cls = true → ¬entry → ∃ u, exec .errorDetected s = .next u ∧ u.retries = s.retries ∧ SameMemory s u
        ∧ Map.look u.counters key = some { old with corr := moreErrors old.corr })
    ∧ (s.args.flag = true → correctable cls = false → exec .errorDetected s = .refused .notEnabled)
    ∧ (s.args.flag = false → cls = 2 → ∃ u r, exec .errorDetected s = .next u ∧ u.retries = s.retries ∧ u.bus = s.bus ++ [r] ∧ r.sev = 1 ∧ r.cls = 2
        ∧ ∀ p, s.port? (quadOf s.args.value.toNat) = some p → ∃ p', u.port? (quadOf s.args.value.toNat) = some p' ∧ Map.look p'.counters s.args.value.toNat = none ∧ p.mitigations ≤ p'.mitigations))
  ∧ (∀ (s : State) (r : ErrRec), s.retries[s.args.idx]? = some r → r.cls.toNat < 9 →
    let key := errKey r.die.toNat r.unit.toNat r.inst.toNat r.cls.toNat
    let old := Map.lookD s.counters key { corr := 0, trans := 0, last := 0 }
    let posts (sev : BitVec 8) (c : Counters) (u : State) : Prop := u.retries = s.retries.eraseIdx s.args.idx ∧ u.bus = s.bus ++ [{ r with sev := sev, time := BitVec.ofNat 64 s.now, owner := none }]
      ∧ Map.look u.counters key = some c
    (s.args.flag = true → ∃ u, exec .retryOutcome s = .next u ∧ posts 1 { old with trans := moreErrors old.trans } u ∧ SameMemory s u ∧ u.poison = s.poison)
    ∧ (s.args.flag = false → r.cls ≠ 5 → r.cls ≠ 7 → canStrike r.cls.toNat r.unit.toNat s.args.code.toNat = true → r.concerns s.args.code.toNat s.args.core = true →
      (s.args.code = 0 → ∃ u, exec .retryOutcome s = .next u ∧ posts 2 { old with last := moreErrors old.last } u ∧ SameMemory s u)
      ∧ (s.args.code = 1 → s.cellAddr r.loc.toNat = true → (∀ e ∈ s.cores, e.2.holds = []) →
          ∃ u, exec .retryOutcome s = .next u ∧ posts 2 { old with last := moreErrors old.last } u ∧ r.loc.toNat / 64 ∈ u.poison ∧ ∀ l ∈ s.poison, l ∈ u.poison)
      ∧ (s.args.code = 4 → (s.core? s.args.core).isSome = true → s.args.b < 4096 →
          ∃ u d, exec .retryOutcome s = .next u ∧ posts 2 { old with last := moreErrors old.last } u ∧ u.core? s.args.core = some d ∧ s.args.b ∈ d.padPoison)))
  ∧ (∀ (s : State) (r : ErrRec), s.bus[s.args.idx]? = some r → (∀ x ∈ s.bus.take s.args.idx, ¬ (x.die = r.die ∧ x.unit = r.unit ∧ x.inst = r.inst)) →
    (r.sev ≠ 3 → ∀ x ∈ s.bus, x.sev ≠ 3) →
    (∀ x ∈ s.bus, (x.sev = 3 ↔ r.sev = 3) → x.time = r.time → (r.die.toNat * 256 + r.unit.toNat) * 65536 + r.inst.toNat ≤ (x.die.toNat * 256 + x.unit.toNat) * 65536 + x.inst.toNat) →
    ∃ u, exec .errorRecord s = .next u ∧ u = { s with bus := s.bus.eraseIdx s.args.idx, errors := u.errors, aer := u.aer, almanac := u.almanac } ∧ u.errors = lastN 4096 (s.errors ++ [r])
      ∧ (∀ a, Map.look s.almanac r.die.toNat = some a → Map.look u.almanac r.die.toNat = some { a with log := r :: a.log })
      ∧ (r.sev ≠ 3 → u.aer = s.aer))
  ∧ ∀ (s : State) (a : Almanac), let d := s.args.idx
    Map.look s.almanac d = some a → s.dies.getLsbD d = true → a.beat + 15000 ≤ s.now →
    let beat (m : Nat) : Map Almanac := Map.put s.almanac d { a with missed := m, beat := a.beat + 15000 }
    (s.args.flag = true → a.missed = 0 → exec .heartbeatPeriod s = .next { s with almanac := beat 0 })
    ∧ (s.args.flag = true → a.missed = 1 → ∃ u rs, exec .heartbeatPeriod s = .next u ∧ u = { s with almanac := beat 0, counters := u.counters, bus := s.bus ++ rs }
        ∧ (∀ r ∈ rs, r.sev = 1 ∧ r.cls = 8) ∧ rs.map (fun r => (r.die.toNat, r.unit.toNat)) = s.heartbeatUnits d)
    ∧ (s.args.flag = false → a.missed = 0 → exec .heartbeatPeriod s = .next { s with almanac := beat 1 })
    ∧ (s.args.flag = false → a.missed = 1 → ∃ u, exec .heartbeatPeriod s = .next u ∧ u = { s with almanac := beat 2, counters := u.counters })
    ∧ (2 ≤ a.missed → exec .heartbeatPeriod s = .refused .notEnabled)

/-- DIE_LOSS, QUADRANT_OUT_OF_SERVICE, CHANNEL_RETRAIN, CHANNEL_RETRAIN_DONE, LANE_OUT_OF_SERVICE and UNIT_TEST_FAIL: what goes out of service. Loss of the hub die loses the device (R403, R404, R410, R421, R424, R429). -/
def Sys2Proof.Claim.UnitsOutOfService : Prop :=
  (∀ (s : State), s.args.idx = 8 → ∃ u, exec .dieLoss s = .next u ∧ u.deviceLost = true ∧ step u = .fault .deviceLost)
  ∧ (∀ (s : State) (d : Nat), s.args.idx = d → d < 8 → s.dies.getLsbD d = true → s.doomed d = true →
    ∃ u, exec .dieLoss s = .next u ∧ u.dies = setBit s.dies d false ∧ u.standIn d = u.buddy d ∧ u.deviceLost = s.deviceLost
      ∧ ∀ n c, dieOf n = d → u.core? n = some c → c.inService = false)
  ∧ (∀ (s : State) (p : Port), let q := s.args.idx
    s.port? q = some p → isQuadrant q = true →
    let out (u : State) : Prop := ∃ p', u.port? q = some p' ∧ p'.inService = false ∧ p'.retraining = []
    (p.inService = true → (s.args.flag = true ∨ ∃ w ∈ p.wbFails, 16 ≤ w.2.1) → ∃ u, exec .quadrantOutOfService s = .next u ∧ out u)
    ∧ (p.inService = true → 256 < ((Map.lookD p.crc s.args.a []).filter fun t => decide (s.now < t + 1500000)).length → Map.look p.retraining s.args.a = none →
        ∃ u p' r, exec .channelRetrain s = .next u ∧ u.port? q = some p' ∧ p' = ({ p with retraining := Map.put p.retraining s.args.a s.now, crc := Map.del p.crc s.args.a } : Port).charge actMgmt 1 s.now
          ∧ u.bus = s.bus ++ [r] ∧ r.sev = 2 ∧ r.cls = 0 ∧ SameMemory s u)
    ∧ (∀ t, Map.look p.retraining s.args.a = some t →
      (s.now < t + 300000 → exec .channelRetrainDone s = .refused .notEnabled)
      ∧ (t + 300000 ≤ s.now →
        (s.args.flag = true → exec .channelRetrainDone s = .next (s.updPort q fun p => { p with retraining := Map.del p.retraining s.args.a, failedOnce := removeNat p.failedOnce s.args.a }))
        ∧ (s.args.flag = false → p.failedOnce.contains s.args.a = false →
            exec .channelRetrainDone s = .next (s.updPort q fun p => { p with retraining := Map.put p.retraining s.args.a s.now, failedOnce := insertNat p.failedOnce s.args.a }))
        ∧ (s.args.flag = false → p.failedOnce.contains s.args.a = true → ∃ u, exec .channelRetrainDone s = .next u ∧ out u))))
  ∧ (∀ (s : State) (r : ErrRec), s.retries[s.args.idx]? = some r → r.cls = 5 → r.loc.toNat < 72 → r.loc.toNat ∉ s.lanes →
    ∃ u, exec .laneOutOfService s = .next u ∧ u = { s with retries := s.retries.eraseIdx s.args.idx, lanes := insertNat s.lanes r.loc.toNat, counters := u.counters, bus := u.bus }
      ∧ r.loc.toNat ∈ u.lanes ∧ u.bus = s.bus ++ [{ r with sev := 2, time := BitVec.ofNat 64 s.now, owner := none }])
  ∧ ∀ (s : State), let die := s.args.a
    let inst := s.args.b
    die < 8 → s.testable die s.args.idx inst = true →
    (s.args.idx = 3 → inst < 32 → (∀ n c, s.core? n = some c → c.resuming = none) → ∃ u, exec .unitTestFail s = .next u ∧ u = { s with arrays := u.arrays, units := s.units ++ [(3, 32 * die + inst)] }
        ∧ ∀ a, Map.look s.arrays (32 * die + inst) = some a → Map.look u.arrays (32 * die + inst) = some { a with inService := false })
    ∧ (∀ e ∈ [(2, 1), (4, 96)], s.args.idx = e.1 → inst < 384 / e.2 → ∃ u, exec .unitTestFail s = .next u
        ∧ ∀ n c, 384 * die + e.2 * inst ≤ n → n < 384 * die + e.2 * inst + e.2 → u.core? n = some c → c.inService = false)
    ∧ (∀ k ∈ [1, 5, 9, 10], s.args.idx = k → exec .unitTestFail s = .next { s with units := s.units ++ [(k, die)] })
    ∧ (s.args.idx ∉ [1, 2, 3, 4, 5, 9, 10] → exec .unitTestFail s = .refused .notEnabled)

/-! ### Mailbox commands (R341 to R346, R78, R194, R285, R350, R354 to R358) -/

/-- The command at the head of the queue is one of a port's mailbox, with a code, that came in an earlier clk, and the firmware runs (R341, R352). -/
def Sys2Proof.Claim.Commanded (s : State) (p : Nat) (m : Mailbox) (code : Nat) : Prop :=
  (∃ since rest, s.commands = (p, since) :: rest ∧ since < s.now) ∧ Map.look s.mailboxes p = some m ∧ m.code = code ∧ s.devState = 4

/-- The command has completed with a status: it has left the queue, and its mailbox is not BUSY (R341). -/
def Sys2Proof.Claim.Answered (s u : State) (p : Nat) (m : Mailbox) (status : Nat) : Prop :=
  u.commands = s.commands.drop 1 ∧ Map.look u.mailboxes p = some { m with busy := false, status := BitVec.ofNat 8 status }

/-- A command that only answers with a status. -/
def Sys2Proof.Claim.OnlyAnswers (i : Instr) (s : State) (p : Nat) (m : Mailbox) (status : Nat) : Prop :=
  ∃ u, exec i s = .next u ∧ Answered s u p m status ∧ u = { s with commands := u.commands, mailboxes := u.mailboxes, msix := u.msix }

/-- An unlisted code answers 1; a command on a context that is not resident answers 3, and on another port's 2 (R342). CTX.ACTIVATE installs a context for its port; CTX.TEARDOWN removes everything of it; CTX.HTAB, CTX.PUB, DEBUG and TLB.INVAL change what they name. Readings that are the model's own choice: log entries 31, 51. -/
def Obligations.ContextCommands : Prop :=
  ∀ (s : State) (p : Nat) (m : Mailbox),
    let c := m.arg 0
    (∀ k, Commanded s p m k → (k = 0 ∨ 17 < k) → OnlyAnswers .mailboxUnknown s p m 1)
    ∧ (∀ e ∈ [(Instr.ctxTeardown, 2), (.ctxPark, 3), (.ctxHtab, 5), (.ctxPub, 6), (.tlbInval, 7), (.shardParkCmd, 8), (.shardDiscardCmd, 9), (.shardResumeCmd, 10),
        (.debug, 11), (.attest, 14)], Commanded s p m e.2 →
      ((256 ≤ c ∨ Map.look s.ctxs c = none) → OnlyAnswers e.1 s p m 3)
      ∧ (∀ x, c < 256 → Map.look s.ctxs c = some x → x.owner ≠ p → OnlyAnswers e.1 s p m 2))
    ∧ (Commanded s p m 1 →
      ((256 ≤ c ∨ Map.look s.ctxs c ≠ none ∨ s.entryFits c = false) → OnlyAnswers .ctxActivate s p m 3)
      ∧ (∀ t, c < 256 → Map.look s.ctxs c = none → s.entryFits c = true → ({ s with free := s.free + 2 }).installCtx c (s.ctxOf c p) = some t →
          ∃ u x, exec .ctxActivate s = .next u ∧ Answered s u p m 0 ∧ Map.look u.ctxs c = some x ∧ x.state = 1 ∧ x.owner = p ∧ x.ptroot = s.entryField c 8 8
            ∧ x.htab = s.entryField c 0x10 8 ∧ x.hcount = s.entryField c 0x18 4 ∧ x.det = bitAt (s.entryField c 1 1) 0 ∧ x.slots = s.entryField c 0x28 4
            ∧ x.nq = s.entryField c 0x40 1 ∧ x.npub = s.entryField c 0x50 2 ∧ x.usedSlots = [] ∧ x.debug = false ∧ ∀ d, d ≠ c → Map.look u.ctxs d = Map.look s.ctxs d))
    ∧ ∀ x, c < 256 → Map.look s.ctxs c = some x → x.owner = p →
      let changes (i : Instr) (y : Ctx) : Prop := ∃ u, exec i s = .next u ∧ Answered s u p m 0 ∧ u = { s with commands := u.commands, mailboxes := u.mailboxes, msix := u.msix, ctxs := Map.put s.ctxs c y }
      (Commanded s p m 2 → ∃ u, exec .ctxTeardown s = .next u ∧ Answered s u p m 0 ∧ Map.look u.ctxs c = none ∧ (∀ v ∈ u.versions, v.2.ctx ≠ c) ∧ (∀ g ∈ u.groups, g.2.ctx ≠ c)
          ∧ (∀ k ∈ u.clusters, ∀ t ∈ k.2.tlb, t.ctx ≠ c) ∧ (∀ n k, u.core? n = some k → (∀ e ∈ k.inbox, e.ctx ≠ c) ∧ ∀ t ∈ k.utlb, t.ctx ≠ c) ∧ ∀ a ∈ u.almanac, ∀ r ∈ a.2.records, r.2.ctx ≠ c)
      ∧ (Commanded s p m 5 →
          let good : Prop := m.arg 1 % 16 = 0 ∧ m.arg 2 ≤ 2 ^ 20 ∧ (m.arg 2 = 0 ∨ (s.cellAddr (m.arg 1) = true ∧ s.cellAddr (m.arg 1 + 16 * m.arg 2 - 1) = true))
          (good → s.tilesGoing c = false → changes .ctxHtab { x with htab := m.arg 1, hcount := m.arg 2, htv := x.htv + 1 })
          ∧ (good → s.tilesGoing c = true → exec .ctxHtab s = .refused .notEnabled) ∧ (¬ good → OnlyAnswers .ctxHtab s p m 3))
      ∧ (Commanded s p m 6 → (x.npub ≤ m.arg 1 → OnlyAnswers .ctxPub s p m 3)
          ∧ ∀ bs, m.arg 1 < x.npub → s.readRange c (x.pubtab.toNat + 32 * m.arg 1) 32 = some bs → changes .ctxPub { x with pubs := Map.put x.pubs (m.arg 1) (s.pubEntry c bs) })
      ∧ (Commanded s p m 11 → changes .debug { x with debug := bitAt (m.arg 1) 0 })
      ∧ (Commanded s p m 7 → ((2 ^ 56 ≤ m.arg 1 ∨ 2 ^ 56 < m.arg 1 + m.arg 2) → OnlyAnswers .tlbInval s p m 3)
          ∧ (m.arg 1 < 2 ^ 56 → m.arg 1 + m.arg 2 ≤ 2 ^ 56 → s.translating c (m.arg 1) (m.arg 2) = false → ∃ u, exec .tlbInval s = .next u ∧ Answered s u p m 0
              ∧ u = { s with commands := u.commands, mailboxes := u.mailboxes, msix := u.msix, sealed_ := u.sealed_, sealedBy := u.sealedBy, clusters := u.clusters, cores := u.cores }
              ∧ u.clusters = Map.each s.clusters (fun _ k => k.without c fun t => t.meets (m.arg 1) (m.arg 2))
              ∧ (∀ k ∈ u.clusters, ∀ t ∈ k.2.tlb, ¬ (t.ctx = c ∧ t.meets (m.arg 1) (m.arg 2) = true))
              ∧ (∀ n k, s.core? n = some k → ∃ d, u.core? n = some d ∧ d = { k.withoutTlb c (fun t => t.meets (m.arg 1) (m.arg 2)) with icache := d.icache }
                  ∧ ∀ t ∈ d.utlb, ¬ (t.ctx = c ∧ t.meets (m.arg 1) (m.arg 2) = true))
              ∧ ∀ l ∈ u.sealed_, l ∈ s.sealed_))

/-- SHARD.PARK raises the halt request line of the named shard, and saves the shard once its state can be saved; SHARD.DISCARD and SHARD.RESUME act on the named shard; they answer 3 for one that is not there, 4 with no save slot; KEY.INSTALL and KEY.CLEAR fill and empty a slot that nothing uses; ATTEST writes its block behind the nonce, with one manifest for as long as the task exists; PEER.SET loads a port's access table (R194, R298 to R301, R304, R342, R350, R354, R355). Readings that are the model's own choice: log entry 31. -/
def Obligations.ShardAndKeyCommands : Prop :=
  ∀ (s : State) (p : Nat) (m : Mailbox),
    (∀ x, m.arg 0 < 256 → Map.look s.ctxs (m.arg 0) = some x → x.owner = p →
      (∀ e ∈ [(Instr.shardParkCmd, 8), (.shardDiscardCmd, 9)], Commanded s p m e.2 → s.namedCore (m.arg 0) m = none → OnlyAnswers e.1 s p m 3)
      ∧ (∀ n c sh, s.namedCore (m.arg 0) m = some (n, c, sh) →
        (Commanded s p m 8 → (s.freeSlot sh.ctx = none → sh.halt ≠ 3 → OnlyAnswers .shardParkCmd s p m 4)
            ∧ (s.freeSlot sh.ctx = none → sh.halt = 3 → exec .shardParkCmd s = .next ((s.raiseHalt n 0).finishCommand p 4))
            ∧ ∀ slot, s.freeSlot sh.ctx = some slot → c.cs.halted = false →
              (sh.halt = 0 → exec .shardParkCmd s = .next (s.raiseHalt n 3))
              ∧ (sh.halt ≠ 0 → s.canPark c = false → exec .shardParkCmd s = .refused .notEnabled)
              ∧ (sh.halt ≠ 0 → s.canPark c = true → exec .shardParkCmd s = .next ((s.park n slot false false).finishCommand p 0)))
        ∧ (Commanded s p m 9 → (sh.committed = true → OnlyAnswers .shardDiscardCmd s p m 3)
            ∧ (sh.committed = false → c.cs.halted = true → exec .shardDiscardCmd s = .refused .notEnabled)
            ∧ (sh.committed = false → c.cs.halted = false → ∃ u d, exec .shardDiscardCmd s = .next u ∧ Answered s u p m 0 ∧ u.core? n = some d ∧ d.shard = none
                ∧ ∀ t, Map.look s.tasks sh.task = some t → ∃ t', Map.look u.tasks sh.task = some t' ∧ t'.shards = t.shards.set sh.num .waiting)))
      ∧ (Commanded s p m 10 →
          let named (e : Nat × Parked) : Bool := e.2.debug && e.2.shard.ctx == m.arg 0 && e.2.shard.taskId.toNat == m.arg 1 && e.2.shard.num == m.arg 2
          (s.parked.find? named = none → OnlyAnswers .shardResumeCmd s p m 3)
          ∧ ∀ k y, s.parked.find? named = some (k, y) → Map.look s.parked k = some y → ∃ u, exec .shardResumeCmd s = .next u ∧ Answered s u p m 0
              ∧ u = { s with commands := u.commands, mailboxes := u.mailboxes, msix := u.msix, parked := Map.put s.parked k { y with debug := false } })
      ∧ (Commanded s p m 14 →
          let found := s.tasks.find? fun e => e.2.ctx == m.arg 0 && e.2.taskId.toNat == m.arg 1
          (found = none → OnlyAnswers .attest s p m 3)
          ∧ ∀ k t, found = some (k, t) → s.physOk (m.arg 2) 416 = true → s.hitsSealed (.dram (m.arg 2)) 416 = false → ∃ u, exec .attest s = .next u ∧ Answered s u p m 0
              ∧ SameBut s u (.dram (m.arg 2)) 416 ∧ u.readTarget (.dram (m.arg 2)) 32 = s.readTarget (.dram (m.arg 2)) 32
              ∧ u.readTarget (.dram (m.arg 2 + 48)) 8 = toBytes 8 s.fwver.toNat ∧ u.readTarget (.dram (m.arg 2 + 56)) 8 = toBytes 8 t.taskId.toNat
              ∧ (Map.look s.tasks k = some t → Map.look u.tasks k = some { t with manifest := some (s.manifest (m.arg 0) x k t) })
              ∧ ∀ bs, t.manifest = some bs → bs.length = 184 → u.readTarget (.dram (m.arg 2 + 128)) 184 = bs))
    ∧ (Commanded s p m 12 →
        ((256 ≤ m.arg 0 ∨ s.physOk (m.arg 1) 176 = false) → OnlyAnswers .keyInstall s p m 3)
        ∧ (m.arg 0 < 256 → s.physOk (m.arg 1) 176 = true → s.keyInUse (m.arg 0) = true → exec .keyInstall s = .refused .notEnabled)
        ∧ (m.arg 0 < 256 → s.physOk (m.arg 1) 176 = true → s.keyInUse (m.arg 0) = false →
          let block : List Byte := s.readTarget (.dram (m.arg 1)) 97 ++ s.readTarget (.dram (m.arg 1 + 112)) 64
          (Config.unwrapKey block = none → OnlyAnswers .keyInstall s p m 5)
          ∧ ∀ k, Config.unwrapKey block = some k → ∃ u, exec .keyInstall s = .next u ∧ Answered s u p m 0
              ∧ u = { s with commands := u.commands, mailboxes := u.mailboxes, msix := u.msix, keys := Map.put s.keys (m.arg 0) k }))
    ∧ (Commanded s p m 13 → (256 ≤ m.arg 0 → OnlyAnswers .keyClear s p m 3)
        ∧ (m.arg 0 < 256 → s.keyInUse (m.arg 0) = false → ∃ u, exec .keyClear s = .next u ∧ Answered s u p m 0 ∧ Map.look u.keys (m.arg 0) = none
            ∧ ∀ k, k ≠ m.arg 0 → Map.look u.keys k = Map.look s.keys k))
    ∧ (Commanded s p m 17 → ((8 ≤ m.arg 0 ∨ s.physOk (m.arg 1) 2048 = false) → OnlyAnswers .peerSet s p m 3)
        ∧ (m.arg 0 < 8 → s.physOk (m.arg 1) 2048 = true → ∃ u, exec .peerSet s = .next u ∧ Answered s u p m 0
            ∧ u = { s with commands := u.commands, mailboxes := u.mailboxes, msix := u.msix, peerTable := Map.put s.peerTable (m.arg 0) (s.readTarget (.dram (m.arg 1)) 2048) }))

/-- CTX.PARK raises the halt lines of its shards, with STATE 2 in the context's entry, then writes the area and frees the context's number, or answers 4 when the area is too small or the link is down; CTX.RESUME installs the context of an area whose pages have their frames, answers 3 for one that does not fit, and 5 for a key or a handle table that fails; CKPT and CKPT.RESTORE hold the device while the image is written, and put it back (R285, R343, R356, R358). Readings that are the model's own choice: log entries 32, 35, 52. -/
def Obligations.ParkAndCheckpointCommands : Prop :=
  ∀ (s : State) (p : Nat) (m : Mailbox),
    (∀ x key, Commanded s p m 3 → m.arg 0 < 256 → Map.look s.ctxs (m.arg 0) = some x → x.owner = p → Map.look s.keys (bits (m.arg 3) 0 8) = some key →
      (∀ n c sh, s.core? n = some c → (n, c) ∈ s.cores → c.shard = some sh → sh.ctx = m.arg 0 → sh.halt = 0 → ∃ u d y h, exec .ctxPark s = .next u ∧ SameBut s u (.dram (s.entryAddr (m.arg 0))) 3
          ∧ u.readTarget (.dram (s.entryAddr (m.arg 0))) 1 = toBytes 1 2 ∧ u.commands = s.commands
          ∧ Map.look u.ctxs (m.arg 0) = some y ∧ y.state = 2 ∧ u.core? n = some d ∧ d.shard = some h ∧ h.halt = 1)
      ∧ (s.haltAll (fun sh => sh.ctx == m.arg 0) = none → (s.ctxBusy (m.arg 0) = true ∨ s.hubsUp = false) →
          (x.state = 1 → exec .ctxPark s = .next (s.stopCtx (m.arg 0) p))
          ∧ (x.state ≠ 1 → exec .ctxPark s = .refused .notEnabled))
      ∧ (s.haltAll (fun sh => sh.ctx == m.arg 0) = none → s.ctxBusy (m.arg 0) = false → s.hubsUp = true →
          (Map.look s.hostDown p ≠ none → ∃ u, exec .ctxPark s = .next u ∧ Answered s u p m 4 ∧ Map.look u.ctxs (m.arg 0) = some { x with state := 1 } ∧ SameBut s u (.dram (s.entryAddr (m.arg 0))) 3)
          ∧ (Map.look s.hostDown p = none →
              (((s.cancelRebuilds (m.arg 0)).parkVersions (m.arg 0)).areaOf (m.arg 0) (m.arg 1) x key (bits (m.arg 3) 32 32)).length ≤ m.arg 2 →
              ∃ u, exec .ctxPark s = .next u ∧ Answered s u p m 0 ∧ Map.look u.ctxs (m.arg 0) = none ∧ (∀ t ∈ u.tasks, t.2.ctx ≠ m.arg 0) ∧ (∀ e ∈ u.parked, e.2.shard.ctx ≠ m.arg 0)
                ∧ (∀ v ∈ u.versions, v.2.ctx ≠ m.arg 0) ∧ (u.shelves.any fun z => z.port == p && z.area == m.arg 1) = true)))
    ∧ (∀ x, Commanded s p m 3 → m.arg 0 < 256 → Map.look s.ctxs (m.arg 0) = some x → x.owner = p → Map.look s.keys (bits (m.arg 3) 0 8) = none → OnlyAnswers .ctxPark s p m 3)
    ∧ (Commanded s p m 4 → ((256 ≤ m.arg 0 ∨ Map.look s.ctxs (m.arg 0) ≠ none ∨ s.entryFits (m.arg 0) = false ∨ Map.look s.hostDown p ≠ none) → OnlyAnswers .ctxResume s p m 3)
        ∧ (m.arg 0 < 256 → Map.look s.ctxs (m.arg 0) = none → s.entryFits (m.arg 0) = true → Map.look s.hostDown p = none →
            let n (k : Nat) : Nat := Memory.num (s.hostMem p) (m.arg 1 + 8 * k) 8
            let block := Memory.getN (s.hostMem p) (m.arg 1 + 64) 32
            let pagesAt := m.arg 1 + 96 + 192 * n 0 + 256 * n 1 + 512 * n 2 + 16 * n 5
            let pages := imagePages (s.hostMem p) (n 3) pagesAt
            let streamAt := pagesAt + (pages.map fun q => pageImage q.2.1).sum
            let fits := pagesAt ≤ m.arg 1 + m.arg 2
            let framed := s.framesFor (s.ctxOf (m.arg 0) p).ptroot pages
            let opened (key : BitVec 256) : Option (List Byte) := ((Config.gcmOpen key (gcmIv (BitVec.ofNat 32 (field block 16 4)) (BitVec.ofNat 64 (field block 0 8)))
              (Memory.getN (s.hostMem p) streamAt (field block 8 4))).bind checkCrc).bind unzrc
            (s.hubsUp = false → exec .ctxResume s = .refused .notEnabled)
            ∧ (s.hubsUp = true → (¬fits ∨ framed = none) → OnlyAnswers .ctxResume s p m 3)
            ∧ (s.hubsUp = true → fits → framed ≠ none → Map.look s.keys (field block 12 1) = none → OnlyAnswers .ctxResume s p m 5)
            ∧ ∀ frames key, s.hubsUp = true → fits → framed = some frames → Map.look s.keys (field block 12 1) = some key → streamAt + field block 8 4 + 16 * n 0 ≤ m.arg 1 + m.arg 2 →
              (opened key = none → OnlyAnswers .ctxResume s p m 5)
              ∧ ∀ htab, opened key = some htab →
                let put := ({ s with free := s.free + 2 }).reinstall (m.arg 0) p (m.arg 1) (s.ctxOf (m.arg 0) p) (s.ownShelf (s.hostMem p) (m.arg 1)) frames htab (streamAt + field block 8 4)
                (∀ st, put = .inr st → OnlyAnswers .ctxResume s p m st)
                ∧ ∀ t, put = .inl t → ∃ u x, exec .ctxResume s = .next u ∧ Answered s u p m 0 ∧ Map.look u.ctxs (m.arg 0) = some x ∧ x.state = 1 ∧ x.owner = p ∧ u.parked = t.parked ∧ u.tasks = t.tasks))
    ∧ (Commanded s p m 15 →
        (m.arg 0 = 0 → m.arg 1 = 0 → OnlyAnswers .ckpt s p m 3)
        ∧ ((m.arg 0 ≠ 0 ∨ m.arg 1 ≠ 0) → s.ckptDown (m.arg 0) (m.arg 1) = true → ∃ u, exec .ckpt s = .next u ∧ Answered s u p m 4 ∧ SameMemory s u)
        ∧ ((m.arg 0 ≠ 0 ∨ m.arg 1 ≠ 0) → s.ckptDown (m.arg 0) (m.arg 1) = false → (∀ e ∈ s.cores, e.2.shard = none) → s.seals = [] → s.hubsUp = true →
            ∃ u z, exec .ckpt s = .next u ∧ Answered s u p m 0 ∧ u.mem = s.mem ∧ u.frozen = !bitAt (m.arg 2) 0 ∧ z ∈ u.ckpts ∧ z.area0 = m.arg 0 ∧ z.area1 = m.arg 1
              ∧ z.tasks = s.tasks ∧ z.parked = s.parked ∧ z.ctxs = s.ctxs ∧ z.versions = s.versions ∧ z.almanac = s.almanac ∧ z.groups = s.groups ∧ z.sealed_ = s.sealed_))
    ∧ (Commanded s p m 16 →
        ((s.ckptDown (m.arg 0) (m.arg 1) = true ∨ ∀ z ∈ s.ckpts, ¬ (z.area0 = m.arg 0 ∧ z.area1 = m.arg 1)) → OnlyAnswers .ckptRestore s p m 3)
        ∧ ∀ z, s.ckptDown (m.arg 0) (m.arg 1) = false → s.ckpts.find? (fun z => z.area0 == m.arg 0 && z.area1 == m.arg 1) = some z →
            (s.hubsUp = false → exec .ckptRestore s = .refused .notEnabled)
            ∧ (s.hubsUp = true → ∃ u, exec .ckptRestore s = .next u ∧ Answered s u p m 0 ∧ u.tasks = z.tasks ∧ u.parked = z.parked ∧ u.ctxs = z.ctxs
              ∧ Map.keys u.versions = Map.keys z.versions ∧ Map.keys u.almanac = Map.keys z.almanac ∧ u.groups = z.groups ∧ u.sealed_ = z.sealed_ ∧ u.seals = [] ∧ u.frozen = false
              ∧ (∀ n c, u.core? n = some c → c.shard = none)
              ∧ ∀ a, a < 2 ^ 39 → a % 2 ^ 34 < s.tsb.toNat * 2 ^ 30 → u.readTarget (.dram a) 1 = s.imageAt (m.arg 0) (m.arg 1) a 1))

/-! ### Registers, boot and power (R5, R295, R336, R339 to R341, R352, R353, R357, R359) -/

/-- REGISTER_WRITE: each RW register keeps the bits and values its rule gives it, a reserved offset ignores writes and reads as zero, a mailbox takes a command and ignores writes while BUSY, and a read changes nothing but the reply (R5, R295, R336, R339 to R341). Readings that are the model's own choice: log entry 53. -/
def Obligations.RegisterAccesses : Prop :=
  (∀ (s : State), let v := s.args.value
    s.args.idx = 0 → s.args.a < 2 → Map.look s.hostDown s.args.a = none →
    let off := s.args.b
    let writes (t : State) : Prop := s.args.flag = false → exec .registerWrite s = .next t
    (s.args.flag = true → off < 0x400000 →
        ∃ w : Word, exec .registerWrite s = .next { s with free := s.free + 1, reply := 0 :: toBytes 8 w.toNat }
          ∧ (off = 0x008 → w = BitVec.ofNat 64 (s.dies.toNat * 2 ^ 16 + s.devState.toNat)) ∧ (off = 0x010 → w = s.fwver) ∧ (off = 0x018 → w = s.bar2) ∧ (off = 0x020 → w = s.ctxt)
          ∧ (off = 0x040 → w = BitVec.ofNat 64 (s.throttle.toNat * 2 ^ 16 + s.pwrNow.toNat))
          ∧ (off = 0x028 → w = s.tsb.setWidth 64) ∧ (off = 0x038 → w = s.pwrLimit.setWidth 64)
          ∧ (0x200000 ≤ off → w = BitVec.ofNat 64 (ofBytes (Memory.getN s.bootWin (off - 0x200000) (min 8 (0x400000 - off)))))
          ∧ ((0x048 ≤ off ∧ off < 0x1000) ∨ (0x1040 ≤ off ∧ off < 0x10000) ∨ (0x18000 ≤ off ∧ off < 0x100000) ∨ (0x120000 ≤ off ∧ off < 0x200000) → w = 0))
    ∧ (off = 0x018 → writes { s with bar2 := v &&& 0xFFFFFFC0000000 })
    ∧ (off = 0x020 → writes { s with ctxt := v &&& 0xFFFFFFFFFF0000 })
    ∧ (off = 0x028 → (1 ≤ v.toNat % 16 ∧ v.toNat % 16 ≤ 11 ∧ s.ctxs = [] → writes { s with tsb := v.setWidth 4 })
        ∧ (¬ (1 ≤ v.toNat % 16 ∧ v.toNat % 16 ≤ 11 ∧ s.ctxs = []) → writes s))
    ∧ (off = 0x038 → (1500 ≤ v.toNat % 4096 ∧ v.toNat % 4096 ≤ 3800 → writes { s with pwrLimit := v.setWidth 12 })
        ∧ (¬ (1500 ≤ v.toNat % 4096 ∧ v.toNat % 4096 ≤ 3800) → writes s))
    ∧ (off = 0x000 ∨ off = 0x008 ∨ off = 0x010 ∨ off = 0x040 → writes s)
    ∧ (off % 8 = 0 → (0x048 ≤ off ∧ off < 0x1000) ∨ (0x1040 ≤ off ∧ off < 0x10000) ∨ (0x18000 ≤ off ∧ off < 0x100000) → writes s)
    ∧ (∀ m, Map.look s.mailboxes s.args.a = some m → let before (q : Nat × Nat) : Bool := s.args.a != 0 || decide (q.2 < s.now)
      (m.busy = true → off % 8 = 0 → 0x1000 ≤ off → off < 0x1040 → writes s)
      ∧ (m.busy = false → off = 0x1000 → writes { s with mailboxes := Map.put s.mailboxes s.args.a { m with cmd := v, busy := true }, commands := (s.commands.filter before) ++ (s.args.a, s.now) :: s.commands.filter fun q => !before q })
      ∧ (∀ k < 6, m.busy = false → off = 0x1010 + 8 * k → writes { s with mailboxes := Map.put s.mailboxes s.args.a { m with args := Map.put m.args k v } }))
    ∧ (∀ d p, Map.look s.pools d = some p → d < 8 →
      (off = 0x10000 + 0x1000 * d → (1500 ≤ v.toNat % 2 ^ 32 → writes { s with pools := Map.put s.pools d { p with stagedAge := some (v.setWidth 32) } })
          ∧ (v.toNat % 2 ^ 32 < 1500 → writes { s with pools := Map.put s.pools d p }))
      ∧ (off = 0x10008 + 0x1000 * d → writes { s with pools := Map.put s.pools d { p with discard := v.setWidth 32 } })
      ∧ (off = 0x10010 + 0x1000 * d → writes { s with pools := Map.put s.pools d { p with ctl := v.setWidth 2 } }))
    ∧ (0x200000 ≤ off → off < 0x400000 →
      (s.devState = 1 → writes { s with bootWin := Memory.setN s.bootWin (off - 0x200000) (s.args.bytes.take (0x400000 - off)) }) ∧ (s.devState ≠ 1 → writes s)))
  ∧ (∀ (s : State),
    (s.args.idx = 2 → s.args.a < 2 → 30 ≤ s.args.b → s.args.b ≤ 36 → exec .registerWrite s = .next { s with barBits := Map.put s.barBits s.args.a s.args.b })
    ∧ (s.args.idx = 3 → s.args.flag = true → exec .registerWrite s = .next { s with free := s.free + 1, reply := 0 :: toBytes 8 (s.poolReg s.args.a s.args.b).toNat })
    ∧ ∀ p, s.args.idx = 3 → s.args.flag = false → Map.look s.pools s.args.a = some p → s.args.b = 0x008 →
        exec .registerWrite s = .next { s with pools := Map.put s.pools s.args.a { p with discard := s.args.value.setWidth 32 } })
  ∧ ∀ (s : State) (p : Port), s.args.idx = 1 → s.args.b % 8 = 0 → Map.look s.ports s.args.a = some p → s.args.flag = false →
    let v := s.args.value
    let sets (q : Port) : Prop := exec .registerWrite s = .next { s with ports := Map.put s.ports s.args.a q }
    (∀ k b, s.args.b = 0x040 + 8 * k → k ≤ 10 → Map.look p.budgets k = some b → sets { p with budgets := Map.put p.budgets k { b with staged := some (v.setWidth 17) } })
    ∧ (s.args.b = 0x200 → isQuadrant s.args.a = true → (1500 ≤ v.toNat % 65536 ∧ v.toNat % 65536 ≤ 48000 → sets { p with hmax := v.setWidth 16 })
        ∧ (¬ (1500 ≤ v.toNat % 65536 ∧ v.toNat % 65536 ≤ 48000) → sets p))
    ∧ (s.args.b = 0x208 → isQuadrant s.args.a = true → (64 ≤ v.toNat % 4096 → sets { p with mitth := v.setWidth 12 }) ∧ (v.toNat % 4096 < 64 → sets p))
    ∧ (s.args.b = 0x000 ∨ s.args.b = 0x008 ∨ s.args.b = 0x010 ∨ s.args.b = 0x018 ∨ (0x0C0 ≤ s.args.b ∧ s.args.b < 0x118) ∨ s.args.b = 0x210 ∨ s.args.b = 0x218 → sets p)

/-- POWER_ON_RESET, DEV_BOOT, BOOT_VERIFY_DONE, BOOT_INIT_DONE and WATCHDOG_EXPIRY move DEV.STAT.STATE as R352 and R359 give; an image that the checks of R353 reject fails the boot, and a command that a restart cuts short answers 6. -/
def Sys2Proof.Claim.BootSteps : Prop :=
  ∀ (s : State),
    (∃ u, exec .powerOnReset s = .next u ∧ u.devState = 0 ∧ u.dies = 0 ∧ u.planes = false ∧ u.cores = State.reset.cores ∧ (∀ n c, u.core? n = some c → c.shard = none) ∧ u.ctxs = [] ∧ u.tasks = [] ∧ u.mem = [] ∧ u.fwver = 0 ∧ u.commands = []
      ∧ u.host0 = s.host0 ∧ u.host1 = s.host1)
    ∧ (s.args.a < 2 → Map.look s.hostDown s.args.a = none →
      (s.devState = 1 → ∃ u, exec .devBoot s = .next u ∧ u = { s with bootLen := s.args.value.setWidth 32, devState := 2, msix := u.msix })
      ∧ (s.devState ≠ 1 → exec .devBoot s = .next s))
    ∧ (s.devState = 2 →
      let bs := Memory.getN s.bootWin 0 (min s.bootLen.toNat 0x200000)
      (s.bootLen.toNat ≤ 0x200000 → imageOk bs s.bootLen.toNat = true → ∃ u, exec .bootVerifyDone s = .next u
          ∧ u = { s with devState := 3, fwver := BitVec.ofNat 64 (field bs 8 8), imageHash := Config.sha384 bs, msix := u.msix })
      ∧ (2 ^ 21 < s.bootLen.toNat ∨ imageOk bs s.bootLen.toNat = false → ∃ u, exec .bootVerifyDone s = .next u ∧ u = { s with devState := 5, msix := u.msix }))
    ∧ (s.devState = 3 →
      (s.planes = true → ∃ u, exec .bootInitDone s = .next u ∧ u = { s with devState := 4, msix := u.msix })
      ∧ (s.planes = false → 0 < s.args.a → s.args.a < 256 → capsOk s.args.bytes = true → ∃ u, exec .bootInitDone s = .next u ∧ u.devState = 4 ∧ u.dies = BitVec.ofNat 8 s.args.a
          ∧ u.mem = s.mem ∧ u.ctxs = s.ctxs ∧ u.tasks = s.tasks
          ∧ u.planes = true ∧ u.pools = Map.each s.pools (fun _ x => { x with last := s.now }) ∧ u.ports = s.ports
          ∧ (∀ n c, s.core? n = some c → u.core? n = some { Core.idle with
              capacity := capacityOf s.args.bytes n, inService := (BitVec.ofNat 8 s.args.a).getLsbD (dieOf n) && capacityOf s.args.bytes n != 0 })
          ∧ ∀ d < 8, s.args.a.testBit d = true → ∃ a, Map.look u.almanac d = some a ∧ a.records = [] ∧ a.mirrored = s.args.a.testBit (d ^^^ 4) ∧ a.beat = s.now))
    ∧ (s.devState ≠ 0 → s.devState ≠ 5 → s.devState ≠ 6 → ∃ u, exec .watchdogExpiry s = .next u ∧ u.devState = 1 ∧ u.tasks = s.tasks ∧ u.planes = s.planes
        ∧ (s.commands = [] → u = { s with devState := 1, msix := u.msix })
        ∧ (∀ p since rest m, s.commands = (p, since) :: rest → since < s.now → Map.look s.mailboxes p = some m → Answered s u p m 6
            ∧ (m.code ∉ [3, 8, 15] → u = { s with devState := 1, msix := u.msix, commands := u.commands, mailboxes := u.mailboxes })
            ∧ (m.code = 15 → u.frozen = false)
            ∧ (∀ x, m.code = 3 → Map.look s.ctxs (m.arg 0) = some x → x.state = 2 → Map.look u.ctxs (m.arg 0) = some { x with state := 1 })
            ∧ (m.code = 8 → ∀ n c h, u.core? n = some c → c.shard = some h → h.halt ≠ 3)))

/-- POWER_CONTROL takes the reading and the throttle level, which is 15 above 45 °C inlet or 100 °C junction; above 110 °C both planes are reset without saving and STATE is 6 (R357). -/
def Sys2Proof.Claim.PowerControl : Prop :=
  ∀ (s : State), s.args.idx < 16 → s.devState ≠ 0 → s.devState ≠ 5 → s.devState ≠ 6 →
    ((45 < s.args.a ∨ 100 < s.args.b) → s.args.idx ≠ 15 → exec .powerControl s = .refused .notEnabled)
    ∧ ((45 < s.args.a ∨ 100 < s.args.b → s.args.idx = 15) →
      (s.args.b ≤ 110 → exec .powerControl s = .next { s with pwrNow := s.args.value.setWidth 12, throttle := BitVec.ofNat 4 s.args.idx })
      ∧ (110 < s.args.b → ∃ u, exec .powerControl s = .next u ∧ u.devState = 6 ∧ u.planes = false ∧ u.cores = State.reset.cores ∧ u.tasks = [] ∧ u.parked = [] ∧ u.ctxs = [] ∧ u.versions = [] ∧ u.mem = s.mem
          ∧ u.throttle = 15))

/-! ### What hosts and peers do (R33, R86, R316, R338, R348 to R351, R372, R413, R414) -/

/-- BAR 2 reads, writes and AtomicOps of a host: status 1 outside cell memory, 2 with poisoned data, else 0 with the bytes, once the hub link of the home die is up and no row buffer holds them up; a write changes exactly the bytes it names, and none of a sealed line. A host link that goes down passes its contexts to the other port after 100 ms (R16, R86, R324, R331, R338, R372, R413). Readings that are the model's own choice: log entries 37, 54. -/
def Obligations.HostAccesses : Prop :=
  (∀ (s : State), s.barUp s.args.idx = true →
    let off := s.args.a
    let k := s.args.b
    let n := s.args.bytes.length
    let op := s.args.code.toNat
    let addr (n : Nat) : Option Nat := s.barAddr s.args.idx off n
    let replies (i : Instr) (pa : Nat) (bs : List Byte) : Prop := ∃ u, exec i s = .next u ∧ u = { s with ports := u.ports, reply := bs, barWaits := Map.del s.barWaits pa }
    let waits (i : Instr) (pa k : Nat) : Prop := (s.hubOk (pa / 2 ^ 36 % 8) = false → exec i s = .refused .notEnabled)
      ∧ (s.hubOk (pa / 2 ^ 36 % 8) = true → s.barBlocked pa k = true →
        (Map.look s.barWaits pa = none → exec i s = .next { s with barWaits := Map.put s.barWaits pa s.now }) ∧ (Map.look s.barWaits pa ≠ none → exec i s = .refused .notEnabled))
    let clear (pa k : Nat) : Prop := s.hubOk (pa / 2 ^ 36 % 8) = true ∧ s.barBlocked pa k = false
    (1 ≤ k → k ≤ 4096 → (addr k = none → exec .hostBar2Read s = .next { s with reply := [1] })
        ∧ ∀ pa, addr k = some pa → waits .hostBar2Read pa k
          ∧ (clear pa k → replies .hostBar2Read pa ((if s.poisoned (.dram pa) k = true then 2 else 0) :: s.readTarget (.dram pa) k)))
    ∧ (1 ≤ n → n ≤ 512 → s.args.flag = false → (addr n = none → exec .hostBar2Write s = .next { s with reply := [1] })
        ∧ ∀ pa, addr n = some pa → waits .hostBar2Write pa n ∧ (clear pa n → pa / 64 = (pa + n - 1) / 64 → pa < 2 ^ 64 →
          (s.hitsSealed (.dram pa) n = false → ∃ u, exec .hostBar2Write s = .next u ∧ u.reply = [0] ∧ u.readTarget (.dram pa) n = s.args.bytes ∧ SameBut s u (.dram pa) n)
          ∧ (s.hitsSealed (.dram pa) n = true → s.pageOwner pa = none → replies .hostBar2Write pa [0])))
    ∧ (1 ≤ n → s.args.flag = true → ∀ t, s.writeRoot s.args.idx off (Ref.of (s.args.hdr.setWidth 128)) s.args.bytes = some t →
        exec .hostBar2Write s = .next { t with reply := [0] } ∧ t.uid = s.uid + 1 ∧ SameMemory s t ∧ ∃ v, Map.look t.versions s.uid = some v ∧ v.sealed_ = true ∧ v.ctx = off
          ∧ ∃ d i r, v.record = some (d, i) ∧ t.record? d i = some r ∧ r.flags.getLsbD 0 = true ∧ r.depth = 0 ∧ r.ins = [])
    ∧ ((k = 4 ∨ k = 8) → op ≤ 2 →
      ((off % k ≠ 0 ∨ addr k = none) → exec .hostBar2Atomic s = .next { s with reply := [1] })
      ∧ ∀ pa, off % k = 0 → addr k = some pa → waits .hostBar2Atomic pa k ∧ (clear pa k → pa < 2 ^ 64 → pa / 64 = (pa + k - 1) / 64 →
        let old := s.readTarget (.dram pa) k
        let m := 2 ^ (8 * k)
        let x := s.args.value.toNat
        let new := if op = 0 then (ofBytes old + x) % m else if op = 1 then x % m else if ofBytes old = x % m then s.args.value2.toNat % m else ofBytes old
        (s.poisoned (.dram pa) k = true → replies .hostBar2Atomic pa (2 :: old))
        ∧ (s.poisoned (.dram pa) k = false → s.hitsSealed (.dram pa) k = false →
            ∃ u, exec .hostBar2Atomic s = .next u ∧ u.reply = 0 :: old ∧ u.readTarget (.dram pa) k = toBytes k new ∧ SameBut s u (.dram pa) k))))
  ∧ ∀ (s : State), let p := s.args.idx
    p < 2 →
    (s.args.flag = false → Map.look s.hostDown p = none → exec .hostLinkDown s = .next { s with hostDown := Map.put s.hostDown p s.now })
    ∧ (s.args.flag = true → Map.look s.hostDown p ≠ none → ∃ u, exec .hostLinkDown s = .next u ∧ u = { s with hostDown := u.hostDown, hostPassed := u.hostPassed }
        ∧ Map.look u.hostDown p = none ∧ p ∉ u.hostPassed)
    ∧ ∀ t, Map.look s.hostDown p = some t → p ∉ s.hostPassed →
      (s.now < t + 150000000 → exec .hostLinkDownTimeout s = .refused .notEnabled)
      ∧ (t + 150000000 ≤ s.now → ∃ u, exec .hostLinkDownTimeout s = .next u ∧ p ∈ u.hostPassed
          ∧ ∀ c x, Map.look s.ctxs c = some x → (c, x) ∈ s.ctxs → x.owner = p → Map.look u.ctxs c = some { x with owner := 1 - p })

/-- A message that arrives on a link port is refused with a NAK (5 malformed, 0 no entry, 1 no permission), or served: STORE, LOAD and ATOMIC act on the bytes they name and answer, QAPPEND appends to a queue, HCONTRIB goes to its group, TREPL enters a version, HRESULT seals its round; traffic for a die whose hub link is down waits (R16, R316, R348 to R351). -/
def Sys2Proof.Claim.PeerMessages : Prop :=
  ∀ (s : State) (h : Head), let p := s.args.idx
    let bs := s.args.bytes
    h = Head.of s.args.hdr → p < 8 → s.bilotDown.contains p = false → bs.length = h.len → s.planes = true →
    let reply (typ arg : Nat) (data : List Byte) : Msg := { port := p, hdr := messageHeader typ 0 0 h.tag data.length 0 arg, payload := data }
    let answers (i : Instr) (typ arg : Nat) (data : List Byte) : Prop := exec i s = .next { s with sent := s.sent ++ [reply typ arg data] }
    (∀ e ∈ [(Instr.bilotStore, 1), (.bilotLoad, 2), (.bilotAtomic, 3), (.bilotQappend, 4), (.bilotHcontrib, 5), (.bilotHresult, 6), (.bilotTrepl, 7)], h.typ = e.2 →
      ∀ r, s.refusal p h = some r → answers e.1 0x82 r [])
    ∧ (s.refusal p h = none →
      (∀ e ∈ [(Instr.bilotStore, 1), (.bilotLoad, 2), (.bilotAtomic, 3)], h.typ = e.2 →
        let a := h.range.1
        let n := h.range.2
        let cell : Prop := s.cellAddr a = true ∧ s.cellAddr (a + n - 1) = true ∧ a / 2 ^ 34 = (a + n - 1) / 2 ^ 34 ∧ s.hitsSealed (.dram a) n = false
        (2 ^ 39 < a + n → answers e.1 0x82 0 [])
        ∧ (a + n ≤ 2 ^ 39 → ¬ cell → answers e.1 0x82 2 [])
        ∧ (a + n ≤ 2 ^ 39 → cell → s.hubOk (a / 2 ^ 36 % 8) = true → s.barBlocked a n = false →
          (e.2 = 1 → ∃ u, exec .bilotStore s = .next u ∧ u.sent = s.sent ++ [reply 0x81 0 []] ∧ u.readTarget (.dram a) n = bs ∧ SameBut s u (.dram a) n)
          ∧ (e.2 = 2 → s.poisoned (.dram a) n = false → ∃ u, exec .bilotLoad s = .next u ∧ u = { s with ports := u.ports, sent := s.sent ++ [reply 0x83 0 (s.readTarget (.dram a) n)] })
          ∧ (e.2 = 3 → s.poisoned (.dram a) n = false → ∃ u, exec .bilotAtomic s = .next u ∧ u.sent = s.sent ++ [reply 0x83 0 (s.readTarget (.dram a) n)] ∧ SameBut s u (.dram a) n
              ∧ u.readTarget (.dram a) n = toBytes n (atomicOp (h.ops % 4) n (ofBytes (s.readTarget (.dram a) n)) (ofBytes (slice bs 0 n)) (ofBytes (slice bs n n))))))
      ∧ (h.typ = 4 →
        ((∀ c q, Map.look s.ctxs h.ctx = some c → c.state = 1 → Map.look c.queues h.addr = some q → q.e = 0) → answers .bilotQappend 0x82 0 [])
        ∧ ∀ c q w r, Map.look s.ctxs h.ctx = some c → c.state = 1 → Map.look c.queues h.addr = some q → q.e ≠ 0 → s.readRange h.ctx q.widx 8 = some w → s.readRange h.ctx q.ridx 8 = some r →
          (ofBytes r + 2 ^ q.e ≤ ofBytes w → exec .bilotQappend s = .refused .notEnabled)
          ∧ ∀ t t', ofBytes w < ofBytes r + 2 ^ q.e → s.hubReaches h.ctx q.widx = true → s.hubReaches h.ctx (q.ring + 64 * (ofBytes w % 2 ^ q.e)) = true → s.writeRange h.ctx q.widx (toBytes 8 (ofBytes w + 1)) = some t →
              t.writeRange h.ctx (q.ring + 64 * (ofBytes w % 2 ^ q.e)) bs = some t' →
              ∃ u c' q', exec .bilotQappend s = .next u ∧ u.mem = t'.mem ∧ u.sent = s.sent ++ [reply 0x81 0 []] ∧ Map.look u.ctxs h.ctx = some c' ∧ Map.look c'.queues h.addr = some q'
                ∧ q' = { q with pending := true })
      ∧ (h.typ = 5 → let m := bits h.addr 12 6
        let k := bits h.addr 0 12
        (s.groupOf? h.ctx k = none → answers .bilotHcontrib 0x84 (5 * 2 ^ 40) [])
        ∧ ∀ g, s.groupOf? h.ctx k = some g →
          ((g.n ≤ m ∨ bitAt g.peers m = false) → answers .bilotHcontrib 0x82 1 [])
          ∧ (m < g.n → bitAt g.peers m = true → s.hubOk g.die = true → s.payloadSize g ≠ some h.len → answers .bilotHcontrib 0x82 5 [])
          ∧ (m < g.n → bitAt g.peers m = true → s.hubOk g.die = true → s.payloadSize g = some h.len → ∃ u g' y, exec .bilotHcontrib s = .next u ∧ u = { s with groups := u.groups } ∧ Map.look u.groups k = some g'
              ∧ g'.inflight = g.inflight ++ [y] ∧ y.member = m ∧ y.tag = BitVec.ofNat 32 (bits h.addr 32 32) ∧ y.payload = bs ∧ y.peer = some (p, h.tag)
              ∧ (g'.member m).port = some p ∧ (s.det g.ctx = false → (g'.member m).present = true)))
      ∧ (h.typ = 6 → let k := bits h.addr 0 12
        let r := bits h.addr 32 32
        ((∀ g, Map.look s.groups k = some g → g.ctx = h.ctx → ¬ (g.proxy = true ∧ g.outPort = p)) → answers .bilotHresult 0x82 0 [])
        ∧ ∀ g t i, s.groupOf? h.ctx k = some g → g.proxy = true → g.outPort = p → s.tensor g.ctx (g.resultRef r).handle = .ok t →
          (bs.length ≠ t.imageSize → answers .bilotHresult 0x82 5 [])
          ∧ let home := s.standIn (t.homeOf (g.resultRef r))
            let room (d : Nat) : Prop := s.tileStoreFull d (ceilDiv t.imageSize 1024) = false
            let x := (g.round (BitVec.ofNat 32 r)).state
            (bs.length = t.imageSize → s.hubOk g.die = true → x = .sealed_ → answers .bilotHresult 0x82 2 [])
            ∧ (bs.length = t.imageSize → s.hubOk g.die = true → x ≠ .sealed_ → s.findVersion g.ctx (g.resultRef r) = none → room home → room (s.buddy home) → (Map.look s.almanac home).bind Almanac.freeIndex = some i →
              ∃ u v, exec .bilotHresult s = .next u ∧ u.sent = s.sent ++ [reply 0x81 0 []] ∧ Map.look u.versions s.uid = some v ∧ v.sealed_ = true ∧ v.image = t.withEdges (g.resultRef r) bs ∧ v.record = some (home, i)
                ∧ ∃ g', Map.look u.groups k = some g' ∧ (g'.round (BitVec.ofNat 32 r)).state = .sealed_ ∧ (g'.round (BitVec.ofNat 32 r)).roster = BitVec.ofNat 64 h.arg))
      ∧ (h.typ = 7 → let ref := Ref.of (BitVec.ofNat 128 (field bs 0 16))
        let img := bs.drop 16
        ∀ t i, s.tensor h.ctx ref.handle = .ok t →
          let fits : Prop := ref.latest = false ∧ ref.twin = false ∧ t.badRef ref = false ∧ img.length = if t.twin = true then 2 * t.imageSize else t.imageSize
          let home := s.standIn (t.homeOf ref)
          (¬ fits → answers .bilotTrepl 0x82 5 [])
          ∧ (fits → s.hubOk home = true → s.findVersion h.ctx ref ≠ none → answers .bilotTrepl 0x82 2 [])
          ∧ (fits → s.hubOk home = true → s.findVersion h.ctx ref = none → (Map.look s.almanac home).bind Almanac.freeIndex = some i →
              (∀ v : Version, v.image.length ≤ t.imageSize → v.twin.elim 0 List.length ≤ t.imageSize → s.tileStoreFull home v.pieces = false ∧ s.tileStoreFull (s.buddy home) v.pieces = false) →
              ∃ u v, exec .bilotTrepl s = .next u ∧ u.sent = s.sent ++ [reply 0x81 0 []] ∧ Map.look u.versions s.uid = some v ∧ v.sealed_ = true ∧ v.image = t.withEdges ref (img.take t.imageSize)
                ∧ v.twin = (if t.twin = true then some (t.twinEdges ref (img.drop t.imageSize)) else none) ∧ v.record = some (home, i) ∧ v.ctx = h.ctx)))

/-- BILOT_REPLY brings an outstanding message its answer: a load its value, or, with a NAK, its failure; BILOT_REPLY_TIMEOUT ends it as a NAK after 10 ms or on a port that is down; BILOT_PORT_DOWN leaves no message of its port outstanding and posts a lasting error of class 7 (R349, R350, R414). -/
def Sys2Proof.Claim.PeerReplies : Prop :=
  (∀ (s : State) (x : Pending) (c : Core) (sh : Shard) (f : Access) (i : Nat), x.typ = 2 → x.engine = false → s.core? x.core = some c → c.shard = some sh →
    (c.strm x.strm).flight.findIdx? (fun f => f.tag == x.tag && (match f.target with | .peer p _ => p == x.port | _ => false)) = some i → (c.strm x.strm).flight[i]? = some f → f.kind = .load →
    let rest := s.outstanding.filter fun y => y ≠ x
    let base (u : State) : State := { s with outstanding := rest, ports := u.ports, regions := u.regions, order := u.order }
    let fails (e : Instr) : Prop := ∃ u, exec e s = .next u
      ∧ u = (base u).updCore x.core fun c => c.updStrm x.strm fun t => { t with flight := t.flight.set i { f with failed := true } }
    let word : Nat := ofBytes s.args.bytes
    (∀ h, h = Head.of s.args.hdr → s.bilotDown.contains s.args.idx = false → s.args.bytes.length = h.len →
      s.outstanding.find? (fun y => y.port == s.args.idx && y.tag == h.tag) = some x → s.hubOk (dieOf x.core) = true →
      (h.typ = 0x82 → fails .bilotReply)
      ∧ (h.typ = 0x83 → s.args.bytes.length = f.size →
          (x.strm = .a → ∃ t, exec .bilotReply s = .next (t.arriveA x.core i { f with value := some 0, data := BitVec.ofNat 512 word }) ∧ t = base t)
          ∧ (x.strm = .c → ∃ u d, exec .bilotReply s = .next u ∧ u = { base u with cores := u.cores } ∧ u.core? x.core = some d ∧ d.cs.flight = c.cs.flight.eraseIdx i
              ∧ d.sregs = (c.settleReg f.rd (extend f.signed f.size word)).sregs ∧ d.pending = removeNat c.pending f.rd))
      ∧ (h.typ = 0x81 ∨ h.typ = 0x84 → exec .bilotReply s = .refused .notEnabled))
    ∧ (s.outstanding[s.args.idx]? = some x →
      (x.since + 15000000 ≤ s.now ∨ s.bilotDown.contains x.port = true → fails .bilotReplyTimeout)
      ∧ (s.now < x.since + 15000000 → s.bilotDown.contains x.port = false → exec .bilotReplyTimeout s = .refused .notEnabled)))
  ∧ ∀ (s : State), s.args.idx < 8 →
    (s.bilotDown.contains s.args.idx = true → exec .bilotPortDown s = .refused .notEnabled)
    ∧ (s.bilotDown.contains s.args.idx = false → ∃ u r, exec .bilotPortDown s = .next u ∧ s.args.idx ∈ u.bilotDown ∧ (∀ y ∈ u.outstanding, y.port ≠ s.args.idx)
        ∧ r ∈ u.bus ∧ r.sev = 2 ∧ r.cls = 7 ∧ r.unit = 8)

/-! ### The machine: fetching, decoding, stepping, reset (R2, R5, R81, R125 to R152, R340, R352) -/

/-- A stream's move: when the six bytes at its PC, from the instruction cache or from memory, decode to an instruction, the step is `exec` of it in that state, with the word in the core's instruction register, its line in the cache and a line that was read charged at its port; when they do not, it is a trap with code 1 (R81, R125, R151). A word whose repeats run goes on without a fetch, and so do beats. An event's move is `exec` of it with its parameters, and an agenda's head is gone. Time passes up to the next deadline. Behind a failed boot nothing moves (R352). Readings that are the model's own choice: log entries 1, 6. -/
def Obligations.StepRunsDecodedWord : Prop :=
  (∀ (s : State) (rest : List Move) (n : Nat) (σ : Strm) (choice : Nat) (c : Core) (sh : Shard) (w : BitVec 48) (t : Target),
    s.deviceLost = false → s.devState ≠ 5 → s.agenda = .stream n σ choice :: rest → s.core? n = some c → c.shard = some sh → (c.strm σ).halted = false →
    (σ ≠ .c → c.inh = false) → c.resuming = none → sh.halt = 0 →
    let pc := (c.strm σ).pc
    let u : State := { s with agenda := rest, curCore := n, curStrm := σ, choice := choice }
    ((σ = .a → c.beat = none) → (σ = .v → c.vrun = none) → validPc sh pc = true → pc.toNat % 65536 ≤ 65530 → c.fetchByte sh.ctx pc.toNat = .ok t →
      (∀ l ∈ c.codeLines ((List.range 6).map fun k => t.plus k), s.blocked n l = false) → (∀ k < 6, s.codePoisoned c (t.plus k) = false) → (List.range 6).flatMap (fun k => s.codeByte c (t.plus k)) = wordBytes w →
      (∀ i, decode σ w = .ok i → ∃ d p, step s = exec i (({ u with ports := p } : State).setCore n d) ∧ d = { c with icache := d.icache, ir := w })
      ∧ (∀ e, decode σ w = .error e → step s = .next (u.trapWord σ c 1 (rejectTval w e))))
    ∧ (∀ i, σ = .v → c.vrun = some w → decode .v w = .ok i → step s = exec i (u.setCore n { c with ir := w }))
    ∧ (σ = .a → c.beat ≠ none → step s = exec .asBeat { u with args := { s.args with core := n } }))
  ∧ (∀ (s : State) (rest : List Move) (i : Instr) (a : Args), s.deviceLost = false → s.devState ≠ 5 → s.agenda = .event i a :: rest → step s = exec i { s with agenda := rest, args := a })
  ∧ (∀ (s : State) (rest : List Move) (m : Move), s.deviceLost = false → s.devState = 5 → s.agenda = m :: rest → m.outside = false → step s = .refused .notEnabled)
  ∧ ∀ (s : State) (rest : List Move) (k : Nat), s.deviceLost = false → s.agenda = .tick k :: rest → s.devState ≠ 0 → (∀ d ∈ s.deadlines, s.now + k ≤ d) → step s = .next { s with agenda := rest, now := s.now + k }

/-- Some words written out from the tables of R126, R146, R148 and R149, and what they decode to; a word of another stream, of a reserved opcode, with a reserved selector, a reserved bit, a modifier that R128 excludes, or an offset that 3 does not divide does not decode (R127 to R129, R147, R151). -/
def Obligations.SampleWordsDecode : Prop :=
  -- opcode 8, rd 6, ra 6, rb 6, fn 6, then the reserved fields
  decode .c (0x00#8 ++ 3#6 ++ 1#6 ++ 2#6 ++ 1#6 ++ 0#16) = .ok (.sub 3 1 2)
  ∧ decode .c (0x01#8 ++ 3#6 ++ 1#6 ++ 0#6 ++ 0x3FFFFF#22) = .ok (.addi 3 1 0x3FFFFF)
  ∧ decode .c (0x08#8 ++ 1#6 ++ 2#6 ++ 1#4 ++ 6#24) = .ok (.bne 1 2 6)
  ∧ decode .c (0x2E#8 ++ 0#40) = .ok .halt ∧ decode .v (0xE0#8 ++ 0#40) = .ok .nop
  ∧ decode .a (0x00#8 ++ 3#6 ++ 1#6 ++ 2#6 ++ 1#6 ++ 0#16) = .error .foreign
  ∧ decode .c (0x00#8 ++ 3#6 ++ 1#6 ++ 2#6 ++ 1#6 ++ 1#16) = .error .reserved
  ∧ decode .c (0x00#8 ++ 3#6 ++ 1#6 ++ 2#6 ++ 63#6 ++ 0#16) = .error .selector
  ∧ decode .c (0xFF#8 ++ 0#40) = .error .opcode
  ∧ decode .c (0x08#8 ++ 1#6 ++ 2#6 ++ 1#4 ++ 5#24) = .error (.offset 5)

/-- Every well-formed instruction of a stream has a word, and the word decodes to it: with every operand at every value that the encoding admits (R125 to R151). -/
def Obligations.EncodeThenDecode : Prop :=
  ∀ (σ : Strm) (i : Instr), i.WellFormed σ = true → ∃ w, encode i = some w ∧ decode σ w = .ok i

/-- What decodes is well formed in its stream, and its word is the only one of it: of BRK alone, the low 16 bits are an immediate that the instruction does not hold (R151, R194). Readings that are the model's own choice: log entry 6. -/
def Obligations.DecodeThenEncode : Prop :=
  ∀ (σ : Strm) (w : BitVec 48) (i : Instr), decode σ w = .ok i →
    i.WellFormed σ = true ∧ (i ≠ .brk → encode i = some w) ∧ (i = .brk → encode i = some (w &&& 0xFFFFFFFF0000))

/-- The memories are in canonical form: addresses strictly rising, no entry equal to what an unlisted address reads as. -/
def Sys2Proof.Claim.Canonical (s : State) : Prop :=
  Memory.wf s.mem = true ∧ Memory.wf s.host0 = true ∧ Memory.wf s.host1 = true ∧ Memory.wf s.bootWin = true

/-- Every step keeps DRAM, the hosts' memories and the boot window in canonical form, so that equal memories are equal data (the model's own form, notes/assumptions/2.md). Readings that are the model's own choice: log entry 2. -/
def Obligations.StepKeepsMemoryCanonical : Prop :=
  ∀ (s t : State), Canonical s → step s = .next t → Canonical t

/-- What reset leaves: DEV.STAT 0 with no die in service, FWVER, BAR2 and CTXT 0, TSB 8, PWR.LIMIT 3,800, PWR.NOW 0 (R340); nothing runs but the management processor, which the first clk takes to STATE 1 (R352). The memories are in canonical form. Readings that are the model's own choice: log entries 2, 3. -/
def Obligations.ResetLeaves : Prop :=
  let r := State.reset
  r.dies = 0 ∧ r.devState = 0 ∧ r.fwver = 0 ∧ r.bar2 = 0 ∧ r.ctxt = 0 ∧ r.tsb = 8 ∧ r.pwrLimit = 3800 ∧ r.pwrNow = 0 ∧ r.throttle = 0
  ∧ r.cores.length = 3072 ∧ (∀ e ∈ r.cores, e.2.shard = none ∧ e.2.inService = false) ∧ r.arrays.length = 256 ∧ r.planes = false ∧ r.tasks = [] ∧ r.ctxs = [] ∧ r.commands = [] ∧ Canonical r
  ∧ (r.pass 1).devState = 1 ∧ (r.pass 1).cores = r.cores

/-! ### Statements in several parts -/

/-- Every operation of R154, and SEL (R157): rd takes the value of the table, and the word completes. -/
def Obligations.ScalarAluResults : Prop :=
  ScalarBinaryResults ∧ ScalarUnaryResults

/-- The frame of every word whose completion is `wrote`, and where a completed word leaves its stream without an active loop slot. -/
def Obligations.CompletedWordFrame : Prop :=
  ScalarWriteFrame ∧ CompletedWordFollowsOn

/-- RNDX, the CSR words, what the CSRs read as, and what a written CSR reads back as. -/
def Obligations.RandomAndCsr : Prop :=
  RandomAndCsrWords ∧ CsrValues ∧ CsrWritesReadBack

/-- The steps at which an access of a stream performs or is answered, at the device's own memory and at a host's. Readings that are the model's own choice: log entries 42, 44. -/
def Obligations.AccessesEnd : Prop :=
  AccessesPerform ∧ HostWindowSteps

/-- The words of the cluster barriers and of the transaction barriers. -/
def Obligations.Barriers : Prop :=
  CoreBarrierWords ∧ TransactionBarrierWords

/-- SPAWN, SPAWN.nb, ENQR, INBOX and INBOX.nb. Readings that are the model's own choice: log entry 22. -/
def Obligations.SpawnAndInbox : Prop :=
  SpawnWords ∧ InboxWords

/-- YIELD, WFE, LEASE, LEASE.nb, UNLEASE, and the steps that end an event wait or move a lease. -/
def Obligations.YieldEventsAndLeases : Prop :=
  YieldAndWfe ∧ LeaseWords

/-- TRAP and BRK, the entry of a trap, and a trap that halts its shard. Readings that are the model's own choice: log entry 7. -/
def Obligations.Traps : Prop :=
  TrapEntry ∧ TrapWithoutHandler

/-- SHARD_DISPATCH and SHARD_RETIRE. Readings that are the model's own choice: log entries 12, 25. -/
def Obligations.ShardsStartAndEnd : Prop :=
  ShardsDispatch ∧ ShardRetires

/-- ROPEN, ROPEN.cell, RREL, RRENEW and RSTAT. Readings that are the model's own choice: log entries 33, 40. -/
def Obligations.HeldRowWords : Prop :=
  RowOpenWords ∧ RowSlotWords

/-- The steps that open, expire and revoke a held row, and the upkeep of the rows. Readings that are the model's own choice: log entry 33. -/
def Obligations.HeldRowSteps : Prop :=
  RowSlotSteps ∧ RowUpkeepSteps

/-- The address ALU, and the issue of the words of beats. -/
def Obligations.AStreamWords : Prop :=
  AddressWords ∧ BeatWordsIssue

/-- AS_BEAT for linear beats, AFLUSH and AMCAST. Readings that are the model's own choice: log entries 13, 46. -/
def Obligations.BeatsFlushAndMulticast : Prop :=
  LinearBeats ∧ FlushWords ∧ MulticastWords

/-- The integer words of the V-stream, lane-wise and widening. -/
def Obligations.VectorInteger : Prop :=
  VectorIntegerLanes ∧ VectorWideWords

/-- The floating-point words of the V-stream, and the conversions. Readings that are the model's own choice: log entries 16, 46. -/
def Obligations.VectorFloat : Prop :=
  VectorFloatLanes ∧ VectorConversions

/-- How an M-command starts and ends, and what it does to its accumulators and to memory. Readings that are the model's own choice: log entry 34. -/
def Obligations.MatrixCommands : Prop :=
  MatrixCommandSteps ∧ MatrixCommandEffects

/-- X_COMMAND_START and COPY_GROUP_DONE. Readings that are the model's own choice: log entries 11, 21. -/
def Obligations.CommandsStart : Prop :=
  CommandStarts ∧ CopyGroups

/-- HJOIN, HLEAVE, HSYNC, HCONTRIB, HWAIT and HSTAT. Readings that are the model's own choice: log entries 27, 29, 46, 50. -/
def Obligations.HarvestWords : Prop :=
  HarvestMembershipWords ∧ HarvestRoundWords

/-- HARVEST_CONTRIBUTION, ROUND_FOLD_DONE and MEMBER_LOST. Readings that are the model's own choice: log entries 27, 29, 46. -/
def Obligations.HarvestSteps : Prop :=
  ContributionsJudged ∧ RoundsAndMembersEnd

/-- The packets of a host queue, and its doorbell. Readings that are the model's own choice: log entry 23. -/
def Obligations.HostQueues : Prop :=
  HostPackets ∧ QueueDoorbells

/-- TASK_READY, AGEING_BOUNDARY and TASK_COMPLETE. Readings that are the model's own choice: log entry 7. -/
def Obligations.TasksReadyAndDone : Prop :=
  TasksBecomeReadyAndAge ∧ TasksComplete

/-- Boot, the watchdog and power control. Readings that are the model's own choice: log entry 31. -/
def Obligations.BootAndPower : Prop :=
  BootSteps ∧ PowerControl

/-- Messages from peers, and the answers to the device's own. Readings that are the model's own choice: log entries 36, 17. -/
def Obligations.Peers : Prop :=
  PeerMessages ∧ PeerReplies

/-- What an error is counted and posted as, and what it takes out of service. Readings that are the model's own choice: log entries 30, 38, 41. -/
def Obligations.ErrorsAndUnits : Prop :=
  ErrorSteps ∧ UnitsOutOfService
end

