-- ==== Sys2Proof/Laws/Assoc.lean ====
section
/-! SUPPORT. The laws of the sparse maps and of the canonical byte memories: read after write, writes that do not meet, and that every memory operation keeps the canonical form. -/

namespace Sys2Proof.Machine

variable {v : Type}

/-! ### Maps -/

/-- A key that was entered reads back. -/
@[simp] theorem Map.look_put (m : Map v) (k : Nat) (x : v) : Map.look (Map.put m k x) k = some x := by
  induction m with
  | nil => simp [Map.put, Map.look]
  | cons e r ih =>
    obtain ⟨j, y⟩ := e
    simp only [Map.put]
    split
    · simp [Map.look]
    · split
      · simp [Map.look]
      · next h h' => simp [Map.look, show ¬ j = k from fun e => h' e.symm, ih]

/-- Entering a key leaves every other key as it was. -/
theorem Map.look_put_ne (m : Map v) {j k : Nat} (x : v) (h : j ≠ k) : Map.look (Map.put m k x) j = Map.look m j := by
  induction m with
  | nil => simp [Map.put, Map.look, Ne.symm h]
  | cons e r ih =>
    obtain ⟨i, y⟩ := e
    simp only [Map.put]
    split
    · simp [Map.look, Ne.symm h]
    · split
      · next h' => subst h'; simp [Map.look, Ne.symm h]
      · simp [Map.look, ih]

/-- The second entry of a key replaces the first. -/
@[simp] theorem Map.put_put (m : Map v) (k : Nat) (x y : v) : Map.put (Map.put m k x) k y = Map.put m k y := by
  induction m with
  | nil => simp [Map.put]
  | cons e r ih =>
    obtain ⟨j, z⟩ := e
    by_cases h : k < j
    · simp [Map.put, h]
    · by_cases h' : k = j
      · subst h'; simp [Map.put]
      · simp [Map.put, h, h', ih]

/-- A key that was removed has no entry. -/
@[simp] theorem Map.look_del (m : Map v) (k : Nat) : Map.look (Map.del m k) k = none := by
  induction m with
  | nil => rfl
  | cons e r ih =>
    obtain ⟨j, y⟩ := e
    by_cases h : j = k
    · simpa [Map.del, h] using ih
    · simpa [Map.del, h, Map.look] using ih

/-- Removing a key leaves every other key as it was. -/
theorem Map.look_del_ne (m : Map v) {j k : Nat} (h : j ≠ k) : Map.look (Map.del m k) j = Map.look m j := by
  induction m with
  | nil => rfl
  | cons e r ih =>
    obtain ⟨i, y⟩ := e
    by_cases hi : i = k
    · simpa [Map.del, hi, Map.look, Ne.symm h] using ih
    · simp only [Map.del, List.filter_cons, ne_eq, hi, not_false_eq_true, decide_true, if_true, Map.look]
      split
      · rfl
      · simpa [Map.del] using ih

/-- What an entry changed by its key reads as. -/
@[simp] theorem Map.look_each (m : Map v) (f : Nat → v → v) (k : Nat) : Map.look (Map.each m f) k = (Map.look m k).map (f k) := by
  induction m with
  | nil => rfl
  | cons e r ih =>
    obtain ⟨j, y⟩ := e
    simp only [Map.each, List.map_cons, Map.look]
    split
    · next h => subst h; simp
    · simpa [Map.each] using ih

/-- Changing a key just entered. -/
@[simp] theorem Map.upd_put (m : Map v) (k : Nat) (x : v) (f : v → v) : Map.upd (Map.put m k x) k f = Map.put m k (f x) := by
  simp [Map.upd]

/-- Changing a key that holds an entry. -/
theorem Map.upd_of_look {m : Map v} {k : Nat} {x : v} (h : Map.look m k = some x) (f : v → v) : Map.upd m k f = Map.put m k (f x) := by
  simp [Map.upd, h]

/-- What a changed key reads as. -/
@[simp] theorem Map.look_upd (m : Map v) (k : Nat) (f : v → v) : Map.look (Map.upd m k f) k = (Map.look m k).map f := by
  cases h : Map.look m k <;> simp [Map.upd, h]

/-- Changing a key leaves every other key as it was. -/
theorem Map.look_upd_ne (m : Map v) {j k : Nat} (f : v → v) (h : j ≠ k) : Map.look (Map.upd m k f) j = Map.look m j := by
  cases e : Map.look m k
  · simp [Map.upd, e]
  · simp [Map.upd, e, Map.look_put_ne _ _ h]

/-- A default read of an entered key. -/
@[simp] theorem Map.lookD_put (m : Map v) (k : Nat) (x d : v) : Map.lookD (Map.put m k x) k d = x := by simp [Map.lookD]

/-- A default read of another key than the one entered. -/
theorem Map.lookD_put_ne (m : Map v) {j k : Nat} (x d : v) (h : j ≠ k) : Map.lookD (Map.put m k x) j d = Map.lookD m j d := by
  simp [Map.lookD, Map.look_put_ne m x h]

/-! ### Memories -/

/-- Every cell lies at or above the bound. -/
theorem Memory.get_of_above {m : List Host.Cell} {k a : Nat} (h : Memory.above k m) (ha : a < k) : Memory.get m a = unlisted := by
  induction m generalizing k with
  | nil => rfl
  | cons e r ih =>
    obtain ⟨x, y⟩ := e
    simp only [Memory.above, Bool.and_eq_true, decide_eq_true_eq] at h
    have hx : ¬ x = a := by omega
    simp only [Memory.get, hx, if_false]
    exact ih h.2 (by omega)

/-- A lower bound may be lowered. -/
theorem Memory.above_mono {m : List Host.Cell} {j k : Nat} (h : Memory.above k m) (hj : j ≤ k) : Memory.above j m := by
  cases m with
  | nil => rfl
  | cons e r =>
    obtain ⟨x, y⟩ := e
    simp only [Memory.above, Bool.and_eq_true, decide_eq_true_eq] at h ⊢
    exact ⟨⟨by omega, h.1.2⟩, h.2⟩

/-- Entering a byte keeps the canonical form above a bound that the address respects. -/
theorem Memory.above_put {m : List Host.Cell} {k a : Nat} (b : Byte) (hb : b ≠ unlisted) (h : Memory.above k m) (ha : k ≤ a) :
    Memory.above k (Map.put m a b) := by
  induction m generalizing k with
  | nil => simp [Map.put, Memory.above, hb, ha]
  | cons e r ih =>
    obtain ⟨x, y⟩ := e
    simp only [Memory.above, Bool.and_eq_true, decide_eq_true_eq] at h
    obtain ⟨⟨h1, h2⟩, h3⟩ := h
    simp only [Map.put]
    split
    · simp only [Memory.above, Bool.and_eq_true, decide_eq_true_eq]
      exact ⟨⟨ha, hb⟩, ⟨⟨by omega, h2⟩, h3⟩⟩
    · split
      · next _ he =>
        simp only [Memory.above, Bool.and_eq_true, decide_eq_true_eq]
        exact ⟨⟨ha, hb⟩, by rw [he]; exact h3⟩
      · simp only [Memory.above, Bool.and_eq_true, decide_eq_true_eq]
        exact ⟨⟨h1, h2⟩, ih h3 (by omega)⟩

/-- Leaving entries out keeps the canonical form above a bound. -/
theorem Memory.above_filter {m : List Host.Cell} {k : Nat} (p : Host.Cell → Bool) (h : Memory.above k m) : Memory.above k (m.filter p) := by
  induction m generalizing k with
  | nil => exact h
  | cons e r ih =>
    obtain ⟨x, y⟩ := e
    simp only [Memory.above, Bool.and_eq_true, decide_eq_true_eq] at h
    obtain ⟨⟨h1, h2⟩, h3⟩ := h
    rw [List.filter_cons]
    split
    · simp only [Memory.above, Bool.and_eq_true, decide_eq_true_eq]
      exact ⟨⟨h1, h2⟩, ih h3⟩
    · exact Memory.above_mono (ih h3) (by omega)

/-- Writing a byte keeps the canonical form above a bound that the address respects. -/
theorem Memory.above_set {m : List Host.Cell} {k a : Nat} (b : Byte) (h : Memory.above k m) (ha : k ≤ a) : Memory.above k (Memory.set m a b) := by
  unfold Memory.set
  split
  · exact Memory.above_filter _ h
  · next hb => exact Memory.above_put b hb h ha

/-- Writing one byte keeps the canonical form. -/
theorem Memory.wf_set {m : List Host.Cell} (a : Nat) (b : Byte) (h : Memory.wf m) : Memory.wf (Memory.set m a b) :=
  Memory.above_set b h (Nat.zero_le a)

/-- Writing bytes keeps the canonical form. -/
theorem Memory.wf_setN {m : List Host.Cell} (a : Nat) (bs : List Byte) (h : Memory.wf m) : Memory.wf (Memory.setN m a bs) := by
  induction bs generalizing m a with
  | nil => exact h
  | cons b bs ih => exact ih (a + 1) (Memory.wf_set a b h)

/-- The empty memory is canonical. -/
@[simp] theorem Memory.wf_nil : Memory.wf [] = true := rfl

/-- A memory is read as a map with a default. -/
theorem Memory.get_eq (m : List Host.Cell) (a : Nat) : Memory.get m a = Map.lookD m a unlisted := by
  induction m with
  | nil => rfl
  | cons e r ih =>
    obtain ⟨x, y⟩ := e
    by_cases h : x = a
    · simp [Memory.get, Map.lookD, Map.look, h]
    · simpa [Memory.get, Map.lookD, Map.look, h] using ih

/-- A byte written to a memory reads back; every other byte is as it was. -/
theorem Memory.get_set (m : List Host.Cell) (a b : Nat) (x : Byte) :
    Memory.get (Memory.set m a x) b = if b = a then x else Memory.get m b := by
  simp only [Memory.get_eq, Memory.set]
  by_cases h : b = a
  · subst h
    split
    · next hx => simp [hx, Map.lookD]
    · simp
  · simp only [h, if_false]
    split
    · simp [Map.lookD, Map.look_del_ne _ h]
    · exact Map.lookD_put_ne _ _ _ h

/-- Bytes written to a memory read back one by one; every byte outside them is as it was. -/
theorem Memory.get_setN (m : List Host.Cell) (a b : Nat) (bs : List Byte) :
    Memory.get (Memory.setN m a bs) b = if a ≤ b ∧ b < a + bs.length then bs.getD (b - a) 0 else Memory.get m b := by
  induction bs generalizing m a with
  | nil => rw [if_neg (by simp only [List.length_nil]; omega)]; rfl
  | cons x bs ih =>
    rw [Memory.setN, ih, Memory.get_set, List.length_cons]
    by_cases h1 : b = a
    · subst h1; simp
    · by_cases h2 : a + 1 ≤ b ∧ b < a + 1 + bs.length
      · have h3 : a ≤ b ∧ b < a + (bs.length + 1) := by omega
        have h4 : b - a = (b - (a + 1)) + 1 := by omega
        simp [h2, h3, h4]
      · have h3 : ¬ (a ≤ b ∧ b < a + (bs.length + 1)) := by omega
        rw [if_neg h2, if_neg h1, if_neg h3]

/-- Bytes written to a memory read back together. -/
theorem Memory.getN_setN_self (m : List Host.Cell) (a : Nat) (bs : List Byte) : Memory.getN (Memory.setN m a bs) a bs.length = bs := by
  suffices ∀ n lo, lo + n = bs.length → Memory.getN (Memory.setN m a bs) (a + lo) n = bs.drop lo by simpa using this bs.length 0 (by simp)
  intro n
  induction n with
  | zero => intro lo h; simp [Memory.getN, show bs.length ≤ lo by omega]
  | succ n ih =>
    intro lo h
    have hlt : lo < bs.length := by omega
    rw [Memory.getN, Memory.get_setN, if_pos (by omega), show a + lo + 1 = a + (lo + 1) by omega, ih (lo + 1) (by omega), List.drop_eq_getElem_cons hlt]
    simp [List.getElem?_eq_getElem hlt]

/-- Bytes outside a write are as they were. -/
theorem Memory.getN_setN_ne (m : List Host.Cell) (a b n : Nat) (bs : List Byte) (h : b + n ≤ a ∨ a + bs.length ≤ b) :
    Memory.getN (Memory.setN m a bs) b n = Memory.getN m b n := by
  induction n generalizing b with
  | zero => rfl
  | succ n ih =>
    rw [Memory.getN, Memory.getN, Memory.get_setN, if_neg (by omega), ih (b + 1) (by omega)]

end Sys2Proof.Machine
end

