-- ==== Sys2Proof/Laws/Copy.lean ====
section
/-! SUPPORT. Copying a run of one memory into another keeps the canonical form. -/

namespace Sys2Proof.Machine

/-- A lower bound that every cell respects may be put in place of the one given. -/
theorem Memory.above_of_forall {m : List Host.Cell} {j k : Nat} (h : Memory.above k m) (hj : ∀ c ∈ m, j ≤ c.1) : Memory.above j m := by
  cases m with
  | nil => rfl
  | cons e r =>
    obtain ⟨x, y⟩ := e
    simp only [Memory.above, Bool.and_eq_true, decide_eq_true_eq] at h ⊢
    exact ⟨⟨hj _ List.mem_cons_self, h.1.2⟩, h.2⟩

/-- A canonical memory whose cells lie below a bound, followed by one above the bound. -/
theorem Memory.above_append {l m : List Host.Cell} {k B : Nat} (hl : Memory.above k l) (hB : ∀ c ∈ l, c.1 < B) (hm : Memory.above B m) (hk : k ≤ B) :
    Memory.above k (l ++ m) := by
  induction l generalizing k with
  | nil => exact Memory.above_mono hm hk
  | cons e r ih =>
    obtain ⟨x, y⟩ := e
    simp only [List.cons_append, Memory.above, Bool.and_eq_true, decide_eq_true_eq] at hl ⊢
    have hx : x < B := hB (x, y) List.mem_cons_self
    exact ⟨hl.1, ih hl.2 (fun c hc => hB c (List.mem_cons_of_mem _ hc)) (by omega)⟩

/-- Moving every cell of a canonical memory by one distance. -/
theorem Memory.above_shift {m : List Host.Cell} {k lo : Nat} (a : Nat) (h : Memory.above k m) (hk : lo ≤ k) :
    Memory.above (k - lo + a) (m.map fun c => (c.1 - lo + a, c.2)) := by
  induction m generalizing k with
  | nil => rfl
  | cons e r ih =>
    obtain ⟨x, y⟩ := e
    simp only [List.map_cons, Memory.above, Bool.and_eq_true, decide_eq_true_eq] at h ⊢
    obtain ⟨⟨h1, h2⟩, h3⟩ := h
    refine ⟨⟨by omega, h2⟩, ?_⟩
    have := ih h3 (by omega)
    rwa [show x + 1 - lo + a = x - lo + a + 1 by omega] at this

/-- A copied run keeps the canonical form. -/
theorem Memory.wf_copy {src dst : List Host.Cell} (lo n a : Nat) (hs : Memory.wf src) (hd : Memory.wf dst) : Memory.wf (Memory.copy src lo n dst a) := by
  unfold Memory.copy
  rw [List.append_assoc]
  have hmid : Memory.above a ((src.filter fun c => decide (lo ≤ c.1) && decide (c.1 < lo + n)).map fun c => (c.1 - lo + a, c.2)) := by
    have h1 : Memory.above lo (src.filter fun c => decide (lo ≤ c.1) && decide (c.1 < lo + n)) :=
      Memory.above_of_forall (Memory.above_filter _ hs) fun c hc => by simp at hc; exact hc.2.1
    simpa using Memory.above_shift (lo := lo) a h1 (Nat.le_refl lo)
  have hlast : Memory.above (a + n) (dst.filter fun c => decide (a + n ≤ c.1)) :=
    Memory.above_of_forall (Memory.above_filter _ hd) fun c hc => by simp at hc; exact hc.2
  refine Memory.above_append (Memory.above_filter _ hd) (fun c hc => by simp at hc; exact hc.2) (Memory.above_append hmid ?_ hlast (Nat.le_add_right a n)) (Nat.zero_le a)
  intro c hc
  simp only [List.mem_map, List.mem_filter, Bool.and_eq_true, decide_eq_true_eq] at hc
  obtain ⟨d, ⟨-, h1, h2⟩, rfl⟩ := hc
  simp only
  omega

end Sys2Proof.Machine
end

