-- ==== Sys2Proof/Laws/Exec.lean ====
section
/-! SUPPORT. The dispatch, one equation per instruction: `simp` with these meets a meaning without unfolding `exec`. Generated from the dispatch. -/

namespace Sys2Proof.Machine

@[simp] theorem exec_add (rd : BitVec 6) (ra : BitVec 6) (rb : BitVec 6) (s : State) : exec (.add rd ra rb) s = execAdd rd ra rb s := rfl
@[simp] theorem exec_sub (rd : BitVec 6) (ra : BitVec 6) (rb : BitVec 6) (s : State) : exec (.sub rd ra rb) s = execSub rd ra rb s := rfl
@[simp] theorem exec_and (rd : BitVec 6) (ra : BitVec 6) (rb : BitVec 6) (s : State) : exec (.and rd ra rb) s = execAnd rd ra rb s := rfl
@[simp] theorem exec_or (rd : BitVec 6) (ra : BitVec 6) (rb : BitVec 6) (s : State) : exec (.or rd ra rb) s = execOr rd ra rb s := rfl
@[simp] theorem exec_xor (rd : BitVec 6) (ra : BitVec 6) (rb : BitVec 6) (s : State) : exec (.xor rd ra rb) s = execXor rd ra rb s := rfl
@[simp] theorem exec_andn (rd : BitVec 6) (ra : BitVec 6) (rb : BitVec 6) (s : State) : exec (.andn rd ra rb) s = execAndn rd ra rb s := rfl
@[simp] theorem exec_shl (rd : BitVec 6) (ra : BitVec 6) (rb : BitVec 6) (s : State) : exec (.shl rd ra rb) s = execShl rd ra rb s := rfl
@[simp] theorem exec_shr (rd : BitVec 6) (ra : BitVec 6) (rb : BitVec 6) (s : State) : exec (.shr rd ra rb) s = execShr rd ra rb s := rfl
@[simp] theorem exec_sra (rd : BitVec 6) (ra : BitVec 6) (rb : BitVec 6) (s : State) : exec (.sra rd ra rb) s = execSra rd ra rb s := rfl
@[simp] theorem exec_rol (rd : BitVec 6) (ra : BitVec 6) (rb : BitVec 6) (s : State) : exec (.rol rd ra rb) s = execRol rd ra rb s := rfl
@[simp] theorem exec_ror (rd : BitVec 6) (ra : BitVec 6) (rb : BitVec 6) (s : State) : exec (.ror rd ra rb) s = execRor rd ra rb s := rfl
@[simp] theorem exec_min (rd : BitVec 6) (ra : BitVec 6) (rb : BitVec 6) (s : State) : exec (.min rd ra rb) s = execMin rd ra rb s := rfl
@[simp] theorem exec_max (rd : BitVec 6) (ra : BitVec 6) (rb : BitVec 6) (s : State) : exec (.max rd ra rb) s = execMax rd ra rb s := rfl
@[simp] theorem exec_minu (rd : BitVec 6) (ra : BitVec 6) (rb : BitVec 6) (s : State) : exec (.minu rd ra rb) s = execMinu rd ra rb s := rfl
@[simp] theorem exec_maxu (rd : BitVec 6) (ra : BitVec 6) (rb : BitVec 6) (s : State) : exec (.maxu rd ra rb) s = execMaxu rd ra rb s := rfl
@[simp] theorem exec_seq (rd : BitVec 6) (ra : BitVec 6) (rb : BitVec 6) (s : State) : exec (.seq rd ra rb) s = execSeq rd ra rb s := rfl
@[simp] theorem exec_sne (rd : BitVec 6) (ra : BitVec 6) (rb : BitVec 6) (s : State) : exec (.sne rd ra rb) s = execSne rd ra rb s := rfl
@[simp] theorem exec_slt (rd : BitVec 6) (ra : BitVec 6) (rb : BitVec 6) (s : State) : exec (.slt rd ra rb) s = execSlt rd ra rb s := rfl
@[simp] theorem exec_sltu (rd : BitVec 6) (ra : BitVec 6) (rb : BitVec 6) (s : State) : exec (.sltu rd ra rb) s = execSltu rd ra rb s := rfl
@[simp] theorem exec_mul (rd : BitVec 6) (ra : BitVec 6) (rb : BitVec 6) (s : State) : exec (.mul rd ra rb) s = execMul rd ra rb s := rfl
@[simp] theorem exec_mulh (rd : BitVec 6) (ra : BitVec 6) (rb : BitVec 6) (s : State) : exec (.mulh rd ra rb) s = execMulh rd ra rb s := rfl
@[simp] theorem exec_mulhu (rd : BitVec 6) (ra : BitVec 6) (rb : BitVec 6) (s : State) : exec (.mulhu rd ra rb) s = execMulhu rd ra rb s := rfl
@[simp] theorem exec_div (rd : BitVec 6) (ra : BitVec 6) (rb : BitVec 6) (s : State) : exec (.div rd ra rb) s = execDiv rd ra rb s := rfl
@[simp] theorem exec_divu (rd : BitVec 6) (ra : BitVec 6) (rb : BitVec 6) (s : State) : exec (.divu rd ra rb) s = execDivu rd ra rb s := rfl
@[simp] theorem exec_rem (rd : BitVec 6) (ra : BitVec 6) (rb : BitVec 6) (s : State) : exec (.rem rd ra rb) s = execRem rd ra rb s := rfl
@[simp] theorem exec_remu (rd : BitVec 6) (ra : BitVec 6) (rb : BitVec 6) (s : State) : exec (.remu rd ra rb) s = execRemu rd ra rb s := rfl
@[simp] theorem exec_clz (rd : BitVec 6) (ra : BitVec 6) (s : State) : exec (.clz rd ra) s = execClz rd ra s := rfl
@[simp] theorem exec_ctz (rd : BitVec 6) (ra : BitVec 6) (s : State) : exec (.ctz rd ra) s = execCtz rd ra s := rfl
@[simp] theorem exec_popc (rd : BitVec 6) (ra : BitVec 6) (s : State) : exec (.popc rd ra) s = execPopc rd ra s := rfl
@[simp] theorem exec_sextb (rd : BitVec 6) (ra : BitVec 6) (s : State) : exec (.sextb rd ra) s = execSextb rd ra s := rfl
@[simp] theorem exec_sexth (rd : BitVec 6) (ra : BitVec 6) (s : State) : exec (.sexth rd ra) s = execSexth rd ra s := rfl
@[simp] theorem exec_sextw (rd : BitVec 6) (ra : BitVec 6) (s : State) : exec (.sextw rd ra) s = execSextw rd ra s := rfl
@[simp] theorem exec_zextw (rd : BitVec 6) (ra : BitVec 6) (s : State) : exec (.zextw rd ra) s = execZextw rd ra s := rfl
@[simp] theorem exec_bswap (rd : BitVec 6) (ra : BitVec 6) (s : State) : exec (.bswap rd ra) s = execBswap rd ra s := rfl
@[simp] theorem exec_addi (rd : BitVec 6) (ra : BitVec 6) (imm : BitVec 22) (s : State) : exec (.addi rd ra imm) s = execAddi rd ra imm s := rfl
@[simp] theorem exec_andi (rd : BitVec 6) (ra : BitVec 6) (imm : BitVec 22) (s : State) : exec (.andi rd ra imm) s = execAndi rd ra imm s := rfl
@[simp] theorem exec_ori (rd : BitVec 6) (ra : BitVec 6) (imm : BitVec 22) (s : State) : exec (.ori rd ra imm) s = execOri rd ra imm s := rfl
@[simp] theorem exec_xori (rd : BitVec 6) (ra : BitVec 6) (imm : BitVec 22) (s : State) : exec (.xori rd ra imm) s = execXori rd ra imm s := rfl
@[simp] theorem exec_shli (rd : BitVec 6) (ra : BitVec 6) (sh : BitVec 6) (s : State) : exec (.shli rd ra sh) s = execShli rd ra sh s := rfl
@[simp] theorem exec_shri (rd : BitVec 6) (ra : BitVec 6) (sh : BitVec 6) (s : State) : exec (.shri rd ra sh) s = execShri rd ra sh s := rfl
@[simp] theorem exec_srai (rd : BitVec 6) (ra : BitVec 6) (sh : BitVec 6) (s : State) : exec (.srai rd ra sh) s = execSrai rd ra sh s := rfl
@[simp] theorem exec_slti (rd : BitVec 6) (ra : BitVec 6) (imm : BitVec 22) (s : State) : exec (.slti rd ra imm) s = execSlti rd ra imm s := rfl
@[simp] theorem exec_sltui (rd : BitVec 6) (ra : BitVec 6) (imm : BitVec 22) (s : State) : exec (.sltui rd ra imm) s = execSltui rd ra imm s := rfl
@[simp] theorem exec_muli (rd : BitVec 6) (ra : BitVec 6) (imm : BitVec 22) (s : State) : exec (.muli rd ra imm) s = execMuli rd ra imm s := rfl
@[simp] theorem exec_li (rd : BitVec 6) (imm : BitVec 32) (s : State) : exec (.li rd imm) s = execLi rd imm s := rfl
@[simp] theorem exec_liU (rd : BitVec 6) (imm : BitVec 32) (s : State) : exec (.liU rd imm) s = execLiU rd imm s := rfl
@[simp] theorem exec_lih (rd : BitVec 6) (imm : BitVec 32) (s : State) : exec (.lih rd imm) s = execLih rd imm s := rfl
@[simp] theorem exec_sel (rd : BitVec 6) (ra : BitVec 6) (rb : BitVec 6) (s : State) : exec (.sel rd ra rb) s = execSel rd ra rb s := rfl
@[simp] theorem exec_beq (ra : BitVec 6) (rb : BitVec 6) (off : BitVec 24) (s : State) : exec (.beq ra rb off) s = execBeq ra rb off s := rfl
@[simp] theorem exec_bne (ra : BitVec 6) (rb : BitVec 6) (off : BitVec 24) (s : State) : exec (.bne ra rb off) s = execBne ra rb off s := rfl
@[simp] theorem exec_blt (ra : BitVec 6) (rb : BitVec 6) (off : BitVec 24) (s : State) : exec (.blt ra rb off) s = execBlt ra rb off s := rfl
@[simp] theorem exec_bge (ra : BitVec 6) (rb : BitVec 6) (off : BitVec 24) (s : State) : exec (.bge ra rb off) s = execBge ra rb off s := rfl
@[simp] theorem exec_bltu (ra : BitVec 6) (rb : BitVec 6) (off : BitVec 24) (s : State) : exec (.bltu ra rb off) s = execBltu ra rb off s := rfl
@[simp] theorem exec_bgeu (ra : BitVec 6) (rb : BitVec 6) (off : BitVec 24) (s : State) : exec (.bgeu ra rb off) s = execBgeu ra rb off s := rfl
@[simp] theorem exec_bz (ra : BitVec 6) (off : BitVec 24) (s : State) : exec (.bz ra off) s = execBz ra off s := rfl
@[simp] theorem exec_bnz (ra : BitVec 6) (off : BitVec 24) (s : State) : exec (.bnz ra off) s = execBnz ra off s := rfl
@[simp] theorem exec_j (off : BitVec 32) (s : State) : exec (.j off) s = execJ off s := rfl
@[simp] theorem exec_jr (ra : BitVec 6) (s : State) : exec (.jr ra) s = execJr ra s := rfl
@[simp] theorem exec_call (off : BitVec 32) (s : State) : exec (.call off) s = execCall off s := rfl
@[simp] theorem exec_callr (ra : BitVec 6) (s : State) : exec (.callr ra) s = execCallr ra s := rfl
@[simp] theorem exec_spec (ra : BitVec 6) (off : BitVec 24) (s : State) : exec (.spec ra off) s = execSpec ra off s := rfl
@[simp] theorem exec_rndx (rd : BitVec 6) (ra : BitVec 6) (rb : BitVec 6) (site : BitVec 2) (s : State) : exec (.rndx rd ra rb site) s = execRndx rd ra rb site s := rfl
@[simp] theorem exec_csrr (rd : BitVec 6) (csr : BitVec 12) (s : State) : exec (.csrr rd csr) s = execCsrr rd csr s := rfl
@[simp] theorem exec_csrw (rd : BitVec 6) (ra : BitVec 6) (csr : BitVec 12) (s : State) : exec (.csrw rd ra csr) s = execCsrw rd ra csr s := rfl
@[simp] theorem exec_csrs (rd : BitVec 6) (ra : BitVec 6) (csr : BitVec 12) (s : State) : exec (.csrs rd ra csr) s = execCsrs rd ra csr s := rfl
@[simp] theorem exec_csrc (rd : BitVec 6) (ra : BitVec 6) (csr : BitVec 12) (s : State) : exec (.csrc rd ra csr) s = execCsrc rd ra csr s := rfl
@[simp] theorem exec_ldb (rd : BitVec 6) (ra : BitVec 6) (ord : BitVec 2) (scope : BitVec 2) (off : BitVec 21) (s : State) : exec (.ldb rd ra ord scope off) s = execLdb rd ra ord scope off s := rfl
@[simp] theorem exec_ldbu (rd : BitVec 6) (ra : BitVec 6) (ord : BitVec 2) (scope : BitVec 2) (off : BitVec 21) (s : State) : exec (.ldbu rd ra ord scope off) s = execLdbu rd ra ord scope off s := rfl
@[simp] theorem exec_ldh (rd : BitVec 6) (ra : BitVec 6) (ord : BitVec 2) (scope : BitVec 2) (off : BitVec 21) (s : State) : exec (.ldh rd ra ord scope off) s = execLdh rd ra ord scope off s := rfl
@[simp] theorem exec_ldhu (rd : BitVec 6) (ra : BitVec 6) (ord : BitVec 2) (scope : BitVec 2) (off : BitVec 21) (s : State) : exec (.ldhu rd ra ord scope off) s = execLdhu rd ra ord scope off s := rfl
@[simp] theorem exec_ldw (rd : BitVec 6) (ra : BitVec 6) (ord : BitVec 2) (scope : BitVec 2) (off : BitVec 21) (s : State) : exec (.ldw rd ra ord scope off) s = execLdw rd ra ord scope off s := rfl
@[simp] theorem exec_ldwu (rd : BitVec 6) (ra : BitVec 6) (ord : BitVec 2) (scope : BitVec 2) (off : BitVec 21) (s : State) : exec (.ldwu rd ra ord scope off) s = execLdwu rd ra ord scope off s := rfl
@[simp] theorem exec_ldd (rd : BitVec 6) (ra : BitVec 6) (ord : BitVec 2) (scope : BitVec 2) (off : BitVec 21) (s : State) : exec (.ldd rd ra ord scope off) s = execLdd rd ra ord scope off s := rfl
@[simp] theorem exec_stb (rd : BitVec 6) (ra : BitVec 6) (ord : BitVec 2) (scope : BitVec 2) (off : BitVec 22) (s : State) : exec (.stb rd ra ord scope off) s = execStb rd ra ord scope off s := rfl
@[simp] theorem exec_sth (rd : BitVec 6) (ra : BitVec 6) (ord : BitVec 2) (scope : BitVec 2) (off : BitVec 22) (s : State) : exec (.sth rd ra ord scope off) s = execSth rd ra ord scope off s := rfl
@[simp] theorem exec_stw (rd : BitVec 6) (ra : BitVec 6) (ord : BitVec 2) (scope : BitVec 2) (off : BitVec 22) (s : State) : exec (.stw rd ra ord scope off) s = execStw rd ra ord scope off s := rfl
@[simp] theorem exec_std (rd : BitVec 6) (ra : BitVec 6) (ord : BitVec 2) (scope : BitVec 2) (off : BitVec 22) (s : State) : exec (.std rd ra ord scope off) s = execStd rd ra ord scope off s := rfl
@[simp] theorem exec_amadd (rd : BitVec 6) (ra : BitVec 6) (rb : BitVec 6) (ord : BitVec 2) (scope : BitVec 2) (dw : Bool) (s : State) : exec (.amadd rd ra rb ord scope dw) s = execAmadd rd ra rb ord scope dw s := rfl
@[simp] theorem exec_amand (rd : BitVec 6) (ra : BitVec 6) (rb : BitVec 6) (ord : BitVec 2) (scope : BitVec 2) (dw : Bool) (s : State) : exec (.amand rd ra rb ord scope dw) s = execAmand rd ra rb ord scope dw s := rfl
@[simp] theorem exec_amor (rd : BitVec 6) (ra : BitVec 6) (rb : BitVec 6) (ord : BitVec 2) (scope : BitVec 2) (dw : Bool) (s : State) : exec (.amor rd ra rb ord scope dw) s = execAmor rd ra rb ord scope dw s := rfl
@[simp] theorem exec_amxor (rd : BitVec 6) (ra : BitVec 6) (rb : BitVec 6) (ord : BitVec 2) (scope : BitVec 2) (dw : Bool) (s : State) : exec (.amxor rd ra rb ord scope dw) s = execAmxor rd ra rb ord scope dw s := rfl
@[simp] theorem exec_ammin (rd : BitVec 6) (ra : BitVec 6) (rb : BitVec 6) (ord : BitVec 2) (scope : BitVec 2) (dw : Bool) (s : State) : exec (.ammin rd ra rb ord scope dw) s = execAmmin rd ra rb ord scope dw s := rfl
@[simp] theorem exec_ammax (rd : BitVec 6) (ra : BitVec 6) (rb : BitVec 6) (ord : BitVec 2) (scope : BitVec 2) (dw : Bool) (s : State) : exec (.ammax rd ra rb ord scope dw) s = execAmmax rd ra rb ord scope dw s := rfl
@[simp] theorem exec_amminu (rd : BitVec 6) (ra : BitVec 6) (rb : BitVec 6) (ord : BitVec 2) (scope : BitVec 2) (dw : Bool) (s : State) : exec (.amminu rd ra rb ord scope dw) s = execAmminu rd ra rb ord scope dw s := rfl
@[simp] theorem exec_ammaxu (rd : BitVec 6) (ra : BitVec 6) (rb : BitVec 6) (ord : BitVec 2) (scope : BitVec 2) (dw : Bool) (s : State) : exec (.ammaxu rd ra rb ord scope dw) s = execAmmaxu rd ra rb ord scope dw s := rfl
@[simp] theorem exec_amswap (rd : BitVec 6) (ra : BitVec 6) (rb : BitVec 6) (ord : BitVec 2) (scope : BitVec 2) (dw : Bool) (s : State) : exec (.amswap rd ra rb ord scope dw) s = execAmswap rd ra rb ord scope dw s := rfl
@[simp] theorem exec_cas (rd : BitVec 6) (ra : BitVec 6) (rb : BitVec 6) (ord : BitVec 2) (scope : BitVec 2) (dw : Bool) (s : State) : exec (.cas rd ra rb ord scope dw) s = execCas rd ra rb ord scope dw s := rfl
@[simp] theorem exec_fence (ord : BitVec 2) (scope : BitVec 2) (s : State) : exec (.fence ord scope) s = execFence ord scope s := rfl
@[simp] theorem exec_publish (rd : BitVec 6) (ra : BitVec 6) (s : State) : exec (.publish rd ra) s = execPublish rd ra s := rfl
@[simp] theorem exec_cvtaTo (rd : BitVec 6) (ra : BitVec 6) (ap : BitVec 2) (s : State) : exec (.cvtaTo rd ra ap) s = execCvtaTo rd ra ap s := rfl
@[simp] theorem exec_cvtaFrom (rd : BitVec 6) (ra : BitVec 6) (ap : BitVec 2) (s : State) : exec (.cvtaFrom rd ra ap) s = execCvtaFrom rd ra ap s := rfl
@[simp] theorem exec_aptest (rd : BitVec 6) (ra : BitVec 6) (ap : BitVec 2) (s : State) : exec (.aptest rd ra ap) s = execAptest rd ra ap s := rfl
@[simp] theorem exec_setview (rd : BitVec 6) (ra : BitVec 6) (mask : BitVec 3) (s : State) : exec (.setview rd ra mask) s = execSetview rd ra mask s := rfl
@[simp] theorem exec_seta (ad : BitVec 5) (ra : BitVec 6) (s : State) : exec (.seta ad ra) s = execSeta ad ra s := rfl
@[simp] theorem exec_popv (rd : BitVec 6) (q : BitVec 4) (s : State) : exec (.popv rd q) s = execPopv rd q s := rfl
@[simp] theorem exec_pushv (ra : BitVec 6) (rb : BitVec 6) (q : BitVec 4) (s : State) : exec (.pushv ra rb q) s = execPushv ra rb q s := rfl
@[simp] theorem exec_barinit (rd : BitVec 6) (ra : BitVec 6) (remote : Bool) (expect : BitVec 12) (bar : BitVec 9) (s : State) : exec (.barinit rd ra remote expect bar) s = execBarinit rd ra remote expect bar s := rfl
@[simp] theorem exec_bararv (rd : BitVec 6) (ra : BitVec 6) (remote : Bool) (bar : BitVec 9) (s : State) : exec (.bararv rd ra remote bar) s = execBararv rd ra remote bar s := rfl
@[simp] theorem exec_barwait (rd : BitVec 6) (ra : BitVec 6) (remote : Bool) (bar : BitVec 9) (s : State) : exec (.barwait rd ra remote bar) s = execBarwait rd ra remote bar s := rfl
@[simp] theorem exec_bararw (rd : BitVec 6) (ra : BitVec 6) (remote : Bool) (bar : BitVec 9) (s : State) : exec (.bararw rd ra remote bar) s = execBararw rd ra remote bar s := rfl
@[simp] theorem exec_tbinit (rd : BitVec 6) (ra : BitVec 6) (off : BitVec 22) (s : State) : exec (.tbinit rd ra off) s = execTbinit rd ra off s := rfl
@[simp] theorem exec_tbexp (rd : BitVec 6) (ra : BitVec 6) (off : BitVec 22) (s : State) : exec (.tbexp rd ra off) s = execTbexp rd ra off s := rfl
@[simp] theorem exec_tbarv (rd : BitVec 6) (ra : BitVec 6) (off : BitVec 22) (s : State) : exec (.tbarv rd ra off) s = execTbarv rd ra off s := rfl
@[simp] theorem exec_tbwait (rd : BitVec 6) (ra : BitVec 6) (off : BitVec 22) (s : State) : exec (.tbwait rd ra off) s = execTbwait rd ra off s := rfl
@[simp] theorem exec_spawn (ra : BitVec 6) (s : State) : exec (.spawn ra) s = execSpawn ra s := rfl
@[simp] theorem exec_spawnNb (rd : BitVec 6) (ra : BitVec 6) (s : State) : exec (.spawnNb rd ra) s = execSpawnNb rd ra s := rfl
@[simp] theorem exec_enqr (ra : BitVec 6) (rb : BitVec 6) (s : State) : exec (.enqr ra rb) s = execEnqr ra rb s := rfl
@[simp] theorem exec_inbox (rd : BitVec 6) (ra : BitVec 6) (s : State) : exec (.inbox rd ra) s = execInbox rd ra s := rfl
@[simp] theorem exec_inboxNb (rd : BitVec 6) (ra : BitVec 6) (s : State) : exec (.inboxNb rd ra) s = execInboxNb rd ra s := rfl
@[simp] theorem exec_yield (rd : BitVec 6) (s : State) : exec (.yield rd) s = execYield rd s := rfl
@[simp] theorem exec_wfe (rd : BitVec 6) (ra : BitVec 6) (s : State) : exec (.wfe rd ra) s = execWfe rd ra s := rfl
@[simp] theorem exec_trap (imm : BitVec 16) (s : State) : exec (.trap imm) s = execTrap imm s := rfl
@[simp] theorem exec_leaseNb (rd : BitVec 6) (s : State) : exec (.leaseNb rd) s = execLeaseNb rd s := rfl
@[simp] theorem exec_ald (dstq : BitVec 4) (aa : BitVec 5) (step : BitVec 16) (rpt : BitVec 7) (size : BitVec 2) (pop : BitVec 3) (push : BitVec 3) (s : State) : exec (.ald dstq aa step rpt size pop push) s = execAld dstq aa step rpt size pop push s := rfl
@[simp] theorem exec_ast (dstq : BitVec 4) (aa : BitVec 5) (step : BitVec 16) (rpt : BitVec 7) (size : BitVec 2) (pop : BitVec 3) (push : BitVec 3) (s : State) : exec (.ast dstq aa step rpt size pop push) s = execAst dstq aa step rpt size pop push s := rfl
@[simp] theorem exec_arld (dstq : BitVec 4) (aa : BitVec 5) (step : BitVec 16) (rpt : BitVec 7) (size : BitVec 2) (pop : BitVec 3) (push : BitVec 3) (s : State) : exec (.arld dstq aa step rpt size pop push) s = execArld dstq aa step rpt size pop push s := rfl
@[simp] theorem exec_arst (dstq : BitVec 4) (aa : BitVec 5) (step : BitVec 16) (rpt : BitVec 7) (size : BitVec 2) (pop : BitVec 3) (push : BitVec 3) (s : State) : exec (.arst dstq aa step rpt size pop push) s = execArst dstq aa step rpt size pop push s := rfl
@[simp] theorem exec_agth (dstq : BitVec 4) (aa : BitVec 5) (src : Bool) (idx : BitVec 5) (it : BitVec 2) (shift : BitVec 4) (rpt : BitVec 7) (size : BitVec 2) (pop : BitVec 3) (push : BitVec 3) (s : State) : exec (.agth dstq aa src idx it shift rpt size pop push) s = execAgth dstq aa src idx it shift rpt size pop push s := rfl
@[simp] theorem exec_asct (dstq : BitVec 4) (aa : BitVec 5) (src : Bool) (idx : BitVec 5) (it : BitVec 2) (shift : BitVec 4) (rpt : BitVec 7) (size : BitVec 2) (pop : BitVec 3) (push : BitVec 3) (s : State) : exec (.asct dstq aa src idx it shift rpt size pop push) s = execAsct dstq aa src idx it shift rpt size pop push s := rfl
@[simp] theorem exec_apart (c : BitVec 4) (aa : BitVec 5) (keyq : BitVec 4) (kt : BitVec 2) (rpt : BitVec 7) (size : BitVec 2) (pop : BitVec 3) (push : BitVec 3) (s : State) : exec (.apart c aa keyq kt rpt size pop push) s = execApart c aa keyq kt rpt size pop push s := rfl
@[simp] theorem exec_aadd (ad : BitVec 5) (aa : BitVec 5) (ab : BitVec 5) (s : State) : exec (.aadd ad aa ab) s = execAadd ad aa ab s := rfl
@[simp] theorem exec_asub (ad : BitVec 5) (aa : BitVec 5) (ab : BitVec 5) (s : State) : exec (.asub ad aa ab) s = execAsub ad aa ab s := rfl
@[simp] theorem exec_aand (ad : BitVec 5) (aa : BitVec 5) (ab : BitVec 5) (s : State) : exec (.aand ad aa ab) s = execAand ad aa ab s := rfl
@[simp] theorem exec_aor (ad : BitVec 5) (aa : BitVec 5) (ab : BitVec 5) (s : State) : exec (.aor ad aa ab) s = execAor ad aa ab s := rfl
@[simp] theorem exec_axor (ad : BitVec 5) (aa : BitVec 5) (ab : BitVec 5) (s : State) : exec (.axor ad aa ab) s = execAxor ad aa ab s := rfl
@[simp] theorem exec_ashl (ad : BitVec 5) (aa : BitVec 5) (ab : BitVec 5) (s : State) : exec (.ashl ad aa ab) s = execAshl ad aa ab s := rfl
@[simp] theorem exec_ashr (ad : BitVec 5) (aa : BitVec 5) (ab : BitVec 5) (s : State) : exec (.ashr ad aa ab) s = execAshr ad aa ab s := rfl
@[simp] theorem exec_amul (ad : BitVec 5) (aa : BitVec 5) (ab : BitVec 5) (s : State) : exec (.amul ad aa ab) s = execAmul ad aa ab s := rfl
@[simp] theorem exec_amax (ad : BitVec 5) (aa : BitVec 5) (ab : BitVec 5) (s : State) : exec (.amax ad aa ab) s = execAmax ad aa ab s := rfl
@[simp] theorem exec_aaddi (ad : BitVec 5) (aa : BitVec 5) (imm : BitVec 19) (s : State) : exec (.aaddi ad aa imm) s = execAaddi ad aa imm s := rfl
@[simp] theorem exec_ali (ad : BitVec 5) (imm : BitVec 19) (s : State) : exec (.ali ad imm) s = execAli ad imm s := rfl
@[simp] theorem exec_aflush (q : BitVec 4) (s : State) : exec (.aflush q) s = execAflush q s := rfl
@[simp] theorem exec_amcast (q : BitVec 4) (aa : BitVec 5) (ab : BitVec 5) (grp : BitVec 3) (imm : BitVec 19) (s : State) : exec (.amcast q aa ab grp imm) s = execAmcast q aa ab grp imm s := rfl
@[simp] theorem exec_vmode (typ : BitVec 4) (wt : Bool) (wm : Bool) (ftz : Bool) (rnd : BitVec 3) (s : State) : exec (.vmode typ wt wm ftz rnd) s = execVmode typ wt wm ftz rnd s := rfl
@[simp] theorem exec_vmovi (d : BitVec 12) (a : BitVec 12) (imm : BitVec 16) (s : State) : exec (.vmovi d a imm) s = execVmovi d a imm s := rfl
@[simp] theorem exec_vadd (d : BitVec 12) (a : BitVec 12) (b : BitVec 12) (m : Bool) (x : BitVec 3) (s : State) : exec (.vadd d a b m x) s = execVadd d a b m x s := rfl
@[simp] theorem exec_vsub (d : BitVec 12) (a : BitVec 12) (b : BitVec 12) (m : Bool) (x : BitVec 3) (s : State) : exec (.vsub d a b m x) s = execVsub d a b m x s := rfl
@[simp] theorem exec_vmul (d : BitVec 12) (a : BitVec 12) (b : BitVec 12) (m : Bool) (x : BitVec 3) (s : State) : exec (.vmul d a b m x) s = execVmul d a b m x s := rfl
@[simp] theorem exec_vmulh (d : BitVec 12) (a : BitVec 12) (b : BitVec 12) (m : Bool) (x : BitVec 3) (s : State) : exec (.vmulh d a b m x) s = execVmulh d a b m x s := rfl
@[simp] theorem exec_vmad (d : BitVec 12) (a : BitVec 12) (b : BitVec 12) (m : Bool) (x : BitVec 3) (s : State) : exec (.vmad d a b m x) s = execVmad d a b m x s := rfl
@[simp] theorem exec_vand (d : BitVec 12) (a : BitVec 12) (b : BitVec 12) (m : Bool) (x : BitVec 3) (s : State) : exec (.vand d a b m x) s = execVand d a b m x s := rfl
@[simp] theorem exec_vor (d : BitVec 12) (a : BitVec 12) (b : BitVec 12) (m : Bool) (x : BitVec 3) (s : State) : exec (.vor d a b m x) s = execVor d a b m x s := rfl
@[simp] theorem exec_vxor (d : BitVec 12) (a : BitVec 12) (b : BitVec 12) (m : Bool) (x : BitVec 3) (s : State) : exec (.vxor d a b m x) s = execVxor d a b m x s := rfl
@[simp] theorem exec_vandn (d : BitVec 12) (a : BitVec 12) (b : BitVec 12) (m : Bool) (x : BitVec 3) (s : State) : exec (.vandn d a b m x) s = execVandn d a b m x s := rfl
@[simp] theorem exec_vshl (d : BitVec 12) (a : BitVec 12) (b : BitVec 12) (m : Bool) (x : BitVec 3) (s : State) : exec (.vshl d a b m x) s = execVshl d a b m x s := rfl
@[simp] theorem exec_vshr (d : BitVec 12) (a : BitVec 12) (b : BitVec 12) (m : Bool) (x : BitVec 3) (s : State) : exec (.vshr d a b m x) s = execVshr d a b m x s := rfl
@[simp] theorem exec_vsra (d : BitVec 12) (a : BitVec 12) (b : BitVec 12) (m : Bool) (x : BitVec 3) (s : State) : exec (.vsra d a b m x) s = execVsra d a b m x s := rfl
@[simp] theorem exec_vmin (d : BitVec 12) (a : BitVec 12) (b : BitVec 12) (m : Bool) (x : BitVec 3) (s : State) : exec (.vmin d a b m x) s = execVmin d a b m x s := rfl
@[simp] theorem exec_vmax (d : BitVec 12) (a : BitVec 12) (b : BitVec 12) (m : Bool) (x : BitVec 3) (s : State) : exec (.vmax d a b m x) s = execVmax d a b m x s := rfl
@[simp] theorem exec_vadds (d : BitVec 12) (a : BitVec 12) (b : BitVec 12) (m : Bool) (x : BitVec 3) (s : State) : exec (.vadds d a b m x) s = execVadds d a b m x s := rfl
@[simp] theorem exec_vsubs (d : BitVec 12) (a : BitVec 12) (b : BitVec 12) (m : Bool) (x : BitVec 3) (s : State) : exec (.vsubs d a b m x) s = execVsubs d a b m x s := rfl
@[simp] theorem exec_vceq (d : BitVec 12) (a : BitVec 12) (b : BitVec 12) (m : Bool) (x : BitVec 3) (s : State) : exec (.vceq d a b m x) s = execVceq d a b m x s := rfl
@[simp] theorem exec_vcne (d : BitVec 12) (a : BitVec 12) (b : BitVec 12) (m : Bool) (x : BitVec 3) (s : State) : exec (.vcne d a b m x) s = execVcne d a b m x s := rfl
@[simp] theorem exec_vclt (d : BitVec 12) (a : BitVec 12) (b : BitVec 12) (m : Bool) (x : BitVec 3) (s : State) : exec (.vclt d a b m x) s = execVclt d a b m x s := rfl
@[simp] theorem exec_vcle (d : BitVec 12) (a : BitVec 12) (b : BitVec 12) (m : Bool) (x : BitVec 3) (s : State) : exec (.vcle d a b m x) s = execVcle d a b m x s := rfl
@[simp] theorem exec_vcltu (d : BitVec 12) (a : BitVec 12) (b : BitVec 12) (m : Bool) (x : BitVec 3) (s : State) : exec (.vcltu d a b m x) s = execVcltu d a b m x s := rfl
@[simp] theorem exec_vcleu (d : BitVec 12) (a : BitVec 12) (b : BitVec 12) (m : Bool) (x : BitVec 3) (s : State) : exec (.vcleu d a b m x) s = execVcleu d a b m x s := rfl
@[simp] theorem exec_vsel (d : BitVec 12) (a : BitVec 12) (b : BitVec 12) (m : Bool) (x : BitVec 3) (s : State) : exec (.vsel d a b m x) s = execVsel d a b m x s := rfl
@[simp] theorem exec_vpack (d : BitVec 12) (a : BitVec 12) (b : BitVec 12) (m : Bool) (x : BitVec 3) (s : State) : exec (.vpack d a b m x) s = execVpack d a b m x s := rfl
@[simp] theorem exec_vfadd (d : BitVec 12) (a : BitVec 12) (b : BitVec 12) (m : Bool) (x : BitVec 3) (s : State) : exec (.vfadd d a b m x) s = execVfadd d a b m x s := rfl
@[simp] theorem exec_vfsub (d : BitVec 12) (a : BitVec 12) (b : BitVec 12) (m : Bool) (x : BitVec 3) (s : State) : exec (.vfsub d a b m x) s = execVfsub d a b m x s := rfl
@[simp] theorem exec_vfmul (d : BitVec 12) (a : BitVec 12) (b : BitVec 12) (m : Bool) (x : BitVec 3) (s : State) : exec (.vfmul d a b m x) s = execVfmul d a b m x s := rfl
@[simp] theorem exec_vfma (d : BitVec 12) (a : BitVec 12) (b : BitVec 12) (m : Bool) (x : BitVec 3) (s : State) : exec (.vfma d a b m x) s = execVfma d a b m x s := rfl
@[simp] theorem exec_vfms (d : BitVec 12) (a : BitVec 12) (b : BitVec 12) (m : Bool) (x : BitVec 3) (s : State) : exec (.vfms d a b m x) s = execVfms d a b m x s := rfl
@[simp] theorem exec_vfnma (d : BitVec 12) (a : BitVec 12) (b : BitVec 12) (m : Bool) (x : BitVec 3) (s : State) : exec (.vfnma d a b m x) s = execVfnma d a b m x s := rfl
@[simp] theorem exec_vfmin (d : BitVec 12) (a : BitVec 12) (b : BitVec 12) (m : Bool) (x : BitVec 3) (s : State) : exec (.vfmin d a b m x) s = execVfmin d a b m x s := rfl
@[simp] theorem exec_vfmax (d : BitVec 12) (a : BitVec 12) (b : BitVec 12) (m : Bool) (x : BitVec 3) (s : State) : exec (.vfmax d a b m x) s = execVfmax d a b m x s := rfl
@[simp] theorem exec_vfscl (d : BitVec 12) (a : BitVec 12) (b : BitVec 12) (m : Bool) (x : BitVec 3) (s : State) : exec (.vfscl d a b m x) s = execVfscl d a b m x s := rfl
@[simp] theorem exec_vfceq (d : BitVec 12) (a : BitVec 12) (b : BitVec 12) (m : Bool) (x : BitVec 3) (s : State) : exec (.vfceq d a b m x) s = execVfceq d a b m x s := rfl
@[simp] theorem exec_vfclt (d : BitVec 12) (a : BitVec 12) (b : BitVec 12) (m : Bool) (x : BitVec 3) (s : State) : exec (.vfclt d a b m x) s = execVfclt d a b m x s := rfl
@[simp] theorem exec_vfcle (d : BitVec 12) (a : BitVec 12) (b : BitVec 12) (m : Bool) (x : BitVec 3) (s : State) : exec (.vfcle d a b m x) s = execVfcle d a b m x s := rfl
@[simp] theorem exec_vcvtsr (d : BitVec 12) (a : BitVec 12) (b : BitVec 12) (m : Bool) (x : BitVec 3) (s : State) : exec (.vcvtsr d a b m x) s = execVcvtsr d a b m x s := rfl
@[simp] theorem exec_vperm (d : BitVec 12) (a : BitVec 12) (b : BitVec 12) (m : Bool) (x : BitVec 3) (s : State) : exec (.vperm d a b m x) s = execVperm d a b m x s := rfl
@[simp] theorem exec_vabs (d : BitVec 12) (a : BitVec 12) (b : BitVec 12) (m : Bool) (x : BitVec 3) (s : State) : exec (.vabs d a b m x) s = execVabs d a b m x s := rfl
@[simp] theorem exec_vneg (d : BitVec 12) (a : BitVec 12) (b : BitVec 12) (m : Bool) (x : BitVec 3) (s : State) : exec (.vneg d a b m x) s = execVneg d a b m x s := rfl
@[simp] theorem exec_vcnt (d : BitVec 12) (a : BitVec 12) (b : BitVec 12) (m : Bool) (x : BitVec 3) (s : State) : exec (.vcnt d a b m x) s = execVcnt d a b m x s := rfl
@[simp] theorem exec_vmov (d : BitVec 12) (a : BitVec 12) (b : BitVec 12) (m : Bool) (x : BitVec 3) (s : State) : exec (.vmov d a b m x) s = execVmov d a b m x s := rfl
@[simp] theorem exec_vinv (d : BitVec 12) (a : BitVec 12) (b : BitVec 12) (m : Bool) (x : BitVec 3) (s : State) : exec (.vinv d a b m x) s = execVinv d a b m x s := rfl
@[simp] theorem exec_vunpk (d : BitVec 12) (a : BitVec 12) (b : BitVec 12) (m : Bool) (x : BitVec 3) (s : State) : exec (.vunpk d a b m x) s = execVunpk d a b m x s := rfl
@[simp] theorem exec_vfabs (d : BitVec 12) (a : BitVec 12) (b : BitVec 12) (m : Bool) (x : BitVec 3) (s : State) : exec (.vfabs d a b m x) s = execVfabs d a b m x s := rfl
@[simp] theorem exec_vfneg (d : BitVec 12) (a : BitVec 12) (b : BitVec 12) (m : Bool) (x : BitVec 3) (s : State) : exec (.vfneg d a b m x) s = execVfneg d a b m x s := rfl
@[simp] theorem exec_vrcpa (d : BitVec 12) (a : BitVec 12) (b : BitVec 12) (m : Bool) (x : BitVec 3) (s : State) : exec (.vrcpa d a b m x) s = execVrcpa d a b m x s := rfl
@[simp] theorem exec_vrsqa (d : BitVec 12) (a : BitVec 12) (b : BitVec 12) (m : Bool) (x : BitVec 3) (s : State) : exec (.vrsqa d a b m x) s = execVrsqa d a b m x s := rfl
@[simp] theorem exec_vexp2a (d : BitVec 12) (a : BitVec 12) (b : BitVec 12) (m : Bool) (x : BitVec 3) (s : State) : exec (.vexp2a d a b m x) s = execVexp2a d a b m x s := rfl
@[simp] theorem exec_vlog2a (d : BitVec 12) (a : BitVec 12) (b : BitVec 12) (m : Bool) (x : BitVec 3) (s : State) : exec (.vlog2a d a b m x) s = execVlog2a d a b m x s := rfl
@[simp] theorem exec_vfclass (d : BitVec 12) (a : BitVec 12) (b : BitVec 12) (m : Bool) (x : BitVec 3) (s : State) : exec (.vfclass d a b m x) s = execVfclass d a b m x s := rfl
@[simp] theorem exec_vqnt (d : BitVec 12) (a : BitVec 12) (b : BitVec 12) (m : Bool) (x : BitVec 3) (s : State) : exec (.vqnt d a b m x) s = execVqnt d a b m x s := rfl
@[simp] theorem exec_vdqnt (d : BitVec 12) (a : BitVec 12) (b : BitVec 12) (m : Bool) (x : BitVec 3) (s : State) : exec (.vdqnt d a b m x) s = execVdqnt d a b m x s := rfl
@[simp] theorem exec_vmxq (d : BitVec 12) (a : BitVec 12) (b : BitVec 12) (m : Bool) (x : BitVec 3) (s : State) : exec (.vmxq d a b m x) s = execVmxq d a b m x s := rfl
@[simp] theorem exec_vmxd (d : BitVec 12) (a : BitVec 12) (b : BitVec 12) (m : Bool) (x : BitVec 3) (s : State) : exec (.vmxd d a b m x) s = execVmxd d a b m x s := rfl
@[simp] theorem exec_vrsum (d : BitVec 12) (a : BitVec 12) (b : BitVec 12) (m : Bool) (x : BitVec 3) (s : State) : exec (.vrsum d a b m x) s = execVrsum d a b m x s := rfl
@[simp] theorem exec_vrmax (d : BitVec 12) (a : BitVec 12) (b : BitVec 12) (m : Bool) (x : BitVec 3) (s : State) : exec (.vrmax d a b m x) s = execVrmax d a b m x s := rfl
@[simp] theorem exec_vrmin (d : BitVec 12) (a : BitVec 12) (b : BitVec 12) (m : Bool) (x : BitVec 3) (s : State) : exec (.vrmin d a b m x) s = execVrmin d a b m x s := rfl
@[simp] theorem exec_vtrans (d : BitVec 12) (a : BitVec 12) (b : BitVec 12) (m : Bool) (x : BitVec 3) (s : State) : exec (.vtrans d a b m x) s = execVtrans d a b m x s := rfl
@[simp] theorem exec_viota (d : BitVec 12) (a : BitVec 12) (b : BitVec 12) (m : Bool) (x : BitVec 3) (s : State) : exec (.viota d a b m x) s = execViota d a b m x s := rfl
@[simp] theorem exec_vzero (d : BitVec 12) (a : BitVec 12) (b : BitVec 12) (m : Bool) (x : BitVec 3) (s : State) : exec (.vzero d a b m x) s = execVzero d a b m x s := rfl
@[simp] theorem exec_vclrf (d : BitVec 12) (a : BitVec 12) (b : BitVec 12) (m : Bool) (x : BitVec 3) (s : State) : exec (.vclrf d a b m x) s = execVclrf d a b m x s := rfl
@[simp] theorem exec_vcvt (d : BitVec 12) (a : BitVec 12) (p : BitVec 3) (src : BitVec 4) (m : Bool) (x : BitVec 3) (s : State) : exec (.vcvt d a p src m x) s = execVcvt d a p src m x s := rfl
@[simp] theorem exec_vslide (d : BitVec 12) (a : BitVec 12) (amt : BitVec 8) (m : Bool) (x : BitVec 3) (s : State) : exec (.vslide d a amt m x) s = execVslide d a amt m x s := rfl
@[simp] theorem exec_vbcast (d : BitVec 12) (a : BitVec 12) (lane : BitVec 7) (m : Bool) (x : BitVec 3) (s : State) : exec (.vbcast d a lane m x) s = execVbcast d a lane m x s := rfl
@[simp] theorem exec_vext (d : BitVec 12) (a : BitVec 12) (lane : BitVec 7) (m : Bool) (x : BitVec 3) (s : State) : exec (.vext d a lane m x) s = execVext d a lane m x s := rfl
@[simp] theorem exec_vins (d : BitVec 12) (a : BitVec 12) (lane : BitVec 7) (m : Bool) (x : BitVec 3) (s : State) : exec (.vins d a lane m x) s = execVins d a lane m x s := rfl
@[simp] theorem exec_vrng (d : BitVec 12) (a : BitVec 12) (site : BitVec 2) (m : Bool) (x : BitVec 3) (s : State) : exec (.vrng d a site m x) s = execVrng d a site m x s := rfl
@[simp] theorem exec_mfmt (ra : BitVec 6) (pop : BitVec 3) (push : BitVec 3) (s : State) : exec (.mfmt ra pop push) s = execMfmt ra pop push s := rfl
@[simp] theorem exec_mma (ra : BitVec 6) (rb : BitVec 6) (acc : Bool) (m : BitVec 2) (n : BitVec 2) (k : BitVec 2) (ta : Bool) (tb : Bool) (z : Bool) (pop : BitVec 3) (push : BitVec 3) (s : State) : exec (.mma ra rb acc m n k ta tb z pop push) s = execMma ra rb acc m n k ta tb z pop push s := rfl
@[simp] theorem exec_mmas (ra : BitVec 6) (rb : BitVec 6) (acc : Bool) (m : BitVec 2) (n : BitVec 2) (k : BitVec 2) (ta : Bool) (tb : Bool) (z : Bool) (pop : BitVec 3) (push : BitVec 3) (s : State) : exec (.mmas ra rb acc m n k ta tb z pop push) s = execMmas ra rb acc m n k ta tb z pop push s := rfl
@[simp] theorem exec_mresc (ra : BitVec 6) (acc : Bool) (m : BitVec 2) (n : BitVec 2) (pop : BitVec 3) (push : BitVec 3) (s : State) : exec (.mresc ra acc m n pop push) s = execMresc ra acc m n pop push s := rfl
@[simp] theorem exec_mzero (ra : BitVec 6) (acc : Bool) (m : BitVec 2) (n : BitVec 2) (side : Bool) (pop : BitVec 3) (push : BitVec 3) (s : State) : exec (.mzero ra acc m n side pop push) s = execMzero ra acc m n side pop push s := rfl
@[simp] theorem exec_mldac (ra : BitVec 6) (acc : Bool) (m : BitVec 2) (n : BitVec 2) (pop : BitVec 3) (push : BitVec 3) (s : State) : exec (.mldac ra acc m n pop push) s = execMldac ra acc m n pop push s := rfl
@[simp] theorem exec_mstac (ra : BitVec 6) (acc : Bool) (m : BitVec 2) (n : BitVec 2) (close : Bool) (pop : BitVec 3) (push : BitVec 3) (s : State) : exec (.mstac ra acc m n close pop push) s = execMstac ra acc m n close pop push s := rfl
@[simp] theorem exec_mstsm (ra : BitVec 6) (acc : Bool) (m : BitVec 2) (n : BitVec 2) (close : Bool) (pop : BitVec 3) (push : BitVec 3) (s : State) : exec (.mstsm ra acc m n close pop push) s = execMstsm ra acc m n close pop push s := rfl
@[simp] theorem exec_mnorm (ra : BitVec 6) (acc : Bool) (m : BitVec 2) (n : BitVec 2) (other : Bool) (pop : BitVec 3) (push : BitVec 3) (s : State) : exec (.mnorm ra acc m n other pop push) s = execMnorm ra acc m n other pop push s := rfl
@[simp] theorem exec_copy (rd : BitVec 6) (ra : BitVec 6) (cm : BitVec 2) (flags : BitVec 14) (s : State) : exec (.copy rd ra cm flags) s = execCopy rd ra cm flags s := rfl
@[simp] theorem exec_tload (rd : BitVec 6) (ra : BitVec 6) (rb : BitVec 6) (rc : BitVec 6) (cm : BitVec 2) (flags : BitVec 14) (s : State) : exec (.tload rd ra rb rc cm flags) s = execTload rd ra rb rc cm flags s := rfl
@[simp] theorem exec_tstore (rd : BitVec 6) (ra : BitVec 6) (rb : BitVec 6) (rc : BitVec 6) (cm : BitVec 2) (flags : BitVec 14) (s : State) : exec (.tstore rd ra rb rc cm flags) s = execTstore rd ra rb rc cm flags s := rfl
@[simp] theorem exec_tmcast (rd : BitVec 6) (ra : BitVec 6) (rb : BitVec 6) (rc : BitVec 6) (cm : BitVec 2) (flags : BitVec 14) (s : State) : exec (.tmcast rd ra rb rc cm flags) s = execTmcast rd ra rb rc cm flags s := rfl
@[simp] theorem exec_pstore (rd : BitVec 6) (ra : BitVec 6) (rb : BitVec 6) (rc : BitVec 6) (cm : BitVec 2) (flags : BitVec 14) (s : State) : exec (.pstore rd ra rb rc cm flags) s = execPstore rd ra rb rc cm flags s := rfl
@[simp] theorem exec_tpark (rd : BitVec 6) (ra : BitVec 6) (rb : BitVec 6) (rc : BitVec 6) (cm : BitVec 2) (flags : BitVec 14) (s : State) : exec (.tpark rd ra rb rc cm flags) s = execTpark rd ra rb rc cm flags s := rfl
@[simp] theorem exec_trepl (rd : BitVec 6) (ra : BitVec 6) (rb : BitVec 6) (rc : BitVec 6) (cm : BitVec 2) (flags : BitVec 14) (s : State) : exec (.trepl rd ra rb rc cm flags) s = execTrepl rd ra rb rc cm flags s := rfl
@[simp] theorem exec_reqnt (rd : BitVec 6) (ra : BitVec 6) (rb : BitVec 6) (rc : BitVec 6) (cm : BitVec 2) (flags : BitVec 14) (s : State) : exec (.reqnt rd ra rb rc cm flags) s = execReqnt rd ra rb rc cm flags s := rfl
@[simp] theorem exec_tseal (rd : BitVec 6) (ra : BitVec 6) (rb : BitVec 6) (reg : Bool) (s : State) : exec (.tseal rd ra rb reg) s = execTseal rd ra rb reg s := rfl
@[simp] theorem exec_tsealCb (rd : BitVec 6) (ra : BitVec 6) (rb : BitVec 6) (reg : Bool) (s : State) : exec (.tsealCb rd ra rb reg) s = execTsealCb rd ra rb reg s := rfl
@[simp] theorem exec_tunpark (rd : BitVec 6) (ra : BitVec 6) (rb : BitVec 6) (cm : BitVec 2) (flags : BitVec 14) (s : State) : exec (.tunpark rd ra rb cm flags) s = execTunpark rd ra rb cm flags s := rfl
@[simp] theorem exec_tdrop (rd : BitVec 6) (ra : BitVec 6) (rb : BitVec 6) (cm : BitVec 2) (flags : BitVec 14) (s : State) : exec (.tdrop rd ra rb cm flags) s = execTdrop rd ra rb cm flags s := rfl
@[simp] theorem exec_hjoin (rd : BitVec 6) (ra : BitVec 6) (rb : BitVec 6) (s : State) : exec (.hjoin rd ra rb) s = execHjoin rd ra rb s := rfl
@[simp] theorem exec_hleave (rd : BitVec 6) (ra : BitVec 6) (s : State) : exec (.hleave rd ra) s = execHleave rd ra s := rfl
@[simp] theorem exec_hcontrib (rd : BitVec 6) (ra : BitVec 6) (rb : BitVec 6) (off : BitVec 12) (s : State) : exec (.hcontrib rd ra rb off) s = execHcontrib rd ra rb off s := rfl
@[simp] theorem exec_hwait (rd : BitVec 6) (ra : BitVec 6) (rb : BitVec 6) (noimg : Bool) (off : BitVec 12) (s : State) : exec (.hwait rd ra rb noimg off) s = execHwait rd ra rb noimg off s := rfl
@[simp] theorem exec_hstatRoster (rd : BitVec 6) (ra : BitVec 6) (rb : BitVec 6) (s : State) : exec (.hstatRoster rd ra rb) s = execHstatRoster rd ra rb s := rfl
@[simp] theorem exec_hstatGroup (rd : BitVec 6) (ra : BitVec 6) (rb : BitVec 6) (s : State) : exec (.hstatGroup rd ra rb) s = execHstatGroup rd ra rb s := rfl
@[simp] theorem exec_hstatMember (rd : BitVec 6) (ra : BitVec 6) (rb : BitVec 6) (s : State) : exec (.hstatMember rd ra rb) s = execHstatMember rd ra rb s := rfl
@[simp] theorem exec_hsync (rd : BitVec 6) (ra : BitVec 6) (s : State) : exec (.hsync rd ra) s = execHsync rd ra s := rfl
@[simp] theorem exec_ropen (rd : BitVec 6) (ra : BitVec 6) (rb : BitVec 6) (h : BitVec 4) (save : Bool) (ht : BitVec 4) (rowoff : BitVec 7) (s : State) : exec (.ropen rd ra rb h save ht rowoff) s = execRopen rd ra rb h save ht rowoff s := rfl
@[simp] theorem exec_ropenCell (rd : BitVec 6) (ra : BitVec 6) (h : BitVec 4) (save : Bool) (ht : BitVec 4) (s : State) : exec (.ropenCell rd ra h save ht) s = execRopenCell rd ra h save ht s := rfl
@[simp] theorem exec_rrel (rd : BitVec 6) (h : BitVec 4) (s : State) : exec (.rrel rd h) s = execRrel rd h s := rfl
@[simp] theorem exec_rrenew (rd : BitVec 6) (h : BitVec 4) (ht : BitVec 4) (s : State) : exec (.rrenew rd h ht) s = execRrenew rd h ht s := rfl
@[simp] theorem exec_rstat (rd : BitVec 6) (h : BitVec 4) (s : State) : exec (.rstat rd h) s = execRstat rd h s := rfl
@[simp] theorem exec_loop (level : BitVec 2) (cnt : BitVec 12) (r : Bool) (off : BitVec 24) (s : State) : exec (.loop level cnt r off) s = execLoop level cnt r off s := rfl
@[simp] theorem exec_loopi (level : BitVec 2) (cnt : BitVec 12) (r : Bool) (off : BitVec 24) (s : State) : exec (.loopi level cnt r off) s = execLoopi level cnt r off s := rfl
@[simp] theorem exec_loopb (level : BitVec 2) (cnt : BitVec 12) (drain : BitVec 4) (off : BitVec 20) (s : State) : exec (.loopb level cnt drain off) s = execLoopb level cnt drain off s := rfl
@[simp] theorem exec_tkpush (k : BitVec 3) (s : State) : exec (.tkpush k) s = execTkpush k s := rfl
@[simp] theorem exec_tkpop (k : BitVec 3) (s : State) : exec (.tkpop k) s = execTkpop k s := rfl
@[simp] theorem exec_sj (sense : Bool) (p : BitVec 3) (off : BitVec 32) (s : State) : exec (.sj sense p off) s = execSj sense p off s := rfl
@[simp] theorem exec_prset (mask : BitVec 7) (vals : BitVec 7) (s : State) : exec (.prset mask vals) s = execPrset mask vals s := rfl
@[simp] theorem exec_ret (s : State) : exec .ret s = execRet s := rfl
@[simp] theorem exec_specend (s : State) : exec .specend s = execSpecend s := rfl
@[simp] theorem exec_specx (s : State) : exec .specx s = execSpecx s := rfl
@[simp] theorem exec_halt (s : State) : exec .halt s = execHalt s := rfl
@[simp] theorem exec_brk (s : State) : exec .brk s = execBrk s := rfl
@[simp] theorem exec_rte (s : State) : exec .rte s = execRte s := rfl
@[simp] theorem exec_rteSkip (s : State) : exec .rteSkip s = execRteSkip s := rfl
@[simp] theorem exec_lease (s : State) : exec .lease s = execLease s := rfl
@[simp] theorem exec_unlease (s : State) : exec .unlease s = execUnlease s := rfl
@[simp] theorem exec_nop (s : State) : exec .nop s = execNop s := rfl
@[simp] theorem exec_shalt (s : State) : exec .shalt s = execShalt s := rfl
@[simp] theorem exec_specResolve (s : State) : exec .specResolve s = execSpecResolve s := rfl
@[simp] theorem exec_loadReturn (s : State) : exec .loadReturn s = execLoadReturn s := rfl
@[simp] theorem exec_storeAck (s : State) : exec .storeAck s = execStoreAck s := rfl
@[simp] theorem exec_shardRetire (s : State) : exec .shardRetire s = execShardRetire s := rfl
@[simp] theorem exec_wfeTimeout (s : State) : exec .wfeTimeout s = execWfeTimeout s := rfl
@[simp] theorem exec_trapEntry (s : State) : exec .trapEntry s = execTrapEntry s := rfl
@[simp] theorem exec_leaseGrant (s : State) : exec .leaseGrant s = execLeaseGrant s := rfl
@[simp] theorem exec_leaseRunBound (s : State) : exec .leaseRunBound s = execLeaseRunBound s := rfl
@[simp] theorem exec_asBeat (s : State) : exec .asBeat s = execAsBeat s := rfl
@[simp] theorem exec_mCommandStart (s : State) : exec .mCommandStart s = execMCommandStart s := rfl
@[simp] theorem exec_mCommandComplete (s : State) : exec .mCommandComplete s = execMCommandComplete s := rfl
@[simp] theorem exec_xCommandStart (s : State) : exec .xCommandStart s = execXCommandStart s := rfl
@[simp] theorem exec_copyGroupDone (s : State) : exec .copyGroupDone s = execCopyGroupDone s := rfl
@[simp] theorem exec_xCommandComplete (s : State) : exec .xCommandComplete s = execXCommandComplete s := rfl
@[simp] theorem exec_harvestContribution (s : State) : exec .harvestContribution s = execHarvestContribution s := rfl
@[simp] theorem exec_roundFoldDone (s : State) : exec .roundFoldDone s = execRoundFoldDone s := rfl
@[simp] theorem exec_rowOpened (s : State) : exec .rowOpened s = execRowOpened s := rfl
@[simp] theorem exec_holdExpiry (s : State) : exec .holdExpiry s = execHoldExpiry s := rfl
@[simp] theorem exec_holdRevoke (s : State) : exec .holdRevoke s = execHoldRevoke s := rfl
@[simp] theorem exec_queueAccessResume (s : State) : exec .queueAccessResume s = execQueueAccessResume s := rfl
@[simp] theorem exec_fullBitWaitResume (s : State) : exec .fullBitWaitResume s = execFullBitWaitResume s := rfl
@[simp] theorem exec_packetSubmit (s : State) : exec .packetSubmit s = execPacketSubmit s := rfl
@[simp] theorem exec_packetBatch (s : State) : exec .packetBatch s = execPacketBatch s := rfl
@[simp] theorem exec_packetRelease (s : State) : exec .packetRelease s = execPacketRelease s := rfl
@[simp] theorem exec_packetMark (s : State) : exec .packetMark s = execPacketMark s := rfl
@[simp] theorem exec_queueDoorbell (s : State) : exec .queueDoorbell s = execQueueDoorbell s := rfl
@[simp] theorem exec_taskReady (s : State) : exec .taskReady s = execTaskReady s := rfl
@[simp] theorem exec_shardDispatch (s : State) : exec .shardDispatch s = execShardDispatch s := rfl
@[simp] theorem exec_taskComplete (s : State) : exec .taskComplete s = execTaskComplete s := rfl
@[simp] theorem exec_sealReport (s : State) : exec .sealReport s = execSealReport s := rfl
@[simp] theorem exec_replicaDone (s : State) : exec .replicaDone s = execReplicaDone s := rfl
@[simp] theorem exec_parkedFetchDone (s : State) : exec .parkedFetchDone s = execParkedFetchDone s := rfl
@[simp] theorem exec_ageingBoundary (s : State) : exec .ageingBoundary s = execAgeingBoundary s := rfl
@[simp] theorem exec_preempt (s : State) : exec .preempt s = execPreempt s := rfl
@[simp] theorem exec_shardPark (s : State) : exec .shardPark s = execShardPark s := rfl
@[simp] theorem exec_shardDiscard (s : State) : exec .shardDiscard s = execShardDiscard s := rfl
@[simp] theorem exec_shardResume (s : State) : exec .shardResume s = execShardResume s := rfl
@[simp] theorem exec_tlbWalkDone (s : State) : exec .tlbWalkDone s = execTlbWalkDone s := rfl
@[simp] theorem exec_refreshDue (s : State) : exec .refreshDue s = execRefreshDue s := rfl
@[simp] theorem exec_patrolScrub (s : State) : exec .patrolScrub s = execPatrolScrub s := rfl
@[simp] theorem exec_calendarPeriod (s : State) : exec .calendarPeriod s = execCalendarPeriod s := rfl
@[simp] theorem exec_errorDetected (s : State) : exec .errorDetected s = execErrorDetected s := rfl
@[simp] theorem exec_retryOutcome (s : State) : exec .retryOutcome s = execRetryOutcome s := rfl
@[simp] theorem exec_errorRecord (s : State) : exec .errorRecord s = execErrorRecord s := rfl
@[simp] theorem exec_heartbeatPeriod (s : State) : exec .heartbeatPeriod s = execHeartbeatPeriod s := rfl
@[simp] theorem exec_dieLoss (s : State) : exec .dieLoss s = execDieLoss s := rfl
@[simp] theorem exec_quadrantOutOfService (s : State) : exec .quadrantOutOfService s = execQuadrantOutOfService s := rfl
@[simp] theorem exec_unitTestFail (s : State) : exec .unitTestFail s = execUnitTestFail s := rfl
@[simp] theorem exec_laneOutOfService (s : State) : exec .laneOutOfService s = execLaneOutOfService s := rfl
@[simp] theorem exec_channelRetrain (s : State) : exec .channelRetrain s = execChannelRetrain s := rfl
@[simp] theorem exec_channelRetrainDone (s : State) : exec .channelRetrainDone s = execChannelRetrainDone s := rfl
@[simp] theorem exec_versionDestroyed (s : State) : exec .versionDestroyed s = execVersionDestroyed s := rfl
@[simp] theorem exec_rebuild (s : State) : exec .rebuild s = execRebuild s := rfl
@[simp] theorem exec_shardLost (s : State) : exec .shardLost s = execShardLost s := rfl
@[simp] theorem exec_memberLost (s : State) : exec .memberLost s = execMemberLost s := rfl
@[simp] theorem exec_ctxActivate (s : State) : exec .ctxActivate s = execCtxActivate s := rfl
@[simp] theorem exec_ctxTeardown (s : State) : exec .ctxTeardown s = execCtxTeardown s := rfl
@[simp] theorem exec_ctxPark (s : State) : exec .ctxPark s = execCtxPark s := rfl
@[simp] theorem exec_ctxResume (s : State) : exec .ctxResume s = execCtxResume s := rfl
@[simp] theorem exec_ctxHtab (s : State) : exec .ctxHtab s = execCtxHtab s := rfl
@[simp] theorem exec_ctxPub (s : State) : exec .ctxPub s = execCtxPub s := rfl
@[simp] theorem exec_tlbInval (s : State) : exec .tlbInval s = execTlbInval s := rfl
@[simp] theorem exec_shardParkCmd (s : State) : exec .shardParkCmd s = execShardParkCmd s := rfl
@[simp] theorem exec_shardDiscardCmd (s : State) : exec .shardDiscardCmd s = execShardDiscardCmd s := rfl
@[simp] theorem exec_shardResumeCmd (s : State) : exec .shardResumeCmd s = execShardResumeCmd s := rfl
@[simp] theorem exec_debug (s : State) : exec .debug s = execDebug s := rfl
@[simp] theorem exec_keyInstall (s : State) : exec .keyInstall s = execKeyInstall s := rfl
@[simp] theorem exec_keyClear (s : State) : exec .keyClear s = execKeyClear s := rfl
@[simp] theorem exec_attest (s : State) : exec .attest s = execAttest s := rfl
@[simp] theorem exec_ckpt (s : State) : exec .ckpt s = execCkpt s := rfl
@[simp] theorem exec_ckptRestore (s : State) : exec .ckptRestore s = execCkptRestore s := rfl
@[simp] theorem exec_peerSet (s : State) : exec .peerSet s = execPeerSet s := rfl
@[simp] theorem exec_mailboxUnknown (s : State) : exec .mailboxUnknown s = execMailboxUnknown s := rfl
@[simp] theorem exec_devBoot (s : State) : exec .devBoot s = execDevBoot s := rfl
@[simp] theorem exec_bootVerifyDone (s : State) : exec .bootVerifyDone s = execBootVerifyDone s := rfl
@[simp] theorem exec_bootInitDone (s : State) : exec .bootInitDone s = execBootInitDone s := rfl
@[simp] theorem exec_powerOnReset (s : State) : exec .powerOnReset s = execPowerOnReset s := rfl
@[simp] theorem exec_registerWrite (s : State) : exec .registerWrite s = execRegisterWrite s := rfl
@[simp] theorem exec_watchdogExpiry (s : State) : exec .watchdogExpiry s = execWatchdogExpiry s := rfl
@[simp] theorem exec_powerControl (s : State) : exec .powerControl s = execPowerControl s := rfl
@[simp] theorem exec_hostLinkDownTimeout (s : State) : exec .hostLinkDownTimeout s = execHostLinkDownTimeout s := rfl
@[simp] theorem exec_hostBar2Read (s : State) : exec .hostBar2Read s = execHostBar2Read s := rfl
@[simp] theorem exec_hostBar2Write (s : State) : exec .hostBar2Write s = execHostBar2Write s := rfl
@[simp] theorem exec_hostCompletion (s : State) : exec .hostCompletion s = execHostCompletion s := rfl
@[simp] theorem exec_bilotStore (s : State) : exec .bilotStore s = execBilotStore s := rfl
@[simp] theorem exec_bilotLoad (s : State) : exec .bilotLoad s = execBilotLoad s := rfl
@[simp] theorem exec_bilotAtomic (s : State) : exec .bilotAtomic s = execBilotAtomic s := rfl
@[simp] theorem exec_bilotQappend (s : State) : exec .bilotQappend s = execBilotQappend s := rfl
@[simp] theorem exec_bilotHcontrib (s : State) : exec .bilotHcontrib s = execBilotHcontrib s := rfl
@[simp] theorem exec_bilotHresult (s : State) : exec .bilotHresult s = execBilotHresult s := rfl
@[simp] theorem exec_bilotTrepl (s : State) : exec .bilotTrepl s = execBilotTrepl s := rfl
@[simp] theorem exec_bilotReply (s : State) : exec .bilotReply s = execBilotReply s := rfl
@[simp] theorem exec_bilotReplyTimeout (s : State) : exec .bilotReplyTimeout s = execBilotReplyTimeout s := rfl
@[simp] theorem exec_bilotPortDown (s : State) : exec .bilotPortDown s = execBilotPortDown s := rfl
@[simp] theorem exec_hostBar2Atomic (s : State) : exec .hostBar2Atomic s = execHostBar2Atomic s := rfl
@[simp] theorem exec_hostLinkDown (s : State) : exec .hostLinkDown s = execHostLinkDown s := rfl
@[simp] theorem exec_postedWriteLeftPort (s : State) : exec .postedWriteLeftPort s = execPostedWriteLeftPort s := rfl

end Sys2Proof.Machine
end

