-- ==== Sys2Proof/Laws/State.lean ====
section
/-! SUPPORT. One lemma per field per update: what each named update of a state, a core and a stream leaves as it was, and what it writes. Generated from the structures' field lists. -/

namespace Sys2Proof.Machine

/-! ### State.setCore, State.updCore, State.put: the cores alone -/

@[simp] theorem State.setCore_now (s : State) (n : Nat) (c : Core) : (s.setCore n c).now = s.now := rfl
@[simp] theorem State.updCore_now (s : State) (n : Nat) (g : Core → Core) : (s.updCore n g).now = s.now := rfl
@[simp] theorem State.setCore_curCore (s : State) (n : Nat) (c : Core) : (s.setCore n c).curCore = s.curCore := rfl
@[simp] theorem State.updCore_curCore (s : State) (n : Nat) (g : Core → Core) : (s.updCore n g).curCore = s.curCore := rfl
@[simp] theorem State.setCore_curStrm (s : State) (n : Nat) (c : Core) : (s.setCore n c).curStrm = s.curStrm := rfl
@[simp] theorem State.updCore_curStrm (s : State) (n : Nat) (g : Core → Core) : (s.updCore n g).curStrm = s.curStrm := rfl
@[simp] theorem State.setCore_args (s : State) (n : Nat) (c : Core) : (s.setCore n c).args = s.args := rfl
@[simp] theorem State.updCore_args (s : State) (n : Nat) (g : Core → Core) : (s.updCore n g).args = s.args := rfl
@[simp] theorem State.setCore_choice (s : State) (n : Nat) (c : Core) : (s.setCore n c).choice = s.choice := rfl
@[simp] theorem State.updCore_choice (s : State) (n : Nat) (g : Core → Core) : (s.updCore n g).choice = s.choice := rfl
@[simp] theorem State.setCore_agenda (s : State) (n : Nat) (c : Core) : (s.setCore n c).agenda = s.agenda := rfl
@[simp] theorem State.updCore_agenda (s : State) (n : Nat) (g : Core → Core) : (s.updCore n g).agenda = s.agenda := rfl
@[simp] theorem State.setCore_rr (s : State) (n : Nat) (c : Core) : (s.setCore n c).rr = s.rr := rfl
@[simp] theorem State.updCore_rr (s : State) (n : Nat) (g : Core → Core) : (s.updCore n g).rr = s.rr := rfl
@[simp] theorem State.setCore_free (s : State) (n : Nat) (c : Core) : (s.setCore n c).free = s.free := rfl
@[simp] theorem State.updCore_free (s : State) (n : Nat) (g : Core → Core) : (s.updCore n g).free = s.free := rfl
@[simp] theorem State.setCore_uid (s : State) (n : Nat) (c : Core) : (s.setCore n c).uid = s.uid := rfl
@[simp] theorem State.updCore_uid (s : State) (n : Nat) (g : Core → Core) : (s.updCore n g).uid = s.uid := rfl
@[simp] theorem State.setCore_order (s : State) (n : Nat) (c : Core) : (s.setCore n c).order = s.order := rfl
@[simp] theorem State.updCore_order (s : State) (n : Nat) (g : Core → Core) : (s.updCore n g).order = s.order := rfl
@[simp] theorem State.setCore_mem (s : State) (n : Nat) (c : Core) : (s.setCore n c).mem = s.mem := rfl
@[simp] theorem State.updCore_mem (s : State) (n : Nat) (g : Core → Core) : (s.updCore n g).mem = s.mem := rfl
@[simp] theorem State.setCore_sealed_ (s : State) (n : Nat) (c : Core) : (s.setCore n c).sealed_ = s.sealed_ := rfl
@[simp] theorem State.updCore_sealed_ (s : State) (n : Nat) (g : Core → Core) : (s.updCore n g).sealed_ = s.sealed_ := rfl
@[simp] theorem State.setCore_poison (s : State) (n : Nat) (c : Core) : (s.setCore n c).poison = s.poison := rfl
@[simp] theorem State.updCore_poison (s : State) (n : Nat) (g : Core → Core) : (s.updCore n g).poison = s.poison := rfl
@[simp] theorem State.setCore_poisonedBy (s : State) (n : Nat) (c : Core) : (s.setCore n c).poisonedBy = s.poisonedBy := rfl
@[simp] theorem State.updCore_poisonedBy (s : State) (n : Nat) (g : Core → Core) : (s.updCore n g).poisonedBy = s.poisonedBy := rfl
@[simp] theorem State.setCore_sealedBy (s : State) (n : Nat) (c : Core) : (s.setCore n c).sealedBy = s.sealedBy := rfl
@[simp] theorem State.updCore_sealedBy (s : State) (n : Nat) (g : Core → Core) : (s.updCore n g).sealedBy = s.sealedBy := rfl
@[simp] theorem State.setCore_clusters (s : State) (n : Nat) (c : Core) : (s.setCore n c).clusters = s.clusters := rfl
@[simp] theorem State.updCore_clusters (s : State) (n : Nat) (g : Core → Core) : (s.updCore n g).clusters = s.clusters := rfl
@[simp] theorem State.setCore_watched (s : State) (n : Nat) (c : Core) : (s.setCore n c).watched = s.watched := rfl
@[simp] theorem State.updCore_watched (s : State) (n : Nat) (g : Core → Core) : (s.updCore n g).watched = s.watched := rfl
@[simp] theorem State.setCore_regions (s : State) (n : Nat) (c : Core) : (s.setCore n c).regions = s.regions := rfl
@[simp] theorem State.updCore_regions (s : State) (n : Nat) (g : Core → Core) : (s.updCore n g).regions = s.regions := rfl
@[simp] theorem State.setCore_lostMarks (s : State) (n : Nat) (c : Core) : (s.setCore n c).lostMarks = s.lostMarks := rfl
@[simp] theorem State.updCore_lostMarks (s : State) (n : Nat) (g : Core → Core) : (s.updCore n g).lostMarks = s.lostMarks := rfl
@[simp] theorem State.setCore_tbKnows (s : State) (n : Nat) (c : Core) : (s.setCore n c).tbKnows = s.tbKnows := rfl
@[simp] theorem State.updCore_tbKnows (s : State) (n : Nat) (g : Core → Core) : (s.updCore n g).tbKnows = s.tbKnows := rfl
@[simp] theorem State.setCore_strays (s : State) (n : Nat) (c : Core) : (s.setCore n c).strays = s.strays := rfl
@[simp] theorem State.updCore_strays (s : State) (n : Nat) (g : Core → Core) : (s.updCore n g).strays = s.strays := rfl
@[simp] theorem State.setCore_arrays (s : State) (n : Nat) (c : Core) : (s.setCore n c).arrays = s.arrays := rfl
@[simp] theorem State.updCore_arrays (s : State) (n : Nat) (g : Core → Core) : (s.updCore n g).arrays = s.arrays := rfl
@[simp] theorem State.setCore_tasks (s : State) (n : Nat) (c : Core) : (s.setCore n c).tasks = s.tasks := rfl
@[simp] theorem State.updCore_tasks (s : State) (n : Nat) (g : Core → Core) : (s.updCore n g).tasks = s.tasks := rfl
@[simp] theorem State.setCore_parked (s : State) (n : Nat) (c : Core) : (s.setCore n c).parked = s.parked := rfl
@[simp] theorem State.updCore_parked (s : State) (n : Nat) (g : Core → Core) : (s.updCore n g).parked = s.parked := rfl
@[simp] theorem State.setCore_pools (s : State) (n : Nat) (c : Core) : (s.setCore n c).pools = s.pools := rfl
@[simp] theorem State.updCore_pools (s : State) (n : Nat) (g : Core → Core) : (s.updCore n g).pools = s.pools := rfl
@[simp] theorem State.setCore_ctxs (s : State) (n : Nat) (c : Core) : (s.setCore n c).ctxs = s.ctxs := rfl
@[simp] theorem State.updCore_ctxs (s : State) (n : Nat) (g : Core → Core) : (s.updCore n g).ctxs = s.ctxs := rfl
@[simp] theorem State.setCore_versions (s : State) (n : Nat) (c : Core) : (s.setCore n c).versions = s.versions := rfl
@[simp] theorem State.updCore_versions (s : State) (n : Nat) (g : Core → Core) : (s.updCore n g).versions = s.versions := rfl
@[simp] theorem State.setCore_almanac (s : State) (n : Nat) (c : Core) : (s.setCore n c).almanac = s.almanac := rfl
@[simp] theorem State.updCore_almanac (s : State) (n : Nat) (g : Core → Core) : (s.updCore n g).almanac = s.almanac := rfl
@[simp] theorem State.setCore_remap (s : State) (n : Nat) (c : Core) : (s.setCore n c).remap = s.remap := rfl
@[simp] theorem State.updCore_remap (s : State) (n : Nat) (g : Core → Core) : (s.updCore n g).remap = s.remap := rfl
@[simp] theorem State.setCore_seals (s : State) (n : Nat) (c : Core) : (s.setCore n c).seals = s.seals := rfl
@[simp] theorem State.updCore_seals (s : State) (n : Nat) (g : Core → Core) : (s.updCore n g).seals = s.seals := rfl
@[simp] theorem State.setCore_replicas (s : State) (n : Nat) (c : Core) : (s.setCore n c).replicas = s.replicas := rfl
@[simp] theorem State.updCore_replicas (s : State) (n : Nat) (g : Core → Core) : (s.updCore n g).replicas = s.replicas := rfl
@[simp] theorem State.setCore_fetches (s : State) (n : Nat) (c : Core) : (s.setCore n c).fetches = s.fetches := rfl
@[simp] theorem State.updCore_fetches (s : State) (n : Nat) (g : Core → Core) : (s.updCore n g).fetches = s.fetches := rfl
@[simp] theorem State.setCore_groups (s : State) (n : Nat) (c : Core) : (s.setCore n c).groups = s.groups := rfl
@[simp] theorem State.updCore_groups (s : State) (n : Nat) (g : Core → Core) : (s.updCore n g).groups = s.groups := rfl
@[simp] theorem State.setCore_ports (s : State) (n : Nat) (c : Core) : (s.setCore n c).ports = s.ports := rfl
@[simp] theorem State.updCore_ports (s : State) (n : Nat) (g : Core → Core) : (s.updCore n g).ports = s.ports := rfl
@[simp] theorem State.setCore_counters (s : State) (n : Nat) (c : Core) : (s.setCore n c).counters = s.counters := rfl
@[simp] theorem State.updCore_counters (s : State) (n : Nat) (g : Core → Core) : (s.updCore n g).counters = s.counters := rfl
@[simp] theorem State.setCore_correctedAt (s : State) (n : Nat) (c : Core) : (s.setCore n c).correctedAt = s.correctedAt := rfl
@[simp] theorem State.updCore_correctedAt (s : State) (n : Nat) (g : Core → Core) : (s.updCore n g).correctedAt = s.correctedAt := rfl
@[simp] theorem State.setCore_retries (s : State) (n : Nat) (c : Core) : (s.setCore n c).retries = s.retries := rfl
@[simp] theorem State.updCore_retries (s : State) (n : Nat) (g : Core → Core) : (s.updCore n g).retries = s.retries := rfl
@[simp] theorem State.setCore_bus (s : State) (n : Nat) (c : Core) : (s.setCore n c).bus = s.bus := rfl
@[simp] theorem State.updCore_bus (s : State) (n : Nat) (g : Core → Core) : (s.updCore n g).bus = s.bus := rfl
@[simp] theorem State.setCore_errors (s : State) (n : Nat) (c : Core) : (s.setCore n c).errors = s.errors := rfl
@[simp] theorem State.updCore_errors (s : State) (n : Nat) (g : Core → Core) : (s.updCore n g).errors = s.errors := rfl
@[simp] theorem State.setCore_lanes (s : State) (n : Nat) (c : Core) : (s.setCore n c).lanes = s.lanes := rfl
@[simp] theorem State.updCore_lanes (s : State) (n : Nat) (g : Core → Core) : (s.updCore n g).lanes = s.lanes := rfl
@[simp] theorem State.setCore_units (s : State) (n : Nat) (c : Core) : (s.setCore n c).units = s.units := rfl
@[simp] theorem State.updCore_units (s : State) (n : Nat) (g : Core → Core) : (s.updCore n g).units = s.units := rfl
@[simp] theorem State.setCore_devState (s : State) (n : Nat) (c : Core) : (s.setCore n c).devState = s.devState := rfl
@[simp] theorem State.updCore_devState (s : State) (n : Nat) (g : Core → Core) : (s.updCore n g).devState = s.devState := rfl
@[simp] theorem State.setCore_planes (s : State) (n : Nat) (c : Core) : (s.setCore n c).planes = s.planes := rfl
@[simp] theorem State.updCore_planes (s : State) (n : Nat) (g : Core → Core) : (s.updCore n g).planes = s.planes := rfl
@[simp] theorem State.setCore_dies (s : State) (n : Nat) (c : Core) : (s.setCore n c).dies = s.dies := rfl
@[simp] theorem State.updCore_dies (s : State) (n : Nat) (g : Core → Core) : (s.updCore n g).dies = s.dies := rfl
@[simp] theorem State.setCore_fwver (s : State) (n : Nat) (c : Core) : (s.setCore n c).fwver = s.fwver := rfl
@[simp] theorem State.updCore_fwver (s : State) (n : Nat) (g : Core → Core) : (s.updCore n g).fwver = s.fwver := rfl
@[simp] theorem State.setCore_bar2 (s : State) (n : Nat) (c : Core) : (s.setCore n c).bar2 = s.bar2 := rfl
@[simp] theorem State.updCore_bar2 (s : State) (n : Nat) (g : Core → Core) : (s.updCore n g).bar2 = s.bar2 := rfl
@[simp] theorem State.setCore_barBits (s : State) (n : Nat) (c : Core) : (s.setCore n c).barBits = s.barBits := rfl
@[simp] theorem State.updCore_barBits (s : State) (n : Nat) (g : Core → Core) : (s.updCore n g).barBits = s.barBits := rfl
@[simp] theorem State.setCore_ctxt (s : State) (n : Nat) (c : Core) : (s.setCore n c).ctxt = s.ctxt := rfl
@[simp] theorem State.updCore_ctxt (s : State) (n : Nat) (g : Core → Core) : (s.updCore n g).ctxt = s.ctxt := rfl
@[simp] theorem State.setCore_tsb (s : State) (n : Nat) (c : Core) : (s.setCore n c).tsb = s.tsb := rfl
@[simp] theorem State.updCore_tsb (s : State) (n : Nat) (g : Core → Core) : (s.updCore n g).tsb = s.tsb := rfl
@[simp] theorem State.setCore_bootLen (s : State) (n : Nat) (c : Core) : (s.setCore n c).bootLen = s.bootLen := rfl
@[simp] theorem State.updCore_bootLen (s : State) (n : Nat) (g : Core → Core) : (s.updCore n g).bootLen = s.bootLen := rfl
@[simp] theorem State.setCore_bootWin (s : State) (n : Nat) (c : Core) : (s.setCore n c).bootWin = s.bootWin := rfl
@[simp] theorem State.updCore_bootWin (s : State) (n : Nat) (g : Core → Core) : (s.updCore n g).bootWin = s.bootWin := rfl
@[simp] theorem State.setCore_imageHash (s : State) (n : Nat) (c : Core) : (s.setCore n c).imageHash = s.imageHash := rfl
@[simp] theorem State.updCore_imageHash (s : State) (n : Nat) (g : Core → Core) : (s.updCore n g).imageHash = s.imageHash := rfl
@[simp] theorem State.setCore_pwrLimit (s : State) (n : Nat) (c : Core) : (s.setCore n c).pwrLimit = s.pwrLimit := rfl
@[simp] theorem State.updCore_pwrLimit (s : State) (n : Nat) (g : Core → Core) : (s.updCore n g).pwrLimit = s.pwrLimit := rfl
@[simp] theorem State.setCore_pwrNow (s : State) (n : Nat) (c : Core) : (s.setCore n c).pwrNow = s.pwrNow := rfl
@[simp] theorem State.updCore_pwrNow (s : State) (n : Nat) (g : Core → Core) : (s.updCore n g).pwrNow = s.pwrNow := rfl
@[simp] theorem State.setCore_throttle (s : State) (n : Nat) (c : Core) : (s.setCore n c).throttle = s.throttle := rfl
@[simp] theorem State.updCore_throttle (s : State) (n : Nat) (g : Core → Core) : (s.updCore n g).throttle = s.throttle := rfl
@[simp] theorem State.setCore_mailboxes (s : State) (n : Nat) (c : Core) : (s.setCore n c).mailboxes = s.mailboxes := rfl
@[simp] theorem State.updCore_mailboxes (s : State) (n : Nat) (g : Core → Core) : (s.updCore n g).mailboxes = s.mailboxes := rfl
@[simp] theorem State.setCore_commands (s : State) (n : Nat) (c : Core) : (s.setCore n c).commands = s.commands := rfl
@[simp] theorem State.updCore_commands (s : State) (n : Nat) (g : Core → Core) : (s.updCore n g).commands = s.commands := rfl
@[simp] theorem State.setCore_keys (s : State) (n : Nat) (c : Core) : (s.setCore n c).keys = s.keys := rfl
@[simp] theorem State.updCore_keys (s : State) (n : Nat) (g : Core → Core) : (s.updCore n g).keys = s.keys := rfl
@[simp] theorem State.setCore_msix (s : State) (n : Nat) (c : Core) : (s.setCore n c).msix = s.msix := rfl
@[simp] theorem State.updCore_msix (s : State) (n : Nat) (g : Core → Core) : (s.updCore n g).msix = s.msix := rfl
@[simp] theorem State.setCore_host0 (s : State) (n : Nat) (c : Core) : (s.setCore n c).host0 = s.host0 := rfl
@[simp] theorem State.updCore_host0 (s : State) (n : Nat) (g : Core → Core) : (s.updCore n g).host0 = s.host0 := rfl
@[simp] theorem State.setCore_host1 (s : State) (n : Nat) (c : Core) : (s.setCore n c).host1 = s.host1 := rfl
@[simp] theorem State.updCore_host1 (s : State) (n : Nat) (g : Core → Core) : (s.updCore n g).host1 = s.host1 := rfl
@[simp] theorem State.setCore_hostDown (s : State) (n : Nat) (c : Core) : (s.setCore n c).hostDown = s.hostDown := rfl
@[simp] theorem State.updCore_hostDown (s : State) (n : Nat) (g : Core → Core) : (s.updCore n g).hostDown = s.hostDown := rfl
@[simp] theorem State.setCore_hostPassed (s : State) (n : Nat) (c : Core) : (s.setCore n c).hostPassed = s.hostPassed := rfl
@[simp] theorem State.updCore_hostPassed (s : State) (n : Nat) (g : Core → Core) : (s.updCore n g).hostPassed = s.hostPassed := rfl
@[simp] theorem State.setCore_bilotDown (s : State) (n : Nat) (c : Core) : (s.setCore n c).bilotDown = s.bilotDown := rfl
@[simp] theorem State.updCore_bilotDown (s : State) (n : Nat) (g : Core → Core) : (s.updCore n g).bilotDown = s.bilotDown := rfl
@[simp] theorem State.setCore_peerTable (s : State) (n : Nat) (c : Core) : (s.setCore n c).peerTable = s.peerTable := rfl
@[simp] theorem State.updCore_peerTable (s : State) (n : Nat) (g : Core → Core) : (s.updCore n g).peerTable = s.peerTable := rfl
@[simp] theorem State.setCore_sent (s : State) (n : Nat) (c : Core) : (s.setCore n c).sent = s.sent := rfl
@[simp] theorem State.updCore_sent (s : State) (n : Nat) (g : Core → Core) : (s.updCore n g).sent = s.sent := rfl
@[simp] theorem State.setCore_outstanding (s : State) (n : Nat) (c : Core) : (s.setCore n c).outstanding = s.outstanding := rfl
@[simp] theorem State.updCore_outstanding (s : State) (n : Nat) (g : Core → Core) : (s.updCore n g).outstanding = s.outstanding := rfl
@[simp] theorem State.setCore_tag (s : State) (n : Nat) (c : Core) : (s.setCore n c).tag = s.tag := rfl
@[simp] theorem State.updCore_tag (s : State) (n : Nat) (g : Core → Core) : (s.updCore n g).tag = s.tag := rfl
@[simp] theorem State.setCore_reply (s : State) (n : Nat) (c : Core) : (s.setCore n c).reply = s.reply := rfl
@[simp] theorem State.updCore_reply (s : State) (n : Nat) (g : Core → Core) : (s.updCore n g).reply = s.reply := rfl
@[simp] theorem State.setCore_barWaits (s : State) (n : Nat) (c : Core) : (s.setCore n c).barWaits = s.barWaits := rfl
@[simp] theorem State.updCore_barWaits (s : State) (n : Nat) (g : Core → Core) : (s.updCore n g).barWaits = s.barWaits := rfl
@[simp] theorem State.setCore_doorbellsDropped (s : State) (n : Nat) (c : Core) : (s.setCore n c).doorbellsDropped = s.doorbellsDropped := rfl
@[simp] theorem State.updCore_doorbellsDropped (s : State) (n : Nat) (g : Core → Core) : (s.updCore n g).doorbellsDropped = s.doorbellsDropped := rfl
@[simp] theorem State.setCore_served (s : State) (n : Nat) (c : Core) : (s.setCore n c).served = s.served := rfl
@[simp] theorem State.updCore_served (s : State) (n : Nat) (g : Core → Core) : (s.updCore n g).served = s.served := rfl
@[simp] theorem State.setCore_aer (s : State) (n : Nat) (c : Core) : (s.setCore n c).aer = s.aer := rfl
@[simp] theorem State.updCore_aer (s : State) (n : Nat) (g : Core → Core) : (s.updCore n g).aer = s.aer := rfl
@[simp] theorem State.setCore_shelves (s : State) (n : Nat) (c : Core) : (s.setCore n c).shelves = s.shelves := rfl
@[simp] theorem State.updCore_shelves (s : State) (n : Nat) (g : Core → Core) : (s.updCore n g).shelves = s.shelves := rfl
@[simp] theorem State.setCore_ckpts (s : State) (n : Nat) (c : Core) : (s.setCore n c).ckpts = s.ckpts := rfl
@[simp] theorem State.updCore_ckpts (s : State) (n : Nat) (g : Core → Core) : (s.updCore n g).ckpts = s.ckpts := rfl
@[simp] theorem State.setCore_frozen (s : State) (n : Nat) (c : Core) : (s.setCore n c).frozen = s.frozen := rfl
@[simp] theorem State.updCore_frozen (s : State) (n : Nat) (g : Core → Core) : (s.updCore n g).frozen = s.frozen := rfl
@[simp] theorem State.setCore_deviceLost (s : State) (n : Nat) (c : Core) : (s.setCore n c).deviceLost = s.deviceLost := rfl
@[simp] theorem State.updCore_deviceLost (s : State) (n : Nat) (g : Core → Core) : (s.updCore n g).deviceLost = s.deviceLost := rfl
@[simp] theorem State.setCore_cores (s : State) (n : Nat) (c : Core) : (s.setCore n c).cores = Map.put s.cores n c := rfl
@[simp] theorem State.updCore_cores (s : State) (n : Nat) (g : Core → Core) : (s.updCore n g).cores = Map.upd s.cores n g := rfl
/-! ### State.waitOn, State.completeWord, State.branchTo: the stream alone -/

@[simp] theorem State.waitOn_now (s : State) (σ : Strm) (w : Wait) : (s.waitOn σ w).now = s.now := rfl
@[simp] theorem State.completeWord_now (s : State) (σ : Strm) : (s.completeWord σ).now = s.now := rfl
@[simp] theorem State.branchTo_now (s : State) (σ : Strm) (t : Word) : (s.branchTo σ t).now = s.now := rfl
@[simp] theorem State.waitOn_curCore (s : State) (σ : Strm) (w : Wait) : (s.waitOn σ w).curCore = s.curCore := rfl
@[simp] theorem State.completeWord_curCore (s : State) (σ : Strm) : (s.completeWord σ).curCore = s.curCore := rfl
@[simp] theorem State.branchTo_curCore (s : State) (σ : Strm) (t : Word) : (s.branchTo σ t).curCore = s.curCore := rfl
@[simp] theorem State.waitOn_curStrm (s : State) (σ : Strm) (w : Wait) : (s.waitOn σ w).curStrm = s.curStrm := rfl
@[simp] theorem State.completeWord_curStrm (s : State) (σ : Strm) : (s.completeWord σ).curStrm = s.curStrm := rfl
@[simp] theorem State.branchTo_curStrm (s : State) (σ : Strm) (t : Word) : (s.branchTo σ t).curStrm = s.curStrm := rfl
@[simp] theorem State.waitOn_args (s : State) (σ : Strm) (w : Wait) : (s.waitOn σ w).args = s.args := rfl
@[simp] theorem State.completeWord_args (s : State) (σ : Strm) : (s.completeWord σ).args = s.args := rfl
@[simp] theorem State.branchTo_args (s : State) (σ : Strm) (t : Word) : (s.branchTo σ t).args = s.args := rfl
@[simp] theorem State.waitOn_choice (s : State) (σ : Strm) (w : Wait) : (s.waitOn σ w).choice = s.choice := rfl
@[simp] theorem State.completeWord_choice (s : State) (σ : Strm) : (s.completeWord σ).choice = s.choice := rfl
@[simp] theorem State.branchTo_choice (s : State) (σ : Strm) (t : Word) : (s.branchTo σ t).choice = s.choice := rfl
@[simp] theorem State.waitOn_agenda (s : State) (σ : Strm) (w : Wait) : (s.waitOn σ w).agenda = s.agenda := rfl
@[simp] theorem State.completeWord_agenda (s : State) (σ : Strm) : (s.completeWord σ).agenda = s.agenda := rfl
@[simp] theorem State.branchTo_agenda (s : State) (σ : Strm) (t : Word) : (s.branchTo σ t).agenda = s.agenda := rfl
@[simp] theorem State.waitOn_rr (s : State) (σ : Strm) (w : Wait) : (s.waitOn σ w).rr = s.rr := rfl
@[simp] theorem State.completeWord_rr (s : State) (σ : Strm) : (s.completeWord σ).rr = s.rr := rfl
@[simp] theorem State.branchTo_rr (s : State) (σ : Strm) (t : Word) : (s.branchTo σ t).rr = s.rr := rfl
@[simp] theorem State.waitOn_free (s : State) (σ : Strm) (w : Wait) : (s.waitOn σ w).free = s.free := rfl
@[simp] theorem State.completeWord_free (s : State) (σ : Strm) : (s.completeWord σ).free = s.free := rfl
@[simp] theorem State.branchTo_free (s : State) (σ : Strm) (t : Word) : (s.branchTo σ t).free = s.free := rfl
@[simp] theorem State.waitOn_uid (s : State) (σ : Strm) (w : Wait) : (s.waitOn σ w).uid = s.uid := rfl
@[simp] theorem State.completeWord_uid (s : State) (σ : Strm) : (s.completeWord σ).uid = s.uid := rfl
@[simp] theorem State.branchTo_uid (s : State) (σ : Strm) (t : Word) : (s.branchTo σ t).uid = s.uid := rfl
@[simp] theorem State.waitOn_order (s : State) (σ : Strm) (w : Wait) : (s.waitOn σ w).order = s.order := rfl
@[simp] theorem State.completeWord_order (s : State) (σ : Strm) : (s.completeWord σ).order = s.order := rfl
@[simp] theorem State.branchTo_order (s : State) (σ : Strm) (t : Word) : (s.branchTo σ t).order = s.order := rfl
@[simp] theorem State.waitOn_mem (s : State) (σ : Strm) (w : Wait) : (s.waitOn σ w).mem = s.mem := rfl
@[simp] theorem State.completeWord_mem (s : State) (σ : Strm) : (s.completeWord σ).mem = s.mem := rfl
@[simp] theorem State.branchTo_mem (s : State) (σ : Strm) (t : Word) : (s.branchTo σ t).mem = s.mem := rfl
@[simp] theorem State.waitOn_sealed_ (s : State) (σ : Strm) (w : Wait) : (s.waitOn σ w).sealed_ = s.sealed_ := rfl
@[simp] theorem State.completeWord_sealed_ (s : State) (σ : Strm) : (s.completeWord σ).sealed_ = s.sealed_ := rfl
@[simp] theorem State.branchTo_sealed_ (s : State) (σ : Strm) (t : Word) : (s.branchTo σ t).sealed_ = s.sealed_ := rfl
@[simp] theorem State.waitOn_poison (s : State) (σ : Strm) (w : Wait) : (s.waitOn σ w).poison = s.poison := rfl
@[simp] theorem State.completeWord_poison (s : State) (σ : Strm) : (s.completeWord σ).poison = s.poison := rfl
@[simp] theorem State.branchTo_poison (s : State) (σ : Strm) (t : Word) : (s.branchTo σ t).poison = s.poison := rfl
@[simp] theorem State.waitOn_poisonedBy (s : State) (σ : Strm) (w : Wait) : (s.waitOn σ w).poisonedBy = s.poisonedBy := rfl
@[simp] theorem State.completeWord_poisonedBy (s : State) (σ : Strm) : (s.completeWord σ).poisonedBy = s.poisonedBy := rfl
@[simp] theorem State.branchTo_poisonedBy (s : State) (σ : Strm) (t : Word) : (s.branchTo σ t).poisonedBy = s.poisonedBy := rfl
@[simp] theorem State.waitOn_sealedBy (s : State) (σ : Strm) (w : Wait) : (s.waitOn σ w).sealedBy = s.sealedBy := rfl
@[simp] theorem State.completeWord_sealedBy (s : State) (σ : Strm) : (s.completeWord σ).sealedBy = s.sealedBy := rfl
@[simp] theorem State.branchTo_sealedBy (s : State) (σ : Strm) (t : Word) : (s.branchTo σ t).sealedBy = s.sealedBy := rfl
@[simp] theorem State.waitOn_clusters (s : State) (σ : Strm) (w : Wait) : (s.waitOn σ w).clusters = s.clusters := rfl
@[simp] theorem State.completeWord_clusters (s : State) (σ : Strm) : (s.completeWord σ).clusters = s.clusters := rfl
@[simp] theorem State.branchTo_clusters (s : State) (σ : Strm) (t : Word) : (s.branchTo σ t).clusters = s.clusters := rfl
@[simp] theorem State.waitOn_watched (s : State) (σ : Strm) (w : Wait) : (s.waitOn σ w).watched = s.watched := rfl
@[simp] theorem State.completeWord_watched (s : State) (σ : Strm) : (s.completeWord σ).watched = s.watched := rfl
@[simp] theorem State.branchTo_watched (s : State) (σ : Strm) (t : Word) : (s.branchTo σ t).watched = s.watched := rfl
@[simp] theorem State.waitOn_regions (s : State) (σ : Strm) (w : Wait) : (s.waitOn σ w).regions = s.regions := rfl
@[simp] theorem State.completeWord_regions (s : State) (σ : Strm) : (s.completeWord σ).regions = s.regions := rfl
@[simp] theorem State.branchTo_regions (s : State) (σ : Strm) (t : Word) : (s.branchTo σ t).regions = s.regions := rfl
@[simp] theorem State.waitOn_lostMarks (s : State) (σ : Strm) (w : Wait) : (s.waitOn σ w).lostMarks = s.lostMarks := rfl
@[simp] theorem State.completeWord_lostMarks (s : State) (σ : Strm) : (s.completeWord σ).lostMarks = s.lostMarks := rfl
@[simp] theorem State.branchTo_lostMarks (s : State) (σ : Strm) (t : Word) : (s.branchTo σ t).lostMarks = s.lostMarks := rfl
@[simp] theorem State.waitOn_tbKnows (s : State) (σ : Strm) (w : Wait) : (s.waitOn σ w).tbKnows = s.tbKnows := rfl
@[simp] theorem State.completeWord_tbKnows (s : State) (σ : Strm) : (s.completeWord σ).tbKnows = s.tbKnows := rfl
@[simp] theorem State.branchTo_tbKnows (s : State) (σ : Strm) (t : Word) : (s.branchTo σ t).tbKnows = s.tbKnows := rfl
@[simp] theorem State.waitOn_strays (s : State) (σ : Strm) (w : Wait) : (s.waitOn σ w).strays = s.strays := rfl
@[simp] theorem State.completeWord_strays (s : State) (σ : Strm) : (s.completeWord σ).strays = s.strays := rfl
@[simp] theorem State.branchTo_strays (s : State) (σ : Strm) (t : Word) : (s.branchTo σ t).strays = s.strays := rfl
@[simp] theorem State.waitOn_arrays (s : State) (σ : Strm) (w : Wait) : (s.waitOn σ w).arrays = s.arrays := rfl
@[simp] theorem State.completeWord_arrays (s : State) (σ : Strm) : (s.completeWord σ).arrays = s.arrays := rfl
@[simp] theorem State.branchTo_arrays (s : State) (σ : Strm) (t : Word) : (s.branchTo σ t).arrays = s.arrays := rfl
@[simp] theorem State.waitOn_tasks (s : State) (σ : Strm) (w : Wait) : (s.waitOn σ w).tasks = s.tasks := rfl
@[simp] theorem State.completeWord_tasks (s : State) (σ : Strm) : (s.completeWord σ).tasks = s.tasks := rfl
@[simp] theorem State.branchTo_tasks (s : State) (σ : Strm) (t : Word) : (s.branchTo σ t).tasks = s.tasks := rfl
@[simp] theorem State.waitOn_parked (s : State) (σ : Strm) (w : Wait) : (s.waitOn σ w).parked = s.parked := rfl
@[simp] theorem State.completeWord_parked (s : State) (σ : Strm) : (s.completeWord σ).parked = s.parked := rfl
@[simp] theorem State.branchTo_parked (s : State) (σ : Strm) (t : Word) : (s.branchTo σ t).parked = s.parked := rfl
@[simp] theorem State.waitOn_pools (s : State) (σ : Strm) (w : Wait) : (s.waitOn σ w).pools = s.pools := rfl
@[simp] theorem State.completeWord_pools (s : State) (σ : Strm) : (s.completeWord σ).pools = s.pools := rfl
@[simp] theorem State.branchTo_pools (s : State) (σ : Strm) (t : Word) : (s.branchTo σ t).pools = s.pools := rfl
@[simp] theorem State.waitOn_ctxs (s : State) (σ : Strm) (w : Wait) : (s.waitOn σ w).ctxs = s.ctxs := rfl
@[simp] theorem State.completeWord_ctxs (s : State) (σ : Strm) : (s.completeWord σ).ctxs = s.ctxs := rfl
@[simp] theorem State.branchTo_ctxs (s : State) (σ : Strm) (t : Word) : (s.branchTo σ t).ctxs = s.ctxs := rfl
@[simp] theorem State.waitOn_versions (s : State) (σ : Strm) (w : Wait) : (s.waitOn σ w).versions = s.versions := rfl
@[simp] theorem State.completeWord_versions (s : State) (σ : Strm) : (s.completeWord σ).versions = s.versions := rfl
@[simp] theorem State.branchTo_versions (s : State) (σ : Strm) (t : Word) : (s.branchTo σ t).versions = s.versions := rfl
@[simp] theorem State.waitOn_almanac (s : State) (σ : Strm) (w : Wait) : (s.waitOn σ w).almanac = s.almanac := rfl
@[simp] theorem State.completeWord_almanac (s : State) (σ : Strm) : (s.completeWord σ).almanac = s.almanac := rfl
@[simp] theorem State.branchTo_almanac (s : State) (σ : Strm) (t : Word) : (s.branchTo σ t).almanac = s.almanac := rfl
@[simp] theorem State.waitOn_remap (s : State) (σ : Strm) (w : Wait) : (s.waitOn σ w).remap = s.remap := rfl
@[simp] theorem State.completeWord_remap (s : State) (σ : Strm) : (s.completeWord σ).remap = s.remap := rfl
@[simp] theorem State.branchTo_remap (s : State) (σ : Strm) (t : Word) : (s.branchTo σ t).remap = s.remap := rfl
@[simp] theorem State.waitOn_seals (s : State) (σ : Strm) (w : Wait) : (s.waitOn σ w).seals = s.seals := rfl
@[simp] theorem State.completeWord_seals (s : State) (σ : Strm) : (s.completeWord σ).seals = s.seals := rfl
@[simp] theorem State.branchTo_seals (s : State) (σ : Strm) (t : Word) : (s.branchTo σ t).seals = s.seals := rfl
@[simp] theorem State.waitOn_replicas (s : State) (σ : Strm) (w : Wait) : (s.waitOn σ w).replicas = s.replicas := rfl
@[simp] theorem State.completeWord_replicas (s : State) (σ : Strm) : (s.completeWord σ).replicas = s.replicas := rfl
@[simp] theorem State.branchTo_replicas (s : State) (σ : Strm) (t : Word) : (s.branchTo σ t).replicas = s.replicas := rfl
@[simp] theorem State.waitOn_fetches (s : State) (σ : Strm) (w : Wait) : (s.waitOn σ w).fetches = s.fetches := rfl
@[simp] theorem State.completeWord_fetches (s : State) (σ : Strm) : (s.completeWord σ).fetches = s.fetches := rfl
@[simp] theorem State.branchTo_fetches (s : State) (σ : Strm) (t : Word) : (s.branchTo σ t).fetches = s.fetches := rfl
@[simp] theorem State.waitOn_groups (s : State) (σ : Strm) (w : Wait) : (s.waitOn σ w).groups = s.groups := rfl
@[simp] theorem State.completeWord_groups (s : State) (σ : Strm) : (s.completeWord σ).groups = s.groups := rfl
@[simp] theorem State.branchTo_groups (s : State) (σ : Strm) (t : Word) : (s.branchTo σ t).groups = s.groups := rfl
@[simp] theorem State.waitOn_ports (s : State) (σ : Strm) (w : Wait) : (s.waitOn σ w).ports = s.ports := rfl
@[simp] theorem State.completeWord_ports (s : State) (σ : Strm) : (s.completeWord σ).ports = s.ports := rfl
@[simp] theorem State.branchTo_ports (s : State) (σ : Strm) (t : Word) : (s.branchTo σ t).ports = s.ports := rfl
@[simp] theorem State.waitOn_counters (s : State) (σ : Strm) (w : Wait) : (s.waitOn σ w).counters = s.counters := rfl
@[simp] theorem State.completeWord_counters (s : State) (σ : Strm) : (s.completeWord σ).counters = s.counters := rfl
@[simp] theorem State.branchTo_counters (s : State) (σ : Strm) (t : Word) : (s.branchTo σ t).counters = s.counters := rfl
@[simp] theorem State.waitOn_correctedAt (s : State) (σ : Strm) (w : Wait) : (s.waitOn σ w).correctedAt = s.correctedAt := rfl
@[simp] theorem State.completeWord_correctedAt (s : State) (σ : Strm) : (s.completeWord σ).correctedAt = s.correctedAt := rfl
@[simp] theorem State.branchTo_correctedAt (s : State) (σ : Strm) (t : Word) : (s.branchTo σ t).correctedAt = s.correctedAt := rfl
@[simp] theorem State.waitOn_retries (s : State) (σ : Strm) (w : Wait) : (s.waitOn σ w).retries = s.retries := rfl
@[simp] theorem State.completeWord_retries (s : State) (σ : Strm) : (s.completeWord σ).retries = s.retries := rfl
@[simp] theorem State.branchTo_retries (s : State) (σ : Strm) (t : Word) : (s.branchTo σ t).retries = s.retries := rfl
@[simp] theorem State.waitOn_bus (s : State) (σ : Strm) (w : Wait) : (s.waitOn σ w).bus = s.bus := rfl
@[simp] theorem State.completeWord_bus (s : State) (σ : Strm) : (s.completeWord σ).bus = s.bus := rfl
@[simp] theorem State.branchTo_bus (s : State) (σ : Strm) (t : Word) : (s.branchTo σ t).bus = s.bus := rfl
@[simp] theorem State.waitOn_errors (s : State) (σ : Strm) (w : Wait) : (s.waitOn σ w).errors = s.errors := rfl
@[simp] theorem State.completeWord_errors (s : State) (σ : Strm) : (s.completeWord σ).errors = s.errors := rfl
@[simp] theorem State.branchTo_errors (s : State) (σ : Strm) (t : Word) : (s.branchTo σ t).errors = s.errors := rfl
@[simp] theorem State.waitOn_lanes (s : State) (σ : Strm) (w : Wait) : (s.waitOn σ w).lanes = s.lanes := rfl
@[simp] theorem State.completeWord_lanes (s : State) (σ : Strm) : (s.completeWord σ).lanes = s.lanes := rfl
@[simp] theorem State.branchTo_lanes (s : State) (σ : Strm) (t : Word) : (s.branchTo σ t).lanes = s.lanes := rfl
@[simp] theorem State.waitOn_units (s : State) (σ : Strm) (w : Wait) : (s.waitOn σ w).units = s.units := rfl
@[simp] theorem State.completeWord_units (s : State) (σ : Strm) : (s.completeWord σ).units = s.units := rfl
@[simp] theorem State.branchTo_units (s : State) (σ : Strm) (t : Word) : (s.branchTo σ t).units = s.units := rfl
@[simp] theorem State.waitOn_devState (s : State) (σ : Strm) (w : Wait) : (s.waitOn σ w).devState = s.devState := rfl
@[simp] theorem State.completeWord_devState (s : State) (σ : Strm) : (s.completeWord σ).devState = s.devState := rfl
@[simp] theorem State.branchTo_devState (s : State) (σ : Strm) (t : Word) : (s.branchTo σ t).devState = s.devState := rfl
@[simp] theorem State.waitOn_planes (s : State) (σ : Strm) (w : Wait) : (s.waitOn σ w).planes = s.planes := rfl
@[simp] theorem State.completeWord_planes (s : State) (σ : Strm) : (s.completeWord σ).planes = s.planes := rfl
@[simp] theorem State.branchTo_planes (s : State) (σ : Strm) (t : Word) : (s.branchTo σ t).planes = s.planes := rfl
@[simp] theorem State.waitOn_dies (s : State) (σ : Strm) (w : Wait) : (s.waitOn σ w).dies = s.dies := rfl
@[simp] theorem State.completeWord_dies (s : State) (σ : Strm) : (s.completeWord σ).dies = s.dies := rfl
@[simp] theorem State.branchTo_dies (s : State) (σ : Strm) (t : Word) : (s.branchTo σ t).dies = s.dies := rfl
@[simp] theorem State.waitOn_fwver (s : State) (σ : Strm) (w : Wait) : (s.waitOn σ w).fwver = s.fwver := rfl
@[simp] theorem State.completeWord_fwver (s : State) (σ : Strm) : (s.completeWord σ).fwver = s.fwver := rfl
@[simp] theorem State.branchTo_fwver (s : State) (σ : Strm) (t : Word) : (s.branchTo σ t).fwver = s.fwver := rfl
@[simp] theorem State.waitOn_bar2 (s : State) (σ : Strm) (w : Wait) : (s.waitOn σ w).bar2 = s.bar2 := rfl
@[simp] theorem State.completeWord_bar2 (s : State) (σ : Strm) : (s.completeWord σ).bar2 = s.bar2 := rfl
@[simp] theorem State.branchTo_bar2 (s : State) (σ : Strm) (t : Word) : (s.branchTo σ t).bar2 = s.bar2 := rfl
@[simp] theorem State.waitOn_barBits (s : State) (σ : Strm) (w : Wait) : (s.waitOn σ w).barBits = s.barBits := rfl
@[simp] theorem State.completeWord_barBits (s : State) (σ : Strm) : (s.completeWord σ).barBits = s.barBits := rfl
@[simp] theorem State.branchTo_barBits (s : State) (σ : Strm) (t : Word) : (s.branchTo σ t).barBits = s.barBits := rfl
@[simp] theorem State.waitOn_ctxt (s : State) (σ : Strm) (w : Wait) : (s.waitOn σ w).ctxt = s.ctxt := rfl
@[simp] theorem State.completeWord_ctxt (s : State) (σ : Strm) : (s.completeWord σ).ctxt = s.ctxt := rfl
@[simp] theorem State.branchTo_ctxt (s : State) (σ : Strm) (t : Word) : (s.branchTo σ t).ctxt = s.ctxt := rfl
@[simp] theorem State.waitOn_tsb (s : State) (σ : Strm) (w : Wait) : (s.waitOn σ w).tsb = s.tsb := rfl
@[simp] theorem State.completeWord_tsb (s : State) (σ : Strm) : (s.completeWord σ).tsb = s.tsb := rfl
@[simp] theorem State.branchTo_tsb (s : State) (σ : Strm) (t : Word) : (s.branchTo σ t).tsb = s.tsb := rfl
@[simp] theorem State.waitOn_bootLen (s : State) (σ : Strm) (w : Wait) : (s.waitOn σ w).bootLen = s.bootLen := rfl
@[simp] theorem State.completeWord_bootLen (s : State) (σ : Strm) : (s.completeWord σ).bootLen = s.bootLen := rfl
@[simp] theorem State.branchTo_bootLen (s : State) (σ : Strm) (t : Word) : (s.branchTo σ t).bootLen = s.bootLen := rfl
@[simp] theorem State.waitOn_bootWin (s : State) (σ : Strm) (w : Wait) : (s.waitOn σ w).bootWin = s.bootWin := rfl
@[simp] theorem State.completeWord_bootWin (s : State) (σ : Strm) : (s.completeWord σ).bootWin = s.bootWin := rfl
@[simp] theorem State.branchTo_bootWin (s : State) (σ : Strm) (t : Word) : (s.branchTo σ t).bootWin = s.bootWin := rfl
@[simp] theorem State.waitOn_imageHash (s : State) (σ : Strm) (w : Wait) : (s.waitOn σ w).imageHash = s.imageHash := rfl
@[simp] theorem State.completeWord_imageHash (s : State) (σ : Strm) : (s.completeWord σ).imageHash = s.imageHash := rfl
@[simp] theorem State.branchTo_imageHash (s : State) (σ : Strm) (t : Word) : (s.branchTo σ t).imageHash = s.imageHash := rfl
@[simp] theorem State.waitOn_pwrLimit (s : State) (σ : Strm) (w : Wait) : (s.waitOn σ w).pwrLimit = s.pwrLimit := rfl
@[simp] theorem State.completeWord_pwrLimit (s : State) (σ : Strm) : (s.completeWord σ).pwrLimit = s.pwrLimit := rfl
@[simp] theorem State.branchTo_pwrLimit (s : State) (σ : Strm) (t : Word) : (s.branchTo σ t).pwrLimit = s.pwrLimit := rfl
@[simp] theorem State.waitOn_pwrNow (s : State) (σ : Strm) (w : Wait) : (s.waitOn σ w).pwrNow = s.pwrNow := rfl
@[simp] theorem State.completeWord_pwrNow (s : State) (σ : Strm) : (s.completeWord σ).pwrNow = s.pwrNow := rfl
@[simp] theorem State.branchTo_pwrNow (s : State) (σ : Strm) (t : Word) : (s.branchTo σ t).pwrNow = s.pwrNow := rfl
@[simp] theorem State.waitOn_throttle (s : State) (σ : Strm) (w : Wait) : (s.waitOn σ w).throttle = s.throttle := rfl
@[simp] theorem State.completeWord_throttle (s : State) (σ : Strm) : (s.completeWord σ).throttle = s.throttle := rfl
@[simp] theorem State.branchTo_throttle (s : State) (σ : Strm) (t : Word) : (s.branchTo σ t).throttle = s.throttle := rfl
@[simp] theorem State.waitOn_mailboxes (s : State) (σ : Strm) (w : Wait) : (s.waitOn σ w).mailboxes = s.mailboxes := rfl
@[simp] theorem State.completeWord_mailboxes (s : State) (σ : Strm) : (s.completeWord σ).mailboxes = s.mailboxes := rfl
@[simp] theorem State.branchTo_mailboxes (s : State) (σ : Strm) (t : Word) : (s.branchTo σ t).mailboxes = s.mailboxes := rfl
@[simp] theorem State.waitOn_commands (s : State) (σ : Strm) (w : Wait) : (s.waitOn σ w).commands = s.commands := rfl
@[simp] theorem State.completeWord_commands (s : State) (σ : Strm) : (s.completeWord σ).commands = s.commands := rfl
@[simp] theorem State.branchTo_commands (s : State) (σ : Strm) (t : Word) : (s.branchTo σ t).commands = s.commands := rfl
@[simp] theorem State.waitOn_keys (s : State) (σ : Strm) (w : Wait) : (s.waitOn σ w).keys = s.keys := rfl
@[simp] theorem State.completeWord_keys (s : State) (σ : Strm) : (s.completeWord σ).keys = s.keys := rfl
@[simp] theorem State.branchTo_keys (s : State) (σ : Strm) (t : Word) : (s.branchTo σ t).keys = s.keys := rfl
@[simp] theorem State.waitOn_msix (s : State) (σ : Strm) (w : Wait) : (s.waitOn σ w).msix = s.msix := rfl
@[simp] theorem State.completeWord_msix (s : State) (σ : Strm) : (s.completeWord σ).msix = s.msix := rfl
@[simp] theorem State.branchTo_msix (s : State) (σ : Strm) (t : Word) : (s.branchTo σ t).msix = s.msix := rfl
@[simp] theorem State.waitOn_host0 (s : State) (σ : Strm) (w : Wait) : (s.waitOn σ w).host0 = s.host0 := rfl
@[simp] theorem State.completeWord_host0 (s : State) (σ : Strm) : (s.completeWord σ).host0 = s.host0 := rfl
@[simp] theorem State.branchTo_host0 (s : State) (σ : Strm) (t : Word) : (s.branchTo σ t).host0 = s.host0 := rfl
@[simp] theorem State.waitOn_host1 (s : State) (σ : Strm) (w : Wait) : (s.waitOn σ w).host1 = s.host1 := rfl
@[simp] theorem State.completeWord_host1 (s : State) (σ : Strm) : (s.completeWord σ).host1 = s.host1 := rfl
@[simp] theorem State.branchTo_host1 (s : State) (σ : Strm) (t : Word) : (s.branchTo σ t).host1 = s.host1 := rfl
@[simp] theorem State.waitOn_hostDown (s : State) (σ : Strm) (w : Wait) : (s.waitOn σ w).hostDown = s.hostDown := rfl
@[simp] theorem State.completeWord_hostDown (s : State) (σ : Strm) : (s.completeWord σ).hostDown = s.hostDown := rfl
@[simp] theorem State.branchTo_hostDown (s : State) (σ : Strm) (t : Word) : (s.branchTo σ t).hostDown = s.hostDown := rfl
@[simp] theorem State.waitOn_hostPassed (s : State) (σ : Strm) (w : Wait) : (s.waitOn σ w).hostPassed = s.hostPassed := rfl
@[simp] theorem State.completeWord_hostPassed (s : State) (σ : Strm) : (s.completeWord σ).hostPassed = s.hostPassed := rfl
@[simp] theorem State.branchTo_hostPassed (s : State) (σ : Strm) (t : Word) : (s.branchTo σ t).hostPassed = s.hostPassed := rfl
@[simp] theorem State.waitOn_bilotDown (s : State) (σ : Strm) (w : Wait) : (s.waitOn σ w).bilotDown = s.bilotDown := rfl
@[simp] theorem State.completeWord_bilotDown (s : State) (σ : Strm) : (s.completeWord σ).bilotDown = s.bilotDown := rfl
@[simp] theorem State.branchTo_bilotDown (s : State) (σ : Strm) (t : Word) : (s.branchTo σ t).bilotDown = s.bilotDown := rfl
@[simp] theorem State.waitOn_peerTable (s : State) (σ : Strm) (w : Wait) : (s.waitOn σ w).peerTable = s.peerTable := rfl
@[simp] theorem State.completeWord_peerTable (s : State) (σ : Strm) : (s.completeWord σ).peerTable = s.peerTable := rfl
@[simp] theorem State.branchTo_peerTable (s : State) (σ : Strm) (t : Word) : (s.branchTo σ t).peerTable = s.peerTable := rfl
@[simp] theorem State.waitOn_sent (s : State) (σ : Strm) (w : Wait) : (s.waitOn σ w).sent = s.sent := rfl
@[simp] theorem State.completeWord_sent (s : State) (σ : Strm) : (s.completeWord σ).sent = s.sent := rfl
@[simp] theorem State.branchTo_sent (s : State) (σ : Strm) (t : Word) : (s.branchTo σ t).sent = s.sent := rfl
@[simp] theorem State.waitOn_outstanding (s : State) (σ : Strm) (w : Wait) : (s.waitOn σ w).outstanding = s.outstanding := rfl
@[simp] theorem State.completeWord_outstanding (s : State) (σ : Strm) : (s.completeWord σ).outstanding = s.outstanding := rfl
@[simp] theorem State.branchTo_outstanding (s : State) (σ : Strm) (t : Word) : (s.branchTo σ t).outstanding = s.outstanding := rfl
@[simp] theorem State.waitOn_tag (s : State) (σ : Strm) (w : Wait) : (s.waitOn σ w).tag = s.tag := rfl
@[simp] theorem State.completeWord_tag (s : State) (σ : Strm) : (s.completeWord σ).tag = s.tag := rfl
@[simp] theorem State.branchTo_tag (s : State) (σ : Strm) (t : Word) : (s.branchTo σ t).tag = s.tag := rfl
@[simp] theorem State.waitOn_reply (s : State) (σ : Strm) (w : Wait) : (s.waitOn σ w).reply = s.reply := rfl
@[simp] theorem State.completeWord_reply (s : State) (σ : Strm) : (s.completeWord σ).reply = s.reply := rfl
@[simp] theorem State.branchTo_reply (s : State) (σ : Strm) (t : Word) : (s.branchTo σ t).reply = s.reply := rfl
@[simp] theorem State.waitOn_barWaits (s : State) (σ : Strm) (w : Wait) : (s.waitOn σ w).barWaits = s.barWaits := rfl
@[simp] theorem State.completeWord_barWaits (s : State) (σ : Strm) : (s.completeWord σ).barWaits = s.barWaits := rfl
@[simp] theorem State.branchTo_barWaits (s : State) (σ : Strm) (t : Word) : (s.branchTo σ t).barWaits = s.barWaits := rfl
@[simp] theorem State.waitOn_doorbellsDropped (s : State) (σ : Strm) (w : Wait) : (s.waitOn σ w).doorbellsDropped = s.doorbellsDropped := rfl
@[simp] theorem State.completeWord_doorbellsDropped (s : State) (σ : Strm) : (s.completeWord σ).doorbellsDropped = s.doorbellsDropped := rfl
@[simp] theorem State.branchTo_doorbellsDropped (s : State) (σ : Strm) (t : Word) : (s.branchTo σ t).doorbellsDropped = s.doorbellsDropped := rfl
@[simp] theorem State.waitOn_served (s : State) (σ : Strm) (w : Wait) : (s.waitOn σ w).served = s.served := rfl
@[simp] theorem State.completeWord_served (s : State) (σ : Strm) : (s.completeWord σ).served = s.served := rfl
@[simp] theorem State.branchTo_served (s : State) (σ : Strm) (t : Word) : (s.branchTo σ t).served = s.served := rfl
@[simp] theorem State.waitOn_aer (s : State) (σ : Strm) (w : Wait) : (s.waitOn σ w).aer = s.aer := rfl
@[simp] theorem State.completeWord_aer (s : State) (σ : Strm) : (s.completeWord σ).aer = s.aer := rfl
@[simp] theorem State.branchTo_aer (s : State) (σ : Strm) (t : Word) : (s.branchTo σ t).aer = s.aer := rfl
@[simp] theorem State.waitOn_shelves (s : State) (σ : Strm) (w : Wait) : (s.waitOn σ w).shelves = s.shelves := rfl
@[simp] theorem State.completeWord_shelves (s : State) (σ : Strm) : (s.completeWord σ).shelves = s.shelves := rfl
@[simp] theorem State.branchTo_shelves (s : State) (σ : Strm) (t : Word) : (s.branchTo σ t).shelves = s.shelves := rfl
@[simp] theorem State.waitOn_ckpts (s : State) (σ : Strm) (w : Wait) : (s.waitOn σ w).ckpts = s.ckpts := rfl
@[simp] theorem State.completeWord_ckpts (s : State) (σ : Strm) : (s.completeWord σ).ckpts = s.ckpts := rfl
@[simp] theorem State.branchTo_ckpts (s : State) (σ : Strm) (t : Word) : (s.branchTo σ t).ckpts = s.ckpts := rfl
@[simp] theorem State.waitOn_frozen (s : State) (σ : Strm) (w : Wait) : (s.waitOn σ w).frozen = s.frozen := rfl
@[simp] theorem State.completeWord_frozen (s : State) (σ : Strm) : (s.completeWord σ).frozen = s.frozen := rfl
@[simp] theorem State.branchTo_frozen (s : State) (σ : Strm) (t : Word) : (s.branchTo σ t).frozen = s.frozen := rfl
@[simp] theorem State.waitOn_deviceLost (s : State) (σ : Strm) (w : Wait) : (s.waitOn σ w).deviceLost = s.deviceLost := rfl
@[simp] theorem State.completeWord_deviceLost (s : State) (σ : Strm) : (s.completeWord σ).deviceLost = s.deviceLost := rfl
@[simp] theorem State.branchTo_deviceLost (s : State) (σ : Strm) (t : Word) : (s.branchTo σ t).deviceLost = s.deviceLost := rfl
/-! ### Core.setSreg, Core.setAreg, Core.setPending: one register file each -/

@[simp] theorem Core.setSreg_shard (c : Core) (r : BitVec 6) (x : Word) : (c.setSreg r x).shard = c.shard := by unfold Core.setSreg; split <;> rfl
@[simp] theorem Core.setSreg_capacity (c : Core) (r : BitVec 6) (x : Word) : (c.setSreg r x).capacity = c.capacity := by unfold Core.setSreg; split <;> rfl
@[simp] theorem Core.setSreg_inService (c : Core) (r : BitVec 6) (x : Word) : (c.setSreg r x).inService = c.inService := by unfold Core.setSreg; split <;> rfl
@[simp] theorem Core.setSreg_cs (c : Core) (r : BitVec 6) (x : Word) : (c.setSreg r x).cs = c.cs := by unfold Core.setSreg; split <;> rfl
@[simp] theorem Core.setSreg_as (c : Core) (r : BitVec 6) (x : Word) : (c.setSreg r x).as = c.as := by unfold Core.setSreg; split <;> rfl
@[simp] theorem Core.setSreg_vs (c : Core) (r : BitVec 6) (x : Word) : (c.setSreg r x).vs = c.vs := by unfold Core.setSreg; split <;> rfl
@[simp] theorem Core.setSreg_pending (c : Core) (r : BitVec 6) (x : Word) : (c.setSreg r x).pending = c.pending := by unfold Core.setSreg; split <;> rfl
@[simp] theorem Core.setSreg_aregs (c : Core) (r : BitVec 6) (x : Word) : (c.setSreg r x).aregs = c.aregs := by unfold Core.setSreg; split <;> rfl
@[simp] theorem Core.setSreg_gran (c : Core) (r : BitVec 6) (x : Word) : (c.setSreg r x).gran = c.gran := by unfold Core.setSreg; split <;> rfl
@[simp] theorem Core.setSreg_valid (c : Core) (r : BitVec 6) (x : Word) : (c.setSreg r x).valid = c.valid := by unfold Core.setSreg; split <;> rfl
@[simp] theorem Core.setSreg_full (c : Core) (r : BitVec 6) (x : Word) : (c.setSreg r x).full = c.full := by unfold Core.setSreg; split <;> rfl
@[simp] theorem Core.setSreg_granPoison (c : Core) (r : BitVec 6) (x : Word) : (c.setSreg r x).granPoison = c.granPoison := by unfold Core.setSreg; split <;> rfl
@[simp] theorem Core.setSreg_queues (c : Core) (r : BitVec 6) (x : Word) : (c.setSreg r x).queues = c.queues := by unfold Core.setSreg; split <;> rfl
@[simp] theorem Core.setSreg_tokens (c : Core) (r : BitVec 6) (x : Word) : (c.setSreg r x).tokens = c.tokens := by unfold Core.setSreg; split <;> rfl
@[simp] theorem Core.setSreg_barriers (c : Core) (r : BitVec 6) (x : Word) : (c.setSreg r x).barriers = c.barriers := by unfold Core.setSreg; split <;> rfl
@[simp] theorem Core.setSreg_holds (c : Core) (r : BitVec 6) (x : Word) : (c.setSreg r x).holds = c.holds := by unfold Core.setSreg; split <;> rfl
@[simp] theorem Core.setSreg_inbox (c : Core) (r : BitVec 6) (x : Word) : (c.setSreg r x).inbox = c.inbox := by unfold Core.setSreg; split <;> rfl
@[simp] theorem Core.setSreg_acc0 (c : Core) (r : BitVec 6) (x : Word) : (c.setSreg r x).acc0 = c.acc0 := by unfold Core.setSreg; split <;> rfl
@[simp] theorem Core.setSreg_acc1 (c : Core) (r : BitVec 6) (x : Word) : (c.setSreg r x).acc1 = c.acc1 := by unfold Core.setSreg; split <;> rfl
@[simp] theorem Core.setSreg_fmts (c : Core) (r : BitVec 6) (x : Word) : (c.setSreg r x).fmts = c.fmts := by unfold Core.setSreg; split <;> rfl
@[simp] theorem Core.setSreg_mqueue (c : Core) (r : BitVec 6) (x : Word) : (c.setSreg r x).mqueue = c.mqueue := by unfold Core.setSreg; split <;> rfl
@[simp] theorem Core.setSreg_slotted (c : Core) (r : BitVec 6) (x : Word) : (c.setSreg r x).slotted = c.slotted := by unfold Core.setSreg; split <;> rfl
@[simp] theorem Core.setSreg_xqueue (c : Core) (r : BitVec 6) (x : Word) : (c.setSreg r x).xqueue = c.xqueue := by unfold Core.setSreg; split <;> rfl
@[simp] theorem Core.setSreg_viewV (c : Core) (r : BitVec 6) (x : Word) : (c.setSreg r x).viewV = c.viewV := by unfold Core.setSreg; split <;> rfl
@[simp] theorem Core.setSreg_viewW (c : Core) (r : BitVec 6) (x : Word) : (c.setSreg r x).viewW = c.viewW := by unfold Core.setSreg; split <;> rfl
@[simp] theorem Core.setSreg_viewT (c : Core) (r : BitVec 6) (x : Word) : (c.setSreg r x).viewT = c.viewT := by unfold Core.setSreg; split <;> rfl
@[simp] theorem Core.setSreg_cpl (c : Core) (r : BitVec 6) (x : Word) : (c.setSreg r x).cpl = c.cpl := by unfold Core.setSreg; split <;> rfl
@[simp] theorem Core.setSreg_ftz (c : Core) (r : BitVec 6) (x : Word) : (c.setSreg r x).ftz = c.ftz := by unfold Core.setSreg; split <;> rfl
@[simp] theorem Core.setSreg_rnd (c : Core) (r : BitVec 6) (x : Word) : (c.setSreg r x).rnd = c.rnd := by unfold Core.setSreg; split <;> rfl
@[simp] theorem Core.setSreg_vtype (c : Core) (r : BitVec 6) (x : Word) : (c.setSreg r x).vtype = c.vtype := by unfold Core.setSreg; split <;> rfl
@[simp] theorem Core.setSreg_fflags (c : Core) (r : BitVec 6) (x : Word) : (c.setSreg r x).fflags = c.fflags := by unfold Core.setSreg; split <;> rfl
@[simp] theorem Core.setSreg_stackBase (c : Core) (r : BitVec 6) (x : Word) : (c.setSreg r x).stackBase = c.stackBase := by unfold Core.setSreg; split <;> rfl
@[simp] theorem Core.setSreg_stackLimit (c : Core) (r : BitVec 6) (x : Word) : (c.setSreg r x).stackLimit = c.stackLimit := by unfold Core.setSreg; split <;> rfl
@[simp] theorem Core.setSreg_tvec (c : Core) (r : BitVec 6) (x : Word) : (c.setSreg r x).tvec = c.tvec := by unfold Core.setSreg; split <;> rfl
@[simp] theorem Core.setSreg_cause (c : Core) (r : BitVec 6) (x : Word) : (c.setSreg r x).cause = c.cause := by unfold Core.setSreg; split <;> rfl
@[simp] theorem Core.setSreg_tval (c : Core) (r : BitVec 6) (x : Word) : (c.setSreg r x).tval = c.tval := by unfold Core.setSreg; split <;> rfl
@[simp] theorem Core.setSreg_epcC (c : Core) (r : BitVec 6) (x : Word) : (c.setSreg r x).epcC = c.epcC := by unfold Core.setSreg; split <;> rfl
@[simp] theorem Core.setSreg_epcA (c : Core) (r : BitVec 6) (x : Word) : (c.setSreg r x).epcA = c.epcA := by unfold Core.setSreg; split <;> rfl
@[simp] theorem Core.setSreg_epcV (c : Core) (r : BitVec 6) (x : Word) : (c.setSreg r x).epcV = c.epcV := by unfold Core.setSreg; split <;> rfl
@[simp] theorem Core.setSreg_scratch (c : Core) (r : BitVec 6) (x : Word) : (c.setSreg r x).scratch = c.scratch := by unfold Core.setSreg; split <;> rfl
@[simp] theorem Core.setSreg_setas (c : Core) (r : BitVec 6) (x : Word) : (c.setSreg r x).setas = c.setas := by unfold Core.setSreg; split <;> rfl
@[simp] theorem Core.setSreg_savedLoops (c : Core) (r : BitVec 6) (x : Word) : (c.setSreg r x).savedLoops = c.savedLoops := by unfold Core.setSreg; split <;> rfl
@[simp] theorem Core.setSreg_beat (c : Core) (r : BitVec 6) (x : Word) : (c.setSreg r x).beat = c.beat := by unfold Core.setSreg; split <;> rfl
@[simp] theorem Core.setSreg_latches (c : Core) (r : BitVec 6) (x : Word) : (c.setSreg r x).latches = c.latches := by unfold Core.setSreg; split <;> rfl
@[simp] theorem Core.setSreg_spec (c : Core) (r : BitVec 6) (x : Word) : (c.setSreg r x).spec = c.spec := by unfold Core.setSreg; split <;> rfl
@[simp] theorem Core.setSreg_pad (c : Core) (r : BitVec 6) (x : Word) : (c.setSreg r x).pad = c.pad := by unfold Core.setSreg; split <;> rfl
@[simp] theorem Core.setSreg_padPoison (c : Core) (r : BitVec 6) (x : Word) : (c.setSreg r x).padPoison = c.padPoison := by unfold Core.setSreg; split <;> rfl
@[simp] theorem Core.setSreg_dcache (c : Core) (r : BitVec 6) (x : Word) : (c.setSreg r x).dcache = c.dcache := by unfold Core.setSreg; split <;> rfl
@[simp] theorem Core.setSreg_icache (c : Core) (r : BitVec 6) (x : Word) : (c.setSreg r x).icache = c.icache := by unfold Core.setSreg; split <;> rfl
@[simp] theorem Core.setSreg_utlb (c : Core) (r : BitVec 6) (x : Word) : (c.setSreg r x).utlb = c.utlb := by unfold Core.setSreg; split <;> rfl
@[simp] theorem Core.setSreg_walkFails (c : Core) (r : BitVec 6) (x : Word) : (c.setSreg r x).walkFails = c.walkFails := by unfold Core.setSreg; split <;> rfl
@[simp] theorem Core.setSreg_ahead (c : Core) (r : BitVec 6) (x : Word) : (c.setSreg r x).ahead = c.ahead := by unfold Core.setSreg; split <;> rfl
@[simp] theorem Core.setSreg_joined (c : Core) (r : BitVec 6) (x : Word) : (c.setSreg r x).joined = c.joined := by unfold Core.setSreg; split <;> rfl
@[simp] theorem Core.setSreg_heard (c : Core) (r : BitVec 6) (x : Word) : (c.setSreg r x).heard = c.heard := by unfold Core.setSreg; split <;> rfl
@[simp] theorem Core.setSreg_fresh (c : Core) (r : BitVec 6) (x : Word) : (c.setSreg r x).fresh = c.fresh := by unfold Core.setSreg; split <;> rfl
@[simp] theorem Core.setSreg_mfailed (c : Core) (r : BitVec 6) (x : Word) : (c.setSreg r x).mfailed = c.mfailed := by unfold Core.setSreg; split <;> rfl
@[simp] theorem Core.setSreg_barWait (c : Core) (r : BitVec 6) (x : Word) : (c.setSreg r x).barWait = c.barWait := by unfold Core.setSreg; split <;> rfl
@[simp] theorem Core.setSreg_savedBar (c : Core) (r : BitVec 6) (x : Word) : (c.setSreg r x).savedBar = c.savedBar := by unfold Core.setSreg; split <;> rfl
@[simp] theorem Core.setSreg_vrun (c : Core) (r : BitVec 6) (x : Word) : (c.setSreg r x).vrun = c.vrun := by unfold Core.setSreg; split <;> rfl
@[simp] theorem Core.setSreg_lastRun (c : Core) (r : BitVec 6) (x : Word) : (c.setSreg r x).lastRun = c.lastRun := by unfold Core.setSreg; split <;> rfl
@[simp] theorem Core.setSreg_keptFor (c : Core) (r : BitVec 6) (x : Word) : (c.setSreg r x).keptFor = c.keptFor := by unfold Core.setSreg; split <;> rfl
@[simp] theorem Core.setSreg_resuming (c : Core) (r : BitVec 6) (x : Word) : (c.setSreg r x).resuming = c.resuming := by unfold Core.setSreg; split <;> rfl
@[simp] theorem Core.setSreg_ir (c : Core) (r : BitVec 6) (x : Word) : (c.setSreg r x).ir = c.ir := by unfold Core.setSreg; split <;> rfl
@[simp] theorem Core.setAreg_shard (c : Core) (r : BitVec 5) (x : Word) : (c.setAreg r x).shard = c.shard := by unfold Core.setAreg; split <;> rfl
@[simp] theorem Core.setAreg_capacity (c : Core) (r : BitVec 5) (x : Word) : (c.setAreg r x).capacity = c.capacity := by unfold Core.setAreg; split <;> rfl
@[simp] theorem Core.setAreg_inService (c : Core) (r : BitVec 5) (x : Word) : (c.setAreg r x).inService = c.inService := by unfold Core.setAreg; split <;> rfl
@[simp] theorem Core.setAreg_cs (c : Core) (r : BitVec 5) (x : Word) : (c.setAreg r x).cs = c.cs := by unfold Core.setAreg; split <;> rfl
@[simp] theorem Core.setAreg_as (c : Core) (r : BitVec 5) (x : Word) : (c.setAreg r x).as = c.as := by unfold Core.setAreg; split <;> rfl
@[simp] theorem Core.setAreg_vs (c : Core) (r : BitVec 5) (x : Word) : (c.setAreg r x).vs = c.vs := by unfold Core.setAreg; split <;> rfl
@[simp] theorem Core.setAreg_sregs (c : Core) (r : BitVec 5) (x : Word) : (c.setAreg r x).sregs = c.sregs := by unfold Core.setAreg; split <;> rfl
@[simp] theorem Core.setAreg_pending (c : Core) (r : BitVec 5) (x : Word) : (c.setAreg r x).pending = c.pending := by unfold Core.setAreg; split <;> rfl
@[simp] theorem Core.setAreg_gran (c : Core) (r : BitVec 5) (x : Word) : (c.setAreg r x).gran = c.gran := by unfold Core.setAreg; split <;> rfl
@[simp] theorem Core.setAreg_valid (c : Core) (r : BitVec 5) (x : Word) : (c.setAreg r x).valid = c.valid := by unfold Core.setAreg; split <;> rfl
@[simp] theorem Core.setAreg_full (c : Core) (r : BitVec 5) (x : Word) : (c.setAreg r x).full = c.full := by unfold Core.setAreg; split <;> rfl
@[simp] theorem Core.setAreg_granPoison (c : Core) (r : BitVec 5) (x : Word) : (c.setAreg r x).granPoison = c.granPoison := by unfold Core.setAreg; split <;> rfl
@[simp] theorem Core.setAreg_queues (c : Core) (r : BitVec 5) (x : Word) : (c.setAreg r x).queues = c.queues := by unfold Core.setAreg; split <;> rfl
@[simp] theorem Core.setAreg_tokens (c : Core) (r : BitVec 5) (x : Word) : (c.setAreg r x).tokens = c.tokens := by unfold Core.setAreg; split <;> rfl
@[simp] theorem Core.setAreg_barriers (c : Core) (r : BitVec 5) (x : Word) : (c.setAreg r x).barriers = c.barriers := by unfold Core.setAreg; split <;> rfl
@[simp] theorem Core.setAreg_holds (c : Core) (r : BitVec 5) (x : Word) : (c.setAreg r x).holds = c.holds := by unfold Core.setAreg; split <;> rfl
@[simp] theorem Core.setAreg_inbox (c : Core) (r : BitVec 5) (x : Word) : (c.setAreg r x).inbox = c.inbox := by unfold Core.setAreg; split <;> rfl
@[simp] theorem Core.setAreg_acc0 (c : Core) (r : BitVec 5) (x : Word) : (c.setAreg r x).acc0 = c.acc0 := by unfold Core.setAreg; split <;> rfl
@[simp] theorem Core.setAreg_acc1 (c : Core) (r : BitVec 5) (x : Word) : (c.setAreg r x).acc1 = c.acc1 := by unfold Core.setAreg; split <;> rfl
@[simp] theorem Core.setAreg_fmts (c : Core) (r : BitVec 5) (x : Word) : (c.setAreg r x).fmts = c.fmts := by unfold Core.setAreg; split <;> rfl
@[simp] theorem Core.setAreg_mqueue (c : Core) (r : BitVec 5) (x : Word) : (c.setAreg r x).mqueue = c.mqueue := by unfold Core.setAreg; split <;> rfl
@[simp] theorem Core.setAreg_slotted (c : Core) (r : BitVec 5) (x : Word) : (c.setAreg r x).slotted = c.slotted := by unfold Core.setAreg; split <;> rfl
@[simp] theorem Core.setAreg_xqueue (c : Core) (r : BitVec 5) (x : Word) : (c.setAreg r x).xqueue = c.xqueue := by unfold Core.setAreg; split <;> rfl
@[simp] theorem Core.setAreg_viewV (c : Core) (r : BitVec 5) (x : Word) : (c.setAreg r x).viewV = c.viewV := by unfold Core.setAreg; split <;> rfl
@[simp] theorem Core.setAreg_viewW (c : Core) (r : BitVec 5) (x : Word) : (c.setAreg r x).viewW = c.viewW := by unfold Core.setAreg; split <;> rfl
@[simp] theorem Core.setAreg_viewT (c : Core) (r : BitVec 5) (x : Word) : (c.setAreg r x).viewT = c.viewT := by unfold Core.setAreg; split <;> rfl
@[simp] theorem Core.setAreg_cpl (c : Core) (r : BitVec 5) (x : Word) : (c.setAreg r x).cpl = c.cpl := by unfold Core.setAreg; split <;> rfl
@[simp] theorem Core.setAreg_ftz (c : Core) (r : BitVec 5) (x : Word) : (c.setAreg r x).ftz = c.ftz := by unfold Core.setAreg; split <;> rfl
@[simp] theorem Core.setAreg_rnd (c : Core) (r : BitVec 5) (x : Word) : (c.setAreg r x).rnd = c.rnd := by unfold Core.setAreg; split <;> rfl
@[simp] theorem Core.setAreg_vtype (c : Core) (r : BitVec 5) (x : Word) : (c.setAreg r x).vtype = c.vtype := by unfold Core.setAreg; split <;> rfl
@[simp] theorem Core.setAreg_fflags (c : Core) (r : BitVec 5) (x : Word) : (c.setAreg r x).fflags = c.fflags := by unfold Core.setAreg; split <;> rfl
@[simp] theorem Core.setAreg_stackBase (c : Core) (r : BitVec 5) (x : Word) : (c.setAreg r x).stackBase = c.stackBase := by unfold Core.setAreg; split <;> rfl
@[simp] theorem Core.setAreg_stackLimit (c : Core) (r : BitVec 5) (x : Word) : (c.setAreg r x).stackLimit = c.stackLimit := by unfold Core.setAreg; split <;> rfl
@[simp] theorem Core.setAreg_tvec (c : Core) (r : BitVec 5) (x : Word) : (c.setAreg r x).tvec = c.tvec := by unfold Core.setAreg; split <;> rfl
@[simp] theorem Core.setAreg_cause (c : Core) (r : BitVec 5) (x : Word) : (c.setAreg r x).cause = c.cause := by unfold Core.setAreg; split <;> rfl
@[simp] theorem Core.setAreg_tval (c : Core) (r : BitVec 5) (x : Word) : (c.setAreg r x).tval = c.tval := by unfold Core.setAreg; split <;> rfl
@[simp] theorem Core.setAreg_epcC (c : Core) (r : BitVec 5) (x : Word) : (c.setAreg r x).epcC = c.epcC := by unfold Core.setAreg; split <;> rfl
@[simp] theorem Core.setAreg_epcA (c : Core) (r : BitVec 5) (x : Word) : (c.setAreg r x).epcA = c.epcA := by unfold Core.setAreg; split <;> rfl
@[simp] theorem Core.setAreg_epcV (c : Core) (r : BitVec 5) (x : Word) : (c.setAreg r x).epcV = c.epcV := by unfold Core.setAreg; split <;> rfl
@[simp] theorem Core.setAreg_scratch (c : Core) (r : BitVec 5) (x : Word) : (c.setAreg r x).scratch = c.scratch := by unfold Core.setAreg; split <;> rfl
@[simp] theorem Core.setAreg_setas (c : Core) (r : BitVec 5) (x : Word) : (c.setAreg r x).setas = c.setas := by unfold Core.setAreg; split <;> rfl
@[simp] theorem Core.setAreg_savedLoops (c : Core) (r : BitVec 5) (x : Word) : (c.setAreg r x).savedLoops = c.savedLoops := by unfold Core.setAreg; split <;> rfl
@[simp] theorem Core.setAreg_beat (c : Core) (r : BitVec 5) (x : Word) : (c.setAreg r x).beat = c.beat := by unfold Core.setAreg; split <;> rfl
@[simp] theorem Core.setAreg_latches (c : Core) (r : BitVec 5) (x : Word) : (c.setAreg r x).latches = c.latches := by unfold Core.setAreg; split <;> rfl
@[simp] theorem Core.setAreg_spec (c : Core) (r : BitVec 5) (x : Word) : (c.setAreg r x).spec = c.spec := by unfold Core.setAreg; split <;> rfl
@[simp] theorem Core.setAreg_pad (c : Core) (r : BitVec 5) (x : Word) : (c.setAreg r x).pad = c.pad := by unfold Core.setAreg; split <;> rfl
@[simp] theorem Core.setAreg_padPoison (c : Core) (r : BitVec 5) (x : Word) : (c.setAreg r x).padPoison = c.padPoison := by unfold Core.setAreg; split <;> rfl
@[simp] theorem Core.setAreg_dcache (c : Core) (r : BitVec 5) (x : Word) : (c.setAreg r x).dcache = c.dcache := by unfold Core.setAreg; split <;> rfl
@[simp] theorem Core.setAreg_icache (c : Core) (r : BitVec 5) (x : Word) : (c.setAreg r x).icache = c.icache := by unfold Core.setAreg; split <;> rfl
@[simp] theorem Core.setAreg_utlb (c : Core) (r : BitVec 5) (x : Word) : (c.setAreg r x).utlb = c.utlb := by unfold Core.setAreg; split <;> rfl
@[simp] theorem Core.setAreg_walkFails (c : Core) (r : BitVec 5) (x : Word) : (c.setAreg r x).walkFails = c.walkFails := by unfold Core.setAreg; split <;> rfl
@[simp] theorem Core.setAreg_ahead (c : Core) (r : BitVec 5) (x : Word) : (c.setAreg r x).ahead = c.ahead := by unfold Core.setAreg; split <;> rfl
@[simp] theorem Core.setAreg_joined (c : Core) (r : BitVec 5) (x : Word) : (c.setAreg r x).joined = c.joined := by unfold Core.setAreg; split <;> rfl
@[simp] theorem Core.setAreg_heard (c : Core) (r : BitVec 5) (x : Word) : (c.setAreg r x).heard = c.heard := by unfold Core.setAreg; split <;> rfl
@[simp] theorem Core.setAreg_fresh (c : Core) (r : BitVec 5) (x : Word) : (c.setAreg r x).fresh = c.fresh := by unfold Core.setAreg; split <;> rfl
@[simp] theorem Core.setAreg_mfailed (c : Core) (r : BitVec 5) (x : Word) : (c.setAreg r x).mfailed = c.mfailed := by unfold Core.setAreg; split <;> rfl
@[simp] theorem Core.setAreg_barWait (c : Core) (r : BitVec 5) (x : Word) : (c.setAreg r x).barWait = c.barWait := by unfold Core.setAreg; split <;> rfl
@[simp] theorem Core.setAreg_savedBar (c : Core) (r : BitVec 5) (x : Word) : (c.setAreg r x).savedBar = c.savedBar := by unfold Core.setAreg; split <;> rfl
@[simp] theorem Core.setAreg_vrun (c : Core) (r : BitVec 5) (x : Word) : (c.setAreg r x).vrun = c.vrun := by unfold Core.setAreg; split <;> rfl
@[simp] theorem Core.setAreg_lastRun (c : Core) (r : BitVec 5) (x : Word) : (c.setAreg r x).lastRun = c.lastRun := by unfold Core.setAreg; split <;> rfl
@[simp] theorem Core.setAreg_keptFor (c : Core) (r : BitVec 5) (x : Word) : (c.setAreg r x).keptFor = c.keptFor := by unfold Core.setAreg; split <;> rfl
@[simp] theorem Core.setAreg_resuming (c : Core) (r : BitVec 5) (x : Word) : (c.setAreg r x).resuming = c.resuming := by unfold Core.setAreg; split <;> rfl
@[simp] theorem Core.setAreg_ir (c : Core) (r : BitVec 5) (x : Word) : (c.setAreg r x).ir = c.ir := by unfold Core.setAreg; split <;> rfl
@[simp] theorem Core.setPending_shard (c : Core) (r : BitVec 6) : (c.setPending r).shard = c.shard := by unfold Core.setPending; split <;> rfl
@[simp] theorem Core.setPending_capacity (c : Core) (r : BitVec 6) : (c.setPending r).capacity = c.capacity := by unfold Core.setPending; split <;> rfl
@[simp] theorem Core.setPending_inService (c : Core) (r : BitVec 6) : (c.setPending r).inService = c.inService := by unfold Core.setPending; split <;> rfl
@[simp] theorem Core.setPending_cs (c : Core) (r : BitVec 6) : (c.setPending r).cs = c.cs := by unfold Core.setPending; split <;> rfl
@[simp] theorem Core.setPending_as (c : Core) (r : BitVec 6) : (c.setPending r).as = c.as := by unfold Core.setPending; split <;> rfl
@[simp] theorem Core.setPending_vs (c : Core) (r : BitVec 6) : (c.setPending r).vs = c.vs := by unfold Core.setPending; split <;> rfl
@[simp] theorem Core.setPending_sregs (c : Core) (r : BitVec 6) : (c.setPending r).sregs = c.sregs := by unfold Core.setPending; split <;> rfl
@[simp] theorem Core.setPending_aregs (c : Core) (r : BitVec 6) : (c.setPending r).aregs = c.aregs := by unfold Core.setPending; split <;> rfl
@[simp] theorem Core.setPending_gran (c : Core) (r : BitVec 6) : (c.setPending r).gran = c.gran := by unfold Core.setPending; split <;> rfl
@[simp] theorem Core.setPending_valid (c : Core) (r : BitVec 6) : (c.setPending r).valid = c.valid := by unfold Core.setPending; split <;> rfl
@[simp] theorem Core.setPending_full (c : Core) (r : BitVec 6) : (c.setPending r).full = c.full := by unfold Core.setPending; split <;> rfl
@[simp] theorem Core.setPending_granPoison (c : Core) (r : BitVec 6) : (c.setPending r).granPoison = c.granPoison := by unfold Core.setPending; split <;> rfl
@[simp] theorem Core.setPending_queues (c : Core) (r : BitVec 6) : (c.setPending r).queues = c.queues := by unfold Core.setPending; split <;> rfl
@[simp] theorem Core.setPending_tokens (c : Core) (r : BitVec 6) : (c.setPending r).tokens = c.tokens := by unfold Core.setPending; split <;> rfl
@[simp] theorem Core.setPending_barriers (c : Core) (r : BitVec 6) : (c.setPending r).barriers = c.barriers := by unfold Core.setPending; split <;> rfl
@[simp] theorem Core.setPending_holds (c : Core) (r : BitVec 6) : (c.setPending r).holds = c.holds := by unfold Core.setPending; split <;> rfl
@[simp] theorem Core.setPending_inbox (c : Core) (r : BitVec 6) : (c.setPending r).inbox = c.inbox := by unfold Core.setPending; split <;> rfl
@[simp] theorem Core.setPending_acc0 (c : Core) (r : BitVec 6) : (c.setPending r).acc0 = c.acc0 := by unfold Core.setPending; split <;> rfl
@[simp] theorem Core.setPending_acc1 (c : Core) (r : BitVec 6) : (c.setPending r).acc1 = c.acc1 := by unfold Core.setPending; split <;> rfl
@[simp] theorem Core.setPending_fmts (c : Core) (r : BitVec 6) : (c.setPending r).fmts = c.fmts := by unfold Core.setPending; split <;> rfl
@[simp] theorem Core.setPending_mqueue (c : Core) (r : BitVec 6) : (c.setPending r).mqueue = c.mqueue := by unfold Core.setPending; split <;> rfl
@[simp] theorem Core.setPending_slotted (c : Core) (r : BitVec 6) : (c.setPending r).slotted = c.slotted := by unfold Core.setPending; split <;> rfl
@[simp] theorem Core.setPending_xqueue (c : Core) (r : BitVec 6) : (c.setPending r).xqueue = c.xqueue := by unfold Core.setPending; split <;> rfl
@[simp] theorem Core.setPending_viewV (c : Core) (r : BitVec 6) : (c.setPending r).viewV = c.viewV := by unfold Core.setPending; split <;> rfl
@[simp] theorem Core.setPending_viewW (c : Core) (r : BitVec 6) : (c.setPending r).viewW = c.viewW := by unfold Core.setPending; split <;> rfl
@[simp] theorem Core.setPending_viewT (c : Core) (r : BitVec 6) : (c.setPending r).viewT = c.viewT := by unfold Core.setPending; split <;> rfl
@[simp] theorem Core.setPending_cpl (c : Core) (r : BitVec 6) : (c.setPending r).cpl = c.cpl := by unfold Core.setPending; split <;> rfl
@[simp] theorem Core.setPending_ftz (c : Core) (r : BitVec 6) : (c.setPending r).ftz = c.ftz := by unfold Core.setPending; split <;> rfl
@[simp] theorem Core.setPending_rnd (c : Core) (r : BitVec 6) : (c.setPending r).rnd = c.rnd := by unfold Core.setPending; split <;> rfl
@[simp] theorem Core.setPending_vtype (c : Core) (r : BitVec 6) : (c.setPending r).vtype = c.vtype := by unfold Core.setPending; split <;> rfl
@[simp] theorem Core.setPending_fflags (c : Core) (r : BitVec 6) : (c.setPending r).fflags = c.fflags := by unfold Core.setPending; split <;> rfl
@[simp] theorem Core.setPending_stackBase (c : Core) (r : BitVec 6) : (c.setPending r).stackBase = c.stackBase := by unfold Core.setPending; split <;> rfl
@[simp] theorem Core.setPending_stackLimit (c : Core) (r : BitVec 6) : (c.setPending r).stackLimit = c.stackLimit := by unfold Core.setPending; split <;> rfl
@[simp] theorem Core.setPending_tvec (c : Core) (r : BitVec 6) : (c.setPending r).tvec = c.tvec := by unfold Core.setPending; split <;> rfl
@[simp] theorem Core.setPending_cause (c : Core) (r : BitVec 6) : (c.setPending r).cause = c.cause := by unfold Core.setPending; split <;> rfl
@[simp] theorem Core.setPending_tval (c : Core) (r : BitVec 6) : (c.setPending r).tval = c.tval := by unfold Core.setPending; split <;> rfl
@[simp] theorem Core.setPending_epcC (c : Core) (r : BitVec 6) : (c.setPending r).epcC = c.epcC := by unfold Core.setPending; split <;> rfl
@[simp] theorem Core.setPending_epcA (c : Core) (r : BitVec 6) : (c.setPending r).epcA = c.epcA := by unfold Core.setPending; split <;> rfl
@[simp] theorem Core.setPending_epcV (c : Core) (r : BitVec 6) : (c.setPending r).epcV = c.epcV := by unfold Core.setPending; split <;> rfl
@[simp] theorem Core.setPending_scratch (c : Core) (r : BitVec 6) : (c.setPending r).scratch = c.scratch := by unfold Core.setPending; split <;> rfl
@[simp] theorem Core.setPending_setas (c : Core) (r : BitVec 6) : (c.setPending r).setas = c.setas := by unfold Core.setPending; split <;> rfl
@[simp] theorem Core.setPending_savedLoops (c : Core) (r : BitVec 6) : (c.setPending r).savedLoops = c.savedLoops := by unfold Core.setPending; split <;> rfl
@[simp] theorem Core.setPending_beat (c : Core) (r : BitVec 6) : (c.setPending r).beat = c.beat := by unfold Core.setPending; split <;> rfl
@[simp] theorem Core.setPending_latches (c : Core) (r : BitVec 6) : (c.setPending r).latches = c.latches := by unfold Core.setPending; split <;> rfl
@[simp] theorem Core.setPending_spec (c : Core) (r : BitVec 6) : (c.setPending r).spec = c.spec := by unfold Core.setPending; split <;> rfl
@[simp] theorem Core.setPending_pad (c : Core) (r : BitVec 6) : (c.setPending r).pad = c.pad := by unfold Core.setPending; split <;> rfl
@[simp] theorem Core.setPending_padPoison (c : Core) (r : BitVec 6) : (c.setPending r).padPoison = c.padPoison := by unfold Core.setPending; split <;> rfl
@[simp] theorem Core.setPending_dcache (c : Core) (r : BitVec 6) : (c.setPending r).dcache = c.dcache := by unfold Core.setPending; split <;> rfl
@[simp] theorem Core.setPending_icache (c : Core) (r : BitVec 6) : (c.setPending r).icache = c.icache := by unfold Core.setPending; split <;> rfl
@[simp] theorem Core.setPending_utlb (c : Core) (r : BitVec 6) : (c.setPending r).utlb = c.utlb := by unfold Core.setPending; split <;> rfl
@[simp] theorem Core.setPending_walkFails (c : Core) (r : BitVec 6) : (c.setPending r).walkFails = c.walkFails := by unfold Core.setPending; split <;> rfl
@[simp] theorem Core.setPending_ahead (c : Core) (r : BitVec 6) : (c.setPending r).ahead = c.ahead := by unfold Core.setPending; split <;> rfl
@[simp] theorem Core.setPending_joined (c : Core) (r : BitVec 6) : (c.setPending r).joined = c.joined := by unfold Core.setPending; split <;> rfl
@[simp] theorem Core.setPending_heard (c : Core) (r : BitVec 6) : (c.setPending r).heard = c.heard := by unfold Core.setPending; split <;> rfl
@[simp] theorem Core.setPending_fresh (c : Core) (r : BitVec 6) : (c.setPending r).fresh = c.fresh := by unfold Core.setPending; split <;> rfl
@[simp] theorem Core.setPending_mfailed (c : Core) (r : BitVec 6) : (c.setPending r).mfailed = c.mfailed := by unfold Core.setPending; split <;> rfl
@[simp] theorem Core.setPending_barWait (c : Core) (r : BitVec 6) : (c.setPending r).barWait = c.barWait := by unfold Core.setPending; split <;> rfl
@[simp] theorem Core.setPending_savedBar (c : Core) (r : BitVec 6) : (c.setPending r).savedBar = c.savedBar := by unfold Core.setPending; split <;> rfl
@[simp] theorem Core.setPending_vrun (c : Core) (r : BitVec 6) : (c.setPending r).vrun = c.vrun := by unfold Core.setPending; split <;> rfl
@[simp] theorem Core.setPending_lastRun (c : Core) (r : BitVec 6) : (c.setPending r).lastRun = c.lastRun := by unfold Core.setPending; split <;> rfl
@[simp] theorem Core.setPending_keptFor (c : Core) (r : BitVec 6) : (c.setPending r).keptFor = c.keptFor := by unfold Core.setPending; split <;> rfl
@[simp] theorem Core.setPending_resuming (c : Core) (r : BitVec 6) : (c.setPending r).resuming = c.resuming := by unfold Core.setPending; split <;> rfl
@[simp] theorem Core.setPending_ir (c : Core) (r : BitVec 6) : (c.setPending r).ir = c.ir := by unfold Core.setPending; split <;> rfl
/-! ### Core.setStrm, Core.updStrm: one stream -/

@[simp] theorem Core.setStrm_shard (c : Core) (σ : Strm) (t : Stream) : (c.setStrm σ t).shard = c.shard := by cases σ <;> rfl
@[simp] theorem Core.updStrm_shard (c : Core) (σ : Strm) (g : Stream → Stream) : (c.updStrm σ g).shard = c.shard := by cases σ <;> rfl
@[simp] theorem Core.setStrm_capacity (c : Core) (σ : Strm) (t : Stream) : (c.setStrm σ t).capacity = c.capacity := by cases σ <;> rfl
@[simp] theorem Core.updStrm_capacity (c : Core) (σ : Strm) (g : Stream → Stream) : (c.updStrm σ g).capacity = c.capacity := by cases σ <;> rfl
@[simp] theorem Core.setStrm_inService (c : Core) (σ : Strm) (t : Stream) : (c.setStrm σ t).inService = c.inService := by cases σ <;> rfl
@[simp] theorem Core.updStrm_inService (c : Core) (σ : Strm) (g : Stream → Stream) : (c.updStrm σ g).inService = c.inService := by cases σ <;> rfl
@[simp] theorem Core.setStrm_sregs (c : Core) (σ : Strm) (t : Stream) : (c.setStrm σ t).sregs = c.sregs := by cases σ <;> rfl
@[simp] theorem Core.updStrm_sregs (c : Core) (σ : Strm) (g : Stream → Stream) : (c.updStrm σ g).sregs = c.sregs := by cases σ <;> rfl
@[simp] theorem Core.setStrm_pending (c : Core) (σ : Strm) (t : Stream) : (c.setStrm σ t).pending = c.pending := by cases σ <;> rfl
@[simp] theorem Core.updStrm_pending (c : Core) (σ : Strm) (g : Stream → Stream) : (c.updStrm σ g).pending = c.pending := by cases σ <;> rfl
@[simp] theorem Core.setStrm_aregs (c : Core) (σ : Strm) (t : Stream) : (c.setStrm σ t).aregs = c.aregs := by cases σ <;> rfl
@[simp] theorem Core.updStrm_aregs (c : Core) (σ : Strm) (g : Stream → Stream) : (c.updStrm σ g).aregs = c.aregs := by cases σ <;> rfl
@[simp] theorem Core.setStrm_gran (c : Core) (σ : Strm) (t : Stream) : (c.setStrm σ t).gran = c.gran := by cases σ <;> rfl
@[simp] theorem Core.updStrm_gran (c : Core) (σ : Strm) (g : Stream → Stream) : (c.updStrm σ g).gran = c.gran := by cases σ <;> rfl
@[simp] theorem Core.setStrm_valid (c : Core) (σ : Strm) (t : Stream) : (c.setStrm σ t).valid = c.valid := by cases σ <;> rfl
@[simp] theorem Core.updStrm_valid (c : Core) (σ : Strm) (g : Stream → Stream) : (c.updStrm σ g).valid = c.valid := by cases σ <;> rfl
@[simp] theorem Core.setStrm_full (c : Core) (σ : Strm) (t : Stream) : (c.setStrm σ t).full = c.full := by cases σ <;> rfl
@[simp] theorem Core.updStrm_full (c : Core) (σ : Strm) (g : Stream → Stream) : (c.updStrm σ g).full = c.full := by cases σ <;> rfl
@[simp] theorem Core.setStrm_granPoison (c : Core) (σ : Strm) (t : Stream) : (c.setStrm σ t).granPoison = c.granPoison := by cases σ <;> rfl
@[simp] theorem Core.updStrm_granPoison (c : Core) (σ : Strm) (g : Stream → Stream) : (c.updStrm σ g).granPoison = c.granPoison := by cases σ <;> rfl
@[simp] theorem Core.setStrm_queues (c : Core) (σ : Strm) (t : Stream) : (c.setStrm σ t).queues = c.queues := by cases σ <;> rfl
@[simp] theorem Core.updStrm_queues (c : Core) (σ : Strm) (g : Stream → Stream) : (c.updStrm σ g).queues = c.queues := by cases σ <;> rfl
@[simp] theorem Core.setStrm_tokens (c : Core) (σ : Strm) (t : Stream) : (c.setStrm σ t).tokens = c.tokens := by cases σ <;> rfl
@[simp] theorem Core.updStrm_tokens (c : Core) (σ : Strm) (g : Stream → Stream) : (c.updStrm σ g).tokens = c.tokens := by cases σ <;> rfl
@[simp] theorem Core.setStrm_barriers (c : Core) (σ : Strm) (t : Stream) : (c.setStrm σ t).barriers = c.barriers := by cases σ <;> rfl
@[simp] theorem Core.updStrm_barriers (c : Core) (σ : Strm) (g : Stream → Stream) : (c.updStrm σ g).barriers = c.barriers := by cases σ <;> rfl
@[simp] theorem Core.setStrm_holds (c : Core) (σ : Strm) (t : Stream) : (c.setStrm σ t).holds = c.holds := by cases σ <;> rfl
@[simp] theorem Core.updStrm_holds (c : Core) (σ : Strm) (g : Stream → Stream) : (c.updStrm σ g).holds = c.holds := by cases σ <;> rfl
@[simp] theorem Core.setStrm_inbox (c : Core) (σ : Strm) (t : Stream) : (c.setStrm σ t).inbox = c.inbox := by cases σ <;> rfl
@[simp] theorem Core.updStrm_inbox (c : Core) (σ : Strm) (g : Stream → Stream) : (c.updStrm σ g).inbox = c.inbox := by cases σ <;> rfl
@[simp] theorem Core.setStrm_acc0 (c : Core) (σ : Strm) (t : Stream) : (c.setStrm σ t).acc0 = c.acc0 := by cases σ <;> rfl
@[simp] theorem Core.updStrm_acc0 (c : Core) (σ : Strm) (g : Stream → Stream) : (c.updStrm σ g).acc0 = c.acc0 := by cases σ <;> rfl
@[simp] theorem Core.setStrm_acc1 (c : Core) (σ : Strm) (t : Stream) : (c.setStrm σ t).acc1 = c.acc1 := by cases σ <;> rfl
@[simp] theorem Core.updStrm_acc1 (c : Core) (σ : Strm) (g : Stream → Stream) : (c.updStrm σ g).acc1 = c.acc1 := by cases σ <;> rfl
@[simp] theorem Core.setStrm_fmts (c : Core) (σ : Strm) (t : Stream) : (c.setStrm σ t).fmts = c.fmts := by cases σ <;> rfl
@[simp] theorem Core.updStrm_fmts (c : Core) (σ : Strm) (g : Stream → Stream) : (c.updStrm σ g).fmts = c.fmts := by cases σ <;> rfl
@[simp] theorem Core.setStrm_mqueue (c : Core) (σ : Strm) (t : Stream) : (c.setStrm σ t).mqueue = c.mqueue := by cases σ <;> rfl
@[simp] theorem Core.updStrm_mqueue (c : Core) (σ : Strm) (g : Stream → Stream) : (c.updStrm σ g).mqueue = c.mqueue := by cases σ <;> rfl
@[simp] theorem Core.setStrm_slotted (c : Core) (σ : Strm) (t : Stream) : (c.setStrm σ t).slotted = c.slotted := by cases σ <;> rfl
@[simp] theorem Core.updStrm_slotted (c : Core) (σ : Strm) (g : Stream → Stream) : (c.updStrm σ g).slotted = c.slotted := by cases σ <;> rfl
@[simp] theorem Core.setStrm_xqueue (c : Core) (σ : Strm) (t : Stream) : (c.setStrm σ t).xqueue = c.xqueue := by cases σ <;> rfl
@[simp] theorem Core.updStrm_xqueue (c : Core) (σ : Strm) (g : Stream → Stream) : (c.updStrm σ g).xqueue = c.xqueue := by cases σ <;> rfl
@[simp] theorem Core.setStrm_viewV (c : Core) (σ : Strm) (t : Stream) : (c.setStrm σ t).viewV = c.viewV := by cases σ <;> rfl
@[simp] theorem Core.updStrm_viewV (c : Core) (σ : Strm) (g : Stream → Stream) : (c.updStrm σ g).viewV = c.viewV := by cases σ <;> rfl
@[simp] theorem Core.setStrm_viewW (c : Core) (σ : Strm) (t : Stream) : (c.setStrm σ t).viewW = c.viewW := by cases σ <;> rfl
@[simp] theorem Core.updStrm_viewW (c : Core) (σ : Strm) (g : Stream → Stream) : (c.updStrm σ g).viewW = c.viewW := by cases σ <;> rfl
@[simp] theorem Core.setStrm_viewT (c : Core) (σ : Strm) (t : Stream) : (c.setStrm σ t).viewT = c.viewT := by cases σ <;> rfl
@[simp] theorem Core.updStrm_viewT (c : Core) (σ : Strm) (g : Stream → Stream) : (c.updStrm σ g).viewT = c.viewT := by cases σ <;> rfl
@[simp] theorem Core.setStrm_cpl (c : Core) (σ : Strm) (t : Stream) : (c.setStrm σ t).cpl = c.cpl := by cases σ <;> rfl
@[simp] theorem Core.updStrm_cpl (c : Core) (σ : Strm) (g : Stream → Stream) : (c.updStrm σ g).cpl = c.cpl := by cases σ <;> rfl
@[simp] theorem Core.setStrm_ftz (c : Core) (σ : Strm) (t : Stream) : (c.setStrm σ t).ftz = c.ftz := by cases σ <;> rfl
@[simp] theorem Core.updStrm_ftz (c : Core) (σ : Strm) (g : Stream → Stream) : (c.updStrm σ g).ftz = c.ftz := by cases σ <;> rfl
@[simp] theorem Core.setStrm_rnd (c : Core) (σ : Strm) (t : Stream) : (c.setStrm σ t).rnd = c.rnd := by cases σ <;> rfl
@[simp] theorem Core.updStrm_rnd (c : Core) (σ : Strm) (g : Stream → Stream) : (c.updStrm σ g).rnd = c.rnd := by cases σ <;> rfl
@[simp] theorem Core.setStrm_vtype (c : Core) (σ : Strm) (t : Stream) : (c.setStrm σ t).vtype = c.vtype := by cases σ <;> rfl
@[simp] theorem Core.updStrm_vtype (c : Core) (σ : Strm) (g : Stream → Stream) : (c.updStrm σ g).vtype = c.vtype := by cases σ <;> rfl
@[simp] theorem Core.setStrm_fflags (c : Core) (σ : Strm) (t : Stream) : (c.setStrm σ t).fflags = c.fflags := by cases σ <;> rfl
@[simp] theorem Core.updStrm_fflags (c : Core) (σ : Strm) (g : Stream → Stream) : (c.updStrm σ g).fflags = c.fflags := by cases σ <;> rfl
@[simp] theorem Core.setStrm_stackBase (c : Core) (σ : Strm) (t : Stream) : (c.setStrm σ t).stackBase = c.stackBase := by cases σ <;> rfl
@[simp] theorem Core.updStrm_stackBase (c : Core) (σ : Strm) (g : Stream → Stream) : (c.updStrm σ g).stackBase = c.stackBase := by cases σ <;> rfl
@[simp] theorem Core.setStrm_stackLimit (c : Core) (σ : Strm) (t : Stream) : (c.setStrm σ t).stackLimit = c.stackLimit := by cases σ <;> rfl
@[simp] theorem Core.updStrm_stackLimit (c : Core) (σ : Strm) (g : Stream → Stream) : (c.updStrm σ g).stackLimit = c.stackLimit := by cases σ <;> rfl
@[simp] theorem Core.setStrm_tvec (c : Core) (σ : Strm) (t : Stream) : (c.setStrm σ t).tvec = c.tvec := by cases σ <;> rfl
@[simp] theorem Core.updStrm_tvec (c : Core) (σ : Strm) (g : Stream → Stream) : (c.updStrm σ g).tvec = c.tvec := by cases σ <;> rfl
@[simp] theorem Core.setStrm_cause (c : Core) (σ : Strm) (t : Stream) : (c.setStrm σ t).cause = c.cause := by cases σ <;> rfl
@[simp] theorem Core.updStrm_cause (c : Core) (σ : Strm) (g : Stream → Stream) : (c.updStrm σ g).cause = c.cause := by cases σ <;> rfl
@[simp] theorem Core.setStrm_tval (c : Core) (σ : Strm) (t : Stream) : (c.setStrm σ t).tval = c.tval := by cases σ <;> rfl
@[simp] theorem Core.updStrm_tval (c : Core) (σ : Strm) (g : Stream → Stream) : (c.updStrm σ g).tval = c.tval := by cases σ <;> rfl
@[simp] theorem Core.setStrm_epcC (c : Core) (σ : Strm) (t : Stream) : (c.setStrm σ t).epcC = c.epcC := by cases σ <;> rfl
@[simp] theorem Core.updStrm_epcC (c : Core) (σ : Strm) (g : Stream → Stream) : (c.updStrm σ g).epcC = c.epcC := by cases σ <;> rfl
@[simp] theorem Core.setStrm_epcA (c : Core) (σ : Strm) (t : Stream) : (c.setStrm σ t).epcA = c.epcA := by cases σ <;> rfl
@[simp] theorem Core.updStrm_epcA (c : Core) (σ : Strm) (g : Stream → Stream) : (c.updStrm σ g).epcA = c.epcA := by cases σ <;> rfl
@[simp] theorem Core.setStrm_epcV (c : Core) (σ : Strm) (t : Stream) : (c.setStrm σ t).epcV = c.epcV := by cases σ <;> rfl
@[simp] theorem Core.updStrm_epcV (c : Core) (σ : Strm) (g : Stream → Stream) : (c.updStrm σ g).epcV = c.epcV := by cases σ <;> rfl
@[simp] theorem Core.setStrm_scratch (c : Core) (σ : Strm) (t : Stream) : (c.setStrm σ t).scratch = c.scratch := by cases σ <;> rfl
@[simp] theorem Core.updStrm_scratch (c : Core) (σ : Strm) (g : Stream → Stream) : (c.updStrm σ g).scratch = c.scratch := by cases σ <;> rfl
@[simp] theorem Core.setStrm_setas (c : Core) (σ : Strm) (t : Stream) : (c.setStrm σ t).setas = c.setas := by cases σ <;> rfl
@[simp] theorem Core.updStrm_setas (c : Core) (σ : Strm) (g : Stream → Stream) : (c.updStrm σ g).setas = c.setas := by cases σ <;> rfl
@[simp] theorem Core.setStrm_savedLoops (c : Core) (σ : Strm) (t : Stream) : (c.setStrm σ t).savedLoops = c.savedLoops := by cases σ <;> rfl
@[simp] theorem Core.updStrm_savedLoops (c : Core) (σ : Strm) (g : Stream → Stream) : (c.updStrm σ g).savedLoops = c.savedLoops := by cases σ <;> rfl
@[simp] theorem Core.setStrm_beat (c : Core) (σ : Strm) (t : Stream) : (c.setStrm σ t).beat = c.beat := by cases σ <;> rfl
@[simp] theorem Core.updStrm_beat (c : Core) (σ : Strm) (g : Stream → Stream) : (c.updStrm σ g).beat = c.beat := by cases σ <;> rfl
@[simp] theorem Core.setStrm_latches (c : Core) (σ : Strm) (t : Stream) : (c.setStrm σ t).latches = c.latches := by cases σ <;> rfl
@[simp] theorem Core.updStrm_latches (c : Core) (σ : Strm) (g : Stream → Stream) : (c.updStrm σ g).latches = c.latches := by cases σ <;> rfl
@[simp] theorem Core.setStrm_spec (c : Core) (σ : Strm) (t : Stream) : (c.setStrm σ t).spec = c.spec := by cases σ <;> rfl
@[simp] theorem Core.updStrm_spec (c : Core) (σ : Strm) (g : Stream → Stream) : (c.updStrm σ g).spec = c.spec := by cases σ <;> rfl
@[simp] theorem Core.setStrm_pad (c : Core) (σ : Strm) (t : Stream) : (c.setStrm σ t).pad = c.pad := by cases σ <;> rfl
@[simp] theorem Core.updStrm_pad (c : Core) (σ : Strm) (g : Stream → Stream) : (c.updStrm σ g).pad = c.pad := by cases σ <;> rfl
@[simp] theorem Core.setStrm_padPoison (c : Core) (σ : Strm) (t : Stream) : (c.setStrm σ t).padPoison = c.padPoison := by cases σ <;> rfl
@[simp] theorem Core.updStrm_padPoison (c : Core) (σ : Strm) (g : Stream → Stream) : (c.updStrm σ g).padPoison = c.padPoison := by cases σ <;> rfl
@[simp] theorem Core.setStrm_dcache (c : Core) (σ : Strm) (t : Stream) : (c.setStrm σ t).dcache = c.dcache := by cases σ <;> rfl
@[simp] theorem Core.updStrm_dcache (c : Core) (σ : Strm) (g : Stream → Stream) : (c.updStrm σ g).dcache = c.dcache := by cases σ <;> rfl
@[simp] theorem Core.setStrm_icache (c : Core) (σ : Strm) (t : Stream) : (c.setStrm σ t).icache = c.icache := by cases σ <;> rfl
@[simp] theorem Core.updStrm_icache (c : Core) (σ : Strm) (g : Stream → Stream) : (c.updStrm σ g).icache = c.icache := by cases σ <;> rfl
@[simp] theorem Core.setStrm_utlb (c : Core) (σ : Strm) (t : Stream) : (c.setStrm σ t).utlb = c.utlb := by cases σ <;> rfl
@[simp] theorem Core.updStrm_utlb (c : Core) (σ : Strm) (g : Stream → Stream) : (c.updStrm σ g).utlb = c.utlb := by cases σ <;> rfl
@[simp] theorem Core.setStrm_walkFails (c : Core) (σ : Strm) (t : Stream) : (c.setStrm σ t).walkFails = c.walkFails := by cases σ <;> rfl
@[simp] theorem Core.updStrm_walkFails (c : Core) (σ : Strm) (g : Stream → Stream) : (c.updStrm σ g).walkFails = c.walkFails := by cases σ <;> rfl
@[simp] theorem Core.setStrm_ahead (c : Core) (σ : Strm) (t : Stream) : (c.setStrm σ t).ahead = c.ahead := by cases σ <;> rfl
@[simp] theorem Core.updStrm_ahead (c : Core) (σ : Strm) (g : Stream → Stream) : (c.updStrm σ g).ahead = c.ahead := by cases σ <;> rfl
@[simp] theorem Core.setStrm_joined (c : Core) (σ : Strm) (t : Stream) : (c.setStrm σ t).joined = c.joined := by cases σ <;> rfl
@[simp] theorem Core.updStrm_joined (c : Core) (σ : Strm) (g : Stream → Stream) : (c.updStrm σ g).joined = c.joined := by cases σ <;> rfl
@[simp] theorem Core.setStrm_heard (c : Core) (σ : Strm) (t : Stream) : (c.setStrm σ t).heard = c.heard := by cases σ <;> rfl
@[simp] theorem Core.updStrm_heard (c : Core) (σ : Strm) (g : Stream → Stream) : (c.updStrm σ g).heard = c.heard := by cases σ <;> rfl
@[simp] theorem Core.setStrm_fresh (c : Core) (σ : Strm) (t : Stream) : (c.setStrm σ t).fresh = c.fresh := by cases σ <;> rfl
@[simp] theorem Core.updStrm_fresh (c : Core) (σ : Strm) (g : Stream → Stream) : (c.updStrm σ g).fresh = c.fresh := by cases σ <;> rfl
@[simp] theorem Core.setStrm_mfailed (c : Core) (σ : Strm) (t : Stream) : (c.setStrm σ t).mfailed = c.mfailed := by cases σ <;> rfl
@[simp] theorem Core.updStrm_mfailed (c : Core) (σ : Strm) (g : Stream → Stream) : (c.updStrm σ g).mfailed = c.mfailed := by cases σ <;> rfl
@[simp] theorem Core.setStrm_barWait (c : Core) (σ : Strm) (t : Stream) : (c.setStrm σ t).barWait = c.barWait := by cases σ <;> rfl
@[simp] theorem Core.updStrm_barWait (c : Core) (σ : Strm) (g : Stream → Stream) : (c.updStrm σ g).barWait = c.barWait := by cases σ <;> rfl
@[simp] theorem Core.setStrm_savedBar (c : Core) (σ : Strm) (t : Stream) : (c.setStrm σ t).savedBar = c.savedBar := by cases σ <;> rfl
@[simp] theorem Core.updStrm_savedBar (c : Core) (σ : Strm) (g : Stream → Stream) : (c.updStrm σ g).savedBar = c.savedBar := by cases σ <;> rfl
@[simp] theorem Core.setStrm_vrun (c : Core) (σ : Strm) (t : Stream) : (c.setStrm σ t).vrun = c.vrun := by cases σ <;> rfl
@[simp] theorem Core.updStrm_vrun (c : Core) (σ : Strm) (g : Stream → Stream) : (c.updStrm σ g).vrun = c.vrun := by cases σ <;> rfl
@[simp] theorem Core.setStrm_lastRun (c : Core) (σ : Strm) (t : Stream) : (c.setStrm σ t).lastRun = c.lastRun := by cases σ <;> rfl
@[simp] theorem Core.updStrm_lastRun (c : Core) (σ : Strm) (g : Stream → Stream) : (c.updStrm σ g).lastRun = c.lastRun := by cases σ <;> rfl
@[simp] theorem Core.setStrm_keptFor (c : Core) (σ : Strm) (t : Stream) : (c.setStrm σ t).keptFor = c.keptFor := by cases σ <;> rfl
@[simp] theorem Core.updStrm_keptFor (c : Core) (σ : Strm) (g : Stream → Stream) : (c.updStrm σ g).keptFor = c.keptFor := by cases σ <;> rfl
@[simp] theorem Core.setStrm_resuming (c : Core) (σ : Strm) (t : Stream) : (c.setStrm σ t).resuming = c.resuming := by cases σ <;> rfl
@[simp] theorem Core.updStrm_resuming (c : Core) (σ : Strm) (g : Stream → Stream) : (c.updStrm σ g).resuming = c.resuming := by cases σ <;> rfl
@[simp] theorem Core.setStrm_ir (c : Core) (σ : Strm) (t : Stream) : (c.setStrm σ t).ir = c.ir := by cases σ <;> rfl
@[simp] theorem Core.updStrm_ir (c : Core) (σ : Strm) (g : Stream → Stream) : (c.updStrm σ g).ir = c.ir := by cases σ <;> rfl
@[simp] theorem Core.strm_setStrm (c : Core) (σ : Strm) (t : Stream) : (c.setStrm σ t).strm σ = t := by cases σ <;> rfl
@[simp] theorem Core.strm_updStrm (c : Core) (σ : Strm) (g : Stream → Stream) : (c.updStrm σ g).strm σ = g (c.strm σ) := by cases σ <;> rfl
theorem Core.strm_setStrm_ne (c : Core) {σ τ : Strm} (t : Stream) (h : τ ≠ σ) : (c.setStrm σ t).strm τ = c.strm τ := by
  cases σ <;> cases τ <;> simp_all [Core.setStrm, Core.strm]
theorem Core.strm_updStrm_ne (c : Core) {σ τ : Strm} (g : Stream → Stream) (h : τ ≠ σ) : (c.updStrm σ g).strm τ = c.strm τ :=
  Core.strm_setStrm_ne c _ h

/-! ### Stream.complete, Stream.branch, Stream.count: the position alone -/

@[simp] theorem Stream.count_pc (t : Stream) : t.count.pc = t.pc := rfl
@[simp] theorem Stream.complete_halted (t : Stream) (a : Word) : (t.complete a).halted = t.halted := rfl
@[simp] theorem Stream.branch_halted (t : Stream) (a : Word) : (t.branch a).halted = t.halted := rfl
@[simp] theorem Stream.count_halted (t : Stream) : t.count.halted = t.halted := rfl
@[simp] theorem Stream.branch_pred (t : Stream) (a : Word) : (t.branch a).pred = t.pred := rfl
@[simp] theorem Stream.count_pred (t : Stream) : t.count.pred = t.pred := rfl
@[simp] theorem Stream.count_loops (t : Stream) : t.count.loops = t.loops := rfl
@[simp] theorem Stream.complete_instret (t : Stream) (a : Word) : (t.complete a).instret = t.instret := rfl
@[simp] theorem Stream.branch_instret (t : Stream) (a : Word) : (t.branch a).instret = t.instret := rfl
@[simp] theorem Stream.complete_rep (t : Stream) (a : Word) : (t.complete a).rep = t.rep := rfl
@[simp] theorem Stream.branch_rep (t : Stream) (a : Word) : (t.branch a).rep = t.rep := rfl
@[simp] theorem Stream.count_rep (t : Stream) : t.count.rep = t.rep := rfl
@[simp] theorem Stream.count_wait (t : Stream) : t.count.wait = t.wait := rfl
@[simp] theorem Stream.complete_flight (t : Stream) (a : Word) : (t.complete a).flight = t.flight := rfl
@[simp] theorem Stream.branch_flight (t : Stream) (a : Word) : (t.branch a).flight = t.flight := rfl
@[simp] theorem Stream.count_flight (t : Stream) : t.count.flight = t.flight := rfl
@[simp] theorem Stream.complete_wait (t : Stream) (a : Word) : (t.complete a).wait = .none := rfl
@[simp] theorem Stream.branch_wait (t : Stream) (a : Word) : (t.branch a).wait = .none := rfl
@[simp] theorem Stream.branch_pc (t : Stream) (a : Word) : (t.branch a).pc = a := rfl
@[simp] theorem Stream.count_instret (t : Stream) : t.count.instret = t.instret + 1 := rfl

end Sys2Proof.Machine
end

