-- ==== Sys2Proof/Laws/Words.lean ====
section
/-! SUPPORT. What a word does, once for every word: the frame of `runOn`, the wait on pending registers, and how an outcome is settled. -/

namespace Sys2Proof.Machine

/-! ### Running a word -/

/-- A word of a stream runs with the core and the shard it finds. -/
theorem runOn_eq {s : State} {σ : Strm} {c : Core} {sh : Shard} (m : Core → Shard → Res) (hc : s.core? s.curCore = some c)
    (hs : c.shard = some sh) (hr : σ = .c → c.resolvable = false) : runOn σ s m = s.settle σ c sh (m c sh) := by
  unfold runOn
  rw [hc]
  dsimp only
  rw [hs]
  dsimp only
  rw [if_neg (by rintro ⟨h, h'⟩; rw [hr h] at h'; exact Bool.noConfusion h')]

/-- A C-stream word that waits for the resolution of a speculation runs with none open. -/
theorem runC_eq {s : State} {c : Core} {sh : Shard} (m : Core → Shard → Res) (hc : s.core? s.curCore = some c)
    (hs : c.shard = some sh) (hn : c.spec = none) : runC s m = s.settle .c c sh (m c sh) := by
  rw [runC, runOn_eq _ hc hs (fun _ => by simp [Core.resolvable, hn])]
  simp [Core.speculating, hn]

/-- A word on a core that runs no shard is refused. -/
theorem runOn_refused {s : State} {σ : Strm} (m : Core → Shard → Res) (h : (s.core? s.curCore).bind Core.shard = none) :
    runOn σ s m = .refused .noShard := by
  unfold runOn
  cases hc : s.core? s.curCore with
  | none => rfl
  | some c => rw [hc] at h; simp only [Option.bind_some] at h; simp [h]

/-- A word that runs always answers a next state. -/
theorem settle_next (s : State) (σ : Strm) (c : Core) (sh : Shard) (r : Res) : ∃ t, s.settle σ c sh r = .next t := by
  cases r <;> simp only [State.settle] <;> first | exact ⟨_, rfl⟩ | (split <;> exact ⟨_, rfl⟩)

/-- A word of a running shard always answers a next state: it completes, branches, waits, traps or stops its shard. -/
theorem runOn_next {s : State} {σ : Strm} {c : Core} {sh : Shard} (m : Core → Shard → Res) (hc : s.core? s.curCore = some c)
    (hs : c.shard = some sh) : ∃ t, runOn σ s m = .next t := by
  simp only [runOn, hc, hs]
  exact settle_next ..

/-- With no listed register pending, a word goes on. -/
theorem Core.ready_eq {c : Core} {l : List (BitVec 6)} (s : State) (r : Res) (h : ∀ x ∈ l, c.isPending x = false) : c.ready s l r = r := by
  have : c.pendingOf l = none := by simpa [Core.pendingOf] using h
  simp [Core.ready, this]

/-- A listed register that is pending makes the word wait for the first such; a completion value that nothing has read yet is acquired first, and the word is tried again. -/
theorem Core.ready_waits {c : Core} {l : List (BitVec 6)} (s : State) (r : Res) {x : BitVec 6} (hx : x ∈ l) (hp : c.isPending x = true) :
    ∃ k, c.ready s l r = if c.pending.contains k then .wait s (.reg k) else .wait (s.firstRead k) .none := by
  unfold Core.ready Core.pendingOf
  cases h : l.find? c.isPending with
  | some y => exact ⟨y.toNat, rfl⟩
  | none => have := List.find?_eq_none.1 h x hx; simp [hp] at this

/-! ### Settling -/

@[simp] theorem settle_done (s s' : State) (σ : Strm) (c : Core) (sh : Shard) : s.settle σ c sh (.done s') = .next (s'.completeWord σ) := rfl
@[simp] theorem settle_whole (s s' : State) (σ : Strm) (c : Core) (sh : Shard) : s.settle σ c sh (.whole s') = .next s' := rfl
@[simp] theorem settle_wait (s s' : State) (σ : Strm) (c : Core) (sh : Shard) (w : Wait) : s.settle σ c sh (.wait s' w) = .next (s'.waitOn σ w) := rfl
@[simp] theorem settle_trap (s : State) (σ : Strm) (c : Core) (sh : Shard) (k : BitVec 8) (t : Word) :
    s.settle σ c sh (.trap k t) = .next (s.trapWord σ c k t) := rfl
theorem settle_goto (s s' : State) (σ : Strm) (c : Core) (sh : Shard) (t : Word) (h : validPc sh t = true) :
    s.settle σ c sh (.goto s' t) = .next (s'.branchTo σ t) := by simp [State.settle, h]

/-! ### Cores of a state -/

@[simp] theorem State.core?_setCore (s : State) (n : Nat) (c : Core) : (s.setCore n c).core? n = some c := by simp [State.core?, State.setCore]
theorem State.core?_setCore_ne (s : State) {m n : Nat} (c : Core) (h : m ≠ n) : (s.setCore n c).core? m = s.core? m := by
  simp [State.core?, State.setCore, Map.look_put_ne _ _ h]
@[simp] theorem State.core?_updCore (s : State) (n : Nat) (f : Core → Core) : (s.updCore n f).core? n = (s.core? n).map f := by
  simp [State.core?, State.updCore]
theorem State.core?_updCore_ne (s : State) {m n : Nat} (f : Core → Core) (h : m ≠ n) : (s.updCore n f).core? m = s.core? m := by
  simp [State.core?, State.updCore, Map.look_upd_ne _ _ h]
@[simp] theorem State.setCore_setCore (s : State) (n : Nat) (c d : Core) : (s.setCore n c).setCore n d = s.setCore n d := by
  simp [State.setCore]
@[simp] theorem State.updCore_setCore (s : State) (n : Nat) (c : Core) (f : Core → Core) : (s.setCore n c).updCore n f = s.setCore n (f c) := by
  simp [State.setCore, State.updCore]
theorem State.updCore_of_core? {s : State} {n : Nat} {c : Core} (h : s.core? n = some c) (f : Core → Core) : s.updCore n f = s.setCore n (f c) := by
  simp only [State.updCore, State.setCore, Map.upd_of_look h]

/-- Completing a word behind the write-back of its core. -/
theorem State.completeWord_put (s : State) (c : Core) (σ : Strm) :
    (s.put c).completeWord σ = s.setCore s.curCore (c.updStrm σ fun t => (t.complete t.pc).count) := by
  simp [State.completeWord, State.put]

/-- Completing a word that changes nothing else. -/
theorem State.completeWord_of_core? {s : State} {c : Core} (h : s.core? s.curCore = some c) (σ : Strm) :
    s.completeWord σ = s.setCore s.curCore (c.updStrm σ fun t => (t.complete t.pc).count) := by
  rw [State.completeWord, State.updCore_of_core? h]

/-- Branching behind the write-back of a core. -/
theorem State.branchTo_put (s : State) (c : Core) (σ : Strm) (t : Word) :
    (s.put c).branchTo σ t = s.setCore s.curCore (c.updStrm σ fun x => (x.branch t).count) := by
  simp [State.branchTo, State.put]

/-- A taken branch that changes nothing else. -/
theorem State.branchTo_of_core? {s : State} {c : Core} (h : s.core? s.curCore = some c) (σ : Strm) (t : Word) :
    s.branchTo σ t = s.setCore s.curCore (c.updStrm σ fun x => (x.branch t).count) := by
  rw [State.branchTo, State.updCore_of_core? h]

/-! ### Registers -/

@[simp] theorem Core.sreg_zero (c : Core) : c.sreg 0#6 = 0 := by simp [Core.sreg]
@[simp] theorem Core.areg_zero (c : Core) : c.areg 0#5 = 0 := by simp [Core.areg]

theorem Core.setSreg_sregs (c : Core) {r : BitVec 6} (v : Word) (h : r ≠ 0) : (c.setSreg r v).sregs = Map.put c.sregs r.toNat v := by
  rw [Core.setSreg, if_neg h]
theorem Core.setAreg_aregs (c : Core) {r : BitVec 5} (v : Word) (h : r ≠ 0) : (c.setAreg r v).aregs = Map.put c.aregs r.toNat v := by
  rw [Core.setAreg, if_neg h]
@[simp] theorem Core.setSreg_zero (c : Core) (v : Word) : c.setSreg 0#6 v = c := rfl
@[simp] theorem Core.setAreg_zero (c : Core) (v : Word) : c.setAreg 0#5 v = c := rfl

/-- What a scalar register reads as behind a write; a write to s0 is discarded (R45). -/
theorem Core.sreg_setSreg (c : Core) (r x : BitVec 6) (v : Word) :
    (c.setSreg r v).sreg x = if x = r ∧ r ≠ 0 then v else c.sreg x := by
  by_cases hr : r = 0
  · subst hr; simp
  · by_cases hx : x = r
    · subst hx; rw [if_pos ⟨rfl, hr⟩, Core.sreg, if_neg hr, Core.setSreg_sregs c v hr, Map.lookD_put]
    · have h : x.toNat ≠ r.toNat := fun h => hx (BitVec.eq_of_toNat_eq h)
      rw [if_neg (fun h => hx h.1), Core.sreg, Core.sreg, Core.setSreg_sregs c v hr, Map.lookD_put_ne _ _ _ h]

/-- What an address register reads as behind a write; a write to a0 is discarded (R46). -/
theorem Core.areg_setAreg (c : Core) (r x : BitVec 5) (v : Word) :
    (c.setAreg r v).areg x = if x = r ∧ r ≠ 0 then v else c.areg x := by
  by_cases hr : r = 0
  · subst hr; simp
  · by_cases hx : x = r
    · subst hx; rw [if_pos ⟨rfl, hr⟩, Core.areg, if_neg hr, Core.setAreg_aregs c v hr, Map.lookD_put]
    · have h : x.toNat ≠ r.toNat := fun h => hx (BitVec.eq_of_toNat_eq h)
      rw [if_neg (fun h => hx h.1), Core.areg, Core.areg, Core.setAreg_aregs c v hr, Map.lookD_put_ne _ _ _ h]

@[simp] theorem Core.sreg_updStrm (c : Core) (σ : Strm) (f : Stream → Stream) (r : BitVec 6) : (c.updStrm σ f).sreg r = c.sreg r := by
  simp [Core.sreg]
@[simp] theorem Core.areg_updStrm (c : Core) (σ : Strm) (f : Stream → Stream) (r : BitVec 5) : (c.updStrm σ f).areg r = c.areg r := by
  simp [Core.areg]

end Sys2Proof.Machine
end

