-- ==== Sys2Proof/Laws/Scalar.lean ====
section
/-! SUPPORT. The shared operations of the C-stream's ALU and branches: each says once what a word over it answers when no register it names is pending. -/

namespace Sys2Proof.Machine

/-- A C-stream word has written a scalar register and completed: the core it leaves. -/
abbrev Core.wroteC (c : Core) (rd : BitVec 6) (v : Word) : Core := (c.setSreg rd v).updStrm .c fun t => (t.complete t.pc).count

/-- A C-stream word that writes one scalar register. -/
theorem runSpec_write {s : State} {c : Core} {sh : Shard} {l : List (BitVec 6)} (rd : BitVec 6) (v : Core → Shard → Word)
    (hc : s.core? s.curCore = some c) (hs : c.shard = some sh) (hr : c.resolvable = false) (hf : ∀ x ∈ l, c.isPending x = false) :
    runSpec s (fun c sh => c.ready s l (.done (s.put (c.setSreg rd (v c sh))))) = .next (s.setCore s.curCore (c.wroteC rd (v c sh))) := by
  rw [runSpec, runOn_eq _ hc hs (fun _ => hr), Core.ready_eq _ _ hf, settle_done, State.completeWord_put]

/-- An operation of two scalar registers (R153, R154). -/
theorem alu2_eq {s : State} {c : Core} {sh : Shard} {rd ra rb : BitVec 6} (f : Word → Word → Word) (hc : s.core? s.curCore = some c)
    (hs : c.shard = some sh) (hr : c.resolvable = false) (hf : ∀ x ∈ [rd, ra, rb], c.isPending x = false) :
    alu2 rd ra rb s f = .next (s.setCore s.curCore (c.wroteC rd (f (c.sreg ra) (c.sreg rb)))) :=
  runSpec_write rd (fun c _ => f (c.sreg ra) (c.sreg rb)) hc hs hr hf

/-- An operation of one scalar register (R153, R154). -/
theorem alu1_eq {s : State} {c : Core} {sh : Shard} {rd ra : BitVec 6} (f : Word → Word) (hc : s.core? s.curCore = some c)
    (hs : c.shard = some sh) (hr : c.resolvable = false) (hf : ∀ x ∈ [rd, ra], c.isPending x = false) :
    alu1 rd ra s f = .next (s.setCore s.curCore (c.wroteC rd (f (c.sreg ra)))) :=
  runSpec_write rd (fun c _ => f (c.sreg ra)) hc hs hr hf

/-- An operation of one scalar register and the immediate (R155). -/
theorem aluImm_eq {s : State} {c : Core} {sh : Shard} {rd ra : BitVec 6} (imm : BitVec 22) (f : Word → Word → Word)
    (hc : s.core? s.curCore = some c) (hs : c.shard = some sh) (hr : c.resolvable = false) (hf : ∀ x ∈ [rd, ra], c.isPending x = false) :
    aluImm rd ra imm s f = .next (s.setCore s.curCore (c.wroteC rd (f (c.sreg ra) (imm.signExtend 64)))) :=
  alu1_eq _ hc hs hr hf

/-- A conditional branch that is taken to a valid target, and one that is not (R129, R158). -/
theorem branchIf_eq {s : State} {c : Core} {sh : Shard} {ra rb : BitVec 6} (off : BitVec 24) (p : Word → Word → Bool)
    (hc : s.core? s.curCore = some c) (hs : c.shard = some sh) (hr : c.resolvable = false) (hf : ∀ x ∈ [ra, rb], c.isPending x = false) :
    (p (c.sreg ra) (c.sreg rb) = true → validPc sh (c.target .c off) = true →
      branchIf ra rb off s p = .next (s.setCore s.curCore (c.updStrm .c fun t => (t.branch (c.target .c off)).count)))
    ∧ (p (c.sreg ra) (c.sreg rb) = false →
      branchIf ra rb off s p = .next (s.setCore s.curCore (c.updStrm .c fun t => (t.complete t.pc).count))) := by
  rw [branchIf, runSpec, runOn_eq _ hc hs (fun _ => hr), Core.ready_eq _ _ hf]
  constructor
  · intro h hv; rw [if_pos h, settle_goto _ _ _ _ _ _ hv, State.branchTo_of_core? hc]
  · intro h; rw [if_neg (by simp [h]), settle_done, State.completeWord_of_core? hc]

end Sys2Proof.Machine
end

