-- ==== Sys2Proof/Tests/Slice0.lean ====
section
/-! SUPPORT. Tests: words written out from the encoding tables of the spec, ill-formed words, and states and operands that meet the premises of the statements. -/

namespace Sys2Proof.Tests

-- One proof at a time: each of the proofs below is a kernel evaluation.
set_option Elab.async false

open Sys2Proof Sys2Proof.Machine Sys2Proof.Claim

/-! ### Words by the formats of R126, most significant field first -/

def wCr (op : BitVec 8) (rd ra rb fn : BitVec 6) (ord scope size : BitVec 2) (rest : BitVec 10) : BitVec 48 := op ++ rd ++ ra ++ rb ++ fn ++ ord ++ scope ++ size ++ rest
def wCi (op : BitVec 8) (rd ra fn : BitVec 6) (imm : BitVec 22) : BitVec 48 := op ++ rd ++ ra ++ fn ++ imm
def wCl (op : BitVec 8) (rd : BitVec 6) (sel : BitVec 2) (imm : BitVec 32) : BitVec 48 := op ++ rd ++ sel ++ imm
def wCb (op : BitVec 8) (ra rb : BitVec 6) (cond : BitVec 4) (off : BitVec 24) : BitVec 48 := op ++ ra ++ rb ++ cond ++ off
def wCm (op : BitVec 8) (rd ra : BitVec 6) (size ord scope : BitVec 2) (off : BitVec 22) : BitVec 48 := op ++ rd ++ ra ++ size ++ ord ++ scope ++ off
def wAs (op : BitVec 8) (q : BitVec 4) (a : BitVec 5) (step : BitVec 16) (rpt : BitVec 7) (size : BitVec 2) (pop push : BitVec 3) : BitVec 48 :=
  op ++ q ++ a ++ step ++ rpt ++ size ++ pop ++ push
def wAr (op : BitVec 8) (ad aa ab : BitVec 5) (fn : BitVec 6) (imm : BitVec 19) : BitVec 48 := op ++ ad ++ aa ++ ab ++ fn ++ imm
def wVr (op : BitVec 8) (d a b : BitVec 12) (m : BitVec 1) (x : BitVec 3) : BitVec 48 := op ++ d ++ a ++ b ++ m ++ x
def wVi (op : BitVec 8) (d a : BitVec 12) (imm : BitVec 16) : BitVec 48 := op ++ d ++ a ++ imm
def wMc (op : BitVec 8) (ra rb : BitVec 6) (acc : BitVec 1) (m n k : BitVec 2) (flags pop push : BitVec 3) : BitVec 48 :=
  op ++ ra ++ rb ++ acc ++ m ++ n ++ k ++ flags ++ pop ++ push ++ (0 : BitVec 12)
def wXc (op : BitVec 8) (rd ra rb rc : BitVec 6) (cm : BitVec 2) (flags : BitVec 14) : BitVec 48 := op ++ rd ++ ra ++ rb ++ rc ++ cm ++ flags
def wHr (op : BitVec 8) (rd ra rb : BitVec 6) (h : BitVec 4) (flags : BitVec 16) : BitVec 48 := op ++ rd ++ ra ++ rb ++ h ++ (0 : BitVec 2) ++ flags
def wLp (op : BitVec 8) (level : BitVec 2) (cnt : BitVec 12) (r : BitVec 1) (off : BitVec 24) : BitVec 48 := op ++ level ++ cnt ++ r ++ (0 : BitVec 1) ++ off

/-- Each word decodes, in the stream, to the instruction beside it. -/
def readsAs (σ : Strm) (l : List (BitVec 48 × Instr)) : Bool :=
  l.all fun e => match decode σ e.1 with
    | .ok i => i == e.2
    | .error _ => false

/-- A CR word of the register ALU. -/
def alu (fn : BitVec 6) : BitVec 48 := wCr 0x00 3 17 42 fn 0 0 0 0
/-- The same without a second source. -/
def alu1 (fn : BitVec 6) : BitVec 48 := wCr 0x00 3 17 0 fn 0 0 0 0

/-- R126, R148: opcode 0x00. -/
theorem test_decode_alu : readsAs .c [
    (alu 0, .add 3 17 42), (alu 1, .sub 3 17 42), (alu 2, .and 3 17 42), (alu 3, .or 3 17 42), (alu 4, .xor 3 17 42), (alu 5, .andn 3 17 42),
    (alu 6, .shl 3 17 42), (alu 7, .shr 3 17 42), (alu 8, .sra 3 17 42), (alu 9, .rol 3 17 42), (alu 10, .ror 3 17 42), (alu 11, .min 3 17 42),
    (alu 12, .max 3 17 42), (alu 13, .minu 3 17 42), (alu 14, .maxu 3 17 42), (alu 15, .seq 3 17 42), (alu 16, .sne 3 17 42), (alu 17, .slt 3 17 42),
    (alu 18, .sltu 3 17 42), (alu 19, .mul 3 17 42), (alu 20, .mulh 3 17 42), (alu 21, .mulhu 3 17 42), (alu 22, .div 3 17 42), (alu 23, .divu 3 17 42),
    (alu 24, .rem 3 17 42), (alu 25, .remu 3 17 42), (alu1 26, .clz 3 17), (alu1 27, .ctz 3 17), (alu1 28, .popc 3 17), (alu1 29, .sextb 3 17),
    (alu1 30, .sexth 3 17), (alu1 31, .sextw 3 17), (alu1 32, .zextw 3 17), (alu1 33, .bswap 3 17)] = true := by decide +kernel

/-- R126, R127, R148: opcodes 0x01 to 0x04. -/
theorem test_decode_immediate : readsAs .c [
    (wCi 0x01 3 17 0 0x3FFFFE, .addi 3 17 0x3FFFFE), (wCi 0x01 3 17 1 0x2AAAAA, .andi 3 17 0x2AAAAA), (wCi 0x01 3 17 2 7, .ori 3 17 7), (wCi 0x01 3 17 3 7, .xori 3 17 7),
    (wCi 0x01 3 17 4 63, .shli 3 17 63), (wCi 0x01 3 17 5 1, .shri 3 17 1), (wCi 0x01 3 17 6 33, .srai 3 17 33), (wCi 0x01 3 17 7 9, .slti 3 17 9),
    (wCi 0x01 3 17 8 9, .sltui 3 17 9), (wCi 0x01 3 17 9 9, .muli 3 17 9), (wCl 0x02 3 0 0x80000001, .li 3 0x80000001), (wCl 0x02 3 1 0x80000001, .liU 3 0x80000001),
    (wCl 0x03 3 0 0x80000001, .lih 3 0x80000001), (wCr 0x04 3 17 42 0 0 0 0 0, .sel 3 17 42)] = true := by decide +kernel

/-- R127, R129, R131, R149: branches, jumps, calls, speculation. -/
theorem test_decode_flow : readsAs .c [
    (wCb 0x08 3 17 0 6, .beq 3 17 6), (wCb 0x08 3 17 1 6, .bne 3 17 6), (wCb 0x08 3 17 2 0xFFFFFD, .blt 3 17 0xFFFFFD), (wCb 0x08 3 17 3 6, .bge 3 17 6),
    (wCb 0x08 3 17 4 6, .bltu 3 17 6), (wCb 0x08 3 17 5 6, .bgeu 3 17 6), (wCb 0x09 3 0 0 9, .bz 3 9), (wCb 0x09 3 0 1 9, .bnz 3 9), (wCl 0x0A 0 0 0xFFFFFFFD, .j 0xFFFFFFFD),
    (wCl 0x0B 0 0 300, .call 300), (wCr 0x0C 0 17 0 0 0 0 0 0, .jr 17), (wCr 0x0D 0 17 0 0 0 0 0 0, .callr 17), (wCr 0x0E 0 0 0 0 0 0 0 0, .ret),
    (wCb 0x10 3 0 0 6, .spec 3 6), (wCr 0x11 0 0 0 0 0 0 0 0, .specend), (wCr 0x12 0 0 0 0 0 0 0 0, .specx), (wCr 0x13 3 17 42 2 0 0 0 0, .rndx 3 17 42 2),
    (wCi 0x14 3 0 0 0x0D9, .csrr 3 0x0D9), (wCi 0x15 3 17 0 0x045, .csrw 3 17 0x045), (wCi 0x16 3 17 0 0x045, .csrs 3 17 0x045),
    (wCi 0x17 3 17 0 0x045, .csrc 3 17 0x045)] = true := by decide +kernel

/-- R126, R128, R148, R149: loads (the offset is 21 bits, U is bit 21), stores, atomics, CAS. -/
theorem test_decode_memory : readsAs .c [
    (wCm 0x18 3 17 0 0 0 0x1FFFFF, .ldb 3 17 0 0 0x1FFFFF), (wCm 0x18 3 17 0 1 2 0x200008, .ldbu 3 17 1 2 8), (wCm 0x18 3 17 1 0 0 8, .ldh 3 17 0 0 8),
    (wCm 0x18 3 17 1 0 0 0x200008, .ldhu 3 17 0 0 8), (wCm 0x18 3 17 2 0 0 8, .ldw 3 17 0 0 8), (wCm 0x18 3 17 2 0 0 0x200008, .ldwu 3 17 0 0 8), (wCm 0x18 3 17 3 1 3 8, .ldd 3 17 1 3 8),
    (wCm 0x19 3 17 0 0 0 0x3FFFFF, .stb 3 17 0 0 0x3FFFFF), (wCm 0x19 3 17 1 2 1 8, .sth 3 17 2 1 8), (wCm 0x19 3 17 2 0 0 8, .stw 3 17 0 0 8), (wCm 0x19 3 17 3 0 0 8, .std 3 17 0 0 8),
    (wCr 0x1A 3 17 42 0 1 0 2 0, .amadd 3 17 42 1 0 false), (wCr 0x1A 3 17 42 1 0 0 3 0, .amand 3 17 42 0 0 true), (wCr 0x1A 3 17 42 2 0 0 3 0, .amor 3 17 42 0 0 true),
    (wCr 0x1A 3 17 42 3 0 0 3 0, .amxor 3 17 42 0 0 true), (wCr 0x1A 3 17 42 4 0 0 3 0, .ammin 3 17 42 0 0 true), (wCr 0x1A 3 17 42 5 0 0 3 0, .ammax 3 17 42 0 0 true),
    (wCr 0x1A 3 17 42 6 0 0 3 0, .amminu 3 17 42 0 0 true), (wCr 0x1A 3 17 42 7 3 2 3 0, .ammaxu 3 17 42 3 2 true), (wCr 0x1A 3 17 42 8 0 0 2 0, .amswap 3 17 42 0 0 false),
    (wCr 0x1B 3 17 42 0 2 1 3 0, .cas 3 17 42 2 1 true)] = true := by decide +kernel

/-- R179 to R196: synchronisation, apertures, views, queues, barriers, tasks, traps, leases. -/
theorem test_decode_sync : readsAs .c [
    (wCr 0x1C 0 0 0 0 3 2 0 0, .fence 3 2), (wCr 0x1D 3 17 0 0 0 0 0 0, .publish 3 17), (wCr 0x1E 3 17 0 2 0 0 0 0, .cvtaTo 3 17 2), (wCr 0x1E 3 17 0 6 0 0 0 0, .cvtaFrom 3 17 2),
    (wCr 0x1F 3 17 0 1 0 0 0 0, .aptest 3 17 1), (wCr 0x20 3 17 0 5 0 0 0 0, .setview 3 17 5), (wCr 0x21 31 17 0 0 0 0 0 0, .seta 31 17), (wCr 0x22 3 0 0 9 0 0 0 0, .popv 3 9),
    (wCr 0x23 0 17 42 1 0 0 0 0, .pushv 17 42 1), (wCi 0x24 3 17 0 0x2019FF, .barinit 3 17 true 12 0x1FF), (wCi 0x25 3 0 0 5, .bararv 3 0 false 5),
    (wCi 0x26 3 17 0 0x200005, .barwait 3 17 true 5), (wCi 0x27 3 0 0 5, .bararw 3 0 false 5), (wCi 0x28 3 17 0 16, .tbinit 3 17 16), (wCi 0x29 3 17 0 0x3FFFF0, .tbexp 3 17 0x3FFFF0),
    (wCi 0x2A 3 17 0 16, .tbarv 3 17 16), (wCi 0x2B 3 17 0 16, .tbwait 3 17 16), (wCr 0x2C 0 17 0 0 0 0 0 0, .spawn 17), (wCr 0x2C 3 17 0 1 0 0 0 0, .spawnNb 3 17),
    (wCr 0x2D 0 17 42 0 0 0 0 0, .enqr 17 42), (wCr 0x2E 0 0 0 0 0 0 0 0, .halt), (wCr 0x2F 3 0 0 0 0 0 0 0, .yield 3), (wCi 0x30 0 0 0 0xFFFF, .trap 0xFFFF),
    (wCi 0x31 0 0 0 0x1234, .brk), (wCr 0x32 0 0 0 0 0 0 0 0, .rte), (wCr 0x32 0 0 0 1 0 0 0 0, .rteSkip), (wCr 0x33 3 17 0 0 0 0 0 0, .wfe 3 17), (wCr 0x34 0 0 0 0 0 0 0 0, .lease),
    (wCr 0x34 3 0 0 1 0 0 0 0, .leaseNb 3), (wCr 0x35 0 0 0 0 0 0 0 0, .unlease), (wCr 0x36 3 17 0 0 0 0 0 0, .inbox 3 17), (wCr 0x36 3 17 0 1 0 0 0 0, .inboxNb 3 17)] = true := by decide +kernel

/-- R126, R130, R148, R203: the A-stream. -/
theorem test_decode_access_stream : readsAs .a [
    (wAs 0x40 1 17 0xFFF8 127 3 1 2, .ald 1 17 0xFFF8 127 3 1 2), (wAs 0x41 9 17 64 0 2 0 0, .ast 9 17 64 0 2 0 0),
    (wAs 0x42 1 17 (1#1 ++ 20#5 ++ 2#2 ++ 3#4 ++ 0#4) 5 1 0 0, .agth 1 17 true 20 2 3 5 1 0 0), (wAs 0x43 9 17 (0#1 ++ 9#5 ++ 1#2 ++ 0#4 ++ 0#4) 5 1 0 0, .asct 9 17 false 9 1 0 5 1 0 0),
    (wAs 0x44 3 17 (0#2 ++ 10#4 ++ 1#2 ++ 0#8) 7 0 0 0, .apart 3 17 10 1 7 0 0 0), (wAs 0x45 2 17 8 3 0 0 0, .arld 2 17 8 3 0 0 0), (wAs 0x46 15 17 8 3 0 0 0, .arst 15 17 8 3 0 0 0),
    (wAr 0x47 3 17 30 0 0, .aadd 3 17 30), (wAr 0x47 3 17 30 1 0, .asub 3 17 30), (wAr 0x47 3 17 30 2 0, .aand 3 17 30), (wAr 0x47 3 17 30 3 0, .aor 3 17 30),
    (wAr 0x47 3 17 30 4 0, .axor 3 17 30), (wAr 0x47 3 17 30 5 0, .ashl 3 17 30), (wAr 0x47 3 17 30 6 0, .ashr 3 17 30), (wAr 0x47 3 17 30 7 0, .amul 3 17 30),
    (wAr 0x47 3 17 30 8 0, .amax 3 17 30), (wAr 0x48 3 17 0 0 0x7FFFF, .aaddi 3 17 0x7FFFF), (wAr 0x49 3 0 0 0 0x40000, .ali 3 0x40000), (wAr 0x4A 9 0 0 0 0, .aflush 9),
    (wAr 0x4B 9 17 30 5 0x7FFC0, .amcast 9 17 30 5 0x7FFC0)] = true := by decide +kernel

/-- A VR word with M set. -/
def vec (op : BitVec 8) : BitVec 48 := wVr op 0x001 0x802 0x7FF 1 5

/-- R126, R146: VR words 0x61 to 0x7F, and the VI words. -/
theorem test_decode_vector_integer : readsAs .v [
    (wVi 0x60 0 0 0xC03D, .vmode 12 true true true 5), (vec 0x61, .vadd 1 0x802 0x7FF true 5), (vec 0x62, .vsub 1 0x802 0x7FF true 5), (vec 0x63, .vmul 1 0x802 0x7FF true 5),
    (vec 0x64, .vmulh 1 0x802 0x7FF true 5), (vec 0x65, .vmad 1 0x802 0x7FF true 5), (vec 0x66, .vand 1 0x802 0x7FF true 5), (vec 0x67, .vor 1 0x802 0x7FF true 5),
    (vec 0x68, .vxor 1 0x802 0x7FF true 5), (vec 0x69, .vandn 1 0x802 0x7FF true 5), (vec 0x6A, .vshl 1 0x802 0x7FF true 5), (vec 0x6B, .vshr 1 0x802 0x7FF true 5),
    (vec 0x6C, .vsra 1 0x802 0x7FF true 5), (vec 0x6D, .vmin 1 0x802 0x7FF true 5), (vec 0x6E, .vmax 1 0x802 0x7FF true 5), (vec 0x6F, .vabs 1 0x802 0x7FF true 5),
    (vec 0x70, .vneg 1 0x802 0x7FF true 5), (vec 0x71, .vadds 1 0x802 0x7FF true 5), (vec 0x72, .vsubs 1 0x802 0x7FF true 5), (vec 0x73, .vcnt 1 0x802 0x7FF true 5),
    (vec 0x74, .vceq 1 0x802 0x7FF true 5), (vec 0x75, .vcne 1 0x802 0x7FF true 5), (vec 0x76, .vclt 1 0x802 0x7FF true 5), (vec 0x77, .vcle 1 0x802 0x7FF true 5),
    (vec 0x78, .vcltu 1 0x802 0x7FF true 5), (vec 0x79, .vcleu 1 0x802 0x7FF true 5), (vec 0x7A, .vsel 1 0x802 0x7FF true 5), (vec 0x7B, .vmov 1 0x802 0x7FF true 5),
    (wVi 0x7C 5 0 0xFFFE, .vmovi 5 0 0xFFFE), (vec 0x7D, .vzero 1 0x802 0x7FF true 5), (vec 0x7E, .vinv 1 0x802 0x7FF true 5), (vec 0x7F, .vclrf 1 0x802 0x7FF true 5)] = true := by decide +kernel

/-- R126, R146, R227 to R234: VR words 0x80 to 0xA5; five carry an immediate in the place of b. -/
theorem test_decode_vector_float : readsAs .v [
    (vec 0x80, .vfadd 1 0x802 0x7FF true 5), (vec 0x81, .vfsub 1 0x802 0x7FF true 5), (vec 0x82, .vfmul 1 0x802 0x7FF true 5), (vec 0x83, .vfma 1 0x802 0x7FF true 5),
    (vec 0x84, .vfms 1 0x802 0x7FF true 5), (vec 0x85, .vfnma 1 0x802 0x7FF true 5), (vec 0x86, .vfmin 1 0x802 0x7FF true 5), (vec 0x87, .vfmax 1 0x802 0x7FF true 5),
    (vec 0x88, .vfabs 1 0x802 0x7FF true 5), (vec 0x89, .vfneg 1 0x802 0x7FF true 5), (vec 0x8A, .vrcpa 1 0x802 0x7FF true 5), (vec 0x8B, .vrsqa 1 0x802 0x7FF true 5),
    (vec 0x8C, .vexp2a 1 0x802 0x7FF true 5), (vec 0x8D, .vlog2a 1 0x802 0x7FF true 5), (vec 0x8E, .vfceq 1 0x802 0x7FF true 5), (vec 0x8F, .vfclt 1 0x802 0x7FF true 5),
    (vec 0x90, .vfcle 1 0x802 0x7FF true 5), (vec 0x91, .vfclass 1 0x802 0x7FF true 5), (vec 0x92, .vfscl 1 0x802 0x7FF true 5), (wVr 0x93 1 2 0x034 0 3, .vcvt 1 2 3 4 false 3),
    (vec 0x94, .vcvtsr 1 0x802 0x7FF true 5), (vec 0x95, .vqnt 1 0x802 0x7FF true 5), (vec 0x96, .vdqnt 1 0x802 0x7FF true 5), (vec 0x97, .vmxq 1 0x802 0x7FF true 5),
    (vec 0x98, .vmxd 1 0x802 0x7FF true 5), (vec 0x99, .vrsum 1 0x802 0x7FF true 5), (vec 0x9A, .vrmax 1 0x802 0x7FF true 5), (vec 0x9B, .vrmin 1 0x802 0x7FF true 5),
    (vec 0x9C, .vperm 1 0x802 0x7FF true 5), (wVr 0x9D 1 2 0x0FF 0 3, .vslide 1 2 0xFF false 3), (wVr 0x9E 1 2 0x07F 0 3, .vbcast 1 2 0x7F false 3), (vec 0x9F, .vtrans 1 0x802 0x7FF true 5),
    (wVr 0xA0 1 2 0x07F 0 3, .vext 1 2 0x7F false 3), (wVr 0xA1 1 2 0x07F 0 3, .vins 1 2 0x7F false 3), (vec 0xA2, .viota 1 0x802 0x7FF true 5), (vec 0xA3, .vpack 1 0x802 0x7FF true 5),
    (vec 0xA4, .vunpk 1 0x802 0x7FF true 5), (wVr 0xA5 1 2 3 0 3, .vrng 1 2 3 false 3)] = true := by decide +kernel

/-- R126, R130: matrix commands, data-movement commands, Harvest and held rows. -/
theorem test_decode_commands : readsAs .c [
    (wMc 0xB0 17 0 0 0 0 0 0 2 1, .mfmt 17 2 1), (wMc 0xB1 17 42 1 3 2 1 5 2 3, .mma 17 42 true 3 2 1 true false true 2 3), (wMc 0xB2 17 42 0 0 1 2 2 0 0, .mmas 17 42 false 0 1 2 false true false 0 0),
    (wMc 0xB3 17 0 1 3 2 0 0 0 0, .mresc 17 true 3 2 0 0), (wMc 0xB4 17 0 1 3 2 0 1 0 0, .mzero 17 true 3 2 true 0 0), (wMc 0xB5 17 0 1 3 2 0 0 0 0, .mldac 17 true 3 2 0 0),
    (wMc 0xB6 17 0 1 3 2 0 1 0 0, .mstac 17 true 3 2 true 0 0), (wMc 0xB7 17 0 1 3 2 0 0 0 0, .mstsm 17 true 3 2 false 0 0), (wMc 0xB8 17 0 1 3 2 0 1 0 0, .mnorm 17 true 3 2 true 0 0),
    (wXc 0xC0 3 17 0 0 1 0, .copy 3 17 1 0), (wXc 0xC1 0 17 42 9 2 7, .tload 0 17 42 9 2 7), (wXc 0xC2 3 17 42 9 3 7, .tstore 3 17 42 9 3 7), (wXc 0xC3 3 17 42 0 1 0, .tseal 3 17 42 true),
    (wXc 0xC3 0 17 42 0 0 1, .tsealCb 0 17 42 false), (wXc 0xC4 0 17 42 9 0 0, .tmcast 0 17 42 9 0 0), (wXc 0xC5 3 17 42 9 1 0, .pstore 3 17 42 9 1 0), (wXc 0xC6 3 17 42 9 1 0, .tpark 3 17 42 9 1 0),
    (wXc 0xC7 3 17 42 0 1 0, .tunpark 3 17 42 1 0), (wXc 0xC8 3 17 42 9 1 0, .trepl 3 17 42 9 1 0), (wXc 0xC9 3 17 42 9 1 0, .reqnt 3 17 42 9 1 0), (wXc 0xCA 3 17 42 0 1 0, .tdrop 3 17 42 1 0),
    (wHr 0xD0 3 17 42 0 0, .hjoin 3 17 42), (wHr 0xD1 3 17 0 0 0, .hleave 3 17), (wHr 0xD2 3 17 42 0 0xFFF, .hcontrib 3 17 42 0xFFF), (wHr 0xD3 3 17 42 0 0x1001, .hwait 3 17 42 true 1),
    (wHr 0xD4 3 17 42 0 0, .hstatRoster 3 17 42), (wHr 0xD4 3 17 42 0 1, .hstatGroup 3 17 42), (wHr 0xD4 3 17 42 0 2, .hstatMember 3 17 42), (wHr 0xD5 3 17 0 0 0, .hsync 3 17),
    (wHr 0xD6 3 17 42 15 0x4A05, .ropen 3 17 42 15 true 10 5), (wHr 0xD6 3 17 0 15 0x8A00, .ropenCell 3 17 15 false 10), (wHr 0xD7 3 0 0 15 0, .rrel 3 15),
    (wHr 0xD8 3 0 0 15 0xA00, .rrenew 3 15 10), (wHr 0xD9 3 0 0 15 0, .rstat 3 15)] = true := by decide +kernel

/-- R131: the common words, in the stream that R58 or the count's form asks for. -/
theorem test_decode_common :
    readsAs .v [(wCl 0xE0 0 0 0, .nop), (wLp 0xE1 2 0x7FF 1 6, .loop 2 0x7FF true 6), (wLp 0xE2 3 0xFFF 0 0xFFFFFF, .loopi 3 0xFFF false 0xFFFFFF), (wCl 0xE6 0 0 0, .shalt),
      (wCl 0xE7 0x0D 0 0xFFFFFFFD, .sj true 5 0xFFFFFFFD), (wCl 0xE8 0 0 0xFE54, .prset 0x7F 0x2A), (wCl 0xE4 0 0 6, .tkpush 6), (wCl 0xE5 0 0 5, .tkpop 5)] = true
    ∧ readsAs .a [(wLp 0xE3 1 31 0 (2#4 ++ 6#20), .loopb 1 31 2 6)] = true := by decide +kernel

/-! ### Ill-formed words -/

/-- A word that does not decode in a stream. -/
def refuses (σ : Strm) (w : BitVec 48) (e : Reject) : Bool := match decode σ w with
  | .ok _ => false
  | .error x => x == e

/-- R5, R127, R128, R147, R150, R151: a foreign and a reserved opcode, a reserved selector, bits that a word reserves, a modifier without an order, a release on a load, U with size 3, an atomic of one byte. -/
theorem test_refuse_fields :
    (refuses .c (vec 0x80) .foreign && refuses .v (alu 0) .foreign && refuses .c (wCr 0x05 0 0 0 0 0 0 0 0) .opcode && refuses .v (wCl 0xF0 0 0 0) .opcode
      && refuses .c (alu 34) .selector && refuses .c (wCb 0x08 3 17 6 6) .selector && refuses .c (wCm 0x18 3 17 3 0 0 0x200000) .selector
      && refuses .c (wCr 0x1A 3 17 42 0 0 0 1 0) .selector && refuses .c (wCr 0x00 3 17 42 0 0 0 0 1) .reserved && refuses .c (alu 26) .reserved
      && refuses .c (wCi 0x01 3 17 4 64) .reserved && refuses .c (wCl 0xE0 0 0 1) .reserved && refuses .c (wCm 0x18 3 17 3 0 1 8) .modifiers && refuses .c (wCm 0x18 3 17 3 2 0 8) .modifiers) = true := by
  decide +kernel

/-- What WellFormed asks, check by check, with an instruction that fails that one alone: the owner (R147), the fields (R131, R181, R185), the modifiers (R128), the offset (R129), the operands (R58, R203). -/
theorem test_ill_formed :
    ((Instr.add 3 17 42).WellFormed .c && !(Instr.add 3 17 42).WellFormed .v
      && (Instr.loopi 0 1 false 6).fieldsOk .c && !(Instr.loopi 0 0 false 6).WellFormed .c && !(Instr.cvtaTo 3 17 3).WellFormed .c && !(Instr.bararv 3 17 false 5).WellFormed .c
      && (Instr.ldd 3 17 1 3 8).WellFormed .c && !(Instr.ldd 3 17 2 3 8).WellFormed .c && !(Instr.std 3 17 0 3 8).WellFormed .c
      && (Instr.beq 3 17 6).WellFormed .c && !(Instr.beq 3 17 5).WellFormed .c && !(Instr.loopi 0 1 false 0).WellFormed .c
      && (Instr.tkpush 1).WellFormed .c && !(Instr.tkpush 2).WellFormed .c && !(Instr.ald 8 17 8 3 0 0 0).WellFormed .a && !(Instr.barinit 3 0 false 0 5).WellFormed .c) = true := by decide +kernel

/-! ### A small module: one die in service, one context with the first GiB of memory, one shard of one task on core 0 -/

/-- The shard: its binary at 0x1000, 64 granules. -/
def dsh : Shard := { fetchShard with uid := 5, hwm := 64, task := 7, taskId := 0x77, seed := 9 }

/-- A stream at the second word. -/
def dstr : Stream := { Stream.idle with pc := 0x1006 }

/-- The core: some registers, a stack in its scratchpad, granules 0 to 15 valid and full. -/
def dcore : Core :=
  { Core.idle with
    shard := some dsh, cs := dstr, as := dstr, vs := dstr, utlb := [fetchTlb]
    sregs := [(1, 0x8000000000000001), (2, 3), (3, 77), (4, 0x2000), (5, 0x1060), (6, 0xFF00000000000040), (61, 0x108), (62, 0)]
    aregs := [(1, 5), (2, 7)], stackBase := 0x100, stackLimit := 0x1000, valid := 0xFFFF, full := 0xFFFF
    pad := Memory.setN [] 0x100 (toBytes 8 0x1060) }

/-- The context of the shard. -/
def dctx : Ctx :=
  { state := 1, det := false, nohold := false, owner := 0, ptroot := 0x8000, htab := 0, hcount := 0, htv := 0, ltv := 0, save := 0x100000, slots := 2, usedSlots := []
    fqlog := 0, fq := 0, qtab := 0, nq := 1, pubtab := 0, npub := 1, queues := [(0, { ring := 0x4000, widx := 0x5000, ridx := 0x5008, e := 4, pending := false, scanning := false, bad := 0, open_ := [], marks := [] })]
    pubs := [(0, { bound := true, port := 0, wbase := 0, wlen := 0, caddr := 0x9000, count := 4 })], staleSucc := 0, underflow := 0, debug := false, ncore := 0, knows := [] }

/-- Its task. -/
def dtask : Task :=
  { ctx := 0, taskId := 0x77, kdesc := 0, seed := 9, succ := 0, crec := 0, deps := 0, prio := 0, flags := 0, arg0 := 0, arg1 := 0, ins := [], outs := [], addr := 0x6000, die := 0, entry := 0
    submitter := none, cluster := 0, state := .running, resolved := true, shards := [.running 0], dprod := 1, cprod := 1, pure := false, aged := 0, readyAt := 0, again := [], losses := 0, failed := none, lost := none
    sealsLeft := 0, rebuild := none, claim := 0, packet := none, committed := false, begun := true, manifest := none, rosters := [], waits := [], replay := [], tree := 0, knows := [], doneKnows := [] }

/-- A matrix array that nobody holds. -/
def darr : Machine.Array := { holder := none, runOpen := false, runStart := 0, accepted := 0, waiting := [], last := 0, inService := true }

/-- The module. -/
def dst : State :=
  { State.reset with
    devState := 4, dies := 1, now := 1000, uid := 20, cores := [(0, dcore)], planes := true, ctxs := [(0, dctx)], tasks := [(7, dtask)], arrays := [(0, darr)]
    pools := [(0, { age := 30000, stagedAge := none, discard := 15000, ctl := 3, last := 0 })]
    almanac := [(0, { records := [], next := 0, mirrored := false, mirrorLost := [], rebuilding := [], missed := 0, beat := 0, log := [], short := false })] }

/-- The module with another core 0, at a move of a stream. -/
def at_ (σ : Strm) (c : Core) : State := { dst with cores := [(0, c)], curStrm := σ }

/-- The C-stream of the core may execute a word, with no speculation open: the premise that most statements share. -/
theorem plain (σ : Strm) (c : Core) (sh : Shard) (h1 : c.shard = some sh) (h2 : c.spec = none) (h3 : c.resolvable = false) : RunsPlain (at_ σ c) σ c sh :=
  ⟨⟨rfl, h1, rfl, fun _ => h3⟩, fun _ => h2⟩

/-- The demo core's own. -/
theorem plain_c : RunsPlain (at_ .c dcore) .c dcore dsh := plain .c dcore dsh rfl rfl rfl

/-! ### The premises of the statements, clause by clause -/

/-- ScalarAluResults, ScalarUnaryResults, ScalarImmediateResults, RandomAndCsrWords (CSR 0x0FF and the first number beyond). -/
theorem test_meets_scalar : RunsPlain (at_ .c dcore) .c dcore dsh ∧ Free dcore [3, 1, 2] ∧ dcore.sreg 1 = 0x8000000000000001
    ∧ (0x0FF#12).toNat < 0x100 ∧ csrRO 0x045 = false ∧ csrRO 0x001 = true ∧ 0x100 ≤ (0x100#12).toNat :=
  ⟨plain_c, by unfold Free; decide +kernel, by decide +kernel⟩

/-- ScalarWriteFrame, CompletedWordFollowsOn, CsrWritesReadBack. -/
theorem test_meets_frame : (at_ .c dcore).core? (at_ .c dcore).curCore = some dcore ∧ dcore.cs.loops = [] ∧ bits (0x0007FFFF#64).toNat 19 2 ≠ 3 := by decide +kernel

/-- BranchesAndJumps: a taken branch to a word of the binary, one past its end, and a branch not taken. -/
theorem test_meets_branches : RunsPlain (at_ .c dcore) .c dcore dsh ∧ Free dcore [1, 2]
    ∧ validPc dsh (dcore.cs.pc + 2 * (0xFFFFFD#24).signExtend 64) = true ∧ validPc dsh (dcore.cs.pc + 2 * (0x300000#24).signExtend 64) = false
    ∧ dcore.sreg 1 ≠ dcore.sreg 2 ∧ (dcore.sreg 1).toInt < (dcore.sreg 2).toInt :=
  ⟨plain_c, by unfold Free; decide +kernel, by decide +kernel⟩

/-- CallsAndReturns: the stack at its base, at its limit, below and above its bounds, misaligned, with a good and a bad return address. -/
theorem test_meets_calls : RunsPlain (at_ .c dcore) .c dcore dsh ∧ Free dcore [5, 61, 62] ∧ dcore.cs.acquiring = false ∧ validPc dsh (dcore.sreg 5) = true
    ∧ dcore.direct 0 (.pad 0 0x108) = true ∧ dcore.direct 0 (.pad 0 0x100) = true ∧ dcore.stackBase.toNat % 2 ^ 18 + 8 ≤ (dcore.sreg 61).toNat ∧ (dcore.sreg 61).toNat % 8 = 0 ∧ (at_ .c dcore).raceAt dsh (.pad 0 0x108) 8 true true false = none
    ∧ (at_ .c dcore).raceAt dsh (.pad 0 0x100) 8 false true false = none ∧ (at_ .c dcore).poisoned (.pad 0 0x100) 8 = false
    ∧ validPc dsh (BitVec.ofNat 64 (ofBytes ((at_ .c dcore).readTarget (.pad 0 0x100) 8))) = true
    ∧ dcore.stackLimit.toNat % 2 ^ 18 < (0x0FFC#64).toNat + 8 ∧ (0x10C#64).toNat % 8 ≠ 0 :=
  ⟨plain_c, by unfold Free; decide +kernel, by decide +kernel⟩

/-- A speculation on s9 whose label is 0x1030. -/
def dspec : Spec :=
  { reg := 9, label := 0x1030, next := 0x100C, pc := 0x1006, sregs := [(1, 4)], pending := [9], pred := 1, loops := [], instret := 0, stores := [], watched := [], loads := [], order := 0, spoilt := false }

/-- The core inside it, with s9 pending, and with its value there: 0, 1, and 1 after a conflict. -/
def score : Core := { dcore with spec := some dspec, pending := [9] }
def score0 : Core := { dcore with spec := some { dspec with pending := [] } }
def score1 : Core := { dcore with spec := some { dspec with pending := [], sregs := [(9, 1)] }, sregs := [(9, 1)] }

/-- SpeculationWords: SPEC with its register there (0 and not), with it pending; a word under a speculation that waits; its resolution to 0, after a conflict, and to a commit. -/
theorem test_meets_speculation : RunsPlain (at_ .c dcore) .c dcore dsh ∧ dcore.isPending 8 = false ∧ dcore.sreg 8 = 0 ∧ validPc dsh (dcore.cs.pc + 2 * (6#24).signExtend 64) = true
    ∧ dcore.isPending 3 = false ∧ dcore.sreg 3 ≠ 0 ∧ RunsPlain (at_ .c { dcore with pending := [9] }) .c { dcore with pending := [9] } dsh ∧ ({ dcore with pending := [9] } : Core).pending.contains 9 = true ∧ Map.look dcore.fresh 9 = none
    ∧ Runs (at_ .c score) .c score dsh ∧ score.speculating = true ∧ validPc dsh dspec.label = true
    ∧ (∃ x, score0.spec = some x ∧ x.pending.contains x.reg = false ∧ Map.lookD score0.sregs x.reg 0 = 0)
    ∧ (∃ x, score1.spec = some x ∧ x.pending.contains x.reg = false ∧ Map.lookD score1.sregs x.reg 0 ≠ 0 ∧ x.spoilt = false)
    ∧ (at_ .c score1).core? Args.none.core = some score1 ∧ ({ dspec with spoilt := true, pending := [] } : Spec).pending.contains dspec.reg = false :=
  ⟨plain_c, by decide +kernel, by decide +kernel, by decide +kernel, by decide +kernel, by decide +kernel, plain .c _ dsh rfl rfl rfl, by decide +kernel, by decide +kernel, ⟨rfl, rfl, rfl, fun _ => rfl⟩, by decide +kernel, by decide +kernel,
    ⟨_, rfl, by decide +kernel⟩, ⟨_, rfl, by decide +kernel⟩, by decide +kernel⟩

/-- The core with its other streams halted. -/
def hcore : Core := { dcore with as := { dstr with halted := true }, vs := { dstr with halted := true } }

/-- CommonWords: a free channel, a full one, an empty one; a stream that may retire; the words of the V-stream. -/
theorem test_meets_common : RunsPlain (at_ .c dcore) .c dcore dsh ∧ dcore.cs.acquiring = false ∧ dcore.cs.released 0 = true
    ∧ (dcore.as.flight.all fun f => !(f.rd == 255 && f.fn == 1)) = true ∧ (dcore.as.flight.all fun f => f.kind != .load) = true ∧ ({ dstr with flight := [{ kind := .store, va := 0x2008, target := .dram 0x2008, size := 8, data := 0, cmp := 0, fn := 0, rd := 0, signed := false, ord := 0, scope := 0, path := 0, value := none, order := 0, region := 0, clock := 0, knows := [], since := 0, pc := 0x1006, tag := 0, failed := false, held := false, fault := none }] } : Stream).released 0 = false ∧ dcore.tokenCount 1 < 15 ∧ 15 ≤ ({ dcore with tokens := [(1, 15)] } : Core).tokenCount 1
    ∧ 0 < ({ dcore with tokens := [(2, 1)] } : Core).tokenCount 2 ∧ dcore.tokenCount 2 = 0 ∧ hcore.canRetire = true ∧ dcore.canRetire = false
    ∧ RunsPlain (at_ .v dcore) .v dcore dsh ∧ (dcore.strm .v).p 0 = true :=
  ⟨plain_c, by decide +kernel, by decide +kernel, by decide +kernel, by decide +kernel, by decide +kernel, by decide +kernel, by decide +kernel, by decide +kernel, by decide +kernel, by decide +kernel, by decide +kernel, plain .v _ dsh rfl rfl rfl, by decide +kernel⟩

/-- A stream inside a LOOPB slot of level 1, with iterations left, with drains left, and with neither. -/
def dloop (n k : Nat) : LoopSlot := { isB := true, start := 0x1000, stop := 0x1006, remaining := n, rot := false, drain := k }

/-- LoopWords: nesting under no slot; not nesting at the level of an active one; the counts of the three streams; each turn of LOOPB. -/
theorem test_meets_loops : RunsPlain (at_ .c dcore) .c dcore dsh ∧ Nests dcore.cs 1 0x1012 ∧ ¬ Nests { dcore.cs with loops := [(1, dloop 2 0)] } 1 0x1012
    ∧ dcore.isPending 2 = false ∧ (dcore.sreg ((2#12).setWidth 6)).toNat % 2 ^ 32 = 3 ∧ (dcore.areg ((2#12).setWidth 5)).toNat % 2 ^ 32 = 7
    ∧ badCount (at_ .v dcore) dcore dsh 3 = false ∧ (match dcore.source dsh.hwm .v 3 with | .ok _ => true | _ => false) = true ∧ 1 < (dloop 2 0).remaining ∧ (dloop 1 2).remaining ≤ 1 ∧ 0 < (dloop 1 2).drain
    ∧ (dloop 1 0).drain = 0 ∧ validPc dsh (dcore.cs.pc - 2 * (3#20).setWidth 64) = true :=
  ⟨plain_c, by intro e h; exact absurd h (by simp [dcore, dstr, Stream.idle]), by unfold Nests; decide +kernel, by decide +kernel, by decide +kernel, by decide +kernel, by decide +kernel, by decide +kernel⟩

/-- The target of an access that passes its checks. -/
def okAt : Checked → Option Target
  | .ok t => some t
  | _ => none

/-- How the witnesses below say that an access passes. -/
theorem ok_of {x : Checked} {t : Target} (h : okAt x = some t) : x = .ok t := by
  cases x <;> simp_all [okAt]

/-- A load of 8 bytes at 0x2008 of global memory, and one at 0x40 of the own scratchpad. -/
theorem test_meets_loads : RunsPlain (at_ .c dcore) .c dcore dsh ∧ Free dcore [3, 4] ∧ dcore.cs.acquiring = false ∧ (Target.dram 0x2008).outside = false
    ∧ (at_ .c dcore).checkAccess 0 dsh (plainReq (dcore.sreg 4 + (8#21).signExtend 64) 8 false 0 0) = .ok (.dram 0x2008)
    ∧ dcore.direct 0 (.dram 0x2008) = false ∧ dcore.served (plainReq (dcore.sreg 4 + (8#21).signExtend 64) 8 false 0 0) (.dram 0x2008) = none
    ∧ (at_ .c dcore).checkAccess 0 dsh (plainReq (dcore.sreg 6 + (0#21).signExtend 64) 1 false 0 0) = .ok (.pad 0 0x40) ∧ dcore.direct 0 (.pad 0 0x40) = true
    ∧ (at_ .c dcore).raceAt dsh (.pad 0 0x40) 1 false true false = none ∧ dst.hubOk (dieOf 0) = true :=
  ⟨plain_c, by unfold Free; decide +kernel, by decide +kernel, by decide +kernel, ok_of (by decide +kernel), by decide +kernel, by decide +kernel, ok_of (by decide +kernel), by decide +kernel⟩

/-- A store there: plain, and a release with nothing in flight. -/
theorem test_meets_stores : RunsPlain (at_ .c dcore) .c dcore dsh ∧ Free dcore [3, 4] ∧ dcore.cs.acquiring = false ∧ dcore.released (scopeAt 2 (.dram 0x2008)) = true ∧ (at_ .c dcore).heardOut 0 dcore (scopeAt 2 (.dram 0x2008)) = true ∧ Flushed dcore
    ∧ (at_ .c dcore).checkAccess 0 dsh (plainReq (dcore.sreg 4 + (8#22).signExtend 64) 8 true 2 2) = .ok (.dram 0x2008)
    ∧ dcore.direct 0 (.dram 0x2008) = false ∧ dcore.direct 0 (.pad 0 0x40) = true
    ∧ (at_ .c dcore).checkAccess 0 dsh (plainReq (dcore.sreg 6 + (0#22).signExtend 64) 8 true 0 0) = .ok (.pad 0 0x40) ∧ (at_ .c dcore).raceAt dsh (.pad 0 0x40) 8 true true false = none :=
  ⟨plain_c, by unfold Free; decide +kernel, by decide +kernel, by decide +kernel, by decide +kernel, by unfold Flushed; decide +kernel, ok_of (by decide +kernel), by decide +kernel, by decide +kernel, ok_of (by decide +kernel), by decide +kernel⟩

/-- An atomic of 4 and of 8 bytes there; CAS with its comparison equal and not. -/
theorem test_meets_atomics : RunsPlain (at_ .c dcore) .c dcore dsh ∧ Free dcore [3, 4, 6, 2] ∧ dcore.cs.acquiring = false ∧ dcore.released (scopeAt 1 (.dram 0x2000)) = true ∧ (at_ .c dcore).heardOut 0 dcore (scopeAt 1 (.dram 0x2000)) = true ∧ Flushed dcore
    ∧ (at_ .c dcore).checkAccess 0 dsh (atomicReq (dcore.sreg 4) 4 9 2 1) = .ok (.dram 0x2000) ∧ dcore.direct 0 (.dram 0x2000) = false
    ∧ (at_ .c dcore).checkAccess 0 dsh (atomicReq (dcore.sreg 6) 8 0 0 0) = .ok (.pad 0 0x40) ∧ (at_ .c dcore).raceAt dsh (.pad 0 0x40) 8 true false true = none :=
  ⟨plain_c, by unfold Free; decide +kernel, by decide +kernel, by decide +kernel, by decide +kernel, by unfold Flushed; decide +kernel, ok_of (by decide +kernel), by decide +kernel, ok_of (by decide +kernel), by decide +kernel⟩

/-- SpeculativeAccesses: room for a store and none, a watched load, nothing in flight on its line. -/
theorem test_meets_speculative : Runs (at_ .c score) .c score dsh ∧ score.spec = some dspec ∧ Free score [3, 4] ∧ (∀ f ∈ score.cs.flight, f.ord.getLsbD 0 = true → f.kind ≠ .store → f.rd = dspec.reg) ∧ dspec.stores.length < 32 ∧ dspec.watched.length < 32
    ∧ (at_ .c score).checkAccess 0 dsh (plainReq (score.sreg 4 + (8#22).signExtend 64) 8 true 0 0) = .ok (.dram 0x2008) ∧ (Target.dram 0x2008).outside = false ∧ (at_ .c score).blocked 0 (.dram 0x2008) = false
    ∧ (at_ .c score).checkAccess 0 dsh (plainReq (score.sreg 4 + (8#21).signExtend 64) 8 false 0 0) = .ok (.dram 0x2008) ∧ (at_ .c score).raceAt dsh (.dram 0x2008) 8 false true false = none
    ∧ (∀ g ∈ score.cs.flight, g.kind ≠ .load → g.target.line ≠ (Target.dram 0x2008).line) :=
  ⟨⟨rfl, rfl, rfl, fun _ => rfl⟩, rfl, by unfold Free; decide +kernel, by decide +kernel, by decide +kernel, by decide +kernel, ok_of (by decide +kernel), by decide +kernel, by decide +kernel, ok_of (by decide +kernel), by decide +kernel, by decide +kernel⟩

/-- A core whose first GiB is in the window of host port 0 (R85), and the module with it. -/
def hcor (c : Core) : Core := { c with utlb := [{ fetchTlb with entry := 0x79 + 2 ^ 56 }] }
def hst (c : Core) : State := at_ .c (hcor c)

/-- A load of it in flight, without and with its answer. -/
def dacc : Access :=
  { kind := .load, va := 0x2008, target := .dram 0x2008, size := 8, data := 0, cmp := 0, fn := 0, rd := 3, signed := true, ord := 0, scope := 0, path := 0, value := none, order := 0, region := 0, clock := 0, knows := [], since := 0, pc := 0x1006, tag := 0
    failed := false, held := false, fault := none }

/-- The core with accesses of its C-stream in flight. -/
def fcore (l : List Access) : Core := { dcore with cs := { dstr with flight := l }, pending := [3] }

/-- AccessChecksTrap: no aperture, a misaligned address, a pure shard, no translation, a sealed line, a poisoned one, another core's scratchpad without a shard, scope .sy to a scratchpad. -/
theorem test_meets_checks : RunsPlain (at_ .c dcore) .c dcore dsh ∧ Free dcore [3, 4] ∧ aperture 0x0200000000000000 = none ∧ aperture 0x2004 = some (0, 0x2004) ∧ 0x2004 % 8 ≠ 0
    ∧ dcore.translate 0 0 0x2008 .read = .ok (.dram 0x2008) ∧ ({ dcore with utlb := [] } : Core).translate 0 0 0x2008 .read = .miss ∧ ({ dcore with utlb := [], walkFails := [{ path := 0, page := 0, bits := 30, poisoned := false }] } : Core).translate 0 0 0x2008 .read = .fault ∧ ({ dcore with utlb := [], walkFails := [{ path := 0, page := 0, bits := 30, poisoned := true }] } : Core).translate 0 0 0x2008 .read = .poisoned
    ∧ ({ at_ .c dcore with sealed_ := [0x80] } : State).hitsSealed (.dram 0x2008) 8 = true ∧ ({ at_ .c dcore with poison := [0x80] } : State).poisoned (.dram 0x2008) 8 = true
    ∧ aperture 0xFF00000000000040 = some (1, 0x40) ∧ (at_ .c dcore).runsCtx 0 0 = true ∧ (at_ .c dcore).runsCtx 1 0 = false ∧ aperture 0xFF10000000040040 = some (2, 0x40040) ∧ (padOf 0 2 0x40040).1 = 1
    ∧ ({ at_ .c dcore with watched := [{ uid := 6, ctx := 0, word := .pad 0 0x40, write := true, data := true, atomic := false, region := 1, clock := 9 }] } : State).raceAt dsh (.pad 0 0x40) 8 true true false = some 0
    ∧ okAt (({ at_ .c dcore with watched := [{ uid := 6, ctx := 0, word := .pad 0 0x40, write := true, data := true, atomic := false, region := 1, clock := 9 }] } : State).checkAccess 0 dsh (plainReq 0xFF00000000000040 8 true 0 0)) = some (.pad 0 0x40)
    ∧ dcore.direct 0 (.pad 0 0x40) = true :=
  ⟨plain_c, by unfold Free; decide +kernel, by decide +kernel⟩

/-- WindowAccessWords: a load and an atomic of a host window; a load that the host has refused, under a handler. -/
theorem test_meets_window : RunsPlain (hst dcore) .c (hcor dcore) dsh ∧ Free (hcor dcore) [3, 4, 2] ∧ (Target.host 0 0x2008).outside = true
    ∧ (hst dcore).checkAccess 0 dsh (plainReq (dcore.sreg 4 + (8#21).signExtend 64) 8 false 0 0) = .ok (.host 0 0x2008)
    ∧ (hst dcore).checkAccess 0 dsh (atomicReq (dcore.sreg 4) 8 9 0 0) = .ok (.host 0 0x2000)
    ∧ (hcor dcore).released (scopeAt 0 (.host 0 0x2000)) = true ∧ (hst dcore).heardOut 0 (hcor dcore) 3 = true ∧ (let f := { dacc with target := .host 0 0x2008, failed := true }
        ({ fcore [f] with tvec := 0x2000 } : Core).cs.flight = [f] ∧ f.target.outside = true ∧ f.failed = true ∧ f.held = false ∧ f.fault = none ∧ f.kind ≠ .store ∧ ({ fcore [f] with tvec := 0x2000 } : Core).inh = false) :=
  ⟨⟨⟨rfl, rfl, rfl, fun _ => rfl⟩, fun _ => rfl⟩, by unfold Free; decide +kernel, by decide +kernel, ok_of (by decide +kernel), ok_of (by decide +kernel), by decide +kernel⟩

/-- FenceAndPublish: nothing in flight; a store, a load, a failed flushing read in flight; a bound publication window below 4,096; its port up and down. -/
theorem test_meets_fence : RunsPlain (at_ .c dcore) .c dcore dsh ∧ Flushed dcore ∧ dcore.cs.loadsDone = true ∧ dcore.fenced 0 3 = true ∧ (at_ .c dcore).heardOut 0 dcore 3 = true ∧ (fcore [{ dacc with kind := .store }]).cs.loadsDone = true ∧ (fcore [{ dacc with kind := .store }]).fenced 2 2 = false
    ∧ (fcore [dacc]).cs.loadsDone = false ∧ Free dcore [3, 8] ∧ dsh.pure = false ∧ dcore.cs.allZero = true ∧ (dcore.sreg 8).toNat < 4096 ∧ Map.look dst.ctxs 0 = some dctx
    ∧ (Map.look dctx.pubs 0).any Pub.bound = true ∧ (∀ f ∈ dcore.as.flight, f.kind = .store → f.target.outside = true → f.held = true) ∧ Map.look dst.hostDown 0 = none ∧ dst.hubOk (dieOf 0) = true
    ∧ Map.look ({ dst with hostDown := [(0, 5)] } : State).hostDown 0 ≠ none ∧ flushFailed { dacc with kind := .store, target := .host 0 0x2008, path := 6, failed := true } = true :=
  ⟨plain_c, by unfold Flushed; decide +kernel, by decide +kernel, by decide +kernel, by decide +kernel, by decide +kernel, by decide +kernel, by decide +kernel, by unfold Free; decide +kernel, by decide +kernel⟩

/-- ApertureAndViewWords: an address of each aperture, its first beyond, and one of none; a beat under way and none. -/
theorem test_meets_apertures : aperture 0xFF00000000000040 = some (1, 0x40) ∧ aperture 0xFF00000000040000 = none ∧ aperture 0x2000 = some (0, 0x2000)
    ∧ (0x3FFFF#64).toNat ≤ 0x3FFFF ∧ 0x17FFFFF < (0x1800000#64).toNat ∧ dcore.beat = none := by decide +kernel

/-- A ring of two entries of one granule at granule 2, and one whose entry reaches past the shard's granules. -/
def qcore (base full : Nat) : Core :=
  { dcore with queues := [(1, { base := BitVec.ofNat 11 base, lenm1 := 1, esz := 0, head := 0, tail := 1, buf := [], off := 0 })], full := BitVec.ofNat 2048 full }

/-- QueueWords: a full head, an empty one, one past HWM; an empty tail, a full one, one past HWM. -/
theorem test_meets_queues : RunsPlain (at_ .c (qcore 2 0x4)) .c (qcore 2 0x4) dsh ∧ ((qcore 2 0x4).queue 1).entry 0 + 1 ≤ 64 ∧ (qcore 2 0x4).allFull true 2 1 = true ∧ (qcore 2 0).allFull true 2 1 = false
    ∧ (qcore 2 0x4).allFull false 3 1 = true ∧ (qcore 2 0x8).allFull false 3 1 = false ∧ 64 < ((qcore 64 0).queue 1).entry 0 + 1 ∧ (qcore 2 0).released 0 = true :=
  ⟨plain .c _ dsh rfl rfl rfl, by decide +kernel⟩

/-- The event's parameters: core 0, a stream, an index. -/
def ev (c : Core) (σ : Strm) (i : Nat) : State := { at_ .c c with args := { Args.none with strm := σ, idx := i } }

/-- AccessesPerform: a load with and without its value, an atomic of the A-stream, a store that performs and one that fails for good. -/
theorem test_meets_performs : (ev (fcore [dacc]) .c 0).core? 0 = some (fcore [dacc]) ∧ (fcore [dacc]).cs.flight[0]? = some dacc ∧ dacc.target.outside = false ∧ dacc.held = false ∧ (ev (fcore [dacc]) .c 0).arrives 0 .c 0 dacc = true
    ∧ (ev (fcore [dacc]) .c 0).heldFault dsh dacc = none ∧ (ev (fcore [dacc]) .c 0).poisoned dacc.target 8 = false ∧ ({ ev (fcore [dacc]) .c 0 with poison := [0x80] } : State).poisoned dacc.target 8 = true
    ∧ (ev (fcore [dacc]) .c 0).storeFails dacc.target = false ∧ (fcore [{ dacc with value := some 1 }]).cs.flight[0]? = some { dacc with value := some 1 } := by decide +kernel

/-- HostWindowSteps: the oldest store of a host port, one that has left it, a load; the port's link up and down, the hub link up and down. -/
theorem test_meets_host_window : (∀ f ∈ [{ dacc with kind := .store, target := .host 0 0x2008 }, { dacc with kind := .store, target := .host 0 0x2008, path := 6 }, { dacc with target := .host 0 0x2008 }],
    (ev (fcore [f]) .c 0).core? 0 = some (fcore [f]) ∧ (fcore [f]).cs.flight[0]? = some f ∧ inOrder .c (fcore [f]).cs.flight 0 f = true ∧ (ev (fcore [f]) .c 0).hasTag 0 f = true ∧ (ev (fcore [f]) .c 0).leavesLater 0 0 f = false) ∧ Map.look dst.hostDown 0 = none ∧ dst.hubOk (dieOf 0) = true
    ∧ ({ dst with lanes := [40, 41, 42, 43] } : State).hubOk 0 = false
    ∧ Map.look ({ dst with hostDown := [(0, 5)] } : State).hostDown 0 ≠ none := by decide +kernel

/-- The cluster of core 0 with a miss of page 0x2000 being walked, and one of a page that the tables leave out. -/
def dmiss (page : Nat) : Miss := { ctx := 0, page := page, bits := 16, since := 900, core := 0, path := 1, others := [] }
def wst (mem : List Host.Cell) (page : Nat) : State :=
  { dst with clusters := [(0, { tlb := [], walks := [], misses := [dmiss page] })], mem := mem, args := Args.none }

/-- Tables from 0x8000 whose level-3 entry for page 0 is a leaf of 1 GiB. -/
def tables : List Host.Cell := Memory.setN (Memory.setN (Memory.setN [] 0x8000 (toBytes 8 0x10001)) 0x10000 (toBytes 8 0x11001)) 0x11000 (toBytes 8 0x79)

/-- The module with them. -/
def dtb : State := { dst with mem := tables }

/-- The core with a store in flight. -/
def dsta : Access := { dacc with kind := .store }

/-- WalksAndResumes: a walk that finds a leaf, one that finds nothing, one that meets poison; a queue and a full bit that have come; a PC of the V-stream behind its binary; a store in flight whose line has been sealed, and one whose line has not. -/
theorem test_meets_walks : (Map.look (wst tables 0).clusters 0).map (fun k => (k.misses.take 8)[0]?) = some (some (dmiss 0)) ∧ Map.look dst.ctxs 0 = some dctx
    ∧ (wst tables 0).walk [] 0 0 pageLevels 0x8000 = .leaf 0x79 30 ∧ (wst [] 0x1234).walk [] 0 0x12340000 pageLevels 0x8000 = .fault
    ∧ ({ wst tables 0 with poison := [0x8000 / 64] } : State).walk [] 0 0 pageLevels 0x8000 = .poisoned ∧ (wst tables 0).core? 0 = some dcore
    ∧ (qcore 2 0x4).allFull true 2 1 = true ∧ dcore.full.getLsbD 3 = true
    ∧ (match dst.fetch 0 dsh .v 0x11006 with | .trap _ _ => true | _ => false) = true ∧ dcore.inh = false ∧ dst.heldTrap 0 dcore dsh = none
    ∧ (ev (fcore [dsta]) .c 0).heldTrap 0 (fcore [dsta]) dsh = none
    ∧ ({ ev (fcore [dsta]) .c 0 with sealed_ := [0x80] } : State).heldTrap 0 (fcore [dsta]) dsh = some (.c, dsta, 9, 0x2008) := by decide +kernel

/-- CoreBarrierWords: the own core and a core of the cluster that runs no shard of the context as owners; a barrier with one arrival left, with two, not set up, at its phase and not; a core that waits in BARARW. -/
def bcore (pending : BitVec 12) : Core :=
  { dcore with barriers := [(5, { init := true, phase := 3, pending := pending, expect := 2, members := 1, arriving := [], completed := [] })] }

theorem test_meets_barriers : RunsPlain (at_ .c (bcore 1)) .c (bcore 1) dsh ∧ Free (bcore 1) [3, 8] ∧ (at_ .c (bcore 1)).core? 0 = some (bcore 1)
    ∧ barrierOwner (at_ .c (bcore 1)) (bcore 1) dsh 8 false = some 0 ∧ barrierOwner (at_ .c (bcore 1)) (bcore 1) dsh 3 true = none
    ∧ ((bcore 1).barrier 5).init = true ∧ ((bcore 1).barrier 5).pending = 1 ∧ ((bcore 2).barrier 5).pending ≠ 1 ∧ ((bcore 1).barrier 6).init = false ∧ (bcore 1).released 1 = true
    ∧ ((bcore 1).barrier 5).phase.toNat ≠ bits ((bcore 1).sreg 8).toNat 0 4 ∧ ((bcore 1).barrier 5).phase.toNat = bits ((bcore 1).sreg 2).toNat 0 4 ∧ (bcore 1).barWait = none
    ∧ ({ bcore 1 with barWait := some (0x1006, 3) } : Core).barWait = some ((bcore 1).cs.pc, 3) :=
  ⟨plain .c _ dsh rfl rfl rfl, by unfold Free; decide +kernel, by decide +kernel⟩

/-- TransactionBarrierWords: a barrier at 0x2000 with one arrival left and no unit, and with units left; at the phase of s8 (0) and not at that of s2 (3). -/
theorem test_meets_transaction_barriers : RunsPlain (at_ .c dcore) .c dcore dsh ∧ Free dcore [8, 4] ∧ dcore.cs.acquiring = false
    ∧ (at_ .c dcore).checkAccess 0 dsh { va := dcore.sreg 4 + (0#22).signExtend 64, size := 16, write := true, data := false, atomic := true, ord := 0, scope := 0, fn := 0, deviceOnly := true } = .ok (.dram 0x2000)
    ∧ (at_ .c dcore).tbWaits dcore (.dram 0x2000) = false ∧ (at_ .c (fcore [{ dacc with target := .dram 0x2008 }])).tbWaits (fcore [{ dacc with target := .dram 0x2008 }]) (.dram 0x2000) = true ∧ (at_ .c dcore).raceAt dsh (.dram 0x2000) 16 true false false = none ∧ dcore.released (tbScope (.dram 0x2000)) = true ∧ (at_ .c dcore).heardOut 0 dcore (tbScope (.dram 0x2000)) = true
    ∧ (let w := 0x10; (w / 2 ^ 4 + 2 ^ 32 - 1) % 2 ^ 32 = 0 ∧ w / 2 ^ 36 % 2 ^ 32 = 0) ∧ (let w := 2 ^ 36 + 0x10; w / 2 ^ 36 % 2 ^ 32 ≠ 0)
    ∧ ofBytes ((at_ .c dcore).readTarget (.dram 0x2000) 16) % 16 = (dcore.sreg 8).toNat % 16 ∧ ofBytes ((at_ .c dcore).readTarget (.dram 0x2000) 16) % 16 ≠ (dcore.sreg 2).toNat % 16 :=
  ⟨plain_c, by unfold Free; decide +kernel, by decide +kernel, ok_of (by decide +kernel), by decide +kernel⟩

/-- SpawnWords: the record at 0x2000 (all zero, so it names no kernel). -/
theorem test_meets_spawn : RunsPlain (at_ .c dcore) .c dcore dsh ∧ Free dcore [3, 4] ∧ dcore.cs.wait = .none ∧ (dcore.sreg 4).toNat < 2 ^ 56
    ∧ (at_ .c dcore).checkAccess 0 dsh { va := dcore.sreg 4, size := 256, write := false, data := false, atomic := false, ord := 0, scope := 2, fn := 0, deviceOnly := false } = .ok (.dram 0x2000)
    ∧ dst.refuses (.dram 0x2000) = false ∧ dcore.released 2 = true ∧ (at_ .c dcore).heardOut 0 dcore 2 = true ∧ (∀ f ∈ dcore.as.flight, f.writes = true → f.underway = false) ∧ (at_ .c dcore).blocked 0 (.dram 0x2000) = false
    ∧ (let s := at_ .c dcore; s.spawnEntry 0 dsh (s.taskOf 0 (s.readTarget (.dram 0x2000) 256) 0x2000 (some 0) none []) 1000 ≠ none) :=
  ⟨plain_c, by unfold Free; decide +kernel, by decide +kernel, by decide +kernel, ok_of (by decide +kernel), by decide +kernel⟩

/-- An inbox with an entry of the shard's context. -/
def icore : Core := { dcore with inbox := [{ block := 5, sender := 0, ctx := 0, since := 900, sentBy := 0, clock := 0 }] }

/-- InboxWords: the last core of a cluster and the first beyond; an inbox with room, with an entry of an earlier clk and with none; a wait whose target has left. -/
theorem test_meets_inbox : RunsPlain (at_ .c icore) .c icore dsh ∧ Free icore [3, 6, 8] ∧ aperture (icore.sreg 6).toNat = some (1, 0x40) ∧ 0x40 % 64 = 0 ∧ (icore.sreg 8).toNat ≤ 95
    ∧ (at_ .c icore).runsCtx (clusterBase 0 + 0) 0 = true ∧ dsh.pure = false ∧ icore.released 1 = true ∧ (∀ f ∈ icore.as.flight, f.writes = true → f.underway = false) ∧ icore.cs.wait ≠ .appendGone ∧ icore.inbox.length < 16 ∧ (at_ .c icore).poisoned (.pad 0 0x40) 64 = false
    ∧ (at_ .c icore).raceAt dsh (.pad 0 0x40) 64 false false false = none ∧ (at_ .c icore).inboxRace dsh 0 true = false ∧ (at_ .c icore).runsCtx (clusterBase 0 + 95) 0 = false
    ∧ (icore.inbox.find? fun x => x.ctx == dsh.ctx && x.since != dst.now).isSome = true ∧ (at_ .c icore).inboxRace dsh 0 false = false ∧ dcore.inbox.find? (fun x => x.ctx == dsh.ctx && x.since != dst.now) = none
    ∧ ({ dcore with cs := { dstr with wait := .appendGone } } : Core).cs.wait = .appendGone :=
  ⟨plain .c _ dsh rfl rfl rfl, by unfold Free; decide +kernel, by decide +kernel⟩

/-- YieldAndWfe: nobody waits for the core; a latch set, none, and a wait whose time has come. -/
theorem test_meets_yield : RunsPlain (at_ .c dcore) .c dcore dsh ∧ Free dcore [3, 8] ∧ ((at_ .c dcore).work 0).any (fun x => decide ((at_ .c dcore).shardEff dsh ≤ x.eff)) = false
    ∧ ({ dcore with latches := 4 } : Core).latches ≠ 0 ∧ dcore.latches = 0 ∧ dcore.cs.wait = .none ∧ dst.det 0 = false ∧ dst.freeSlot 0 = some 0 ∧ 900 ≤ dst.now :=
  ⟨plain_c, by unfold Free; decide +kernel, by decide +kernel⟩

/-- A kernel descriptor at 0x6400: an impure kernel of two words at 0x1000, 64 granules, one shard (R144). -/
def kmem : List Host.Cell :=
  Memory.setN (Memory.setN tables 0x6400 (toBytes 4 1 ++ toBytes 4 64 ++ toBytes 8 0x1000 ++ toBytes 8 12 ++ toBytes 4 0 ++ toBytes 4 6 ++ toBytes 4 6)) 0x6460 (toBytes 8 1 ++ toBytes 8 1 ++ toBytes 8 1 ++ toBytes 8 1)

/-- A ready task of it. -/
def rtask : Task := { dtask with state := .ready, shards := [.waiting], taskId := 0x78, kdesc := 0x6400 }

/-- The module with that task, and a core. -/
def kst (c : Core) : State := { at_ .c c with tasks := [(7, dtask), (8, rtask)], mem := kmem, sealed_ := [0x40, 0x190, 0x191, 0x192, 0x193] }

/-- ShardsDispatch, and the other clause of YieldAndWfe: the free core takes the task; a running one is wanted by it. -/
theorem test_meets_dispatch : ((kst Core.idle).takes 0 fun y => y.parked.isNone).map (fun x => (x.task, x.num)) = some (8, 0) ∧ Map.look (kst Core.idle).tasks 8 = some rtask
    ∧ ((kst Core.idle).kernel 0 0x6400).map Kernel.shards = some 1 ∧ rtask.resolved = true
    ∧ ((kst dcore).work 0).any (fun x => decide ((kst dcore).shardEff dsh ≤ x.eff)) = true ∧ (kst dcore).canPark dcore = true := by decide +kernel

/-- TrapEntry and TrapWithoutHandler: a core with a handler, one without, one inside its handler; a context under debug. -/
theorem test_meets_traps : RunsPlain (at_ .c dcore) .c dcore dsh ∧ (Map.look dst.ctxs dsh.ctx).any Ctx.debug = false ∧ dst.freeSlot 0 = some 0
    ∧ ({ dcore with tvec := 0x2000 } : Core).tvec ≠ 0 ∧ dcore.inh = false ∧ dcore.tvec = 0 ∧ ({ dcore with cause := 0x8000 } : Core).inh = true ∧ Map.look dst.tasks dsh.task = some dtask ∧ dtask.failed = none
    ∧ (Map.look ({ dst with ctxs := [(0, { dctx with debug := true })] } : State).ctxs dsh.ctx).any Ctx.debug = true ∧ dst.canPark dcore = true :=
  ⟨plain_c, by decide +kernel⟩

/-- TrapReturn: a core outside and inside its handler, whose trap was of the C-stream, of the V-stream, and of an access behind its stream. -/
theorem test_meets_return : RunsPlain (at_ .c { dcore with cause := 0x8001 }) .c { dcore with cause := 0x8001 } dsh ∧ ({ dcore with cause := 0x8001 } : Core).inh = true ∧ dcore.inh = false
    ∧ (at_ .c dcore).heldTrap 0 { dcore with cause := 0x8001 } dsh = none ∧ ({ dcore with cause := 0x8001 } : Core).cause.extractLsb' 8 2 = 0 ∧ ({ dcore with cause := 0x8201 } : Core).cause.extractLsb' 8 2 = 2 ∧ ({ dcore with cause := 0x8101 } : Core).cause.extractLsb' 8 2 = 1 ∧ dcore.as.halted = false
    ∧ dcore.cs.halted = false ∧ dcore.vs.halted = false ∧ hcore.vs.halted = true ∧ dcore.ahead = none ∧ (∀ f ∈ dcore.cs.flight ++ dcore.as.flight, f.held = false)
    ∧ (let d := { fcore [{ dsta with held := true }] with cause := 0x8009, ahead := some (.c, 0x1006, 0x1012) }; (at_ .c d).heldTrap 0 d dsh = none ∧ d.inh = true ∧ d.ahead = some (.c, 0x1006, 0x1012)) :=
  ⟨plain .c _ dsh rfl rfl rfl, by decide +kernel⟩

/-- LeaseWords: a free lease nobody waits for, one that is held, one that the core holds; the next in turn; a run at its bound. -/
theorem test_meets_leases : RunsPlain (at_ .c dcore) .c dcore dsh ∧ Free dcore [3] ∧ Map.look dst.arrays (arrayOf 0) = some darr ∧ darr.inService = true ∧ dst.hasLease 0 = false
    ∧ dst.leaseFree 0 = true ∧ dst.leaseWaiters 0 = [] ∧ ({ dst with arrays := [(0, { darr with holder := some 1, runOpen := true })] } : State).leaseFree 0 = false
    ∧ ({ dst with arrays := [(0, { darr with holder := some 0, runOpen := true })] } : State).hasLease 0 = true ∧ nextHolder 0 [0] = some 0 ∧ dcore.resuming = none ∧ arrayOf 0 = 0 :=
  ⟨plain_c, by unfold Free; decide +kernel, by decide +kernel⟩

/-- ShardRetires: a halted shard, with its M-commands done, and with one failed. -/
theorem test_meets_retire : (at_ .c { hcore with cs := { dstr with halted := true } }).core? 0 = some { hcore with cs := { dstr with halted := true } } ∧ Map.look dst.tasks dsh.task = some dtask
    ∧ hcore.mfailed = none ∧ dsh.num < dtask.shards.length ∧ ({ hcore with mfailed := some 3 } : Core).mfailed = some 3 := by decide +kernel

/-- Handle 0: a tensor of one tile of 8 × 8 elements .f32, at home on die 0, its descriptor in the sealed line at 0x7040 (R253, R344). -/
def tmem : List Host.Cell := Memory.setN (Memory.setN tables 0x7008 (toBytes 8 0x7040)) 0x7040 (toBytes 4 8 ++ toBytes 4 8 ++ toBytes 4 1 ++ toBytes 2 8 ++ toBytes 2 8 ++ toBytes 1 0xA ++ toBytes 1 0 ++ toBytes 1 1 ++ toBytes 1 1)

/-- Version 1 of its tile, key 3. -/
def dver : Version :=
  { ctx := 0, handle := 0, i := 0, j := 0, b := 0, version := 1, image := List.replicate 256 0x3F, twin := none, sealed_ := true, present := true, task := none, writer := none, writers := [], record := some (0, 0), lost := 0
    replica := none, freeLater := false, knows := [], asked := none, moved := [] }

/-- Its record, resident (R277). -/
def drec : Record :=
  { version := 3, tile := 1#128 <<< 96, taskId := 0x77, kdesc := 0x6400, khash := 0, seed := 9, arg0 := 0, arg1 := 0, roster := 0, ins := [], round := 0, group := 0, ctx := 0, flags := 0x80, depth := 1, retain := 1, prio := 0
    nin := 0, outix := 0, home := 0, replicaDie := 1, replicaPresent := false, replicaFlight := false, users := 0, win := 0, plen := 0, nonce := 0, keyid := 0, order := 5, own := 0 }

/-- The module with the tensor, the version and its record, and a core. -/
def tst (c : Core) : State :=
  { at_ .c c with
    ctxs := [(0, { dctx with htab := 0x7000, hcount := 1 })], mem := tmem, sealed_ := [0x1C1], versions := [(3, dver)]
    almanac := [(0, { records := [(0, drec)], next := 1, mirrored := false, mirrorLost := [], rebuilding := [], missed := 0, beat := 0, log := [], short := false })] }

/-- A core whose registers 10 and 11 name version 1 of the tile, and 12 and 13 a version that is not there. -/
def tcore : Core := { dcore with utlb := [fetchTlb], sregs := [(4, 0x2000), (10, 0), (11, 0x100000000), (12, 0), (13, 0x200000000)] }

/-- The row piece was found. -/
def isRow : RowFind → Bool
  | .row _ _ _ _ => true
  | _ => false

/-- It is of a version that no shard has written yet. -/
def isNewRow : RowFind → Bool
  | .row _ _ _ new => new
  | _ => false

/-- RowOpenWords: a row of an output not yet written; a row of the version; one past its image; a version that is not there; a cell row; a busy slot, an expired one, a free one; a quadrant in service and one out of it. -/
theorem test_meets_row_open : RunsPlain (tst tcore) .c tcore dsh ∧ Free tcore [3, 10, 11] ∧ dsh.mayRead (refOf (tcore.sreg 10) (tcore.sreg 11)) = true
    ∧ ({ dsh with pure := true } : Shard).mayRead (refOf (tcore.sreg 10) (tcore.sreg 11)) = false
    ∧ isRow ((tst tcore).findRow dsh (Ref.of (refOf (tcore.sreg 10) (tcore.sreg 11))) 0) = true ∧ isRow ((tst tcore).findRow dsh (Ref.of (refOf (tcore.sreg 10) (tcore.sreg 11))) 1) = false
    ∧ isRow ((tst tcore).findRow dsh (Ref.of (refOf (tcore.sreg 12) (tcore.sreg 13))) 0) = false
    ∧ isNewRow ((tst tcore).findRow { dsh with outs := [refOf (tcore.sreg 12) (tcore.sreg 13)] } (Ref.of (refOf (tcore.sreg 12) (tcore.sreg 13))) 0) = true ∧ aperture (tcore.sreg 4).toNat = some (0, 0x2000)
    ∧ tcore.translate 0 0 0x2000 .read = .ok (.dram 0x2000) ∧ ((tst tcore).holdAt tcore 2).state = .free ∧ ((tst tcore).holdAt { tcore with holds := [(2, { Hold.empty with state := .held })] } 2).state = .held
    ∧ (tst tcore).quadOk 5 = true ∧ ({ tst tcore with ports := [(0, { Port.initial 0 with inService := false })] } : State).quadOk 5 = false :=
  ⟨⟨⟨rfl, rfl, rfl, fun _ => rfl⟩, fun _ => rfl⟩, by unfold Free; decide +kernel, by decide +kernel⟩

/-- A held row since 500, until a deadline; the clock stands at 1,000. -/
def held (d : Nat) : Hold := { Hold.empty with state := .held, since := 500, deadline := d, row := .cell 0x2000, place := 8, request := 3000 }

/-- RowSlotWords: a free slot; a held one; one at its limit, since + 24,000; one that an event of this clk has already met, for which RREL comes too late; a context in deterministic mode. -/
theorem test_meets_row_slots : RunsPlain (at_ .c { dcore with holds := [(2, held 3500)] }) .c { dcore with holds := [(2, held 3500)] } dsh ∧ Free { dcore with holds := [(2, held 3500)] } [3]
    ∧ dst.holdAt { dcore with holds := [(2, held 3500)] } 2 = held 3500 ∧ (dst.holdAt dcore 2).state = .free ∧ dst.holdRenewed { dcore with holds := [(2, held 3500)] } 2 = held 3500 ∧ (held 3500).stamp.1 ≠ dst.now ∧ (held 24500).deadline = (held 24500).since + dst.hmax 8
    ∧ (held 3500).deadline ≠ (held 3500).since + dst.hmax 8 ∧ (at_ .c { dcore with holds := [(2, held 3500)] }).contended 8 = false ∧ dst.det 0 = false ∧ (held 3500).admits 1000 0 = true
    ∧ ({ held 3500 with stamp := (1000, 1) } : Hold).admits 1000 0 = false ∧ ({ dst with ctxs := [(0, { dctx with det := true })] } : State).det 0 = true :=
  ⟨plain .c _ dsh rfl rfl rfl, by unfold Free; decide +kernel, by decide +kernel⟩

/-- RowSlotSteps: an opening slot whose group nothing else holds; a slot at its deadline; the causes 2 and 4 of a revocation. -/
theorem test_meets_row_steps : (ev { dcore with holds := [(0, { held 0 with state := .opening })] } .c 0).core? 0 = some { dcore with holds := [(0, { held 0 with state := .opening })] }
    ∧ (ev { dcore with holds := [(0, { held 0 with state := .opening })] } .c 0).groupHeld 8 = false ∧ dst.rowResident (held 0) = true ∧ dst.retraining 8 = false ∧ dcore.resuming = none
    ∧ (held 999).open = true ∧ (held 999).deadline < dst.now ∧ ¬ (held 1000).deadline < dst.now ∧ dst.holders 8 = [] := by decide +kernel

/-- RowUpkeepSteps: a quadrant in service, a codeword of cell memory, a parked version with its record, and a Calendar period that has ended, with staged caps and in force. -/
theorem test_meets_row_upkeep : (({ dst with ports := [(0, Port.initial 0)] } : State).port? (quadOf 0)).isSome = true ∧ isQuadrant (quadOf 0) = true ∧ (Port.initial 0).inService = true
    ∧ dst.openedNow 0 = false ∧ dst.openRows 0 = [] ∧ (dst.port? 5).isSome = true ∧ (dst.port? 40).isSome = true ∧ ({ dst with now := 1500 } : State).planes = true ∧ (Port.initial 5).start + 1500 ≤ ({ dst with now := 1500 } : State).now
    ∧ isQuadrant 40 = false ∧ dst.cellAddr 0x2000 = true ∧ ({ drec with flags := 0x84 } : Record).flags.getLsbD fParked = true ∧ 0 < dver.pieces ∧ (Port.initial 5).forced = false
    ∧ (Port.initial 5).budgets.all (fun b => b.2.staged.isNone) = true := by decide +kernel

/-- AddressWords and BeatWordsIssue: no token asked for; a token there; none there. -/
theorem test_meets_address : RunsPlain (at_ .a dcore) .a dcore dsh ∧ dcore.tokenCount 1 = 0 ∧ 0 < ({ dcore with tokens := [(1, 1)] } : Core).tokenCount 1 :=
  ⟨plain .a dcore dsh rfl rfl rfl, by decide +kernel⟩

/-- A beat of ALD and of AST, the first of two, at 0x2000. -/
def dbeat (op : BitVec 8) : Beat := { op := op, q := if op = 0x40 then 0 else 8, base := 0x2000, ibase := 0, step := 64, beats := 2, size := 64, push := 0, j := 0, index := none, row := none, c0 := 0, c1 := 0 }

/-- The core at one; store queue 0 holds an entry of one granule at granule 2. -/
def acore (op : BitVec 8) : Core := { dcore with beat := some (dbeat op), queues := [(8, { base := 2, lenm1 := 1, esz := 0, head := 0, tail := 1, buf := [], off := 0 })] }

/-- The bytes that a store queue gives. -/
def taken : RegRead (List Byte × Core) → Option Nat
  | .ok x => some x.1.length
  | _ => none

/-- The code of a check that fails. -/
def trapAt : Checked → Option (BitVec 8)
  | .trap c _ => some c
  | _ => none

/-- LinearBeats: a load, a store, and a beat whose address has no translation. -/
theorem test_meets_beats : (∀ op ∈ [(0x40 : BitVec 8), 0x41], (ev (acore op) .a 0).core? 0 = some (acore op) ∧ (acore op).beat = some (dbeat op) ∧ (acore op).as.halted = false ∧ (acore op).inh = false ∧ (acore op).setas = []
      ∧ okAt ((ev (acore op) .a 0).checkFor 1 0 dsh (beatReq 0x2000 64 (op == 0x41))) = some (.dram 0x2000) ∧ (ev (acore op) .a 0).raceAt dsh (.dram 0x2000) 64 (op == 0x41) true false = none
      ∧ okAt ((ev { acore op with utlb := [] } .a 0).checkFor 1 0 dsh (beatReq 0x2000 64 false)) = none
      ∧ trapAt ((ev { acore op with beat := some { dbeat op with base := 0x2001 } } .a 0).checkFor 1 0 dsh (beatReq 0x2001 64 (op == 0x41))) = some 11)
    ∧ (acore 0x40).beatsOut < 64 ∧ (acore 0x40).direct 0 (.dram 0x2000) = false ∧ (acore 0x41).storesNow 0 (.pad 0 0x40) = true ∧ (acore 0x41).pops 8 64 = true
    ∧ 64 ≤ ({ dcore with as := { dstr with flight := List.replicate 64 dacc } } : Core).beatsOut ∧ taken ((acore 0x41).take 64 8 2 64) = some 64 := by decide +kernel

/-- A load queue with a partly placed entry, and a store queue with a partly taken one. -/
def flcore (q : Nat) : Core := { dcore with queues := [(q, { base := 20, lenm1 := 1, esz := 0, head := 0, tail := 0, buf := [1, 2, 3, 4, 5, 6, 7, 8], off := 8 })] }

/-- FlushWords and MulticastWords: an entry not begun, one of a store queue, one of a load queue; a multicast to cores 0 and 1, to no core, and from a misaligned offset. -/
theorem test_meets_flush : RunsPlain (at_ .a (flcore 0)) .a (flcore 0) dsh ∧ (∀ f ∈ (flcore 0).as.flight, f.fills 0 = false) ∧ ({ dacc with rd := 0, cmp := 3 } : Access).fills 0 = true ∧ (flcore 0).as.flight = [] ∧ ((flcore 1).queue 0).off = 0 ∧ ((flcore 0).queue 0).off ≠ 0
    ∧ (match (flcore 0).push 64 0 0x800 (granulesFrom (padTo (((flcore 0).queue 0).buf.take 8) ((flcore 0).entryBytes 0)) 1) with | .ok _ => true | _ => false) = true
    ∧ aperture 0xFF00000000000040 = some (1, 0x40) ∧ mcastCheck (at_ .a (acore 0x41)) dsh 0xFF00000000000040 1 0 64 = none ∧ (mcastCheck (at_ .a (acore 0x41)) dsh 0xFF00000000000040 2 0 64).isSome = true
    ∧ (mcastCheck (at_ .a (acore 0x41)) dsh 0xFF00000000000044 1 0 64).isSome = true ∧ taken ((acore 0x41).take 64 8 18 64) = some 64 :=
  ⟨plain .a _ dsh rfl rfl rfl, by decide +kernel⟩

/-! The V-stream: each word with operands at granules 2, 3 and 1 (its wide and tile operands at granules 0 to 15), in a type that it takes. -/

/-- The core with a vector type. -/
def vcore (t : BitVec 4) : Core := { dcore with vtype := t, gran := [(2, 0x01020304), (3, 0x0A0B0C0D)] }

/-- A word reads its operands there: its checks pass and each operand that it reads gives its granules. -/
def readsAt (t : BitVec 4) (v : VSpec) : Bool :=
  let c := vcore t
  match c.vcheck 64 v, c.vread 64 v.ak (stepSpec v.a c.vs.rep) with
  | none, .ok (_, c1) => match c1.vread 64 v.bk (stepSpec v.b c.vs.rep) with
    | .ok (gb, c2) => !v.late t.toNat gb && (!(v.readD t.toNat && !isQueue v.d) || match c2.vread 64 v.dk (stepSpec v.d c.vs.rep) with
      | .ok _ => true
      | _ => false)
    | _ => false
  | _, _ => false

/-- VectorIntegerLanes and VectorModeAndChecks: a word of each shape, at 8, 32 and 64 bits; a predicate that is 0; a type that VADD does not take. -/
theorem test_meets_vector_integer : RunsPlain (at_ .v (vcore 4)) .v (vcore 4) dsh
    ∧ ([0, 4, 6].all fun t => [vspec (.vadd 1 2 3 true 0) 1 2 3 true 0 .v .v .v setI, vspec (.vand 1 2 3 true 0) 1 2 3 true 0 .v .v .v setAny, vspec (.vabs 1 2 0 true 0) 1 2 0 true 0 .v .v .none setI,
        { vspec (.vsel 1 2 3 true 0) 1 2 3 true 0 .v .v .v setAny with dk := .vn, readD := fun _ => true }].all (readsAt t)) = true
    ∧ (vcore 4).vs.p 1 = false ∧ (vcore 4).vs.p 0 = true ∧ readsAt 10 (vspec (.vadd 1 2 3 true 0) 1 2 3 true 0 .v .v .v setI) = false
    ∧ (vcore 10).badOperands 64 (vspec (.vadd 1 2 3 true 0) 1 2 3 true 0 .v .v .v setI) = none ∧ readsAt 4 (vspec (.vclrf 1 0 0 true 0) 1 0 0 true 0 .vn .none .none setAny) = true :=
  ⟨plain .v _ dsh rfl rfl rfl, by decide +kernel⟩

/-- VectorWideWords. -/
theorem test_meets_vector_wide :
    (readsAt 4 (vspec (.vzero 1 0 0 true 0) 1 0 0 true 0 .v .none .none setAny) && readsAt 4 (vspec (.vmovi 1 0 5) 1 0 0 false 0 .v .none .none setAny)
      && readsAt 4 { vspec (.vmad 2 2 3 true 0) 2 2 3 true 0 .wn .v .v setI32 with readD := fun _ => true } && readsAt 4 (vspec (.vunpk 2 2 0 true 0) 2 2 0 true 0 .w .v .none setI32)
      && readsAt 4 (vspec (.vpack 1 2 3 true 0) 1 2 3 true 0 .v .v .v setI32)) = true := by decide +kernel

/-- VectorFloatLanes: a word of each shape, in .f32 and .bf16. -/
theorem test_meets_vector_float : ([8, 10].all fun t => [vspec (.vfadd 1 2 3 true 0) 1 2 3 true 0 .v .v .v setF, vspec (.vfabs 1 2 0 true 0) 1 2 0 true 0 .v .v .none setF,
    { vspec (.vfma 1 2 3 true 0) 1 2 3 true 0 .v .v .v setF with dk := .vn, readD := fun _ => true }].all (readsAt t)) = true := by decide +kernel

/-- VectorConversions: a conversion that widens, one that narrows, stochastic rounding, quantisation and MX blocks. -/
theorem test_meets_vector_conversions :
    ([(10, 8, 0), (8, 10, 1)].all fun e => readsAt (BitVec.ofNat 4 e.1) { vspec (.vcvt 1 2 (BitVec.ofNat 3 e.2.2) (BitVec.ofNat 4 e.2.1) true 0) 1 2 0 true 0 .v .v .c (fun t => t != 13 && e.2.1 != 13) with
        readD := fun t => decide (typeWidth t < typeWidth e.2.1), control := fun t => decide (e.2.2 < ratio e.2.1 t) }) = true
    ∧ (readsAt 8 { vspec (.vcvtsr 1 2 4 true 0) 1 2 4 true 0 .v .v .v (fun t => t == 8 || t == 9 || t == 11 || t == 12) with readD := fun _ => true, late := fun t gb => decide (32 / typeWidth t ≤ (counterOf gb).2.2.2) }
      && readsAt 14 (vspec (.vqnt 1 2 0 true 0) 1 2 0 true 0 .v .w .none setQ) && readsAt 14 (vspec (.vdqnt 2 2 0 true 0) 2 2 0 true 0 .w .v .none setQ)
      && readsAt 11 (vspec (.vmxq 1 2 0 true 0) 1 2 0 true 0 .v .w .none setMx) && readsAt 11 (vspec (.vmxd 2 2 0 true 0) 2 2 0 true 0 .w .v .none setMx)) = true := by decide +kernel

/-- VectorReductionsAndMoves. -/
theorem test_meets_vector_moves :
    (readsAt 4 (vspec (.vrsum 1 2 0 true 0) 1 2 0 true 0 .v .v .none fun t => setI t || setF t) && readsAt 10 (vspec (.vrsum 1 2 0 true 0) 1 2 0 true 0 .v .v .none fun t => setI t || setF t)
      && readsAt 4 (vspec (.vperm 1 2 3 true 0) 1 2 3 true 0 .v .v .v setAny) && readsAt 4 (vspec (.vslide 1 2 0xFF true 0) 1 2 0 true 0 .v .v .c setAny) && readsAt 4 (laneSpec (.vbcast 1 2 15 true 0) 1 2 15 true 0 .v)
      && readsAt 4 { laneSpec (.vins 1 2 15 true 0) 1 2 15 true 0 .vn with readD := fun _ => true } && readsAt 4 (vspec (.viota 1 2 0 true 0) 1 2 0 true 0 .v .v .none setI)
      && readsAt 4 (vspec (.vtrans 0 0 0 true 0) 0 0 0 true 0 .t .t .none fun t => typeWidth t == 32 || typeWidth t == 16) && readsAt 4 (vspec (.vrng 1 2 3 true 0) 1 2 0 true 0 .v .v .c setAny)) = true
    ∧ isInt 4 = true ∧ isInt 10 = false := by decide +kernel

/-! Matrix arrays and data movement. -/

/-- The core holds the lease of its array, with a format word for .i8 operands in the queue if `f`. -/
def mst (c : Core) : State := { at_ .c c with arrays := [(0, { darr with holder := some 0, runOpen := true })] }

/-- MatrixPushWords: no lease; a full format queue; a window past row 127; a token that is not there; a queue with room and a full one. -/
theorem test_meets_matrix_push : RunsPlain (mst dcore) .c dcore dsh ∧ Free dcore [8, 8] ∧ (mst dcore).hasLease 0 = true ∧ dst.hasLease 0 = false ∧ dcore.fmts.length < 8
    ∧ ¬ ({ dcore with fmts := [1, 2, 3, 4, 5, 6, 7, 8] } : Core).fmts.length < 8 ∧ dcore.mqueue.length < 16 ∧ dcore.tokenCount 2 = 0 ∧ dcore.released 0 = true ∧ dcore.cs.loadsDone = true ∧ (fcore [dacc]).cs.loadsDone = false ∧ (fcore [dsta]).cs.fiveZero = false ∧ dcore.cs.acquiring = false
    ∧ mChecks dcore { op := 0xB4, ra := 0, rb := 0, acc := false, m := 16, n := 16, k := 0, flags := 0, push := 0, fmt := 0, index := 1, pc := 0x1006, started := false, failed := none } = none
    ∧ (mChecks dcore { op := 0xB4, ra := 0x8000000000, rb := 0, acc := false, m := 128, n := 16, k := 0, flags := 0, push := 0, fmt := 0, index := 1, pc := 0x1006, started := false, failed := none }).isSome = true :=
  ⟨⟨⟨rfl, rfl, rfl, fun _ => rfl⟩, fun _ => rfl⟩, by unfold Free; decide +kernel⟩

/-- An M-command of 16 × 16 elements that has started, and, if `failed`, has met a lasting error. -/
def dm (op : BitVec 8) (push : BitVec 3) (failed : Option Nat) : MCmd :=
  { op := op, ra := 0, rb := 0, acc := false, m := 16, n := 16, k := 32, flags := 0, push := push, fmt := 0, index := 1, pc := 0x1006, started := true, failed := failed }

/-- MatrixCommandSteps and MatrixCommandEffects: the next command to start, behind a started one on the other accumulator and at the head; one that fails; one with a token; one of each kind. -/
theorem test_meets_matrix_steps : nextStart [dm 0xB4 0 none, { dm 0xB4 0 none with acc := true, started := false }] = some 1 ∧ nextStart [{ dm 0xB0 0 none with started := false }] = some 0
    ∧ dcore.mFails (dm 0xB4 0 (some 0)) = true ∧ (dm 0xB4 0 (some 0)).closes = false ∧ (dm 0xB6 0 (some 0)).closes = false ∧ ({ dm 0xB6 0 (some 0) with flags := 1 } : MCmd).closes = true ∧ dcore.slotted = [] ∧ dcore.tokenCount 4 < 15 ∧ dst.retrying 0 2 = false
    ∧ (∀ op ∈ [(0xB0 : BitVec 8), 0xB1, 0xB2, 0xB3, 0xB4, 0xB5, 0xB6, 0xB7, 0xB8], dcore.mFails (dm op 0 none) = false ∧ badWindow (dm op 0 none) = none ∧ (dm op 0 none).closes = false)
    ∧ (ev { dcore with mqueue := [dm 0xB4 0 none] } .c 0).core? 0 = some { dcore with mqueue := [dm 0xB4 0 none] } := by decide +kernel

/-- An X-command with a register destination, s3. -/
def dx (op : BitVec 8) (a b d : Word) (packet : List Byte) : XCmd :=
  { op := op, ra := a, rb := b, rc := d, rd := 3, cm := 1, tb := 0, cb := false, packet := packet, pc := 0x1006, order := 0, since := 0, started := true, groups := 0, subtracted := 0, written := 0, status := none, failAt := 0, cls := none, pushed := none, msgs := [], sent := false }

/-- A copy packet of 64 bytes from offset 0x100 to offset 0x200 of the own scratchpad. -/
def dpacket : List Byte := padTo (toBytes 8 0xFF00000000000100 ++ toBytes 8 0xFF00000000000200 ++ toBytes 4 64 ++ toBytes 4 64) 64

/-- A core with one X-command in its queue. -/
def xcore (x : XCmd) : Core := { dcore with xqueue := [x], pending := [3] }

/-- CommandPushWords: a packet in the scratchpad, one outside it, a misaligned one, a pure shard that reads what is no input of it; a queue with room. -/
theorem test_meets_command_push : RunsPlain (at_ .c dcore) .c dcore dsh ∧ Free dcore [7, 6, 8, 9] ∧ dcore.cs.acquiring = false ∧ xCheck1 0xC0 false 0xFF00000000000040 0 = none ∧ (xCheck1 0xC0 false 0x2000 0).isSome = true
    ∧ xCheck2 0xC0 false 0xFF00000000000040 0 = none ∧ (xCheck2 0xC0 false 0xFF00000000000048 0).isSome = true ∧ xCheck3 0 dsh 0xC0 0xFF00000000000040 0 0 [] = none
    ∧ (xCheck3 0 { dsh with pure := true } 0xC1 0 0x100000000 0 []).isSome = true ∧ xReads 0xC0 0xFF00000000000040 0 = some (0x40, 64) ∧ (at_ .c dcore).poisoned (.pad 0 0x40) 64 = false ∧ dcore.released 0 = true ∧ (at_ .c dcore).heardOut 0 dcore 0 = true ∧ (fcore [dsta]).released 0 = false ∧ (fcore [dsta]).cs.loadsDone = true ∧ (fcore [dacc]).cs.loadsDone = false
    ∧ dcore.xqueue.length < 16 :=
  ⟨plain_c, by unfold Free; decide +kernel⟩

/-- CommandStarts: the oldest command not started; a good and a malformed packet; a byte count of TSEAL.cb that 64 does not divide; references that the checks of R268 refuse and accept; a sealed version. -/
theorem test_meets_command_start : [{ dx 0xC0 0 0 0 dpacket with started := false }].findIdx? (fun y => !y.started) = some 0 ∧ Packet.malformed dpacket = false ∧ Packet.malformed [] = true ∧ (100#64).toNat % 64 ≠ 0
    ∧ (match (tst dcore).checkRef dsh (dx 0xC1 0 0x100000000 0 []).ref with | .inr t => t.twin == false | .inl _ => false) = true ∧ (match (tst dcore).checkRef dsh (dx 0xC1 5 0 0 []).ref with | .inl st => st == 5 | .inr _ => false) = true
    ∧ (match (tst dcore).sealedVersion dsh (dx 0xC1 0 0x100000000 0 []).ref with | .inr r => r.2.1 == 3 | .inl _ => false) = true
    ∧ (match (tst dcore).sealedVersion dsh (dx 0xC1 0 0x200000000 0 []).ref with | .inl st => st == 6 | .inr _ => false) = true ∧ dcore.resuming = none := by decide +kernel

/-- CopyGroups: the packet above, plain, with nothing before it in the queue. -/
theorem test_meets_copy : (ev (xcore (dx 0xC0 0 0 0 dpacket)) .c 0).core? 0 = some (xcore (dx 0xC0 0 0 0 dpacket)) ∧ (xcore (dx 0xC0 0 0 0 dpacket)).xqueue[0]? = some (dx 0xC0 0 0 0 dpacket) ∧ dst.retrying 0 1 = false
    ∧ (let p := Packet.of dpacket
      let s := ev (xcore (dx 0xC0 0 0 0 dpacket)) .c 0
      p.whole = false ∧ min 4096 p.len = 64 ∧ p.decode = false ∧ p.fill = false ∧ p.cvt = false ∧ p.qnt = false ∧ p.pack = false ∧ p.len ≤ p.cap ∧ aperture p.src.toNat = some (1, 0x100) ∧ aperture p.dst.toNat = some (1, 0x200)
        ∧ s.behind 0 dsh (xcore (dx 0xC0 0 0 0 dpacket)).xqueue 0 (dx 0xC0 0 0 0 dpacket) = false ∧ s.engineNeeds 0 dsh [] (p.srcSegs 0 64) = [] ∧ s.engineWaits 0 dsh [] (p.srcSegs 0 64) = false
        ∧ s.copyClear 0 dsh (dx 0xC0 0 0 0 dpacket) p = true ∧ s.poisoned (.pad 0 0x100) 64 = false ∧ s.watched = [] ∧ s.lostMarks = []) := by decide +kernel

/-- The state at a completion of the core's one X-command, with the tile world. -/
def xev (x : XCmd) : State := { tst (xcore x) with args := Args.none }

/-- The tile world without its ports: no channel of it is being retrained, wherever the layout tables put a row. -/
def unported : State := { tst dcore with ports := [] }

/-- CommandsComplete: a copy behind its last group; a status; sealed versions; a sealed range; a load that fits and one that does not; a store of a new output. -/
theorem test_meets_command_complete : (xev (dx 0xC1 0 0x100000000 0x400 [])).core? 0 = some (xcore (dx 0xC1 0 0x100000000 0x400 [])) ∧ (Packet.of dpacket).len ≤ 4096 * 1 ∧ dst.retrying 0 1 = false
    ∧ (xev (dx 0xC1 0 0x100000000 0x400 [])).behind 0 dsh (xcore (dx 0xC1 0 0x100000000 0x400 [])).xqueue 0 (dx 0xC1 0 0x100000000 0x400 []) = false
    ∧ ((tst dcore).findVersion 0 (dx 0xC1 0 0x100000000 0 []).ref).map Prod.fst = some 3 ∧ (tst dcore).kept dver = true ∧ unported.versionBlocked 3 dver = false ∧ (tst dcore).readable dver = true ∧ 0x400 + (dver.imageOf false).length ≤ 0x40000
    ∧ 0x40000 < 0x3FFC0 + (dver.imageOf false).length ∧ (tst dcore).raceAt (dsh.reading dver) (.pad 0 0x400) 256 true true false = none ∧ (tst dcore).raceAt dsh (.pad 0 0x400) 256 false true false = none
    ∧ (match (tst dcore).range 0 .read 0x2000 64 with | .ok _ => true | _ => false) = true ∧ (tst dcore).findVersion 0 (dx 0xC2 0 0x200000000 0 []).ref = none ∧ unported.storeBlocked dsh (dx 0xC2 0 0x200000000 0 []).ref = false
    ∧ ({ dsh with outs := [0x200000000#128 <<< 64] } : Shard).outs.contains (dx 0xC2 0 0x200000000 0 []).ref.word = true ∧ (tst dcore).poisoned (.pad 0 0x400) 256 = false ∧ (tst dcore).det 0 = false
    ∧ (tst dcore).tileStoreFull 0 1 = false := by decide +kernel

/-! Harvest. -/

/-- The declaration of group 5: two members, a quorum of 1, .f32, handle 0 for both tensors, FIRST 10, lag limits 3, weight by `w` (R305). -/
def ddecl (w : Nat) : List Byte := padTo (toBytes 2 5 ++ toBytes 1 2 ++ toBytes 1 1 ++ toBytes 1 (4 * w) ++ toBytes 1 0xA ++ toBytes 2 0 ++ toBytes 16 0 ++ toBytes 4 0 ++ toBytes 4 10 ++ toBytes 1 0x33) 128

/-- The group, with member 0 as given, at its first round. -/
def dgroup (m : Member) : Group := { ctx := 0, decl := ddecl 0, die := 0, open_ := 10, members := [(0, m)], rounds := [], inflight := [], stamp := (0, 0, 0) }

/-- Member 0, bound to the shard. -/
def dmember : Member := { Member.fresh true with bound := some (7, 0) }

/-- The module with the group and its declaration at 0x2000, sealed. -/
def gst (c : Core) (g : Group) : State := { tst c with groups := [(5, g)], mem := Memory.setN tmem 0x2000 (ddecl 0), sealed_ := [0x1C1, 0x80, 0x81] }

/-- HarvestMembershipWords: a member number beyond 63; a block that is misaligned, without a translation, not sealed, sealed and installed; member 1 free; a group that is not there; a shard that is bound and one that is not. -/
theorem test_meets_harvest_members : RunsPlain (gst dcore (dgroup dmember)) .c dcore dsh ∧ Free dcore [3, 4, 2] ∧ aperture 0x2000 = some (0, 0x2000) ∧ 0x2004 % 64 ≠ 0
    ∧ dcore.translate 0 0 0x2000 .read = .ok (.dram 0x2000)
    ∧ (gst dcore (dgroup dmember)).sealedRange 0 0x2000 128 = true ∧ (tst dcore).sealedRange 0 0x2000 128 = false ∧ (gst dcore (dgroup dmember)).readRange 0 0x2000 128 = some (ddecl 0)
    ∧ bits (field (ddecl 0) 0 2) 0 12 = 5 ∧ 1 < (dgroup dmember).n ∧ ((dgroup dmember).member 1).bound = none ∧ ((dgroup dmember).member 1).port = none ∧ (dgroup dmember).peers.testBit 1 = false
    ∧ (gst dcore (dgroup dmember)).bindings dsh < 8 ∧ (gst dcore (dgroup dmember)).groupOf? 0 6 = none ∧ (gst dcore (dgroup dmember)).groupOf? 0 5 = some (dgroup dmember) ∧ (dgroup dmember).binds 0 dsh = true ∧ (dgroup dmember).admits 1000 1 0 = true ∧ (dgroup dmember).admits 1000 2 0 = true
    ∧ ({ dgroup dmember with stamp := (1000, 3, 0) } : Group).admits 1000 1 0 = false ∧ (dgroup dmember).binds 1 dsh = false :=
  ⟨⟨⟨rfl, rfl, rfl, fun _ => rfl⟩, fun _ => rfl⟩, by unfold Free; decide +kernel⟩

/-- HarvestRoundWords: a payload that fits; a round before FIRST, one that waits, one whose result is there. -/
theorem test_meets_harvest_rounds : RunsPlain (gst dcore (dgroup dmember)) .c dcore dsh ∧ (gst dcore (dgroup dmember)).payloadSize (dgroup dmember) = some 256 ∧ 64 * 16 + 256 ≤ 0x40000 ∧ (dgroup dmember).proxy = false
    ∧ dcore.released 2 = true ∧ (gst dcore (dgroup dmember)).heardOut 0 dcore 2 = true ∧ dcore.aStoresDone 2 = true ∧ (gst dcore (dgroup dmember)).raceAt dsh (.pad 0 0x400) 256 true false false = none ∧ (gst dcore (dgroup dmember)).poisoned (.pad 0 0x400) 256 = false ∧ (gst dcore (dgroup dmember)).raceAt dsh (.pad 0 0x400) 256 false false false = none
    ∧ (match (gst dcore (dgroup dmember)).roundFor (dgroup dmember) 9 with | .status st => st == 9 | _ => false) = true ∧ (match (gst dcore (dgroup dmember)).roundFor (dgroup dmember) 10 with | .waits => true | _ => false) = true
    ∧ (let g : Group := dgroup dmember
      let s : State := { gst dcore g with ports := [], versions := [(3, { dver with version := 10 })] }
      (match s.roundFor { g with rounds := [(10, { Round.future with state := .sealed_ })] } 10 with | .ready key v _ => s.versionBlocked key v == false | _ => false) = true)
    ∧ (dgroup dmember).beforeFirst 9 = true ∧ (dgroup dmember).beforeFirst 10 = false ∧ (dgroup dmember).closed 10 = false ∧ (dgroup dmember).n ≤ 2 ∧ 0 < (dgroup dmember).n ∧ (dgroup dmember).lag 0 < 16 :=
  ⟨⟨⟨rfl, rfl, rfl, fun _ => rfl⟩, fun _ => rfl⟩, by decide +kernel⟩

/-- A contribution of member 0 under a tag. -/
def dcontr (tag : BitVec 32) : Contribution := { member := 0, tag := tag, taskId := 0x77, shard := 0, payload := List.replicate 256 0, core := some (0, 3), peer := none, uid := 5, knows := [] }

/-- ContributionsJudged: a repeat; a stalled member; a tag 16 rounds ahead, and 15; a lag of 4 beyond the limit of 3, and a late one where weight 3 gives none. -/
theorem test_meets_contributions : ({ dgroup dmember with inflight := [dcontr 10] } : Group).inflight[0]? = some (dcontr 10) ∧ (dgroup dmember).proxy = false ∧ (dgroup dmember).admits 1000 0 0 = true ∧ dcore.shard.any (fun h => h.uid == 5) = true
    ∧ (({ dmember with hist := [(0x77, 0, 10, 10)] } : Member).hist.find? fun h => h.1 == 0x77 && h.2.1 == 0 && h.2.2.1 == 10).isSome = true ∧ ({ dmember with stalled := true } : Member).stalled = true
    ∧ (let g := dgroup dmember; let tag (t : BitVec 32) := g.later (g.later t g.open_) (g.nextOf 0)
      15 < (tag 26 - g.open_).toNat ∧ (tag 25 - g.open_).toNat ≤ 15 ∧ g.lag 0 < (tag 6 - 6).toNat ∧ (tag 7 - 7).toNat ≤ g.lag 0 ∧ 0 < (tag 7 - 7).toNat ∧ ({ g with decl := ddecl 3 } : Group).weight = 3) := by decide +kernel

/-- RoundsAndMembersEnd: a closing round whose contribution is there, and is lost; a result that is not there yet; a member whose shard is lost. -/
theorem test_meets_rounds : (let g : Group := { dgroup dmember with rounds := [(10, { Round.future with state := .closing, roster := 1 })] }
      let s : State := { gst dcore g with versions := [(3, { dver with version := 10, handle := 0 })] }
      (Map.look g.rounds 10).isSome = true ∧ (rosterMembers 1).all (fun m => match s.findVersion 0 (g.contribRef m 10) with | some e => s.live e.2 | none => false) = true ∧ (s.contributions g 10 1).isSome = true
        ∧ ((gst dcore g).findVersion 0 (g.contribRef 0 10)).isNone = true ∧ (gst dcore g).findVersion 0 (g.resultRef 10) = none)
    ∧ dmember.bound.any { dst with tasks := [] }.lostShard = true := by decide +kernel

/-! Host queues, tasks, seals, errors. -/

/-- A queue with one packet at its head, its WIDX 1, RIDX 0. -/
def qst (typ addr : Nat) : State :=
  let q : HostQueue := { ring := 0x4000, widx := 0x5000, ridx := 0x5008, e := 4, pending := true, scanning := false, bad := 0, open_ := [], marks := [] }
  { dst with
    ctxs := [(0, { dctx with queues := [(0, q)] })]
    mem := Memory.setN (Memory.setN tables 0x4000 (toBytes 2 typ ++ toBytes 2 0 ++ toBytes 4 (if typ = 2 then 1 else 0) ++ toBytes 8 addr)) 0x5000 (toBytes 8 1 ++ toBytes 8 0) }

/-- HostPackets and QueueDoorbells: a good packet of each type, and one whose record is misaligned; a queue in use and one that is not. -/
theorem test_meets_packets : (∀ e ∈ [(1, 0x6000, false), (2, 0x6000, false), (3, 0x6000, false), (4, 0, false), (1, 0x6010, true)],
      let s := qst e.1 e.2.1
      (s.queue? 0 0).any (fun x => s.serves 0 0 x && match s.headPacket 0 x with
        | some (i, p) => pkType p == e.1 && s.badPacket 0 p == e.2.2 && (match s.consume 0 x i with | some s' => s'.queue? 0 0 == some x && (2 < e.1 || e.2.2 || (s'.packetRecords 0 p).isSome) | none => false)
        | none => false) = true)
    ∧ (∃ x, Map.look dctx.queues 0 = some x ∧ x.e ≠ 0 ∧ dctx.state = 1) ∧ (∀ x, Map.look dctx.queues 1 = some x → x.e = 0) :=
  ⟨by decide +kernel, ⟨_, rfl, by decide, rfl⟩, by intro x h; simp [dctx, Map.look] at h⟩

/-- TasksBecomeReadyAndAge: a pending task with no input; one with DEPS left; a pool at its boundary and one clk before; a task ready before this clk. -/
theorem test_meets_ready : (let t : Task := { dtask with state := .pending }
      t.deps = 0 ∧ t.failed = none ∧ t.lost = none ∧ t.entry < 8 ∧ dst.inputsReady t = true ∧ (Map.look dst.ctxs t.ctx).any (fun c => c.state == 1) = true ∧ ({ t with deps := 1 } : Task).deps ≠ 0
        ∧ dst.inputsReady { t with ins := [5] } = false)
    ∧ (Map.look dst.pools 0).any (fun p => decide (p.last + p.age.toNat ≤ 30000) && !decide (p.last + p.age.toNat ≤ 29999)) = true ∧ rtask.readyAt < dst.now ∧ dst.poolDie rtask = 0 := by decide +kernel

/-- TasksComplete: a task that has failed; one that seals with no seal left and with one; one whose shards have all retired, without outputs, and with one whose version is there; a completion record in plain memory. -/
theorem test_meets_complete : (let t : Task := { dtask with shards := [.retired] }
      t.live = false ∧ t.rebuild = none ∧ dtask.live = true ∧ t.outs = [] ∧ (∀ x ∈ t.shards, x = .retired)
        ∧ (({ t with outs := [1#128 <<< 96] } : Task).outputs.any fun o => (tst dcore).outputTaken 7 { t with outs := [1#128 <<< 96] } o.1) = true
        ∧ (({ t with outs := [0x2#128 <<< 96] } : Task).outputs.any fun o => (tst dcore).outputTaken 7 { t with outs := [0x2#128 <<< 96] } o.1) = false)
    ∧ dtb.rangePoisoned 0 0x6200 32 = false ∧ (match dtb.range 0 .write 0x6200 32 with | .ok l => l == [(.dram 0x6200, 32)] | _ => false) = true ∧ dst.refuses (.dram 0x6200) = false
    ∧ dst.hitsSealed (.dram 0x6200) 32 = false := by decide +kernel

/-- A parked shard with the lease to get back. -/
def dparked : Parked := { shard := dsh, core := dcore, fromCore := 0, slot := 0, header := 0, lease := true, rows := [], parkedAt := 900, aged := 0, debug := false, needsArray := false, trapAt := none }

/-- PreemptionSteps: a rebuild task that no free core can take and a running shard of lower priority; lines of park and of discard; a free slot and none; a parked shard that no core fits. -/
theorem test_meets_preempt : (let u : Task := { rtask with rebuild := some [(3, 0)] }
      let s := { kst dcore with tasks := [(7, dtask), (8, u)] }
      (s.kernel 0 0x6400).any (fun k => s.wantsCore 8 u k && (s.victim u k).map (fun v => v.1) == some 0) = true)
    ∧ dst.canPark dcore = true ∧ dst.freeSlot 0 = some 0 ∧ ({ dst with ctxs := [(0, { dctx with usedSlots := [0, 1] })] } : State).freeSlot 0 = none
    ∧ dcore.cs.flight = [] ∧ dcore.as.flight = [] ∧ dcore.mqueue = [] ∧ dcore.spec = none ∧ (dst.cores.any fun e => dst.fits e.1 2049) = false
    ∧ (let s : State := { at_ .c Core.idle with tasks := [(7, { dtask with shards := [.parked] })], parked := [(30, dparked)] }
      (s.takes 0 fun y => y.parked.isSome).bind Cand.parked = some 30 ∧ dcore.holds = [] ∧ s.hasLease 0 = false)
    ∧ dst.canPark (xcore (dx 0xC3 0 0 0 [])) = false := by decide +kernel

/-- The first 8 KiB of a save slot as a park wrote them: no granule, the lease to come back, and the device's own bytes behind. -/
def dheader : List Byte := toBytes 8 0x77 ++ toBytes 2 0 ++ toBytes 2 0 ++ toBytes 2 0 ++ [4] ++ headerRest 0

/-- The module with the parked shard, and its save slots in a window of host port 0, whose memory is given. -/
def rstOf (m : List Host.Cell) : State :=
  { at_ .c Core.idle with
    tasks := [(7, { dtask with shards := [.parked] })], parked := [(30, dparked)]
    mem := Memory.setN tables 0x11000 (toBytes 8 (0x79 + 2 ^ 56)), host0 := m }

/-- With that header in slot 0. -/
def rst : State := rstOf (Memory.setN [] 0x100000 dheader)

/-- Behind the freeing of the slot. -/
def rfree (m : List Host.Cell) : State := { rstOf m with parked := [] }

/-- Bytes in a row are read in one piece or line by line. -/
theorem lines_getN (m : List Host.Cell) (a k : Nat) : ((List.range k).flatMap fun i => Memory.getN m (a + 64 * i) 64) = Memory.getN m a (64 * k) := by
  have add (a n k : Nat) : Memory.getN m a (n + k) = Memory.getN m a n ++ Memory.getN m (a + n) k := by
    induction n generalizing a with
    | zero => simp [Memory.getN]
    | succ n ih => rw [Nat.add_right_comm, Memory.getN, Memory.getN, ih, List.cons_append, Nat.add_assoc a 1 n, Nat.add_comm 1 n]
  induction k with
  | zero => rfl
  | succ k ih => rw [List.range_succ, List.flatMap_append, ih, Nat.mul_succ, add]; simp

/-- The lines of the header, none of which the host refuses or has poisoned. -/
theorem rst_range : (rfree (Memory.setN [] 0x100000 dheader)).range 0 .read 0x100000 0x2000 = .ok ((List.range 128).map fun i => (.host 0 (0x100000 + 64 * i), 64))
    ∧ (((List.range 128).map fun i => (Target.host 0 (0x100000 + 64 * i), 64)).any fun p => (rfree (Memory.setN [] 0x100000 dheader)).refuses p.1 || (rfree (Memory.setN [] 0x100000 dheader)).poisoned p.1 p.2) = false := by
  decide +kernel

/-- What a range of lines of a host reads as. -/
theorem lines_host (s : State) (m : List Host.Cell) (h : s.hostMem 0 = m) (a k : Nat) :
    (((List.range k).map fun i => (Target.host 0 (a + 64 * i), 64)).flatMap fun p => s.readTarget p.1 p.2) = Memory.getN m a (64 * k) := by
  subst h
  rw [List.flatMap_map]
  exact lines_getN _ _ _

/-- A resume finds that header. -/
theorem rst_header : (rfree (Memory.setN [] 0x100000 dheader)).readRange 0 0x100000 0x2000 = some dheader := by
  have hm (m : List Host.Cell) : (rfree m).hostMem 0 = m := rfl
  have hl : dheader.length = 64 * 128 := by simp [dheader, headerRest, toBytes]
  simp only [State.readRange, rst_range.1, rst_range.2, Bool.false_eq_true, if_false, lines_host _ _ (hm _)]
  exact congrArg some (hl ▸ Memory.getN_setN_self [] 0x100000 dheader)

/-- PreemptionSteps: a parked shard that a free core may take, whose slot is as its park wrote it. -/
theorem test_meets_resume : ∃ c h, let free : State := rfree (Memory.setN [] 0x100000 dheader)
    Map.look rst.parked 30 = some dparked ∧ rst.lingers 0 = false ∧ (rst.takes 0 fun y => y.parked.isSome).bind Cand.parked = some 30 ∧ rst.core? 0 = some Core.idle
      ∧ free.asRead 0 (rst.slotAddr 0 0) dparked = dparked ∧ (Map.look rst.arrays (arrayOf 0)).all Array.inService = true
      ∧ free.readSlot 0 (rst.slotAddr 0 0) dparked = some (c, h, true) ∧ c.holds = [] ∧ rst.hasLease 0 = false := by
  have ha : (rfree (Memory.setN [] 0x100000 dheader)).asRead 0 0x100000 dparked = dparked := by
    have hd : dheader.drop 15 = headerRest 0 := by unfold dheader; exact List.drop_left' (by decide)
    simp only [State.asRead, rst_header, show dparked.header = 0 from rfl, hd, if_true]
  have hs : ((rfree (Memory.setN [] 0x100000 dheader)).readSlot 0 0x100000 dparked).map (fun x => (x.2.2, x.1.holds)) = some (true, []) := by
    simp only [State.readSlot, Nat.add_zero, rst_header]
    decide +kernel
  obtain ⟨⟨c, h, l⟩, hs, he⟩ := Option.map_eq_some_iff.1 hs
  obtain ⟨rfl, hh⟩ := Prod.mk.inj he
  exact ⟨c, h, by decide +kernel, by decide +kernel, by decide +kernel, by decide +kernel, ha, by decide +kernel, hs, hh, by decide +kernel⟩

/-- A parked shard of 3,000 granules, which has not committed, and one core with room for 2,048. -/
theorem test_meets_too_large : (let p : Parked := { dparked with shard := { dsh with hwm := 3000 } }
    let s : State := { kst Core.idle with tasks := [(7, { dtask with shards := [.parked], kdesc := 0x6400 })], parked := [(30, p)] }
    s.tooLarge 30 p = true) := by decide +kernel

/-- A seal report of the version, of task 7. -/
def dseal : Seal := { version := 3, task := some 7, outix := 0, round := none, root := false, replica := false, impure := false, reseal := false, since := 900, die := 0 }

/-- The tile world with that report in the channel and the version as given. -/
def sst (v : Version) (q : Seal) : State := { tst dcore with seals := [q], versions := [(3, v)] }

/-- SealsAndCopies: the first report of an unsealed version, which no TDROP has found in this clk; a second seal; a second report of the same seal; a shard with a free record; a replica and a fetch on their way. -/
theorem test_meets_seals : (sst { dver with sealed_ := false, record := none } dseal).firstSeal 0 dseal = true ∧ (sst dver dseal).homeDie dver = 0 ∧ dver.asked ≠ some dst.now
    ∧ (Map.look (sst dver dseal).almanac 0).bind Almanac.freeIndex = some 1 ∧ (Map.look (sst dver dseal).almanac 0).map Almanac.short = some false ∧ (sst dver { dseal with reseal := true }).firstSeal 0 { dseal with reseal := true } = true
    ∧ (tst dcore).record? 0 0 = some drec ∧ (tst dcore).tileStoreFull 1 1 = false ∧ (tst dcore).readable dver = true ∧ ({ tst dcore with dies := 3 } : State).dies.getLsbD 1 = true
    ∧ drec.ins = [] ∧ (tst dcore).readRange 0 0x2000 64 ≠ none := by decide +kernel

/-- LossAndRebuilding: the loss of the one piece of a version; a version that is not present with each kind of record: replicated, parked, lossy, with nothing missing, of a round; a lost task. -/
theorem test_meets_loss : (1#66).toNat < 2 ^ dver.pieces ∧ (tst dcore).readable dver = true
    ∧ (let v : Version := { dver with present := false, lost := 1 }
      let s : State := { tst dcore with versions := [(3, v)] }
      s.lossy v = false ∧ s.hopeless (s.recordCount + 1) 0 0 = false ∧ s.missingInputs drec = [] ∧ s.marked 0 0 = false ∧ s.rebuilder drec = none ∧ drec.flags.getLsbD 6 = false ∧ drec.flags.getLsbD 2 = false
        ∧ drec.flags.getLsbD 3 = false ∧ s.fetches = [])
    ∧ ({ drec with replicaPresent := true } : Record).replicaPresent = true ∧ ({ drec with flags := 0x84 } : Record).flags.getLsbD 2 = true
    ∧ ({ dtask with shards := [.stopped], lost := some (false, 0) } : Task).live = false := by decide +kernel

/-- An error record of class 0 in retry. -/
def derr (cls : BitVec 8) : ErrRec := { sev := 1, cls := cls, die := 0, unit := 0, inst := 0, ctx := 0, loc := 0x2000, item := 0, time := 0, owner := none }

/-- ErrorSteps: a class that can be corrected and one that cannot; what a lasting error strikes; the record that is next; a heartbeat at its period and one clk before. -/
theorem test_meets_errors : detects 0 0 = true ∧ detects 0 1 = true ∧ correctable 1 = true ∧ correctable 0 = false ∧ dst.dies.getLsbD 0 = true ∧ canStrike 0 0 1 = true ∧ canStrike 3 0 0 = true ∧ canStrike 3 2 4 = true
    ∧ detects 2 3 = true ∧ bits (2 ^ 18) 18 3 = 1 ∧ bits 0 18 3 = 0 ∧ (derr 0).concerns 1 0 = true ∧ dst.cellAddr 0x2000 = true ∧ (∀ e ∈ dst.cores, e.2.holds = []) ∧ ({ dst with bus := [derr 0] } : State).bus[0]? = some (derr 0)
    ∧ (Map.look dst.almanac 0).any (fun a => decide (a.beat + 15000 ≤ 15000) && !decide (a.beat + 15000 ≤ 14999)) = true := by decide +kernel

/-- UnitsOutOfService: a die whose heartbeats are missed; a quadrant in service, and one of whose rows 16 periods have failed to write back; a channel with 257 errors in its window, one being retrained, one whose retraining ends now; a lane; a unit with two lasting errors. -/
theorem test_meets_units : ({ dst with almanac := [(0, { records := [], next := 0, mirrored := false, mirrorLost := [], rebuilding := [], missed := 2, beat := 0, log := [], short := false })] } : State).doomed 0 = true ∧ (Port.initial 0).inService = true ∧ (∃ w ∈ ({ Port.initial 0 with wbFails := [(7, (16, 3))] } : Port).wbFails, 16 ≤ w.2.1)
    ∧ 256 < ((Map.lookD [(0, List.replicate 257 900)] 0 []).filter fun t => decide (1000 < t + 1500000)).length ∧ Map.look (Port.initial 0).retraining 0 = none
    ∧ Map.look ({ Port.initial 0 with retraining := [(0, 5)] } : Port).retraining 0 = some 5 ∧ (derr 5).cls = 5 ∧ (71#64).toNat < 72 ∧ 71 ∉ dst.lanes
    ∧ ({ dst with errors := [{ derr 4 with sev := 2, unit := 3, time := 10 }, { derr 4 with sev := 2, unit := 3, time := 20 }] } : State).testable 0 3 0 = true := by decide +kernel

/-! Mailboxes, registers, hosts, peers. -/

/-- A command of host port 0 at the head of the queue. -/
def cst (code : Nat) (args : Map Word) : State := { dst with commands := [(0, 900)], mailboxes := [(0, { cmd := BitVec.ofNat 64 code, busy := true, status := 0, args := args })] }

/-- Commanded holds of it. -/
theorem commanded (code : Nat) (h : code < 2 ^ 16) (args : Map Word) : Commanded (cst code args) 0 { cmd := BitVec.ofNat 64 code, busy := true, status := 0, args := args } code := by
  refine ⟨⟨900, [], rfl, Nat.lt_of_lt_of_le (by decide : 900 < 1000) (Nat.le_refl 1000)⟩, rfl, ?_, rfl⟩
  simp only [Mailbox.code, bits, BitVec.toNat_ofNat]
  omega

/-- ContextCommands and ShardAndKeyCommands: a context that is not resident, another port's, the port's own; an entry that fits; a good and a bad handle table; a publication in and past its table; a range of pages; the named shard; a key slot in use and free. -/
theorem test_meets_context_commands : Commanded (cst 2 []) 0 { cmd := 2, busy := true, status := 0, args := [] } 2 ∧ Map.look dst.ctxs 1 = none ∧ ({ dctx with owner := 1 } : Ctx).owner ≠ 0 ∧ dctx.owner = 0
    ∧ (let s : State := { dst with ctxt := 0x10000, mem := Memory.setN tables 0x10108 (toBytes 8 0x8000 ++ toBytes 8 0x7000 ++ toBytes 4 0 ++ toBytes 4 0 ++ toBytes 8 0x9000 ++ toBytes 4 2 ++ toBytes 1 4) }
      s.entryFits 1 = true ∧ (({ s with free := s.free + 2 } : State).installCtx 1 (s.ctxOf 1 0)).isSome = true) ∧ dst.entryFits 255 = false
    ∧ dst.cellAddr 0x7000 = true ∧ 0x7008 % 16 ≠ 0 ∧ dst.tilesGoing 0 = false ∧ dst.translating 0 0 0x10000 = false ∧ 0 < dctx.npub ∧ (dtb.readRange 0 0 32).isSome = true
    ∧ (dst.namedCore 0 { cmd := 8, busy := true, status := 0, args := [(1, 0x77), (2, 0)] }).map (fun x => x.1) = some 0 ∧ dst.namedCore 0 { cmd := 8, busy := true, status := 0, args := [(1, 0x78), (2, 0)] } = none
    ∧ dsh.committed = false ∧ dst.keyInUse 3 = false ∧ (at_ .c (xcore { dx 0xC6 0 0 0 (List.replicate 12 0 ++ [3]) with started := true })).keyInUse 3 = true ∧ dst.physOk 0x2000 2048 = true :=
  ⟨commanded 2 (by decide) [], by decide +kernel⟩

/-- A context entry that fits, for context 1, and an installed key. -/
def est : State := { dst with ctxt := 0x10000, keys := [(0, 9), (5, 9)], mem := Memory.setN tables 0x10108 (toBytes 8 0x8000 ++ toBytes 8 0x7000 ++ toBytes 4 0 ++ toBytes 4 0 ++ toBytes 8 0x9000 ++ toBytes 4 2 ++ toBytes 1 4) }

/-- A checkpoint at an area of port 0. -/
def dsnap : Snapshot :=
  { area0 := 0x10000, area1 := 0, sealed_ := [], sealedBy := [], poison := [], tasks := [], parked := [], ctxs := [], versions := [], almanac := [], groups := [], remap := [], replicas := [], fetches := [] }

/-- ParkAndCheckpointCommands: a shard whose halt line is down, none that runs, an installed key, a link up and down, the hub links up and down; an area that fits, without pages, whose key is installed; a checkpoint that is there, and an address that its image restores. What an area holds, and whether a saved image verifies, rests on the free values of Config. -/
theorem test_meets_park_commands : Commanded (cst 3 [(0, 0), (3, 5)]) 0 { cmd := 3, busy := true, status := 0, args := [(0, 0), (3, 5)] } 3 ∧ dsh.halt = 0 ∧ ({ dst with keys := [(5, 9)] } : State).keys = [(5, 9)]
    ∧ (let s : State := { dst with cores := [], tasks := [] }; s.haltAll (fun sh => sh.ctx == 0) = none ∧ s.ctxBusy 0 = false) ∧ dst.ctxBusy 0 = true ∧ dst.ckptDown 0x10000 0 = false
    ∧ ({ dst with hostDown := [(0, 5)] } : State).ckptDown 0x10000 0 = true ∧ (∀ e ∈ ({ dst with cores := [(0, Core.idle)] } : State).cores, e.2.shard = none) ∧ dst.hubsUp = true ∧ ({ dst with lanes := [40, 41, 42, 43] } : State).hubsUp = false ∧ dctx.state = 1
    ∧ (est.entryFits 1 = true ∧ Map.look est.ctxs 1 = none ∧ Memory.num est.host0 (0x20000 + 24) 8 = 0 ∧ 0x20000 + 96 ≤ 0x20000 + 96 ∧ est.framesFor (est.ctxOf 1 0).ptroot [] = some []
      ∧ Map.look est.keys (field (Memory.getN est.host0 0x20040 32) 12 1) = some 9 ∧ Map.look dst.keys 0 = none)
    ∧ ({ dst with ckpts := [dsnap] } : State).ckpts.find? (fun z => z.area0 == 0x10000 && z.area1 == 0) = some dsnap ∧ (0x2000 < 2 ^ 39 ∧ 0x2000 % 2 ^ 34 < dst.tsb.toNat * 2 ^ 30) :=
  ⟨commanded 3 (by decide) _, by decide +kernel⟩

/-- BootSteps: commands that a restart cuts short: CTX.PARK with its context at STATE 2, SHARD.PARK, CKPT, and any other. -/
theorem test_meets_cut_short : (∀ k ∈ [2, 3, 8, 15], ∃ m, Map.look (cst k []).mailboxes 0 = some m ∧ m.code = k ∧ (cst k []).commands = [(0, 900)] ∧ (cst k []).devState ≠ 0)
    ∧ Map.look ({ dst with ctxs := [(0, { dctx with state := 2 })] } : State).ctxs 0 = some { dctx with state := 2 } := by
  refine ⟨?_, by decide +kernel⟩
  intro k hk
  exact ⟨_, rfl, by revert k; decide, rfl, by show (4 : BitVec 4) ≠ 0; decide⟩

/-- BootSteps, PowerControl: an image that has no magic value; capacities in and out of their range; inlet and junction at and past their limits. -/
theorem test_meets_boot : imageOk (List.replicate 512 0) 512 = false ∧ capsOk (toBytes 4 (2048 * 2 ^ 16)) = true ∧ capsOk (toBytes 4 (1023 * 2 ^ 16)) = false ∧ ¬ (45 < 45 ∨ 100 < 100) ∧ 45 < 46 ∧ 110 < 111 ∧ ¬ 110 < 110 := by decide +kernel

/-- HostAccesses: BAR 2 up, the way free and held up by another row of the group; an address in cell memory and one outside; a write to a sealed line of no context's page; a link down for 100 ms. -/
theorem test_meets_bar : dst.barUp 0 = true ∧ dst.barAddr 0 0x2000 8 = some 0x2000 ∧ dst.barAddr 0 (2 ^ 36) 8 = none ∧ dst.hitsSealed (.dram 0x2000) 8 = false ∧ ({ dst with sealed_ := [0x80] } : State).hitsSealed (.dram 0x2000) 8 = true
    ∧ dst.barBlocked 0x2000 8 = false ∧ dst.hubOk (0x2000 / 2 ^ 36 % 8) = true ∧ Map.look dst.barWaits 0x2000 = none
    ∧ ({ dst with cores := [(0, { dcore with holds := [(0, { held 3500 with row := .cell 0x102000, place := 0x100004 })] })] } : State).barBlocked 0x2000 8 = true ∧ dst.pageOwner 0x2000 = none ∧ dst.poisoned (.dram 0x2000) 8 = false ∧ 0x2000 / 64 = (0x2000 + 8 - 1) / 64
    ∧ (({ tst dcore with tasks := [] } : State).writeRoot 0 0 (dx 0xC2 0 0x200000000 0 []).ref (List.replicate 256 1)).isSome = true ∧ 5 + 150000000 ≤ 150000005 := by decide +kernel

/-- A table of port 0 that lets requester 7 reach 64 KiB of context 0, with every permission. -/
def pst : State := { dtb with peerTable := [(0, padTo (toBytes 2 7 ++ toBytes 1 0 ++ toBytes 1 0x1F ++ toBytes 4 0 ++ toBytes 8 0 ++ toBytes 8 0x10000) 2048)] }

/-- The header of a message of that requester. -/
def dhead (typ len addr arg : Nat) : Head := { typ := typ, ops := 0, ctx := 0, src := 7, tag := 1, len := len, addr := addr, arg := arg, rest := false }

/-- PeerMessages: a message that the table refuses, and one of each type that it lets in; a range beyond the installed DRAM; a queue in use. -/
theorem test_meets_peers : pst.refusal 0 { dhead 1 8 0x2000 0 with src := 8 } = some 0 ∧ pst.refusal 0 (dhead 1 0 0x2000 0) = some 5
    ∧ (∀ h ∈ [dhead 1 8 0x2000 0, dhead 2 0 0x2000 8, dhead 3 4 0x2000 0, dhead 4 64 0 0, dhead 5 256 5 0, dhead 6 256 5 1, dhead 7 272 0 0], pst.refusal 0 h = none)
    ∧ pst.planes = true ∧ pst.barBlocked 0x2000 8 = false ∧ (dhead 1 8 0x2000 0).range = (0x2000, 8) ∧ pst.cellAddr 0x2007 = true ∧ (Map.look pst.ctxs 0).any (fun c => (Map.look c.queues 0).any fun q => q.e != 0) = true
    ∧ (pst.readRange 0 0x5000 8).isSome = true ∧ pst.hubReaches 0 0x5000 = true ∧ pst.hubOk 0 = true := by decide +kernel

/-- PeerReplies: a load of a peer window in flight with its message outstanding; one whose 10 ms have passed; a port that is up. -/
theorem test_meets_replies : (let f : Access := { dacc with target := .peer 0 0x2008, tag := 1 }
      (fcore [f]).cs.flight.findIdx? (fun f => f.tag == 1 && (match f.target with | .peer p _ => p == 0 | _ => false)) = some 0) ∧ 0 + 15000000 ≤ 15000000 ∧ dst.bilotDown.contains 0 = false ∧ dst.hubOk (dieOf 0) = true := by decide +kernel

/-- RegisterAccesses: BAR 0 of a port that is up, a good TSB, a mailbox that is not BUSY. -/
theorem test_meets_registers : Map.look dst.hostDown 0 = none ∧ (1 ≤ (11#64).toNat % 16 ∧ (11#64).toNat % 16 ≤ 11) ∧ ({ dst with ctxs := [] } : State).ctxs = [] ∧ isQuadrant 0 = true ∧ (1500 ≤ (48000#64).toNat % 65536 ∧ (48000#64).toNat % 65536 ≤ 48000)
    ∧ 64 ≤ (64#64).toNat % 4096 := by decide +kernel

/-- StepRunsDecodedWord: a device behind a failed boot; the word of ADD at the PC of a stream of core 0, in memory and in the instruction cache; the word of a reserved opcode; a V-stream word whose repeats run; a beat word inside its beats; an event; a tick that reaches no deadline. -/
theorem test_meets_step : (let w := alu 0
      let s : State := { at_ .c dcore with mem := Memory.setN [] 0x1006 (wordBytes w), agenda := [.stream 0 .c 0] }
      let cached : Core := { dcore with icache := [(0x1000 / 64, List.replicate 6 0 ++ wordBytes w ++ List.replicate 52 0)] }
      s.deviceLost = false ∧ s.core? 0 = some dcore ∧ s.devState ≠ 5 ∧ (∀ l ∈ dcore.codeLines ((List.range 6).map fun k => (Target.dram 0x1006).plus k), s.blocked 0 l = false) ∧ dcore.cs.halted = false ∧ dcore.resuming = none ∧ dsh.halt = 0 ∧ validPc dsh dcore.cs.pc = true ∧ dcore.cs.pc.toNat % 65536 ≤ 65530
        ∧ (match dcore.fetchByte 0 0x1006 with | .ok t => t == .dram 0x1006 | _ => false) = true ∧ (∀ k < 6, s.codePoisoned dcore ((Target.dram 0x1006).plus k) = false)
        ∧ (List.range 6).flatMap (fun k => s.codeByte dcore ((Target.dram 0x1006).plus k)) = wordBytes w
        ∧ (List.range 6).flatMap (fun k => dst.codeByte cached ((Target.dram 0x1006).plus k)) = wordBytes w)
    ∧ readsAs .c [(alu 0, .add 3 17 42)] = true ∧ refuses .c (wCl 0xF0 0 0 0) .opcode = true ∧ readsAs .v [(vec 0x61, .vadd 1 0x802 0x7FF true 5)] = true
    ∧ ({ dcore with vrun := some (vec 0x61) } : Core).vrun = some (vec 0x61) ∧ (acore 0x40).beat ≠ none ∧ dst.devState ≠ 0 ∧ ({ dst with devState := 5 } : State).devState = 5 ∧ (Move.stream 0 .c 0).outside = false
    ∧ (let s : State := { dst with deviceLost := false, agenda := [.tick 5] }; ∀ d ∈ s.deadlines, s.now + 5 ≤ d) := by decide +kernel

/-- EncodeThenDecode and DecodeThenEncode: a well-formed instruction; a word that decodes. StepKeepsMemoryCanonical: a canonical state whose step answers a next state. -/
theorem test_meets_round_trip : (Instr.add 3 17 42).WellFormed .c = true ∧ encode (.add 3 17 42) = some (alu 0) ∧ Canonical ({ dst with agenda := [.tick 5] } : State)
    ∧ (∃ t, step { dst with agenda := [.tick 5] } = .next t) := by
  refine ⟨by decide +kernel, by decide +kernel, by unfold Canonical; decide +kernel, ?_⟩
  exact ⟨_, rfl⟩

/-! ### The worked examples of the spec, and one step of some words, with the results the rules give -/

/-- The next state gives a scalar register of core 0 a value. -/
def gives (o : Out) (r : BitVec 6) (v : Word) : Bool := match o with
  | .next u => (u.core? 0).any fun c => c.sreg r == v
  | _ => false

/-- The next state gives granule g of core 0 a value. -/
def givesGran (o : Out) (g : Nat) (v : BitVec 512) : Bool := match o with
  | .next u => (u.core? 0).any fun c => c.granule g == v
  | _ => false

/-- R154: s1 = 0x8000_0000_0000_0001, s2 = 3, s3 = 77; a sum, a difference and a product wrap, and a division rounds towards zero. -/
theorem test_alu_wraps : gives (exec (.add 7 1 1) (at_ .c dcore)) 7 2 = true ∧ gives (exec (.sub 7 2 3) (at_ .c dcore)) 7 0xFFFFFFFFFFFFFFB6 = true
    ∧ gives (exec (.mulhu 7 1 1) (at_ .c dcore)) 7 0x4000000000000001 = true ∧ gives (exec (.mul 7 1 2) (at_ .c dcore)) 7 0x8000000000000003 = true
    ∧ gives (exec (.div 7 3 2) (at_ .c dcore)) 7 25 = true ∧ gives (exec (.rem 7 3 2) (at_ .c dcore)) 7 2 = true := by decide +kernel

/-- R154: division by zero gives all ones, and its remainder the dividend; s0 stays zero when it is written. -/
theorem test_alu_zero : gives (exec (.div 7 3 0) (at_ .c dcore)) 7 0xFFFFFFFFFFFFFFFF = true ∧ gives (exec (.remu 7 3 0) (at_ .c dcore)) 7 77 = true
    ∧ gives (exec (.add 0 3 2) (at_ .c dcore)) 0 0 = true := by decide +kernel

/-- R154: an arithmetic shift keeps the sign, a comparison is signed or not, and bytes are swapped. -/
theorem test_alu_signs : gives (exec (.srai 7 1 3) (at_ .c dcore)) 7 0xF000000000000000 = true ∧ gives (exec (.slt 7 1 2) (at_ .c dcore)) 7 1 = true
    ∧ gives (exec (.sltu 7 1 2) (at_ .c dcore)) 7 0 = true ∧ gives (exec (.bswap 7 1) (at_ .c dcore)) 7 0x0100000000000080 = true := by decide +kernel

/-- R181's example: the cluster offset of 0xFF10_0000_0014_0040 is 0x14_0040. -/
theorem test_cvta_example : gives (exec (.cvtaTo 3 2 2) (at_ .c { dcore with sregs := [(2, 0xFF10000000140040)] })) 3 0x140040 = true := by decide +kernel

/-- R49's example: views 0x100, 0x200, 0x200 map v5, w24 and t3. -/
theorem test_views_example : (let c := { dcore with viewV := 0x100, viewW := 0x200, viewT := 0x200 }
    c.nameGranule .v 5 = 0x105 ∧ c.nameGranule .w 24 = 0x230 ∧ c.nameGranule .t 3 = 0x230) := by decide +kernel

/-- R29's example: loops D 2, T 16, C 12, T 4; shard 17 has indices 1, 0, 5, 0. -/
theorem test_loops_example : (spatial [0xC000000000000002, 0x4000000000000010, 0x800000000000000C, 0x4000000000000004] 17).2 = [1, 0, 5, 0] := by decide +kernel

/-- The worked conversions behind R124, to .e4m3 (11), .e5m2 (12), .bf16 (9), .f16 (8), .i8 (0), .n8 (1) and .i32 (4). -/
theorem test_conversions : roundTo 11 0 0 false (.fin false 3 10) = (0x2A, flagNX) ∧ roundTo 12 0 0 false (.fin false 3 10) = (0x35, flagNX) ∧ roundTo 11 0 0 false (.fin false 500 1) = (0x7E, flagOF ||| flagNX)
    ∧ roundTo 12 0 0 false (.fin false 500 1) = (0x60, flagNX) ∧ roundTo 11 0 0 false (.fin false 1 1024) = (0x00, flagUF ||| flagNX) ∧ roundTo 11 4 0 false (.fin false 1 1024) = (0x01, flagUF ||| flagNX)
    ∧ roundTo 11 0 0 false (.inf false) = (0x7F, flagNV) ∧ roundTo 9 0 0 false (valOf 10 0x3F8CCCCD) = (0x3F8D, flagNX) ∧ roundTo 9 1 0 false (valOf 10 0x3F8CCCCD) = (0x3F8C, flagNX)
    ∧ roundTo 8 1 0 false (valOf 10 0x7F7FFFFF) = (0x7BFF, flagOF ||| flagNX) ∧ roundTo 8 0 0 false (valOf 10 0x7F7FFFFF) = (0x7C00, flagOF ||| flagNX)
    ∧ toIntType 0 0 0 (.fin true 5 2) = (0xFE, flagNX) ∧ toIntType 1 0 0 (.fin false 3007 10) = (0xFF, flagNV) ∧ toIntType 4 0 0 .nan = (0, flagNV)
    ∧ roundTo 10 0 0 false (valOf 12 0x3D) = (0x3FA00000, 0) ∧ roundTo 10 0 0 false (mxValue (valOf 11 0x01) 0x76) = (0x36800000, 0) := by decide +kernel

/-- R124's example: x = 1 + 2^-9 under .bf16 with two random words. -/
theorem test_stochastic : (roundTo 9 5 0x20000000 false (.fin false 513 512)).1 = 0x3F81 ∧ (roundTo 9 5 0x40000000 false (.fin false 513 512)).1 = 0x3F80 := by decide +kernel

/-- R118's example: .n4 with -1.0, 0.5 and 2.0. -/
theorem test_quantise_example : (quantise 15 [.fin true 1 1, .fin false 1 2, .fin false 2 1]).1 = 0x3266 ∧ (quantise 15 [.fin true 1 1, .fin false 1 2, .fin false 2 1]).2.1 = 5
    ∧ (quantise 15 [.fin true 1 1, .fin false 1 2, .fin false 2 1]).2.2.1 = [0, 8, 15] := by decide +kernel

/-- R120's example: an E4M3 block with 3.0 and 0.01. -/
theorem test_mx_example : (mxEncode 11 false [.fin false 3 1, .fin false 1 100]).1 = 0x78 ∧ (mxEncode 11 false [.fin false 3 1, .fin false 1 100]).2.1 = [0x7C, 0x3A] := by decide +kernel

/-- R231's example: the tree over 1.0 and fifteen times 2^-24 at .f32. -/
theorem test_tree_example : (treeSum { t := 10, mode := 0, ftz := false, seed := 0, taskId := 0, shard := 0, count := 0 } 8 1 (0x3F800000 :: List.replicate 15 0x33800000) 0).1 = 0x3F800007 := by decide +kernel

/-- R266's example: the 19 bytes of a ZRC copy, and back. -/
theorem test_zrc_example : zrc ([1] ++ List.replicate 55 0 ++ List.replicate 8 0xFF) = [0, 1, 0, 0, 0, 0, 0, 0, 0, 0x85, 0] ++ List.replicate 8 0xFF
    ∧ unzrc ([0, 1, 0, 0, 0, 0, 0, 0, 0, 0x85, 0] ++ List.replicate 8 0xFF) = some ([1] ++ List.replicate 55 0 ++ List.replicate 8 0xFF) := by decide +kernel

/-- R122: the published known answer of Philox4x32-10 for a zero counter and key. -/
theorem test_philox : philox 0 0 0 0 0 0 = (0x6627E8D5, 0xE169C58D, 0xBC57AC4C, 0x9B00DBD8) := by decide +kernel

/-- The published check value of CRC-32C, of the nine characters 1 to 9 (log entry 9). -/
theorem test_crc : crc32c [0x31, 0x32, 0x33, 0x34, 0x35, 0x36, 0x37, 0x38, 0x39] = 0xE3069283 := by decide +kernel

/-- R157: a taken BEQ goes to its own address, 0x1006, plus twice 6. -/
theorem test_branch : (match exec (.beq 2 2 6) (at_ .c dcore) with | .next u => (u.core? 0).map (fun c => c.cs.pc) | _ => none) = some 0x1012 := by decide +kernel

/-- R156: LI sign-extends its 32 bits, LI.u does not. -/
theorem test_li : gives (exec (.li 7 0xFFFFFFFE) (at_ .c dcore)) 7 0xFFFFFFFFFFFFFFFE = true ∧ gives (exec (.liU 7 0xFFFFFFFE) (at_ .c dcore)) 7 0xFFFFFFFE = true := by decide +kernel

/-- R66, R194: TRAP 5 of the C-stream at 0x1006 enters the handler at 0x2000 with CODE 16, STRM 0 and INH set, CR.TVAL 5 and CR.EPC.C its own address. -/
theorem test_trap : (match exec (.trap 5) (at_ .c { dcore with tvec := 0x2000 }) with | .next u => (u.core? 0).map (fun c => (c.cs.pc, c.epcC, c.tval, c.cause)) | _ => none)
    = some (0x2000, 0x1006, 5, 0x8010) := by decide +kernel

/-- Words of the spec's own worked encodings, behind R151, R166, R196, R208, R234, R249, R273, R315, R332 and in the programs: each is the statement that stands beside it. -/
theorem test_spec_words : ([
    (0x000C10800000, .add 3 1 2), (0x140400000006, .csrr 1 6), (0x021D80000000, .liU 7 0x80000000), (0xE80000000E02, .prset 7 1), (0x19286E800008, .std 0xA 6 2 2 8),
    (0x1A0C5100EC00, .amadd 3 5 4 3 2 true), (0x250800000003, .bararv 2 0 false 3), (0x4000802000C0, .ald 0 1 0x40 0 3 0 0), (0x421110B002C5, .agth 1 2 false 8 1 6 2 3 0 5),
    (0x4818C0000040, .aaddi 3 3 0x40), (0x930040020190, .vcvt 4 2 1 9 false 0), (0x8301400A8039, .vfma 0x14 0xA 0x803 true 1), (0x9D0090080FF2, .vslide 9 8 0xFF false 2),
    (0x7C0070003F80, .vmovi 7 0 0x3F80), (0x600000009035, .vmode 9 true true false 5), (0xC01C30004000, .copy 7 3 1 0), (0xC1244146C7FF, .tload 9 4 5 6 3 0x7FF),
    (0xC30020C00001, .tsealCb 0 2 3 false), (0xD00831000000, .hjoin 2 3 4), (0xD21461C00080, .hcontrib 5 6 7 0x80), (0xD42461C00000, .hstatRoster 9 6 7),
    (0xD608414C4005, .ropen 2 4 5 3 true 0 5), (0xD60860008800, .ropenCell 2 6 0 false 8), (0xD80C000C0400, .rrenew 3 3 4), (0xB25568840000, .mmas 0x15 0x16 true 0 1 0 false false true 0 0),
    (0xB169C0080000, .mma 0x1A 0x1C false 0 0 0 false true false 0 0), (0xB67800047000, .mstac 0x1E false 0 0 true 0 7), (0x181C3D800000, .ldd 7 3 1 2 0),
    (0xE20800000009, .loopi 0 0x200 false 9), (0xB01C00000000, .mfmt 7 0 0), (0xE10004000003, .loop 0 1 false 3)] : List (Nat × Instr)).all (fun e => decide (decodeTableWord 48 e.1 = some e.2)) = true := by decide +kernel

end Sys2Proof.Tests
end

section
/-! The registers of the device (R5, R295, R336, R339 to R341): what each region of BAR 0 reads as, what a write of each register leaves, and REGISTER_WRITE assembled from them. -/

namespace Sys2Proof.Machine

/-! ### What BAR 0 reads as -/

/-- DEV.BOOT and the doorbells alone cannot be read (R340, R345). -/
theorem writeOnly_eq_false {off : Nat} (hboot : off ≠ 0x030) (hbell : off < 0x100000 ∨ 0x120000 ≤ off) : writeOnly off = false := by
  simp [writeOnly, hboot]
  omega

/-- Below the mailbox lie the device registers; DEV.BOOT alone cannot be read (R339, R340). -/
theorem State.bar0_device (s : State) (p : Nat) {off : Nat} (h : off < 0x1000) (hboot : off ≠ 0x030) :
    s.bar0 p off = s.devReg off := by
  simp [State.bar0, writeOnly_eq_false hboot (.inl (by omega)), h]

/-- Behind 0x040 no device register is left (R340). -/
theorem State.devReg_reserved (s : State) {off : Nat} (h : 0x048 ≤ off) : s.devReg off = 0 := by
  unfold State.devReg
  split
  case h_9 => rfl
  all_goals omega

/-- The gaps between the blocks of BAR 0 read as zero (R5, R339). -/
theorem State.bar0_gap (s : State) (p : Nat) {off : Nat}
    (h : (0x1040 ≤ off ∧ off < 0x10000) ∨ (0x18000 ≤ off ∧ off < 0x100000) ∨ (0x120000 ≤ off ∧ off < 0x200000)) :
    s.bar0 p off = 0 := by
  have hread : ¬ writeOnly off = true := by simp [writeOnly_eq_false (off := off) (by omega) (by omega)]
  rw [State.bar0, if_neg hread, if_neg (by omega), if_neg (by omega), if_neg (by omega), if_neg (by omega)]

/-- The boot window reads as its own bytes, none of them beyond its end (R339). -/
theorem State.bar0_bootWin (s : State) (p : Nat) {off : Nat} (h : 0x200000 ≤ off) (h' : off < 0x400000) :
    s.bar0 p off = BitVec.ofNat 64 (ofBytes (Memory.getN s.bootWin (off - 0x200000) (min 8 (0x400000 - off)))) := by
  have hread : ¬ writeOnly off = true := by simp [writeOnly_eq_false (off := off) (by omega) (by omega)]
  rw [State.bar0, if_neg hread, if_neg (by omega), if_neg (by omega), if_neg (by omega), if_pos ⟨h, h'⟩]

/-- Every reserved offset of BAR 0 reads as zero (R5). -/
theorem State.bar0_reserved (s : State) (p : Nat) {off : Nat}
    (h : (0x048 ≤ off ∧ off < 0x1000) ∨ (0x1040 ≤ off ∧ off < 0x10000) ∨ (0x18000 ≤ off ∧ off < 0x100000) ∨ (0x120000 ≤ off ∧ off < 0x200000)) :
    s.bar0 p off = 0 := by
  obtain ⟨hlo, hhi⟩ | hgap := h
  · rw [s.bar0_device p hhi (by omega), s.devReg_reserved hlo]
  · exact s.bar0_gap p hgap

/-! ### Which block a write of BAR 0 reaches -/

section
variable (s : State) (p : Nat) (v : Word) (bs : List Byte) {off : Nat}

theorem State.writeBar0_device (h : off < 0x1000) : s.writeBar0 p off v bs = s.writeDev off v := by
  simp [State.writeBar0, h]

theorem State.writeBar0_mailbox (h : 0x1000 ≤ off) (h' : off < 0x1040) :
    s.writeBar0 p off v bs = s.writeMail p (off - 0x1000) v := by
  simp [State.writeBar0, Nat.not_lt.mpr h, h']

/-- Register `r` of the ready pool of die `d` stands in the block of that die (R295, R339). -/
theorem State.writeBar0_pool {d r : Nat} (hd : d < 8) (hr : r < 0x1000) :
    s.writeBar0 p (0x10000 + 0x1000 * d + r) v bs = s.writePool d r v := by
  have hdie : (0x10000 + 0x1000 * d + r - 0x10000) / 0x1000 = d := by omega
  have hreg : (0x10000 + 0x1000 * d + r) % 0x1000 = r := by omega
  rw [State.writeBar0, if_neg (by omega), if_neg (by omega), if_pos (by omega), hdie, hreg]

/-- The gaps between the blocks ignore writes (R5, R339). -/
theorem State.writeBar0_gap (h : (0x1040 ≤ off ∧ off < 0x10000) ∨ (0x18000 ≤ off ∧ off < 0x100000)) :
    s.writeBar0 p off v bs = s := by
  rw [State.writeBar0, if_neg (by omega), if_neg (by omega), if_neg (by omega), if_neg (by omega), if_neg (by omega)]

/-- The boot window takes the bytes that lie in it while STATE is 1, and ignores every write in another STATE (R339). -/
theorem State.writeBar0_bootWin (h : 0x200000 ≤ off) (h' : off < 0x400000) :
    s.writeBar0 p off v bs =
      if s.devState = 1 then { s with bootWin := Memory.setN s.bootWin (off - 0x200000) (bs.take (0x400000 - off)) } else s := by
  rw [State.writeBar0, if_neg (by omega), if_neg (by omega), if_neg (by omega), if_neg (by omega)]
  simp only [h, h', true_and]

end

/-! ### What a write of each register keeps -/

/-- DEV.TSB takes a size from 1 to 11 while no context is resident, and keeps its own otherwise (R340). -/
theorem State.writeDev_tsb (s : State) (v : Word) :
    s.writeDev 0x028 v = if 1 ≤ v.toNat % 16 ∧ v.toNat % 16 ≤ 11 ∧ s.ctxs = [] then { s with tsb := v.setWidth 4 } else s := by
  simp [State.writeDev]

/-- PWR.LIMIT takes a limit from 1,500 to 3,800 (R340). -/
theorem State.writeDev_pwrLimit (s : State) (v : Word) :
    s.writeDev 0x038 v = if 1500 ≤ v.toNat % 4096 ∧ v.toNat % 4096 ≤ 3800 then { s with pwrLimit := v.setWidth 12 } else s := by
  simp [State.writeDev]

/-- The read-only device registers and the reserved offsets behind them ignore writes (R5, R340). -/
theorem State.writeDev_ignored (s : State) (v : Word) {off : Nat} (h : off = 0x000 ∨ off = 0x008 ∨ off = 0x010 ∨ 0x040 ≤ off) :
    s.writeDev off v = s := by
  unfold State.writeDev
  split
  case h_6 => rfl
  all_goals omega

/-- A command of a port joins the queue behind every earlier one; of one clk, port 0's comes first (R341). -/
theorem State.queueCommand_eq (s : State) (p : Nat) :
    s.queueCommand p = (s.commands.filter fun q => p != 0 || decide (q.2 < s.now)) ++
      (p, s.now) :: s.commands.filter fun q => !(p != 0 || decide (q.2 < s.now)) := by
  simp only [State.queueCommand, List.partition_eq_filter_filter]
  rfl

/-- A mailbox ignores writes while BUSY (R341). -/
theorem State.writeMail_busy {s : State} {p : Nat} {m : Mailbox} (hm : Map.look s.mailboxes p = some m) (hb : m.busy = true)
    (off : Nat) (v : Word) : s.writeMail p off v = s := by
  simp [State.writeMail, Map.lookD, hm, hb]

/-- A write of CMD sets BUSY and queues the command (R341). -/
theorem State.writeMail_cmd {s : State} {p : Nat} {m : Mailbox} (hm : Map.look s.mailboxes p = some m) (hb : m.busy = false) (v : Word) :
    s.writeMail p 0 v = { s with mailboxes := Map.put s.mailboxes p { m with cmd := v, busy := true }, commands := s.queueCommand p } := by
  simp [State.writeMail, Map.lookD, hm, hb]

/-- A write of ARG `k` leaves every other field of the mailbox as it was (R341). -/
theorem State.writeMail_arg {s : State} {p : Nat} {m : Mailbox} (hm : Map.look s.mailboxes p = some m) (hb : m.busy = false) (k : Nat) (v : Word) :
    s.writeMail p (0x10 + 8 * k) v = { s with mailboxes := Map.put s.mailboxes p { m with args := Map.put m.args k v } } := by
  have halign : (0x10 + 8 * k) % 8 = 0 := by omega
  simp [State.writeMail, Map.lookD, hm, hb, halign]

section
variable {s : State} {d : Nat} {q : Pool} (hq : Map.look s.pools d = some q) (v : Word)
include hq

/-- SCHED.AGE is staged for the next boundary, if it is 1,500 or more (R295). -/
theorem State.writePool_age :
    s.writePool d 0x000 v = { s with pools := Map.put s.pools d (if 1500 ≤ v.toNat % 2 ^ 32 then { q with stagedAge := some (v.setWidth 32) } else q) } := by
  simp [State.writePool, Map.upd_of_look hq]

theorem State.writePool_discard : s.writePool d 0x008 v = { s with pools := Map.put s.pools d { q with discard := v.setWidth 32 } } := by
  simp [State.writePool, Map.upd_of_look hq]

theorem State.writePool_ctl : s.writePool d 0x010 v = { s with pools := Map.put s.pools d { q with ctl := v.setWidth 2 } } := by
  simp [State.writePool, Map.upd_of_look hq]

end

section
variable {s : State} {n : Nat} {q : Port} (hq : Map.look s.ports n = some q) (v : Word)
include hq

/-- A budget is staged in the place of its activity (R336). -/
theorem State.writeCal_budget {k : Nat} {b : Budget} (hk : k ≤ 10) (hb : Map.look q.budgets k = some b) :
    s.writeCal n (0x040 + 8 * k) v =
      { s with ports := Map.put s.ports n { q with budgets := Map.put q.budgets k { b with staged := some (v.setWidth 17) } } } := by
  have hact : (0x040 + 8 * k - 0x040) / 8 = k := by omega
  have hrange : 0x040 ≤ 0x040 + 8 * k ∧ 0x040 + 8 * k < 0x098 ∧ (0x040 + 8 * k) % 8 = 0 := by omega
  simp only [State.writeCal, State.updPort, Map.upd_of_look hq, hrange, and_self, if_true, hact, Map.upd_of_look hb]

/-- ROW.HMAX of a quadrant takes 1,500 to 48,000 (R336). -/
theorem State.writeCal_hmax (hquad : isQuadrant n = true) :
    s.writeCal n 0x200 v =
      { s with ports := Map.put s.ports n (if 1500 ≤ v.toNat % 65536 ∧ v.toNat % 65536 ≤ 48000 then { q with hmax := v.setWidth 16 } else q) } := by
  simp [State.writeCal, State.updPort, Map.upd_of_look hq, hquad]

/-- ROW.MITTH of a quadrant takes 64 and more (R336). -/
theorem State.writeCal_mitth (hquad : isQuadrant n = true) :
    s.writeCal n 0x208 v =
      { s with ports := Map.put s.ports n (if 64 ≤ v.toNat % 4096 then { q with mitth := v.setWidth 12 } else q) } := by
  simp [State.writeCal, State.updPort, Map.upd_of_look hq, hquad]

/-- Every other offset of a Calendar port ignores writes (R5, R336). -/
theorem State.writeCal_ignored {off : Nat} (hbudget : off < 0x040 ∨ 0x098 ≤ off) (hhmax : off ≠ 0x200) (hmitth : off ≠ 0x208) :
    s.writeCal n off v = { s with ports := Map.put s.ports n q } := by
  have hrange : ¬ (0x040 ≤ off ∧ off < 0x098 ∧ off % 8 = 0) := by omega
  simp only [State.writeCal, State.updPort, Map.upd_of_look hq, hrange, hhmax, hmitth, if_false]

end

/-! ### REGISTER_WRITE by the block it names -/

section
variable {s : State}

/-- A host reaches BAR 0 of its port while the link is up. -/
theorem exec_registerWrite_bar0 (hidx : s.args.idx = 0) (hport : s.args.a < 2) (hup : Map.look s.hostDown s.args.a = none) (hoff : s.args.b < 0x400000) :
    exec .registerWrite s =
      if s.args.flag then .next { s with free := s.free + 1, reply := 0 :: toBytes 8 (s.bar0 s.args.a s.args.b).toNat }
      else .next (s.writeBar0 s.args.a s.args.b s.args.value s.args.bytes) := by
  have hreach : ¬ (2 ≤ s.args.a ∨ (Map.look s.hostDown s.args.a).isSome = true ∨ 0x400000 ≤ s.args.b) := by
    simp [hup]; omega
  simp only [exec_registerWrite, execRegisterWrite, hidx, hreach, if_false]

theorem exec_registerWrite_calendar (hidx : s.args.idx = 1) (hf : s.args.flag = false) :
    exec .registerWrite s = .next (s.writeCal s.args.a s.args.b s.args.value) := by
  simp [execRegisterWrite, hidx, hf]

theorem exec_registerWrite_resize (hidx : s.args.idx = 2) (hport : s.args.a < 2) (hlo : 30 ≤ s.args.b) (hhi : s.args.b ≤ 36) :
    exec .registerWrite s = .next { s with barBits := Map.put s.barBits s.args.a s.args.b } := by
  have hok : ¬ (2 ≤ s.args.a ∨ s.args.b < 30 ∨ 36 < s.args.b) := by omega
  simp only [exec_registerWrite, execRegisterWrite, hidx, hok, if_false]

theorem exec_registerWrite_pool (hidx : s.args.idx = 3) :
    exec .registerWrite s =
      if s.args.flag then .next { s with free := s.free + 1, reply := 0 :: toBytes 8 (s.poolReg s.args.a s.args.b).toNat }
      else .next (s.writePool s.args.a s.args.b s.args.value) := by
  simp only [exec_registerWrite, execRegisterWrite, hidx]

end

/-- Settles O35: each clause is the block that the offset lies in, and what a write of the register there keeps. -/
theorem registerAccesses : Obligations.RegisterAccesses := by
  refine ⟨?bar0, ?sideband, ?calendar⟩
  case bar0 =>
    intro s v hidx hport hup off writes
    have write {t : State} (hoff : off < 0x400000) (ht : s.writeBar0 s.args.a off v s.args.bytes = t) : writes t := fun hf => by
      rw [exec_registerWrite_bar0 hidx hport hup hoff, hf, ← ht]; rfl
    have device {t : State} (hoff : off < 0x1000) (ht : s.writeDev off v = t) : writes t :=
      write (by omega) ((s.writeBar0_device _ _ _ hoff).trans ht)
    refine ⟨fun hf hoff => ⟨s.bar0 s.args.a off, ?answer, ?devStat, ?fwver, ?bar2, ?ctxt, ?pwr, ?tsb, ?limit, ?boot, ?reserved⟩,
      ?wBar2, ?wCtxt, ?wTsb, ?wLimit, ?wReadOnly, ?wReserved, ?wMail, ?wPool, ?wBoot⟩
    case answer => rw [exec_registerWrite_bar0 hidx hport hup hoff, hf]; rfl
    case devStat | fwver | bar2 | ctxt | pwr | tsb | limit => intro h; rw [h]; rfl
    case boot => exact fun h => s.bar0_bootWin _ h hoff
    case reserved => exact s.bar0_reserved _
    case wBar2 | wCtxt => intro h; exact device (by omega) (by rw [h]; rfl)
    case wTsb =>
      intro h
      have hoff : off < 0x1000 := by omega
      exact ⟨fun hok => device hoff (by rw [h, s.writeDev_tsb, if_pos hok]),
        fun hbad => device hoff (by rw [h, s.writeDev_tsb, if_neg hbad])⟩
    case wLimit =>
      intro h
      have hoff : off < 0x1000 := by omega
      exact ⟨fun hok => device hoff (by rw [h, s.writeDev_pwrLimit, if_pos hok]),
        fun hbad => device hoff (by rw [h, s.writeDev_pwrLimit, if_neg hbad])⟩
    case wReadOnly => exact fun h => device (by omega) (s.writeDev_ignored v (by omega))
    case wReserved =>
      rintro - (⟨hlo, hhi⟩ | hgap)
      · exact device hhi (s.writeDev_ignored v (by omega))
      · exact write (by omega) (s.writeBar0_gap _ _ _ hgap)
    case wMail =>
      intro m hm before
      have mail {t : State} (hlo : 0x1000 ≤ off) (hhi : off < 0x1040) (ht : s.writeMail s.args.a (off - 0x1000) v = t) : writes t :=
        write (by omega) ((s.writeBar0_mailbox _ _ _ hlo hhi).trans ht)
      refine ⟨fun hb _ hlo hhi => mail hlo hhi (State.writeMail_busy hm hb _ _), fun hb h => ?cmd, fun k hk hb h => ?arg⟩
      case cmd =>
        exact mail (by omega) (by omega) (by rw [h, Nat.sub_self, State.writeMail_cmd hm hb, s.queueCommand_eq])
      case arg =>
        have hreg : off - 0x1000 = 0x10 + 8 * k := by omega
        exact mail (by omega) (by omega) (by rw [hreg, State.writeMail_arg hm hb])
    case wPool =>
      intro d q hq hd
      have pool {t : State} (r : Nat) (hr : r < 0x1000) (h : off = 0x10000 + 0x1000 * d + r) (ht : s.writePool d r v = t) : writes t :=
        write (by omega) (by rw [h, s.writeBar0_pool _ _ _ hd hr, ht])
      refine ⟨fun h => ⟨fun hok => ?_, fun hbad => ?_⟩, fun h => ?_, fun h => ?_⟩
      · exact pool 0 (by omega) h (by rw [State.writePool_age hq, if_pos hok])
      · exact pool 0 (by omega) h (by rw [State.writePool_age hq, if_neg (by omega)])
      · exact pool 0x008 (by omega) (by omega) (State.writePool_discard hq v)
      · exact pool 0x010 (by omega) (by omega) (State.writePool_ctl hq v)
    case wBoot =>
      intro hlo hhi
      exact ⟨fun hst => write hhi (by rw [s.writeBar0_bootWin _ _ _ hlo hhi, if_pos hst]),
        fun hst => write hhi (by rw [s.writeBar0_bootWin _ _ _ hlo hhi, if_neg hst])⟩
  case sideband =>
    refine fun s => ⟨fun hidx => exec_registerWrite_resize hidx, fun hidx hf => ?_, fun q hidx hf hq h => ?_⟩
    · rw [exec_registerWrite_pool hidx, hf]; rfl
    · rw [exec_registerWrite_pool hidx, hf, h, State.writePool_discard hq]; rfl
  case calendar =>
    intro s q hidx _ hq hf v sets
    have write {t : Port} (ht : s.writeCal s.args.a s.args.b v = { s with ports := Map.put s.ports s.args.a t }) : sets t :=
      (exec_registerWrite_calendar hidx hf).trans (congrArg Host.Outcome.next ht)
    refine ⟨fun k b h hk hb => ?budget, fun h hquad => ?hmax, fun h hquad => ?mitth, fun h => ?ignored⟩
    case budget => exact write (by rw [h, State.writeCal_budget hq v hk hb])
    case hmax =>
      exact ⟨fun hok => write (by rw [h, State.writeCal_hmax hq v hquad, if_pos hok]),
        fun hbad => write (by rw [h, State.writeCal_hmax hq v hquad, if_neg hbad])⟩
    case mitth =>
      exact ⟨fun hok => write (by rw [h, State.writeCal_mitth hq v hquad, if_pos hok]),
        fun hbad => write (by rw [h, State.writeCal_mitth hq v hquad, if_neg (by omega)])⟩
    case ignored => exact write (State.writeCal_ignored hq v (by omega) (by omega) (by omega))

end Sys2Proof.Machine
end

section
/-! What an access to the device's memory is charged (R322, R333, R334): only the accounts of the Calendar ports change. -/

namespace Sys2Proof.Machine

/-- A state as another left it, but for the accounts of the Calendar ports; which of them are in service is as before. -/
structure State.OnlyPorts (s u : State) : Prop where
  eq : u = { s with ports := u.ports }
  serves : ∀ k, (Map.look u.ports k).map Port.inService = (Map.look s.ports k).map Port.inService

namespace State.OnlyPorts

theorem refl (s : State) : s.OnlyPorts s := ⟨rfl, fun _ => rfl⟩

theorem trans {s t u : State} (h : s.OnlyPorts t) (h' : t.OnlyPorts u) : s.OnlyPorts u :=
  ⟨by rw [h'.eq, h.eq], fun k => (h'.serves k).trans (h.serves k)⟩

/-- Charging one after another touches no more than charging once. -/
theorem foldl {α : Type} {f : State → α → State} (hf : ∀ (s : State) a, s.OnlyPorts (f s a)) (l : List α) (s : State) : s.OnlyPorts (l.foldl f s) := by
  induction l generalizing s with
  | nil => exact refl s
  | cons a l ih => exact (hf s a).trans (ih _)

/-- An update of one port that keeps it in service, or out of it. -/
theorem upd (s : State) (n : Nat) {f : Port → Port} (hf : ∀ p, (f p).inService = p.inService) : s.OnlyPorts { s with ports := Map.upd s.ports n f } := by
  refine ⟨rfl, fun k => ?_⟩
  by_cases hk : k = n
  · subst hk
    rw [Map.look_upd, Option.map_map]
    exact congrArg (Option.map · _) (funext hf)
  · rw [Map.look_upd_ne _ _ hk]

/-- A state and its charged copy have the same quadrants in service (R404, R421). -/
theorem deadQuad {s u : State} (h : s.OnlyPorts u) (pa : Nat) : u.deadQuad pa = s.deadQuad pa := by
  have any (o : Option Port) : o.any (fun p => !p.inService) = (o.map Port.inService).any (!·) := by cases o <;> rfl
  rw [State.deadQuad, State.deadQuad, any, any, h.serves, h.eq]

end State.OnlyPorts

theorem State.charge_onlyPorts (s : State) (port a n : Nat) : s.OnlyPorts (s.charge port a n) := by
  unfold State.charge
  split
  · exact .refl s
  · exact .upd s port fun p => rfl

theorem State.countActivation_onlyPorts (s : State) (place : Nat) : s.OnlyPorts (s.countActivation place) :=
  .upd s _ fun p => by dsimp only; split <;> rfl

theorem State.chargeFlits_onlyPorts (s : State) (a b path act n : Nat) : s.OnlyPorts (s.chargeFlits a b path act n) := by
  unfold State.chargeFlits
  split
  · exact .refl s
  · exact .foldl (fun s p => s.charge_onlyPorts p act n) _ s

theorem State.chargeHub_onlyPorts (s : State) (d act n : Nat) : s.OnlyPorts (s.chargeHub d act n) :=
  (s.charge_onlyPorts _ act n).trans (State.charge_onlyPorts _ _ act n)

theorem State.rowOpened_onlyPorts (s : State) (place act : Nat) : s.OnlyPorts (s.rowOpened place act) := by
  unfold State.rowOpened
  split
  · exact (s.charge_onlyPorts _ act 1).trans (State.countActivation_onlyPorts _ _)
  · exact .refl s

theorem State.chargeAt_onlyPorts (s : State) (n : Nat) (t : Target) (len : Nat) : s.OnlyPorts (s.chargeAt n t len) := by
  cases t with
  | dram a =>
    exact ((s.rowOpened_onlyPorts _ _).trans (State.charge_onlyPorts _ _ _ _)).trans (State.chargeFlits_onlyPorts _ _ _ _ _ _)
  | pad k o => exact .refl s
  | host p a => exact s.chargeHub_onlyPorts _ _ _
  | peer p a => exact s.chargeHub_onlyPorts _ _ _

theorem State.chargeBytes_onlyPorts (s : State) (die pa n act : Nat) : s.OnlyPorts (s.chargeBytes die pa n act) :=
  ((State.OnlyPorts.foldl (fun s _ => s.rowOpened_onlyPorts _ act) _ s).trans (State.charge_onlyPorts _ _ _ _)).trans (State.chargeFlits_onlyPorts _ _ _ _ _ _)

theorem State.chargeAccess_onlyPorts (s : State) (n : Nat) (f : Access) (opened : Bool) : s.OnlyPorts (s.chargeAccess n f opened) := by
  unfold State.chargeAccess
  split
  · refine .trans (t := if opened then _ else s) ?_ (.trans (State.charge_onlyPorts _ _ _ _) (State.chargeFlits_onlyPorts _ _ _ _ _ _))
    split
    · exact s.rowOpened_onlyPorts _ _
    · exact .refl s
  · exact .refl s
  · exact s.chargeHub_onlyPorts _ _ _

end Sys2Proof.Machine
end

section
/-! The machine's step (R81, R125, R151, R352): the fetch of a word, and the moves of a stream, an event and a tick. -/

namespace Sys2Proof

/-- A byte of a word, put below the bits that lie above it (R2). -/
theorem shiftLeft_or_extractLsb' {w acc : BitVec 48} {k : Nat} (h : acc = w >>> (k + 8)) : acc <<< 8 ||| (w.extractLsb' k 8).setWidth 48 = w >>> k := by
  subst h
  ext i hi
  by_cases hlow : i < 8
  · simp [hlow]
  · simp [hlow, show k + 8 + (i - 8) = k + i by omega]

/-- The six bytes of a word hold the word (R2). -/
theorem wordOfBytes_wordBytes (w : BitVec 48) : wordOfBytes (wordBytes w) = w := by
  have hnone : (0 : BitVec 48) = w >>> 48 := (BitVec.ushiftRight_eq_zero (Nat.le_refl 48)).symm
  have h2 := shiftLeft_or_extractLsb' (shiftLeft_or_extractLsb' (shiftLeft_or_extractLsb' (k := 24) (shiftLeft_or_extractLsb' (shiftLeft_or_extractLsb' hnone))))
  exact shiftLeft_or_extractLsb' (k := 0) h2

namespace Machine

/-! ### Fetching a word -/

/-- Some path to a die is free whichever of them the environment would choose. -/
theorem State.freePath_isNone (s : State) (k a b : Nat) : (State.freePath { s with choice := k } a b).isNone = (s.freePath a b).isNone := by
  have pick (l : List Nat) (i : Nat) : l[i % max 1 l.length]?.isNone = l.isEmpty := by
    cases l with
    | nil => rfl
    | cons x l =>
      have : i % max 1 (x :: l).length < (x :: l).length := by
        rw [List.length_cons, Nat.max_eq_right (by omega)]
        exact Nat.mod_lt _ (by omega)
      rw [List.getElem?_eq_getElem this]; rfl
  unfold State.freePath
  split
  · rfl
  · exact (pick _ _).trans (pick _ _).symm

/-- What a stream's move does to the model's own fields holds up no read. -/
theorem State.blocked_of_move (s : State) (rest : List Move) (cur : Nat) (σ : Strm) (k n : Nat) (t : Target) :
    State.blocked { s with agenda := rest, curCore := cur, curStrm := σ, choice := k } n t = s.blocked n t := by
  have hpaths : State.pathsBusy { s with agenda := rest, curCore := cur, curStrm := σ, choice := k } (dieOf n) t = s.pathsBusy (dieOf n) t := by
    cases t with
    | dram a => exact s.freePath_isNone k _ _
    | pad k o => rfl
    | host p a => rfl
    | peer p a => rfl
  exact congrArg (s.rowBlocked t || ·) hpaths

/-- The bytes of a word inside one page translate together (R125). -/
theorem Core.fetchParts_of_page {c : Core} {ctx a : Nat} {t : Target} (hpage : a % 65536 ≤ 65530) (ht : c.fetchByte ctx a = .ok t) :
    c.fetchParts ctx a = (List.range 6).map fun k => (a + k, .ok (t.plus k)) := by
  simp [Core.fetchParts, hpage, ht]

/-- A word that can be read is decoded: it is the stream's next word, or the trap of a word that does not decode (R81, R151). -/
theorem State.fetch_eq_decode {s : State} {n : Nat} {c : Core} {sh : Shard} {σ : Strm} {pc : Word} {t : Target} {w : BitVec 48}
    (hc : s.core? n = some c) (hpc : validPc sh pc = true) (hpage : pc.toNat % 65536 ≤ 65530) (ht : c.fetchByte sh.ctx pc.toNat = .ok t)
    (hfree : ∀ l ∈ c.codeLines ((List.range 6).map fun k => t.plus k), s.blocked n l = false)
    (hclean : ∀ k < 6, s.codePoisoned c (t.plus k) = false)
    (hw : (List.range 6).flatMap (fun k => s.codeByte c (t.plus k)) = wordBytes w) :
    (∀ i, decode σ w = .ok i → s.fetch n sh σ pc = .word w i)
    ∧ ∀ e, decode σ w = .error e → s.fetch n sh σ pc = .trap 1 (rejectTval w e) := by
  have hparts := Core.fetchParts_of_page hpage ht
  have hts : okTargets ((c.fetchParts sh.ctx pc.toNat).map Prod.snd) = (List.range 6).map fun k => t.plus k := by
    rw [hparts]; rfl
  have hmiss : (c.fetchParts sh.ctx pc.toNat).find? (fun p => p.2 == .miss) = none := by
    rw [hparts]; rfl
  have hpoison : (c.fetchParts sh.ctx pc.toNat).any (fun p => p.2 == .poisoned) = false := by
    rw [hparts]; rfl
  have hfault : (c.fetchParts sh.ctx pc.toNat).any (fun p => p.2 == .fault) = false := by
    rw [hparts]; rfl
  have hheld : (c.codeLines ((List.range 6).map fun k => t.plus k)).any (s.blocked n) = false := by
    simpa using hfree
  have hdata : ((List.range 6).map fun k => t.plus k).any (s.codePoisoned c) = false := by
    simpa using hclean
  have hword : wordOfBytes (((List.range 6).map fun k => t.plus k).flatMap (s.codeByte c)) = w := by
    rw [List.flatMap_map, hw, wordOfBytes_wordBytes]
  constructor <;> intro x hx <;>
    simp only [State.fetch, hpc, hc, hts, hmiss, hpoison, hfault, hheld, hdata, hword, hx, Bool.not_true, Bool.false_eq_true, if_false]

/-- A line of code enters the instruction cache, and nothing else of the core changes (R81). -/
theorem State.fetched_eq (s : State) (c : Core) (sh : Shard) (pc : Word) (w : BitVec 48) :
    s.fetched c sh pc w = { c with icache := (s.fetched c sh pc w).icache, ir := w } := by
  have fill (d : Core) (t : Target) : s.fillCode d t = { d with icache := (s.fillCode d t).icache } := by
    cases t with
    | dram a => simp only [State.fillCode]; split <;> rfl
    | pad k o => rfl
    | host p a => rfl
    | peer p a => rfl
  have fillAll (ts : List Target) (d : Core) : ts.foldl s.fillCode d = { d with icache := (ts.foldl s.fillCode d).icache } := by
    induction ts generalizing d with
    | nil => rfl
    | cons t ts ih => rw [List.foldl_cons, ih, fill]
  exact congrArg (fun d : Core => { d with ir := w }) (fillAll _ c)

theorem State.chargeFetched_onlyPorts (s : State) (n : Nat) (c : Core) (sh : Shard) (pc : Word) : s.OnlyPorts (s.chargeFetched n c sh pc) :=
  .foldl (fun s t => s.chargeAt_onlyPorts n t 64) _ s

/-! ### A stream's move -/

/-- The state in which a stream of a core moves, the head of the agenda gone. -/
def State.moving (s : State) (rest : List Move) (n : Nat) (σ : Strm) (choice : Nat) : State :=
  { s with agenda := rest, curCore := n, curStrm := σ, choice := choice }

/-- The head of the agenda moves (R2). -/
theorem step_of_agenda {s : State} {m : Move} {rest : List Move} (hlost : s.deviceLost = false) (hag : s.agenda = m :: rest) :
    step s = State.move { s with agenda := rest } m := by
  simp [step, hlost, hag]

theorem State.move_stream {s : State} (h : s.devState ≠ 5) (n : Nat) (σ : Strm) (choice : Nat) : s.move (.stream n σ choice) = s.streamStep n σ choice :=
  if_neg fun h' => h h'.1

theorem State.move_event {s : State} (h : s.devState ≠ 5) (i : Instr) (a : Args) : s.move (.event i a) = exec i { s with args := a } :=
  if_neg fun h' => h h'.1

theorem State.move_tick (s : State) (k : Nat) : s.move (.tick k) = .next (s.elapse k) := by
  simp [State.move, Move.outside]

/-- Behind a failed boot nothing moves that needs the planes (R352). -/
theorem State.move_failed {s : State} {m : Move} (h : s.devState = 5) (hm : m.outside = false) : s.move m = .refused .notEnabled := by
  simp [State.move, h, hm]

/-- Time passes whole where no deadline comes before its end (R162, R334, R337). -/
theorem State.elapse_of_deadlines {s : State} {k : Nat} (hstate : s.devState ≠ 0) (hdl : ∀ d ∈ s.deadlines, s.now + k ≤ d) :
    s.elapse k = { s with now := s.now + k } := by
  have keeps : ∀ l : List Nat, (∀ d ∈ l, s.now + k ≤ d) → l.foldl (fun k d => min k (d - s.now)) k = k := by
    intro l
    induction l with
    | nil => exact fun _ => rfl
    | cons d l ih =>
      intro h
      have hd : s.now + k ≤ d := h d List.mem_cons_self
      rw [List.foldl_cons, Nat.min_eq_left (by omega), ih fun e he => h e (List.mem_cons_of_mem _ he)]
  rw [State.elapse, keeps _ hdl, State.pass, if_neg fun h => hstate h.1]

section
variable {s : State} {rest : List Move} {n choice : Nat} {σ : Strm} {c : Core} {sh : Shard}
  (hlost : s.deviceLost = false) (hboot : s.devState ≠ 5) (hag : s.agenda = .stream n σ choice :: rest) (hc : s.core? n = some c)
  (hsh : c.shard = some sh) (hrun : (c.strm σ).halted = false) (hinh : σ ≠ .c → c.inh = false) (hres : c.resuming = none) (hline : sh.halt = 0)
include hlost hboot hag hc hsh hrun hinh hres hline

/-- The stream of a running shard does its next beat, or what its next word asks for. -/
theorem step_stream :
    (σ = .a → c.beat ≠ none → step s = exec .asBeat { s.moving rest n σ choice with args := { s.args with core := n } })
    ∧ ((σ = .a → c.beat = none) →
        (∀ w i, (s.moving rest n σ choice).nextWord n c sh σ = .word w i → step s = exec i ((s.moving rest n σ choice).holding n c sh σ w))
        ∧ ∀ code v, (s.moving rest n σ choice).nextWord n c sh σ = .trap code v → step s = .next ((s.moving rest n σ choice).trapWord σ c code v)) := by
  have hgo : ((c.strm σ).halted || (σ != .c && c.inh) || c.resuming.isSome || sh.halt != 0) = false := by
    have hown : (σ != .c && c.inh) = false := by simpa using hinh
    simp [hrun, hown, hres, hline]
  have hcore : State.core? { s with agenda := rest } n = some c := hc
  rw [step_of_agenda hlost hag, State.move_stream (by exact hboot)]
  simp only [State.streamStep, hcore, hsh, hgo, Bool.false_eq_true, if_false]
  refine ⟨fun hσ hb => ?_, fun hb => ?_⟩
  · rw [if_pos ⟨hσ, Option.isSome_iff_ne_none.mpr hb⟩]; rfl
  · have hnobeat : ¬ (σ = .a ∧ c.beat.isSome = true) := fun h => by simp [hb h.1] at h
    simp only [if_neg hnobeat]
    exact ⟨fun w i h => by rw [← State.moving, h], fun code v h => by rw [← State.moving, h]⟩

end

/-- Settles O3: the fetch answers the word at the PC decoded, and the move of a stream, an event or a tick is what that word, the event or the clock does. -/
theorem stepRunsDecodedWord : Obligations.StepRunsDecodedWord := by
  refine ⟨?stream, ?event, ?failed, ?tick⟩
  case stream =>
    intro s rest n σ choice c sh w t hlost hboot hag hc hsh hrun hinh hres hline pc u
    obtain ⟨hbeat, hword⟩ := step_stream hlost hboot hag hc hsh hrun hinh hres hline
    refine ⟨fun hnobeat hnorun hpc hpage ht hfree hclean hw => ?fetched, fun i hσ hv hi => ?rep, hbeat⟩
    case fetched =>
      have hnext : u.nextWord n c sh σ = u.fetch n sh σ pc := by
        by_cases hσ : σ = .v <;> simp [State.nextWord, hσ, hnorun, pc]
      obtain ⟨hok, herror⟩ := State.fetch_eq_decode (s := u) (σ := σ) hc hpc hpage ht (fun l hl => (s.blocked_of_move ..).trans (hfree l hl)) hclean hw
      obtain ⟨hrunWord, htrap⟩ := hword hnobeat
      refine ⟨fun i hi => ?_, fun e he => htrap _ _ (hnext.trans (herror e he))⟩
      have hnovrun : ¬ (σ = .v ∧ c.vrun.isSome = true) := fun h => by simp [hnorun h.1] at h
      refine ⟨u.fetched c sh pc w, (u.chargeFetched n c sh pc).ports, ?_, u.fetched_eq c sh pc w⟩
      rw [hrunWord w i (hnext.trans (hok i hi)), State.holding, if_neg hnovrun]
      exact congrArg (fun t : State => exec i (t.setCore n (u.fetched c sh pc w))) (u.chargeFetched_onlyPorts n c sh pc).eq
    case rep =>
      have hnext : u.nextWord n c sh σ = .word w i := by
        simp [State.nextWord, hσ, hv, hi]
      rw [(hword (fun h => by simp [hσ] at h)).1 w i hnext, State.holding, if_pos ⟨hσ, by simp [hv]⟩]
      rfl
  case event =>
    intro s rest i a hlost hboot hag
    rw [step_of_agenda hlost hag, State.move_event (by exact hboot)]
  case failed =>
    intro s rest m hlost hboot hag hm
    rw [step_of_agenda hlost hag, State.move_failed (by exact hboot) hm]
  case tick =>
    intro s rest k hlost hag hstate hdl
    rw [step_of_agenda hlost hag, State.move_tick]
    exact congrArg Host.Outcome.next (State.elapse_of_deadlines (s := { s with agenda := rest }) hstate hdl)

end Machine
end Sys2Proof
end

section
/-! What a write of bytes at a target leaves (R80, R82, R162): the bytes it names, every other byte, and the cores but for a speculation it spoils. -/

namespace Sys2Proof.Machine

open Sys2Proof.Claim

/-! ### Numbers in bytes (R2) -/

@[simp] theorem length_toBytes (n v : Nat) : (toBytes n v).length = n := by
  induction n generalizing v with
  | zero => rfl
  | succ n ih => simp [toBytes, ih]

/-! ### A speculation that a write spoils -/

/-- A core without its speculation. -/
def Core.unspeculated (c : Core) : Core := { c with spec := none }

theorem State.spoil_eq (s : State) (t : Target) (n : Nat) : s.spoil t n = { s with cores := (s.spoil t n).cores } := by
  unfold State.spoil
  split <;> rfl

/-- A write spoils speculations, and changes no core besides (R162). -/
theorem State.core?_spoil (s : State) (t : Target) (n k : Nat) :
    ((s.spoil t n).core? k).map Core.unspeculated = (s.core? k).map Core.unspeculated := by
  unfold State.spoil
  split
  · simp only [State.core?, Map.look_each, Option.map_map]
    rfl
  · rfl

/-- What the cores hold besides their speculations is as it was behind a write. -/
theorem map_core?_of_unspeculated {β : Type} {f : Core → β} (hf : ∀ c, f c.unspeculated = f c) {o o' : Option Core}
    (h : o.map Core.unspeculated = o'.map Core.unspeculated) : o.map f = o'.map f := by
  have hcomp : f ∘ Core.unspeculated = f := funext hf
  rw [← hcomp, ← Option.map_map, h, Option.map_map]

/-! ### Reading -/

/-- The memories of two states whose stores agree. -/
theorem State.readTarget_congr {s u : State} (hmem : u.mem = s.mem) (h0 : u.host0 = s.host0) (h1 : u.host1 = s.host1)
    (hpad : ∀ k, (u.core? k).map Core.pad = (s.core? k).map Core.pad) (t : Target) (n : Nat) : u.readTarget t n = s.readTarget t n := by
  cases t with
  | pad k o =>
    have read (o' : Option Core) : (o'.elim (List.replicate n 0) fun c => Memory.getN c.pad o n) = (o'.map Core.pad).elim (List.replicate n 0) fun p => Memory.getN p o n := by
      cases o' <;> rfl
    simp only [State.readTarget, read, hpad]
  | dram a => simp only [State.readTarget, hmem]
  | host p a => simp only [State.readTarget, State.hostMem, h0, h1]
  | peer p a => rfl

/-- States that agree on their stores and their cores have the same memory. -/
theorem sameMemory_of_eq {s u : State} (hmem : u.mem = s.mem) (h0 : u.host0 = s.host0) (h1 : u.host1 = s.host1) (hcores : u.cores = s.cores) : SameMemory s u :=
  fun t n => State.readTarget_congr hmem h0 h1 (fun k => by rw [State.core?, State.core?, hcores]) t n

theorem State.OnlyPorts.sameMemory {s u : State} (h : s.OnlyPorts u) : SameMemory s u := by
  rw [h.eq]; exact fun _ _ => rfl

theorem State.readTarget_spoil (s : State) (t x : Target) (n k : Nat) : (s.spoil t n).readTarget x k = s.readTarget x k := by
  rw [State.readTarget_congr (by rw [s.spoil_eq]) (by rw [s.spoil_eq]) (by rw [s.spoil_eq])
    fun j => map_core?_of_unspeculated (fun _ => rfl) (s.core?_spoil t n j)]

@[simp] theorem Memory.length_getN (m : List Host.Cell) (a n : Nat) : (Memory.getN m a n).length = n := by
  induction n generalizing a with
  | zero => rfl
  | succ n ih => simp [Memory.getN, ih]

@[simp] theorem State.length_readTarget (s : State) (t : Target) (n : Nat) : (s.readTarget t n).length = n := by
  cases t with
  | pad k o => cases h : s.core? k <;> simp [State.readTarget, h]
  | dram a => simp [State.readTarget]
  | host p a => simp [State.readTarget]
  | peer p a => simp [State.readTarget]

/-! ### Writing -/

/-- A write to DRAM changes the memory, the poison it covers, and the speculations it spoils. -/
theorem State.writeTarget_dram (s : State) (a : Nat) (bs : List Byte) :
    s.writeTarget (.dram a) bs = { s with mem := Memory.setN s.mem a bs, poison := clearPoison s.poison a bs.length, cores := (s.spoil (.dram a) bs.length).cores } := by
  rw [State.writeTarget, s.spoil_eq]

/-- A write to a host changes its memory and the speculations it spoils. -/
theorem State.writeTarget_host (s : State) (p a : Nat) (bs : List Byte) :
    s.writeTarget (.host p a) bs = ({ s with cores := (s.spoil (.host p a) bs.length).cores } : State).setHostMem p (Memory.setN (s.hostMem p) a bs) := by
  rw [State.writeTarget, s.spoil_eq]
  rfl

/-- Bytes written to DRAM read back. -/
theorem State.readTarget_writeTarget_dram (s : State) (a : Nat) (bs : List Byte) {n : Nat} (hn : bs.length = n) :
    (s.writeTarget (.dram a) bs).readTarget (.dram a) n = bs := by
  rw [s.writeTarget_dram, ← hn]
  exact Memory.getN_setN_self s.mem a bs

/-- Bytes written to a host read back. -/
theorem State.readTarget_writeTarget_host (s : State) (p a : Nat) (bs : List Byte) {n : Nat} (hn : bs.length = n) :
    (s.writeTarget (.host p a) bs).readTarget (.host p a) n = bs := by
  rw [s.writeTarget_host, ← hn]
  have hmem (t : State) (m : List Host.Cell) : (t.setHostMem p m).hostMem p = m := by
    unfold State.setHostMem State.hostMem
    split <;> rfl
  rw [State.readTarget, hmem]
  exact Memory.getN_setN_self _ a bs

/-- One byte of memory outside a write. -/
theorem Memory.getN_one_setN_ne (m : List Host.Cell) {a b : Nat} {bs : List Byte} (h : ∀ k < bs.length, b ≠ a + k) :
    Memory.getN (Memory.setN m a bs) b 1 = Memory.getN m b 1 := by
  refine Memory.getN_setN_ne m a b 1 bs ?_
  by_contra hin
  exact h (b - a) (by omega) (by omega)

/-- A write to DRAM leaves every byte outside it (R80). -/
theorem sameBut_writeTarget_dram (s : State) (a : Nat) (bs : List Byte) {n : Nat} (hn : bs.length = n) : SameBut s (s.writeTarget (.dram a) bs) (.dram a) n := by
  intro x hx
  rw [← s.readTarget_spoil (.dram a) x bs.length 1, s.writeTarget_dram]
  cases x with
  | dram b =>
    have hout : ∀ k < bs.length, b ≠ a + k := fun k hk h => hx k (hn ▸ hk) (by rw [h]; rfl)
    rw [s.spoil_eq]
    exact Memory.getN_one_setN_ne s.mem hout
  | pad k o => rw [s.spoil_eq]; rfl
  | host p b => rw [s.spoil_eq]; rfl
  | peer p b => rfl

/-- A write to a host leaves every byte outside it (R80). -/
theorem sameBut_writeTarget_host (s : State) (p a : Nat) (bs : List Byte) {n : Nat} (hn : bs.length = n) : SameBut s (s.writeTarget (.host p a) bs) (.host p a) n := by
  intro x hx
  rw [← s.readTarget_spoil (.host p a) x bs.length 1, s.writeTarget_host]
  cases x with
  | host q b =>
    by_cases hq : (q = 0 ↔ p = 0)
    · have hport : min q 1 = min p 1 := by omega
      have hout : ∀ k < bs.length, b ≠ a + k := fun k hk h => hx k (hn ▸ hk) (by simp only [place, Target.plus, hport, h])
      rw [s.spoil_eq]
      have := Memory.getN_one_setN_ne (s.hostMem p) hout
      by_cases hp : p = 0 <;> simp_all [State.readTarget, State.setHostMem, State.hostMem]
    · rw [s.spoil_eq]
      by_cases hp : p = 0 <;> by_cases hq : q = 0 <;> simp_all [State.readTarget, State.setHostMem, State.hostMem]
  | pad k o => rw [s.spoil_eq]; simp only [State.setHostMem]; split <;> rfl
  | dram b => rw [s.spoil_eq]; simp only [State.setHostMem]; split <;> rfl
  | peer p b => rfl

/-- A write that changes nothing but the bytes, behind states of the same memory. -/
theorem sameBut_of_sameMemory {s t u v : State} {x : Target} {n : Nat} (h : SameBut t u x n) (hst : SameMemory s t) (huv : SameMemory u v) : SameBut s v x n :=
  fun y hy => by rw [huv, h y hy, hst]

end Sys2Proof.Machine
end

section
/-! What sealing a version leaves (R274, R280, R281): its own record and marks, users and replicas of other records, and accounts of the ports. -/

namespace Sys2Proof.Machine

open Sys2Proof.Claim

/-! ### What row pieces and records are charged (R333) -/

theorem State.chargeRows_onlyPorts (s : State) (places : List Nat) (act : Nat) : s.OnlyPorts (s.chargeRows places act) :=
  .foldl (fun s p => (s.rowOpened_onlyPorts p act).trans (State.charge_onlyPorts _ _ _ _)) _ s

theorem State.chargeVersion_onlyPorts (s : State) (key : Nat) (v : Version) (act : Nat) : s.OnlyPorts (s.chargeVersion key v act) :=
  s.chargeRows_onlyPorts _ _

theorem State.chargeCopy_onlyPorts (s : State) (key : Nat) (v : Version) (target : Nat) : s.OnlyPorts (s.chargeCopy key v target) :=
  ((s.chargeVersion_onlyPorts _ _ _).trans (State.chargeRows_onlyPorts _ _ _)).trans (State.chargeFlits_onlyPorts _ _ _ _ _ _)

theorem State.chargeRecord_onlyPorts (s : State) (d k : Nat) : s.OnlyPorts (s.chargeRecord d k) := by
  unfold State.chargeRecord
  dsimp only
  split
  · exact (s.chargeBytes_onlyPorts _ _ _ _).trans (State.chargeBytes_onlyPorts _ _ _ _ _)
  · exact s.chargeBytes_onlyPorts _ _ _ _

/-! ### Users and replicas of records (R280, R281) -/

/-- A state as another left it, but for users and replicas of its records, and what their writes were charged. -/
structure State.OnlyUses (s u : State) : Prop where
  eq : u = { s with ports := u.ports, almanac := u.almanac, replicas := u.replicas }
  keeps : ∀ d k r, s.record? d k = some r → ∃ r', u.record? d k = some r' ∧ r' = { r with users := r'.users, replicaFlight := r'.replicaFlight }
  dies : ∀ d, (Map.look u.almanac d).isSome = (Map.look s.almanac d).isSome

namespace State.OnlyUses

theorem refl (s : State) : s.OnlyUses s := ⟨rfl, fun _ _ r h => ⟨r, h, rfl⟩, fun _ => rfl⟩

theorem trans {s t u : State} (h : s.OnlyUses t) (h' : t.OnlyUses u) : s.OnlyUses u := by
  refine ⟨by rw [h'.eq, h.eq], fun d k r hr => ?_, fun d => (h'.dies d).trans (h.dies d)⟩
  obtain ⟨r', hr', he⟩ := h.keeps d k r hr
  obtain ⟨r'', hr'', he'⟩ := h'.keeps d k r' hr'
  exact ⟨r'', hr'', by rw [he', he]⟩

theorem foldl {α : Type} {f : State → α → State} (hf : ∀ (s : State) a, s.OnlyUses (f s a)) (l : List α) (s : State) : s.OnlyUses (l.foldl f s) := by
  induction l generalizing s with
  | nil => exact refl s
  | cons a l ih => exact (hf s a).trans (ih _)

theorem of_onlyPorts {s u : State} (h : s.OnlyPorts u) : s.OnlyUses u := by
  refine ⟨by rw [h.eq], fun d k r hr => ⟨r, ?_, rfl⟩, fun d => by rw [h.eq]⟩
  rw [h.eq]; exact hr

end State.OnlyUses

/-- A record changed by its key. -/
theorem State.record?_updRecord (s : State) (d k : Nat) (f : Record → Record) (e j : Nat) :
    (s.updRecord d k f).record? e j = if e = d ∧ j = k then (s.record? e j).map f else s.record? e j := by
  rw [State.updRecord, (State.chargeRecord_onlyPorts _ d k).eq]
  simp only [State.record?]
  by_cases he : e = d
  · subst he
    rw [Map.look_upd]
    cases ha : Map.look s.almanac e with
    | none => simp
    | some a =>
      by_cases hj : j = k
      · subst hj; simp
      · simp [hj, Map.look_upd_ne _ _ hj]
  · simp [he, Map.look_upd_ne _ _ he]

theorem State.updRecord_onlyUses (s : State) (d k : Nat) {f : Record → Record} (hf : ∀ r, f r = { r with users := (f r).users, replicaFlight := (f r).replicaFlight }) :
    s.OnlyUses (s.updRecord d k f) := by
  refine ⟨by rw [State.updRecord, (State.chargeRecord_onlyPorts _ d k).eq], fun e j r hr => ?_, fun e => ?_⟩
  case refine_2 =>
    rw [State.updRecord, (State.chargeRecord_onlyPorts _ d k).eq]
    by_cases he : e = d
    · subst he; simp
    · exact congrArg Option.isSome (Map.look_upd_ne _ _ he)
  rw [s.record?_updRecord]
  split
  · exact ⟨f r, by rw [hr]; rfl, hf r⟩
  · exact ⟨r, hr, rfl⟩

theorem State.startReplicaTo_onlyUses (s : State) (d k target : Nat) : s.OnlyUses (s.startReplicaTo d k target) := by
  unfold State.startReplicaTo
  split
  · exact .refl s
  · split
    · exact .refl s
    · exact (s.updRecord_onlyUses d k fun r => rfl).trans ⟨rfl, fun _ _ r h => ⟨r, h, rfl⟩, fun _ => rfl⟩

theorem State.startReplica_onlyUses (s : State) (d k : Nat) : s.OnlyUses (s.startReplica d k) := s.startReplicaTo_onlyUses d k _

theorem State.retain_onlyUses (s : State) (ctx : Nat) : s.OnlyUses (s.retain ctx) :=
  .foldl (fun s _ => .foldl (fun s e => by
    split
    · exact s.startReplica_onlyUses _ _
    · exact .refl s) _ s) _ s

theorem State.thinOut_onlyUses (s : State) (d : Nat) : s.OnlyUses (s.thinOut d) := by
  unfold State.thinOut
  split
  · exact .refl s
  · split
    · split
      · exact s.startReplica_onlyUses d _
      · exact .refl s
    · exact .refl s

theorem State.addUsers_onlyUses (s : State) (hs : List Word) : s.OnlyUses (s.addUsers hs) :=
  .foldl (fun s h => by
    split
    · exact s.updRecord_onlyUses _ _ fun r => rfl
    · exact .refl s) _ s

/-! ### Sealing -/

/-- A version as its seal leaves it: read only, under its record, its replica written with it or not (R274). -/
def Version.sealedAs (v : Version) (die idx : Nat) (copy : Bool) (knows : Map Nat) : Version :=
  { v with
    sealed_ := true, present := true, record := some (die, idx), task := none, writer := none, writers := [], lost := 0
    replica := if copy then some (v.image ++ v.twin.getD []) else none
    knows := knows }

/-- A record made with ROOT shows it. -/
theorem recordFlags_root : ∀ replica harvest impure pair : Bool, (recordFlags true replica harvest impure pair).getLsbD 0 = true := by decide

/-- The record enters its shard, and the version is sealed under it (R274). -/
def State.enterSealed (s : State) (key die idx : Nat) (copy : Bool) (knows : Map Nat) (r : Record) : State :=
  { s with
    order := s.order + 1
    almanac := Map.upd s.almanac die fun a => { a with records := Map.put a.records idx r, mirrorLost := removeNat a.mirrorLost idx, next := max a.next (idx + 1) }
    versions := Map.upd s.versions key fun v => v.sealedAs die idx copy knows }

/-- The steps of a seal: users of its inputs, its own record and marks, then replicas that the records ask for. -/
theorem State.sealVersion_steps (s : State) (key : Nat) (v : Version) (die idx : Nat) (t : Option Task) (outix : Nat) (root impure replica : Bool)
    (harvest : Option (Nat × Nat × BitVec 64 × List Word)) (knows : Map Nat) :
    ∃ s' r, s.OnlyUses s' ∧ (s'.enterSealed key die idx (replica && s.buddy die != die) knows r).OnlyUses (s.sealVersion key v die idx t outix root impure replica harvest knows)
      ∧ r.flags = recordFlags root replica harvest.isSome impure v.twin.isSome ∧ r.ctx = v.ctx ∧ (root = true → r.depth = 0 ∧ r.ins = []) := by
  have hcopy : s.OnlyUses (if (replica && s.buddy die != die) = true then s.chargeCopy key v (s.buddy die) else s) := by
    split
    · exact .of_onlyPorts (s.chargeCopy_onlyPorts key v _)
    · exact .refl s
  refine ⟨_, _, hcopy.trans (State.addUsers_onlyUses _ _),
    ((State.OnlyUses.of_onlyPorts (State.chargeRecord_onlyPorts _ die idx)).trans (State.retain_onlyUses _ v.ctx)).trans (State.thinOut_onlyUses _ die), rfl, rfl, fun hroot => ?_⟩
  subst hroot
  exact ⟨rfl, rfl⟩

/-- Sealing marks the version and leaves the rest of the device as it was, but for records, replicas and accounts (R274). -/
theorem State.sealVersion_frame {s u : State} {key : Nat} {v : Version} {die idx : Nat} {t : Option Task} {outix : Nat} {root impure replica : Bool}
    {harvest : Option (Nat × Nat × BitVec 64 × List Word)} {knows : Map Nat} (hu : s.sealVersion key v die idx t outix root impure replica harvest knows = u) :
    u = { s with ports := u.ports, almanac := u.almanac, replicas := u.replicas, order := u.order, versions := u.versions }
    ∧ u.versions = Map.upd s.versions key fun v => v.sealedAs die idx (replica && s.buddy die != die) knows := by
  obtain ⟨s', r, hs, hu', -⟩ := s.sealVersion_steps key v die idx t outix root impure replica harvest knows
  rw [hu] at hu'
  constructor <;> rw [hu'.eq, State.enterSealed, hs.eq]

/-- A sealed version has its record: its flags, its context, and, of one that is a root, depth 0 and no inputs (R275, R280). -/
theorem State.record?_sealVersion {s : State} {key : Nat} {v : Version} {die idx : Nat} {t : Option Task} {outix : Nat} {root impure replica : Bool}
    {harvest : Option (Nat × Nat × BitVec 64 × List Word)} {knows : Map Nat} (hdie : (Map.look s.almanac die).isSome = true) :
    ∃ r, (s.sealVersion key v die idx t outix root impure replica harvest knows).record? die idx = some r
      ∧ r.flags = recordFlags root replica harvest.isSome impure v.twin.isSome ∧ r.ctx = v.ctx ∧ (root = true → r.depth = 0 ∧ r.ins = []) := by
  obtain ⟨s', r, hs, hu, hflags, hctx, hroot⟩ := s.sealVersion_steps key v die idx t outix root impure replica harvest knows
  obtain ⟨a, ha⟩ := Option.isSome_iff_exists.mp ((hs.dies die).trans hdie)
  have hr : (s'.enterSealed key die idx (replica && s.buddy die != die) knows r).record? die idx = some r := by
    simp [State.record?, State.enterSealed, ha]
  obtain ⟨r', hr', he⟩ := hu.keeps die idx r hr
  exact ⟨r', hr', by rw [he]; exact hflags, by rw [he]; exact hctx, fun h => by rw [he]; exact hroot h⟩

/-- A version of a tensor whose image, and its twin's behind it, arrives whole. -/
def Tensor.arrived (x : Tensor) (ctx : Nat) (ref : Ref) (img : List Byte) : Version :=
  { blankVersion ctx none none x ref with
    image := x.withEdges ref (img.take x.imageSize), twin := if x.twin then some (x.twinEdges ref (img.drop x.imageSize)) else none }

/-- A version that enters the tile store, not yet sealed. -/
def State.withNew (s : State) (v : Version) : State := { s with versions := Map.put s.versions s.uid v, uid := s.uid + 1 }

/-- A version that enters the tile store sealed: what it is, and that the device is as it was but for it, the records and the accounts. -/
theorem State.sealVersion_withNew {s u : State} {v : Version} {die idx : Nat} {root impure replica : Bool} {harvest : Option (Nat × Nat × BitVec 64 × List Word)} {knows : Map Nat}
    (hu : (s.withNew v).sealVersion s.uid v die idx none 0 root impure replica harvest knows = u) :
    u = { s with ports := u.ports, almanac := u.almanac, replicas := u.replicas, order := u.order, versions := u.versions, uid := s.uid + 1 }
    ∧ Map.look u.versions s.uid = some (v.sealedAs die idx (replica && s.buddy die != die) knows) := by
  obtain ⟨hframe, hversions⟩ := State.sealVersion_frame hu
  exact ⟨hframe, by rw [hversions, State.withNew, Map.upd_put, Map.look_put]; rfl⟩

end Sys2Proof.Machine
end

section
/-! What a host reaches over its link (R86, R275, R324, R331, R372, R413): BAR 2, and a link that goes down. -/

namespace Sys2Proof.Machine

open Sys2Proof.Claim

/-! ### What the accounts of the ports do not decide -/

theorem State.OnlyPorts.poisoned {s u : State} (h : s.OnlyPorts u) (pa n : Nat) : u.poisoned (.dram pa) n = s.poisoned (.dram pa) n := by
  rw [State.poisoned, h.deadQuad, h.deadQuad, h.eq]; rfl

theorem State.OnlyPorts.hitsSealed {s u : State} (h : s.OnlyPorts u) (t : Target) (n : Nat) : u.hitsSealed t n = s.hitsSealed t n := by
  rw [h.eq]; rfl

theorem State.OnlyPorts.pageOwner {s u : State} (h : s.OnlyPorts u) (pa : Nat) : u.pageOwner pa = s.pageOwner pa := by
  have pages (levels : List (Nat × Nat × Nat × List Nat)) : ∀ table va, u.leafPages levels table va = s.leafPages levels table va := by
    induction levels with
    | nil => exact fun _ _ => rfl
    | cons l rest ih =>
      obtain ⟨lo, n, size, sizes⟩ := l
      intro table va
      have hok : u.entryOk = s.entryOk := by rw [h.eq]; rfl
      have hmem : u.mem = s.mem := by rw [h.eq]
      simp only [State.leafPages, ih, hok, hmem]
  have hctxs : u.ctxs = s.ctxs := by rw [h.eq]
  simp only [State.pageOwner, pages, hctxs]

/-! ### The lines of an access (R86) -/

/-- An access inside one line is one part. -/
theorem barLines_of_line {pa n : Nat} (hn : 1 ≤ n) (hline : pa / 64 = (pa + n - 1) / 64) (hpa : pa < 2 ^ 64) : barLines pa n = [(pa, n)] := by
  have hva : (BitVec.ofNat 64 pa).toNat = pa := by rw [BitVec.toNat_ofNat, Nat.mod_eq_of_lt hpa]
  have hm : min n (64 - pa % 64) = n := by omega
  have hzero (k : Nat) (va : Word) : lineSegs k va 0 = [] := by cases k <;> rfl
  have hseg : lineSegs (n / 64 + 2) (BitVec.ofNat 64 pa) n = [(BitVec.ofNat 64 pa, n)] := by
    rw [lineSegs, if_neg (by omega), hva, hm]; simp only [Nat.sub_self, hzero]
  rw [barLines, hseg, List.map_cons, hva]
  rfl

theorem State.chargeBar_onlyPorts (s : State) (pa n : Nat) (opened : Bool) : s.OnlyPorts (s.chargeBar pa n opened) := by
  refine .foldl (fun s (x : Nat × Nat) => .trans (t := if opened = true ∧ (x.1 = pa ∨ x.1 % 1024 = 0) then _ else s) ?_ ((State.charge_onlyPorts _ _ _ _).trans (State.chargeHub_onlyPorts _ _ _ _))) _ s
  split
  · exact (s.charge_onlyPorts _ _ _).trans (State.countActivation_onlyPorts _ _)
  · exact .refl s

@[simp] theorem slice_self (bs : List Byte) : slice bs 0 bs.length = bs := by simp [slice]

section
variable (s : State) {pa : Nat} {bs : List Byte} (hn : 1 ≤ bs.length) (hline : pa / 64 = (pa + bs.length - 1) / 64) (hpa : pa < 2 ^ 64)
include hn hline hpa

/-- A write inside one line goes to its line, unless that is sealed (R86). -/
theorem State.barWrite_of_line :
    s.barWrite pa bs = if s.hitsSealed (.dram pa) bs.length = true then s.sealedWrite pa else s.writeTarget (.dram pa) bs := by
  rw [State.barWrite, barLines_of_line hn hline hpa, List.foldl_cons, List.foldl_nil, Nat.sub_self, slice_self]

theorem State.barWrite_of_open (h : s.hitsSealed (.dram pa) bs.length = false) : s.barWrite pa bs = s.writeTarget (.dram pa) bs := by
  rw [s.barWrite_of_line hn hline hpa, h, if_neg Bool.false_ne_true]

/-- A sealed line that no page of a context names keeps its bytes, and no record is posted (R86, R377). -/
theorem State.barWrite_of_sealed (h : s.hitsSealed (.dram pa) bs.length = true) (howner : s.pageOwner pa = none) : s.barWrite pa bs = s := by
  rw [s.barWrite_of_line hn hline hpa, h, if_pos rfl, State.sealedWrite, howner]

end

/-! ### An access through BAR 2 -/

section
variable {s : State} {off n pa : Nat} (opened : Bool) (k : State → Nat → State)

theorem State.barAccess_none (h : s.barAddr s.args.idx off n = none) : s.barAccess off n opened k = .next { s with reply := [1] } := by
  simp [State.barAccess, h, State.completes]

variable (h : s.barAddr s.args.idx off n = some pa)
include h

theorem State.barAccess_hubDown (hub : s.hubOk (pa / 2 ^ 36 % 8) = false) : s.barAccess off n opened k = .refused .notEnabled := by
  simp only [State.barAccess, h, hub, Bool.false_eq_true, not_false_eq_true, if_true]

theorem State.barAccess_blocked (hub : s.hubOk (pa / 2 ^ 36 % 8) = true) (hb : s.barBlocked pa n = true) :
    (Map.look s.barWaits pa = none → s.barAccess off n opened k = .next { s with barWaits := Map.put s.barWaits pa s.now })
    ∧ (Map.look s.barWaits pa ≠ none → s.barAccess off n opened k = .refused .notEnabled) := by
  simp only [State.barAccess, h, hub, hb, not_true_eq_false, if_false, if_true, Option.isSome_iff_ne_none]
  exact ⟨fun hw => if_neg (not_not.mpr hw), fun hw => if_pos hw⟩

/-- An access that is served does so behind its charges. -/
theorem State.barAccess_clear (hub : s.hubOk (pa / 2 ^ 36 % 8) = true) (hb : s.barBlocked pa n = false) :
    ∃ t, State.OnlyPorts { s with barWaits := Map.del s.barWaits pa } t ∧ s.barAccess off n opened k = .next (k t pa) :=
  ⟨_, State.chargeBar_onlyPorts _ pa n opened, by simp only [State.barAccess, h, hub, hb, not_true_eq_false, Bool.false_eq_true, if_false]⟩

end

/-- The bytes that a served write leaves, its completion with it. -/
theorem State.completes_writeTarget {s t : State} {w : Map Nat} {pa n : Nat} (ht : State.OnlyPorts { s with barWaits := w } t) (st : Byte) {bs : List Byte} (ans : List Byte)
    (hn : bs.length = n) :
    ((t.writeTarget (.dram pa) bs).completes st ans).readTarget (.dram pa) n = bs ∧ SameBut s ((t.writeTarget (.dram pa) bs).completes st ans) (.dram pa) n :=
  ⟨t.readTarget_writeTarget_dram pa bs hn, sameBut_of_sameMemory (sameBut_writeTarget_dram t pa bs hn) ht.sameMemory fun _ _ => rfl⟩

/-- A completion behind charges alone. -/
theorem State.OnlyPorts.completes {s t : State} {w : Map Nat} (ht : State.OnlyPorts { s with barWaits := w } t) (st : Byte) (bs : List Byte) :
    t.completes st bs = { s with ports := (t.completes st bs).ports, reply := st :: bs, barWaits := w } := by
  rw [State.completes, ht.eq]

section
variable {s : State} (hup : s.barUp s.args.idx = true)
include hup

theorem exec_hostBar2Read_eq (hlo : 1 ≤ s.args.b) (hhi : s.args.b ≤ 4096) :
    exec .hostBar2Read s = s.barAccess s.args.a s.args.b s.args.flag fun t pa =>
      t.completes (if t.poisoned (.dram pa) s.args.b then 2 else 0) (t.readTarget (.dram pa) s.args.b) := by
  have hgo : ¬ (¬ s.barUp s.args.idx = true ∨ s.args.b = 0 ∨ 4096 < s.args.b) := by
    simp only [hup, not_true_eq_false, false_or]; omega
  rw [exec_hostBar2Read, execHostBar2Read]
  exact if_neg hgo

theorem exec_hostBar2Write_eq (hlo : 1 ≤ s.args.bytes.length) (hhi : s.args.bytes.length ≤ 512) (hflag : s.args.flag = false) :
    exec .hostBar2Write s = s.barAccess s.args.a s.args.bytes.length (s.args.b == 1) fun t pa => (t.barWrite pa s.args.bytes).completes 0 [] := by
  have hgo : ¬ (¬ s.barUp s.args.idx = true ∨ s.args.bytes.length = 0) := by simp only [hup, not_true_eq_false, false_or]; omega
  simp only [exec_hostBar2Write, execHostBar2Write, hgo, hflag, Nat.not_lt.mpr hhi, Bool.false_eq_true, if_false]

theorem exec_hostBar2Write_root (hlo : 1 ≤ s.args.bytes.length) (hflag : s.args.flag = true) {t : State}
    (ht : s.writeRoot s.args.idx s.args.a (Ref.of (s.args.hdr.setWidth 128)) s.args.bytes = some t) :
    exec .hostBar2Write s = .next { t with reply := [0] } := by
  have hgo : ¬ (¬ s.barUp s.args.idx = true ∨ s.args.bytes.length = 0) := by simp only [hup, not_true_eq_false, false_or]; omega
  simp only [exec_hostBar2Write, execHostBar2Write, hgo, hflag, ht, if_false, if_true]
  rfl

theorem exec_hostBar2Atomic_eq (hk : s.args.b = 4 ∨ s.args.b = 8) (hop : s.args.code.toNat ≤ 2) :
    exec .hostBar2Atomic s =
      if s.args.a % s.args.b ≠ 0 then .next { s with reply := [1] }
      else s.barAccess s.args.a s.args.b s.args.flag fun t pa =>
        if t.poisoned (.dram pa) s.args.b then t.completes 2 (t.readTarget (.dram pa) s.args.b)
        else (t.barWrite pa (toBytes s.args.b (atomicOp t.args.code.toNat s.args.b (ofBytes (t.readTarget (.dram pa) s.args.b)) t.args.value.toNat t.args.value2.toNat))).completes 0
          (t.readTarget (.dram pa) s.args.b) := by
  have hgo : ¬ (¬ s.barUp s.args.idx = true ∨ ¬ (s.args.b = 4 ∨ s.args.b = 8) ∨ 2 < s.args.code.toNat) := by
    simp only [hup, hk, not_true_eq_false, false_or]; omega
  rw [exec_hostBar2Atomic, execHostBar2Atomic]
  exact if_neg hgo

end

/-! ### A version written at the set-up of a context (R275) -/

/-- A version that a host writes is one of a tensor of the context, sealed with ROOT in a free record of its home. -/
theorem State.writeRoot_eq_some {s t : State} {port ctx : Nat} {ref : Ref} {img : List Byte} (h : s.writeRoot port ctx ref img = some t) :
    ∃ (x : Tensor) (home i : Nat), (Map.look s.almanac home).isSome = true
      ∧ t = ((s.withNew (x.arrived ctx ref img)).sealVersion s.uid (x.arrived ctx ref img) home i none 0 true false false none []).chargeVersion s.uid (x.arrived ctx ref img) actTask := by
  rw [State.writeRoot, Option.ite_none_left_eq_some] at h
  obtain ⟨-, h⟩ := h
  cases hx : s.tensor ctx ref.handle with
  | ok x =>
    simp only [hx, Option.ite_none_left_eq_some, Option.map_eq_some_iff, Option.bind_eq_some_iff] at h
    obtain ⟨-, i, ⟨a, ha, -⟩, ht⟩ := h
    exact ⟨x, _, i, Option.isSome_of_eq_some ha, ht.symm⟩
  | unbound => simp [hx] at h
  | malformed => simp [hx] at h
  | lost => simp [hx] at h

/-- A version that a host writes is sealed as a root, of no inputs; memory is as before (R275). -/
theorem State.writeRoot_spec {s t : State} {port ctx : Nat} {ref : Ref} {img : List Byte} (h : s.writeRoot port ctx ref img = some t) :
    t.uid = s.uid + 1 ∧ SameMemory s t ∧ ∃ v, Map.look t.versions s.uid = some v ∧ v.sealed_ = true ∧ v.ctx = ctx
      ∧ ∃ d i r, v.record = some (d, i) ∧ t.record? d i = some r ∧ r.flags.getLsbD 0 = true ∧ r.depth = 0 ∧ r.ins = [] := by
  obtain ⟨x, home, i, hdie, ht⟩ := State.writeRoot_eq_some h
  have hctx : (x.arrived ctx ref img).ctx = ctx := rfl
  generalize x.arrived ctx ref img = v at *
  obtain ⟨r, hr, hflags, -, hroot⟩ := State.record?_sealVersion (s := s.withNew v) (key := s.uid) (v := v) (idx := i) (t := none) (outix := 0) (root := true) (impure := false)
    (replica := false) (harvest := none) (knows := []) hdie
  obtain ⟨hframe, hlook⟩ := State.sealVersion_withNew (s := s) (v := v) (die := home) (idx := i) (root := true) (impure := false) (replica := false) (harvest := none) (knows := []) rfl
  generalize (s.withNew v).sealVersion s.uid v home i none 0 true false false none [] = u at *
  have hcharge := u.chargeVersion_onlyPorts s.uid v actTask
  rw [← ht] at hcharge
  have hrec : ∀ d k, t.record? d k = u.record? d k := fun d k => by rw [hcharge.eq]; rfl
  refine ⟨by rw [hcharge.eq, hframe], fun y k => by rw [hcharge.eq, hframe]; rfl, v.sealedAs home i false [], by rw [hcharge.eq]; exact hlook, rfl, hctx, home, i, r, rfl,
    (hrec home i).trans hr, by rw [hflags, recordFlags_root], hroot rfl⟩

/-! ### Host links (R413) -/

theorem mem_insertNat (l : List Nat) (k : Nat) : k ∈ insertNat l k := by
  induction l with
  | nil => simp [insertNat]
  | cons x r ih =>
    simp only [insertNat]
    split
    · simp
    · split
      · simp [*]
      · simp [ih]

theorem not_mem_removeNat (l : List Nat) (k : Nat) : k ∉ removeNat l k := by simp [removeNat]

theorem State.writeEntry_ctxs (s : State) (c st owner : Nat) : (s.writeEntry c st owner).ctxs = s.ctxs := by
  simp only [State.writeEntry, State.writeTarget_dram]

/-- The contexts of a list pass to an owner, and no other changes. -/
theorem look_passed (p : Nat) (mine : List (Nat × Nat)) (s : State) (c : Nat) :
    Map.look (mine.foldl (fun s e => (s.updCtx e.1 fun x => { x with owner := p }).writeEntry e.1 e.2 p) s).ctxs c
      = (Map.look s.ctxs c).map fun x => if c ∈ mine.map Prod.fst then { x with owner := p } else x := by
  induction mine generalizing s with
  | nil => cases h : Map.look s.ctxs c <;> simp [h]
  | cons e mine ih =>
    rw [List.foldl_cons, ih, State.writeEntry_ctxs, State.updCtx]
    by_cases he : c = e.1
    · subst he
      simp only [Map.look_upd, Option.map_map, List.map_cons, List.mem_cons, true_or, if_true]
      congr 1
      funext x
      by_cases hm : e.1 ∈ mine.map Prod.fst <;> simp [hm]
    · rw [Map.look_upd_ne _ _ he]
      simp only [List.map_cons, List.mem_cons, he, false_or]

section
variable {s : State} (hp : s.args.idx < 2)
include hp

theorem exec_hostLinkDown_down (hflag : s.args.flag = false) (hup : Map.look s.hostDown s.args.idx = none) :
    exec .hostLinkDown s = .next { s with hostDown := Map.put s.hostDown s.args.idx s.now } := by
  have hgo : ¬ (2 ≤ s.args.idx ∨ (Map.look s.hostDown s.args.idx).isSome ≠ s.args.flag) := by
    simp only [hup, hflag]; simpa using hp
  rw [exec_hostLinkDown, execHostLinkDown]
  simp only [if_neg hgo]
  exact if_neg (by simp [hflag])

theorem exec_hostLinkDown_up (hflag : s.args.flag = true) (hdown : Map.look s.hostDown s.args.idx ≠ none) :
    exec .hostLinkDown s = .next { s with hostDown := Map.del s.hostDown s.args.idx, hostPassed := removeNat s.hostPassed s.args.idx } := by
  have hgo : ¬ (2 ≤ s.args.idx ∨ (Map.look s.hostDown s.args.idx).isSome ≠ s.args.flag) := by
    simp only [Option.isSome_iff_ne_none.mpr hdown, hflag]; simpa using hp
  rw [exec_hostLinkDown, execHostLinkDown]
  simp only [if_neg hgo]
  exact if_pos hflag

end

/-- After 100 ms the contexts of a host link that is down belong to the other port (R413). -/
theorem exec_hostLinkDownTimeout_pass {s : State} {t : Nat} (hp : s.args.idx < 2) (ht : Map.look s.hostDown s.args.idx = some t) (hfirst : s.args.idx ∉ s.hostPassed)
    (hdue : t + 150000000 ≤ s.now) :
    ∃ u, exec .hostLinkDownTimeout s = .next u ∧ s.args.idx ∈ u.hostPassed
      ∧ ∀ c x, Map.look s.ctxs c = some x → (c, x) ∈ s.ctxs → x.owner = s.args.idx → Map.look u.ctxs c = some { x with owner := 1 - s.args.idx } := by
  have hgo : ¬ (2 ≤ s.args.idx ∨ s.now < t + 150000000 ∨ s.hostPassed.contains s.args.idx = true) := by
    have : s.hostPassed.contains s.args.idx = false := by simpa using hfirst
    simp only [this, Bool.false_eq_true, or_false]; omega
  have hraise (u : State) (q : Nat) : (u.raise0 q).hostPassed = u.hostPassed ∧ (u.raise0 q).ctxs = u.ctxs := by
    unfold State.raise0; split <;> exact ⟨rfl, rfl⟩
  rw [exec_hostLinkDownTimeout, execHostLinkDownTimeout]
  simp only [ht, if_neg hgo]
  refine ⟨_, rfl, ?_, fun c x hx hmem howner => ?_⟩
  · rw [(hraise _ _).1]; exact mem_insertNat _ _
  · rw [(hraise _ _).2]
    refine (look_passed (1 - s.args.idx) _ s c).trans ?_
    have hmine : c ∈ ((s.ctxs.filter fun e => e.2.owner == s.args.idx).map fun e => (e.1, e.2.state)).map Prod.fst := by
      simp only [List.map_map, List.mem_map, List.mem_filter]
      exact ⟨(c, x), ⟨hmem, by simp [howner]⟩, rfl⟩
    rw [hx, Option.map_some, if_pos hmine]

/-- Settles O36: an access through BAR 2 is served behind its charges, which decide nothing that it reads, and a link's contexts pass one by one. -/
theorem hostAccesses : Obligations.HostAccesses := by
  refine ⟨?bar, ?link⟩
  case bar =>
    intro s hup off k n op addr replies waits clear
    have waitsOf {i : Instr} {pa k : Nat} (opened : Bool) (f : State → Nat → State) (hpa : addr k = some pa) (hi : exec i s = s.barAccess off k opened f) : waits i pa k :=
      ⟨fun hub => hi.trans (s.barAccess_hubDown opened f hpa hub), fun hub hb => by rw [hi]; exact s.barAccess_blocked opened f hpa hub hb⟩
    refine ⟨fun hlo hhi => ?read, fun hlo hhi hflag => ?write, fun hlo hflag t ht => ?root, fun hk hop => ?atomic⟩
    case read =>
      have hexec := exec_hostBar2Read_eq hup hlo hhi
      refine ⟨fun hnone => hexec.trans (State.barAccess_none _ _ hnone), fun pa hpa => ⟨waitsOf _ _ hpa hexec, fun ⟨hub, hb⟩ => ?_⟩⟩
      obtain ⟨t, ht, hnext⟩ := State.barAccess_clear s.args.flag (fun t pa => t.completes (if t.poisoned (.dram pa) k then 2 else 0) (t.readTarget (.dram pa) k)) hpa hub hb
      refine ⟨_, hexec.trans hnext, (ht.completes _ _).trans ?_⟩
      rw [ht.poisoned, ht.sameMemory]
      rfl
    case write =>
      have hexec := exec_hostBar2Write_eq hup hlo hhi hflag
      refine ⟨fun hnone => hexec.trans (State.barAccess_none _ _ hnone), fun pa hpa => ⟨waitsOf _ _ hpa hexec, fun ⟨hub, hb⟩ hline hrange => ?_⟩⟩
      obtain ⟨t, ht, hnext⟩ := State.barAccess_clear (s.args.b == 1) (fun t pa => (t.barWrite pa s.args.bytes).completes 0 []) hpa hub hb
      refine ⟨fun hopen => ?_, fun hsealed howner => ?_⟩
      · rw [t.barWrite_of_open hlo hline hrange ((ht.hitsSealed _ _).trans hopen)] at hnext
        obtain ⟨hread, hbut⟩ := State.completes_writeTarget ht 0 [] (rfl : s.args.bytes.length = n)
        exact ⟨_, hexec.trans hnext, rfl, hread, hbut⟩
      · rw [t.barWrite_of_sealed hlo hline hrange ((ht.hitsSealed _ _).trans hsealed) ((ht.pageOwner pa).trans howner)] at hnext
        exact ⟨_, hexec.trans hnext, ht.completes 0 []⟩
    case root =>
      exact ⟨exec_hostBar2Write_root hup hlo hflag ht, State.writeRoot_spec ht⟩
    case atomic =>
      have hexec := exec_hostBar2Atomic_eq hup hk hop
      have haccess (halign : off % k = 0) := hexec.trans (if_neg (not_not.mpr halign))
      refine ⟨fun hbad => ?_, fun pa halign hpa => ⟨waitsOf _ _ hpa (haccess halign), fun ⟨hub, hb⟩ hrange hline => ?_⟩⟩
      · by_cases halign : off % k = 0
        · exact (haccess halign).trans (State.barAccess_none _ _ (hbad.resolve_left (not_not.mpr halign)))
        · exact hexec.trans (if_pos halign)
      · obtain ⟨t, ht, hnext⟩ := State.barAccess_clear s.args.flag _ hpa hub hb
        have hnext := (haccess halign).trans hnext
        have hargs : t.args = s.args := by rw [ht.eq]
        have hread : t.readTarget (.dram pa) s.args.b = s.readTarget (.dram pa) s.args.b := ht.sameMemory _ _
        have hsame : t.poisoned (.dram pa) s.args.b = s.poisoned (.dram pa) s.args.b := ht.poisoned _ _
        rw [hsame, hread, hargs] at hnext
        refine ⟨fun hpoison => ?_, fun hclean hopen => ?_⟩
        · have hp : s.poisoned (.dram pa) s.args.b = true := hpoison
          rw [if_pos hp] at hnext
          exact ⟨_, hnext, ht.completes 2 _⟩
        · have hp : ¬ s.poisoned (.dram pa) s.args.b = true := by rw [show s.poisoned (.dram pa) s.args.b = false from hclean]; exact Bool.false_ne_true
          rw [if_neg hp, t.barWrite_of_open (by simp; omega) (by simpa using hline) hrange ((ht.hitsSealed _ _).trans (by rw [length_toBytes]; exact hopen))] at hnext
          obtain ⟨hread, hbut⟩ := State.completes_writeTarget ht 0 (s.readTarget (.dram pa) k) (length_toBytes k _)
          exact ⟨_, hnext, rfl, hread, hbut⟩
  case link =>
    intro s p hp
    refine ⟨fun hflag hnone => ?down, fun hflag hdown => ?upAgain, fun t ht hfirst => ⟨fun hearly => ?early, exec_hostLinkDownTimeout_pass hp ht hfirst⟩⟩
    case down => exact exec_hostLinkDown_down hp hflag hnone
    case upAgain => exact ⟨_, exec_hostLinkDown_up hp hflag hdown, rfl, Map.look_del _ _, not_mem_removeNat _ _⟩
    case early =>
      rw [exec_hostLinkDownTimeout, execHostLinkDownTimeout]
      simp only [show Map.look s.hostDown s.args.idx = some t from ht, if_pos (Or.inr (Or.inl hearly))]

end Sys2Proof.Machine
end

section
/-! Messages from peers (R316, R348 to R351): when one is refused, and what one that is served does and answers. -/

namespace Sys2Proof.Machine

open Sys2Proof.Claim

/-! ### Answers -/

/-- The answer to a message, as it goes out on a port (R349). -/
def Head.answer (h : Head) (p typ arg : Nat) (bs : List Byte) : Msg :=
  { port := p, hdr := messageHeader typ 0 0 h.tag bs.length 0 arg, payload := bs }

theorem State.answerMsg_eq (s : State) (p typ : Nat) (h : Head) (arg : Nat) (bs : List Byte) :
    s.answerMsg p typ h arg bs = { s with sent := s.sent ++ [h.answer p typ arg bs] } := rfl

section
variable {s : State} {typ : Nat} (hp : s.args.idx < 8) (hup : s.bilotDown.contains s.args.idx = false) (hlen : s.args.bytes.length = (Head.of s.args.hdr).len)
  (hplanes : s.planes = true) (htyp : (Head.of s.args.hdr).typ = typ)
include hp hup hlen hplanes htyp

/-- A message of a type is refused, or served (R349, R350). -/
theorem serve_eq (k : Nat → Head → List Byte → Out) :
    (∀ r, s.refusal s.args.idx (Head.of s.args.hdr) = some r → serve s typ k = .next (s.answerMsg s.args.idx 0x82 (Head.of s.args.hdr) r []))
    ∧ (s.refusal s.args.idx (Head.of s.args.hdr) = none → serve s typ k = k s.args.idx (Head.of s.args.hdr) s.args.bytes) := by
  have hgo : (8 ≤ s.args.idx ∨ s.bilotDown.contains s.args.idx = true
      ∨ ¬ ((Head.of s.args.hdr).typ == typ || (typ == 1 && !(decide (1 ≤ (Head.of s.args.hdr).typ) && decide ((Head.of s.args.hdr).typ ≤ 7)) && !(decide (0x81 ≤ (Head.of s.args.hdr).typ) && decide ((Head.of s.args.hdr).typ ≤ 0x84)))) = true
      ∨ s.args.bytes.length ≠ (Head.of s.args.hdr).len ∨ ¬ s.planes = true) = False := by
    simp only [hup, hlen, hplanes, htyp, beq_self_eq_true, Bool.true_or, Bool.false_eq_true, not_true_eq_false, ne_eq, or_false, eq_iff_iff, iff_false]
    omega
  constructor <;> intro h <;> try intro hr
  · simp only [serve, hgo, hr, if_false]
  · simp only [serve, hgo, h, if_false]

/-- A message that names bytes of DRAM: beyond the device NAK 0, outside cell memory or in a sealed line NAK 2, else it is served (R16, R324, R350). -/
theorem serveAt_eq (hok : s.refusal s.args.idx (Head.of s.args.hdr) = none) (reads : Bool) (k : Nat → Head → Nat → List Byte → Out) :
    let h := Head.of s.args.hdr
    let a := h.range.1
    let n := h.range.2
    let cell : Prop := s.cellAddr a = true ∧ s.cellAddr (a + n - 1) = true ∧ a / 2 ^ 34 = (a + n - 1) / 2 ^ 34 ∧ s.hitsSealed (.dram a) n = false
    (2 ^ 39 < a + n → serveAt s typ reads k = .next (s.answerMsg s.args.idx 0x82 h 0 []))
    ∧ (a + n ≤ 2 ^ 39 → ¬ cell → serveAt s typ reads k = .next (s.answerMsg s.args.idx 0x82 h 2 []))
    ∧ (a + n ≤ 2 ^ 39 → cell → (reads = true → s.poisoned (.dram a) n = false) → s.hubOk (a / 2 ^ 36 % 8) = true → s.barBlocked a n = false →
      serveAt s typ reads k = k s.args.idx h a s.args.bytes) := by
  intro h a n cell
  have hserve : serveAt s typ reads k = (if 2 ^ 39 < a + n then .next (s.answerMsg s.args.idx 0x82 h 0 [])
      else if ¬s.cellAddr a = true ∨ ¬s.cellAddr (a + n - 1) = true ∨ a / 2 ^ 34 ≠ (a + n - 1) / 2 ^ 34 ∨ s.hitsSealed (.dram a) n = true then .next (s.answerMsg s.args.idx 0x82 h 2 [])
      else if reads = true ∧ s.poisoned (.dram a) n = true then .next (State.answerMsg { s with free := s.free + 1 } s.args.idx 0x82 h (Config.freeWord s.free).toNat [])
      else if ¬s.hubOk (a / 2 ^ 36 % 8) = true ∨ s.barBlocked a n = true then .refused .notEnabled
      else k s.args.idx h a s.args.bytes) := by
    rw [serveAt, (serve_eq hp hup hlen hplanes htyp _).2 hok]
  have hbad : (¬s.cellAddr a = true ∨ ¬s.cellAddr (a + n - 1) = true ∨ a / 2 ^ 34 ≠ (a + n - 1) / 2 ^ 34 ∨ s.hitsSealed (.dram a) n = true) ↔ ¬ cell := by
    simp only [cell, not_and_or, Bool.not_eq_false, ne_eq]
  simp only [hserve, hbad]
  refine ⟨fun h1 => if_pos h1, fun h1 hc => ?_, fun h1 hc hclean hub hb => ?_⟩
  · rw [if_neg (Nat.not_lt.mpr h1), if_pos hc]
  · have hpoison : ¬ (reads = true ∧ s.poisoned (.dram a) n = true) := fun ⟨hr, hx⟩ => by rw [hclean hr] at hx; exact Bool.noConfusion hx
    rw [if_neg (Nat.not_lt.mpr h1), if_neg (not_not.mpr hc), if_neg hpoison, if_neg (by simp only [hub, hb]; simp)]

end

/-! ### STORE, LOAD and ATOMIC (R348, R351) -/

/-- A store behind its charges and its answer. -/
theorem State.answer_writeTarget {s t : State} (ht : s.OnlyPorts t) (p typ : Nat) (h : Head) (arg : Nat) (ans : List Byte) {a n : Nat} {bs : List Byte} (hn : bs.length = n) :
    let u := (t.writeTarget (.dram a) bs).answerMsg p typ h arg ans
    u.sent = s.sent ++ [h.answer p typ arg ans] ∧ u.readTarget (.dram a) n = bs ∧ SameBut s u (.dram a) n := by
  refine ⟨?_, t.readTarget_writeTarget_dram a bs hn, sameBut_of_sameMemory (sameBut_writeTarget_dram t a bs hn) ht.sameMemory fun _ _ => rfl⟩
  rw [State.answerMsg_eq, State.writeTarget_dram, ht.eq]

/-- What STORE, LOAD and ATOMIC do to the bytes they name, and answer. -/
theorem peerAccesses {s : State} (hp : s.args.idx < 8) (hup : s.bilotDown.contains s.args.idx = false) (hlen : s.args.bytes.length = (Head.of s.args.hdr).len)
    (hplanes : s.planes = true) (hok : s.refusal s.args.idx (Head.of s.args.hdr) = none) :
    let h := Head.of s.args.hdr
    let p := s.args.idx
    let bs := s.args.bytes
    let answers (i : Instr) (typ arg : Nat) (data : List Byte) : Prop := exec i s = .next { s with sent := s.sent ++ [h.answer p typ arg data] }
    ∀ e ∈ [(Instr.bilotStore, 1), (.bilotLoad, 2), (.bilotAtomic, 3)], h.typ = e.2 →
        let a := h.range.1
        let n := h.range.2
        let cell : Prop := s.cellAddr a = true ∧ s.cellAddr (a + n - 1) = true ∧ a / 2 ^ 34 = (a + n - 1) / 2 ^ 34 ∧ s.hitsSealed (.dram a) n = false
        (2 ^ 39 < a + n → answers e.1 0x82 0 [])
        ∧ (a + n ≤ 2 ^ 39 → ¬ cell → answers e.1 0x82 2 [])
        ∧ (a + n ≤ 2 ^ 39 → cell → s.hubOk (a / 2 ^ 36 % 8) = true → s.barBlocked a n = false →
          (e.2 = 1 → ∃ u, exec .bilotStore s = .next u ∧ u.sent = s.sent ++ [h.answer p 0x81 0 []] ∧ u.readTarget (.dram a) n = bs ∧ SameBut s u (.dram a) n)
          ∧ (e.2 = 2 → s.poisoned (.dram a) n = false → ∃ u, exec .bilotLoad s = .next u ∧ u = { s with ports := u.ports, sent := s.sent ++ [h.answer p 0x83 0 (s.readTarget (.dram a) n)] })
          ∧ (e.2 = 3 → s.poisoned (.dram a) n = false → ∃ u, exec .bilotAtomic s = .next u ∧ u.sent = s.sent ++ [h.answer p 0x83 0 (s.readTarget (.dram a) n)] ∧ SameBut s u (.dram a) n
              ∧ u.readTarget (.dram a) n = toBytes n (atomicOp (h.ops % 4) n (ofBytes (s.readTarget (.dram a) n)) (ofBytes (slice bs 0 n)) (ofBytes (slice bs n n))))) := by
  intro h p bs answers e he htyp a n cell
  simp only [List.mem_cons, List.not_mem_nil, or_false] at he
  rcases he with rfl | rfl | rfl
  case inl =>
    have hn : bs.length = n := by
      simp only [n, Head.range, htyp]; exact hlen
    obtain ⟨hfar, hbad, hgood⟩ := serveAt_eq hp hup hlen hplanes htyp hok false fun p h a bs => .next (((s.chargeBar a bs.length s.args.flag).writeTarget (.dram a) bs).answerMsg p 0x81 h 0 [])
    refine ⟨hfar, hbad, fun h1 hc hub hb => ⟨fun _ => ⟨_, hgood h1 hc (by simp) hub hb, State.answer_writeTarget (s.chargeBar_onlyPorts a _ _) p 0x81 h 0 [] hn⟩, ?_, ?_⟩⟩ <;> simp
  case inr.inl =>
    have hn : h.arg = n := by simp only [n, Head.range, htyp]
    obtain ⟨hfar, hbad, hgood⟩ := serveAt_eq hp hup hlen hplanes htyp hok true fun p h a _ => .next ((s.chargeBar a h.arg s.args.flag).answerMsg p 0x83 h 0 (s.readTarget (.dram a) h.arg))
    refine ⟨hfar, hbad, fun h1 hc hub hb => ⟨by simp, fun _ hclean => ⟨_, hgood h1 hc (fun _ => hclean) hub hb, ?_⟩, by simp⟩⟩
    rw [State.answerMsg_eq, (s.chargeBar_onlyPorts a h.arg s.args.flag).eq, ← hn]
  case inr.inr =>
    have hn : h.opSize = n := by simp only [n, Head.range, htyp]
    obtain ⟨hfar, hbad, hgood⟩ := serveAt_eq hp hup hlen hplanes htyp hok true fun p h a bs =>
      .next (((s.chargeBar a h.opSize s.args.flag).writeTarget (.dram a) (toBytes h.opSize (atomicOp (h.ops % 4) h.opSize (ofBytes (s.readTarget (.dram a) h.opSize)) (ofBytes (slice bs 0 h.opSize)) (ofBytes (slice bs h.opSize h.opSize))))).answerMsg p 0x83 h 0 (s.readTarget (.dram a) h.opSize))
    refine ⟨hfar, hbad, fun h1 hc hub hb => ⟨by simp, by simp, fun _ hclean => ⟨_, hgood h1 hc (fun _ => hclean) hub hb, ?_⟩⟩⟩
    rw [← hn]
    obtain ⟨hsent, hread, hbut⟩ := State.answer_writeTarget (s.chargeBar_onlyPorts a h.opSize s.args.flag) p 0x83 h 0 (s.readTarget (.dram a) h.opSize) (length_toBytes h.opSize _)
    exact ⟨hsent, hbut, hread⟩

end Sys2Proof.Machine
end

section
/-! Messages from peers that append, contribute, and bring versions (R33, R316, R348). -/

namespace Sys2Proof.Machine

open Sys2Proof.Claim

/-! ### What a write on the device's own behalf leaves -/

/-- A state as another left it, but for bytes, poison, and the cores. -/
def State.OnlyBytes (s u : State) : Prop := u = { s with mem := u.mem, poison := u.poison, cores := u.cores, host0 := u.host0, host1 := u.host1 }

theorem State.writeTarget_onlyBytes (s : State) (t : Target) (bs : List Byte) : s.OnlyBytes (s.writeTarget t bs) := by
  cases t with
  | dram a => rw [State.writeTarget_dram]; rfl
  | host p a => rw [State.writeTarget_host]; unfold State.setHostMem; split <;> rfl
  | pad k o => rw [State.writeTarget, s.spoil_eq]; rfl
  | peer p a => rw [State.writeTarget, s.spoil_eq]; rfl

theorem State.OnlyBytes.trans {s t u : State} (h : s.OnlyBytes t) (h' : t.OnlyBytes u) : s.OnlyBytes u := by
  rw [State.OnlyBytes, h', h]

theorem State.writeRange_onlyBytes {s t : State} {ctx va : Nat} {bs : List Byte} (h : s.writeRange ctx va bs = some t) : s.OnlyBytes t := by
  have parts (ps : List (Target × Nat)) : ∀ x : State × List Byte, x.1.OnlyBytes (ps.foldl (fun (x : State × List Byte) p => (x.1.writeTarget p.1 (x.2.take p.2), x.2.drop p.2)) x).1 := by
    induction ps with
    | nil => exact fun x => rfl
    | cons p ps ih => exact fun x => (x.1.writeTarget_onlyBytes _ _).trans (ih _)
  unfold State.writeRange at h
  split at h
  · rw [Option.ite_none_left_eq_some] at h
    obtain ⟨-, h⟩ := h
    rw [← Option.some.inj h]
    exact parts _ (s, bs)
  · contradiction

/-! ### QAPPEND (R33, R345) -/

/-- A doorbell on a queue in use sets its pending flag. -/
theorem State.doorbell_of_used {s : State} {ctx k : Nat} {c : Ctx} {q : HostQueue} (hc : Map.look s.ctxs ctx = some c) (hst : c.state = 1) (hq : Map.look c.queues k = some q)
    (he : q.e ≠ 0) : s.doorbell ctx k = s.updQueue ctx k fun x => { x with pending := true } := by
  simp [State.doorbell, Option.filter, hc, hst, hq, he]

theorem State.look_updQueue {s : State} {ctx k : Nat} {c : Ctx} {q : HostQueue} (hc : Map.look s.ctxs ctx = some c) (hq : Map.look c.queues k = some q) (f : HostQueue → HostQueue) :
    ∃ c', Map.look (s.updQueue ctx k f).ctxs ctx = some c' ∧ Map.look c'.queues k = some (f q) :=
  ⟨{ c with queues := Map.upd c.queues k f }, by simp [State.updQueue, hc], by simp [hq]⟩

theorem member_setMember (g : Group) (m : Nat) (x : Member) : (g.setMember m x).member m = x := by
  simp [Group.member, Group.setMember, Map.lookD]

section
variable {s : State} (hp : s.args.idx < 8) (hup : s.bilotDown.contains s.args.idx = false) (hlen : s.args.bytes.length = (Head.of s.args.hdr).len)
  (hplanes : s.planes = true) (hok : s.refusal s.args.idx (Head.of s.args.hdr) = none)
include hp hup hlen hplanes hok

/-- A packet for a queue that is not in use is refused. -/
theorem exec_bilotQappend_unused (htyp : (Head.of s.args.hdr).typ = 4)
    (hnone : ∀ c q, Map.look s.ctxs (Head.of s.args.hdr).ctx = some c → c.state = 1 → Map.look c.queues (Head.of s.args.hdr).addr = some q → q.e = 0) :
    exec .bilotQappend s = .next (s.answerMsg s.args.idx 0x82 (Head.of s.args.hdr) 0 []) := by
  have hq : (((Map.look s.ctxs (Head.of s.args.hdr).ctx).filter fun c => c.state == 1).bind fun c => (Map.look c.queues (Head.of s.args.hdr).addr).filter fun q => q.e != 0) = none := by
    simp only [Option.bind_eq_none_iff, Option.filter_eq_some_iff, Option.filter_eq_none_iff]
    rintro c ⟨hc, hst⟩ q hq
    simp [hnone c q hc (by simpa using hst) hq]
  rw [exec_bilotQappend, execBilotQappend, (serve_eq hp hup hlen hplanes htyp _).2 hok]
  simp only [hq]

section
variable (htyp : (Head.of s.args.hdr).typ = 4) {c : Ctx} {q : HostQueue} {w r : List Byte} (hc : Map.look s.ctxs (Head.of s.args.hdr).ctx = some c) (hst : c.state = 1)
  (hq : Map.look c.queues (Head.of s.args.hdr).addr = some q) (he : q.e ≠ 0) (hw : s.readRange (Head.of s.args.hdr).ctx q.widx 8 = some w)
  (hr : s.readRange (Head.of s.args.hdr).ctx q.ridx 8 = some r)
include htyp hc hst hq he hw hr

/-- A packet waits while its slot is not free (R33). -/
theorem exec_bilotQappend_full (hfull : ofBytes r + 2 ^ q.e ≤ ofBytes w) : exec .bilotQappend s = .refused .notEnabled := by
  rw [exec_bilotQappend, execBilotQappend, (serve_eq hp hup hlen hplanes htyp _).2 hok]
  simp [Option.filter, hc, hst, hq, he, hw, hr, hfull]

/-- A packet whose slot is free is appended, counted and announced (R33, R345). -/
theorem exec_bilotQappend_append {t t' : State} (hroom : ofBytes w < ofBytes r + 2 ^ q.e) (hwidx : s.hubReaches (Head.of s.args.hdr).ctx q.widx = true)
    (hslot : s.hubReaches (Head.of s.args.hdr).ctx (q.ring + 64 * (ofBytes w % 2 ^ q.e)) = true) (ht : s.writeRange (Head.of s.args.hdr).ctx q.widx (toBytes 8 (ofBytes w + 1)) = some t)
    (ht' : t.writeRange (Head.of s.args.hdr).ctx (q.ring + 64 * (ofBytes w % 2 ^ q.e)) s.args.bytes = some t') :
    ∃ u c' q', exec .bilotQappend s = .next u ∧ u.mem = t'.mem ∧ u.sent = s.sent ++ [(Head.of s.args.hdr).answer s.args.idx 0x81 0 []]
      ∧ Map.look u.ctxs (Head.of s.args.hdr).ctx = some c' ∧ Map.look c'.queues (Head.of s.args.hdr).addr = some q' ∧ q' = { q with pending := true } := by
  have hframe : s.OnlyBytes t' := (State.writeRange_onlyBytes ht).trans (State.writeRange_onlyBytes ht')
  have hc' : Map.look t'.ctxs (Head.of s.args.hdr).ctx = some c := by rw [hframe]; exact hc
  obtain ⟨c', hlook, hq'⟩ := State.look_updQueue hc' hq fun x => { x with pending := true }
  refine ⟨(t'.doorbell (Head.of s.args.hdr).ctx (Head.of s.args.hdr).addr).answerMsg s.args.idx 0x81 (Head.of s.args.hdr) 0 [], c', { q with pending := true }, ?_, ?_⟩
  · rw [exec_bilotQappend, execBilotQappend, (serve_eq hp hup hlen hplanes htyp _).2 hok]
    simp [Option.filter, hc, hst, hq, he, hw, hr, hwidx, hslot, ht, ht', Nat.not_le.mpr hroom]
  · rw [State.doorbell_of_used hc' hst hq he, State.answerMsg_eq]
    exact ⟨rfl, by rw [hframe]; rfl, hlook, hq', rfl⟩

end

/-! ### HCONTRIB (R316) -/

/-- A contribution for a group that is not installed answers status 5; one of another member, or of the wrong size, is refused; any other goes to Harvest control, and its member is bound from the port. -/
theorem exec_bilotHcontrib_cases (htyp : (Head.of s.args.hdr).typ = 5) :
    let h := Head.of s.args.hdr
    let p := s.args.idx
    let m := bits h.addr 12 6
    let k := bits h.addr 0 12
    (s.groupOf? h.ctx k = none → exec .bilotHcontrib s = .next (s.answerMsg p 0x84 h (5 * 2 ^ 40) []))
    ∧ ∀ g, s.groupOf? h.ctx k = some g →
      ((g.n ≤ m ∨ bitAt g.peers m = false) → exec .bilotHcontrib s = .next (s.answerMsg p 0x82 h 1 []))
      ∧ (m < g.n → bitAt g.peers m = true → s.hubOk g.die = true → s.payloadSize g ≠ some h.len → exec .bilotHcontrib s = .next (s.answerMsg p 0x82 h 5 []))
      ∧ (m < g.n → bitAt g.peers m = true → s.hubOk g.die = true → s.payloadSize g = some h.len → ∃ u g' y, exec .bilotHcontrib s = .next u ∧ u = { s with groups := u.groups } ∧ Map.look u.groups k = some g'
          ∧ g'.inflight = g.inflight ++ [y] ∧ y.member = m ∧ y.tag = BitVec.ofNat 32 (bits h.addr 32 32) ∧ y.payload = s.args.bytes ∧ y.peer = some (p, h.tag)
          ∧ (g'.member m).port = some p ∧ (s.det g.ctx = false → (g'.member m).present = true)) := by
  intro h p m k
  rw [exec_bilotHcontrib, execBilotHcontrib, (serve_eq hp hup hlen hplanes htyp _).2 hok]
  refine ⟨fun hnone => ?_, fun g hg => ⟨fun hbad => ?_, fun hm hpeer hub hsize => ?_, fun hm hpeer hub hsize => ?_⟩⟩
  · simp only [h, k] at hnone
    simp only [hnone]
    rfl
  all_goals simp only [h, k] at hg; simp only [hg]
  · exact if_pos (hbad.imp_right Bool.eq_false_iff.mp)
  all_goals
    have hmember : ¬ (g.n ≤ m ∨ ¬ bitAt g.peers m = true) := fun hx => hx.elim (Nat.not_le.mpr hm) (absurd hpeer)
  · rw [if_neg hmember, if_neg (not_not.mpr hub), if_pos hsize]
  · rw [if_neg hmember, if_neg (not_not.mpr hub), if_neg (not_not.mpr hsize)]
    refine ⟨_, _, _, rfl, rfl, Map.look_put _ _ _, rfl, rfl, rfl, rfl, rfl, ?_, fun hdet => ?_⟩
    · refine (congrArg Member.port (member_setMember g m _)).trans ?_
      split <;> rfl
    · refine (congrArg Member.present (member_setMember g m _)).trans ?_
      rw [hdet]
      rfl

end
end Sys2Proof.Machine
end

section
/-! Messages from peers that bring versions (R316, R348): the result of a round, and a replica. -/

namespace Sys2Proof.Machine

open Sys2Proof.Claim

/-! ### How long the image of a version is (R256, R257) -/

theorem Tensor.length_edgeRow (t : Tensor) (keep : Nat) (row : List Byte) : (t.edgeRow keep row).length = t.rowBits / 8 :=
  length_toBytes _ _

theorem Tensor.length_withEdges (t : Tensor) (r : Ref) (img : List Byte) : (t.withEdges r img).length = t.tr * (t.rowBits / 8) + (img.length - t.elemBytes) := by
  simp [Tensor.withEdges, Tensor.length_edgeRow]

theorem Tensor.elemBytes_le_imageSize (t : Tensor) : t.elemBytes ≤ t.imageSize := by
  unfold Tensor.imageSize Tensor.s0
  split
  · exact le_refl _
  · have : t.elemBytes ≤ roundUp t.elemBytes 64 := by unfold roundUp; omega
    omega

theorem Tensor.elemBytes_swapped (t : Tensor) : t.swapped.elemBytes = t.elemBytes := by
  simp only [Tensor.elemBytes, Tensor.rowBits, Tensor.swapped]
  rw [Nat.mul_left_comm]

/-- Setting the edge elements of an image that fits keeps it within its size. -/
theorem Tensor.length_withEdges_le (t : Tensor) (r : Ref) {img : List Byte} {n : Nat} (hn : img.length ≤ n) (he : t.elemBytes ≤ n) : (t.withEdges r img).length ≤ n := by
  have hrows : t.tr * (t.rowBits / 8) ≤ t.elemBytes := Nat.mul_div_le_mul_div_assoc ..
  rw [t.length_withEdges]
  omega

theorem Tensor.length_twinEdges_le (t : Tensor) (r : Ref) {img : List Byte} (hn : img.length ≤ t.imageSize) : (t.twinEdges r img).length ≤ t.imageSize :=
  t.swapped.length_withEdges_le _ hn (t.elemBytes_swapped ▸ t.elemBytes_le_imageSize)

/-! ### TREPL -/

section
variable {s : State} (hp : s.args.idx < 8) (hup : s.bilotDown.contains s.args.idx = false) (hlen : s.args.bytes.length = (Head.of s.args.hdr).len)
  (hplanes : s.planes = true) (hok : s.refusal s.args.idx (Head.of s.args.hdr) = none)
include hp hup hlen hplanes hok

/-- A replica that does not fit its tensor, or is known already, is refused; any other is sealed at its home. -/
theorem exec_bilotTrepl_cases (htyp : (Head.of s.args.hdr).typ = 7) {t : Tensor} {i : Nat} :
    let h := Head.of s.args.hdr
    let p := s.args.idx
    let ref := Ref.of (BitVec.ofNat 128 (field s.args.bytes 0 16))
    let img := s.args.bytes.drop 16
    s.tensor h.ctx ref.handle = .ok t →
      let fits : Prop := ref.latest = false ∧ ref.twin = false ∧ t.badRef ref = false ∧ img.length = if t.twin = true then 2 * t.imageSize else t.imageSize
      let home := s.standIn (t.homeOf ref)
      (¬ fits → exec .bilotTrepl s = .next (s.answerMsg p 0x82 h 5 []))
      ∧ (fits → s.hubOk home = true → s.findVersion h.ctx ref ≠ none → exec .bilotTrepl s = .next (s.answerMsg p 0x82 h 2 []))
      ∧ (fits → s.hubOk home = true → s.findVersion h.ctx ref = none → (Map.look s.almanac home).bind Almanac.freeIndex = some i →
          s.tileStoreFull home (t.arrived h.ctx ref img).pieces = false → s.tileStoreFull (s.buddy home) (t.arrived h.ctx ref img).pieces = false →
          exec .bilotTrepl s = .next (((s.withNew (t.arrived h.ctx ref img)).sealVersion s.uid (t.arrived h.ctx ref img) home i none 0 false false true none []).answerMsg p 0x81 h 0 [])) := by
  intro h p ref img ht fits home
  have hfits : (ref.latest = true ∨ ref.twin = true ∨ t.badRef ref = true ∨ img.length ≠ if t.twin = true then 2 * t.imageSize else t.imageSize) ↔ ¬ fits := by
    simp only [fits, not_and_or, Bool.not_eq_false, ne_eq]
  have hexec : exec .bilotTrepl s = if ¬ fits then .next (s.answerMsg p 0x82 h 5 [])
      else if ¬s.hubOk home = true then .refused .notEnabled
      else if (s.findVersion h.ctx ref).isSome = true ∨ s.tileStoreFull home (t.arrived h.ctx ref img).pieces = true ∨ s.tileStoreFull (s.buddy home) (t.arrived h.ctx ref img).pieces = true then .next (s.answerMsg p 0x82 h 2 [])
      else match (Map.look s.almanac home).bind Almanac.freeIndex with
        | none => .refused .notEnabled
        | some i => .next (((s.withNew (t.arrived h.ctx ref img)).sealVersion s.uid (t.arrived h.ctx ref img) home i none 0 false false true none []).answerMsg p 0x81 h 0 []) := by
    rw [exec_bilotTrepl, execBilotTrepl, (serve_eq hp hup hlen hplanes htyp _).2 hok]
    simp only [h, ref] at ht
    simp only [ht, ← hfits]
    rfl
  refine ⟨fun hf => by rw [hexec, if_pos hf], fun hf hub hknown => ?_, fun hf hub hnew hi h1 h2 => ?_⟩
  · rw [hexec, if_neg (not_not.mpr hf), if_neg (not_not.mpr hub), if_pos (.inl (Option.isSome_iff_ne_none.mpr hknown))]
  · rw [hexec, if_neg (not_not.mpr hf), if_neg (not_not.mpr hub), if_neg (by simp [hnew, h1, h2]), hi]

end

/-- An image that arrives for a tensor, and its twin's behind it, fits the size of the tensor's images. -/
theorem Tensor.arrived_fits (t : Tensor) (ctx : Nat) (ref : Ref) {img : List Byte} (hlen : img.length = if t.twin = true then 2 * t.imageSize else t.imageSize) :
    (t.arrived ctx ref img).image.length ≤ t.imageSize ∧ (t.arrived ctx ref img).twin.elim 0 List.length ≤ t.imageSize := by
  refine ⟨t.length_withEdges_le _ (List.length_take_le _ _) t.elemBytes_le_imageSize, ?_⟩
  cases htwin : t.twin with
  | false => simp [Tensor.arrived, htwin]
  | true =>
    rw [htwin, if_pos rfl] at hlen
    have : (img.drop t.imageSize).length ≤ t.imageSize := by rw [List.length_drop]; omega
    simpa [Tensor.arrived, htwin] using t.length_twinEdges_le ref this

/-! ### HRESULT -/

/-- The version of a round's result that no version stands for yet. -/
def Group.newResult (g : Group) (t : Tensor) (r : Nat) (img : List Byte) : Version :=
  (blankVersion g.ctx none none t (g.resultRef r)).filled t (g.resultRef r) img

/-- A group behind the result of a round that a peer folded. -/
def Group.resultFrom (g : Group) (r roster : Nat) : Group :=
  let g := g.setRound (BitVec.ofNat 32 r) { g.round (BitVec.ofNat 32 r) with state := .sealed_, roster := BitVec.ofNat 64 roster }
  { g with open_ := g.later g.open_ (BitVec.ofNat 32 r + 1) }

theorem Group.round_resultFrom (g : Group) (r roster : Nat) :
    (g.resultFrom r roster).round (BitVec.ofNat 32 r) = { g.round (BitVec.ofNat 32 r) with state := .sealed_, roster := BitVec.ofNat 64 roster } := by
  simp [Group.resultFrom, Group.setRound, Group.round]

section
variable {s : State} (hp : s.args.idx < 8) (hup : s.bilotDown.contains s.args.idx = false) (hlen : s.args.bytes.length = (Head.of s.args.hdr).len)
  (hplanes : s.planes = true) (hok : s.refusal s.args.idx (Head.of s.args.hdr) = none)
include hp hup hlen hplanes hok

/-- A result is for a proxy group that forwards through its port. -/
theorem exec_bilotHresult_foreign (htyp : (Head.of s.args.hdr).typ = 6)
    (hnone : ∀ g, Map.look s.groups (bits (Head.of s.args.hdr).addr 0 12) = some g → g.ctx = (Head.of s.args.hdr).ctx → ¬ (g.proxy = true ∧ g.outPort = s.args.idx)) :
    exec .bilotHresult s = .next (s.answerMsg s.args.idx 0x82 (Head.of s.args.hdr) 0 []) := by
  have hg : ((s.groupOf? (Head.of s.args.hdr).ctx (bits (Head.of s.args.hdr).addr 0 12)).filter fun g => g.proxy && g.outPort == s.args.idx) = none := by
    simp only [State.groupOf?, Option.filter_eq_none_iff, Option.filter_eq_some_iff]
    rintro g ⟨hg, hctx⟩
    simpa using hnone g hg (by simpa using hctx)
  rw [exec_bilotHresult, execBilotHresult, (serve_eq hp hup hlen hplanes htyp _).2 hok]
  simp only [hg]

/-- A result that has not the size of the tensor's images, or whose round is sealed, is refused; any other is sealed at its home, and its round with it. -/
theorem exec_bilotHresult_cases (htyp : (Head.of s.args.hdr).typ = 6) {g : Group} {t : Tensor} {i : Nat} :
    let h := Head.of s.args.hdr
    let p := s.args.idx
    let bs := s.args.bytes
    let k := bits h.addr 0 12
    let r := bits h.addr 32 32
    s.groupOf? h.ctx k = some g → g.proxy = true → g.outPort = p → s.tensor g.ctx (g.resultRef r).handle = .ok t →
      let home := s.standIn (t.homeOf (g.resultRef r))
      let v := g.newResult t r bs
      (bs.length ≠ t.imageSize → exec .bilotHresult s = .next (s.answerMsg p 0x82 h 5 []))
      ∧ (bs.length = t.imageSize → s.hubOk g.die = true → (g.round (BitVec.ofNat 32 r)).state = .sealed_ → exec .bilotHresult s = .next (s.answerMsg p 0x82 h 2 []))
      ∧ (bs.length = t.imageSize → s.hubOk g.die = true → (g.round (BitVec.ofNat 32 r)).state ≠ .sealed_ → s.findVersion g.ctx (g.resultRef r) = none →
          s.tileStoreFull home (ceilDiv t.imageSize 1024) = false → s.tileStoreFull (s.buddy home) (ceilDiv t.imageSize 1024) = false →
          (Map.look s.almanac home).bind Almanac.freeIndex = some i →
          exec .bilotHresult s = .next ((((((s.withNew v).sealVersion s.uid v home i none 0 false false true (some (k, r, BitVec.ofNat 64 h.arg, [])) []).setGroup k (g.resultFrom r h.arg)).latchGroup (g.resultFrom r h.arg)).chargeVersion s.uid v actHarvest).answerMsg p 0x81 h 0 [])) := by
  intro h p bs k r hg hproxy hport ht home v
  have hgroup : ((s.groupOf? h.ctx k).filter fun g => g.proxy && g.outPort == p) = some g := by
    rw [hg, Option.filter_some, if_pos (by simp [hproxy, hport])]
  have hround : (BitVec.ofNat 32 r).toNat = r := by
    rw [BitVec.toNat_ofNat]
    exact Nat.mod_mod _ _
  have hnew (hnone : s.findVersion g.ctx (g.resultRef r) = none) : s.placeResult g t (BitVec.ofNat 32 r) bs [] = (s.withNew v, s.uid) := by
    rw [State.placeResult, hround, hnone]
    rfl
  have hlook : Map.look (s.withNew v).versions s.uid = some v := Map.look_put _ _ _
  simp only [h, p, k] at hgroup
  simp only [r, h] at ht
  refine ⟨fun hbad => ?_, fun hgood hub hx => ?_, fun hgood hub hx hnone h1 h2 hi => ?_⟩
  all_goals
    rw [exec_bilotHresult, execBilotHresult, (serve_eq hp hup hlen hplanes htyp _).2 hok]
    simp only [hgroup, ht]
  · exact if_pos hbad
  · rw [if_neg (not_not.mpr hgood), if_neg (not_not.mpr hub), if_pos hx]
  · have hroom : ¬ ((s.findVersion g.ctx (g.resultRef r)).any (fun e => e.2.sealed_) = true
        ∨ ¬ (!s.tileStoreFull home (ceilDiv t.imageSize 1024) && !s.tileStoreFull (s.buddy home) (ceilDiv t.imageSize 1024)) = true) := by
      rw [hnone, h1, h2]; simp
    rw [if_neg (not_not.mpr hgood), if_neg (not_not.mpr hub), if_neg hx, if_neg hroom, hi, hnew hnone]
    simp only [hlook]
    rfl

end
end Sys2Proof.Machine
end

section
/-! What a message from a peer does, in all its types (R316, R348 to R351). -/

namespace Sys2Proof.Machine

open Sys2Proof.Claim

/-- A message that is refused is answered with a NAK, whatever its type. -/
theorem exec_refused {s : State} {r : Nat} (hp : s.args.idx < 8) (hup : s.bilotDown.contains s.args.idx = false) (hlen : s.args.bytes.length = (Head.of s.args.hdr).len)
    (hplanes : s.planes = true) (hr : s.refusal s.args.idx (Head.of s.args.hdr) = some r) :
    ∀ e ∈ [(Instr.bilotStore, 1), (.bilotLoad, 2), (.bilotAtomic, 3), (.bilotQappend, 4), (.bilotHcontrib, 5), (.bilotHresult, 6), (.bilotTrepl, 7)],
      (Head.of s.args.hdr).typ = e.2 → exec e.1 s = .next (s.answerMsg s.args.idx 0x82 (Head.of s.args.hdr) r []) := by
  have refused (typ : Nat) (k : Nat → Head → List Byte → Out) (htyp : (Head.of s.args.hdr).typ = typ) : serve s typ k = .next (s.answerMsg s.args.idx 0x82 (Head.of s.args.hdr) r []) :=
    (serve_eq hp hup hlen hplanes htyp k).1 r hr
  have refusedAt (typ : Nat) (reads : Bool) (k : Nat → Head → Nat → List Byte → Out) (htyp : (Head.of s.args.hdr).typ = typ) :
      serveAt s typ reads k = .next (s.answerMsg s.args.idx 0x82 (Head.of s.args.hdr) r []) := by
    rw [serveAt]
    exact refused typ _ htyp
  intro e he htyp
  simp only [List.mem_cons, List.not_mem_nil, or_false] at he
  rcases he with rfl | rfl | rfl | rfl | rfl | rfl | rfl
  · exact (exec_bilotStore s).trans (refusedAt 1 _ _ htyp)
  · exact (exec_bilotLoad s).trans (refusedAt 2 _ _ htyp)
  · exact (exec_bilotAtomic s).trans (refusedAt 3 _ _ htyp)
  · exact (exec_bilotQappend s).trans (refused 4 _ htyp)
  · exact (exec_bilotHcontrib s).trans (refused 5 _ htyp)
  · exact (exec_bilotHresult s).trans (refused 6 _ htyp)
  · exact (exec_bilotTrepl s).trans (refused 7 _ htyp)

/-- Every message from a peer is refused, or served as its type says. -/
theorem peerMessages : PeerMessages := by
  intro s h p bs hh hp hup hlen hplanes reply answers
  subst hh
  refine ⟨fun e he htyp r hr => exec_refused hp hup hlen hplanes hr e he htyp, fun hok =>
    ⟨peerAccesses hp hup hlen hplanes hok, fun htyp => ?_, fun htyp => exec_bilotHcontrib_cases hp hup hlen hplanes hok htyp, fun htyp => ?_, fun htyp => ?_⟩⟩
  case refine_1 =>
    refine ⟨fun hnone => exec_bilotQappend_unused hp hup hlen hplanes hok htyp hnone, fun c q w r hc hst hq he hw hr => ⟨fun hfull => ?_, fun t t' hroom hwidx hslot ht ht' => ?_⟩⟩
    · exact exec_bilotQappend_full hp hup hlen hplanes hok htyp hc hst hq he hw hr hfull
    · exact exec_bilotQappend_append hp hup hlen hplanes hok htyp hc hst hq he hw hr hroom hwidx hslot ht ht'
  case refine_2 =>
    intro k r
    refine ⟨fun hnone => exec_bilotHresult_foreign hp hup hlen hplanes hok htyp hnone, fun g t i hg hproxy hport ht => ?_⟩
    let home := s.standIn (t.homeOf (g.resultRef r))
    obtain ⟨hsize, hsealed, hnew⟩ := exec_bilotHresult_cases hp hup hlen hplanes hok htyp (i := i) hg hproxy hport ht
    refine ⟨hsize, hsealed, fun hgood hub hx hnone h1 h2 hi => ?_⟩
    have hu := hnew hgood hub hx hnone h1 h2 hi
    generalize hw : State.sealVersion _ _ _ _ _ _ _ _ _ _ _ _ = w at hu
    obtain ⟨hframe, hlook⟩ := State.sealVersion_withNew hw
    refine ⟨_, (g.newResult t r s.args.bytes).sealedAs home i (true && s.buddy home != home) [], hu, ?_, ?_, rfl, rfl, rfl, g.resultFrom r (Head.of s.args.hdr).arg, ?_, ?_⟩
    case refine_4 => rw [Group.round_resultFrom]; exact ⟨rfl, rfl⟩
    all_goals rw [State.answerMsg_eq, (State.chargeVersion_onlyPorts _ _ _ _).eq]
    · rw [hframe]; rfl
    · exact hlook
    · exact Map.look_put _ _ _
  case refine_3 =>
    intro ref img t i ht fits home
    obtain ⟨hunfit, hknown, hnew⟩ := exec_bilotTrepl_cases hp hup hlen hplanes hok htyp (i := i) ht
    refine ⟨hunfit, hknown, fun hf hub hnone hi hroom => ?_⟩
    obtain ⟨h1, h2⟩ := hroom _ (t.arrived_fits _ _ hf.2.2.2).1 (t.arrived_fits _ _ hf.2.2.2).2
    have hu := hnew hf hub hnone hi h1 h2
    generalize hw : State.sealVersion _ _ _ _ _ _ _ _ _ _ _ _ = w at hu
    obtain ⟨hframe, hlook⟩ := State.sealVersion_withNew hw
    refine ⟨_, _, hu, ?_, hlook, rfl, rfl, rfl, rfl, rfl⟩
    rw [State.answerMsg_eq, hframe]
    rfl

end Sys2Proof.Machine
end

section
/-! Answers to the device's own messages (R349, R350, R414). -/

namespace Sys2Proof.Machine

open Sys2Proof.Claim

/-! ### The access that a message belongs to -/

/-- An access that a message belongs to: it went out on the message's port under the message's tag. -/
def Access.sentAs (x : Pending) (f : Access) : Bool := f.tag == x.tag && (match f.target with | .peer p _ => p == x.port | _ => false)

theorem findSome?_of_findIdx? {α β : Type} {p : α → Bool} {g : α → Option β} {h : α → β} (hg : ∀ a, g a = if p a = true then some (h a) else none) :
    ∀ {l : List α} {i : Nat} {a : α}, l.findIdx? p = some i → l[i]? = some a → l.findSome? g = some (h a)
  | b :: l, i, a, hi, ha => by
    rw [List.findIdx?_cons] at hi
    rw [List.findSome?_cons, hg]
    by_cases hb : p b = true
    · rw [if_pos hb] at hi ⊢
      obtain rfl := Option.some.inj hi
      rw [Option.some.inj ha]
    · rw [if_neg hb] at hi ⊢
      obtain ⟨j, hj, rfl⟩ := Option.map_eq_some_iff.mp hi
      exact findSome?_of_findIdx? hg hj ha

section
variable {s : State} {x : Pending} {c : Core} {sh : Shard} {f : Access} {i : Nat} (hengine : x.engine = false) (hc : s.core? x.core = some c)
  (hsh : c.shard = some sh) (hi : (c.strm x.strm).flight.findIdx? (Access.sentAs x) = some i) (hf : (c.strm x.strm).flight[i]? = some f)
include hengine hc hi hf

/-- The bytes that a load waits for are its own. -/
theorem State.replyBytes_load (hload : f.kind = .load) : s.replyBytes x = some f.size := by
  have h := findSome?_of_findIdx? (g := fun f => match f.target with
      | .peer p _ => if p = x.port ∧ f.tag = x.tag then some (if f.kind = .store then 0 else f.size) else none
      | _ => none) (h := fun f => if f.kind = .store then 0 else f.size) (fun f => by
    unfold Access.sentAs
    cases f.target <;> simp [and_comm]) hi hf
  rw [hload] at h
  unfold State.replyBytes
  rw [hc]
  simp only [hengine]
  exact h

variable (htyp : x.typ = 2)
include hsh htyp

/-- The answer to a load or atomic goes to its access. -/
theorem State.answered_access (r : Reply) : s.answered x r = State.replyAccess { s with outstanding := s.outstanding.filter fun y => y ≠ x } x.core sh x.strm i f r := by
  have hc' : State.core? { s with outstanding := s.outstanding.filter fun y => y ≠ x } x.core = some c := hc
  unfold State.answered
  dsimp only
  rw [if_neg (by rw [htyp]; decide), if_neg (by rw [htyp]; decide), if_neg (by rw [hengine]; decide), hc']
  dsimp only
  rw [hsh]
  split
  next sh' j hsh' hj =>
    obtain rfl := Option.some.inj (hj.symm.trans hi)
    obtain rfl := Option.some.inj hsh'
    rw [hf]
  next hno => exact absurd hi (hno _ _ rfl)

end

/-! ### What an answer does to a load -/

/-- A state as another left it, but for a region closed, and what an access was charged. -/
def State.OnlyCloses (s t : State) : Prop := t = { s with ports := t.ports, regions := t.regions, order := t.order }

/-- A synchronising access closes its region, and what it moved is charged: the rest of the device is as it was. -/
theorem State.closed_frame (s : State) (n : Nat) (f : Access) (opened : Bool) :
    ∃ t, s.OnlyCloses t ∧ (if f.ord = 0 then s.chargeAccess n f opened else (s.chargeAccess n f opened).closeRegion f.region) = t := by
  refine ⟨_, ?_, rfl⟩
  split
  all_goals
    rw [(s.chargeAccess_onlyPorts n f opened).eq]
    rfl

/-- A core as its data cache may hold the line that an access brings. -/
theorem Core.cacheFill_eq (c : Core) (t : Target) (line : List Byte) (choice : Nat) : c.cacheFill t line choice = { c with dcache := (c.cacheFill t line choice).dcache } := by
  cases t <;> rfl

theorem Core.cacheDrop_eq (c : Core) (t : Target) : c.cacheDrop t = { c with dcache := (c.cacheDrop t).dcache } := by
  cases t <;> rfl

/-- The value of a load goes to its register. -/
theorem State.core?_returned {s : State} {n : Nat} {f : Access} {c : Core} (hc : s.core? n = some c) (v : Word) (line : List Byte) :
    ∃ d, (s.returned n f v line).core? n = some d ∧ d.cs = c.cs ∧ d.sregs = (c.settleReg f.rd v).sregs ∧ d.pending = removeNat c.pending f.rd := by
  rw [State.returned, State.core?_updCore, hc]
  refine ⟨_, rfl, ?_⟩
  dsimp only
  split
  · exact ⟨rfl, rfl, rfl⟩
  · split
    · rw [Core.cacheDrop_eq]; exact ⟨rfl, rfl, rfl⟩
    · split
      · rw [Core.cacheFill_eq]; exact ⟨rfl, rfl, rfl⟩
      · exact ⟨rfl, rfl, rfl⟩

section
variable {s : State} {n : Nat} {sh : Shard} {f : Access} {i : Nat} (hload : f.kind = .load)
include hload

/-- A load that is refused has failed. -/
theorem State.replyAccess_nak (σ : Strm) : ∃ t, s.OnlyCloses t
    ∧ s.replyAccess n sh σ i f .nak = t.updCore n fun c => c.updStrm σ fun t => { t with flight := t.flight.set i { f with failed := true } } := by
  obtain ⟨t, ht, he⟩ := s.closed_frame n f false
  refine ⟨t, ht, ?_⟩
  unfold State.replyAccess
  dsimp only
  rw [he, if_neg (by rw [hload]; decide)]

/-- The bytes of a load of the A-stream go to its beat. -/
theorem State.replyAccess_beat (bs : List Byte) : ∃ t, s.OnlyCloses t
    ∧ s.replyAccess n sh .a i f (.data bs) = t.arriveA n i { f with value := some 0, data := BitVec.ofNat 512 (ofBytes bs) } := by
  obtain ⟨t, ht, he⟩ := s.closed_frame n f false
  refine ⟨t, ht, ?_⟩
  unfold State.replyAccess
  dsimp only
  rw [he, if_neg (by rw [hload]; decide), if_pos rfl]

/-- The bytes of a load of the C-stream go to its register, and the access is no longer in flight. -/
theorem State.replyAccess_word {c : Core} (hc : s.core? n = some c) (bs : List Byte) : ∃ (t u : State) (d : Core), s.OnlyCloses t
    ∧ s.replyAccess n sh .c i f (.data bs) = u ∧ u = { t with cores := u.cores } ∧ u.core? n = some d ∧ d.cs.flight = c.cs.flight.eraseIdx i
    ∧ d.sregs = (c.settleReg f.rd (extend f.signed f.size (ofBytes bs))).sregs ∧ d.pending = removeNat c.pending f.rd := by
  obtain ⟨t, ht, he⟩ := s.closed_frame n f false
  have hland : (t.land n .c i).core? n = some (c.updStrm .c fun t => { t with flight := t.flight.eraseIdx i }) := by
    rw [State.land, State.core?_updCore, ht]
    exact congrArg (Option.map _) hc
  obtain ⟨d, hd, hcs, hregs, hpending⟩ := State.core?_returned (f := f) hland (extend f.signed f.size (ofBytes bs)) []
  refine ⟨t, _, d, ht, ?_, rfl, hd, by rw [hcs]; rfl, hregs, hpending⟩
  unfold State.replyAccess
  dsimp only
  rw [he, if_neg (by rw [hload]; decide), if_neg (by decide)]

end

/-! ### BILOT_REPLY and BILOT_REPLY_TIMEOUT -/

section
variable {s : State} {x : Pending} (hup : s.bilotDown.contains s.args.idx = false) (hlen : s.args.bytes.length = (Head.of s.args.hdr).len)
  (hx : s.outstanding.find? (fun y => y.port == s.args.idx && y.tag == (Head.of s.args.hdr).tag) = some x) (htyp : x.typ = 2)
include hup hlen hx

/-- An answer that fits the message it names reaches it. -/
theorem exec_bilotReply_of {r : Reply} (htyp : x.typ = 2) (hhub : s.hubOk (dieOf x.core) = true) (hr : s.replyFor x (Head.of s.args.hdr) s.args.bytes = some r) :
    exec .bilotReply s = .next (s.answered x r) := by
  have hgo : ¬ (s.bilotDown.contains s.args.idx = true ∨ s.args.bytes.length ≠ (Head.of s.args.hdr).len) := by simp only [hup, hlen]; simp
  have hdie : s.senderDie x = dieOf x.core := if_neg (by rw [htyp]; decide)
  rw [exec_bilotReply, execBilotReply]
  rw [if_neg hgo, hx]
  dsimp only
  rw [hr]
  dsimp only
  rw [hdie, if_pos hhub]

/-- An answer that does not fit the message it names is no answer. -/
theorem exec_bilotReply_unfit (hr : s.replyFor x (Head.of s.args.hdr) s.args.bytes = none) : exec .bilotReply s = .refused .notEnabled := by
  have hgo : ¬ (s.bilotDown.contains s.args.idx = true ∨ s.args.bytes.length ≠ (Head.of s.args.hdr).len) := by simp only [hup, hlen]; simp
  rw [exec_bilotReply, execBilotReply]
  rw [if_neg hgo, hx]
  dsimp only
  rw [hr]

end

/-- What answers a LOAD: a NAK, or as many bytes as it asked for. -/
theorem State.replyFor_load {s : State} {x : Pending} (htyp : x.typ = 2) (h : Head) (bs : List Byte) :
    s.replyFor x h bs = if h.typ = 0x82 then some .nak else if h.typ = 0x83 ∧ (s.replyBytes x).all (· == bs.length) = true then some (.data bs) else none := by
  unfold State.replyFor
  rw [if_neg (show ¬ x.typ = 5 by rw [htyp]; decide), if_pos (show x.typ = 2 ∨ x.typ = 3 from .inl htyp)]

/-- A message that has had no answer for 10 ms, or went out on a port that is down, is answered as with a NAK. -/
theorem exec_bilotReplyTimeout_eq {s : State} {x : Pending} (hx : s.outstanding[s.args.idx]? = some x) :
    exec .bilotReplyTimeout s = if s.now < x.since + 15000000 ∧ ¬ s.bilotDown.contains x.port = true then .refused .notEnabled else .next (s.answered x .nak) := by
  rw [exec_bilotReplyTimeout, execBilotReplyTimeout, hx]

end Sys2Proof.Machine
end

section
/-! What the answer to a message leaves of the device's other traffic, and a port that goes down (R349, R414). -/

namespace Sys2Proof.Machine

open Sys2Proof.Claim

/-- A state with the error bus, the messages not yet answered and the ports that are down of another. -/
structure State.KeepsTraffic (s u : State) : Prop where
  bus : u.bus = s.bus
  outstanding : u.outstanding = s.outstanding
  down : u.bilotDown = s.bilotDown

namespace State.KeepsTraffic

theorem refl (s : State) : s.KeepsTraffic s := ⟨rfl, rfl, rfl⟩

theorem trans {s t u : State} (h : s.KeepsTraffic t) (h' : t.KeepsTraffic u) : s.KeepsTraffic u :=
  ⟨h'.bus.trans h.bus, h'.outstanding.trans h.outstanding, h'.down.trans h.down⟩

theorem foldl {α : Type} {f : State → α → State} (hf : ∀ (s : State) a, s.KeepsTraffic (f s a)) (l : List α) (s : State) : s.KeepsTraffic (l.foldl f s) := by
  induction l generalizing s with
  | nil => exact refl s
  | cons a l ih => exact (hf s a).trans (ih _)

theorem ite {p : Prop} [Decidable p] {s u v : State} (hu : s.KeepsTraffic u) (hv : s.KeepsTraffic v) : s.KeepsTraffic (if p then u else v) := by
  split
  · exact hu
  · exact hv

end State.KeepsTraffic

theorem State.OnlyPorts.keepsTraffic {s u : State} (h : s.OnlyPorts u) : s.KeepsTraffic u := by
  rw [h.eq]; exact ⟨rfl, rfl, rfl⟩

theorem State.OnlyBytes.keepsTraffic {s u : State} (h : s.OnlyBytes u) : s.KeepsTraffic u := by
  rw [h]; exact ⟨rfl, rfl, rfl⟩

theorem State.updCore_keepsTraffic (s : State) (n : Nat) (f : Core → Core) : s.KeepsTraffic (s.updCore n f) := ⟨rfl, rfl, rfl⟩

theorem State.setCore_keepsTraffic (s : State) (n : Nat) (c : Core) : s.KeepsTraffic (s.setCore n c) := ⟨rfl, rfl, rfl⟩

theorem State.setGroup_keepsTraffic (s : State) (k : Nat) (g : Group) : s.KeepsTraffic (s.setGroup k g) := ⟨rfl, rfl, rfl⟩

theorem State.closeRegion_keepsTraffic (s : State) (r : Nat) : s.KeepsTraffic (s.closeRegion r) := ⟨rfl, rfl, rfl⟩

/-! ### Accesses -/

theorem State.postFault_keepsTraffic (s : State) (ctx : Nat) (f : FaultRec) : s.KeepsTraffic (s.postFault ctx f).1 := by
  unfold State.postFault
  split
  · exact .refl s
  · split
    · exact .refl s
    · dsimp only
      split
      · exact .refl s
      · exact ((s.writeTarget_onlyBytes _ _).trans (State.writeTarget_onlyBytes _ _ _)).keepsTraffic.trans ⟨rfl, rfl, rfl⟩

theorem State.syncPoint_keepsTraffic (s : State) (n : Nat) : s.KeepsTraffic (s.syncPoint n) := by
  unfold State.syncPoint
  split
  · exact .refl s
  · exact ⟨rfl, rfl, rfl⟩

theorem State.drainA_keepsTraffic (s : State) (n : Nat) : s.KeepsTraffic (s.drainA n) := by
  unfold State.drainA
  split
  · exact .refl s
  · split
    · exact .refl s
    · exact .ite (.refl s) (.ite ((s.setCore_keepsTraffic n _).trans (State.syncPoint_keepsTraffic _ n)) (s.setCore_keepsTraffic n _))

theorem State.afterStore_keepsTraffic (s : State) (n : Nat) (σ : Strm) (f : Access) : s.KeepsTraffic (s.afterStore n σ f) :=
  .ite ((s.updCore_keepsTraffic n _).trans (State.drainA_keepsTraffic _ n)) (s.updCore_keepsTraffic n _)

theorem State.replyAccess_keepsTraffic (s : State) (n : Nat) (sh : Shard) (σ : Strm) (i : Nat) (f : Access) (r : Reply) : s.KeepsTraffic (s.replyAccess n sh σ i f r) := by
  obtain ⟨t, ht, he⟩ := s.closed_frame n f false
  have hst : s.KeepsTraffic t := by rw [ht]; exact ⟨rfl, rfl, rfl⟩
  unfold State.replyAccess
  dsimp only
  rw [he]
  refine hst.trans ?_
  cases r with
  | data bs => exact .ite ((t.updCore_keepsTraffic n _).trans (State.afterStore_keepsTraffic _ n σ f)) (.ite ((t.updCore_keepsTraffic n _).trans (State.drainA_keepsTraffic _ n)) ⟨rfl, rfl, rfl⟩)
  | word w => exact .ite (((t.postFault_keepsTraffic _ _).trans (State.updCore_keepsTraffic _ n _)).trans (State.afterStore_keepsTraffic _ n σ f)) (t.updCore_keepsTraffic n _)
  | nak => exact .ite (((t.postFault_keepsTraffic _ _).trans (State.updCore_keepsTraffic _ n _)).trans (State.afterStore_keepsTraffic _ n σ f)) (t.updCore_keepsTraffic n _)

/-! ### Groups -/

theorem State.deliverWord_keepsTraffic (s : State) (x : Contribution) (w : Word) : s.KeepsTraffic (s.deliverWord x w) := by
  unfold State.deliverWord
  split
  · exact .ite ⟨rfl, rfl, rfl⟩ (.refl s)
  · exact ⟨rfl, rfl, rfl⟩
  · exact .refl s

theorem State.replyContribution_keepsTraffic (s : State) (x : Pending) (r : Reply) : s.KeepsTraffic (s.replyContribution x r) := by
  unfold State.replyContribution
  split
  · exact .refl s
  · split
    · exact .refl s
    · dsimp only
      exact State.KeepsTraffic.trans (t := s.takeContribution _ _) ⟨rfl, rfl, rfl⟩ (State.deliverWord_keepsTraffic _ _ _)

theorem State.mirrorGroup_keepsTraffic (s : State) (k : Nat) : s.KeepsTraffic (s.mirrorGroup k) := by
  unfold State.mirrorGroup
  cases Map.look s.groups k with
  | none => exact .refl s
  | some g => exact .ite (s.chargeBytes_onlyPorts _ _ _ _).keepsTraffic (.refl s)

theorem State.evaluate_keepsTraffic (k : Nat) (lost : Bool) : ∀ (fuel : Nat) (s : State), s.KeepsTraffic (s.evaluate k lost fuel)
  | 0, s => .refl s
  | fuel + 1, s => by
    unfold State.evaluate
    split
    · exact .refl s
    · dsimp only
      refine .ite (.refl s) (.trans ?_ (State.evaluate_keepsTraffic k lost fuel _))
      exact .trans (t := (s.setGroup k _).latchGroup _) ⟨rfl, rfl, rfl⟩ (State.mirrorGroup_keepsTraffic _ k)

theorem State.loseMember_keepsTraffic (s : State) (k m : Nat) : s.KeepsTraffic (s.loseMember k m) := by
  unfold State.loseMember
  split
  · exact .refl s
  · exact .ite (s.setGroup_keepsTraffic k _) ((s.setGroup_keepsTraffic k _).trans (State.evaluate_keepsTraffic k true 17 _))

theorem State.loseMembers_keepsTraffic (s : State) (p : Member → Bool) : s.KeepsTraffic (s.loseMembers p) :=
  .foldl (f := fun s (e : Nat × Nat) => s.loseMember e.1 e.2) (fun s e => s.loseMember_keepsTraffic e.1 e.2) _ s

/-! ### Answers -/

/-- What has been answered is no longer outstanding; the bus and the ports are as before. -/
theorem State.answered_keepsTraffic (s : State) (x : Pending) (r : Reply) : State.KeepsTraffic { s with outstanding := s.outstanding.filter fun y => y ≠ x } (s.answered x r) := by
  unfold State.answered
  refine .ite (State.replyContribution_keepsTraffic _ x r) (.ite (.refl _) (.ite ⟨rfl, rfl, rfl⟩ ?_))
  split
  · exact .refl _
  · split
    · split
      · exact State.replyAccess_keepsTraffic _ _ _ _ _ _ _
      · exact .refl _
    · exact .refl _

/-- The messages of a list are answered one after another. -/
theorem State.answered_foldl (l : List Pending) (r : Reply) : ∀ s : State,
    State.KeepsTraffic { s with outstanding := s.outstanding.filter fun y => y ∉ l } (l.foldl (fun s x => s.answered x r) s) := by
  induction l with
  | nil => exact fun s => ⟨rfl, by simp, rfl⟩
  | cons x l ih =>
    intro s
    have h := s.answered_keepsTraffic x r
    have h' := ih (s.answered x r)
    refine ⟨h'.bus.trans h.bus, h'.outstanding.trans ?_, h'.down.trans h.down⟩
    dsimp only
    rw [h.outstanding, List.filter_filter]
    refine List.filter_congr fun y _ => ?_
    simp [Bool.and_comm]

theorem State.countError_keepsTraffic (s : State) (die unit inst cls outcome : Nat) : s.KeepsTraffic (s.countError die unit inst cls outcome) :=
  .ite (.refl s) ⟨rfl, rfl, rfl⟩

/-- A lasting error has its record on the bus (R375). -/
theorem State.postError_posts (s : State) (cls die unit inst ctx : Nat) (loc item : Word) :
    ∃ r ∈ (s.postError 2 cls die unit inst ctx loc item).bus, r.sev = 2 ∧ r.cls = BitVec.ofNat 8 cls ∧ r.unit = BitVec.ofNat 8 unit :=
  ⟨_, List.mem_append_right s.bus (List.mem_singleton_self _), rfl, rfl, rfl⟩

/-- A port that goes down leaves none of its messages outstanding, and a lasting error of class 7 on the bus. -/
theorem exec_bilotPortDown_spec {s : State} (hp : s.args.idx < 8) :
    (s.bilotDown.contains s.args.idx = true → exec .bilotPortDown s = .refused .notEnabled)
    ∧ (s.bilotDown.contains s.args.idx = false → ∃ u r, exec .bilotPortDown s = .next u ∧ s.args.idx ∈ u.bilotDown ∧ (∀ y ∈ u.outstanding, y.port ≠ s.args.idx)
        ∧ r ∈ u.bus ∧ r.sev = 2 ∧ r.cls = 7 ∧ r.unit = 8) := by
  rw [exec_bilotPortDown, execBilotPortDown]
  refine ⟨fun hdown => if_pos (.inr hdown), fun hup => ?_⟩
  have hgo : ¬ (8 ≤ s.args.idx ∨ s.bilotDown.contains s.args.idx = true) := by simp only [hup]; simp; omega
  dsimp only
  rw [if_neg hgo]
  generalize hd : State.countError _ _ _ _ _ _ = d
  obtain ⟨hbus, hout, hdown⟩ := (State.answered_foldl ((d.postError 2 7 8 8 s.args.idx 255 0 0).outstanding.filter fun x => x.port == s.args.idx) .nak (d.postError 2 7 8 8 s.args.idx 255 0 0)).trans
    (State.loseMembers_keepsTraffic _ fun m => m.port == some s.args.idx)
  obtain ⟨r, hr, hfields⟩ := d.postError_posts 7 8 8 s.args.idx 255 0 0
  refine ⟨_, r, rfl, ?_, fun y hy => ?_, ?_, hfields⟩
  · have hkeep : d.bilotDown = insertNat s.bilotDown s.args.idx := by
      rw [← hd]; exact (State.countError_keepsTraffic _ _ _ _ _ _).down
    rw [hdown]
    exact hkeep ▸ mem_insertNat _ _
  · rw [hout] at hy
    intro hport
    simp [hport] at hy
  · rw [hbus]
    exact hr

/-- Answers reach the loads that wait for them, and a port that goes down answers for all it cannot reach. -/
theorem peerReplies : PeerReplies := by
  refine ⟨fun s x c sh f i htyp hengine hc hsh hi hf hload => ?_, fun s hp => exec_bilotPortDown_spec hp⟩
  replace hi : (c.strm x.strm).flight.findIdx? (Access.sentAs x) = some i := hi
  intro rest base fails word
  have hanswered (r : Reply) := State.answered_access hengine hc hsh hi hf htyp r
  have hfails : ∃ u, s.answered x .nak = u ∧ u = (base u).updCore x.core fun c => c.updStrm x.strm fun t => { t with flight := t.flight.set i { f with failed := true } } := by
    obtain ⟨t, ht, he⟩ := State.replyAccess_nak (s := { s with outstanding := rest }) (n := x.core) (sh := sh) (i := i) hload x.strm
    exact ⟨_, (hanswered .nak).trans he, by rw [ht]; rfl⟩
  obtain ⟨u, hu, hnak⟩ := hfails
  constructor
  · rintro h rfl hup hlen hx hhub
    refine ⟨fun h82 => ⟨u, ?_, hnak⟩, fun h83 hsize => ?_, fun hother => ?_⟩
    · rw [exec_bilotReply_of hup hlen hx htyp hhub (by rw [State.replyFor_load htyp, if_pos h82]), hu]
    · have hr : s.replyFor x (Head.of s.args.hdr) s.args.bytes = some (.data s.args.bytes) := by
        rw [State.replyFor_load htyp, if_neg (by rw [h83]; decide), if_pos ⟨h83, by simp [State.replyBytes_load hengine hc hi hf hload, hsize]⟩]
      have hexec := (exec_bilotReply_of hup hlen hx htyp hhub hr).trans (congrArg Host.Outcome.next (hanswered _))
      refine ⟨fun hσ => ?_, fun hσ => ?_⟩ <;> rw [hσ] at hexec
      · obtain ⟨t, ht, he⟩ := State.replyAccess_beat (s := { s with outstanding := rest }) (n := x.core) (sh := sh) (i := i) hload s.args.bytes
        exact ⟨t, by rw [hexec, he], ht⟩
      · obtain ⟨t, u, d, ht, he, hu, hd, hrest⟩ := State.replyAccess_word (s := { s with outstanding := rest }) (sh := sh) (i := i) hload hc s.args.bytes
        exact ⟨u, d, by rw [hexec, he], by rw [hu, ht], hd, hrest⟩
    · refine exec_bilotReply_unfit hup hlen hx ?_
      rw [State.replyFor_load htyp, if_neg (by omega), if_neg (by omega)]
  · intro hx
    refine ⟨fun hlate => ⟨u, ?_, hnak⟩, fun hsoon hport => ?_⟩
    · rw [exec_bilotReplyTimeout_eq hx, if_neg (by rintro ⟨h1, h2⟩; exact hlate.elim (by omega) h2), hu]
    · rw [exec_bilotReplyTimeout_eq hx, if_pos ⟨hsoon, by rw [hport]; decide⟩]

/-- Settles O59: messages from peers by their types, and what answers bring to the device's own. -/
theorem peers : Obligations.Peers := ⟨peerMessages, peerReplies⟩

end Sys2Proof.Machine
end

section
/-! What a shard that ends, stops or waits again leaves of its core and its task (R38, R42, R301): a rule for each step of its leaving. -/

namespace Sys2Proof.Machine

/-! ### Reserves of the stores (R287) -/

/-- A core whose shard holds a number of reserve entries. -/
def Core.withReserve (r : Nat) (c : Core) : Core := { c with shard := c.shard.map fun h => { h with reserve := r } }

theorem Core.withReserve_of_free {c : Core} (h : c.shard = none) (r : Nat) : c.withReserve r = c := by
  cases c
  simp only at h
  subst h
  rfl

theorem Core.withReserve_self {c : Core} {h : Shard} (hc : c.shard = some h) : c.withReserve h.reserve = c := by
  cases c
  simp only at hc
  subst hc
  rfl

/-- A state as another left it, but for the reserve entries that its shards hold. -/
structure State.OnlyReserves (s u : State) : Prop where
  eq : u = { s with cores := u.cores }
  cores : ∀ m, ∃ r, u.core? m = (s.core? m).map (Core.withReserve r)

namespace State.OnlyReserves

theorem refl (s : State) : s.OnlyReserves s := by
  refine ⟨rfl, fun m => ?_⟩
  cases hm : s.core? m with
  | none => exact ⟨0, rfl⟩
  | some c => cases hc : c.shard with
    | none => exact ⟨0, (congrArg some (Core.withReserve_of_free hc 0)).symm⟩
    | some h => exact ⟨h.reserve, (congrArg some (Core.withReserve_self hc)).symm⟩

theorem trans {s t u : State} (h : s.OnlyReserves t) (h' : t.OnlyReserves u) : s.OnlyReserves u := by
  refine ⟨by rw [h'.eq, h.eq], fun m => ?_⟩
  obtain ⟨r, hr⟩ := h.cores m
  obtain ⟨r', hr'⟩ := h'.cores m
  refine ⟨r', ?_⟩
  rw [hr', hr, Option.map_map]
  congr 1
  funext c
  simp [Core.withReserve, Function.comp_def]

theorem foldl {α : Type} {f : State → α → State} (hf : ∀ (s : State) a, s.OnlyReserves (f s a)) (l : List α) (s : State) : s.OnlyReserves (l.foldl f s) := by
  induction l generalizing s with
  | nil => exact refl s
  | cons a l ih => exact (hf s a).trans (ih _)

/-- A core without a shard stays without one. -/
theorem core?_of_free {s u : State} (h : s.OnlyReserves u) {m : Nat} {c : Core} (hc : s.core? m = some c) (hfree : c.shard = none) : u.core? m = some c := by
  obtain ⟨r, hr⟩ := h.cores m
  rw [hr, hc]
  exact congrArg some (Core.withReserve_of_free hfree r)

end State.OnlyReserves

theorem State.refill_onlyReserves (s : State) (die : Nat) : s.OnlyReserves (s.refill die) := by
  refine .foldl (fun s n => ?_) _ s
  split
  next h hh =>
    refine ⟨rfl, fun m => ?_⟩
    obtain ⟨c, hc, hsh⟩ := Option.bind_eq_some_iff.mp hh
    by_cases hm : m = n
    · subst hm
      refine ⟨min 2 (h.reserve + (s.freeEntries die - (s.claimants die).length)), ?_⟩
      rw [State.core?_updCore, hc]
      simp [Core.withReserve, hsh]
    · rw [State.core?_updCore_ne _ _ hm]
      exact (State.OnlyReserves.refl s).cores m
  next => exact .refl s

/-! ### Held rows (R325) -/

/-- A state as another left it, but for rows that are let go, and the bytes and records of versions that nothing reads any longer. -/
structure State.OnlyHolds (s u : State) : Prop where
  eq : u = { s with ports := u.ports, almanac := u.almanac, versions := u.versions, cores := u.cores }
  cores : ∀ m, ∃ hs, u.core? m = (s.core? m).map fun c => { c with holds := hs }

namespace State.OnlyHolds

theorem of_cores {s u : State} (h : u = { s with ports := u.ports, almanac := u.almanac, versions := u.versions }) : s.OnlyHolds u := by
  refine ⟨by rw [h], fun m => ?_⟩
  have hcore : u.core? m = s.core? m := by rw [h]; rfl
  cases hm : s.core? m with
  | none => exact ⟨[], hcore.trans hm⟩
  | some c => exact ⟨c.holds, hcore.trans hm⟩

theorem refl (s : State) : s.OnlyHolds s := of_cores rfl

theorem trans {s t u : State} (h : s.OnlyHolds t) (h' : t.OnlyHolds u) : s.OnlyHolds u := by
  refine ⟨by rw [h'.eq, h.eq], fun m => ?_⟩
  obtain ⟨hs, e⟩ := h.cores m
  obtain ⟨hs', e'⟩ := h'.cores m
  exact ⟨hs', by rw [e', e, Option.map_map]; rfl⟩

theorem foldl {α : Type} {f : State → α → State} (hf : ∀ (s : State) a, s.OnlyHolds (f s a)) (l : List α) (s : State) : s.OnlyHolds (l.foldl f s) := by
  induction l generalizing s with
  | nil => exact refl s
  | cons a l ih => exact (hf s a).trans (ih _)

theorem ite {p : Prop} [Decidable p] {s u v : State} (hu : s.OnlyHolds u) (hv : s.OnlyHolds v) : s.OnlyHolds (if p then u else v) := by
  split
  · exact hu
  · exact hv

theorem core? {s u : State} (h : s.OnlyHolds u) {m : Nat} {c : Core} (hc : s.core? m = some c) : ∃ hs, u.core? m = some { c with holds := hs } := by
  obtain ⟨hs, e⟩ := h.cores m
  exact ⟨hs, by rw [e, hc]; rfl⟩

theorem tasks {s u : State} (h : s.OnlyHolds u) : u.tasks = s.tasks := by rw [h.eq]

end State.OnlyHolds

theorem State.freeBytes_onlyHolds (s : State) (key d k : Nat) : s.OnlyHolds (s.freeBytes key d k) := by
  unfold State.freeBytes
  split
  · exact .of_cores rfl
  · refine .of_cores ?_
    rw [State.updRecord, (State.chargeRecord_onlyPorts _ d k).eq]
    rfl

theorem State.freeWaiting_onlyHolds (s : State) : s.OnlyHolds s.freeWaiting := by
  refine .foldl (fun s e => ?_) _ s
  split
  · split
    · exact s.freeBytes_onlyHolds _ _ _
    · exact .refl s
  · exact .refl s

theorem State.countActivation_onlyHolds (s : State) (place : Nat) : s.OnlyHolds (s.countActivation place) := .of_cores rfl

theorem State.setHold_onlyHolds (s : State) (n h : Nat) (x : Hold) : s.OnlyHolds (s.updCore n fun c => c.setHold h x) := by
  refine ⟨rfl, fun m => ?_⟩
  by_cases hm : m = n
  · subst hm
    rw [State.core?_updCore]
    cases s.core? m with
    | none => exact ⟨[], rfl⟩
    | some c => exact ⟨_, rfl⟩
  · rw [State.core?_updCore_ne _ _ hm]
    exact (State.OnlyHolds.refl s).cores m

theorem State.closeHold_onlyHolds (s : State) (n h : Nat) (st : HoldState) (cause : BitVec 4) : s.OnlyHolds (s.closeHold n h st cause) := by
  unfold State.closeHold
  split
  · exact .refl s
  next c hc =>
    refine .trans ?_ (State.freeWaiting_onlyHolds _)
    exact (s.setHold_onlyHolds n h _).trans (.ite (State.countActivation_onlyHolds _ _) (.refl _))

theorem State.freeHolds_onlyHolds (s : State) (n : Nat) : s.OnlyHolds (s.freeHolds n) := by
  unfold State.freeHolds
  split
  · exact .refl s
  · exact .foldl (fun s h => s.closeHold_onlyHolds n h _ _) _ s

/-! ### Leaving a core (R42, R301) -/

/-- A state as another left it, but for what the shard of a core leaves: which shards run changes on that core alone. -/
structure State.OnlyLeaves (n : Nat) (s u : State) : Prop where
  eq : u = { s with cores := u.cores, strays := u.strays, arrays := u.arrays, retries := u.retries, counters := u.counters, bus := u.bus, ports := u.ports }
  others : ∀ m, m ≠ n → (u.core? m).map Core.shard = (s.core? m).map Core.shard
  here : (u.core? n).isSome = (s.core? n).isSome

theorem State.dropRetries_frame (s : State) (n : Nat) : s.dropRetries n = { s with retries := (s.dropRetries n).retries, counters := (s.dropRetries n).counters, bus := (s.dropRetries n).bus } := by
  have step (s : State) (r : ErrRec) (die unit inst cls : Nat) : ∃ c b, (s.countError die unit inst cls 1).postRetried r 1 = { s with counters := c, bus := b } := by
    unfold State.countError
    split
    · exact ⟨s.counters, _, rfl⟩
    · exact ⟨_, _, rfl⟩
  have steps (l : List ErrRec) : ∀ s : State, ∃ c b, l.foldl (fun s r => (s.countError r.die.toNat r.unit.toNat r.inst.toNat r.cls.toNat 1).postRetried r 1) s = { s with counters := c, bus := b } := by
    induction l with
    | nil => exact fun s => ⟨_, _, rfl⟩
    | cons r l ih =>
      intro s
      obtain ⟨c, b, h⟩ := step s r r.die.toNat r.unit.toNat r.inst.toNat r.cls.toNat
      obtain ⟨c', b', h'⟩ := ih { s with counters := c, bus := b }
      exact ⟨c', b', by rw [List.foldl_cons, h, h']⟩
  obtain ⟨c, b, h⟩ := steps (s.retries.filter fun r => r.owner.any fun o => o.1 == n) { s with retries := s.retries.filter fun r => !(r.owner.any fun o => o.1 == n) }
  rw [State.dropRetries, h]

theorem State.stray_frame (s : State) (n : Nat) : ∃ l, s.stray n = { s with strays := l } := by
  unfold State.stray
  split
  · exact ⟨_, rfl⟩
  next c _ => cases c.shard with
    | none => exact ⟨_, rfl⟩
    | some sh => exact ⟨_, rfl⟩

theorem State.core?_orphan (s : State) (n m : Nat) : ((s.orphan n).core? m).map Core.shard = (s.core? m).map Core.shard := by
  unfold State.orphan State.core?
  dsimp only
  split
  · rw [Map.look_each, Option.map_map]
    rfl
  · rfl

/-- What is on its way to or from a core, its lease and its retries go with its shard; which shards run is as before. -/
theorem State.unlink_frame (s : State) (n : Nat) : ∃ t, (((s.stray n).orphan n).dropLease n).dropRetries n = t
    ∧ t = { s with cores := t.cores, strays := t.strays, arrays := t.arrays, retries := t.retries, counters := t.counters, bus := t.bus }
    ∧ ∀ m, (t.core? m).map Core.shard = (s.core? m).map Core.shard := by
  obtain ⟨l, hl⟩ := s.stray_frame n
  have horphan (m : Nat) := State.core?_orphan { s with strays := l } n m
  refine ⟨_, rfl, ?_, fun m => ?_⟩
  · rw [State.dropRetries_frame, hl]
    rfl
  · rw [State.dropRetries_frame, hl]
    exact horphan m

theorem State.countActivations_frame (ps : List Nat) : ∀ s : State, ∃ p, ps.foldl (fun s p => if s.holders p = [] then s.countActivation p else s) s = { s with ports := p } := by
  induction ps with
  | nil => exact fun s => ⟨s.ports, rfl⟩
  | cons p ps ih =>
    intro s
    rw [List.foldl_cons]
    split
    · obtain ⟨q, hq⟩ := ih (s.countActivation p)
      exact ⟨q, hq.trans rfl⟩
    · exact ih s

/-- A shard that leaves its core leaves it empty. -/
theorem State.vacate_of_core {s : State} {n : Nat} {c : Core} (hc : s.core? n = some c) : s.OnlyLeaves n (s.vacate n) ∧ ∃ d, (s.vacate n).core? n = some d ∧ d.shard = none := by
  obtain ⟨t, ht, hframe, hshards⟩ := s.unlink_frame n
  obtain ⟨p, hp⟩ := State.countActivations_frame ((c.holds.filter fun h => h.2.open).map fun h => h.2.place.toNat).eraseDups (t.updCore n Core.vacated)
  have hvacate : s.vacate n = { t.updCore n Core.vacated with ports := p } := by
    unfold State.vacate
    rw [hc, ht]
    exact hp
  have hn : ∃ d, t.core? n = some d := by
    have := hshards n
    rw [hc] at this
    exact (Option.map_eq_some_iff.mp this).imp fun _ h => h.1
  obtain ⟨d, hd⟩ := hn
  have hhere : (s.vacate n).core? n = some d.vacated := by
    rw [hvacate]
    exact (t.core?_updCore n _).trans (by rw [hd]; rfl)
  refine ⟨⟨by rw [hvacate, hframe]; rfl, fun m hm => ?_, by rw [hhere, hc]; rfl⟩, _, hhere, rfl⟩
  rw [hvacate, ← hshards m]
  exact congrArg (Option.map Core.shard) (t.core?_updCore_ne _ hm)

theorem State.vacate_onlyLeaves (s : State) (n : Nat) : s.OnlyLeaves n (s.vacate n) := by
  cases hc : s.core? n with
  | some c => exact (State.vacate_of_core hc).1
  | none =>
    have h : s.vacate n = s := by unfold State.vacate; rw [hc]
    rw [h]
    exact ⟨rfl, fun _ _ => rfl, rfl⟩

end Sys2Proof.Machine
end

section
/-! How a shard starts on a core, and how it ends there (R22, R35, R38, R293, R423). -/

namespace Sys2Proof.Machine

open Sys2Proof.Claim

/-! ### Retiring (R38) -/

theorem State.syncPoint_tasks (s : State) (n : Nat) : (s.syncPoint n).tasks = s.tasks := by
  unfold State.syncPoint
  split <;> rfl

theorem State.core?_syncPoint (s : State) (n : Nat) {c : Core} (hc : s.core? n = some c) : ∃ d, (s.syncPoint n).core? n = some d := by
  unfold State.syncPoint
  split
  · exact ⟨c, hc⟩
  · exact ⟨_, (s.core?_updCore n _).trans (by rw [hc]; rfl)⟩

theorem State.passed_frame (s : State) (uid : Nat) : s.passed uid = { s with lostMarks := (s.passed uid).lostMarks } := by
  unfold State.passed
  split <;> rfl

/-- The task of a shard that has retired counts it, and takes what it knows; what the shard wrote unsealed and its bindings are gone. -/
def State.countRetired (s : State) (sh : Shard) : State :=
  let s := ((s.dropUnsealed sh.uid).unbind fun b => b == (sh.task, sh.num)).setShard sh.task sh.num .retired
  { s with tasks := Map.upd s.tasks sh.task fun t => { t with doneKnows := mergeKnows t.doneKnows sh.release } }

theorem State.retire_eq (s : State) (n : Nat) (sh : Shard) : s.retire n sh = (((((s.syncPoint n).passed sh.uid).freeHolds n).vacate n).countRetired sh).refill (dieOf n) := rfl

theorem State.countRetired_spec (s : State) (sh : Shard) {n : Nat} {t : Task} {e : Core} (ht : Map.look s.tasks sh.task = some t) (he : s.core? n = some e) :
    (s.countRetired sh).core? n = some e ∧ ∃ t', Map.look (s.countRetired sh).tasks sh.task = some t' ∧ t'.shards = t.shards.set sh.num .retired ∧ t'.failed = t.failed := by
  refine ⟨he, { t with shards := t.shards.set sh.num .retired, doneKnows := mergeKnows t.doneKnows sh.release }, ?_, rfl, rfl⟩
  simp [State.countRetired, State.setShard, State.unbind, State.dropUnsealed, ht]

/-- A shard that retires leaves its core empty, and its task counts it as retired. -/
theorem State.retire_spec {s : State} {n : Nat} {c : Core} {sh : Shard} {t : Task} (hc : s.core? n = some c) (ht : Map.look s.tasks sh.task = some t) :
    ∃ d t', (s.retire n sh).core? n = some d ∧ d.shard = none ∧ Map.look (s.retire n sh).tasks sh.task = some t' ∧ t'.shards = t.shards.set sh.num .retired ∧ t'.failed = t.failed := by
  obtain ⟨d, hd⟩ := s.core?_syncPoint n hc
  have hpassed : ((s.syncPoint n).passed sh.uid).core? n = some d := by rw [State.passed_frame]; exact hd
  have hholds := ((s.syncPoint n).passed sh.uid).freeHolds_onlyHolds n
  obtain ⟨hs, hfree⟩ := hholds.core? hpassed
  obtain ⟨hleaves, e, he, hempty⟩ := State.vacate_of_core hfree
  have htasks : ((((s.syncPoint n).passed sh.uid).freeHolds n).vacate n).tasks = s.tasks := by
    rw [hleaves.eq]
    refine hholds.tasks.trans ?_
    rw [State.passed_frame]
    exact s.syncPoint_tasks n
  rw [State.retire_eq]
  generalize (((s.syncPoint n).passed sh.uid).freeHolds n).vacate n = v at he htasks
  obtain ⟨hcore, t', ht', hshards, hfailed⟩ := v.countRetired_spec sh (htasks.symm ▸ ht) he
  have hreserves := (v.countRetired sh).refill_onlyReserves (dieOf n)
  exact ⟨e, t', hreserves.core?_of_free hcore hempty, hempty, by rw [hreserves.eq]; exact ht', hshards, hfailed⟩

/-! ### Stopping (R42, R423) -/

/-- A core without a shard. -/
def State.Emptied (s : State) (n : Nat) : Prop := ∃ d, s.core? n = some d ∧ d.shard = none

theorem State.Emptied.vacate {s : State} {n : Nat} (h : s.Emptied n) (m : Nat) : (s.vacate m).Emptied n := by
  obtain ⟨d, hd, hempty⟩ := h
  by_cases hm : n = m
  · subst hm; exact (State.vacate_of_core hd).2
  · have hsame := (s.vacate_onlyLeaves m).others n hm
    rw [hd] at hsame
    obtain ⟨e, he, heq⟩ := Option.map_eq_some_iff.mp hsame
    exact ⟨e, he, heq.trans hempty⟩

/-- The shard that an entry of the cores names leaves its core if it is of a task. -/
def State.stopEntry (task : Nat) (s : State) (e : Nat × Core) : State :=
  match e.2.shard with
  | some h => if h.task = task then ((s.vacate e.1).dropWatched h.uid).dropUnsealed h.uid else s
  | none => s

theorem State.core?_dropWatched (s : State) (uid m : Nat) : ((s.dropWatched uid).dropUnsealed uid).core? m = s.core? m := by
  unfold State.dropWatched
  rw [State.passed_frame]
  rfl

theorem State.Emptied.stopEntry {s : State} {n : Nat} (h : s.Emptied n) (task : Nat) (e : Nat × Core) : (s.stopEntry task e).Emptied n := by
  unfold State.stopEntry
  split
  · split
    · obtain ⟨d, hd, hempty⟩ := h.vacate e.1
      exact ⟨d, (State.core?_dropWatched _ _ n).trans hd, hempty⟩
    · exact h
  · exact h

theorem State.Emptied.stopEntries {n task : Nat} (l : List (Nat × Core)) : ∀ {s : State}, s.Emptied n → (l.foldl (State.stopEntry task) s).Emptied n := by
  induction l with
  | nil => exact id
  | cons e l ih => exact fun h => ih (h.stopEntry task e)

theorem State.stopEntry_here {s : State} {n task : Nat} {c d : Core} {h : Shard} (hc : s.core? n = some c) (hd : d.shard = some h) (htask : h.task = task) :
    (s.stopEntry task (n, d)).Emptied n := by
  obtain ⟨-, e, he, hempty⟩ := State.vacate_of_core hc
  refine ⟨e, ?_, hempty⟩
  simp only [State.stopEntry, hd, htask, if_true]
  exact (State.core?_dropWatched _ _ n).trans he

theorem State.core?_stopEntry {s : State} {n : Nat} {c : Core} (hc : s.core? n = some c) (task : Nat) (e : Nat × Core) : ∃ d, (s.stopEntry task e).core? n = some d := by
  unfold State.stopEntry
  split
  · split
    · rw [State.core?_dropWatched]
      by_cases hn : n = e.1
      · subst hn; exact (State.vacate_of_core hc).2.imp fun _ h => h.1
      · have hsame := (s.vacate_onlyLeaves e.1).others n hn
        rw [hc] at hsame
        exact (Option.map_eq_some_iff.mp hsame).imp fun _ h => h.1
    · exact ⟨c, hc⟩
  · exact ⟨c, hc⟩

/-- Every core whose shard is of the task is empty once all have stopped. -/
theorem State.stopEntries_empties {n task : Nat} {d : Core} {h : Shard} (hd : d.shard = some h) (htask : h.task = task) (l : List (Nat × Core)) :
    ∀ {s : State} {c : Core}, s.core? n = some c → (n, d) ∈ l → (l.foldl (State.stopEntry task) s).Emptied n := by
  induction l with
  | nil => exact fun _ h => absurd h List.not_mem_nil
  | cons e l ih =>
    intro s c hc hmem
    rcases List.mem_cons.mp hmem with rfl | hmem
    · exact (State.stopEntry_here hc hd htask).stopEntries l
    · obtain ⟨c', hc'⟩ := State.core?_stopEntry hc task e
      exact ih hc' hmem

/-- A parked shard is dropped: its save slot is free again. -/
def State.dropParked (s : State) (e : Nat × Parked) : State :=
  { ((s.newPad (parkedPad e.1)).dropWatched e.2.shard.uid).dropUnsealed e.2.shard.uid with ctxs := Map.upd s.ctxs e.2.shard.ctx fun x => { x with usedSlots := removeNat x.usedSlots e.2.slot } }

/-- A task without its parked shards. -/
def State.withoutParked (s : State) (task : Nat) : State :=
  (s.parked.filter fun e => e.2.shard.task = task).foldl State.dropParked { s with parked := s.parked.filter fun e => e.2.shard.task ≠ task }

theorem State.withoutParked_cores (s : State) (task : Nat) : (s.withoutParked task).cores = s.cores := by
  have steps (l : List (Nat × Parked)) : ∀ s : State, (l.foldl State.dropParked s).cores = s.cores := by
    induction l with
    | nil => exact fun s => rfl
    | cons e l ih =>
      intro s
      refine (ih _).trans ?_
      unfold State.dropParked State.dropWatched
      rw [State.passed_frame]
      rfl
  exact steps _ _

/-- A shard as a stop of its task leaves it. -/
def ShardState.atStop : ShardState → ShardState
  | .retired => .retired
  | _ => .stopped

theorem ShardState.atStop_cases : ∀ x : ShardState, x.atStop = .retired ∨ x.atStop = .stopped
  | .retired => .inl rfl
  | .waiting => .inr rfl
  | .running _ => .inr rfl
  | .parked => .inr rfl
  | .stopped => .inr rfl

theorem Map.mem_of_look {v : Type} : ∀ {m : Map v} {k : Nat} {x : v}, Map.look m k = some x → (k, x) ∈ m
  | (j, y) :: r, k, x, h => by
    by_cases hj : j = k
    · rw [Map.look, if_pos hj] at h
      rw [hj, Option.some.inj h]
      exact List.mem_cons_self
    · rw [Map.look, if_neg hj] at h
      exact List.mem_cons_of_mem _ (Map.mem_of_look h)

/-- A stop empties each core with a shard of the task, drops the parked ones, counts the shards as retired or stopped, and refills the stores. -/
theorem State.stopTask_eq {s : State} {task : Nat} {t : Task} (ht : Map.look s.tasks task = some t) :
    s.stopTask task = (List.range 8).foldl State.refill
      { (s.cores.foldl (State.stopEntry task) s).withoutParked task with
        tasks := Map.put ((s.cores.foldl (State.stopEntry task) s).withoutParked task).tasks task { t with shards := t.shards.map ShardState.atStop } } := by
  unfold State.stopTask
  rw [ht]
  rfl

/-- Stopping a task empties the core of each of its shards, and leaves every shard retired or stopped. -/
theorem State.stopTask_spec {s : State} {n : Nat} {c : Core} {h : Shard} {t : Task} (hc : s.core? n = some c) (hsh : c.shard = some h) (ht : Map.look s.tasks h.task = some t) :
    (s.stopTask h.task).Emptied n ∧ ∃ t', Map.look (s.stopTask h.task).tasks h.task = some t' ∧ ∀ x ∈ t'.shards, x = .retired ∨ x = .stopped := by
  have hcores := (s.cores.foldl (State.stopEntry h.task) s).withoutParked_cores h.task
  rw [State.stopTask_eq ht]
  generalize (s.cores.foldl (State.stopEntry h.task) s).withoutParked h.task = p at hcores ⊢
  have hreserves : State.OnlyReserves { p with tasks := Map.put p.tasks h.task { t with shards := t.shards.map ShardState.atStop } } _ :=
    .foldl (fun s d => s.refill_onlyReserves d) (List.range 8) _
  obtain ⟨d, hd, hempty⟩ := State.stopEntries_empties hsh rfl s.cores hc (Map.mem_of_look hc)
  have hp : p.core? n = some d := by
    rw [State.core?, hcores]
    exact hd
  refine ⟨⟨d, hreserves.core?_of_free hp hempty, hempty⟩, _, by rw [hreserves.eq]; exact Map.look_put _ _ _, fun x hx => ?_⟩
  obtain ⟨y, -, rfl⟩ := List.mem_map.mp hx
  exact y.atStop_cases

/-- A shard that is lost stops its task, which is lost with it (R423). -/
theorem State.loseShard_spec {s : State} {n : Nat} {c : Core} {h : Shard} {t : Task} (cell : Bool) (info : Word) (hc : s.core? n = some c) (hsh : c.shard = some h)
    (ht : Map.look s.tasks h.task = some t) :
    (s.loseShard h cell info).Emptied n ∧ ∃ t', Map.look (s.loseShard h cell info).tasks h.task = some t' ∧ t'.lost.isSome = true ∧ ∀ x ∈ t'.shards, x = .retired ∨ x = .stopped := by
  obtain ⟨hempty, t', ht', hl⟩ := State.stopTask_spec hc hsh ht
  exact ⟨hempty, _, (Map.look_upd _ _ _).trans (congrArg (Option.map _) ht'), rfl, hl⟩

/-- SHARD_RETIRE on a core whose shard has met its HALT (R22, R38, R372). -/
theorem exec_shardRetire_of {s : State} {c : Core} {sh : Shard} (hc : s.core? s.args.core = some c) (hsh : c.shard = some sh) (hhalted : c.cs.halted = true) :
    (c.mfailed = none → exec .shardRetire s = .next (s.retire s.args.core sh))
    ∧ ∀ info, c.mfailed = some info → exec .shardRetire s = .next ((s.freeHolds s.args.core).loseShard sh false info) := by
  rw [exec_shardRetire, execShardRetire, onShard, hc]
  dsimp only
  rw [hsh]
  dsimp only
  rw [if_neg (not_not.mpr hhalted)]
  exact ⟨fun hm => by rw [hm], fun info hm => by rw [hm]⟩

/-- A shard whose HALT has ended retires, or is lost with a failed M-command. -/
theorem shardRetires : ShardRetires := by
  intro s c sh t hc hsh hhalted ht
  obtain ⟨hretire, hlose⟩ := exec_shardRetire_of hc hsh hhalted
  refine ⟨fun hm _ => ?_, fun info hm => ?_⟩
  · obtain ⟨d, t', hd, hempty, ht', hrest⟩ := State.retire_spec hc ht
    exact ⟨_, d, t', hretire hm, hd, hempty, ht', hrest⟩
  · have hholds := s.freeHolds_onlyHolds s.args.core
    obtain ⟨hs, hc'⟩ := hholds.core? hc
    obtain ⟨⟨d, hd, hempty⟩, t', ht', hrest⟩ := State.loseShard_spec false info hc' (h := sh) hsh (hholds.tasks ▸ ht)
    exact ⟨_, d, t', hlose info hm, hd, hempty, ht', hrest⟩

end Sys2Proof.Machine
end

section
/-! The dispatch of a shard (R35, R292, R293). -/

namespace Sys2Proof.Machine

open Sys2Proof.Claim

/-- A task that moves changes its cluster, its die and the store of its entry. -/
theorem State.moved_frame (s : State) (t : Task) (k : Kernel) (num n : Nat) : ∃ cluster die entry, s.moved t k num n = { t with cluster := cluster, die := die, entry := entry } := by
  unfold State.moved
  split
  · split
    · exact ⟨_, _, _, rfl⟩
    · split <;> exact ⟨_, _, _, rfl⟩
  · exact ⟨_, _, _, rfl⟩

/-- A task whose shard a core has taken: it runs, with its inputs resolved. -/
def State.begun (s : State) (t : Task) (k : Kernel) (num n : Nat) (ins : List (BitVec 128)) : Task :=
  { s.moved t k num n with ins := ins, resolved := true, state := .running, begun := true, shards := t.shards.set num (.running n) }

/-- The shard stands on its core, whose scratchpad is cleared (R35, R84). -/
def State.started (s : State) (x : Cand) (t : Task) (k : Kernel) (old : Core) (n : Nat) : State :=
  let s := { s with tasks := Map.put s.tasks x.task t }
  { (s.newPad n).setCore n (k.startCore old (s.newShard x.task t k x.num)) with uid := s.uid + 1 }

/-- The fetch of an input that is parked starts. -/
def State.fetchInput (ctx : Nat) (s : State) (r : BitVec 128) : State :=
  match s.findVersion ctx (Ref.of r) with
  | some e => s.startFetch e.2
  | none => s

theorem State.fetchInputs_frame (ctx : Nat) (l : List (BitVec 128)) : ∀ s : State, ∃ f, l.foldl (State.fetchInput ctx) s = { s with fetches := f } := by
  induction l with
  | nil => exact fun s => ⟨_, rfl⟩
  | cons r l ih =>
    intro s
    have step : ∃ f, s.fetchInput ctx r = { s with fetches := f } := by
      unfold State.fetchInput State.startFetch
      split
      · split
        · split
          · exact ⟨_, rfl⟩
          · exact ⟨_, rfl⟩
        · exact ⟨_, rfl⟩
      · exact ⟨_, rfl⟩
    obtain ⟨f, hf⟩ := step
    obtain ⟨g, hg⟩ := ih { s with fetches := f }
    exact ⟨g, by rw [List.foldl_cons, hf, hg]⟩

section
variable {s : State} {x : Cand} {t : Task} {k : Kernel} {old : Core} (htakes : s.takes s.args.core (fun y => y.parked.isNone) = some x) (hold : s.core? s.args.core = some old)
  (ht : Map.look s.tasks x.task = some t) (hk : s.kernel t.ctx t.kdesc.toNat = some k)
include htakes hold ht hk

/-- A dispatch with its inputs resolved: the shard starts, the store that its task left is refilled, and its parked inputs are fetched. -/
theorem exec_shardDispatch_of {ins : List (BitVec 128)} (hins : (if t.resolved = true then .inl t.ins else s.resolveInputs t) = Sum.inl ins) :
    let t' := s.begun t k x.num s.args.core ins
    let u := s.started x t' k old s.args.core
    exec .shardDispatch s = .next (ins.foldl (State.fetchInput t'.ctx) (if t'.entry = t.entry then u else u.refill t.entry)) := by
  rw [exec_shardDispatch, execShardDispatch]
  dsimp only
  rw [htakes, hold]
  dsimp only
  rw [ht]
  dsimp only
  rw [hk, hins]
  rfl

/-- A latest input that resolves to nothing fails the task (R35). -/
theorem exec_shardDispatch_unresolved {r : Ref} (hresolved : t.resolved = false) (hr : s.resolveInputs t = .inr r) :
    exec .shardDispatch s = .next { s with tasks := Map.put s.tasks x.task { t with failed := some (3, none, refInfo { r with version := 0 }) } } := by
  rw [exec_shardDispatch, execShardDispatch]
  dsimp only
  rw [htakes, hold]
  dsimp only
  rw [ht]
  dsimp only
  rw [hk, hresolved, if_neg Bool.false_ne_true, hr]

end

/-- The scalar registers at a dispatch: sp holds the stack base, the rest are 0 (R35, R45). -/
theorem Kernel.sreg_startCore (k : Kernel) (old : Core) (sh : Shard) (r : BitVec 6) : (k.startCore old sh).sreg r = if r = 61 then BitVec.ofNat 64 k.stackBase &&& 0x3FFF0 else 0 := by
  by_cases h0 : r = 0
  · subst h0; rfl
  · by_cases h61 : r = 61
    · subst h61; rfl
    · have hne : r.toNat ≠ 61 := fun h => h61 (BitVec.eq_of_toNat_eq h)
      rw [Core.sreg, if_neg h0, if_neg h61]
      exact Map.lookD_put_ne _ _ _ hne

theorem Kernel.areg_startCore (k : Kernel) (old : Core) (sh : Shard) (r : BitVec 5) : (k.startCore old sh).areg r = 0 := by
  unfold Core.areg
  split <;> rfl

/-- What a dispatch leaves: the shard as it starts, its task running, and the other cores as they were but for their reserves. -/
theorem shardsDispatch : ShardsDispatch := by
  intro s x t k old n htakes hold ht hk
  refine ⟨fun ins hins => ?_, fun r hresolved hr => exec_shardDispatch_unresolved htakes hold ht hk hresolved hr⟩
  have hexec := exec_shardDispatch_of htakes hold ht hk hins
  obtain ⟨cluster, die, entry, hmoved⟩ := s.moved_frame t k x.num n
  have hbegun : s.begun t k x.num n ins = { t with
      cluster := cluster, die := die, entry := entry, ins := ins, resolved := true, state := .running, begun := true, shards := t.shards.set x.num (.running n) } := by
    rw [State.begun, hmoved]
  dsimp only at hexec
  generalize s.begun t k x.num n ins = t' at hexec hbegun
  have hreserves : (s.started x t' k old n).OnlyReserves (if t'.entry = t.entry then s.started x t' k old n else (s.started x t' k old n).refill t.entry) := by
    split
    · exact .refl _
    · exact State.refill_onlyReserves _ _
  have hstart : (s.started x t' k old n).core? n = some (k.startCore old (State.newShard { s with tasks := Map.put s.tasks x.task t' } x.task t' k x.num)) := State.core?_setCore _ _ _
  generalize hv : (if t'.entry = t.entry then s.started x t' k old n else (s.started x t' k old n).refill t.entry) = v at hexec hreserves
  obtain ⟨f, hf⟩ := State.fetchInputs_frame t'.ctx ins v
  obtain ⟨r, hr⟩ := hreserves.cores n
  rw [hstart] at hr
  rw [hf] at hexec
  have htask : Map.look { v with fetches := f }.tasks x.task = some t' := by
    rw [hreserves.eq]
    exact Map.look_put _ _ _
  refine ⟨_, _, { State.newShard { s with tasks := Map.put s.tasks x.task t' } x.task t' k x.num with reserve := r }, t', hexec, hr, rfl, ?_, ?_, ?_, fun m d hm hd => ?_, htask, ?_⟩
  case refine_4 =>
    obtain ⟨r', hr'⟩ := hreserves.cores m
    have hd' : v.core? m = some d := hd
    have hother : (s.started x t' k old n).core? m = s.core? m := State.core?_setCore_ne _ _ hm
    rw [hr', hother] at hd'
    obtain ⟨e, he, rfl⟩ := Option.map_eq_some_iff.mp hd'
    exact ⟨e, he, rfl, fun h hh => ⟨{ h with reserve := r' }, by rw [Core.withReserve, hh]; rfl, rfl⟩⟩
  case refine_5 =>
    subst hbegun
    refine ⟨rfl, rfl, rfl, rfl, rfl, rfl, rfl, rfl, rfl, rfl, rfl, rfl, rfl, rfl, rfl, rfl, rfl, rfl, ?_, fun q => ?_, fun a => ?_, rfl, rfl, rfl, rfl, rfl, rfl, rfl⟩
    · simp only [List.forall_mem_cons]
      exact ⟨⟨rfl, rfl, rfl, rfl⟩, ⟨rfl, rfl, rfl, rfl⟩, ⟨rfl, rfl, rfl, rfl⟩, fun _ h => absurd h List.not_mem_nil⟩
    · exact k.sreg_startCore old _ q
    · exact k.areg_startCore old _ a
  all_goals
    rw [hreserves.eq]
    rfl

/-- Settles O45: a shard's dispatch by what it starts with, and its end by what its core and its task are left with. -/
theorem shardsStartAndEnd : Obligations.ShardsStartAndEnd := ⟨shardsDispatch, shardRetires⟩

end Sys2Proof.Machine
end

section
/-! Pre-emption (R296 to R301): the victim's line, and a shard that is parked, discarded, or runs on. -/

namespace Sys2Proof.Machine

open Sys2Proof.Claim

/-! ### The victim (R296) -/

/-- What a fold has chosen it began with, or met on its way. -/
theorem mem_of_foldl_choice {α : Type} {f : Option α → α → Option α} (hf : ∀ b x, f b x = some x ∨ f b x = b) (l : List α) : ∀ {b : Option α} {x : α},
    l.foldl f b = some x → b = some x ∨ x ∈ l := by
  induction l with
  | nil => exact fun h => .inl h
  | cons a l ih =>
    intro b x h
    rcases ih h with h | h
    · rcases hf b a with ha | ha <;> rw [ha] at h
      · exact .inr (List.mem_cons.mpr (.inl (Option.some.inj h).symm))
      · exact .inl h
    · exact .inr (List.mem_cons_of_mem _ h)

/-- The victim runs the shard that is to stop. -/
theorem State.shard_of_victim {s : State} {t : Task} {k : Kernel} {n : Nat} {c : Core} {sh : Shard} (h : s.victim t k = some (n, c, sh)) : c.shard = some sh := by
  unfold State.victim at h
  have hchoice := mem_of_foldl_choice (fun b x => by
    cases b with
    | none => exact .inl rfl
    | some y =>
      dsimp only
      split
      · exact .inl rfl
      · exact .inr rfl) _ h
  rcases hchoice with h | h
  · contradiction
  · obtain ⟨e, -, he⟩ := List.mem_filterMap.mp h
    split at he
    next sh' hsh =>
      rw [Option.ite_none_right_eq_some] at he
      obtain ⟨-, he⟩ := he
      injection Option.some.inj he with h1 h2
      injection h2 with h2 h3
      rw [← h2, ← h3, hsh]
    next => contradiction

theorem Core.rollback_pad (c : Core) (pc : Word) : (c.rollback pc).pad = c.pad := by
  unfold Core.rollback
  split <;> rfl

/-- PREEMPT raises the victim's line and keeps its core for the task. -/
theorem exec_preempt_spec {s : State} {t : Task} {k : Kernel} {n : Nat} {c : Core} {sh : Shard} (ht : Map.look s.tasks s.args.a = some t) (hk : s.kernel t.ctx t.kdesc.toNat = some k)
    (hwants : s.wantsCore s.args.a t k = true) (hvictim : s.victim t k = some (n, c, sh)) (hc : s.core? n = some c) :
    ∃ u d h, exec .preempt s = .next u ∧ u.core? n = some d ∧ d = { c.rollback ((c.spec.map Spec.pc).getD c.cs.pc) with keptFor := some (s.args.a, s.now), shard := some h } ∧ h = { sh with halt := h.halt }
      ∧ (sh.committed = true → h.halt = 1) ∧ (sh.committed = false → s.freeSlot sh.ctx = none → h.halt = 2) ∧ (h.halt = 1 ∨ h.halt = 2) ∧ (∀ m, m ≠ n → u.core? m = s.core? m) ∧ SameMemory s u := by
  have hexec : exec .preempt s = .next ((State.raiseHalt { s with args := { s.args with core := n } } n (if State.discards { s with args := { s.args with core := n } } sh = true then 2 else 1)).updCore n
      fun c => { c with keptFor := some (s.args.a, s.now) }) := by
    rw [exec_preempt, execPreempt, ht]
    dsimp only
    rw [hk]
    dsimp only
    rw [if_neg (not_not.mpr hwants), hvictim]
  have hshard := State.shard_of_victim hvictim
  refine ⟨_, _, { sh with halt := if State.discards { s with args := { s.args with core := n } } sh = true then 2 else 1 }, hexec, ?_, rfl, rfl, fun h => ?_, fun h hslot => ?_, ?_, fun m hm => ?_, ?_⟩
  · rw [State.core?_updCore, State.raiseHalt, State.core?_updCore]
    have : State.core? { s with args := { s.args with core := n } } n = some c := hc
    rw [this, Option.map_some, Option.map_some, hshard]
    rfl
  · have : State.discards { s with args := { s.args with core := n } } sh = false := by simp [State.discards, h]
    simp [this]
  · have hslot' : State.freeSlot { s with args := { s.args with core := n } } sh.ctx = none := hslot
    have : State.discards { s with args := { s.args with core := n } } sh = true := by simp [State.discards, h, hslot']
    simp [this]
  · dsimp only
    split
    · exact .inr rfl
    · exact .inl rfl
  · rw [State.core?_updCore_ne _ _ hm, State.raiseHalt, State.core?_updCore_ne _ _ hm]
    rfl
  · refine fun x j => State.readTarget_congr (s := s) ?_ ?_ ?_ (fun m => ?_) x j
    · rfl
    · rfl
    · rfl
    · by_cases hm : m = n
      · subst hm
        have : State.core? { s with args := { s.args with core := m } } m = some c := hc
        rw [State.core?_updCore, State.raiseHalt, State.core?_updCore, this, hc]
        exact congrArg some (c.rollback_pad _)
      · rw [State.core?_updCore_ne _ _ hm, State.raiseHalt, State.core?_updCore_ne _ _ hm]
        rfl

/-! ### Starting again (R301) -/

/-- What a shard that starts again leaves: its task has it waiting; the cores and the memories are as they were. -/
theorem State.restartShard_frame (s : State) (sh : Shard) : s.restartShard sh = { s with
    lostMarks := (s.restartShard sh).lostMarks, watched := (s.restartShard sh).watched, regions := (s.restartShard sh).regions, versions := (s.restartShard sh).versions, tasks := (s.restartShard sh).tasks, groups := (s.restartShard sh).groups } := by
  unfold State.restartShard State.dropWatched
  rw [State.passed_frame]
  rfl

/-- The task of a shard has it waiting, as of now, without its bindings and its record of waits. -/
def State.waitsAgain (s : State) (sh : Shard) : State :=
  let s := s.setShard sh.task sh.num .waiting
  ({ s with
    tasks := Map.upd s.tasks sh.task fun t =>
      { t with
        rosters := t.rosters.filter fun r => r.1 ≠ sh.num, waits := t.waits.filter fun w => w.1 ≠ sh.num
        again := Map.put t.again sh.num s.now } }).unbind
    fun b => b == (sh.task, sh.num)

theorem State.restartShard_eq (s : State) (sh : Shard) : s.restartShard sh = ((s.dropWatched sh.uid).dropUnsealed sh.uid).waitsAgain sh := rfl

theorem State.waitsAgain_tasks {s : State} {sh : Shard} {t : Task} (ht : Map.look s.tasks sh.task = some t) :
    ∃ t', Map.look (s.waitsAgain sh).tasks sh.task = some t' ∧ t'.shards = t.shards.set sh.num .waiting := by
  have hset : Map.look (s.setShard sh.task sh.num .waiting).tasks sh.task = some { t with shards := t.shards.set sh.num .waiting } :=
    (Map.look_upd _ _ _).trans (congrArg (Option.map _) ht)
  exact ⟨_, (Map.look_upd _ _ _).trans (congrArg (Option.map _) hset), rfl⟩

theorem State.restartShard_tasks {s : State} {sh : Shard} {t : Task} (ht : Map.look s.tasks sh.task = some t) :
    ∃ t', Map.look (s.restartShard sh).tasks sh.task = some t' ∧ t'.shards = t.shards.set sh.num .waiting := by
  rw [State.restartShard_eq]
  refine State.waitsAgain_tasks ?_
  unfold State.dropWatched
  rw [State.passed_frame]
  exact ht

/-- A shard that leaves its core to start again. -/
theorem State.restart_spec {s : State} {n : Nat} {c : Core} {sh : Shard} {t : Task} (hc : s.core? n = some c) (ht : Map.look s.tasks sh.task = some t) :
    ∃ d t', (((s.vacate n).restartShard sh).refill (dieOf n)).core? n = some d ∧ d.shard = none ∧ Map.look (((s.vacate n).restartShard sh).refill (dieOf n)).tasks sh.task = some t'
      ∧ t'.shards = t.shards.set sh.num .waiting := by
  obtain ⟨hleaves, d, hd, hempty⟩ := State.vacate_of_core hc
  have htasks : Map.look (s.vacate n).tasks sh.task = some t := by rw [hleaves.eq]; exact ht
  obtain ⟨t', ht', hshards⟩ := State.restartShard_tasks htasks
  have hreserves := ((s.vacate n).restartShard sh).refill_onlyReserves (dieOf n)
  have hcore : ((s.vacate n).restartShard sh).core? n = some d := by rw [State.restartShard_frame]; exact hd
  exact ⟨d, t', hreserves.core?_of_free hcore hempty, hempty, by rw [hreserves.eq]; exact ht', hshards⟩

theorem State.discard_spec {s : State} {n : Nat} {c : Core} {sh : Shard} {t : Task} (hc : s.core? n = some c) (ht : Map.look s.tasks sh.task = some t) :
    ∃ d t', (s.discard n sh).core? n = some d ∧ d.shard = none ∧ Map.look (s.discard n sh).tasks sh.task = some t' ∧ t'.shards = t.shards.set sh.num .waiting := by
  have hstop : (s.updCore n Core.stopped).core? n = some c.stopped := by rw [State.core?_updCore, hc]; rfl
  have hholds := (s.updCore n Core.stopped).freeHolds_onlyHolds n
  obtain ⟨hs, hc'⟩ := hholds.core? hstop
  exact State.restart_spec hc' (by rw [hholds.tasks]; exact ht)

end Sys2Proof.Machine
end

section
/-! A shard that is parked: its slot is written, or it ends as R425 gives (R297 to R299, R425). -/

namespace Sys2Proof.Machine

open Sys2Proof.Claim

/-! ### Writing a slot -/

/-- A state as another left it, but for bytes that have been stored and what the stores were charged; there are the same cores. -/
structure State.OnlyStores (s u : State) : Prop where
  eq : u = { s with ports := u.ports, mem := u.mem, poison := u.poison, cores := u.cores, host0 := u.host0, host1 := u.host1 }
  cores : ∀ k, (u.core? k).isSome = (s.core? k).isSome

namespace State.OnlyStores

theorem refl (s : State) : s.OnlyStores s := ⟨rfl, fun _ => rfl⟩

theorem trans {s t u : State} (h : s.OnlyStores t) (h' : t.OnlyStores u) : s.OnlyStores u :=
  ⟨by rw [h'.eq, h.eq], fun k => (h'.cores k).trans (h.cores k)⟩

theorem foldl {α : Type} {f : State → α → State} (hf : ∀ (s : State) a, s.OnlyStores (f s a)) (l : List α) (s : State) : s.OnlyStores (l.foldl f s) := by
  induction l generalizing s with
  | nil => exact refl s
  | cons a l ih => exact (hf s a).trans (ih _)

theorem of_onlyPorts {s u : State} (h : s.OnlyPorts u) : s.OnlyStores u := by
  rw [h.eq]; exact ⟨rfl, fun _ => rfl⟩

end State.OnlyStores

theorem State.core?_spoil_isSome (s : State) (t : Target) (n k : Nat) : ((s.spoil t n).core? k).isSome = (s.core? k).isSome := by
  have h := congrArg Option.isSome (s.core?_spoil t n k)
  rwa [Option.isSome_map, Option.isSome_map] at h

theorem State.writeTarget_onlyStores (s : State) (t : Target) (bs : List Byte) : s.OnlyStores (s.writeTarget t bs) := by
  refine ⟨by rw [s.writeTarget_onlyBytes t bs], fun k => ?_⟩
  rw [← s.core?_spoil_isSome t bs.length k]
  cases t with
  | pad j o =>
    by_cases hk : k = j
    · subst hk
      rw [State.writeTarget, State.core?_updCore, Option.isSome_map]
    · rw [State.writeTarget, State.core?_updCore_ne _ _ hk]
  | dram a => rfl
  | host p a =>
    rw [State.writeTarget]
    unfold State.setHostMem
    split <;> rfl
  | peer p a => rfl

theorem State.writeRange_onlyStores {s t : State} {ctx va : Nat} {bs : List Byte} (h : s.writeRange ctx va bs = some t) : s.OnlyStores t := by
  have parts (ps : List (Target × Nat)) : ∀ x : State × List Byte, x.1.OnlyStores (ps.foldl (fun (x : State × List Byte) p => (x.1.writeTarget p.1 (x.2.take p.2), x.2.drop p.2)) x).1 := by
    induction ps with
    | nil => exact fun x => .refl _
    | cons p ps ih => exact fun x => (x.1.writeTarget_onlyStores _ _).trans (ih (x.1.writeTarget p.1 (x.2.take p.2), x.2.drop p.2))
  unfold State.writeRange at h
  split at h
  · rw [Option.ite_none_left_eq_some] at h
    obtain ⟨-, h⟩ := h
    rw [← Option.some.inj h]
    exact parts _ (s, bs)
  · contradiction

theorem State.chargeParts_onlyPorts (s : State) (die : Nat) (ps : List (Target × Nat)) : s.OnlyPorts (s.chargeParts die ps) := by
  refine .foldl (fun s p => ?_) _ s
  split
  · dsimp only
    split
    · exact ((s.rowOpened_onlyPorts _ _).trans (State.charge_onlyPorts _ _ _ _)).trans (State.chargeFlits_onlyPorts _ _ _ _ _ _)
    · exact (s.charge_onlyPorts _ _ _).trans (State.chargeFlits_onlyPorts _ _ _ _ _ _)
  · exact .refl s
  · exact s.chargeHub_onlyPorts _ _ _

theorem State.writeParts_onlyStores (die ctx base : Nat) : ∀ (l : List (Nat × List Byte)) {s t : State}, s.writeParts die ctx base l = some t → s.OnlyStores t
  | [], s, t, h => Option.some.inj h ▸ .refl s
  | p :: r, s, t, h => by
    unfold State.writeParts at h
    split at h
    · rw [Option.ite_none_left_eq_some, Option.bind_eq_some_iff] at h
      obtain ⟨-, u, hu, h⟩ := h
      exact ((State.writeRange_onlyStores hu).trans (.of_onlyPorts (u.chargeParts_onlyPorts die _))).trans (State.writeParts_onlyStores die ctx base r h)
    · contradiction

/-! ### Parking (R298) -/

/-- The core of a shard whose streams stop with nothing in flight: what the park saves of it (R69). -/
theorem Core.stopped_of_quiet {c : Core} (hspec : c.spec = none) : c.stopped = { c with
    cs := { c.cs with wait := .none }, as := { c.as with wait := .none }, vs := { c.vs with wait := .none }, xqueue := c.xqueue.map XCmd.cancelled, vrun := none, walkFails := [] } := by
  simp only [Core.stopped, Core.rollback, hspec]

/-- The record of a parked shard is kept under the next key, its task counts it as parked, and its core is free (R298). -/
def State.keepParked (s : State) (n : Nat) (sh : Shard) (p : Parked) : State :=
  ((({ s with parked := Map.put s.parked s.uid p, uid := s.uid + 1, free := s.free + 1 } : State).setShard sh.task sh.num .parked).vacate n).refill (dieOf n)

theorem State.keepParked_spec {s : State} {n : Nat} {sh : Shard} {t : Task} (p : Parked) (hcore : (s.core? n).isSome = true) (ht : Map.look s.tasks sh.task = some t) :
    ∃ d t', (s.keepParked n sh p).core? n = some d ∧ d.shard = none ∧ Map.look (s.keepParked n sh p).parked s.uid = some p ∧ Map.look (s.keepParked n sh p).tasks sh.task = some t'
      ∧ t'.shards = t.shards.set sh.num .parked := by
  obtain ⟨c, hc⟩ := Option.isSome_iff_exists.mp hcore
  unfold State.keepParked
  have hparked : Map.look (({ s with parked := Map.put s.parked s.uid p, uid := s.uid + 1, free := s.free + 1 } : State).setShard sh.task sh.num .parked).parked s.uid = some p := Map.look_put _ _ _
  have htasks : Map.look (({ s with parked := Map.put s.parked s.uid p, uid := s.uid + 1, free := s.free + 1 } : State).setShard sh.task sh.num .parked).tasks sh.task
      = some { t with shards := t.shards.set sh.num .parked } := (Map.look_upd _ _ _).trans (congrArg (Option.map _) ht)
  have hcore : (({ s with parked := Map.put s.parked s.uid p, uid := s.uid + 1, free := s.free + 1 } : State).setShard sh.task sh.num .parked).core? n = some c := hc
  generalize ({ s with parked := Map.put s.parked s.uid p, uid := s.uid + 1, free := s.free + 1 } : State).setShard sh.task sh.num .parked = v at hparked htasks hcore
  obtain ⟨hleaves, d, hd, hempty⟩ := State.vacate_of_core hcore
  have hreserves := (v.vacate n).refill_onlyReserves (dieOf n)
  exact ⟨d, _, hreserves.core?_of_free hd hempty, hempty, by rw [hreserves.eq, hleaves.eq]; exact hparked, by rw [hreserves.eq, hleaves.eq]; exact htasks, rfl⟩

/-- A task of a committed shard that cannot be saved has failed, and its core is empty (R425). -/
theorem State.failTask3_spec {s : State} {n : Nat} {c : Core} {h : Shard} {t : Task} (hc : s.core? n = some c) (hsh : c.shard = some h) (ht : Map.look s.tasks h.task = some t) :
    (s.failTask3 h).Emptied n ∧ ∃ t', Map.look (s.failTask3 h).tasks h.task = some t' ∧ t'.failed.isSome = true := by
  obtain ⟨hempty, t', ht', -⟩ := State.stopTask_spec hc hsh ht
  refine ⟨hempty, _, (Map.look_upd _ _ _).trans (congrArg (Option.map _) ht'), ?_⟩
  dsimp only
  cases t'.failed <;> rfl

theorem Core.stopped_shard (c : Core) : c.stopped.shard = c.shard := by
  unfold Core.stopped Core.rollback
  dsimp only
  split <;> rfl

/-- A core as a park saves it: rows to be revoked or reopened, and the inbox entries of its shard's context (R298). -/
def Core.saved (c : Core) (sh : Shard) : Core := { c with holds := Map.each c.holds fun _ h => h.parked, inbox := c.inbox.filter fun e => e.ctx = sh.ctx }

/-- A slot that has been written is taken, what was left in flight is saved with it, and the pad's marks go with its bytes (R84, R106, R298). -/
def State.takeSaved (s : State) (n : Nat) (sh : Shard) (slot : Nat) : State :=
  let s := ((s.syncPoint n).takeSlot sh.ctx slot).updCore n Core.quiet
  if sh.keepsp then s.movePad n (parkedPad s.uid) else s

theorem State.takeSaved_frame (s : State) (n : Nat) (sh : Shard) (slot : Nat) : (s.takeSaved n sh slot).uid = s.uid ∧ (s.takeSaved n sh slot).tasks = s.tasks
    ∧ ((s.takeSaved n sh slot).core? n).isSome = (s.core? n).isSome := by
  have hsync : (s.syncPoint n).uid = s.uid ∧ ((s.syncPoint n).core? n).isSome = (s.core? n).isSome := by
    unfold State.syncPoint
    split
    · exact ⟨rfl, rfl⟩
    · exact ⟨rfl, (congrArg Option.isSome (s.core?_updCore n _)).trans Option.isSome_map⟩
  obtain ⟨huid, hcore⟩ := hsync
  have hquiet : ((((s.syncPoint n).takeSlot sh.ctx slot).updCore n Core.quiet).core? n).isSome = (s.core? n).isSome :=
    (congrArg Option.isSome (State.core?_updCore _ n _)).trans (Option.isSome_map.trans hcore)
  unfold State.takeSaved
  dsimp only
  split
  · exact ⟨huid, s.syncPoint_tasks n, hquiet⟩
  · exact ⟨huid, s.syncPoint_tasks n, hquiet⟩

/-- The steps of a park whose shard has no M-command left: the rows are freed and the slot is written, or the shard ends as R425 gives. -/
theorem State.park_eq {s : State} {n slot : Nat} {c : Core} {sh : Shard} (hc : s.core? n = some c) (hsh : c.shard = some sh) (hm : c.stopped.mqueue = []) (debug needs : Bool) :
    let v := (((s.updCore n Core.stopped).endRun n).dropLease n).freeHolds n
    let lease := (s.updCore n Core.stopped).hasLease n || false
    let written := v.writeParts (dieOf n) sh.ctx (v.slotAddr sh.ctx slot) (v.slotParts n (c.stopped.saved sh) sh lease)
    (written = none → s.park n slot debug needs = if sh.committed = true then v.failTask3 sh else ((v.vacate n).restartShard sh).refill (dieOf n))
    ∧ ∀ w, written = some w → ∃ p : Parked, s.park n slot debug needs = (w.takeSaved n sh slot).keepParked n sh p
        ∧ p.shard = { sh with halt := 0, reserve := 0, region := none } ∧ p.slot = slot ∧ p.fromCore = n ∧ p.debug = debug ∧ p.core = { c.stopped.saved sh with shard := none, lastRun := 0 } := by
  intro v lease written
  have hstop : (s.updCore n Core.stopped).core? n = some c.stopped := by rw [State.core?_updCore, hc]; rfl
  have hstop' : (((s.updCore n Core.stopped).endRun n).dropLease n).core? n = some c.stopped := hstop
  have hshard : c.stopped.shard = some sh := c.stopped_shard.trans hsh
  unfold State.park
  dsimp only
  rw [hstop]
  dsimp only
  rw [hshard]
  dsimp only
  unfold State.saveShard
  rw [hstop, Option.elim_some, hm, List.length_nil, State.drainM]
  dsimp only
  rw [hstop']
  dsimp only
  split
  next h => rw [hshard] at h; contradiction
  next sh' h =>
    obtain rfl : sh' = sh := Option.some.inj (h.symm.trans hshard)
    refine ⟨fun hw => ?_, fun w hw => ?_⟩
    all_goals
      simp only [written, v, lease, Core.saved] at hw
      rw [hw]
    exact ⟨_, rfl, rfl, rfl, rfl, rfl, rfl⟩

/-- A park that has a slot leaves the core empty: the shard is saved, or it starts again, or, once committed, its task has failed (R298, R425). -/
theorem State.park_spec {s : State} {n slot : Nat} {c : Core} {sh : Shard} {t : Task} (hc : s.core? n = some c) (hsh : c.shard = some sh) (ht : Map.look s.tasks sh.task = some t)
    (hm : c.mqueue = []) (hspec : c.spec = none) :
    ∃ d, (s.park n slot false false).core? n = some d ∧ d.shard = none
      ∧ ((∃ p t', Map.look (s.park n slot false false).parked s.uid = some p ∧ p.shard = { sh with halt := 0, reserve := 0, region := none } ∧ p.slot = slot ∧ p.fromCore = n ∧ p.debug = false
            ∧ p.core.sregs = c.sregs ∧ p.core.gran = c.gran ∧ p.core.cs.pc = c.cs.pc ∧ p.core.as.pc = c.as.pc ∧ p.core.vs.pc = c.vs.pc
            ∧ Map.look (s.park n slot false false).tasks sh.task = some t' ∧ t'.shards = t.shards.set sh.num .parked)
        ∨ ∃ t', Map.look (s.park n slot false false).tasks sh.task = some t' ∧ if sh.committed then t'.failed.isSome = true else t'.shards = t.shards.set sh.num .waiting) := by
  have hstopped := Core.stopped_of_quiet hspec
  have hmq : c.stopped.mqueue = [] := by rw [hstopped]; exact hm
  have hstop : (((s.updCore n Core.stopped).endRun n).dropLease n).core? n = some c.stopped := by
    refine (State.core?_updCore s n _).trans ?_
    rw [hc]
    rfl
  have hholds := (((s.updCore n Core.stopped).endRun n).dropLease n).freeHolds_onlyHolds n
  obtain ⟨hs, hv⟩ := hholds.core? hstop
  have htasks : Map.look ((((s.updCore n Core.stopped).endRun n).dropLease n).freeHolds n).tasks sh.task = some t := by rw [hholds.tasks]; exact ht
  have huid : ((((s.updCore n Core.stopped).endRun n).dropLease n).freeHolds n).uid = s.uid := by rw [hholds.eq]; rfl
  obtain ⟨hnone, hsome⟩ := State.park_eq (slot := slot) hc hsh hmq false false
  generalize (((s.updCore n Core.stopped).endRun n).dropLease n).freeHolds n = v at hv htasks huid hnone hsome
  cases hwritten : v.writeParts (dieOf n) sh.ctx (v.slotAddr sh.ctx slot) (v.slotParts n (c.stopped.saved sh) sh ((s.updCore n Core.stopped).hasLease n || false)) with
  | none =>
    rw [hnone hwritten]
    by_cases hcommitted : sh.committed = true
    · obtain ⟨⟨d, hd, hempty⟩, t', ht', hfailed⟩ := State.failTask3_spec hv (h := sh) (c.stopped_shard.trans hsh) htasks
      simp only [hcommitted, if_true]
      exact ⟨d, hd, hempty, .inr ⟨t', ht', hfailed⟩⟩
    · obtain ⟨d, t', hd, hempty, ht', hshards⟩ := State.restart_spec hv htasks
      simp only [hcommitted]
      exact ⟨d, hd, hempty, .inr ⟨t', ht', hshards⟩⟩
  | some w =>
    have hstores := State.writeParts_onlyStores _ _ _ _ hwritten
    obtain ⟨p, hpark, hshard, hslot, hfrom, hdebug, hcore⟩ := hsome w hwritten
    obtain ⟨huid', htasks', hcores'⟩ := w.takeSaved_frame n sh slot
    have hw : (w.takeSaved n sh slot).uid = s.uid ∧ (w.takeSaved n sh slot).tasks = v.tasks ∧ ((w.takeSaved n sh slot).core? n).isSome = true := by
      refine ⟨huid'.trans ?_, htasks'.trans ?_, hcores'.trans ((hstores.cores n).trans (by rw [hv]; rfl))⟩ <;> rw [hstores.eq]
      exact huid
    obtain ⟨huid'', htasks'', hcores''⟩ := hw
    obtain ⟨d, t', hd, hempty, hp, ht', hshards⟩ := State.keepParked_spec (sh := sh) p hcores'' (htasks''.symm ▸ htasks)
    rw [hpark]
    rw [huid''] at hp
    refine ⟨d, hd, hempty, .inl ⟨p, t', hp, hshard, hslot, hfrom, hdebug, ?_, ?_, ?_, ?_, ?_, ht', hshards⟩⟩ <;> rw [hcore, Core.saved, hstopped]

end Sys2Proof.Machine
end

section
/-! SHARD_PARK, SHARD_DISCARD and SHARD_RESUME (R297 to R301). -/

namespace Sys2Proof.Machine

open Sys2Proof.Claim

/-! ### A shard whose line is up -/

section
variable {s : State} {c : Core} {sh : Shard} (hc : s.core? s.args.core = some c) (hsh : c.shard = some sh) (hrun : c.cs.halted = false)
include hc hsh hrun

theorem exec_shardPark_of (hhalt : sh.halt = 1) (hcan : s.canPark c = true) :
    (∀ slot, s.freeSlot sh.ctx = some slot → exec .shardPark s = .next (s.park s.args.core slot false false))
    ∧ (s.freeSlot sh.ctx = none → (sh.committed = true → exec .shardPark s = .next (s.updCore s.args.core fun c => { c with keptFor := none, shard := some { sh with halt := 0 } }))
      ∧ (sh.committed = false → exec .shardPark s = .next (s.discard s.args.core sh))) := by
  have hgo : ¬ (sh.halt ≠ 1 ∨ c.cs.halted = true ∨ ¬ s.canPark c = true) := by simp [hhalt, hrun, hcan]
  rw [exec_shardPark, execShardPark, onShard, hc]
  dsimp only
  rw [hsh]
  dsimp only
  rw [if_neg hgo]
  refine ⟨fun slot hslot => by rw [hslot], fun hslot => ⟨fun h => ?_, fun h => ?_⟩⟩ <;> rw [hslot]
  · exact if_pos h
  · exact if_neg (by rw [h]; decide)

theorem exec_shardDiscard_of (hhalt : sh.halt = 2) :
    (sh.committed = true → exec .shardDiscard s = .next (s.updCore s.args.core fun c => { c with shard := some { sh with halt := 1 } }))
    ∧ (sh.committed = false → exec .shardDiscard s = .next (s.discard s.args.core sh)) := by
  have hgo : ¬ (sh.halt ≠ 2 ∨ c.cs.halted = true) := by simp [hhalt, hrun]
  rw [exec_shardDiscard, execShardDiscard, onShard, hc]
  dsimp only
  rw [hsh]
  dsimp only
  rw [if_neg hgo]
  exact ⟨fun h => if_pos h, fun h => if_neg (by rw [h]; decide)⟩

end

/-! ### Resuming (R300) -/

/-- A parked shard that no core can take starts again (R300). -/
theorem exec_shardResume_tooLarge {s : State} {p : Parked} {key : Nat} (hp : Map.look s.parked key = some p) (hflag : s.args.flag = true) (hidx : s.args.idx = key)
    (hlarge : s.tooLarge key p = true) :
    ∃ u, exec .shardResume s = .next u ∧ SameMemory s u ∧ u.cores = s.cores ∧ Map.look u.parked key = none
      ∧ ∀ t, Map.look s.tasks p.shard.task = some t → ∃ t', Map.look u.tasks p.shard.task = some t' ∧ t'.shards = t.shards.set p.shard.num .waiting := by
  subst hidx
  refine ⟨s.discardParked s.args.idx p, ?_, ?_, ?_, ?_, fun t ht => State.restartShard_tasks ht⟩
  · rw [exec_shardResume, execShardResume, if_pos hflag, hp]
    exact if_pos hlarge
  · rw [State.discardParked, State.restartShard_frame]
    exact sameMemory_of_eq rfl rfl rfl rfl
  · rw [State.discardParked, State.restartShard_frame]
    rfl
  · rw [State.discardParked, State.restartShard_frame]
    exact Map.look_del _ _

/-- The core that a parked shard takes, with what its slot gave, over what the core keeps of its own (R300). -/
def State.resumedCore (s : State) (n : Nat) (p : Parked) (old c : Core) (sh : Shard) (lease : Bool) : Core :=
  { c with
    shard := some { sh with reserve := 2, cycleBase := sh.cycleBase + (s.now - p.parkedAt), dispatchedAt := s.now }
    capacity := old.capacity, inService := old.inService, inbox := c.inbox ++ old.inbox
    holds := Map.each c.holds fun h x => match Map.look p.rows h with
      | some r => s.reopened (s.det p.shard.ctx) x r
      | none => x
    dcache := [], icache := old.icache, utlb := old.utlb, keptFor := none, resuming := some (p.slot, lease, p.trapAt)
    cs := { c.cs with flight := c.cs.flight.map (s.movedAccess n) }
    as := { c.as with flight := c.as.flight.map (s.movedAccess n) } }

/-- A resume whose lease is not back asks its array for it (R300). -/
theorem State.finishResume_asks {s : State} {n slot : Nat} {c : Core} {sh : Shard} {trap : Option Recorded} (hc : s.core? n = some c) (hresuming : c.resuming = some (slot, true, trap))
    (hsh : c.shard = some sh) (hrows : c.holds = []) (hlease : s.hasLease n = false) (harray : (Map.look s.arrays (arrayOf n)).all Array.inService = true) :
    s.finishResume n = { s with arrays := Map.upd s.arrays (arrayOf n) fun a => { a with waiting := insertNat a.waiting n } } := by
  have hserves : ((Map.look s.arrays (arrayOf n)).any fun a => !a.inService) = false := by
    cases h : Map.look s.arrays (arrayOf n) with
    | none => rfl
    | some a =>
      rw [h] at harray
      simpa using harray
  unfold State.finishResume
  rw [hc]
  dsimp only
  rw [hresuming]
  split
  next slot' lease' trap' sh' hres _ =>
    injection Option.some.inj hres with h1 h2
    injection h2 with h2 h3
    subst h2
    rw [hrows, hlease, hserves]
    rfl
  next hno => exact absurd hsh (hno _ _ _ _ rfl)

/-- A core takes the state that a slot gave, the pad's marks come with it, and the task has the shard running there (R84, R300). -/
def State.seated (s : State) (n key num : Nat) (c : Core) (sh : Shard) : State :=
  let s := (s.newPad n).setCore n c
  (if sh.keepsp then s.movePad (parkedPad key) n else s.newPad (parkedPad key)).setShard sh.task num (.running n)

theorem State.seated_frame (s : State) (n key num : Nat) (c : Core) (sh : Shard) :
    ∃ w l t, s.seated n key num c sh = { s.setCore n c with watched := w, lostMarks := l, tasks := t } := by
  unfold State.seated
  dsimp only
  split
  · exact ⟨_, _, _, rfl⟩
  · exact ⟨_, _, _, rfl⟩

/-- The runs of a slot are charged as they are read (R333). -/
def State.chargeRuns (s : State) (die ctx slot : Nat) (l : List (Nat × Nat)) : State :=
  l.foldl (fun s r => match s.range ctx .read (s.slotAddr ctx slot + r.1) r.2 with
    | .ok ps => s.chargeParts die ps
    | _ => s) s

theorem State.chargeRuns_onlyPorts (s : State) (die ctx slot : Nat) (l : List (Nat × Nat)) : s.OnlyPorts (s.chargeRuns die ctx slot l) := by
  refine .foldl (fun s r => ?_) l s
  split
  · exact s.chargeParts_onlyPorts die _
  · exact .refl s

/-- The steps of a resume from a slot that can be read: the core is seated, the reads are charged, and the resume goes on to its last steps. -/
theorem State.resume_eq {s : State} {key n : Nat} {p : Parked} {old c : Core} {h : Shard} {lease : Bool} (hold : s.core? n = some old)
    (hread : State.asRead { s with parked := Map.del s.parked key } p.shard.ctx (s.slotAddr p.shard.ctx p.slot) p = p)
    (hslot : State.readSlot { s with parked := Map.del s.parked key } p.shard.ctx (s.slotAddr p.shard.ctx p.slot) p = some (c, h, lease)) :
    let v : State := { s with parked := Map.del s.parked key }
    let sh : Shard := { h with reserve := 2, cycleBase := h.cycleBase + (s.now - p.parkedAt), dispatchedAt := s.now }
    ∃ w, (v.seated n key p.shard.num (v.resumedCore n p old c h lease) sh).OnlyPorts w ∧ s.resume key p n = State.finishResume { w with free := w.free + slotFree } n := by
  intro v sh
  have hread' : v.asRead p.shard.ctx (v.slotAddr p.shard.ctx p.slot) p = p := hread
  have hslot' : v.readSlot p.shard.ctx (v.slotAddr p.shard.ctx p.slot) p = some (c, h, lease) := hslot
  have hold' : v.core? n = some old := hold
  refine ⟨_, State.chargeRuns_onlyPorts _ (dieOf n) h.ctx p.slot (slotRuns (v.resumedCore n p old c h lease) sh), ?_⟩
  unfold State.resume
  dsimp only
  simp only [v] at hread' hslot' hold'
  rw [hread', hslot']
  dsimp only
  rw [hold']
  rfl

/-- A shard that resumes and waits for the lease that it held: its core stands as its slot gave it, and asks for the lease. -/
theorem State.resume_spec {s : State} {key n : Nat} {p : Parked} {old c : Core} {h : Shard} (hold : s.core? n = some old)
    (hread : State.asRead { s with parked := Map.del s.parked key } p.shard.ctx (s.slotAddr p.shard.ctx p.slot) p = p) (harray : (Map.look s.arrays (arrayOf n)).all Array.inService = true)
    (hslot : State.readSlot { s with parked := Map.del s.parked key } p.shard.ctx (s.slotAddr p.shard.ctx p.slot) p = some (c, h, true)) (hrows : c.holds = []) (hlease : s.hasLease n = false) :
    (s.resume key p n).mem = s.mem ∧ (s.resume key p n).host0 = s.host0 ∧ (s.resume key p n).host1 = s.host1
      ∧ (s.resume key p n).core? n = some (State.resumedCore { s with parked := Map.del s.parked key } n p old c h true)
      ∧ Map.look (s.resume key p n).parked key = none ∧ ((Map.look (s.resume key p n).arrays (arrayOf n)).all fun a => a.waiting.contains n) = true := by
  obtain ⟨w, hw, hresume⟩ := State.resume_eq hold hread hslot
  obtain ⟨watched, marks, tasks, hseated⟩ := State.seated_frame { s with parked := Map.del s.parked key } n key p.shard.num (State.resumedCore { s with parked := Map.del s.parked key } n p old c h true)
    { h with reserve := 2, cycleBase := h.cycleBase + (s.now - p.parkedAt), dispatchedAt := s.now }
  rw [hseated] at hw
  have hcore : State.core? { w with free := w.free + slotFree } n = some (State.resumedCore { s with parked := Map.del s.parked key } n p old c h true) := by
    rw [hw.eq]
    exact State.core?_setCore _ n _
  have harrays : w.arrays = s.arrays := by rw [hw.eq]; rfl
  have hlease' : State.hasLease { w with free := w.free + slotFree } n = false := by
    rw [hw.eq]
    exact hlease
  have hasks := State.finishResume_asks hcore rfl rfl (by rw [State.resumedCore, hrows]; rfl) hlease' (harrays ▸ harray)
  rw [hresume, hasks]
  refine ⟨?_, ?_, ?_, hcore, ?_, ?_⟩
  case refine_5 =>
    refine (congrArg (Option.all _) (Map.look_upd _ _ _)).trans ?_
    cases Map.look w.arrays (arrayOf n) with
    | none => rfl
    | some a => exact List.contains_iff_mem.mpr (mem_insertNat _ _)
  all_goals rw [hw.eq]
  · rfl
  · rfl
  · rfl
  · exact Map.look_del _ _

/-- A free core that chooses a parked shard resumes it. -/
theorem exec_shardResume_of {s : State} {p : Parked} {x : Cand} {key : Nat} (hp : Map.look s.parked key = some p) (hflag : s.args.flag = false) (hlingers : s.lingers s.args.core = false)
    (htakes : s.takes s.args.core (fun y => y.parked.isSome) = some x) (hx : x.parked = some key) : exec .shardResume s = .next (s.resume key p s.args.core) := by
  rw [exec_shardResume, execShardResume]
  rw [if_neg (by rw [hflag]; decide), if_neg (by rw [hlingers]; decide), htakes]
  dsimp only
  rw [hx, Option.bind_some, hp]
  rfl

/-- Settles O29: the victim's line is raised; a shard whose line is up is saved, starts again or runs on; and a parked one comes back on a core. -/
theorem preemptionSteps : Obligations.PreemptionSteps := by
  refine ⟨fun s t k n c sh ht hk hwants hvictim hc => exec_preempt_spec ht hk hwants hvictim hc, fun s c sh t => ?_, fun s p x old c h key => ?_⟩
  case refine_1 =>
    intro n hc hsh hrun ht restarts line
    have hdiscard : ∀ i, exec i s = .next (s.discard n sh) → restarts i := fun i hi => by
      obtain ⟨d, t', hd, hempty, ht', hshards⟩ := State.discard_spec hc ht
      exact ⟨_, d, t', hi, hd, hempty, ht', hshards⟩
    refine ⟨fun hhalt hcan hslot => ?_, fun slot hhalt hcan hslot _ _ hm hspec => ?_, fun hhalt => ?_⟩
    · obtain ⟨hcommitted, hyoung⟩ := (exec_shardPark_of hc hsh hrun hhalt hcan).2 hslot
      exact ⟨hcommitted, fun h => hdiscard _ (hyoung h)⟩
    · obtain ⟨d, hd, hempty, hrest⟩ := State.park_spec (slot := slot) hc hsh ht hm hspec
      exact ⟨_, d, (exec_shardPark_of hc hsh hrun hhalt hcan).1 slot hslot, hd, hempty, hrest⟩
    · obtain ⟨hcommitted, hyoung⟩ := exec_shardDiscard_of hc hsh hrun hhalt
      exact ⟨hcommitted, fun h => hdiscard _ (hyoung h)⟩
  case refine_2 =>
    intro n free hp
    refine ⟨fun hflag hidx hlarge => exec_shardResume_tooLarge hp hflag hidx hlarge, fun hflag hlingers htakes hx hold hread harray hslot hrows hlease => ?_⟩
    obtain ⟨hmem, h0, h1, hcore, hgone, hasks⟩ := State.resume_spec hold hread harray hslot hrows hlease
    exact ⟨_, _, { h with reserve := 2, cycleBase := h.cycleBase + (s.now - p.parkedAt), dispatchedAt := s.now }, exec_shardResume_of hp hflag hlingers htakes hx, hmem, h0, h1, hcore,
      rfl, rfl, rfl, rfl, rfl, rfl, rfl, rfl, rfl, hgone, hasks⟩

end Sys2Proof.Machine
end

section
/-! Plain loads and stores under a speculation (R161, R162). -/

namespace Sys2Proof.Machine

open Sys2Proof.Claim

/-- An access whose checks pass goes on with its target. -/
theorem checked_of_ok {s : State} {sh : Shard} {r : Req} {t : Target} (h : s.checkAccess s.curCore sh r = .ok t) (k : Target → Res) : checked s sh r k = k t := by
  rw [checked, checkedFor]
  rw [State.checkAccess] at h
  rw [h]

/-- The acquires of a stream that are still out hold no later access up under a speculation on their register (R162). -/
theorem Core.afterAcquire_of_own {c : Core} {x : Spec} (hspec : c.spec = some x) (hown : ∀ f ∈ c.cs.flight, f.ord.getLsbD 0 = true → f.kind ≠ .store → f.rd = x.reg) (s : State) (r : Res) :
    c.afterAcquire s r = r := by
  refine if_neg fun h => ?_
  obtain ⟨f, hf, hwaits⟩ := List.any_eq_true.mp h
  simp only [hspec, Option.all_some, Bool.and_eq_true, bne_iff_ne, ne_eq] at hwaits
  obtain ⟨⟨⟨-, hacq⟩, hkind⟩, hreg⟩ := hwaits
  exact hreg (hown f hf hacq hkind)

/-- An access that stays in the device enters the flight of its stream. -/
theorem State.fly_inside (s : State) (n : Nat) {f : Access} (h : f.target.outside = false) : s.fly n .c f = s.updCore n fun c => c.updStrm .c fun t => { t with flight := t.flight ++ [f] } := by
  unfold State.fly
  split
  next hp => rw [hp] at h; exact Bool.noConfusion h
  next => rfl

theorem Core.cacheDrop_setPending (c : Core) (t : Target) (rd : BitVec 6) : (c.setPending rd).cacheDrop t = { c.setPending rd with dcache := (c.cacheDrop t).dcache } := by
  unfold Core.setPending
  split <;> cases t <;> rfl

/-- The watched set and the loads of a speculation with one load more (R161). -/
def Spec.watching (x : Spec) (t : Target) (f : Access) : Spec :=
  { x with watched := if x.watched.contains t.line then x.watched else x.watched ++ [t.line], loads := x.loads ++ [f] }

theorem Spec.mem_watching (x : Spec) (t : Target) (f : Access) : t.line ∈ (x.watching t f).watched := by
  unfold Spec.watching
  split
  next h => exact List.contains_iff_mem.mp h
  next => exact List.mem_append_right _ (List.mem_singleton_self _)

/-- A speculative load that nothing holds up reads now: it is charged, its line is watched and leaves the data cache, and it carries its value in flight. -/
theorem specLoad_eq {s : State} {c : Core} {sh : Shard} {x : Spec} {r : Req} {t : Target} {f : Access} {rd : BitVec 6} (hrd : f.rd = rd.toNat) (htarget : f.target = t)
    (hrace : s.raceAt sh t r.size r.write r.data r.atomic = none) (hinside : t.outside = false) (hroom : x.watched.length < 32) (hclear : s.blocked s.curCore t = false)
    (hline : ∀ g ∈ c.cs.flight, g.kind ≠ .load → g.target.line ≠ t.line) :
    specLoad s c sh x r t f = .done (State.setCore { s.chargeAt s.curCore t r.size with order := s.order + 1 } s.curCore
      { c.setPending rd with
        spec := some (x.watching t f), dcache := (c.cacheDrop t).dcache
        cs := { c.cs with flight := c.cs.flight ++ [{ f with value := some (extend f.signed r.size (ofBytes (forwarded s x.stores t r.size))) }] } }) := by
  have hheld : ¬ (c.cs.flight.any fun g => g.kind != .load && sameLine g.target t) = true := by
    simp only [List.any_eq_true, Bool.and_eq_true, bne_iff_ne, sameLine, decide_eq_true_eq, not_exists, not_and]
    exact hline
  have hwatch : ¬ (x.watched.contains t.line = false ∧ 32 ≤ x.watched.length) := fun h => absurd h.2 (Nat.not_le.mpr hroom)
  have hpending : c.setPending (BitVec.ofNat 6 f.rd) = c.setPending rd := by rw [hrd, BitVec.ofNat_toNat, BitVec.setWidth_eq]
  unfold specLoad
  rw [if_neg (by rw [hinside]; decide), if_neg hheld, if_neg hwatch, if_neg (by rw [hclear]; decide), State.raceNow, hrace]
  dsimp only
  rw [State.fly_inside _ _ (by rw [htarget]; exact hinside), hpending, Core.cacheDrop_setPending]
  refine congrArg Res.done ((State.updCore_setCore { s.chargeAt s.curCore t r.size with order := s.order + 1 } _ _ _).trans (congrArg _ ?_))
  unfold Core.setPending
  split <;> rfl

section
variable {s : State} {c : Core} {sh : Shard} {x : Spec} {rd ra : BitVec 6} {scope : BitVec 2} {t : Target} (hruns : Runs s .c c sh) (hspec : c.spec = some x) (hfree : Free c [rd, ra])
  (hown : ∀ f ∈ c.cs.flight, f.ord.getLsbD 0 = true → f.kind ≠ .store → f.rd = x.reg)
include hruns hspec hfree hown

/-! ### Stores -/

/-- A plain store whose checks pass under a speculation: it is held with the others, while there is room for it. -/
theorem storeWord_speculative {off : BitVec 22} {size : Nat} (ht : s.checkAccess s.curCore sh (plainReq (c.sreg ra + off.signExtend 64) size true 0 scope) = .ok t) :
    (x.stores.length < 32 → ∃ f, storeWord rd ra 0 scope off size s = .next { on s (after { c with spec := some { x with stores := x.stores ++ [f] } } .c) with order := s.order + 1 }
      ∧ f.kind = .store ∧ f.target = t ∧ f.size = size ∧ f.data = (c.sreg rd).setWidth 512)
    ∧ (32 ≤ x.stores.length → storeWord rd ra 0 scope off size s = .next (s.waitOn .c .resolution)) := by
  obtain ⟨hc, hsh, -, hres⟩ := hruns
  have hword : storeWord rd ra 0 scope off size s = s.settle .c c sh (issueStore s c sh (plainReq (c.sreg ra + off.signExtend 64) size true 0 scope) t (c.sreg rd) .done) := by
    rw [storeWord, if_pos rfl, runSpec, runOn_eq _ hc hsh hres, Core.ready_eq s _ hfree]
    dsimp only
    rw [Core.afterAcquire_of_own hspec hown]
    exact congrArg (s.settle .c c sh) (checked_of_ok ht _)
  refine ⟨fun hroom => ⟨{ newAccess s c .store (plainReq (c.sreg ra + off.signExtend 64) size true 0 scope) t with data := (c.sreg rd).setWidth 512 }, ?_, rfl, rfl, rfl, rfl⟩, fun hfull => ?_⟩ <;> rw [hword, issueStore]
  · simp only [hspec, if_neg (Nat.not_le.mpr hroom), settle_done]
    rw [State.completeWord, State.updCore]
    simp [on, State.setCore, after]
  · simp only [hspec, if_pos hfull, settle_wait]

/-! ### Loads -/

/-- A plain load whose checks pass under a speculation: memory with the held stores forwarded, and its line watched. -/
theorem loadWord_speculative {off : BitVec 21} {size : Nat} {signed : Bool} (ht : s.checkAccess s.curCore sh (plainReq (c.sreg ra + off.signExtend 64) size false 0 scope) = .ok t)
    (hrace : s.raceAt sh t size false true false = none) (hinside : t.outside = false) (hroom : x.watched.length < 32) (hclear : s.blocked s.curCore t = false)
    (hline : ∀ g ∈ c.cs.flight, g.kind ≠ .load → g.target.line ≠ t.line) :
    ∃ u d f y, loadWord rd ra 0 scope off size signed s = .next u ∧ Touches s u s.curCore d ∧ Charged s u ∧ SameMemory s u ∧ d.spec = some y ∧ t.line ∈ y.watched
      ∧ y = { x with watched := y.watched, loads := y.loads }
      ∧ d = { c.setPending rd with spec := some y, dcache := (c.cacheDrop t).dcache, cs := sent c.cs f }
      ∧ f.rd = rd.toNat ∧ f.value = some (extend signed size (ofBytes (forwarded s x.stores t size))) := by
  obtain ⟨hc, hsh, -, hres⟩ := hruns
  have hword : ∃ f : Access, f.rd = rd.toNat ∧ f.target = t ∧ f.signed = signed
      ∧ loadWord rd ra 0 scope off size signed s = s.settle .c c sh (specLoad s c sh x (plainReq (c.sreg ra + off.signExtend 64) size false 0 scope) t f) := by
    refine ⟨{ newAccess s c .load (plainReq (c.sreg ra + off.signExtend 64) size false 0 scope) t with rd := rd.toNat, signed := signed }, rfl, rfl, rfl, ?_⟩
    rw [loadWord, if_pos rfl, runSpec, runOn_eq _ hc hsh hres, Core.ready_eq s _ hfree]
    dsimp only
    rw [Core.afterAcquire_of_own hspec hown]
    refine congrArg (s.settle .c c sh) ((checked_of_ok ht _).trans ?_)
    unfold issueLoad
    dsimp only
    rw [hspec]
    rfl
  obtain ⟨f, hrd, htarget, rfl, hword⟩ := hword
  obtain ⟨p, hp⟩ : ∃ p, s.chargeAt s.curCore t size = { s with ports := p } := ⟨_, (s.chargeAt_onlyPorts s.curCore t size).eq⟩
  have hload := specLoad_eq (r := plainReq (c.sreg ra + off.signExtend 64) size false 0 scope) (sh := sh) hrd htarget hrace hinside hroom hclear hline
  rw [show (plainReq (c.sreg ra + off.signExtend 64) size false 0 scope).size = size from rfl, hp] at hload
  rw [hword, hload, settle_done]
  generalize hd : ({ c.setPending rd with
      spec := some (x.watching t f), dcache := (c.cacheDrop t).dcache
      cs := { c.cs with flight := c.cs.flight ++ [{ f with value := some (extend f.signed size (ofBytes (forwarded s x.stores t size))) }] } } : Core) = d
  have hdone : (State.setCore { s with ports := p, order := s.order + 1 } s.curCore d).completeWord .c = State.setCore { s with ports := p, order := s.order + 1 } s.curCore (after d .c) :=
    State.completeWord_put { s with ports := p, order := s.order + 1 } d .c
  have hpad : d.pad = c.pad := by
    rw [← hd]
    exact c.setPending_pad rd
  rw [hdone]
  refine ⟨_, after d .c, { f with value := some (extend f.signed size (ofBytes (forwarded s x.stores t size))) }, x.watching t f, rfl, ⟨State.core?_setCore _ _ _, fun m hm => ?_⟩, rfl, ?_,
    by rw [← hd]; rfl, x.mem_watching t f, rfl, by rw [← hd]; rfl, hrd, rfl⟩
  · exact congrArg _ (State.core?_setCore_ne _ _ hm)
  · refine fun y k => State.readTarget_congr (s := s) ?_ ?_ ?_ (fun m => ?_) y k
    · rfl
    · rfl
    · rfl
    · by_cases hm : m = s.curCore
      · subst hm
        rw [State.core?_setCore, hc]
        exact congrArg some hpad
      · exact congrArg _ (State.core?_setCore_ne _ _ hm)

end

/-- Settles O16: the plain stores and loads of a speculation, each through the one word that all its sizes share. -/
theorem speculativeAccesses : Obligations.SpeculativeAccesses := by
  intro s c sh x rd ra scope t hruns hspec hfree hown
  constructor
  · intro off e he ht
    simp only [List.mem_cons, List.not_mem_nil, or_false] at he
    rcases he with rfl | rfl | rfl | rfl <;> exact storeWord_speculative hruns hspec hfree hown ht
  · intro off e he ht hrace hinside hroom hclear hline
    simp only [List.mem_cons, List.not_mem_nil, or_false] at he
    rcases he with rfl | rfl | rfl | rfl | rfl | rfl | rfl <;> exact loadWord_speculative hruns hspec hfree hown ht hrace hinside hroom hclear hline

end Sys2Proof.Machine
end

section
/-! FENCE and PUBLISH: the accesses they wait for, and their effect (R101, R102, R179, R180, R412). -/

namespace Sys2Proof.Machine

open Sys2Proof.Claim

/-! ### Steps on one core -/

/-- One core stands as given and every other as before, and outside the cores only the race detector has moved. -/
structure State.Sets (s u : State) (n : Nat) (d : Core) : Prop where
  quiet : Quiet s u
  core : u.core? n = some d
  others : ∀ m, m ≠ n → u.core? m = s.core? m

/-- A shard with no region open, or none at all, has none to end. -/
theorem Core.endRegion_of_none {c : Core} (h : c.shard.bind Shard.region = none) : c.endRegion = c := by
  have hsame : (c.shard.map fun x => { x with region := none }) = c.shard := by
    cases hshard : c.shard with
    | none => rfl
    | some x =>
      rw [hshard, Option.bind_some] at h
      rw [Option.map_some, ← h]
  rw [Core.endRegion, hsame]

namespace State.Sets

variable {s u : State} {n : Nat} {c d : Core}

theorem refl (hc : s.core? n = some c) : s.Sets s n c := ⟨rfl, hc, fun _ _ => rfl⟩

theorem updCore (h : s.Sets u n d) (f : Core → Core) : s.Sets (u.updCore n f) n (f d) where
  quiet := by rw [Quiet, h.quiet]; rfl
  core := by rw [State.core?_updCore, h.core]; rfl
  others m hm := (State.core?_updCore_ne u f hm).trans (h.others m hm)

theorem closeRegion (h : s.Sets u n d) (k : Nat) : s.Sets (u.closeRegion k) n d where
  quiet := by rw [Quiet, h.quiet]; rfl
  core := h.core
  others := h.others

theorem curCore (h : s.Sets u n d) : u.curCore = s.curCore := by rw [h.quiet]

/-- A synchronising operation leaves the core's shard without a region (R105). -/
theorem syncPoint (h : s.Sets u n d) : s.Sets (u.syncPoint n) n d.endRegion := by
  unfold State.syncPoint
  split
  next hnone =>
    rw [h.core, Option.bind_some] at hnone
    rw [Core.endRegion_of_none hnone]
    exact h
  next k _ => exact (h.updCore Core.endRegion).closeRegion k

theorem completeWord (h : s.Sets u n d) (hn : s.curCore = n) : s.Sets (u.completeWord .c) n (after d .c) := by
  rw [State.completeWord, h.curCore, hn]
  exact h.updCore _

theorem touches (h : s.Sets u n d) : Touches s u n d := ⟨h.core, fun m hm => congrArg _ (h.others m hm)⟩

/-- Memory is as before, the core's own scratchpad being so. -/
theorem sameMemory (h : s.Sets u n d) (hc : s.core? n = some c) (hpad : d.pad = c.pad) : SameMemory s u := by
  refine fun t k => State.readTarget_congr (by rw [h.quiet]) (by rw [h.quiet]) (by rw [h.quiet]) (fun m => ?_) t k
  by_cases hm : m = n
  · rw [hm, h.core, hc]
    exact congrArg some hpad
  · rw [h.others m hm]

end State.Sets

/-! ### Flushing reads that failed (R412) -/

/-- The stores of a core whose flushing read has failed are gone. -/
def Core.dropFailed (c : Core) : Core :=
  { c with
    cs := { c.cs with flight := c.cs.flight.filter fun f => !flushFailed f }
    as := { c.as with flight := c.as.flight.filter fun f => !flushFailed f } }

theorem State.dropFailed_eq (s : State) (n : Nat) : s.dropFailed n = s.updCore n Core.dropFailed := rfl

theorem Core.dropFailed_flushed (c : Core) : Flushed c.dropFailed := by
  intro f hf
  rcases List.mem_append.mp hf with hf | hf <;> exact Bool.not_eq_true' _ ▸ (List.mem_filter.mp hf).2

theorem Core.dropFailed_of_flushed {c : Core} (h : Flushed c) : c.dropFailed = c := by
  have keep {l : List Access} (hl : ∀ f ∈ l, flushFailed f = false) : (l.filter fun f => !flushFailed f) = l :=
    List.filter_eq_self.mpr fun f hf => by rw [hl f hf]; rfl
  rw [Core.dropFailed, keep fun f hf => h f (List.mem_append_left _ hf), keep fun f hf => h f (List.mem_append_right _ hf)]

theorem flushed_iff (c : Core) : Flushed c ↔ (c.cs.flight ++ c.as.flight).any flushFailed = false := by
  rw [List.any_eq_false, Flushed]
  exact forall₂_congr fun f _ => by rw [Bool.not_eq_true]

theorem State.hostErr_frame (s : State) (sh : Shard) (p : Nat) : ∃ k b, s.hostErr sh p = { s with counters := k, bus := b } := ⟨_, _, rfl⟩

theorem State.hostErrs_frame (sh : Shard) (l : List Nat) : ∀ s : State, ∃ k b, l.foldl (fun s p => s.hostErr sh p) s = { s with counters := k, bus := b } := by
  induction l with
  | nil => exact fun s => ⟨_, _, rfl⟩
  | cons p l ih =>
    intro s
    obtain ⟨k, b, h⟩ := s.hostErr_frame sh p
    obtain ⟨k', b', h'⟩ := ih (s.hostErr sh p)
    exact ⟨k', b', h'.trans (by rw [h])⟩

section
variable {s : State} {n : Nat} {c : Core} (hc : s.core? n = some c)
include hc

/-- An operation of system scope drops the stores whose flushing read has failed, with a record for each port. -/
theorem State.flushedOut_system (sh : Shard) : ∃ k b, State.Sets { s with counters := k, bus := b } (s.flushedOut n c sh 3) n c.dropFailed := by
  obtain ⟨k, b, h⟩ := State.hostErrs_frame sh (((c.cs.flight ++ c.as.flight).filter flushFailed).map fun f => f.target.port).eraseDups (s.dropFailed n)
  refine ⟨k, b, ?_⟩
  rw [State.flushedOut, if_pos rfl, h]
  exact (State.Sets.refl (s := { s with counters := k, bus := b }) hc).updCore Core.dropFailed

/-- With no such store, it changes nothing. -/
theorem State.flushedOut_flushed (sh : Shard) {scope : Nat} (h : scope = 3 → Flushed c) :
    s.Sets (s.flushedOut n c sh scope) n c ∧ (s.flushedOut n c sh scope).order = s.order := by
  unfold State.flushedOut
  split
  next hscope =>
    have hnone : (c.cs.flight ++ c.as.flight).filter flushFailed = [] := List.filter_eq_nil_iff.mpr fun f hf => by rw [h hscope f hf]; decide
    rw [hnone]
    have hdrop := (State.Sets.refl hc).updCore Core.dropFailed
    rw [Core.dropFailed_of_flushed (h hscope)] at hdrop
    exact ⟨hdrop, rfl⟩
  next => exact ⟨.refl hc, rfl⟩

end

/-! ### FENCE (R100, R101, R179) -/

/-- A core behind the acquire side of a fence: its data cache is empty, and what was issued so far may happen-before what follows (R90). -/
def Core.refreshed (c : Core) (p : Prop) [Decidable p] (o : Nat) : Core := { c with dcache := if p then [] else c.dcache, heard := if p then o else c.heard }

/-- The state behind the acquire side of a fence. -/
def State.refreshed (s : State) (n : Nat) (p : Prop) [Decidable p] : State :=
  if p then s.updCore n fun c => { c with dcache := [], heard := s.order } else s

theorem State.Sets.refreshed {s u : State} {n : Nat} {d : Core} (h : s.Sets u n d) (p : Prop) [Decidable p] : s.Sets (u.refreshed n p) n (d.refreshed p u.order) := by
  unfold State.refreshed Core.refreshed
  split
  next => exact h.updCore _
  next => exact h

/-- What a FENCE leaves of its core, once its flushing reads are settled. -/
def Core.fencedOff (c : Core) (p : Prop) [Decidable p] (o : Nat) : Core := after (c.refreshed p o).endRegion .c

section
variable {s : State} {c : Core} {sh : Shard} {ord scope : BitVec 2} (hruns : RunsPlain s .c c sh)
include hruns

/-- A FENCE settles what its conditions answer. -/
theorem exec_fence_eq : exec (.fence ord scope) s = s.settle .c c sh (
    if ¬c.cs.loadsDone then .wait s .acquire
    else if ¬c.fenced ord scope ∨ ¬s.heardOut s.curCore c scope.toNat then .wait s .stores
    else .done (((s.flushedOut s.curCore c sh scope.toNat).refreshed s.curCore (ord ≠ 2 ∧ scope ≠ 0)).syncPoint s.curCore)) := by
  obtain ⟨⟨hc, hsh, -, -⟩, hspec⟩ := hruns
  rw [exec_fence, execFence, runC_eq _ hc hsh (hspec rfl)]
  rfl

section
variable (hloads : c.cs.loadsDone = true) (hfenced : c.fenced ord scope = true) (hheard : s.heardOut s.curCore c scope.toNat = true)
include hloads hfenced hheard

/-- A FENCE whose accesses are done completes, from the state in which failed flushing reads are settled. -/
theorem exec_fence_done {b : State} {d : Core} (hcur : b.curCore = s.curCore) (hset : b.Sets (s.flushedOut s.curCore c sh scope.toNat) s.curCore d) :
    ∃ u, exec (.fence ord scope) s = .next u ∧ b.Sets u s.curCore (d.fencedOff (ord ≠ 2 ∧ scope ≠ 0) (s.flushedOut s.curCore c sh scope.toNat).order) := by
  refine ⟨_, ?_, (hset.refreshed (ord ≠ 2 ∧ scope ≠ 0)).syncPoint.completeWord hcur⟩
  rw [exec_fence_eq hruns, if_neg (by rw [hloads]; decide), if_neg (by rw [hfenced, hheard]; decide), settle_done]

/-- Without failed flushing reads, a FENCE has its effect on its core, and no other. -/
theorem exec_fence_flushed (hflushed : scope = 3 → Flushed c) :
    ∃ u, exec (.fence ord scope) s = .next u ∧ Quiet s u ∧ SameMemory s u ∧ Touches s u s.curCore (c.fencedOff (ord ≠ 2 ∧ scope ≠ 0) s.order) := by
  have hc := hruns.1.1
  obtain ⟨hset, horder⟩ := State.flushedOut_flushed hc sh (scope := scope.toNat) fun h => hflushed (BitVec.eq_of_toNat_eq h)
  obtain ⟨u, hu, hset⟩ := exec_fence_done hruns hloads hfenced hheard rfl hset
  rw [horder] at hset
  exact ⟨u, hu, hset.quiet, hset.sameMemory hc rfl, hset.touches⟩

/-- At system scope it completes although flushing reads have failed, and those are gone (R412). -/
theorem exec_fence_system (hscope : scope = 3) :
    ∃ u o, exec (.fence ord scope) s = .next u ∧ u.core? s.curCore = some (c.dropFailed.fencedOff (ord ≠ 2 ∧ scope ≠ 0) o) ∧ SameMemory s u := by
  have hc := hruns.1.1
  obtain ⟨k, b, hset⟩ := State.flushedOut_system hc sh
  have hthree : scope.toNat = 3 := by rw [hscope]; rfl
  rw [← hthree] at hset
  obtain ⟨u, hu, hset⟩ := exec_fence_done hruns hloads hfenced hheard (b := { s with counters := k, bus := b }) rfl hset
  exact ⟨u, _, hu, hset.core, fun t j => (State.Sets.sameMemory (s := { s with counters := k, bus := b }) hset hc rfl t j).trans (sameMemory_of_eq rfl rfl rfl rfl t j)⟩

end

end

theorem Core.fencedOff_eq {c : Core} {sh : Shard} (hsh : c.shard = some sh) (p : Prop) [Decidable p] (o : Nat) :
    c.fencedOff p o = { c with shard := some { sh with region := none }, cs := (c.cs.complete c.cs.pc).count, dcache := if p then [] else c.dcache, heard := if p then o else c.heard } := by
  rw [Core.fencedOff, Core.refreshed, Core.endRegion]
  dsimp only
  rw [hsh]
  rfl

theorem Core.kept_fencedOff_dropFailed (c : Core) (p : Prop) [Decidable p] (o : Nat) : Kept c (c.dropFailed.fencedOff p o) := rfl

theorem Core.mem_flight_dropFailed (c : Core) (f : Access) : f ∈ c.dropFailed.cs.flight ↔ f ∈ c.cs.flight ∧ flushFailed f = false := by
  rw [Core.dropFailed, List.mem_filter, Bool.not_eq_true']

/-! ### PUBLISH (R102, R180) -/

/-- The count of a window is up by 1, and posted to its host. -/
def State.published (s : State) (ctx v : Nat) (p : Pub) : State :=
  let s := { s with ctxs := Map.upd s.ctxs ctx fun x => { x with pubs := Map.put x.pubs v { p with count := p.count + 1 } } }
  s.setHostMem p.port (Memory.setN (s.hostMem p.port) p.caddr (toBytes 8 (p.count + 1).toNat))

theorem State.setHostMem_frame (s : State) (port : Nat) (m : List Host.Cell) : ∃ m0 m1, s.setHostMem port m = { s with host0 := m0, host1 := m1 } := by
  unfold State.setHostMem
  split <;> exact ⟨_, _, rfl⟩

/-- Apart from the hosts' memory, publishing changes the counts alone. -/
theorem State.published_frame (s : State) (ctx v : Nat) (p : Pub) : ∃ m0 m1, s.published ctx v p =
    { s with host0 := m0, host1 := m1, ctxs := Map.upd s.ctxs ctx fun x => { x with pubs := Map.put x.pubs v { p with count := p.count + 1 } } } :=
  State.setHostMem_frame _ _ _

/-- Memory behind a publication reads as behind a write of the count. -/
theorem State.readTarget_published (s : State) (ctx v : Nat) (p : Pub) (t : Target) (n : Nat) :
    (s.published ctx v p).readTarget t n = (s.writeTarget (.host p.port p.caddr) (toBytes 8 (p.count + 1).toNat)).readTarget t n := by
  have hpads (k : Nat) : (s.core? k).map Core.pad = ((s.spoil (.host p.port p.caddr) 8).core? k).map Core.pad :=
    (map_core?_of_unspeculated (fun _ => rfl) (s.core?_spoil _ _ k)).symm
  rw [s.writeTarget_host, length_toBytes]
  unfold State.published State.setHostMem
  split
  all_goals
    refine State.readTarget_congr ?_ ?_ ?_ (fun k => ?_) t n
    · rfl
    · rfl
    · rfl
    · exact hpads k

/-- An impure shard that commits is committed, and its task with it; nothing else changes (R37). -/
theorem State.Sets.commit {s u : State} {n : Nat} {c : Core} {sh : Shard} (hset : s.Sets u n c) (hsh : c.shard = some sh) (hpure : sh.pure = false) :
    ∃ ts h, State.Sets { s with tasks := ts } (u.commit n) n { c with shard := some h } ∧ h.committed = true := by
  unfold State.commit
  rw [hset.core, Option.bind_some, hsh]
  dsimp only
  split
  next hdone =>
    have hcommitted : sh.committed = true := hdone.resolve_left (by rw [hpure]; decide)
    exact ⟨s.tasks, sh, hsh ▸ hset, hcommitted⟩
  next =>
    have hnew := hset.updCore fun c => { c with shard := some { sh with committed := true } }
    refine ⟨Map.upd u.tasks sh.task fun t => { t with committed := true }, { sh with committed := true }, ⟨?_, hnew.core, hnew.others⟩, rfl⟩
    exact congrArg (fun w : State => { w with tasks := Map.upd u.tasks sh.task fun t => { t with committed := true } }) hnew.quiet

/-- A core whose word has written a register and committed its shard, as a synchronising operation leaves it. -/
def Core.counted (c : Core) (rd : BitVec 6) (v : Word) (h : Shard) : Core := after (Core.endRegion { c.setSreg rd v with shard := some h }) .c

theorem Core.counted_eq (c : Core) (rd : BitVec 6) (v : Word) (h : Shard) :
    c.counted rd v h = { c.setSreg rd v with shard := some { h with region := none }, cs := (c.cs.complete c.cs.pc).count } := by
  unfold Core.counted Core.setSreg
  split <;> rfl

theorem Core.kept_counted (c : Core) (rd : BitVec 6) (v : Word) (h : Shard) : Kept c (c.counted rd v h) := by
  rw [Core.counted_eq]
  unfold Core.setSreg
  split <;> rfl

theorem Core.counted_pad (c : Core) (rd : BitVec 6) (v : Word) (h : Shard) : (c.counted rd v h).pad = c.pad := by
  rw [Core.counted_eq]
  exact c.setSreg_pad rd v

/-- An operation that waits for acquires goes on with none outstanding and no speculation open. -/
theorem Core.afterAcquire_of_none {c : Core} (hacq : c.cs.acquiring = false) (s : State) (r : Res) : c.afterAcquire s r = r := by
  refine if_neg fun h => ?_
  obtain ⟨f, hf, hwaits⟩ := List.any_eq_true.mp h
  exact List.any_eq_false.mp hacq f hf (Bool.and_eq_true_iff.mp hwaits).1

/-- Outside a speculation a trapping word takes its trap. -/
theorem State.trapWord_of_plain {c : Core} (hspec : c.spec = none) (s : State) (σ : Strm) (code : BitVec 8) (tval : Word) :
    s.trapWord σ c code tval = s.takeTrap s.curCore σ code tval :=
  if_neg fun h => by rw [Core.speculating, hspec] at h; exact Bool.noConfusion h.2

/-- What PUBLISH waits for: the core's accesses, those it has joined, and those of other cores that happen-before it. -/
def PublishReady (s : State) (c : Core) : Prop :=
  c.cs.loadsDone = true ∧ c.cs.allZero = true ∧ s.heardOut s.curCore c 3 = true ∧ ∀ f ∈ c.as.flight, f.kind = .store → f.target.outside = true → f.held = true

section
variable {s : State} {c : Core} {sh : Shard} {rd ra : BitVec 6} {x : Ctx} {p : Pub} (hruns : RunsPlain s .c c sh) (hfree : Free c [rd, ra]) (hacq : c.cs.acquiring = false)
  (hpure : sh.pure = false) (hv : (c.sreg ra).toNat < 4096) (hx : Map.look s.ctxs sh.ctx = some x) (hp : Map.look x.pubs (c.sreg ra).toNat = some p) (hbound : p.bound = true)
include hruns hfree hacq hpure hv hx hp hbound

/-- A PUBLISH of a bound window settles what its conditions answer. -/
theorem exec_publish_eq : exec (.publish rd ra) s = s.settle .c c sh (
    if (c.cs.flight ++ c.as.flight).any flushFailed then .whole ((s.dropFailed s.curCore).takeTrap s.curCore .c 12 (c.sreg ra))
    else if ¬c.cs.loadsDone then .wait s .acquire
    else if ¬c.cs.allZero ∨ c.as.flight.any (fun f => f.kind == .store && f.target.outside && !f.held) ∨ ¬s.heardOut s.curCore c 3 then .wait s .stores
    else if (Map.look s.hostDown p.port).isSome then .trap 12 (c.sreg ra)
    else if ¬s.hubOk (dieOf s.curCore) then .wait s .stores
    else .done ((((s.published sh.ctx (c.sreg ra).toNat p).updCore s.curCore fun c => c.setSreg rd (p.count + 1)).commit s.curCore).syncPoint s.curCore)) := by
  obtain ⟨⟨hc, hsh, -, -⟩, hspec⟩ := hruns
  have hslot : (c.sreg ra).toNat % 4096 = (c.sreg ra).toNat := Nat.mod_eq_of_lt hv
  have hok : ¬ ((c.sreg ra).toNat / 4096 ≠ 0 ∨ ¬p.bound) := by rw [Nat.div_eq_of_lt hv, hbound]; decide
  rw [exec_publish, execPublish, runC_eq _ hc hsh (hspec rfl), Core.ready_eq s _ hfree]
  dsimp only
  rw [hslot, hx, Option.bind_some, hp]
  dsimp only
  rw [if_neg hok, if_neg (by rw [hpure]; decide), Core.afterAcquire_of_none hacq]
  rfl

theorem exec_publish_failed (hfailed : ¬Flushed c) : exec (.publish rd ra) s = .next ((s.dropFailed s.curCore).takeTrap s.curCore .c 12 (c.sreg ra)) := by
  rw [exec_publish_eq hruns hfree hacq hpure hv hx hp hbound, if_pos (by rwa [flushed_iff, Bool.not_eq_false] at hfailed), settle_whole]

section
variable (hflushed : Flushed c) (hready : PublishReady s c)
include hflushed hready

/-- Nothing holds up a PUBLISH whose stores have performed, but its port and its die's hub. -/
theorem exec_publish_ready : exec (.publish rd ra) s = s.settle .c c sh (
    if (Map.look s.hostDown p.port).isSome then .trap 12 (c.sreg ra)
    else if ¬s.hubOk (dieOf s.curCore) then .wait s .stores
    else .done ((((s.published sh.ctx (c.sreg ra).toNat p).updCore s.curCore fun c => c.setSreg rd (p.count + 1)).commit s.curCore).syncPoint s.curCore)) := by
  obtain ⟨hloads, hzero, hheard, hastream⟩ := hready
  have hout : (c.as.flight.any fun f => f.kind == .store && f.target.outside && !f.held) = false := by
    simp only [List.any_eq_false, Bool.and_eq_true, beq_iff_eq, Bool.not_eq_true', not_and, Bool.not_eq_false]
    exact fun f hf h => hastream f hf h.1 h.2
  rw [exec_publish_eq hruns hfree hacq hpure hv hx hp hbound, if_neg (by rw [(flushed_iff c).mp hflushed]; decide), if_neg (by rw [hloads]; decide),
    if_neg (by rw [hzero, hout, hheard]; decide)]

theorem exec_publish_portDown (hdown : Map.look s.hostDown p.port ≠ none) : exec (.publish rd ra) s = .next (s.takeTrap s.curCore .c 12 (c.sreg ra)) := by
  rw [exec_publish_ready hruns hfree hacq hpure hv hx hp hbound hflushed hready, if_pos (Option.isSome_iff_ne_none.mpr hdown), settle_trap,
    State.trapWord_of_plain (hruns.2 rfl)]

variable (hport : Map.look s.hostDown p.port = none)
include hport

theorem exec_publish_hubDown (hhub : s.hubOk (dieOf s.curCore) = false) : exec (.publish rd ra) s = .next (s.waitOn .c .stores) := by
  rw [exec_publish_ready hruns hfree hacq hpure hv hx hp hbound hflushed hready, if_neg (by rw [hport]; decide), if_pos (by rw [hhub]; decide), settle_wait]

/-- A PUBLISH that completes counts its window up and posts the count; its core has the count in a register, and its shard is committed. -/
theorem exec_publish_done (hhub : s.hubOk (dieOf s.curCore) = true) :
    ∃ u ts h, exec (.publish rd ra) s = .next u ∧ h.committed = true
      ∧ State.Sets { s.published sh.ctx (c.sreg ra).toNat p with tasks := ts } u s.curCore (c.counted rd (p.count + 1) h) := by
  have hexec := exec_publish_ready hruns hfree hacq hpure hv hx hp hbound hflushed hready
  rw [if_neg (by rw [hport]; decide), if_neg (by rw [hhub]; decide), settle_done] at hexec
  obtain ⟨⟨hc, hsh, -, -⟩, -⟩ := hruns
  obtain ⟨m0, m1, hv⟩ := s.published_frame sh.ctx (c.sreg ra).toNat p
  have hcore : (s.published sh.ctx (c.sreg ra).toNat p).core? s.curCore = some c := by rw [hv]; exact hc
  obtain ⟨ts, h, hset, hcommitted⟩ := ((State.Sets.refl hcore).updCore fun c => c.setSreg rd (p.count + 1)).commit ((c.setSreg_shard rd (p.count + 1)).trans hsh) hpure
  exact ⟨_, ts, h, hexec, hcommitted, hset.syncPoint.completeWord (by rw [hv])⟩

/-- What a completed PUBLISH leaves: the count in its window, at the host, and in a register of its core. -/
theorem exec_publish_counts (hhub : s.hubOk (dieOf s.curCore) = true) :
    ∃ u d, exec (.publish rd ra) s = .next u ∧ u.core? s.curCore = some d ∧ d.sregs = (c.setSreg rd (p.count + 1)).sregs
      ∧ d.cs = (c.cs.complete c.cs.pc).count ∧ Kept c d ∧ d.gran = c.gran ∧ d.shard.any (·.committed) = true
      ∧ (∃ y, Map.look u.ctxs sh.ctx = some y ∧ Map.look y.pubs (c.sreg ra).toNat = some { p with count := p.count + 1 })
      ∧ u.readTarget (.host p.port p.caddr) 8 = toBytes 8 (p.count + 1).toNat ∧ SameBut s u (.host p.port p.caddr) 8 := by
  obtain ⟨u, ts, h, hexec, hcommitted, hset⟩ := exec_publish_done hruns hfree hacq hpure hv hx hp hbound hflushed hready hport hhub
  obtain ⟨m0, m1, hframe⟩ := s.published_frame sh.ctx (c.sreg ra).toNat p
  have hcore : (s.published sh.ctx (c.sreg ra).toNat p).core? s.curCore = some c := by rw [hframe]; exact hruns.1.1
  have hmem (t : Target) (n : Nat) : u.readTarget t n = (s.writeTarget (.host p.port p.caddr) (toBytes 8 (p.count + 1).toNat)).readTarget t n :=
    (hset.sameMemory hcore (c.counted_pad rd _ h) t n).trans (s.readTarget_published sh.ctx _ p t n)
  have hctxs : Map.look u.ctxs sh.ctx = some { x with pubs := Map.put x.pubs (c.sreg ra).toNat { p with count := p.count + 1 } } := by
    rw [hset.quiet, hframe]
    exact (Map.look_upd _ _ _).trans (congrArg (Option.map _) hx)
  refine ⟨u, _, hexec, hset.core, ?_, ?_, c.kept_counted rd _ h, ?_, ?_, ⟨_, hctxs, Map.look_put _ _ _⟩, ?_, fun t ht => ?_⟩
  · rw [Core.counted_eq]
  · rw [Core.counted_eq]
  · rw [Core.counted_eq]
    exact c.setSreg_gran rd _
  · rw [Core.counted_eq]
    exact hcommitted
  · rw [hmem]
    exact s.readTarget_writeTarget_host _ _ _ (length_toBytes _ _)
  · rw [hmem]
    exact sameBut_writeTarget_host s _ _ _ (length_toBytes _ _) t ht

end

end

/-- Settles O19: a FENCE through the core it leaves with its flushing reads settled, a PUBLISH through the outcomes of its conditions in turn. -/
theorem fenceAndPublish : Obligations.FenceAndPublish := by
  intro s c sh rd ra ord scope hruns done fetches
  have hsh := hruns.1.2.1
  refine ⟨fun ⟨hloads, hfenced, hheard⟩ hflushed => ?_, fun ⟨hloads, hfenced, hheard⟩ hscope => ?_, fun hloads => ?_, fun hloads hwait => ?_,
    fun x p hfree hacq hpure hv hx hp hbound => ⟨fun hflushed hready hport hhub => ?_, fun hflushed hready hdown => ?_, fun hflushed hready hport hhub => ?_, fun hfailed => ?_⟩⟩
  · have hfence := exec_fence_flushed hruns hloads hfenced hheard hflushed
    rwa [Core.fencedOff_eq hsh] at hfence
  · obtain ⟨u, o, hu, hcore, hmem⟩ := exec_fence_system hruns hloads hfenced hheard hscope
    exact ⟨u, _, hu, hcore, c.dropFailed_flushed, hmem, c.kept_fencedOff_dropFailed _ o, rfl, rfl, rfl, c.mem_flight_dropFailed⟩
  · rw [exec_fence_eq hruns, if_pos (by rw [hloads]; decide), settle_wait]
  · have hheld : ¬ c.fenced ord scope ∨ ¬ s.heardOut s.curCore c scope.toNat := by simpa only [Bool.not_eq_true] using hwait
    rw [exec_fence_eq hruns, if_neg (by rw [hloads]; decide), if_pos hheld, settle_wait]
  · exact exec_publish_counts hruns hfree hacq hpure hv hx hp hbound hflushed hready hport hhub
  · exact exec_publish_portDown hruns hfree hacq hpure hv hx hp hbound hflushed hready hdown
  · exact exec_publish_hubDown hruns hfree hacq hpure hv hx hp hbound hflushed hready hport hhub
  · exact exec_publish_failed hruns hfree hacq hpure hv hx hp hbound hfailed

end Sys2Proof.Machine
end

section
/-! The words common to the three streams (R38, R58, R167 to R171, R191): each in the stream that executes it. -/

namespace Sys2Proof.Machine

open Sys2Proof.Claim

/-- A completed word of any stream, in a state that differs from the one before it by one core. -/
theorem State.Sets.completeWordOf {s u : State} {n : Nat} {d : Core} (h : s.Sets u n d) (hn : s.curCore = n) (σ : Strm) : s.Sets (u.completeWord σ) n (after d σ) := by
  rw [State.completeWord, h.curCore, hn]
  exact h.updCore _

theorem Core.tokenCount_tokenAdd (c : Core) (k : Nat) : (c.tokenAdd k).tokenCount k = c.tokenCount k + 1 := Map.lookD_put ..

theorem Core.tokenCount_tokenTake (c : Core) (k : Nat) : (c.tokenTake k).tokenCount k = c.tokenCount k - 1 := Map.lookD_put ..

/-- A core behind a word that moved a token and closed the open region: its channel holds `n`, the stream stands behind the word, and its registers are as before. -/
structure Core.MovedToken (c d : Core) (σ : Strm) (k n : Nat) : Prop where
  count : d.tokenCount k = n
  sregs : d.sregs = c.sregs
  gran : d.gran = c.gran
  kept : Kept c d
  strm : d.strm σ = ((c.strm σ).complete (c.strm σ).pc).count
  pad : d.pad = c.pad

theorem Core.movedToken_of_tokens (c : Core) (σ : Strm) (k : Nat) (m : Map Nat) (l : BitVec 6) (j : Nat) :
    c.MovedToken (after (Core.endRegion { c with tokens := m, latches := l, joined := j }) σ) σ k (Map.lookD m k 0) := by
  cases σ <;> exact ⟨rfl, rfl, rfl, rfl, rfl, rfl⟩

/-- A word that only writes its core back. -/
theorem settle_done_put (s : State) (σ : Strm) (c d : Core) (sh : Shard) : s.settle σ c sh (.done (s.put d)) = .next (on s (after d σ)) := by
  rw [settle_done, State.completeWord_put]
  rfl

section
variable {s : State} {σ : Strm} {c : Core} {sh : Shard} (hruns : RunsPlain s σ c sh)
include hruns

/-- A word of every class runs on a core without a speculation, in the stream whose turn it is. -/
theorem runOn_curStrm (m : Core → Shard → Res) : runOn s.curStrm s m = s.settle σ c sh (m c sh) := by
  obtain ⟨⟨hc, hsh, hσ, hres⟩, -⟩ := hruns
  rw [hσ, runOn_eq m hc hsh hres]

theorem unspeculated_of_plain (r : Res) : unspeculated s c r = r := by
  obtain ⟨⟨-, -, hσ, -⟩, hspec⟩ := hruns
  refine if_neg fun ⟨hcs, hopen⟩ => ?_
  rw [Core.speculating, hspec (hσ ▸ hcs)] at hopen
  exact Bool.noConfusion hopen

/-- A word that only completes. -/
theorem settle_done_self : s.settle σ c sh (.done s) = .next (on s (after c σ)) := by
  rw [settle_done, State.completeWord_of_core? hruns.1.1]
  rfl

/-- A word that moves a token is a synchronising operation: it leaves the core with its channel changed, and memory as before. -/
theorem settle_token {k n : Nat} (m : Map Nat) (l : BitVec 6) (j : Nat) (hn : Map.lookD m k 0 = n) :
    ∃ t d, s.settle σ c sh (.done ((s.put { c with tokens := m, latches := l, joined := j }).syncPoint s.curCore)) = .next t ∧ t.core? s.curCore = some d
      ∧ c.MovedToken d σ k n ∧ SameMemory s t := by
  have hc := hruns.1.1
  have hput : s.Sets (s.put { c with tokens := m, latches := l, joined := j }) s.curCore { c with tokens := m, latches := l, joined := j } := by
    have h := (State.Sets.refl hc).updCore fun c => { c with tokens := m, latches := l, joined := j }
    rwa [State.updCore_of_core? hc] at h
  have hset := hput.syncPoint.completeWordOf rfl σ
  have hmoved := c.movedToken_of_tokens σ k m l j
  rw [hn] at hmoved
  exact ⟨_, _, settle_done .., hset.core, hmoved, hset.sameMemory hc hmoved.pad⟩

/-! ### TKPUSH and TKPOP (R58, R168, R209) -/

section
variable (k : BitVec 3) (hacq : (c.strm σ).acquiring = false)
include hacq

/-- A push that nothing precedes goes ahead, or waits for room in its channel. -/
theorem exec_tkpush_eq (hrel : (c.strm σ).released 0 = true) (hbehind : σ = .a → (c.as.flight.all fun f => !(f.rd == 255 && f.fn == k.toNat)) = true) :
    exec (.tkpush k) s = s.settle σ c sh (
      if 15 ≤ c.tokenCount k.toNat then .wait s (.token k.toNat) else .done ((s.put (c.tokenAdd k.toNat)).syncPoint s.curCore)) := by
  have hσ := hruns.1.2.2.1
  have hjoins : ¬ (s.curStrm = .a ∧ (¬(c.strm s.curStrm).released 0 ∨ ((c.strm s.curStrm).flight.any fun f => f.rd == 255 && f.fn == k.toNat) = true)) := by
    rw [hσ, hrel]
    rintro ⟨rfl, h | h⟩
    · exact h rfl
    · obtain ⟨f, hf, hmarks⟩ := List.any_eq_true.mp h
      have := List.all_eq_true.mp (hbehind rfl) f hf
      rw [hmarks] at this
      exact Bool.noConfusion this
  rw [exec_tkpush, execTkpush, runOn_curStrm hruns, unspeculated_of_plain hruns]
  dsimp only
  rw [if_neg hjoins, hσ, hacq, hrel, if_neg Bool.false_ne_true, if_neg (by decide)]

theorem exec_tkpop_eq :
    exec (.tkpop k) s = s.settle σ c sh (
      if c.tokenCount k.toNat = 0 then .wait s (.token k.toNat)
      else .done ((s.put { c with tokens := Map.put c.tokens k.toNat (c.tokenCount k.toNat - 1), joined := if σ = .c then s.order else c.joined }).syncPoint s.curCore)) := by
  have hσ := hruns.1.2.2.1
  rw [exec_tkpop, execTkpop, runOn_curStrm hruns, unspeculated_of_plain hruns, hσ, hacq, if_neg Bool.false_ne_true]
  by_cases h : σ = .c <;> simp only [h, if_true, if_false] <;> rfl

end

/-- A push of the A-stream that follows accesses still underway, or another such push, joins them in flight. -/
theorem exec_tkpush_joins (k : BitVec 3) (hσ : σ = .a) (h : c.as.released 0 = false ∨ ∃ f ∈ c.as.flight, f.rd = 255 ∧ f.fn = k.toNat) :
    ∃ f : Access, f.marker = true ∧ f.fn = k.toNat ∧ exec (.tkpush k) s = .next (on s (after { c with as := { c.as with flight := c.as.flight ++ [f] } } .a)) := by
  subst hσ
  have hcur := hruns.1.2.2.1
  have hjoins : s.curStrm = .a ∧ (¬(c.strm s.curStrm).released 0 = true ∨ ((c.strm s.curStrm).flight.any fun f => f.rd == 255 && f.fn == k.toNat) = true) := by
    rw [hcur]
    refine ⟨rfl, h.imp (Bool.eq_false_iff.mp ·) fun ⟨f, hf, hrd, hfn⟩ => List.any_eq_true.mpr ⟨f, hf, ?_⟩⟩
    simp [hrd, hfn]
  refine ⟨{ s.issued c .a .load { va := 0, size := 0, write := false, data := true, atomic := false, ord := 0, scope := 0, fn := 0, deviceOnly := false } (.pad s.curCore 0) with
    rd := 255, fn := k.toNat, value := some 0 }, rfl, rfl, ?_⟩
  rw [exec_tkpush, execTkpush, runOn_curStrm hruns, unspeculated_of_plain hruns]
  dsimp only
  rw [if_pos hjoins, settle_done_put]

/-! ### HALT and SHALT (R38, R169, R191) -/

/-- HALT, and SHALT in the C-stream, end the stream when its shard may retire. -/
theorem exec_halt_eq (hσ : σ = .c) {i : Instr} (hi : i ∈ [Instr.halt, .shalt]) : exec i s = s.settle .c c sh (haltWord s c) := by
  subst hσ
  have hspec := hruns.2 rfl
  obtain ⟨hc, hsh, hcur, -⟩ := hruns.1
  simp only [List.mem_cons, List.not_mem_nil, or_false] at hi
  rcases hi with rfl | rfl
  · rw [exec_halt, execHalt, runC_eq _ hc hsh hspec]
  · rw [exec_shalt, execShalt, runOn_curStrm hruns, unspeculated_of_plain hruns, if_pos hcur]

theorem exec_shalt_stops (hσ : σ ≠ .c) (hloads : σ = .a → (c.as.flight.all fun f => f.kind != .load) = true) :
    exec .shalt s = .next (on s (c.updStrm σ fun t => { t with halted := true, wait := .none, instret := t.instret + 1 })) := by
  have hcur := hruns.1.2.2.1
  have hgone : (if σ = .a then c.as.flight.find? fun f => f.kind == .load else none) = none := by
    split
    next ha =>
      refine List.find?_eq_none.mpr fun f hf hload => ?_
      have := List.all_eq_true.mp (hloads ha) f hf
      rw [bne, hload] at this
      exact Bool.noConfusion this
    next => rfl
  rw [exec_shalt, execShalt, runOn_curStrm hruns, unspeculated_of_plain hruns, hcur, if_neg hσ, hgone]
  rfl

/-! ### PRSET and SJ (R170, R171) -/

theorem exec_prset_eq (mask vals : BitVec 7) :
    exec (.prset mask vals) s = .next (on s (after (c.updStrm σ fun t =>
      { t with pred := (t.pred &&& ~~~(mask.setWidth 8 <<< 1)) ||| ((vals.setWidth 8 <<< 1) &&& (mask.setWidth 8 <<< 1)) }) σ)) := by
  rw [exec_prset, execPrset, runOn_curStrm hruns, settle_done_put, hruns.1.2.2.1]

theorem exec_sj_eq (sense : Bool) (p : BitVec 3) (off : BitVec 32) :
    exec (.sj sense p off) s = s.settle σ c sh (if (c.strm σ).p p.toNat = sense then .goto s ((c.strm σ).pc + 2 * off.signExtend 64) else .done s) := by
  rw [exec_sj, execSj, runOn_curStrm hruns, hruns.1.2.2.1]
  rfl

end

/-- A bit of a predicate window behind PRSET: the value's where the mask is set, else its own. -/
theorem getLsbD_prset (q : BitVec 8) (mask vals : BitVec 7) {i : Nat} (hi : i < 7) :
    ((q &&& ~~~(mask.setWidth 8 <<< 1)) ||| ((vals.setWidth 8 <<< 1) &&& (mask.setWidth 8 <<< 1))).getLsbD (i + 1)
      = if mask.getLsbD i then vals.getLsbD i else q.getLsbD (i + 1) := by
  have hlt : i + 1 < 8 := by omega
  cases hmask : mask.getLsbD i <;> simp [hmask, hlt]

/-- Settles O11: each of the seven words by the equation of its own, a moved token through the one synchronising step that pushes and pops share. -/
theorem commonWords : Obligations.CommonWords := by
  intro s σ c sh k mask vals sense p off hruns
  refine ⟨?_, fun hacq hrel hbehind => ⟨fun hroom => ?_, fun hfull => ?_⟩, exec_tkpush_joins hruns k, fun hacq => ⟨fun hsome => ?_, fun hnone => ?_⟩,
    fun hσ i hi => ⟨fun hcan => ?_, fun hcan => ?_⟩, exec_shalt_stops hruns, ⟨_, exec_prset_eq hruns mask vals, fun i hi => getLsbD_prset _ mask vals hi⟩,
    fun target htarget => ⟨fun hsense hvalid => ?_, fun hsense => ?_⟩⟩
  · rw [exec_nop, execNop, runOn_curStrm hruns, settle_done_self hruns]
  · rw [exec_tkpush_eq hruns k hacq hrel hbehind, if_neg (Nat.not_le.mpr hroom)]
    obtain ⟨t, d, ht, hd, hmoved, hmem⟩ := settle_token hruns _ _ _ (c.tokenCount_tokenAdd k.toNat)
    exact ⟨t, d, ht, hd, hmoved.count, hmoved.sregs, hmoved.gran, hmoved.kept, hmem, hmoved.strm⟩
  · rw [exec_tkpush_eq hruns k hacq hrel hbehind, if_pos hfull, settle_wait]
  · rw [exec_tkpop_eq hruns k hacq, if_neg (by omega)]
    obtain ⟨t, d, ht, hd, hmoved, hmem⟩ := settle_token hruns _ _ _ (c.tokenCount_tokenTake k.toNat)
    exact ⟨t, d, ht, hd, by rw [hmoved.count]; omega, hmoved.sregs, hmoved.gran, hmoved.kept, hmem, hmoved.strm⟩
  · rw [exec_tkpop_eq hruns k hacq, if_pos hnone, settle_wait]
  · rw [exec_halt_eq hruns hσ hi, haltWord, if_pos hcan, settle_whole]
    rfl
  · rw [exec_halt_eq hruns hσ hi, haltWord, if_neg (by rw [hcan]; decide), settle_wait]
  · subst htarget
    rw [exec_sj_eq hruns, if_pos hsense, settle_goto _ _ _ _ _ _ hvalid, State.branchTo_of_core? hruns.1.1]
    rfl
  · rw [exec_sj_eq hruns, if_neg hsense, settle_done_self hruns]

end Sys2Proof.Machine
end

section
/-! The issue of an access of the C-stream (R37, R82, R95, R105, R176): a rule for each step of it, and the words that store. -/

namespace Sys2Proof.Machine

open Sys2Proof.Claim

/-! ### Steps that issue an access -/

/-- One core stands as given, every other as before but for a speculation that a write has spoilt; outside the cores only the race detector has moved. -/
structure State.Issues (s u : State) (n : Nat) (d : Core) : Prop where
  quiet : Quiet s u
  core : u.core? n = some d
  others : ∀ m, m ≠ n → (u.core? m).map Core.unspeculated = (s.core? m).map Core.unspeculated

/-- A shard that an access has been issued for: its open region is the access's, or a synchronising access has ended it (R105). -/
def Shard.noted (h : Shard) (f : Access) : Shard := { h with region := if f.ord = 0 then some f.region else none }

/-- A shard that a store or atomic has been issued for is committed if the address is global (R37). -/
def Shard.committedBy (h : Shard) (va : Word) : Shard := { h with committed := h.committed || (aperture va.toNat).any fun a => a.1 == 0 }

/-- The offset of a global address is the address (R70). -/
theorem aperture_global {a off : Nat} (h : aperture a = some (0, off)) : off = a := by
  unfold aperture at h
  split at h
  · injection h with h; injection h with _ h; exact h.symm
  · split at h
    · simp at h
    · split at h <;> simp at h

/-- An access outside the global aperture commits nothing. -/
theorem State.commitFor_of_local {va : Word} (h : ¬ ∃ off, aperture va.toNat = some (0, off)) (s : State) (n : Nat) : s.commitFor n va = s :=
  if_neg fun hglobal => h ⟨_, hglobal⟩

theorem Shard.committedBy_of_local {va : Word} (h : ¬ ∃ off, aperture va.toNat = some (0, off)) (sh : Shard) : sh.committedBy va = sh := by
  have hany : (aperture va.toNat).any (fun a => a.1 == 0) = false := by
    cases haperture : aperture va.toNat with
    | none => rfl
    | some a => exact beq_eq_false_iff_ne.mpr fun hzero => h ⟨a.2, by rw [haperture, ← hzero]⟩
  rw [Shard.committedBy, hany, Bool.or_false]

namespace State.Issues

variable {s u : State} {n : Nat} {c d : Core}

theorem of_sets (h : s.Sets u n d) : s.Issues u n d where
  quiet := h.quiet
  core := h.core
  others m hm := congrArg _ (h.others m hm)

theorem updCore (h : s.Issues u n d) (f : Core → Core) : s.Issues (u.updCore n f) n (f d) where
  quiet := by rw [Quiet, h.quiet]; rfl
  core := by rw [State.core?_updCore, h.core]; rfl
  others m hm := (congrArg _ (State.core?_updCore_ne u f hm)).trans (h.others m hm)

/-- A step that leaves the cores, and moves the race detector alone. -/
theorem sameCores {v : State} (h : s.Issues u n d) (hquiet : Quiet u v) (hcores : v.cores = u.cores) : s.Issues v n d where
  quiet := by rw [Quiet, hquiet, h.quiet]
  core := by rw [State.core?, hcores]; exact h.core
  others m hm := by rw [State.core?, hcores]; exact h.others m hm

theorem curCore (h : s.Issues u n d) : u.curCore = s.curCore := by rw [h.quiet]

theorem completeWord (h : s.Issues u n d) (hn : s.curCore = n) : s.Issues (u.completeWord .c) n (after d .c) := by
  rw [State.completeWord, h.curCore, hn]
  exact h.updCore _

theorem touches (h : s.Issues u n d) : Touches s u n d := ⟨h.core, h.others⟩

/-- Memory is as before, the core's own scratchpad being so. -/
theorem sameMemory (h : s.Issues u n d) (hc : s.core? n = some c) (hpad : d.pad = c.pad) : SameMemory s u := by
  refine fun t k => State.readTarget_congr (by rw [h.quiet]) (by rw [h.quiet]) (by rw [h.quiet]) (fun m => ?_) t k
  by_cases hm : m = n
  · rw [hm, h.core, hc]
    exact congrArg some hpad
  · exact map_core?_of_unspeculated (fun _ => rfl) (h.others m hm)

theorem withTasks (h : s.Issues u n d) (ts : Map Task) : State.Issues { s with tasks := ts } { u with tasks := ts } n d where
  quiet := by rw [Quiet, h.quiet]
  core := h.core
  others := h.others

theorem withTraffic (h : s.Issues u n d) (l : List Msg) (o : List Pending) (g : BitVec 32) :
    State.Issues { s with sent := l, outstanding := o, tag := g } { u with sent := l, outstanding := o, tag := g } n d where
  quiet := by rw [Quiet, h.quiet]
  core := h.core
  others := h.others

/-- An issued access belongs to the open region of its shard (R105). -/
theorem note {sh : Shard} (h : s.Issues u n d) (hsh : d.shard = some sh) (uid : Nat) (f : Access) : s.Issues (u.note n uid f) n { d with shard := some (sh.noted f) } := by
  have hopen : s.Issues (u.openRegion n uid f.region) n { d with shard := some { sh with region := some f.region } } := by
    have hupd := h.updCore fun c => { c with shard := c.shard.map fun h => { h with region := some f.region } }
    rw [hsh] at hupd
    exact hupd.sameCores rfl rfl
  unfold State.note Shard.noted
  dsimp only
  split
  next => exact hopen
  next => exact hopen.updCore Core.endRegion

/-- An issued store or atomic commits an impure shard, and its task with it, if its address is global (R37). -/
theorem commitFor {sh : Shard} (h : s.Issues u n d) (hsh : d.shard = some sh) {va : Word} (hpure : ∀ off, aperture va.toNat = some (0, off) → sh.pure = false) :
    ∃ ts, State.Issues { s with tasks := ts } (u.commitFor n va) n { d with shard := some (sh.committedBy va) } := by
  by_cases hglobal : ∃ off, aperture va.toNat = some (0, off)
  · obtain ⟨off, haperture⟩ := hglobal
    have hva : aperture va.toNat = some (0, va.toNat) := aperture_global haperture ▸ haperture
    have hby : sh.committedBy va = { sh with committed := true } := by rw [Shard.committedBy, hva, Option.any_some, beq_self_eq_true, Bool.or_true]
    rw [State.commitFor, if_pos hva, State.commit, h.core, Option.bind_some, hsh, hby]
    dsimp only
    split
    next hdone =>
      have hcommitted : sh.committed = true := hdone.resolve_left (by rw [hpure off haperture]; decide)
      refine ⟨s.tasks, ?_⟩
      rw [show ({ d with shard := some { sh with committed := true } } : Core) = d by rw [← hcommitted, ← hsh]]
      exact h
    next => exact ⟨_, (h.updCore fun c => { c with shard := some { sh with committed := true } }).withTasks _⟩
  · refine ⟨s.tasks, ?_⟩
    rw [State.commitFor_of_local hglobal, Shard.committedBy_of_local hglobal, show ({ d with shard := some sh } : Core) = d by rw [← hsh]]
    exact h

end State.Issues

/-! ### The flight and the ports to peers (R85, R348, R411) -/

/-- A message to a peer moves the traffic alone, and goes out while the hub link of its die is up. -/
theorem State.sendPeer_spec (s : State) (n : Nat) (σ : Strm) (p a : Nat) (f : Access) :
    ∃ l o g, s.sendPeer n σ p a f = { s with sent := l, outstanding := o, tag := g }
      ∧ (s.hubOk (dieOf n) = true → ∃ hdr, l = s.sent ++ [{ port := p, hdr := hdr, payload := (peerMessage f).2.2.2 }]) := by
  unfold State.sendPeer
  split
  next hdown => exact ⟨_, _, _, rfl, fun hub => absurd hub hdown⟩
  next => exact ⟨_, _, _, rfl, fun _ => ⟨_, rfl⟩⟩

/-- An access enters the flight of the C-stream; the message of one to a peer goes out while the hub link of its die is up. -/
theorem State.Issues.fly {s u : State} {n : Nat} {d : Core} (h : s.Issues u n d) (f : Access) :
    ∃ l o g k, State.Issues { s with sent := l, outstanding := o, tag := g } (u.fly n .c f) n (d.updStrm .c fun t => { t with flight := t.flight ++ [{ f with tag := k }] })
      ∧ ((∀ p a, f.target ≠ .peer p a) → l = s.sent)
      ∧ ∀ p a, f.target = .peer p a → s.hubOk (dieOf n) = true → ∃ hdr, l = s.sent ++ [{ port := p, hdr := hdr, payload := (peerMessage f).2.2.2 }] := by
  unfold State.fly
  split
  next p a hp =>
    have hflight := h.updCore fun c => c.updStrm .c fun t => { t with flight := t.flight ++ [{ f with tag := u.tag }] }
    obtain ⟨l, o, g, heq, hsends⟩ := State.sendPeer_spec (u.updCore n fun c => c.updStrm .c fun t => { t with flight := t.flight ++ [{ f with tag := u.tag }] }) n .c p a f
    have hub : (u.updCore n fun c => c.updStrm .c fun t => { t with flight := t.flight ++ [{ f with tag := u.tag }] }).hubOk = s.hubOk := by rw [hflight.quiet]; rfl
    have hsent : (u.updCore n fun c => c.updStrm .c fun t => { t with flight := t.flight ++ [{ f with tag := u.tag }] }).sent = s.sent := by rw [hflight.quiet]
    rw [hub, hsent] at hsends
    refine ⟨l, o, g, u.tag, ?_, fun hne => absurd hp (hne p a), fun p' a' hp' hup => ?_⟩
    · rw [heq]
      exact hflight.withTraffic l o g
    · obtain ⟨rfl, -⟩ := Target.peer.inj (hp.symm.trans hp')
      exact hsends hup
  next hp => exact ⟨s.sent, s.outstanding, s.tag, f.tag, h.updCore _, fun _ => rfl, fun p a hpeer => absurd hpeer (hp p a)⟩

/-! ### Bytes of a scratchpad (R80, R82) -/

/-- A core without a speculation has none that a write could spoil. -/
theorem State.core?_spoil_of_plain {s : State} {k : Nat} {c : Core} (hc : s.core? k = some c) (hspec : c.spec = none) (t : Target) (n : Nat) : (s.spoil t n).core? k = some c := by
  unfold State.spoil
  split
  · rw [State.core?, Map.look_each]
    rw [State.core?] at hc
    rw [hc, Option.map_some, hspec, Option.map_none, ← hspec]
  · exact hc

/-- A write to a scratchpad changes its bytes and the poison it covers. -/
def Core.stored (c : Core) (o : Nat) (bs : List Byte) : Core := { c with pad := Memory.setN c.pad o bs, padPoison := clearPoison c.padPoison o bs.length }

theorem State.Issues.writePad {s u : State} {n : Nat} {d : Core} (h : s.Issues u n d) (hspec : d.spec = none) (o : Nat) (bs : List Byte) :
    s.Issues (u.writeTarget (.pad n o) bs) n (d.stored o bs) where
  quiet := by
    rw [State.writeTarget, u.spoil_eq, Quiet, h.quiet]
    rfl
  core := by
    rw [State.writeTarget, State.core?_updCore, State.core?_spoil_of_plain h.core hspec]
    rfl
  others m hm := by
    rw [State.writeTarget, State.core?_updCore_ne _ _ hm, u.core?_spoil]
    exact h.others m hm

/-- Bytes written to a scratchpad read back. -/
theorem State.Issues.readTarget_of_stored {s u : State} {n o : Nat} {e : Core} {m : List Host.Cell} {bs : List Byte} (h : s.Issues u n e) (hpad : e.pad = Memory.setN m o bs)
    {k : Nat} (hk : bs.length = k) : u.readTarget (.pad n o) k = bs := by
  rw [State.readTarget, h.core, Option.elim_some, hpad, ← hk]
  exact Memory.getN_setN_self _ _ _

/-- Bytes written to a scratchpad leave every other byte of memory. -/
theorem State.Issues.sameBut_of_stored {s u : State} {n o : Nat} {c e : Core} {bs : List Byte} (h : s.Issues u n e) (hc : s.core? n = some c) (hpad : e.pad = Memory.setN c.pad o bs)
    {k : Nat} (hk : bs.length = k) : SameBut s u (.pad n o) k := by
  intro x hx
  by_cases hown : ∃ b, x = .pad n b
  · obtain ⟨b, rfl⟩ := hown
    rw [State.readTarget, State.readTarget, h.core, hc, Option.elim_some, Option.elim_some, hpad]
    exact Memory.getN_one_setN_ne _ fun j hj hb => hx j (hk ▸ hj) (by rw [hb]; rfl)
  · have hother : ∀ m, m ≠ n → (u.core? m).map Core.pad = (s.core? m).map Core.pad := fun m hm => map_core?_of_unspeculated (fun _ => rfl) (h.others m hm)
    cases x with
    | pad m b =>
      have hm : m ≠ n := fun hm => hown ⟨b, by rw [hm]⟩
      have hpads := hother m hm
      have read (o' : Option Core) : (o'.elim (List.replicate 1 0) fun c => Memory.getN c.pad b 1) = (o'.map Core.pad).elim (List.replicate 1 0) fun p => Memory.getN p b 1 := by
        cases o' <;> rfl
      rw [State.readTarget, State.readTarget, read, read, hpads]
    | dram a => rw [State.readTarget, State.readTarget, h.quiet]
    | host p a => rw [State.readTarget, State.readTarget, h.quiet]; rfl
    | peer p a => rfl

theorem State.Issues.enter {s u : State} {n : Nat} {d : Core} (h : s.Issues u n d) (r : Racer) (t : Target) (len : Nat) (write data atomic : Bool) :
    s.Issues (u.enter r t len write data atomic) n d := by
  unfold State.enter
  split
  · exact h
  · exact h
  · exact h.sameCores rfl rfl

theorem State.Issues.closedBy {s u : State} {n : Nat} {d : Core} (h : s.Issues u n d) (f : Access) : s.Issues (u.closedBy f) n d := by
  unfold State.closedBy
  split
  · exact h
  · exact h.sameCores rfl rfl

/-- A store that takes effect at its issue, in the own scratchpad of a core without a speculation (R82). -/
theorem State.Issues.atOnce_store {s u : State} {n o : Nat} {d : Core} {sh h : Shard} {f : Access} (hu : s.Issues u n d) (hsh : d.shard = some h) (hspec : d.spec = none)
    (hkind : f.kind = .store) (htarget : f.target = .pad n o) :
    s.Issues (u.atOnce n sh f).1 n (Core.stored { d with shard := some (h.noted f) } o (toBytes f.size f.data.toNat)) := by
  have hentered := (hu.note hsh sh.uid f).enter (f.racer sh) f.target f.size f.writes f.isData f.isAtomic
  have hstored := (hentered.writePad hspec o (toBytes f.size f.data.toNat)).closedBy f
  have hperform : ∀ w : State, (w.perform f).1 = w.writeTarget (.pad n o) (toBytes f.size f.data.toNat) := fun w => by
    unfold State.perform
    rw [hkind, htarget]
  unfold State.atOnce State.performs State.takesEffect
  dsimp only
  rw [hperform]
  exact hstored

/-! ### The space an access reaches (R70, R174) -/

/-- A page is never a scratchpad's (R73, R76). -/
theorem Core.translate_ne_pad {c : Core} {path ctx va : Nat} {use : Use} {t : Target} (h : c.translate path ctx va use = .ok t) (k o : Nat) : t ≠ .pad k o := by
  rintro rfl
  unfold Core.translate leafTarget at h
  split at h
  next => split_ifs at h <;> cases h
  next => split at h <;> [split at h; skip] <;> cases h

/-- An access to a global address whose checks pass is an impure shard's, and reaches no scratchpad. -/
theorem State.checkFor_global {s : State} {path n off : Nat} {sh : Shard} {r : Req} {t : Target} (h : s.checkFor path n sh r = .ok t)
    (haperture : aperture r.va.toNat = some (0, off)) : sh.pure = false ∧ ∀ k o, t ≠ .pad k o := by
  simp only [State.checkFor, haperture] at h
  split at h
  · cases h
  split at h
  · cases h
  next hpure =>
    refine ⟨Bool.eq_false_iff.mpr hpure, ?_⟩
    cases hcore : s.core? n with
    | none => rw [hcore] at h; cases h
    | some c =>
      rw [hcore, Option.elim_some] at h
      split at h
      next => cases h
      next => cases h
      next => cases h
      next => split_ifs at h; cases h; exact fun _ _ => Target.noConfusion
      next t' _ htrans => split_ifs at h; cases h; exact Core.translate_ne_pad htrans

/-- The access that a store word issues. -/
def storeAccess (s : State) (c : Core) (rd ra : BitVec 6) (ord scope : BitVec 2) (off : BitVec 22) (size : Nat) (t : Target) : Access :=
  { newAccess s c .store (plainReq (c.sreg ra + off.signExtend 64) size true ord scope) t with data := (c.sreg rd).setWidth 512 }

theorem toNat_storeAccess (s : State) (c : Core) (rd ra : BitVec 6) (ord scope : BitVec 2) (off : BitVec 22) (size : Nat) (t : Target) :
    (storeAccess s c rd ra ord scope off size t).data.toNat = (c.sreg rd).toNat := by
  dsimp only [storeAccess]
  rw [BitVec.toNat_setWidth_of_le (by decide)]

section
variable {s : State} {c : Core} {sh : Shard} {rd ra : BitVec 6} {ord scope : BitVec 2} {off : BitVec 22} {size : Nat} {t : Target}
  (hruns : RunsPlain s .c c sh) (hfree : Free c [rd, ra]) (hacq : c.cs.acquiring = false)
  (hrel : ord = 0 ∨ c.released (scopeAt scope t) = true ∧ s.heardOut s.curCore c (scopeAt scope t) = true ∧ Flushed c)
  (ht : s.checkAccess s.curCore sh (plainReq (c.sreg ra + off.signExtend 64) size true ord scope) = .ok t)
include hruns

/-- A release that follows no unperformed access leaves the state as it is, in all that an access can see. -/
theorem releaseAccess_of_released {x : Nat} (hrel : c.released x = true ∧ s.heardOut s.curCore c x = true ∧ Flushed c) (k : State → Core → Res) :
    ∃ b, s.Sets b s.curCore c ∧ (x ≤ 1 → b = s) ∧ releaseAccess s c sh x k = k b c := by
  obtain ⟨hreleased, hheard, hflushed⟩ := hrel
  have hc := hruns.1.1
  have hset := (State.flushedOut_flushed hc sh (scope := x) fun _ => hflushed).1
  have hloads : c.cs.loadsDone = true := by
    rw [Core.released, Bool.and_eq_true, Stream.released, Bool.and_eq_true] at hreleased
    exact hreleased.1.1
  refine ⟨_, hset, fun hx => if_neg (by omega), ?_⟩
  rw [releaseAccess, Core.afterStores, if_neg (by rw [hloads]; decide), if_pos ⟨hreleased, hheard⟩]
  dsimp only
  rw [hset.curCore, hset.core, Option.getD_some]

include hfree hacq hrel ht

/-- A store word whose operands and target are there, and whose release has nothing to wait for, issues its store. -/
theorem storeWord_eq :
    ∃ b, s.Sets b s.curCore c ∧ (c.direct s.curCore t = true → b = s) ∧ storeWord rd ra ord scope off size s
      = s.settle .c c sh (issueStore b c sh (plainReq (c.sreg ra + off.signExtend 64) size true ord scope) t (c.sreg rd) .done) := by
  have hspec := hruns.2 rfl
  obtain ⟨hc, hsh, -, hres⟩ := hruns.1
  have hword : ∀ m, (if ord = 0 then runSpec else runC) s m = s.settle .c c sh (m c sh) := by
    intro m
    split
    · rw [runSpec, runOn_eq m hc hsh hres]
    · rw [runC_eq m hc hsh hspec]
  rw [storeWord, hword, Core.ready_eq s _ hfree]
  dsimp only
  unfold plainReq at ht
  rw [Core.afterAcquire_of_none hacq, checked_of_ok ht]
  by_cases hord : ord = 0
  · exact ⟨s, .refl hc, fun _ => rfl, by rw [if_pos hord]; rfl⟩
  · obtain ⟨b, hset, hsame, heq⟩ := releaseAccess_of_released (sh := sh) hruns (hrel.resolve_left hord)
      fun b e => issueStore b e sh (plainReq (c.sreg ra + off.signExtend 64) size true ord scope) t (e.sreg rd) .done
    refine ⟨b, hset, fun hdirect => hsame ?_, by rw [if_neg hord]; exact congrArg _ heq⟩
    rw [Core.direct, Bool.and_eq_true] at hdirect
    cases t with
    | pad k o => exact Nat.min_le_right _ _
    | dram a => exact Bool.noConfusion hdirect.1
    | host p a => exact Bool.noConfusion hdirect.1
    | peer p a => exact Bool.noConfusion hdirect.1

/-- A store to the own scratchpad that no earlier access holds up is stored at once. -/
theorem storeWord_direct (hdirect : c.direct s.curCore t = true) (hrace : s.raceAt sh t size true (ord == 0) false = none) :
    ∃ u d h, storeWord rd ra ord scope off size s = .next u ∧ s.Issues u s.curCore d
      ∧ d = { c with shard := some h, cs := (c.cs.complete c.cs.pc).count, pad := d.pad, padPoison := d.padPoison }
      ∧ h = { sh with region := h.region } ∧ sh.committedBy (c.sreg ra + off.signExtend 64) = sh
      ∧ u.readTarget t size = toBytes size (c.sreg rd).toNat ∧ SameBut s u t size := by
  have hspec := hruns.2 rfl
  obtain ⟨hc, hsh, -, -⟩ := hruns.1
  obtain ⟨b, -, hb, hword⟩ := storeWord_eq hruns hfree hacq hrel ht
  rw [hb hdirect] at hword
  obtain ⟨o, rfl⟩ : ∃ o, t = .pad s.curCore o := by
    rw [Core.direct, Bool.and_eq_true] at hdirect
    cases t with
    | pad k o => exact ⟨o, by rw [beq_iff_eq.mp hdirect.1]⟩
    | dram a => exact Bool.noConfusion hdirect.1
    | host p a => exact Bool.noConfusion hdirect.1
    | peer p a => exact Bool.noConfusion hdirect.1
  have hlocal : ¬ ∃ off', aperture (c.sreg ra + off.signExtend 64).toNat = some (0, off') := fun ⟨_, h⟩ => (State.checkFor_global ht h).2 _ _ rfl
  have hset := ((State.Issues.of_sets (.refl hc)).atOnce_store (sh := sh) (o := o) hsh hspec (f := storeAccess s c rd ra ord scope off size (.pad s.curCore o)) rfl rfl).completeWord rfl
  have hbytes : toBytes size (storeAccess s c rd ra ord scope off size (.pad s.curCore o)).data.toNat = toBytes size (c.sreg rd).toNat :=
    congrArg _ (toNat_storeAccess ..)
  refine ⟨_, _, _, ?_, hset, rfl, rfl, Shard.committedBy_of_local hlocal sh, ?_, ?_⟩
  · rw [hword, issueStore]
    dsimp only
    rw [hspec]
    dsimp only
    rw [if_pos hdirect, State.raceNow, State.commitFor_of_local (va := (plainReq (c.sreg ra + off.signExtend 64) size true ord scope).va) hlocal]
    rw [show s.raceAt sh (.pad s.curCore o) (plainReq (c.sreg ra + off.signExtend 64) size true ord scope).size (plainReq (c.sreg ra + off.signExtend 64) size true ord scope).write
      (plainReq (c.sreg ra + off.signExtend 64) size true ord scope).data (plainReq (c.sreg ra + off.signExtend 64) size true ord scope).atomic = none from hrace]
    rfl
  · rw [← hbytes]
    exact hset.readTarget_of_stored (m := c.pad) rfl (length_toBytes _ _)
  · exact hset.sameBut_of_stored hc rfl (length_toBytes _ _)

/-- A store that does not take effect at once goes into flight, and to a peer as a message. -/
theorem storeWord_flies (hdirect : c.direct s.curCore t = false) :
    ∃ u d h f ts l o g, storeWord rd ra ord scope off size s = .next u ∧ State.Issues { s with tasks := ts, sent := l, outstanding := o, tag := g } u s.curCore d
      ∧ d = { c with shard := some h, cs := sent c.cs f }
      ∧ h = { sh.committedBy (c.sreg ra + off.signExtend 64) with region := h.region }
      ∧ f.kind = .store ∧ f.target = t ∧ f.size = size ∧ f.va = c.sreg ra + off.signExtend 64 ∧ f.data = (c.sreg rd).setWidth 512 ∧ f.value = none
      ∧ ((∀ p a, t ≠ .peer p a) → l = s.sent)
      ∧ ∀ p a, t = .peer p a → s.hubOk (dieOf s.curCore) = true → ∃ hdr, l = s.sent ++ [{ port := p, hdr := hdr, payload := toBytes size (c.sreg rd).toNat }] := by
  have hspec := hruns.2 rfl
  have hsh := hruns.1.2.1
  obtain ⟨b, hset, -, hword⟩ := storeWord_eq hruns hfree hacq hrel ht
  have hcur := hset.curCore
  obtain ⟨ts, hcommitted⟩ := (State.Issues.of_sets hset).commitFor hsh (va := c.sreg ra + off.signExtend 64) fun _ haperture => (State.checkFor_global ht haperture).1
  obtain ⟨l, o, g, k, hflown, hsilent, hsends⟩ := (hcommitted.note rfl sh.uid (storeAccess b c rd ra ord scope off size t)).fly (storeAccess b c rd ra ord scope off size t)
  have hdone := hflown.completeWord rfl
  refine ⟨_, _, _, { storeAccess b c rd ra ord scope off size t with tag := k }, ts, l, o, g, ?_, hdone, rfl, rfl, rfl, rfl, rfl, rfl, rfl, rfl, hsilent, fun p a hp hub => ?_⟩
  · rw [hword, issueStore]
    dsimp only
    rw [hspec]
    dsimp only
    rw [hcur, if_neg (by rw [hdirect]; decide)]
    rfl
  · obtain ⟨hdr, hl⟩ := hsends p a hp hub
    refine ⟨hdr, hl.trans ?_⟩
    rw [← toNat_storeAccess b c rd ra ord scope off size t]
    rfl

/-- What a store word leaves, wherever it goes (R37, R79, R82, R95, R176). -/
theorem storeWord_spec (hrace : c.direct s.curCore t = true → s.raceAt sh t size true (ord == 0) false = none) :
    ∃ u d h, storeWord rd ra ord scope off size s = .next u ∧ Touches s u s.curCore d ∧ Issued s u
      ∧ d = { c with shard := some h, cs := { (c.cs.complete c.cs.pc).count with flight := d.cs.flight }, pad := d.pad, padPoison := d.padPoison }
      ∧ h = { sh with region := h.region, committed := h.committed }
      ∧ h.committed = (sh.committed || (aperture (c.sreg ra + off.signExtend 64).toNat).any fun a => a.1 == 0)
      ∧ (c.direct s.curCore t = true → d.cs.flight = c.cs.flight ∧ u.readTarget t size = toBytes size (c.sreg rd).toNat ∧ SameBut s u t size ∧ u.sent = s.sent ∧ u.tasks = s.tasks)
      ∧ (c.direct s.curCore t = false → SameMemory s u ∧ ∃ f, d.cs.flight = c.cs.flight ++ [f] ∧ f.kind = .store ∧ f.target = t ∧ f.size = size
          ∧ f.va = c.sreg ra + off.signExtend 64 ∧ f.data = (c.sreg rd).setWidth 512 ∧ f.value = none
          ∧ ((∀ p a, t ≠ .peer p a) → u.sent = s.sent)
          ∧ ∀ p a, t = .peer p a → s.hubOk (dieOf s.curCore) = true → ∃ hdr, u.sent = s.sent ++ [{ port := p, hdr := hdr, payload := toBytes size (c.sreg rd).toNat }]) := by
  cases hdirect : c.direct s.curCore t with
  | true =>
    obtain ⟨u, d, h, hword, hset, hd, hh, hcommitted, hread, hbut⟩ := storeWord_direct hruns hfree hacq hrel ht hdirect (hrace hdirect)
    refine ⟨u, d, h, hword, hset.touches, by rw [Issued, hset.quiet], by rw [hd], by rw [hh], ?_, fun _ => ⟨by rw [hd]; rfl, hread, hbut, ?_, ?_⟩, fun h => Bool.noConfusion h⟩
    · rw [hh]
      exact congrArg Shard.committed hcommitted.symm
    · rw [hset.quiet]
    · rw [hset.quiet]
  | false =>
    obtain ⟨u, d, h, f, ts, l, o, g, hword, hset, hd, hh, hkind, htarget, hsize, hva, hdata, hvalue, hsilent, hsends⟩ := storeWord_flies hruns hfree hacq hrel ht hdirect
    have hsent : u.sent = l := by rw [hset.quiet]
    refine ⟨u, d, h, hword, hset.touches, by rw [Issued, hset.quiet], by rw [hd]; rfl, by rw [hh]; rfl, by rw [hh]; rfl, fun h => Bool.noConfusion h, fun _ => ⟨?_, f, by rw [hd]; rfl, hkind, htarget, hsize, hva, hdata, hvalue, ?_, ?_⟩⟩
    · exact (hset.sameMemory (c := c) hruns.1.1 (by rw [hd]) :)
    · rwa [hsent]
    · rwa [hsent]

end

/-- Settles O14: the four words are one, which either stores at once or goes into flight. -/
theorem storeWords : Obligations.StoreWords := by
  intro s c sh rd ra ord scope off t hruns hfree hacq hrel e he ht hrace
  simp only [List.mem_cons, List.not_mem_nil, or_false] at he
  rcases he with rfl | rfl | rfl | rfl <;> exact storeWord_spec hruns hfree hacq hrel ht hrace

end Sys2Proof.Machine
end

section
/-! The entry of a trap, and a trap that halts its shard (R41, R42, R66, R172, R194, R379, R382). -/

namespace Sys2Proof.Machine

open Sys2Proof.Claim

/-! ### Which shards run -/

/-- The shard that runs on a core. -/
def State.running (s : State) (m : Nat) : Option Shard := (s.core? m).bind Core.shard

theorem State.running_of_core {s : State} {m : Nat} {c : Core} (hc : s.core? m = some c) : s.running m = c.shard := by
  rw [State.running, hc, Option.bind_some]

/-- A shard that leaves its core starts no other. -/
theorem State.running_vacate {s : State} {n m : Nat} {h : Shard} (hrun : (s.vacate n).running m = some h) : s.running m = some h ∧ m ≠ n := by
  by_cases hm : m = n
  · subst hm
    cases hc : s.core? m with
    | some c =>
      obtain ⟨-, d, hd, hempty⟩ := State.vacate_of_core hc
      rw [State.running_of_core hd, hempty] at hrun
      contradiction
    | none =>
      rw [State.running, show s.vacate m = s by unfold State.vacate; rw [hc], hc] at hrun
      contradiction
  · refine ⟨?_, hm⟩
    have hsame := (s.vacate_onlyLeaves n).others m hm
    obtain ⟨d, hd, hshard⟩ := Option.bind_eq_some_iff.mp hrun
    rw [hd] at hsame
    obtain ⟨c, hc, heq⟩ := Option.map_eq_some_iff.mp hsame.symm
    rw [State.running_of_core hc, heq, hshard]

theorem State.running_stopEntry {s : State} {task m : Nat} {e : Nat × Core} {h : Shard} (hrun : (s.stopEntry task e).running m = some h) : s.running m = some h := by
  unfold State.stopEntry at hrun
  split at hrun
  · split at hrun
    · rw [State.running, State.core?_dropWatched] at hrun
      exact (State.running_vacate hrun).1
    · exact hrun
  · exact hrun

theorem State.running_stopEntries {task m : Nat} {h : Shard} (l : List (Nat × Core)) : ∀ {s : State}, (l.foldl (State.stopEntry task) s).running m = some h → s.running m = some h := by
  induction l with
  | nil => exact id
  | cons e l ih => exact fun hrun => State.running_stopEntry (ih hrun)

/-! ### A task that is stopped (R42) -/

/-- A state in which a task has stopped, before the reserves are dealt out again. -/
def State.afterStop (s : State) (task : Nat) (t : Task) : State :=
  { (s.cores.foldl (State.stopEntry task) s).withoutParked task with
    tasks := Map.put ((s.cores.foldl (State.stopEntry task) s).withoutParked task).tasks task { t with shards := t.shards.map ShardState.atStop } }

theorem State.core?_afterStop (s : State) (task : Nat) (t : Task) (m : Nat) : (s.afterStop task t).core? m = (s.cores.foldl (State.stopEntry task) s).core? m :=
  congrArg (Map.look · m) (State.withoutParked_cores _ task)

section
variable {s : State} {task : Nat} {t : Task} (ht : Map.look s.tasks task = some t)
include ht

theorem State.stopTask_onlyReserves : (s.afterStop task t).OnlyReserves (s.stopTask task) := by
  rw [State.stopTask_eq ht]
  exact .foldl (fun s d => s.refill_onlyReserves d) (List.range 8) _

/-- A task that is stopped has its shards retired or stopped, and is as it was besides. -/
theorem State.look_stopTask : Map.look (s.stopTask task).tasks task = some { t with shards := t.shards.map ShardState.atStop } := by
  rw [(State.stopTask_onlyReserves ht).eq]
  exact Map.look_put _ _ _

/-- No shard of a task that is stopped runs any more. -/
theorem State.task_of_running_stopTask {m : Nat} {h : Shard} (hrun : (s.stopTask task).running m = some h) : h.task ≠ task := by
  intro htask
  obtain ⟨r, hr⟩ := (State.stopTask_onlyReserves ht).cores m
  rw [State.running, hr, State.core?_afterStop] at hrun
  obtain ⟨d, hd, hshard⟩ := Option.bind_eq_some_iff.mp hrun
  obtain ⟨e, hstopped, rfl⟩ := Option.map_eq_some_iff.mp hd
  obtain ⟨h', hh', rfl⟩ := Option.map_eq_some_iff.mp hshard
  have hbefore := State.running_stopEntries s.cores ((State.running_of_core hstopped).trans hh')
  obtain ⟨c, hc, hsh⟩ := Option.bind_eq_some_iff.mp hbefore
  obtain ⟨d, hd, hempty⟩ := State.stopEntries_empties hsh htask s.cores hc (Map.mem_of_look hc)
  rw [hstopped] at hd
  rw [Option.some.inj hd, hempty] at hh'
  contradiction

end

/-! ### A fault record (R377, R378) -/

/-- A write of bytes leaves which shard runs where. -/
theorem State.shards_writeTarget (s : State) (x : Target) (bs : List Byte) (m : Nat) : ((s.writeTarget x bs).core? m).map Core.shard = (s.core? m).map Core.shard := by
  refine Eq.trans ?_ (map_core?_of_unspeculated (fun _ => rfl) (s.core?_spoil x bs.length m))
  cases x with
  | pad k o =>
    by_cases hm : m = k
    · subst hm
      rw [State.writeTarget, State.core?_updCore, Option.map_map]
      rfl
    · rw [State.writeTarget, State.core?_updCore_ne _ _ hm]
  | dram a => rfl
  | host p a => rw [State.writeTarget]; unfold State.setHostMem; split <;> rfl
  | peer p a => rfl

/-- A fault record leaves the tasks, and which shard runs where. -/
theorem State.postFault_frame (s : State) (ctx : Nat) (f : FaultRec) :
    (s.postFault ctx f).1.tasks = s.tasks ∧ ∀ m, ((s.postFault ctx f).1.core? m).map Core.shard = (s.core? m).map Core.shard := by
  unfold State.postFault
  split
  · exact ⟨rfl, fun _ => rfl⟩
  · split
    · exact ⟨rfl, fun _ => rfl⟩
    · dsimp only
      split
      · exact ⟨rfl, fun _ => rfl⟩
      next t _ tr _ =>
        refine ⟨?_, fun m => ?_⟩
        · rw [State.msixUp, (State.writeTarget_onlyBytes _ _ _), (s.writeTarget_onlyBytes _ _)]
        · exact (State.shards_writeTarget _ _ _ m).trans (s.shards_writeTarget _ _ m)

/-! ### A shard that halts (R42, R379) -/

/-- A state in which a task has stopped and is to end with status 1. -/
def State.haltedBy (s : State) (n task : Nat) (info : Word) : State :=
  { s.stopTask task with tasks := Map.upd (s.stopTask task).tasks task fun t => { t with failed := t.failed.orElse fun _ => some (1, some n, info) } }

theorem State.haltShard_eq (s : State) (n : Nat) (sh : Shard) (σ : Strm) (code : Nat) (tval pc : Word) :
    ∃ f, s.haltShard n sh σ code tval pc = (s.postFault sh.ctx f).1.haltedBy n sh.task (s.postFault sh.ctx f).2 := ⟨_, rfl⟩

/-- A shard that halts leaves its core, no shard of its task runs any more, and the task is to end with status 1. -/
theorem State.haltShard_spec {s : State} {n : Nat} {c : Core} {sh : Shard} {t : Task} (hc : s.core? n = some c) (hsh : c.shard = some sh) (ht : Map.look s.tasks sh.task = some t)
    (hfailed : t.failed = none) (σ : Strm) (code : Nat) (tval pc : Word) :
    let u := s.haltShard n sh σ code tval pc
    (∃ d, u.core? n = some d ∧ d.shard = none)
    ∧ (∀ m d h, u.core? m = some d → d.shard = some h → h.task ≠ sh.task)
    ∧ ∃ t' info, Map.look u.tasks sh.task = some t' ∧ t'.failed = some (1, some n, info) ∧ ∀ x ∈ t'.shards, x = .retired ∨ x = .stopped := by
  obtain ⟨f, hhalt⟩ := s.haltShard_eq n sh σ code tval pc
  obtain ⟨htasks, hshards⟩ := s.postFault_frame sh.ctx f
  obtain ⟨e, he, hesh⟩ := Option.map_eq_some_iff.mp ((hshards n).trans (congrArg (Option.map Core.shard) hc))
  have hlook : Map.look (s.postFault sh.ctx f).1.tasks sh.task = some t := htasks ▸ ht
  rw [hhalt]
  refine ⟨(State.stopTask_spec he (hesh.trans hsh) hlook).1, fun m d h hd hdsh => State.task_of_running_stopTask hlook ((State.running_of_core hd).trans hdsh), _, (s.postFault sh.ctx f).2,
    (Map.look_upd _ _ _).trans (congrArg (Option.map _) (State.look_stopTask hlook)), ?_, fun y hy => ?_⟩
  · dsimp only
    rw [hfailed]
    rfl
  · obtain ⟨y, -, rfl⟩ := List.mem_map.mp hy
    exact y.atStop_cases

/-! ### Taking a trap -/

/-- A core that has forgotten its failed walks (R384). -/
def Core.walksForgotten (c : Core) : Core := { c with walkFails := [] }

theorem Core.rollback_of_plain {c : Core} (hspec : c.spec = none) (pc : Word) : c.rollback pc = c := by
  unfold Core.rollback
  rw [hspec]

section
variable {s : State} {n : Nat} {c : Core} {sh : Shard} (hc : s.core? n = some c) (hsh : c.shard = some sh) (hspec : c.spec = none)
include hc hsh hspec

/-- A trap outside a speculation, with the failed walks of its core forgotten, enters the handler. -/
theorem State.takeTrap_enters (σ : Strm) (code : BitVec 8) (tval : Word) (htvec : c.tvec ≠ 0) (hinh : c.inh = false) :
    s.takeTrap n σ code tval = State.setCore { s with arrays := Map.upd s.arrays (arrayOf n) fun a => { a with waiting := removeNat a.waiting n } } n
      (c.walksForgotten.enterHandler σ code tval) := by
  unfold State.takeTrap
  rw [hc]
  dsimp only
  rw [hsh]
  dsimp only
  rw [Core.rollback_of_plain hspec]
  exact if_neg (not_or.mpr ⟨htvec, Bool.eq_false_iff.mp hinh⟩)

/-- With no handler, or inside one, it halts the shard. -/
theorem State.takeTrap_halts (σ : Strm) (code : BitVec 8) (tval : Word) (h : c.tvec = 0 ∨ c.inh = true) :
    s.takeTrap n σ code tval = (s.setCore n c.walksForgotten).haltShard n sh σ code.toNat tval (c.walksForgotten.strm σ).pc := by
  unfold State.takeTrap
  rw [hc]
  dsimp only
  rw [hsh]
  dsimp only
  rw [Core.rollback_of_plain hspec]
  exact if_pos h

end

/-- CR.CAUSE of a trap: INH, the stream and the code (R66). -/
theorem cause_eq (σ : Strm) (code : BitVec 8) :
    BitVec.ofNat 64 (0x8000 + 256 * strmNum σ + code.toNat) = 0x8000 + (match σ with | .c => 0 | .a => 0x100 | .v => 0x200) + code.setWidth 64 := by
  apply BitVec.eq_of_toNat_eq
  cases σ <;> simp [strmNum, BitVec.toNat_add]

theorem inh_of_cause (σ : Strm) (code : BitVec 8) : (BitVec.ofNat 64 (0x8000 + 256 * strmNum σ + code.toNat)).getLsbD 15 = true := by
  have hcode := code.isLt
  have hn : strmNum σ ≤ 2 := by cases σ <;> decide
  have hbit : (0x8000 + 256 * strmNum σ + code.toNat) / 2 ^ 15 % 2 = 1 := by omega
  rw [BitVec.getLsbD_ofNat, Nat.testBit_eq_decide_div_mod_eq, hbit]
  rfl

/-- TRAP and BRK: codes 16 and 17; under debug BRK parks its shard behind a TYPE 5 record (R194). -/
theorem exec_trap_brk {s : State} {c : Core} {sh : Shard} (imm : BitVec 16) (hruns : RunsPlain s .c c sh) :
    exec (.trap imm) s = .next (s.takeTrap s.curCore .c 16 (imm.setWidth 64))
    ∧ ((Map.look s.ctxs sh.ctx).any Ctx.debug = false → exec .brk s = .next (s.takeTrap s.curCore .c 17 ((c.ir.extractLsb' 0 16).setWidth 64)))
    ∧ (∀ slot, (Map.look s.ctxs sh.ctx).any Ctx.debug = true → s.freeSlot sh.ctx = some slot → s.canPark c = true → ∃ f : FaultRec,
        exec .brk s = .next ((s.postFault sh.ctx f).1.parkBehind s.curCore slot true)
        ∧ f.typ = 5 ∧ f.core = s.curCore ∧ f.shard = sh.num ∧ f.taskId = sh.taskId ∧ f.tval = (c.ir.extractLsb' 0 16).setWidth 64 ∧ f.pc = c.cs.pc) := by
  have hspec := hruns.2 rfl
  obtain ⟨hc, hsh, -, -⟩ := hruns.1
  refine ⟨?_, fun hdebug => ?_, fun slot hdebug hslot hcan => ⟨{
    typ := 5, cls := 0xFF, cause := 0, strm := 0, core := s.curCore, shard := sh.num, taskId := sh.taskId, tval := (c.ir.extractLsb' 0 16).setWidth 64, pc := c.cs.pc, addr := 0, index := 0 },
    ?_, rfl, rfl, rfl, rfl, rfl, rfl⟩⟩
  · rw [exec_trap, execTrap, runC_eq _ hc hsh hspec, settle_trap, State.trapWord_of_plain hspec]
  · rw [exec_brk, execBrk, runC_eq _ hc hsh hspec]
    dsimp only
    rw [hdebug, if_neg Bool.false_ne_true, settle_trap, State.trapWord_of_plain hspec]
  · rw [exec_brk, execBrk, runC_eq _ hc hsh hspec]
    dsimp only
    rw [hdebug, if_pos rfl, hslot]
    dsimp only
    rw [if_pos hcan, settle_whole]

theorem trapEntry : TrapEntry := by
  refine ⟨fun s c sh imm hruns => exec_trap_brk imm hruns, fun s n c sh σ code tval hc hsh hspec htvec hinh => ?_⟩
  dsimp only
  rw [State.takeTrap_enters hc hsh hspec σ code tval htvec hinh]
  refine ⟨rfl, fun m hm => ?_, _, State.core?_setCore _ _ _, rfl, cause_eq σ code, inh_of_cause σ code, rfl, rfl, rfl⟩
  exact State.core?_setCore_ne _ _ hm

theorem trapWithoutHandler : TrapWithoutHandler := by
  intro s n c sh t σ code tval hc hsh hspec hnone ht hfailed
  dsimp only
  rw [State.takeTrap_halts hc hsh hspec σ code tval hnone]
  exact State.haltShard_spec (s.core?_setCore n c.walksForgotten) hsh ht hfailed σ code.toNat tval _

/-- Settles O44: the handler by the equation of a trap outside a speculation, the halt by what a stopped task leaves running. -/
theorem traps : Obligations.Traps := ⟨trapEntry, trapWithoutHandler⟩

end Sys2Proof.Machine
end

section
/-! The packets of a host queue (R32, R33, R345, R359): what consuming one leaves, and the effect of each type. -/

namespace Sys2Proof.Machine

open Sys2Proof.Claim

/-! ### Queues of a context -/

@[simp] theorem State.queue?_updQueue (s : State) (ctx q : Nat) (f : HostQueue → HostQueue) : (s.updQueue ctx q f).queue? ctx q = (s.queue? ctx q).map f := by
  rw [State.queue?, State.updQueue, Map.look_upd]
  cases h : Map.look s.ctxs ctx <;> simp [State.queue?, h]

/-- A change of a context that leaves its queues. -/
theorem look_queues_upd (m : Map Ctx) (c : Nat) {f : Ctx → Ctx} (hf : ∀ x, (f x).queues = x.queues) (ctx q : Nat) :
    ((Map.look (Map.upd m c f) ctx).bind fun x => Map.look x.queues q) = (Map.look m ctx).bind fun x => Map.look x.queues q := by
  by_cases hc : ctx = c
  · subst hc
    rw [Map.look_upd]
    cases Map.look m ctx with
    | none => rfl
    | some x => rw [Option.map_some, Option.bind_some, Option.bind_some, hf]
  · rw [Map.look_upd_ne _ _ hc]

/-! ### What a read of a context's memory depends on (R75, R76) -/

section
variable {s : State} {ctx v : Nat} {cs : Map Ctx} {vs : Map Version} {qs : List Seal} (hroot : (Map.look cs ctx).map Ctx.ptroot = (Map.look s.ctxs ctx).map Ctx.ptroot)

theorem State.walk_sameRoot (s : State) (cs : Map Ctx) (v : Nat) (vs : Map Version) (qs : List Seal) (cache : List WalkEntry) (ctx va : Nat) (l : List (Nat × Nat × Nat × List Nat)) : ∀ table,
    State.walk { s with ctxs := cs, served := v, versions := vs, seals := qs } cache ctx va l table = s.walk cache ctx va l table := by
  induction l with
  | nil => exact fun _ => rfl
  | cons e rest ih =>
    intro table
    obtain ⟨lo, n, size, sizes⟩ := e
    simp only [State.walk, ih]
    rfl

include hroot

theorem State.translateFor_sameRoot (va : Nat) (use : Use) : State.translateFor { s with ctxs := cs, served := v, versions := vs, seals := qs } ctx va use = s.translateFor ctx va use := by
  have hpage : State.pageOf { s with ctxs := cs, served := v, versions := vs, seals := qs } ctx va = s.pageOf ctx va := by
    unfold State.pageOf
    cases hs : Map.look s.ctxs ctx with
    | none =>
      rw [hs] at hroot
      rw [Option.map_eq_none_iff.mp hroot]
    | some x =>
      rw [hs] at hroot
      obtain ⟨y, hy, heq⟩ := Option.map_eq_some_iff.mp hroot
      dsimp only
      rw [hy]
      dsimp only
      rw [State.walk_sameRoot, heq]
  unfold State.translateFor
  rw [hpage]

theorem State.rangeOf_sameRoot (use : Use) : ∀ fuel va n, State.rangeOf { s with ctxs := cs, served := v, versions := vs, seals := qs } ctx use fuel va n = s.rangeOf ctx use fuel va n := by
  intro fuel
  induction fuel with
  | zero => exact fun _ _ => rfl
  | succ fuel ih =>
    intro va n
    simp only [State.rangeOf, State.translateFor_sameRoot hroot, ih]

theorem State.readRange_sameRoot (va n : Nat) : State.readRange { s with ctxs := cs, served := v, versions := vs, seals := qs } ctx va n = s.readRange ctx va n := by
  unfold State.readRange State.range
  rw [State.rangeOf_sameRoot hroot]
  rfl

/-- The records of a packet are read through the page tables alone. -/
theorem State.packetRecords_sameRoot (p : List Byte) : State.packetRecords { s with ctxs := cs, served := v, versions := vs, seals := qs } ctx p = s.packetRecords ctx p := by
  unfold State.packetRecords
  simp only [State.readRange_sameRoot hroot]

end

/-! ### Consuming a packet (R33, R345) -/

/-- The state in which the dispatcher acts on the packet at the head of a queue: the queue is being scanned and was served last, and a malformed packet is counted. -/
def State.consumed (s : State) (ctx q : Nat) (bad : Bool) : State :=
  State.updQueue { s with served := 64 * ctx + q } ctx q fun x => { x with pending := x.pending && x.scanning, scanning := true, bad := if bad then x.bad + 1 else x.bad }

/-- A queue as it is once its packet has been consumed. -/
def HostQueue.consumed (x : HostQueue) (bad : Bool) : HostQueue := { x with pending := x.pending && x.scanning, scanning := true, bad := if bad then x.bad + 1 else x.bad }

/-- The dispatcher goes on scanning a queue, or ends. -/
def State.scan (s : State) (ctx q : Nat) (more : Bool) : State := s.updQueue ctx q fun x => { x with scanning := more }

section
variable {s s' : State} {x : HostQueue} {i : Nat} {p : List Byte} (hx : s.queue? s.args.a s.args.b = some x) (hserves : s.serves s.args.a s.args.b x = true)
  (hhead : s.headPacket s.args.a x = some (i, p)) (hconsume : s.consume s.args.a x i = some s')
include hx hserves hhead hconsume

theorem consumePacket_eq {types : Nat → Bool} (htypes : types (pkType p) = true) (act : State → Nat → Nat → Nat → List Byte → State) :
    ∃ more, consumePacket s types act = .next (State.scan (if s.badPacket s.args.a p = true then s'.consumed s.args.a s.args.b (s.badPacket s.args.a p)
      else act (s'.consumed s.args.a s.args.b (s.badPacket s.args.a p)) s.args.a s.args.b i p) s.args.a s.args.b more) := by
  unfold consumePacket
  dsimp only
  rw [hx]
  dsimp only
  rw [if_pos hserves, hhead]
  dsimp only
  rw [if_neg (not_not.mpr htypes), hconsume]
  exact ⟨_, rfl⟩

end

/-- A read of the packet's records is as before the packet was consumed. -/
theorem State.packetRecords_consumed (s : State) (ctx q : Nat) (bad : Bool) (p : List Byte) : (s.consumed ctx q bad).packetRecords ctx p = s.packetRecords ctx p := by
  refine State.packetRecords_sameRoot (s := s) (v := 64 * ctx + q) (cs := (s.consumed ctx q bad).ctxs) (vs := s.versions) (qs := s.seals) ?_ p
  unfold State.consumed State.updQueue
  rw [Map.look_upd, Option.map_map]
  rfl

/-! ### Tasks that enter a store (R26, R34, R284, R422) -/

theorem State.startFetch_frame (s : State) (v : Version) : ∃ f, s.startFetch v = { s with fetches := f } := by
  unfold State.startFetch
  split
  · split
    · exact ⟨_, rfl⟩
    · exact ⟨s.fetches, rfl⟩
  · exact ⟨s.fetches, rfl⟩

/-- The fetches of a task's inputs start, and nothing else happens. -/
theorem State.startFetches_frame {α : Type} (g : State → α → Option (Nat × Version)) (l : List α) : ∀ s : State,
    ∃ f, l.foldl (fun s r => match g s r with | some e => s.startFetch e.2 | none => s) s = { s with fetches := f } := by
  induction l with
  | nil => exact fun s => ⟨s.fetches, rfl⟩
  | cons r l ih =>
    intro s
    have step : ∃ f, (match g s r with | some e => s.startFetch e.2 | none => s) = { s with fetches := f } := by
      split
      · exact s.startFetch_frame _
      · exact ⟨s.fetches, rfl⟩
    obtain ⟨f, hf⟩ := step
    obtain ⟨f', hf'⟩ := ih { s with fetches := f }
    exact ⟨f', by rw [List.foldl_cons, hf, hf']⟩

theorem State.chargeShadow_onlyPorts (s : State) (d n : Nat) : s.OnlyPorts (s.chargeShadow d n) := by
  unfold State.chargeShadow
  split
  · exact s.chargeBytes_onlyPorts _ _ _ _
  · exact .refl s

theorem State.chargeEntry_onlyPorts (s : State) (t : Task) : s.OnlyPorts (s.chargeEntry t) := by
  unfold State.chargeEntry
  split
  · exact s.chargeBytes_onlyPorts _ _ _ _
  · exact s.chargeShadow_onlyPorts _ _

/-- A task that is accepted enters under the next number. -/
theorem State.accept_frame (s : State) (t : Task) : ∃ po f, s.accept t = { s with tasks := Map.put s.tasks s.uid t, uid := s.uid + 1, ports := po, fetches := f } := by
  have hports := State.chargeEntry_onlyPorts { s with tasks := Map.put s.tasks s.uid t, uid := s.uid + 1 } t
  unfold State.accept
  dsimp only
  rw [hports.eq]
  split
  · exact ⟨_, s.fetches, rfl⟩
  · obtain ⟨f, hf⟩ := State.startFetches_frame (fun s r => (s.resolveRef t.ctx (Ref.of r)).bind (s.findVersion t.ctx)) t.ins
      { s with tasks := Map.put s.tasks s.uid t, uid := s.uid + 1, ports := (State.chargeEntry { s with tasks := Map.put s.tasks s.uid t, uid := s.uid + 1 } t).ports }
    exact ⟨_, f, hf⟩

/-- The tasks of a list of records enter under the next numbers, one behind the other. -/
theorem State.acceptAll_spec {α : Type} (mk : State → α → Task) (l : List α) : ∀ s : State,
    ∃ ts n po f, l.foldl (fun s r => s.accept (mk s r)) s = { s with tasks := ts, uid := n, ports := po, fetches := f }
      ∧ (∀ j, j < s.uid → Map.look ts j = Map.look s.tasks j) ∧ ∀ k r, l[k]? = some r → ∃ w, Map.look ts (s.uid + k) = some (mk w r) := by
  induction l with
  | nil => exact fun s => ⟨s.tasks, s.uid, s.ports, s.fetches, rfl, fun _ _ => rfl, fun k r h => by simp at h⟩
  | cons r l ih =>
    intro s
    obtain ⟨po, f, hframe⟩ := s.accept_frame (mk s r)
    obtain ⟨ts, n, po', f', hfold, hbelow, hnew⟩ := ih (s.accept (mk s r))
    rw [hframe] at hfold hbelow hnew
    refine ⟨ts, n, po', f', ?_, fun j hj => ?_, fun k x hk => ?_⟩
    · rw [List.foldl_cons, hframe, hfold]
    · rw [hbelow j (Nat.lt_succ_of_lt hj), Map.look_put_ne _ _ (Nat.ne_of_lt hj)]
    · cases k with
      | zero =>
        obtain rfl : r = x := Option.some.inj hk
        exact ⟨s, (hbelow s.uid (Nat.lt_succ_self _)).trans (Map.look_put _ _ _)⟩
      | succ k =>
        obtain ⟨w, hw⟩ := hnew k x hk
        have hkey : s.uid + (k + 1) = s.uid + 1 + k := by omega
        exact ⟨w, by rw [hkey]; exact hw⟩

/-- The claims of the rebuild tasks alone are computed anew (R291, R426). -/
theorem State.reclaim_frame (s : State) : s.reclaim = { s with tasks := s.reclaim.tasks } := by
  unfold State.reclaim
  split <;> rfl

theorem State.look_reclaim {s : State} {k : Nat} {t : Task} (ht : Map.look s.tasks k = some t) :
    ∃ c, Map.look s.reclaim.tasks k = some { t with claim := c } ∧ (t.rebuild = none → c = t.claim) := by
  unfold State.reclaim
  split
  · exact ⟨t.claim, ht, fun _ => rfl⟩
  · dsimp only
    rw [Map.look_each, ht]
    refine ⟨_, rfl, fun h => ?_⟩
    rw [h]
    rfl

/-! ### The effect of each type (R32) -/

theorem State.writeSignal_onlyBytes (s : State) (ctx : Nat) (a : Word) : s.OnlyBytes (s.writeSignal ctx a) := by
  unfold State.writeSignal
  split
  · rfl
  · cases h : s.writeRange ctx a.toNat (toBytes 8 1) with
    | none => rfl
    | some u => exact State.writeRange_onlyBytes h

theorem length_of_mapM {α β : Type} {f : α → Option β} : ∀ {l : List α} {r : List β}, l.mapM f = some r → r.length = l.length
  | [], r, h => by
    rw [List.mapM_nil] at h
    rw [← Option.some.inj h]
    rfl
  | a :: l, r, h => by
    rw [List.mapM_cons] at h
    obtain ⟨b, -, hrest⟩ := Option.bind_eq_some_iff.mp h
    obtain ⟨bs, hbs, hr⟩ := Option.bind_eq_some_iff.mp hrest
    rw [← Option.some.inj hr, List.length_cons, List.length_cons, length_of_mapM hbs]

/-- The records that a packet names are as many as it says. -/
theorem State.length_packetRecords {s : State} {ctx : Nat} {p : List Byte} {rs : List (List Byte × Word)} (h : s.packetRecords ctx p = some rs) : rs.length = pkRecords p :=
  (length_of_mapM h).trans (List.length_range ..)

/-- SUBMIT and BATCH: the packet is open, with a task for each record. -/
theorem submitPacket_spec {s : State} {ctx q i : Nat} {p : List Byte} {rs : List (List Byte × Word)} (hrs : (s.packetRecords ctx p).getD [] = rs) :
    ∃ ts n po f, submitPacket s ctx q i p = { s.updQueue ctx q (fun x => { x with open_ := x.open_ ++ [(i, pkSignal p, rs.length)] }) with tasks := ts, uid := n, ports := po, fetches := f }
      ∧ ∀ k r, rs[k]? = some r → ∃ w : State, Map.look ts (s.uid + k) = some (w.taskOf ctx r.1 r.2 none (some (ctx, q, i)) []) := by
  obtain ⟨ts, n, po, f, hfold, -, hnew⟩ := State.acceptAll_spec (fun s (r : List Byte × Word) => s.taskOf ctx r.1 r.2 none (some (ctx, q, i)) []) rs
    (s.updQueue ctx q fun x => { x with open_ := x.open_ ++ [(i, pkSignal p, rs.length)] })
  have heq : submitPacket s ctx q i p = State.reclaim { s.updQueue ctx q (fun x => { x with open_ := x.open_ ++ [(i, pkSignal p, rs.length)] }) with tasks := ts, uid := n, ports := po, fetches := f } := by
    unfold submitPacket
    rw [hrs]
    dsimp only
    rw [hfold]
  refine ⟨_, n, po, f, heq.trans (State.reclaim_frame _), fun k r hr => ?_⟩
  obtain ⟨w, hw⟩ := hnew k r hr
  obtain ⟨c, hc, hsame⟩ := State.look_reclaim (s := { s.updQueue ctx q (fun x => { x with open_ := x.open_ ++ [(i, pkSignal p, rs.length)] }) with tasks := ts, uid := n, ports := po, fetches := f }) hw
  exact ⟨w, by rw [hsame rfl] at hc; exact hc⟩

/-- DEPS of a task that falls leaves every queue as it is. -/
theorem State.lowerDeps_spec (s : State) (k n : Nat) :
    (s.lowerDeps k n).served = s.served ∧ (∀ ctx q, (s.lowerDeps k n).queue? ctx q = s.queue? ctx q)
      ∧ ∀ t, Map.look s.tasks k = some t → Map.look (s.lowerDeps k n).tasks k = some { t with deps := t.deps - n } := by
  unfold State.lowerDeps
  cases ht : Map.look s.tasks k with
  | none => exact ⟨rfl, fun _ _ => rfl, fun _ h => (nomatch h)⟩
  | some t =>
    have hports := State.chargeShadow_onlyPorts { s with tasks := Map.put s.tasks k { t with deps := t.deps - n } } t.entry 64
    dsimp only
    rw [hports.eq]
    split
    · refine ⟨rfl, fun ctx q => look_queues_upd s.ctxs t.ctx ?_ ctx q, fun t' h => ?_⟩
      · exact fun _ => rfl
      · rw [← Option.some.inj h]
        exact Map.look_put _ _ _
    · refine ⟨rfl, fun _ _ => rfl, fun t' h => ?_⟩
      rw [← Option.some.inj h]
      exact Map.look_put _ _ _

/-- What a good RELEASE packet does. -/
def releasePacket (s : State) (ctx : Nat) (p : List Byte) : State :=
  (match s.taskAt ctx (BitVec.ofNat 64 (pkAddr p)) with
    | some (k, _) => s.lowerDeps k (pkCount p)
    | none => s.staleUp ctx).writeSignal ctx (pkSignal p)

theorem releasePacket_spec (s : State) (ctx q : Nat) (p : List Byte) :
    (releasePacket s ctx p).served = s.served ∧ (releasePacket s ctx p).queue? ctx q = s.queue? ctx q
      ∧ (∀ k t, s.taskAt ctx (BitVec.ofNat 64 (pkAddr p)) = some (k, t) → Map.look s.tasks k = some t →
          Map.look (releasePacket s ctx p).tasks k = some { t with deps := t.deps - pkCount p })
      ∧ (s.taskAt ctx (BitVec.ofNat 64 (pkAddr p)) = none → (releasePacket s ctx p).tasks = s.tasks
          ∧ (Map.look (releasePacket s ctx p).ctxs ctx).map Ctx.staleSucc = (Map.look s.ctxs ctx).map fun c => c.staleSucc + 1) := by
  unfold releasePacket State.queue?
  rw [State.writeSignal_onlyBytes]
  cases hat : s.taskAt ctx (BitVec.ofNat 64 (pkAddr p)) with
  | some e =>
    obtain ⟨k, t⟩ := e
    obtain ⟨hserved, hqueue, htask⟩ := s.lowerDeps_spec k (pkCount p)
    refine ⟨hserved, hqueue ctx q, fun k' t' h ht => ?_, fun h => (nomatch h)⟩
    obtain ⟨rfl, rfl⟩ := Prod.mk.inj (Option.some.inj h)
    exact htask t ht
  | none =>
    refine ⟨rfl, look_queues_upd s.ctxs ctx ?_ ctx q, fun _ _ h => (nomatch h), fun _ => ⟨rfl, ?_⟩⟩
    · exact fun _ => rfl
    · unfold State.staleUp
      dsimp only
      rw [Map.look_upd, Option.map_map]
      rfl

/-- What a good MARK packet does. -/
def markPacket (s : State) (ctx q i : Nat) (p : List Byte) : State :=
  match s.queue? ctx q with
  | none => s
  | some x =>
    if x.open_.isEmpty then s.writeSignal ctx (pkSignal p)
    else s.updQueue ctx q fun x => { x with marks := x.marks ++ [(i, pkSignal p)] }

theorem markPacket_open {s : State} {ctx q i : Nat} {p : List Byte} {x : HostQueue} (hx : s.queue? ctx q = some x) (hopen : x.open_ ≠ []) :
    markPacket s ctx q i p = s.updQueue ctx q fun x => { x with marks := x.marks ++ [(i, pkSignal p)] } := by
  unfold markPacket
  rw [hx]
  exact if_neg (by simpa using hopen)

theorem markPacket_closed {s : State} {ctx q i : Nat} {p : List Byte} {x : HostQueue} (hx : s.queue? ctx q = some x) (hopen : x.open_ = []) :
    markPacket s ctx q i p = s.writeSignal ctx (pkSignal p) := by
  unfold markPacket
  rw [hx]
  exact if_pos (by rw [hopen]; rfl)

/-! ### The packets -/

/-- The queue of a consumed packet, when the queue is as it was behind the two writes. -/
theorem State.queue?_consumed {s : State} {ctx q : Nat} {x : HostQueue} (hx : s.queue? ctx q = some x) (bad : Bool) : (s.consumed ctx q bad).queue? ctx q = some (x.consumed bad) := by
  have hserved : State.queue? { s with served := 64 * ctx + q } ctx q = some x := hx
  unfold State.consumed
  rw [State.queue?_updQueue, hserved]
  rfl

theorem State.queue?_scan {s : State} {ctx q : Nat} {x : HostQueue} (hx : s.queue? ctx q = some x) (more : Bool) : (s.scan ctx q more).queue? ctx q = some { x with scanning := more } := by
  rw [State.scan, State.queue?_updQueue, hx]
  rfl

section
variable {s s' : State} {x : HostQueue} {i : Nat} {p : List Byte} (hx : s.queue? s.args.a s.args.b = some x) (hserves : s.serves s.args.a s.args.b x = true)
  (hhead : s.headPacket s.args.a x = some (i, p)) (hconsume : s.consume s.args.a x i = some s') (hx' : s'.queue? s.args.a s.args.b = some x)
include hx hserves hhead hconsume hx'

/-- A malformed packet is only counted (R33). -/
theorem consumePacket_bad {types : Nat → Bool} (htypes : types (pkType p) = true) (act : State → Nat → Nat → Nat → List Byte → State) (hbad : s.badPacket s.args.a p = true) :
    ∃ u y, consumePacket s types act = .next u ∧ u = { s' with served := u.served, ctxs := u.ctxs } ∧ u.served = 64 * s.args.a + s.args.b ∧ u.queue? s.args.a s.args.b = some y
      ∧ y.pending = (x.pending && x.scanning) ∧ y.bad = x.bad + 1 ∧ y.open_ = x.open_ ∧ y.marks = x.marks := by
  obtain ⟨more, hexec⟩ := consumePacket_eq hx hserves hhead hconsume htypes act
  rw [hbad, if_pos rfl] at hexec
  exact ⟨_, _, hexec, rfl, rfl, State.queue?_scan (State.queue?_consumed hx' true) more, rfl, rfl, rfl, rfl⟩

/-- A good packet has its effect in a state whose queue has been consumed from. -/
theorem consumePacket_good {types : Nat → Bool} (htypes : types (pkType p) = true) (act : State → Nat → Nat → Nat → List Byte → State) (hgood : s.badPacket s.args.a p = false) :
    ∃ w more, w = s'.consumed s.args.a s.args.b false ∧ w.queue? s.args.a s.args.b = some (x.consumed false)
      ∧ consumePacket s types act = .next ((act w s.args.a s.args.b i p).scan s.args.a s.args.b more) := by
  obtain ⟨more, hexec⟩ := consumePacket_eq hx hserves hhead hconsume htypes act
  rw [hgood, if_neg Bool.false_ne_true] at hexec
  exact ⟨_, more, rfl, State.queue?_consumed hx' false, hexec⟩

/-- A good SUBMIT or BATCH packet (R32, R33). -/
theorem consumePacket_submit {types : Nat → Bool} (htypes : types (pkType p) = true) (hgood : s.badPacket s.args.a p = false) :
    ∃ u y, consumePacket s types submitPacket = .next u ∧ u.served = 64 * s.args.a + s.args.b ∧ u.queue? s.args.a s.args.b = some y ∧ y.pending = (x.pending && x.scanning) ∧ y.bad = x.bad
      ∧ ∀ rs, s'.packetRecords s.args.a p = some rs → y.open_ = x.open_ ++ [(i, pkSignal p, pkRecords p)]
        ∧ ∀ k r, rs[k]? = some r → ∃ t, Map.look u.tasks (s'.uid + k) = some t ∧ t.ctx = s.args.a ∧ t.addr = r.2 ∧ t.taskId = BitVec.ofNat 64 (field r.1 0 8) ∧ t.deps = field r.1 0x28 4
          ∧ t.state = .pending ∧ t.packet = some (s.args.a, s.args.b, i) ∧ t.rebuild = none := by
  obtain ⟨w, more, hw, hqueue, hexec⟩ := consumePacket_good hx hserves hhead hconsume hx' htypes submitPacket hgood
  obtain ⟨ts, n, po, f, hsubmit, hnew⟩ := submitPacket_spec (s := w) (ctx := s.args.a) (q := s.args.b) (i := i) (p := p) rfl
  rw [hsubmit] at hexec
  have hopened : State.queue? { w.updQueue s.args.a s.args.b (fun x => { x with open_ := x.open_ ++ [(i, pkSignal p, ((w.packetRecords s.args.a p).getD []).length)] })
      with tasks := ts, uid := n, ports := po, fetches := f } s.args.a s.args.b = some { x.consumed false with open_ := x.open_ ++ [(i, pkSignal p, ((w.packetRecords s.args.a p).getD []).length)] } :=
    (w.queue?_updQueue s.args.a s.args.b _).trans (by rw [hqueue]; rfl)
  refine ⟨_, _, hexec, by rw [hw]; rfl, State.queue?_scan hopened more, rfl, rfl, fun rs hrs => ?_⟩
  have hsame : (w.packetRecords s.args.a p).getD [] = rs := by rw [hw, State.packetRecords_consumed, hrs]; rfl
  rw [hsame, hw] at hnew
  refine ⟨by rw [hsame, State.length_packetRecords hrs], fun k r hr => ?_⟩
  obtain ⟨v, hv⟩ := hnew k r hr
  exact ⟨_, hv, rfl, rfl, rfl, rfl, rfl, rfl, rfl⟩

/-- A good RELEASE packet (R32 to R34). -/
theorem exec_packetRelease_good (htype : pkType p = 3) (hgood : s.badPacket s.args.a p = false) :
    ∃ u y, exec .packetRelease s = .next u ∧ u.served = 64 * s.args.a + s.args.b ∧ u.queue? s.args.a s.args.b = some y ∧ y.pending = (x.pending && x.scanning) ∧ y.bad = x.bad
      ∧ (∀ k t, s'.taskAt s.args.a (BitVec.ofNat 64 (pkAddr p)) = some (k, t) → Map.look s'.tasks k = some t → Map.look u.tasks k = some { t with deps := t.deps - pkCount p })
      ∧ (s'.taskAt s.args.a (BitVec.ofNat 64 (pkAddr p)) = none → u.tasks = s'.tasks
          ∧ (Map.look u.ctxs s.args.a).map Ctx.staleSucc = (Map.look s'.ctxs s.args.a).map fun c => c.staleSucc + 1) := by
  obtain ⟨w, more, rfl, hqueue, hexec⟩ := consumePacket_good hx hserves hhead hconsume hx' (types := fun t => t == 3) (by rw [htype]; rfl) (fun s ctx _ _ p => releasePacket s ctx p) hgood
  obtain ⟨hserved, hreleased, htask, hstale⟩ := releasePacket_spec (s'.consumed s.args.a s.args.b false) s.args.a s.args.b p
  refine ⟨_, _, hexec, hserved, State.queue?_scan (hreleased.trans hqueue) more, rfl, rfl, htask, fun hnone => ⟨(hstale hnone).1, ?_⟩⟩
  have hsucc := (hstale hnone).2
  unfold State.scan State.updQueue
  unfold State.consumed State.updQueue at hsucc ⊢
  rw [Map.look_upd, Option.map_map]
  rw [Map.look_upd, Option.map_map] at hsucc
  exact hsucc

/-- A good MARK packet (R32). -/
theorem exec_packetMark_good (htype : pkType p = 4) (hgood : s.badPacket s.args.a p = false) :
    ∃ u y, exec .packetMark s = .next u ∧ u.served = 64 * s.args.a + s.args.b ∧ u.queue? s.args.a s.args.b = some y ∧ y.pending = (x.pending && x.scanning) ∧ y.bad = x.bad
      ∧ (x.open_ ≠ [] → y.marks = x.marks ++ [(i, pkSignal p)] ∧ u = { s' with served := u.served, ctxs := u.ctxs })
      ∧ (x.open_ = [] → pkSignal p = 0 → y.marks = x.marks ∧ u = { s' with served := u.served, ctxs := u.ctxs }) := by
  obtain ⟨w, more, rfl, hqueue, hexec⟩ := consumePacket_good hx hserves hhead hconsume hx' (types := fun t => t == 4) (by rw [htype]; rfl) markPacket hgood
  by_cases hopen : x.open_ = []
  · rw [markPacket_closed hqueue hopen] at hexec
    have hbytes := (s'.consumed s.args.a s.args.b false).writeSignal_onlyBytes s.args.a (pkSignal p)
    refine ⟨_, _, hexec, by rw [hbytes]; rfl, State.queue?_scan (x := x.consumed false) (by rw [hbytes]; exact hqueue) more, rfl, rfl, fun h => absurd hopen h, fun _ hnone => ⟨rfl, ?_⟩⟩
    rw [State.writeSignal, if_pos hnone]
    rfl
  · rw [markPacket_open hqueue hopen] at hexec
    have hmarked := (State.queue?_updQueue (s'.consumed s.args.a s.args.b false) s.args.a s.args.b fun x => { x with marks := x.marks ++ [(i, pkSignal p)] }).trans (congrArg (Option.map _) hqueue)
    exact ⟨_, _, hexec, rfl, State.queue?_scan hmarked more, rfl, rfl, fun _ => ⟨rfl, rfl⟩, fun h => absurd h hopen⟩

end

theorem hostPackets : HostPackets := by
  intro s s' x i p ctx q hx hserves hhead hconsume hx' e he htype
  cases hbad : s.badPacket ctx p with
  | true =>
    obtain ⟨types, act, hexec, htypes⟩ : ∃ types act, exec e.1 s = consumePacket s types act ∧ types (pkType p) = true := by
      simp only [List.mem_cons, List.not_mem_nil, or_false] at he
      rcases he with rfl | rfl | rfl | rfl
      · exact ⟨fun t => t == 1 || decide (4 < t), submitPacket, rfl, by rw [htype]; rfl⟩
      · exact ⟨fun t => t == 2, submitPacket, rfl, by rw [htype]; rfl⟩
      · exact ⟨fun t => t == 3, fun s ctx _ _ p => releasePacket s ctx p, rfl, by rw [htype]; rfl⟩
      · exact ⟨fun t => t == 4, markPacket, rfl, by rw [htype]; rfl⟩
    obtain ⟨u, y, hu, hframe, hserved, hqueue, hpending, hcount, hopen, hmarks⟩ := consumePacket_bad hx hserves hhead hconsume hx' htypes act hbad
    exact ⟨u, y, hexec.trans hu, hserved, hqueue, hpending, hcount, fun _ => ⟨hframe, hopen, hmarks⟩, fun h => Bool.noConfusion h⟩
  | false =>
    simp only [List.mem_cons, List.not_mem_nil, or_false] at he
    rcases he with rfl | rfl | rfl | rfl
    · obtain ⟨u, y, hu, hserved, hqueue, hpending, hcount, hrecords⟩ := consumePacket_submit hx hserves hhead hconsume hx' (types := fun t => t == 1 || decide (4 < t)) (by rw [htype]; rfl) hbad
      exact ⟨u, y, hu, hserved, hqueue, hpending, hcount, fun h => (nomatch h), fun _ => ⟨fun _ => hrecords, fun h => absurd h (by decide), fun h => absurd h (by decide),
        fun h => absurd h (by decide), fun h => absurd h (by decide)⟩⟩
    · obtain ⟨u, y, hu, hserved, hqueue, hpending, hcount, hrecords⟩ := consumePacket_submit hx hserves hhead hconsume hx' (types := fun t => t == 2) (by rw [htype]; rfl) hbad
      exact ⟨u, y, hu, hserved, hqueue, hpending, hcount, fun h => (nomatch h), fun _ => ⟨fun _ => hrecords, fun h => absurd h (by decide), fun h => absurd h (by decide),
        fun h => absurd h (by decide), fun h => absurd h (by decide)⟩⟩
    · obtain ⟨u, y, hu, hserved, hqueue, hpending, hcount, htask, hstale⟩ := exec_packetRelease_good hx hserves hhead hconsume hx' htype hbad
      exact ⟨u, y, hu, hserved, hqueue, hpending, hcount, fun h => (nomatch h), fun _ => ⟨fun h => absurd h (by decide), fun _ k t hat ht => ⟨_, htask k t hat ht, rfl⟩, fun _ => hstale,
        fun h => absurd h (by decide), fun h => absurd h (by decide)⟩⟩
    · obtain ⟨u, y, hu, hserved, hqueue, hpending, hcount, hopen, hclosed⟩ := exec_packetMark_good hx hserves hhead hconsume hx' htype hbad
      exact ⟨u, y, hu, hserved, hqueue, hpending, hcount, fun h => (nomatch h), fun _ => ⟨fun h => absurd h (by decide), fun h => absurd h (by decide), fun h => absurd h (by decide),
        fun _ => hopen, fun _ => hclosed⟩⟩

/-- A doorbell of a queue that is not in use is counted and discarded (R345). -/
theorem State.doorbell_of_unused {s : State} {ctx q : Nat} (h : ∀ c x, Map.look s.ctxs ctx = some c → c.state = 1 → Map.look c.queues q = some x → x.e = 0) :
    s.doorbell ctx q = { s with doorbellsDropped := s.doorbellsDropped + 1 } := by
  unfold State.doorbell
  split
  next x hx =>
    obtain ⟨c, hc, hq⟩ := Option.bind_eq_some_iff.mp hx
    obtain ⟨hlook, hstate⟩ := Option.filter_eq_some_iff.mp hc
    exact if_pos (h c x hlook (beq_iff_eq.mp hstate) hq)
  next => rfl

theorem queueDoorbells : QueueDoorbells := by
  intro s ha hb hup hplanes
  have hexec : exec .queueDoorbell s = .next (s.doorbell s.args.a s.args.b) := by
    rw [exec_queueDoorbell, execQueueDoorbell, if_neg (by rw [hup, hplanes]; simp; omega)]
  refine ⟨fun c x hc hstate hq he => ?_, fun hunused => ?_⟩
  · rw [hexec, State.doorbell_of_used hc hstate hq he]
  · rw [hexec, State.doorbell_of_unused hunused]

/-- Settles O56: a packet by what consuming it leaves and the effect of its type, a doorbell by whether its queue is in use. -/
theorem hostQueues : Obligations.HostQueues := ⟨hostPackets, queueDoorbells⟩

end Sys2Proof.Machine
end

section
/-! Tasks that become ready, age and complete (R34, R40, R41, R291): what an entry that leaves the store touches, and where the completion record lies. -/

namespace Sys2Proof.Machine

open Sys2Proof.Claim

/-! ### Readiness and ageing (R34, R291, R294, R295) -/

theorem State.look_reclaim_none {s : State} {k : Nat} (h : Map.look s.tasks k = none) : Map.look s.reclaim.tasks k = none := by
  unfold State.reclaim
  split
  · exact h
  · dsimp only
    rw [Map.look_each, h]
    rfl

theorem exec_taskReady_of_ready {s : State} {t : Task} (ht : Map.look s.tasks s.args.a = some t) (hst : t.state = .pending) (hdeps : t.deps = 0) (hfailed : t.failed = none)
    (hlost : t.lost = none) (hentry : t.entry < 8) (hins : s.inputsReady t = true) (hctx : (Map.look s.ctxs t.ctx).any (fun c => c.state == 1) = true) :
    exec .taskReady s = .next (State.reclaim { s with tasks := Map.put s.tasks s.args.a { t with state := .ready, readyAt := s.now, again := [], aged := 0 } }) := by
  change execTaskReady s = _
  unfold execTaskReady
  rw [ht]
  exact if_pos ⟨hst, hdeps, by rw [hfailed]; rfl, by rw [hlost]; rfl, hentry, hins, hctx⟩

theorem exec_taskReady_of_waiting {s : State} {t : Task} (ht : Map.look s.tasks s.args.a = some t) (h : t.deps ≠ 0 ∨ s.inputsReady t = false) :
    exec .taskReady s = .refused .notEnabled := by
  change execTaskReady s = _
  unfold execTaskReady
  rw [ht]
  refine if_neg fun ⟨_, hdeps, _, _, _, hins, _⟩ => ?_
  rcases h with h | h
  · exact h hdeps
  · exact Bool.false_ne_true (h.symm.trans hins)

/-- A task as an interval of the pool of a die leaves it. -/
def State.agedTask (s : State) (d : Nat) (t : Task) : Task := if t.state ≠ TaskState.pending ∧ t.readyAt < s.now ∧ s.poolDie t = d then { t with aged := t.aged + 1 } else t

theorem State.agedTask_eq (s : State) (d : Nat) (t : Task) (c : Nat) :
    { s.agedTask d t with claim := c } = { t with claim := c, aged := if t.state ≠ TaskState.pending ∧ t.readyAt < s.now ∧ s.poolDie t = d then t.aged + 1 else t.aged } := by
  unfold State.agedTask
  split <;> rfl

/-- A parked shard as an interval of the pool of a die leaves it. -/
def State.agedParked (s : State) (d : Nat) (x : Parked) : Parked := if x.parkedAt < s.now ∧ s.standIn (dieOf x.fromCore) = d then { x with aged := x.aged + 1 } else x

theorem State.agedParked_eq (s : State) (d : Nat) (x : Parked) :
    s.agedParked d x = { x with aged := if x.parkedAt < s.now ∧ s.standIn (dieOf x.fromCore) = d then x.aged + 1 else x.aged } := by
  unfold State.agedParked
  split <;> rfl

/-- An interval has passed on the pool of a die; the claims are as they were. -/
def State.aged (s : State) (d : Nat) (p : Pool) : State :=
  { s with
    pools := Map.put s.pools d { p with last := p.last + p.age.toNat, age := p.stagedAge.getD p.age, stagedAge := none }
    tasks := Map.each s.tasks fun _ => s.agedTask d
    parked := Map.each s.parked fun _ => s.agedParked d }

theorem State.look_aged_tasks (s : State) (d : Nat) (p : Pool) {k : Nat} {t : Task} (ht : Map.look s.tasks k = some t) : Map.look (s.aged d p).tasks k = some (s.agedTask d t) := by
  rw [State.aged, Map.look_each, ht]
  rfl

theorem State.look_aged_parked (s : State) (d : Nat) (p : Pool) {k : Nat} {x : Parked} (hx : Map.look s.parked k = some x) : Map.look (s.aged d p).parked k = some (s.agedParked d x) := by
  rw [State.aged, Map.look_each, hx]
  rfl

theorem exec_ageingBoundary_eq {s : State} {p : Pool} (hp : Map.look s.pools s.args.idx = some p) (hdue : p.last + p.age.toNat ≤ s.now) :
    exec .ageingBoundary s = .next (s.aged s.args.idx p).reclaim := by
  change execAgeingBoundary s = _
  unfold execAgeingBoundary
  dsimp only
  rw [hp]
  exact if_neg (by omega)

theorem tasksBecomeReadyAndAge : TasksBecomeReadyAndAge := by
  refine ⟨fun s t ht => ⟨fun hst hdeps hfailed hlost hentry hins hctx => ?_, exec_taskReady_of_waiting ht⟩, fun s p hp hdue => ?_⟩
  · obtain ⟨c, hc, -⟩ := State.look_reclaim (s := { s with tasks := Map.put s.tasks s.args.a { t with state := .ready, readyAt := s.now, again := [], aged := 0 } }) (Map.look_put _ _ _)
    exact ⟨_, _, exec_taskReady_of_ready ht hst hdeps hfailed hlost hentry hins hctx, State.reclaim_frame _, hc, rfl⟩
  · have hframe := (s.aged s.args.idx p).reclaim_frame
    refine ⟨_, exec_ageingBoundary_eq hp hdue, by rw [hframe]; rfl, ?_, fun k t ht => ?_, fun k x hx => ?_⟩
    · rw [hframe]
      exact Map.look_put _ _ _
    · obtain ⟨c, hc, -⟩ := State.look_reclaim (s.look_aged_tasks s.args.idx p ht)
      exact ⟨_, hc, s.agedTask_eq _ t c⟩
    · rw [hframe, ← s.agedParked_eq]
      exact s.look_aged_parked _ p hx

/-! ### The entry leaves the store (R40 step 5, R106, R288) -/

theorem State.OnlyHolds.sameMemory {s u : State} (h : s.OnlyHolds u) : SameMemory s u := by
  refine State.readTarget_congr (by rw [h.eq]) (by rw [h.eq]) (by rw [h.eq]) fun k => ?_
  obtain ⟨hs, hk⟩ := h.cores k
  rw [hk, Option.map_map]
  rfl

theorem State.OnlyReserves.sameMemory {s u : State} (h : s.OnlyReserves u) : SameMemory s u := by
  refine State.readTarget_congr (by rw [h.eq]) (by rw [h.eq]) (by rw [h.eq]) fun k => ?_
  obtain ⟨r, hk⟩ := h.cores k
  rw [hk, Option.map_map]
  rfl

theorem State.OnlyReserves.tasks {s u : State} (h : s.OnlyReserves u) : u.tasks = s.tasks := by rw [h.eq]

theorem State.reclaim_sameMemory (s : State) : SameMemory s s.reclaim := by
  rw [s.reclaim_frame]
  exact fun _ _ => rfl

/-- A task is out of the store: its context knows what it knew, and its bindings are gone. -/
def State.unlisted (s : State) (key : Nat) (t : Task) : State :=
  State.unbind { s with
    tasks := Map.del s.tasks key
    ctxs := Map.upd s.ctxs t.ctx fun x => { x with knows := mergeKnows x.knows t.doneKnows } } fun b => b.1 == key

/-- A task leaves the store, which frees parked versions and its entry. -/
def State.dismiss (s : State) (key : Nat) (t : Task) : State := ((s.unlisted key t).freeWaiting.refill t.entry).reclaim

theorem State.look_dismiss (s : State) (key : Nat) (t : Task) : Map.look (s.dismiss key t).tasks key = none := by
  refine State.look_reclaim_none ?_
  rw [(State.refill_onlyReserves _ _).tasks, (State.freeWaiting_onlyHolds _).tasks]
  exact Map.look_del _ _

theorem State.dismiss_sameMemory (s : State) (key : Nat) (t : Task) : SameMemory s (s.dismiss key t) := fun x n =>
  calc (s.dismiss key t).readTarget x n
    _ = ((s.unlisted key t).freeWaiting.refill t.entry).readTarget x n := State.reclaim_sameMemory _ x n
    _ = (s.unlisted key t).freeWaiting.readTarget x n := (State.refill_onlyReserves _ _).sameMemory x n
    _ = (s.unlisted key t).readTarget x n := (State.freeWaiting_onlyHolds _).sameMemory x n
    _ = s.readTarget x n := rfl

/-! ### The completion record (R40 step 3, R41) -/

theorem length_completionRecord (t : Task) (status : Nat) (core : Option Nat) (now : Nat) (info : Word) : (completionRecord t status core now info).length = 32 := by
  simp only [completionRecord, List.length_append, length_toBytes]

/-- The state in which a task writes its completion record: one that ends with a status has dropped its unsealed outputs. -/
def State.ending (s : State) (key status : Nat) : State := if status = 0 then s else s.dropOutputs key

/-- Only versions and seal reports are dropped. -/
theorem State.ending_frame (s : State) (key status : Nat) : s.ending key status = { s with versions := (s.ending key status).versions, seals := (s.ending key status).seals } := by
  unfold State.ending
  split <;> rfl

theorem State.ending_sameMemory (s : State) (key status : Nat) : SameMemory s (s.ending key status) := by
  rw [s.ending_frame]
  exact fun _ _ => rfl

theorem State.range_ending (s : State) (key status ctx : Nat) (use : Use) (va n : Nat) : (s.ending key status).range ctx use va n = s.range ctx use va n := by
  rw [s.ending_frame]
  exact State.rangeOf_sameRoot (s := s) (cs := s.ctxs) (v := s.served) rfl use _ va n

theorem State.rangePoisoned_ending (s : State) (key status ctx va n : Nat) : (s.ending key status).rangePoisoned ctx va n = s.rangePoisoned ctx va n := by
  unfold State.rangePoisoned
  rw [s.range_ending]
  rw [s.ending_frame]
  rfl

/-- Bytes that fit one piece of a range are written there. -/
theorem State.writeRange_of_one {s : State} {ctx va n : Nat} {bs : List Byte} {tg : Target} (hn : bs.length = n) (hrange : s.range ctx .write va n = .ok [(tg, n)])
    (hport : s.refuses tg = false) (hseal : s.hitsSealed tg n = false) : s.writeRange ctx va bs = some (s.writeTarget tg bs) := by
  subst hn
  unfold State.writeRange
  rw [hrange]
  simp [hport, hseal]

/-- A write to DRAM or to a host reads back, and leaves every byte outside it. -/
theorem State.writeTarget_spec (s : State) {tg : Target} {bs : List Byte} {n : Nat} (hn : bs.length = n) (hport : s.refuses tg = false) (hpad : ∀ c o, tg ≠ .pad c o) :
    (s.writeTarget tg bs).readTarget tg n = bs ∧ SameBut s (s.writeTarget tg bs) tg n := by
  cases tg with
  | pad c o => exact absurd rfl (hpad c o)
  | dram a => exact ⟨s.readTarget_writeTarget_dram a bs hn, sameBut_writeTarget_dram s a bs hn⟩
  | host p a => exact ⟨s.readTarget_writeTarget_host p a bs hn, sameBut_writeTarget_host s p a bs hn⟩
  | peer p a => exact nomatch hport

theorem State.writeCompletion_none {s : State} {t : Task} (h : t.crec = 0) (status : Nat) (core : Option Nat) (info : Word) : s.writeCompletion t status core info = s := if_pos h

theorem State.writeCompletion_of_one {s : State} {t : Task} {tg : Target} (hcrec : t.crec ≠ 0) (hpoison : s.rangePoisoned t.ctx t.crec.toNat 32 = false)
    (hrange : s.range t.ctx .write t.crec.toNat 32 = .ok [(tg, 32)]) (hport : s.refuses tg = false) (hseal : s.hitsSealed tg 32 = false) (status : Nat) (core : Option Nat) (info : Word) :
    s.writeCompletion t status core info = s.writeTarget tg (completionRecord t status core s.now info) := by
  unfold State.writeCompletion
  rw [if_neg hcrec, hpoison, if_neg Bool.false_ne_true, State.writeRange_of_one (length_completionRecord ..) hrange hport hseal]

/-! ### A task completes (R40, R41) -/

/-- The interrupt of a task that asks for one. -/
def State.notify (s : State) (t : Task) : State := if t.flags.getLsbD 0 then s.msixUp ((Map.look s.ctxs t.ctx).elim 0 Ctx.owner) (2 + t.ctx % 62) else s

theorem State.notify_sameMemory (s : State) (t : Task) : SameMemory s (s.notify t) := by
  unfold State.notify
  split <;> exact fun _ _ => rfl

/-- Completion ends with the entry leaving the store. -/
theorem State.completeTask_eq (s : State) (key : Nat) (t : Task) (status : Nat) (core : Option Nat) (info : Word) :
    ∃ u : State, s.completeTask key t status core info = u.dismiss key t
      ∧ (t.succ = 0 → t.packet = none → u = ((s.ending key status).writeCompletion t status core info).notify t) := by
  refine ⟨_, rfl, fun hsucc hpacket => ?_⟩
  rw [hpacket]
  unfold State.releaseAll State.successors
  rw [if_pos hsucc]
  rfl

/-- What a task that completes leaves: no entry, and its record. -/
structure State.Completed (s u : State) (key : Nat) (t : Task) (status : Nat) (core : Option Nat) (info : Word) : Prop where
  gone : Map.look u.tasks key = none
  silent : t.succ = 0 → t.packet = none → t.crec = 0 → SameMemory s u
  record : ∀ tg, t.succ = 0 → t.packet = none → t.crec ≠ 0 → s.rangePoisoned t.ctx t.crec.toNat 32 = false → s.range t.ctx .write t.crec.toNat 32 = .ok [(tg, 32)] →
    s.refuses tg = false → s.hitsSealed tg 32 = false → (∀ c o, tg ≠ .pad c o) →
    u.readTarget tg 32 = completionRecord t status core s.now info ∧ SameBut s u tg 32

theorem State.completeTask_completed (s : State) (key : Nat) (t : Task) (status : Nat) (core : Option Nat) (info : Word) :
    s.Completed (s.completeTask key t status core info) key t status core info := by
  obtain ⟨u, heq, hu⟩ := s.completeTask_eq key t status core info
  rw [heq]
  have hsame : t.succ = 0 → t.packet = none → SameMemory ((s.ending key status).writeCompletion t status core info) (u.dismiss key t) := fun hsucc hpacket x n => by
    rw [u.dismiss_sameMemory, hu hsucc hpacket, State.notify_sameMemory]
  refine ⟨u.look_dismiss key t, fun hsucc hpacket hcrec x n => ?_, fun tg hsucc hpacket hcrec hpoison hrange hport hseal hpad => ?_⟩
  · rw [hsame hsucc hpacket, State.writeCompletion_none hcrec, s.ending_sameMemory]
  · have hnow : (s.ending key status).now = s.now := by rw [s.ending_frame]
    have hport' : (s.ending key status).refuses tg = false := by rw [s.ending_frame]; exact hport
    have hseal' : (s.ending key status).hitsSealed tg 32 = false := by rw [s.ending_frame]; exact hseal
    have hwrite := State.writeCompletion_of_one hcrec ((s.rangePoisoned_ending ..).trans hpoison) ((s.range_ending ..).trans hrange) hport' hseal' status core info
    obtain ⟨hread, hbut⟩ := State.writeTarget_spec _ (length_completionRecord t status core (s.ending key status).now info) hport' hpad
    rw [← hwrite] at hread hbut
    exact ⟨by rw [hsame hsucc hpacket, hread, hnow], sameBut_of_sameMemory hbut (s.ending_sameMemory key status) (hsame hsucc hpacket)⟩

/-! ### TASK_COMPLETE (R40 to R42) -/

section
variable {s : State} {t : Task} (ht : Map.look s.tasks s.args.a = some t) (hlive : t.live = false) (hrebuild : t.rebuild = none)
include ht hlive hrebuild

theorem exec_taskComplete_of_failed {st : Nat} {core : Option Nat} {info : Word} (hfailed : t.failed = some (st, core, info)) :
    exec .taskComplete s = .next (s.completeTask s.args.a t st core info) := by
  change execTaskComplete s = _
  unfold execTaskComplete
  dsimp only
  rw [ht]
  dsimp only
  rw [hlive, hrebuild, hfailed]
  rfl

/-- A task that has not failed, and has no lost shard, seals or completes. -/
theorem exec_taskComplete_eq (hfailed : t.failed = none) (hlost : t.lost = none) :
    exec .taskComplete s = if t.state = .sealing then (if t.sealsLeft = 0 then .next (s.completeTask s.args.a t 0 none 0) else .refused .notEnabled)
      else if t.state = .running ∧ t.shards.all (fun x => x == .retired) then
        if t.outputs.any fun o => s.outputTaken s.args.a t o.1 then .next (s.completeTask s.args.a t 2 none 0)
        else if t.outs = [] then .next (s.completeTask s.args.a t 0 none 0)
        else .next (s.reportOutputs s.args.a t)
      else .refused .notEnabled := by
  change execTaskComplete s = _
  unfold execTaskComplete
  dsimp only
  rw [ht]
  dsimp only
  rw [hlive, hrebuild, hfailed, hlost]
  rfl

theorem exec_taskComplete_of_sealing (hfailed : t.failed = none) (hlost : t.lost = none) (hst : t.state = .sealing) :
    exec .taskComplete s = if t.sealsLeft = 0 then .next (s.completeTask s.args.a t 0 none 0) else .refused .notEnabled := by
  rw [exec_taskComplete_eq ht hlive hrebuild hfailed hlost, if_pos hst]

theorem exec_taskComplete_of_retired (hfailed : t.failed = none) (hlost : t.lost = none) (hst : t.state = .running) (hretired : ∀ x ∈ t.shards, x = .retired) :
    exec .taskComplete s = if (t.outputs.any fun o => s.outputTaken s.args.a t o.1) = true then .next (s.completeTask s.args.a t 2 none 0)
      else if t.outs = [] then .next (s.completeTask s.args.a t 0 none 0) else .next (s.reportOutputs s.args.a t) := by
  have hsealing : t.state ≠ .sealing := by rw [hst]; exact fun h => (nomatch h)
  have hall : t.shards.all (fun x => x == .retired) = true := List.all_eq_true.mpr fun x hx => beq_iff_eq.mpr (hretired x hx)
  rw [exec_taskComplete_eq ht hlive hrebuild hfailed hlost, if_neg hsealing, if_pos ⟨hst, hall⟩]

end

theorem Task.outputs_of_none {t : Task} (h : t.outs = []) : t.outputs = [] := by
  unfold Task.outputs
  rw [h]
  rfl

/-- A task all of whose outputs have a version sends a report for each. -/
theorem State.reportOutputs_spec {s : State} {key : Nat} {t : Task} (hfound : ∀ o ∈ t.outputs, (s.findVersion t.ctx o.1).isSome = true) :
    ∃ new : List Seal, new.length = t.outputs.length
      ∧ s.reportOutputs key t = { s with seals := s.seals ++ new, tasks := Map.put s.tasks key { t with state := .sealing, sealsLeft := t.outputs.length } } := by
  have hnone (w : Ref × Nat → State → State) : ∀ l : List (Ref × Nat), (∀ o ∈ l, (s.findVersion t.ctx o.1).isSome = true) →
      l.foldl (fun u o => if (u.findVersion t.ctx o.1).isSome then u else w o u) s = s := by
    intro l
    induction l with
    | nil => exact fun _ => rfl
    | cons o l ih =>
      intro h
      rw [List.foldl_cons, if_pos (h o List.mem_cons_self)]
      exact ih fun o ho => h o (List.mem_cons_of_mem _ ho)
  have hlen (g : Ref × Nat → Nat × Version → Seal) : (t.outputs.filterMap fun o => (s.findVersion t.ctx o.1).map (g o)).length = t.outputs.length := by
    rw [List.length_filterMap_eq_countP, List.countP_eq_length]
    exact fun o ho => by rw [Option.isSome_map]; exact hfound o ho
  unfold State.reportOutputs
  dsimp only
  rw [hnone _ _ hfound, hlen]
  exact ⟨_, hlen _, rfl⟩

theorem tasksComplete : TasksComplete := by
  intro s t key ht hlive hrebuild ends
  have hends {status : Nat} {core : Option Nat} {info : Word} (h : exec .taskComplete s = .next (s.completeTask key t status core info)) : ends status core info := by
    obtain ⟨hgone, hsilent, hrecord⟩ := s.completeTask_completed key t status core info
    exact ⟨_, h, hgone, hsilent, hrecord⟩
  refine ⟨fun st core info hfailed => hends (exec_taskComplete_of_failed ht hlive hrebuild hfailed), fun hfailed hlost hst hleft => hends ?_, fun hfailed hlost hst hleft => ?_,
    fun hfailed hlost hst hretired => ?_⟩
  · rw [exec_taskComplete_of_sealing ht hlive hrebuild hfailed hlost hst, if_pos hleft]
  · rw [exec_taskComplete_of_sealing ht hlive hrebuild hfailed hlost hst, if_neg hleft]
  · have hexec := exec_taskComplete_of_retired ht hlive hrebuild hfailed hlost hst hretired
    refine ⟨fun houts => hends ?_, fun htaken => hends ?_, fun houts htaken hfound => ?_⟩
    · rw [hexec, Task.outputs_of_none houts, List.any_nil, if_neg Bool.false_ne_true, if_pos houts]
    · rw [hexec, if_pos htaken]
    · obtain ⟨new, hlen, hreport⟩ := State.reportOutputs_spec (key := key) hfound
      rw [hexec, htaken, if_neg Bool.false_ne_true, if_neg houts, hreport]
      exact ⟨_, _, rfl, rfl, Map.look_put _ _ _, rfl, by rw [List.length_append, hlen]⟩

/-- Settles O57: readiness and ageing by the entries they change, completion by the record it writes before its entry leaves the store. -/
theorem tasksReadyAndDone : Obligations.TasksReadyAndDone := ⟨tasksBecomeReadyAndAge, tasksComplete⟩

end Sys2Proof.Machine
end

section
/-! What a word that writes a scalar register and completes leaves (R45, R125, R137, R153). -/

namespace Sys2Proof.Machine

open Sys2Proof.Claim

/-- With no loop slot in use, the update at a word's end steps over the word (R137). -/
theorem loopUpdates_nil (pc : Word) (pred : BitVec 8) : ∀ top, loopUpdates pc top [] pred = (pc + 6, [], pred)
  | 0 => rfl
  | top + 1 => loopUpdates_nil pc pred top

theorem completedWordFollowsOn : CompletedWordFollowsOn := by
  intro t hloops
  have hcomplete : t.complete t.pc = { t with pc := t.pc + 6, loops := [], pred := t.pred, wait := .none } := by
    rw [Stream.complete, hloops, loopUpdates_nil]
  rw [hcomplete]
  exact ⟨rfl, rfl, rfl⟩

/-- What a scalar register reads as behind a word that writes one (R45). -/
theorem Core.sreg_after_setSreg (c : Core) (rd r : BitVec 6) (v : Word) :
    (after (c.setSreg rd v) .c).sreg r = if r = 0 then 0 else if r = rd then v else c.sreg r := by
  rw [after, Core.sreg_updStrm]
  by_cases hr : r = 0
  · rw [if_pos hr, Core.sreg, if_pos hr]
  · rw [if_neg hr, Core.sreg_setSreg]
    by_cases hrd : r = rd
    · rw [if_pos ⟨hrd, hrd ▸ hr⟩, if_pos hrd]
    · rw [if_neg fun h => hrd h.1, if_neg hrd]

/-- A write of a scalar register changes the registers alone. -/
theorem Core.setSreg_frame (c : Core) (rd : BitVec 6) (v : Word) : c.setSreg rd v = { c with sregs := (c.setSreg rd v).sregs } := by
  unfold Core.setSreg
  split <;> rfl

/-- Cores with the same scalar registers have the same behind a write of one. -/
theorem Core.setSreg_sregs_congr {c d : Core} (h : d.sregs = c.sregs) (rd : BitVec 6) (v : Word) : (d.setSreg rd v).sregs = (c.setSreg rd v).sregs := by
  unfold Core.setSreg
  split
  · exact h
  · exact congrArg (Map.put · rd.toNat v) h

theorem scalarWriteFrame : ScalarWriteFrame := by
  intro s c rd v hc t
  have hcore : t.core? s.curCore = some (after (c.setSreg rd v) .c) := s.core?_setCore s.curCore _
  have hothers : ∀ n, n ≠ s.curCore → t.core? n = s.core? n := fun n hn => s.core?_setCore_ne _ hn
  refine ⟨⟨_, hcore, fun r => c.sreg_after_setSreg rd r v, ?_⟩, hothers, fun _ => rfl, rfl, rfl, rfl, rfl, rfl, rfl, rfl⟩
  rw [c.setSreg_frame]
  exact ⟨fun _ => rfl, rfl, rfl, rfl, rfl, rfl, rfl, rfl, rfl, rfl, rfl, rfl, rfl, rfl, rfl, rfl, rfl, rfl, rfl, rfl, rfl, rfl, rfl, rfl, fun _ => rfl⟩

/-- Settles O38: the frame of a register write through the core it leaves, and the next word through the loop slots. -/
theorem completedWordFrame : Obligations.CompletedWordFrame := ⟨scalarWriteFrame, completedWordFollowsOn⟩

end Sys2Proof.Machine
end

section
/-! Granules and queue rings (R51, R54, R55): what reads back behind a write of granules, and behind a pop and a push. -/

namespace Sys2Proof.Machine

open Sys2Proof.Claim

/-! ### Full bits and granules (R51) -/

/-- A bit of a bit vector behind a write of one bit; a bit beyond the end is not written. -/
theorem getLsbD_setBit {w : Nat} (x : BitVec w) (i j : Nat) (b : Bool) : (setBit x i b).getLsbD j = if j = i ∧ i < w then b else x.getLsbD j := by
  have hone : (1#w <<< i).getLsbD j = decide (j = i ∧ i < w) := by
    rw [← BitVec.twoPow_eq, BitVec.getLsbD_twoPow]
    by_cases h : i = j
    · subst h; simp
    · simp [h, Ne.symm h]
  unfold setBit
  cases b
  case true => rw [if_pos rfl, BitVec.getLsbD_or, hone]; by_cases h : j = i ∧ i < w <;> simp only [h, decide_true, decide_false, Bool.or_true, Bool.or_false, if_true, if_false, and_self]
  case false =>
    rw [if_neg Bool.false_ne_true, BitVec.getLsbD_and, BitVec.getLsbD_not, hone]
    by_cases h : j = i ∧ i < w
    · rw [if_pos h, decide_eq_true h, Bool.not_true, Bool.and_false, Bool.and_false]
    · rw [if_neg h, decide_eq_false h, Bool.not_false, Bool.and_true]
      by_cases hj : j < w
      · rw [decide_eq_true hj, Bool.and_true]
      · rw [BitVec.getLsbD_of_ge x j (by omega), Bool.false_and]

theorem Core.allFull_iff (c : Core) (b : Bool) (g n : Nat) : c.allFull b g n = true ↔ ∀ i < n, c.full.getLsbD (g + i) = b := by
  induction n generalizing g with
  | zero => simp [Core.allFull]
  | succ n ih =>
    rw [Core.allFull, Bool.and_eq_true, beq_iff_eq, ih, Nat.forall_lt_succ_left]
    simp only [Nat.add_zero, Nat.add_assoc, Nat.add_comm 1]

/-- Clearing full bits changes those alone. -/
theorem Core.clearFull_frame (c : Core) (g n : Nat) : c.clearFull g n = { c with full := (c.clearFull g n).full } := by
  induction n generalizing c g with
  | zero => rfl
  | succ n ih => rw [Core.clearFull, ih]

theorem Core.getLsbD_clearFull (c : Core) (g n j : Nat) : (c.clearFull g n).full.getLsbD j = (c.full.getLsbD j && !decide (g ≤ j ∧ j < g + n)) := by
  induction n generalizing c g with
  | zero => simp [Core.clearFull]; omega
  | succ n ih =>
    rw [Core.clearFull, ih, getLsbD_setBit]
    by_cases hj : j = g
    · subst hj
      by_cases hw : j < 2048
      · simp [hw]
      · simp [hw, BitVec.getLsbD_of_ge c.full j (by omega)]
    · have hiff : (g + 1 ≤ j ∧ j < g + 1 + n) ↔ (g ≤ j ∧ j < g + (n + 1)) := by omega
      simp only [hj, false_and, if_false, hiff]

/-- A whole granule reads back, and every other is as before. -/
theorem Core.granule_writeGranule (c : Core) (g h : Nat) (v : BitVec 512) : (c.writeGranule g v).granule h = if h = g then v else c.granule h := by
  have hones (w : Nat) : BitVec.ofNat w (2 ^ w - 1) = BitVec.allOnes w := BitVec.eq_of_toNat_eq (by simp)
  unfold Core.writeGranule Core.writeBytes Core.granule
  dsimp only
  split
  next hh =>
    rw [hh, Map.lookD_put, Nat.mul_zero, BitVec.shiftLeft_zero, BitVec.shiftLeft_zero, show 8 * 64 = 512 from rfl, hones, BitVec.not_allOnes, BitVec.and_zero,
      BitVec.zero_or, BitVec.and_allOnes]
  next hh => exact Map.lookD_put_ne _ _ _ hh

/-- Writing granules changes their bytes and their bits alone. -/
theorem Core.writeGranules_frame (c : Core) (g : Nat) (vs : List (BitVec 512)) :
    c.writeGranules g vs = { c with
      gran := (c.writeGranules g vs).gran, valid := (c.writeGranules g vs).valid, full := (c.writeGranules g vs).full, granPoison := (c.writeGranules g vs).granPoison } := by
  induction vs generalizing c g with
  | nil => rfl
  | cons v vs ih => rw [Core.writeGranules, ih]; rfl

/-- Granules that are written read back, and every other is as before. -/
theorem Core.granule_writeGranules (c : Core) (g h : Nat) (vs : List (BitVec 512)) :
    (c.writeGranules g vs).granule h = if g ≤ h ∧ h < g + vs.length then vs.getD (h - g) 0 else c.granule h := by
  induction vs generalizing c g with
  | nil => rw [if_neg (by simp only [List.length_nil]; omega)]; rfl
  | cons v vs ih =>
    rw [Core.writeGranules, ih, Core.granule_writeGranule, List.length_cons]
    by_cases hg : h = g
    · subst hg; simp
    · by_cases hin : g + 1 ≤ h ∧ h < g + 1 + vs.length
      · rw [if_pos hin, if_pos (by omega), show h - g = h - (g + 1) + 1 by omega, List.getD_cons_succ]
      · rw [if_neg hin, if_neg hg, if_neg (by omega)]

/-- A granule that is written is full, and every other full bit is as before (R51). -/
theorem Core.getLsbD_writeGranules (c : Core) (g j : Nat) (vs : List (BitVec 512)) :
    (c.writeGranules g vs).full.getLsbD j = (c.full.getLsbD j || decide (g ≤ j ∧ j < g + vs.length ∧ j < 2048)) := by
  induction vs generalizing c g with
  | nil => rw [decide_eq_false (by simp only [List.length_nil]; omega), Bool.or_false]; rfl
  | cons v vs ih =>
    have hfull : (c.writeGranule g v).full = setBit c.full g true := rfl
    rw [Core.writeGranules, ih, hfull, getLsbD_setBit, List.length_cons]
    by_cases hj : j = g
    · subst hj
      by_cases hw : j < 2048 <;> simp [hw]
    · have hiff : (g + 1 ≤ j ∧ j < g + 1 + vs.length ∧ j < 2048) ↔ (g ≤ j ∧ j < g + (vs.length + 1) ∧ j < 2048) := by omega
      simp only [hj, false_and, if_false, hiff]

/-! ### Pops and pushes (R54, R55) -/

theorem Queue.size_pos (q : Queue) : 0 < q.size := by
  unfold Queue.size
  split_ifs <;> decide

/-- A core behind the pop of an entry. -/
def Core.popped (c : Core) (q : Nat) : Core :=
  let r := c.queue q
  { c.clearFull (r.entry r.head.toNat) r.size with queues := Map.put c.queues q { r with head := BitVec.ofNat 8 ((r.head.toNat + 1) % r.len) } }

/-- A core behind the push of an entry whose first granule is given, and whose others are zero. -/
def Core.pushed (c : Core) (q : Nat) (v : BitVec 512) : Core :=
  let r := c.queue q
  { c.writeGranules (r.entry r.tail.toNat) ((List.range r.size).map fun i => [v].getD i 0) with
    queues := Map.put c.queues q { r with tail := BitVec.ofNat 8 ((r.tail.toNat + 1) % r.len) } }

theorem Core.popped_frame (c : Core) (q : Nat) : c.popped q = { c with full := (c.popped q).full, queues := (c.popped q).queues } := by
  unfold Core.popped
  dsimp only
  rw [Core.clearFull_frame]

theorem Core.pushed_frame (c : Core) (q : Nat) (v : BitVec 512) :
    c.pushed q v = { c with gran := (c.pushed q v).gran, valid := (c.pushed q v).valid, full := (c.pushed q v).full, granPoison := (c.pushed q v).granPoison, queues := (c.pushed q v).queues } := by
  unfold Core.pushed
  dsimp only
  rw [Core.writeGranules_frame]

/-- The granules of a popped entry are empty. -/
theorem Core.popped_empty (c : Core) (q : Nat) : (c.popped q).allFull false ((c.queue q).entry (c.queue q).head.toNat) (c.queue q).size = true := by
  rw [Core.allFull_iff]
  intro i hi
  refine (c.getLsbD_clearFull _ _ _).trans ?_
  rw [decide_eq_true (by omega), Bool.not_true, Bool.and_false]

/-- The granules of a pushed entry are full. -/
theorem Core.pushed_full (c : Core) (q : Nat) (v : BitVec 512) (hend : (c.queue q).entry (c.queue q).tail.toNat + (c.queue q).size ≤ 2048) :
    (c.pushed q v).allFull true ((c.queue q).entry (c.queue q).tail.toNat) (c.queue q).size = true := by
  rw [Core.allFull_iff]
  intro i hi
  refine (c.getLsbD_writeGranules _ _ _).trans ?_
  rw [List.length_map, List.length_range, decide_eq_true (by omega), Bool.or_true]

/-- What each granule reads as behind a push. -/
theorem Core.granule_pushed (c : Core) (q h : Nat) (v : BitVec 512) :
    (c.pushed q v).granule h =
      if (c.queue q).entry (c.queue q).tail.toNat ≤ h ∧ h < (c.queue q).entry (c.queue q).tail.toNat + (c.queue q).size then
        if h = (c.queue q).entry (c.queue q).tail.toNat then v else 0
      else c.granule h := by
  refine (c.granule_writeGranules _ _ _).trans ?_
  rw [List.length_map, List.length_range]
  refine ite_congr rfl (fun ⟨hlo, hhi⟩ => ?_) fun _ => rfl
  rw [List.getD_eq_getElem?_getD, List.getElem?_map, List.getElem?_range (by omega)]
  split
  next hh => rw [hh, Nat.sub_self]; rfl
  next hh => rw [show h - (c.queue q).entry (c.queue q).tail.toNat = h - (c.queue q).entry (c.queue q).tail.toNat - 1 + 1 by omega]; rfl

section
variable {c : Core} {hwm q : Nat} {bad : Word}

theorem Core.pop_trap (h : hwm < (c.queue q).entry (c.queue q).head.toNat + (c.queue q).size) : c.pop hwm q bad = .trap 1 bad := if_pos h

theorem Core.pop_wait (h : (c.queue q).entry (c.queue q).head.toNat + (c.queue q).size ≤ hwm)
    (hempty : c.allFull true ((c.queue q).entry (c.queue q).head.toNat) (c.queue q).size = false) : c.pop hwm q bad = .wait (.queue q false) := by
  rw [Core.pop, if_neg (Nat.not_lt.mpr h), if_pos (by rw [hempty]; decide)]

/-- A pop of a full entry gives its granules, the first of them in front. -/
theorem Core.pop_ok (h : (c.queue q).entry (c.queue q).head.toNat + (c.queue q).size ≤ hwm)
    (hfull : c.allFull true ((c.queue q).entry (c.queue q).head.toNat) (c.queue q).size = true)
    (hclean : ∀ i < (c.queue q).size, ((c.queue q).entry (c.queue q).head.toNat + i) ∉ c.granPoison) :
    ∃ xs, c.pop hwm q bad = .ok (xs, c.popped q) ∧ xs.headD 0 = c.granule ((c.queue q).entry (c.queue q).head.toNat) := by
  have hnone : ((List.range (c.queue q).size).find? fun i => c.granPoison.contains ((c.queue q).entry (c.queue q).head.toNat + i)) = none := by
    refine List.find?_eq_none.mpr fun i hi hpoison => hclean i (List.mem_range.mp hi) (List.contains_iff_mem.mp hpoison)
  refine ⟨(List.range (c.queue q).size).map fun i => c.granule ((c.queue q).entry (c.queue q).head.toNat + i), ?_, ?_⟩
  · rw [Core.pop, if_neg (Nat.not_lt.mpr h), if_neg (by rw [hfull]; decide)]
    dsimp only
    rw [hnone]
    rfl
  · obtain ⟨n, hn⟩ := Nat.exists_eq_add_one_of_ne_zero (c.queue q).size_pos.ne'
    rw [hn, List.range_succ_eq_map]
    rfl

theorem Core.push_trap {data : List (BitVec 512)} (h : hwm < (c.queue q).entry (c.queue q).tail.toNat + (c.queue q).size) : c.push hwm q bad data = .trap 1 bad := if_pos h

theorem Core.push_wait {data : List (BitVec 512)} (h : (c.queue q).entry (c.queue q).tail.toNat + (c.queue q).size ≤ hwm)
    (hfull : c.allFull false ((c.queue q).entry (c.queue q).tail.toNat) (c.queue q).size = false) : c.push hwm q bad data = .wait (.queue q true) := by
  rw [Core.push, if_neg (Nat.not_lt.mpr h), if_pos (by rw [hfull]; decide)]

theorem Core.push_ok (v : BitVec 512) (h : (c.queue q).entry (c.queue q).tail.toNat + (c.queue q).size ≤ hwm)
    (hempty : c.allFull false ((c.queue q).entry (c.queue q).tail.toNat) (c.queue q).size = true) : c.push hwm q bad [v] = .ok (c.pushed q v) := by
  rw [Core.push, if_neg (Nat.not_lt.mpr h), if_neg (by rw [hempty]; decide)]
  rfl

end

end Sys2Proof.Machine
end

section
/-! POPV and PUSHV (R54, R55, R184). -/

namespace Sys2Proof.Machine

open Sys2Proof.Claim

/-- The write-back of the current core. -/
theorem State.sets_put {s : State} {c : Core} (hc : s.core? s.curCore = some c) (d : Core) : s.Sets (s.put d) s.curCore d := by
  have h := (State.Sets.refl hc).updCore fun _ => d
  rwa [State.updCore_of_core? hc] at h

/-- The CR.TVAL of a trap at a queue: its specifier (R132). -/
theorem queueSpec_toNat (q : BitVec 4) : queueSpec q.toNat = 0x800 + q.setWidth 64 := by
  refine BitVec.eq_of_toNat_eq ?_
  simp [queueSpec, BitVec.toNat_add]

/-- A release whose accesses have performed goes ahead (R89, R90, R95). -/
theorem Core.afterStores_of_released {s : State} {c : Core} {scope : Nat} (hrel : c.released scope = true) (hheard : s.heardOut s.curCore c scope = true) (r : Res) : c.afterStores s scope r = r := by
  have hloads : c.cs.loadsDone = true := by
    rw [Core.released, Bool.and_eq_true, Stream.released, Bool.and_eq_true] at hrel
    exact hrel.1.1
  rw [Core.afterStores, if_neg (by rw [hloads]; decide), if_pos ⟨hrel, hheard⟩]

section
variable {s : State} {c : Core} {sh : Shard} {rd ra rb : BitVec 6} {q : BitVec 4} (hruns : RunsPlain s .c c sh) (hacq : c.cs.acquiring = false)
include hruns

/-- A synchronising word that writes its core back leaves that core, without its region, behind the word. -/
theorem settle_sync_put (d : Core) : ∃ u, s.settle .c c sh (.done ((s.put d).syncPoint s.curCore)) = .next u ∧ s.Sets u s.curCore (after d.endRegion .c) :=
  ⟨_, settle_done .., (State.sets_put hruns.1.1 d).syncPoint.completeWord rfl⟩

include hacq

theorem exec_popv_eq (hfree : Free c [rd]) : exec (.popv rd q) s = s.settle .c c sh (
    (c.pop sh.hwm q.toNat (0x800 + q.setWidth 64)).orElse s fun x =>
      .done ((s.put { x.2.setSreg rd ((x.1.headD 0).setWidth 64) with joined := s.order }).syncPoint s.curCore)) := by
  obtain ⟨⟨hc, hsh, -, -⟩, hspec⟩ := hruns
  rw [exec_popv, execPopv, runC_eq _ hc hsh (hspec rfl), Core.ready_eq s _ hfree, Core.sync, Core.afterAcquire_of_none hacq, queueSpec_toNat]

theorem exec_pushv_eq (hfree : Free c [ra, rb]) (hrel : c.released 0 = true) : exec (.pushv ra rb q) s = s.settle .c c sh (
    (c.push sh.hwm q.toNat (0x800 + q.setWidth 64) [(c.sreg rb ++ c.sreg ra).setWidth 512]).orElse s fun d => .done ((s.put d).syncPoint s.curCore)) := by
  obtain ⟨⟨hc, hsh, -, -⟩, hspec⟩ := hruns
  rw [exec_pushv, execPushv, runC_eq _ hc hsh (hspec rfl), Core.ready_eq s _ hfree, Core.release, Core.afterAcquire_of_none hacq, Core.afterStores_of_released hrel rfl, queueSpec_toNat]

end

/-- Settles O21: both words through what a pop and a push answer, and the one step that writes their core back. -/
theorem queueWords : Obligations.QueueWords := by
  intro s c sh rd ra rb q hruns hfree hacq r h t
  have hc := hruns.1.1
  have hpop : Free c [rd] := fun x hx => hfree x (by simp_all)
  have hpush : Free c [ra, rb] := fun x hx => hfree x (List.mem_cons_of_mem _ hx)
  refine ⟨fun hend hfull hclean => ?_, fun hend hempty => ?_, fun htop => ?_, fun hrel => ⟨fun hend hhwm hempty => ?_, fun hend hfull => ?_, fun htop => ?_⟩⟩
  · obtain ⟨xs, hok, hhead⟩ := Core.pop_ok (bad := 0x800 + q.setWidth 64) hend hfull hclean
    obtain ⟨u, hu, hset⟩ := settle_sync_put hruns { (c.popped q.toNat).setSreg rd ((c.granule h).setWidth 64) with joined := s.order }
    have hsregs : ((c.popped q.toNat).setSreg rd ((c.granule h).setWidth 64)).sregs = (c.setSreg rd ((c.granule h).setWidth 64)).sregs :=
      Core.setSreg_sregs_congr (by rw [c.popped_frame]) rd _
    have hfulls := (Core.allFull_iff ..).mp (c.popped_empty q.toNat)
    rw [Core.setSreg_frame, hsregs, c.popped_frame] at hset
    refine ⟨u, _, ?_, hset.quiet, hset.touches, rfl, rfl, rfl, hset.sameMemory hc rfl, (Core.allFull_iff ..).mpr hfulls, rfl, Map.lookD_put ..⟩
    rw [exec_popv_eq hruns hacq hpop, hok, RegRead.orElse, hhead]
    exact hu
  · rw [exec_popv_eq hruns hacq hpop, Core.pop_wait hend hempty, RegRead.orElse, settle_wait]
  · rw [exec_popv_eq hruns hacq hpop, Core.pop_trap htop, RegRead.orElse, settle_trap, State.trapWord_of_plain (hruns.2 rfl)]
  · obtain ⟨u, hu, hset⟩ := settle_sync_put hruns (c.pushed q.toNat ((c.sreg rb ++ c.sreg ra).setWidth 512))
    have hgran : ∀ g, (c.pushed q.toNat ((c.sreg rb ++ c.sreg ra).setWidth 512)).granule g
        = if t ≤ g ∧ g < t + r.size then if g = t then (c.sreg rb ++ c.sreg ra).setWidth 512 else 0 else c.granule g := fun g => c.granule_pushed q.toNat g _
    have hfulls := (Core.allFull_iff ..).mp (c.pushed_full q.toNat ((c.sreg rb ++ c.sreg ra).setWidth 512) (hend.trans hhwm))
    have hqueue : (c.pushed q.toNat ((c.sreg rb ++ c.sreg ra).setWidth 512)).queue q.toNat = { r with tail := BitVec.ofNat 8 ((r.tail.toNat + 1) % r.len) } := Map.lookD_put ..
    rw [c.pushed_frame] at hset
    refine ⟨u, _, ?_, hset.quiet, hset.touches, rfl, rfl, hset.sameMemory hc rfl, ?_, fun i hlo hhi => ?_, fun g hg => ?_, (Core.allFull_iff ..).mpr hfulls, rfl, hqueue⟩
    · rw [exec_pushv_eq hruns hacq hpush hrel, Core.push_ok _ hend hempty]
      exact hu
    · exact (hgran t).trans (by rw [if_pos ⟨Nat.le_refl _, Nat.lt_add_of_pos_right r.size_pos⟩, if_pos rfl])
    · exact (hgran (t + i)).trans (by rw [if_pos (by omega), if_neg (by omega)])
    · exact (hgran g).trans (if_neg (by omega))
  · rw [exec_pushv_eq hruns hacq hpush hrel, Core.push_wait hend hfull, RegRead.orElse, settle_wait]
  · rw [exec_pushv_eq hruns hacq hpush hrel, Core.push_trap htop, RegRead.orElse, settle_trap, State.trapWord_of_plain (hruns.2 rfl)]

end Sys2Proof.Machine
end

section
/-! The steps that end a walk or a wait, and the entry of a trap that no executing word raises (R51, R55, R77, R107, R151, R381, R383, R397). -/

namespace Sys2Proof.Machine

open Sys2Proof.Claim

/-! ### A walk that installs nothing (R77, R397) -/

/-- A core whose shard is of the walk's context has the walk's answer to meet. -/
def Core.failsWalk (m : Miss) (bad : Bool) (path : Nat) (c : Core) : Core :=
  if c.shard.any (fun h => h.ctx == m.ctx) then { c with walkFails := c.walkFails ++ [{ path := path, page := m.page, bits := m.bits, poisoned := bad }] } else c

theorem State.walkFailed_eq (s : State) (m : Miss) (bad : Bool) :
    s.walkFailed m bad = m.others.foldl (fun s q => s.updCore q.1 (Core.failsWalk m bad q.2)) (s.updCore m.core (Core.failsWalk m bad m.path)) := rfl

/-- Changing cores one after another changes the cores alone. -/
theorem State.updCores_frame {α : Type} (n : α → Nat) (f : α → Core → Core) (l : List α) (s : State) :
    l.foldl (fun s q => s.updCore (n q) (f q)) s = { s with cores := (l.foldl (fun s q => s.updCore (n q) (f q)) s).cores } := by
  induction l generalizing s with
  | nil => rfl
  | cons q l ih => rw [List.foldl_cons, ih]; rfl

/-- An answer that a core has to meet is not lost to later ones. -/
theorem Core.mem_failsWalk {c : Core} {x : WalkFail} (hx : x ∈ c.walkFails) (m : Miss) (bad : Bool) (path : Nat) : x ∈ (c.failsWalk m bad path).walkFails := by
  unfold Core.failsWalk
  split
  · exact List.mem_append_left _ hx
  · exact hx

theorem State.mem_failsWalks {n : Nat} {x : WalkFail} (m : Miss) (bad : Bool) (l : List (Nat × Nat)) : ∀ {s : State} {c : Core}, s.core? n = some c → x ∈ c.walkFails →
    ∃ d, (l.foldl (fun s q => s.updCore q.1 (Core.failsWalk m bad q.2)) s).core? n = some d ∧ x ∈ d.walkFails := by
  induction l with
  | nil => exact fun hc hx => ⟨_, hc, hx⟩
  | cons q l ih =>
    intro s c hc hx
    by_cases hq : n = q.1
    · subst hq
      exact ih (by rw [State.core?_updCore, hc]; rfl) (Core.mem_failsWalk hx m bad q.2)
    · exact ih ((s.core?_updCore_ne _ hq).trans hc) hx

/-- A walk that fails changes the cores alone, and the one that it was made for has its answer to meet. -/
theorem State.walkFailed_spec (s : State) (m : Miss) (bad : Bool) :
    s.walkFailed m bad = { s with cores := (s.walkFailed m bad).cores } ∧ ∀ c, s.core? m.core = some c → c.shard.any (fun h => h.ctx == m.ctx) = true →
      ∃ d, (s.walkFailed m bad).core? m.core = some d ∧ { path := m.path, page := m.page, bits := m.bits, poisoned := bad } ∈ d.walkFails := by
  rw [State.walkFailed_eq]
  refine ⟨?_, fun c hc hctx => State.mem_failsWalks m bad m.others (c := c.failsWalk m bad m.path) (by rw [State.core?_updCore, hc]; rfl) ?_⟩
  · rw [State.updCores_frame]
    rfl
  · rw [Core.failsWalk, if_pos hctx]
    exact List.mem_append_right _ (List.mem_singleton_self _)

/-! ### TLB_WALK_DONE (R75, R77) -/

/-- A translation that is installed is in the cluster TLB. -/
theorem mem_tlbInsert (choice : Nat) (l : List Tlb) (x : Tlb) : x ∈ tlbInsert choice l x := List.mem_append_left _ List.mem_cons_self

theorem State.chargeWalk_onlyPorts (s : State) (l : List WalkEntry) : s.OnlyPorts (s.chargeWalk l) := .foldl (fun s _ => s.charge_onlyPorts _ actTask 1) l s

section
variable {s : State} {k : Cluster} {m : Miss} {x : Ctx} (hk : Map.look s.clusters s.args.a = some k) (hm : (k.misses.take 8)[s.args.idx]? = some m) (hx : Map.look s.ctxs m.ctx = some x)
include hk hm hx

/-- A walk that finds a leaf installs it, and what it has read, in its cluster. -/
theorem exec_tlbWalkDone_of_leaf {e n : Nat} (hleaf : s.walk k.walks m.ctx (m.page * 2 ^ m.bits) pageLevels x.ptroot = .leaf e n) :
    ∃ walks ports, exec .tlbWalkDone s = .next { s with
      clusters := Map.put s.clusters s.args.a { k with
        misses := k.misses.eraseIdx s.args.idx
        tlb := tlbInsert s.choice k.tlb { ctx := m.ctx, page := m.page * 2 ^ m.bits / 2 ^ n, bits := n, entry := BitVec.ofNat 64 e }
        walks := walks }
      ports := ports } := by
  rw [exec_tlbWalkDone, execTlbWalkDone, hk]
  dsimp only
  rw [hm]
  dsimp only
  rw [hx]
  dsimp only
  rw [hleaf]
  exact ⟨_, _, congrArg _ (State.chargeWalk_onlyPorts _ _).eq⟩

/-- A walk that meets a fault or poisoned table data leaves it to those that wait. -/
theorem exec_tlbWalkDone_of_failure {bad : Bool}
    (hfails : (s.walk k.walks m.ctx (m.page * 2 ^ m.bits) pageLevels x.ptroot = .fault ∧ bad = false) ∨ (s.walk k.walks m.ctx (m.page * 2 ^ m.bits) pageLevels x.ptroot = .poisoned ∧ bad = true)) :
    exec .tlbWalkDone s = .next (State.walkFailed { s with clusters := Map.put s.clusters s.args.a { k with misses := k.misses.eraseIdx s.args.idx } } m bad) := by
  rw [exec_tlbWalkDone, execTlbWalkDone, hk]
  dsimp only
  rw [hm]
  dsimp only
  rw [hx]
  dsimp only
  rcases hfails with ⟨hwalk, rfl⟩ | ⟨hwalk, rfl⟩ <;> rw [hwalk]

end

/-! ### The ends of waits, and TRAP_ENTRY (R51, R55, R381) -/

section
variable {s : State} {c : Core} {sh : Shard} (hc : s.core? s.args.core = some c) (hsh : c.shard = some sh)
include hc hsh

theorem onShard_eq (f : Core → Shard → Out) : onShard s f = f c sh := by
  rw [onShard, hc]
  dsimp only
  rw [hsh]

theorem exec_queueAccessResume_of_ready {q : Nat} {push : Bool} (ha : s.args.strm ≠ .a) (hwait : (c.strm s.args.strm).wait = .queue q push)
    (hready : c.allFull (!push) ((c.queue q).entry (if push then (c.queue q).tail.toNat else (c.queue q).head.toNat)) (c.queue q).size = true) :
    exec .queueAccessResume s = .next (s.setCore s.args.core (c.updStrm s.args.strm fun t => { t with wait := .none })) := by
  rw [exec_queueAccessResume, execQueueAccessResume, onShard_eq hc hsh, if_neg fun h => ha h.1, hwait]
  dsimp only
  rw [if_pos hready, State.updCore_of_core? hc]

theorem exec_fullBitWaitResume_of_full {g : Nat} (hwait : (c.strm s.args.strm).wait = .full g) (hfull : c.full.getLsbD g = true) :
    exec .fullBitWaitResume s = .next (s.setCore s.args.core (c.updStrm s.args.strm fun t => { t with wait := .none })) := by
  rw [exec_fullBitWaitResume, execFullBitWaitResume, onShard_eq hc hsh, hwait]
  dsimp only
  rw [if_pos hfull, State.updCore_of_core? hc]

variable (hinh : c.inh = false)
include hinh

/-- The exception of an access in flight goes ahead of the word at the PC. -/
theorem exec_trapEntry_of_held {τ : Strm} {f : Access} {code : BitVec 8} {tval : Word} (hheld : s.heldTrap s.args.core c sh = some (τ, f, code, tval)) :
    exec .trapEntry s = .next (s.takeHeld s.args.core τ f code tval) := by
  rw [exec_trapEntry, execTrapEntry, onShard_eq hc hsh]
  dsimp only
  rw [if_neg (by rw [hinh]; decide), hheld]
  rfl

/-- A word of the V-stream that does not fetch or decode traps. -/
theorem exec_trapEntry_of_fetch {code : BitVec 8} {tval : Word} (hv : s.args.strm = .v) (hheld : s.heldTrap s.args.core c sh = none) (hhalted : c.vs.halted = false)
    (hfetch : s.fetch s.args.core sh .v c.vs.pc = .trap code tval) :
    exec .trapEntry s = .next (({ s with curCore := s.args.core } : State).takeTrap s.args.core .v code tval) := by
  have hgo : ¬ ((c.strm .v).halted || (Strm.v != .c && c.inh)) = true := by rw [hinh, Bool.and_false, Bool.or_false]; exact Bool.eq_false_iff.mp hhalted
  rw [exec_trapEntry, execTrapEntry, onShard_eq hc hsh]
  dsimp only
  rw [if_neg (by rw [hinh]; decide), hheld, hv]
  dsimp only [Option.orElse]
  rw [if_neg (by decide)]
  dsimp only
  rw [if_neg hgo, show (c.strm .v).pc = c.vs.pc from rfl, hfetch]
  rfl

end

/-- Settles O22: a walk by what it finds, a wait by what ends it, a trap by what raises it. -/
theorem walksAndResumes : Obligations.WalksAndResumes := by
  constructor
  · intro s k m x hk hm hx va walk popped rest
    refine ⟨fun e n hleaf => ?_, fun bad hfails => ?_⟩
    · obtain ⟨walks, ports, hexec⟩ := exec_tlbWalkDone_of_leaf hk hm hx hleaf
      exact ⟨_, ports, hexec, rfl, mem_tlbInsert ..⟩
    · obtain ⟨heq, hanswer⟩ := State.walkFailed_spec (popped { k with misses := rest }) m bad
      exact ⟨_, exec_tlbWalkDone_of_failure hk hm hx hfails, heq, hanswer⟩
  · intro s c sh σ hc hsh hσ resumed
    subst hσ
    exact ⟨fun q push ha hwait hready => exec_queueAccessResume_of_ready hc hsh ha hwait hready, fun g hwait hfull => exec_fullBitWaitResume_of_full hc hsh hwait hfull,
      fun code tval hv hinh hheld hhalted hfetch => exec_trapEntry_of_fetch hc hsh hinh hv hheld hhalted hfetch,
      fun τ f code tval hinh hheld => exec_trapEntry_of_held hc hsh hinh hheld⟩

end Sys2Proof.Machine
end

section
/-! What a word that synchronises changes of its own core, and what a barrier's change leaves of the owner's (R59, R90, R105, R106, R186). -/

namespace Sys2Proof.Machine

open Sys2Proof.Claim

/-! ### The core whose word synchronises -/

/-- A core in the course of a word that synchronises. -/
def Core.InSync (c e : Core) : Prop := e = { c with
  shard := e.shard, barriers := e.barriers, latches := e.latches, pad := e.pad, padPoison := e.padPoison, dcache := e.dcache, heard := e.heard, barWait := e.barWait }

/-- A word that synchronises and writes a register has gone on plainly. -/
theorem Core.InSync.went {s u : State} {n : Nat} {c e : Core} {rd : BitVec 6} {v : Word} (h : c.InSync e) (hset : s.Sets u n (after (e.setSreg rd v) .c)) (hn : s.curCore = n) :
    Went u c (after (e.setSreg rd v) .c) (c.setSreg rd v).sregs := by
  have hcore : u.core? u.curCore = some (after (e.setSreg rd v) .c) := by rw [hset.curCore, hn, hset.core]
  have hsregs : (e.setSreg rd v).sregs = (c.setSreg rd v).sregs := Core.setSreg_sregs_congr (by rw [h]) rd v
  have hafter : after (e.setSreg rd v) .c = { e with sregs := (c.setSreg rd v).sregs, cs := (e.cs.complete e.cs.pc).count } := by
    rw [Core.setSreg_frame, hsregs]
    rfl
  rw [hafter] at hcore ⊢
  rw [h] at hcore ⊢
  exact ⟨hcore, rfl, rfl, rfl, rfl, rfl, rfl⟩

/-- The end of a shard's region and a write of a register do not meet. -/
theorem Core.endRegion_setSreg (c : Core) (rd : BitVec 6) (v : Word) : (c.setSreg rd v).endRegion = c.endRegion.setSreg rd v := by
  unfold Core.setSreg
  split <;> rfl

/-- A core whose shard releases: its later accesses get a new clock (R106). -/
def Core.ticked (c : Core) : Core := { c with shard := c.shard.map fun h => { h with clock := h.clock + 1 } }

theorem Core.ticked_setSreg (c : Core) (rd : BitVec 6) (v : Word) : (c.setSreg rd v).ticked = c.ticked.setSreg rd v := by
  unfold Core.setSreg
  split <;> rfl

/-- A core whose shard acquires at an order of issue what others know (R90, R106). -/
def Core.acquired (c : Core) (o : Nat) (k : Map Nat) : Core := { c with heard := o, shard := c.shard.map fun h => { h with knows := mergeKnows h.knows k } }

theorem State.Sets.tickClock {s u : State} {n : Nat} {d : Core} (h : s.Sets u n d) : s.Sets (u.tickClock n) n d.ticked := h.updCore _

theorem State.Sets.acquire {s u : State} {n : Nat} {d : Core} (h : s.Sets u n d) (k : Map Nat) : s.Sets (u.acquire n k) n (d.acquired u.order k) := h.updCore _

theorem State.Sets.waitOn {s u : State} {n : Nat} {d : Core} (h : s.Sets u n d) (hn : s.curCore = n) (w : Wait) : s.Sets (u.waitOn .c w) n { d with cs := { d.cs with wait := w } } := by
  rw [State.waitOn, h.curCore, hn]
  exact h.updCore _

/-- A shard that has passed its phase clears lost marks, and nothing else (R401). -/
theorem State.Sets.passed {s u : State} {n : Nat} {d : Core} (h : s.Sets u n d) (uid : Nat) : ∃ l, State.Sets { s with lostMarks := l } (u.passed uid) n d := by
  rw [State.passed_frame]
  generalize (u.passed uid).lostMarks = l
  exact ⟨l, by rw [Quiet, h.quiet], h.core, h.others⟩

/-! ### The owner of a barrier -/

theorem State.setCore_sameMemory {s : State} {k : Nat} {o d : Core} (ho : s.core? k = some o) (hpad : d.pad = o.pad) : SameMemory s (s.setCore k d) := by
  refine State.readTarget_congr rfl rfl rfl fun m => ?_
  by_cases hm : m = k
  · rw [hm, State.core?_setCore, ho]
    exact congrArg some hpad
  · rw [State.core?_setCore_ne _ _ hm]

/-- A core with other barriers and latches. -/
def Core.withBarriers (c : Core) (m : Map Barrier) (l : BitVec 6) : Core := { c with barriers := m, latches := l }

/-- The core of a word, when a barrier of its owner, which it may be itself, has changed. -/
theorem State.core?_withBarriers {s : State} {n k : Nat} {c o : Core} (hc : s.core? n = some c) (ho : s.core? k = some o) (m : Map Barrier) (l : BitVec 6) :
    ∃ m' l', (s.setCore k (o.withBarriers m l)).core? n = some (c.withBarriers m' l') ∧ (k = n → m' = m ∧ l' = l) := by
  by_cases hk : k = n
  · subst hk
    obtain rfl : c = o := Option.some.inj (hc.symm.trans ho)
    exact ⟨m, l, State.core?_setCore .., fun _ => ⟨rfl, rfl⟩⟩
  · exact ⟨c.barriers, c.latches, (State.core?_setCore_ne s _ (Ne.symm hk)).trans hc, fun h => absurd h hk⟩

/-- The owner keeps its barriers through what the word does to its own core besides. -/
theorem State.Sets.owner {s u : State} {n k : Nat} {d o : Core} {m : Map Barrier} {l : BitVec 6} (h : s.Sets u n d) (ho : s.core? k = some (o.withBarriers m l))
    (hd : k = n → d.barriers = m ∧ d.latches = l) : ∃ o', u.core? k = some o' ∧ o'.barriers = m ∧ o'.latches = l := by
  by_cases hk : k = n
  · exact ⟨d, hk ▸ h.core, hd hk⟩
  · exact ⟨_, (h.others k hk).trans ho, rfl, rfl⟩

theorem State.Sets.barrier_of_owner {s u : State} {n k : Nat} {d o : Core} {m : Map Barrier} {l : BitVec 6} (h : s.Sets u n d) (ho : s.core? k = some (o.withBarriers m l))
    (hd : k = n → d.barriers = m ∧ d.latches = l) (b : Nat) : (u.core? k).elim Barrier.zero (fun c => c.barrier b) = Map.lookD m b .zero := by
  obtain ⟨o', ho', hbarriers, -⟩ := h.owner ho hd
  rw [ho', Option.elim_some, Core.barrier, hbarriers]

end Sys2Proof.Machine
end

section
/-! BARINIT, BARARV, BARWAIT and BARARW (R59, R185, R186). -/

namespace Sys2Proof.Machine

open Sys2Proof.Claim

/-! ### An arrival, and a wait that completes -/

/-- What an arrival of a core makes of a barrier (R186). -/
structure Barrier.Arrived (x y : Barrier) (n : Nat) : Prop where
  init : y.init = x.init
  expect : y.expect = x.expect
  members : y.members = setBit x.members (n % 96) true
  last : x.pending = 1 → y.phase = x.phase + 1 ∧ y.pending = x.expect
  more : x.pending ≠ 1 → y.phase = x.phase ∧ y.pending = x.pending - 1

/-- A phase of a barrier that completes is not the one behind it. -/
theorem phase_ne_succ (p : BitVec 4) : p + 1 ≠ p := fun h => absurd (add_eq_left.mp h) (by decide)

/-- A barrier that one more core has arrived at. -/
def Barrier.joined (x : Barrier) (n : Nat) (sh : Shard) : Barrier :=
  { x with members := setBit x.members (n % 96) true, pending := x.pending - 1, arriving := mergeKnows x.arriving sh.release }

/-- A barrier whose phase is complete. -/
def Barrier.turned (x : Barrier) : Barrier :=
  { x with phase := x.phase + 1, pending := x.expect, arriving := [], completed := phaseKnows x.completed x.arriving x.phase.toNat }

/-- The owner of a barrier behind an arrival. -/
def Core.arrivedAt (o : Core) (b n : Nat) (sh : Shard) : Core :=
  let x := (o.barrier b).joined n sh
  if x.pending = 0 then o.withBarriers (Map.put o.barriers b x.turned) (setBit o.latches 3 true) else o.withBarriers (Map.put o.barriers b x) o.latches

theorem Core.arrivedAt_spec (o : Core) (b n : Nat) (sh : Shard) : ∃ m l, o.arrivedAt b n sh = o.withBarriers m l ∧ Barrier.Arrived (o.barrier b) (Map.lookD m b .zero) n
    ∧ ((o.barrier b).pending = 1 → l.getLsbD 3 = true) := by
  have hzero : ((o.barrier b).joined n sh).pending = 0 ↔ (o.barrier b).pending = 1 := sub_eq_zero
  by_cases hdone : ((o.barrier b).joined n sh).pending = 0
  · refine ⟨_, _, if_pos hdone, ?_, fun _ => (getLsbD_setBit ..).trans (if_pos ⟨rfl, by decide⟩)⟩
    rw [Map.lookD_put]
    exact ⟨rfl, rfl, rfl, fun _ => ⟨rfl, rfl⟩, fun h => absurd (hzero.mp hdone) h⟩
  · refine ⟨_, _, if_neg hdone, ?_, fun h => absurd (hzero.mpr h) hdone⟩
    rw [Map.lookD_put]
    exact ⟨rfl, rfl, rfl, fun h => absurd (hzero.mpr h) hdone, fun _ => ⟨rfl, rfl⟩⟩

theorem State.arrive_eq {s : State} {k : Nat} {o : Core} (ho : s.core? k = some o) (b n : Nat) (sh : Shard) :
    s.arrive k b n sh = ((s.setCore k (o.arrivedAt b n sh)).tickClock n).syncPoint n := by
  have hset (y : Barrier) : s.setBarrier k b y = s.setCore k (o.withBarriers (Map.put o.barriers b y) o.latches) := State.updCore_of_core? ho _
  have harrive : s.arrive k b n sh = ((if (((s.core? k).elim .zero fun c => c.barrier b).joined n sh).pending = 0 then
        (s.setBarrier k b (((s.core? k).elim .zero fun c => c.barrier b).joined n sh).turned).updCore k fun c => { c with latches := setBit c.latches 3 true }
      else s.setBarrier k b (((s.core? k).elim .zero fun c => c.barrier b).joined n sh)).tickClock n).syncPoint n := rfl
  rw [harrive, ho, Option.elim_some, hset, hset, State.updCore_setCore]
  unfold Core.arrivedAt
  dsimp only
  split
  · rfl
  · rfl

/-- An arrival changes the barrier at its owner, and closes the region of the core that arrives. -/
theorem State.arrive_sets {s : State} {n k : Nat} {c o : Core} (hc : s.core? n = some c) (ho : s.core? k = some o) (b : Nat) (sh : Shard) :
    ∃ m l m' l', Barrier.Arrived (o.barrier b) (Map.lookD m b .zero) n ∧ ((o.barrier b).pending = 1 → l.getLsbD 3 = true) ∧ (k = n → m' = m ∧ l' = l)
      ∧ (s.setCore k (o.withBarriers m l)).core? n = some (c.withBarriers m' l') ∧ (s.setCore k (o.withBarriers m l)).Sets (s.arrive k b n sh) n (c.withBarriers m' l').ticked.endRegion := by
  obtain ⟨m, l, heq, harrived, hlatch⟩ := o.arrivedAt_spec b n sh
  obtain ⟨m', l', hcore, hown⟩ := State.core?_withBarriers hc ho m l
  exact ⟨m, l, m', l', harrived, hlatch, hown, hcore, by rw [State.arrive_eq ho, heq]; exact (State.Sets.refl hcore).tickClock.syncPoint⟩

/-- A wait that completes acquires, empties the data cache, and forgets that it has arrived (R79, R90, R186). -/
def Core.waited (c : Core) (o : Nat) (k : Map Nat) : Core := { (c.acquired o k).endRegion with dcache := [], barWait := none }

theorem State.Sets.waited {s u : State} {n : Nat} {d : Core} (h : s.Sets u n d) (sh : Shard) (x : Barrier) (p : Nat) :
    ∃ marks o, State.Sets { s with lostMarks := marks } (u.waited n sh x p) n (d.waited o (knowsOf x.completed p)) := by
  obtain ⟨marks, hpassed⟩ := (h.acquire (knowsOf x.completed p)).passed sh.uid
  exact ⟨marks, u.order, hpassed.syncPoint.updCore _⟩

/-- What the owner of a barrier is behind an arrival of a core (R186, R193). -/
def ArrivedIn (u : State) (k b n : Nat) (x : Barrier) : Prop :=
  ∃ o y, u.core? k = some o ∧ y = o.barrier b ∧ y.init = true ∧ y.expect = x.expect ∧ y.members = setBit x.members (n % 96) true
    ∧ (x.pending = 1 → y.phase = x.phase + 1 ∧ y.pending = x.expect ∧ o.latches.getLsbD 3 = true) ∧ (x.pending ≠ 1 → y.phase = x.phase ∧ y.pending = x.pending - 1)

theorem Barrier.Arrived.arrivedIn {u : State} {k b n : Nat} {x : Barrier} {o : Core} {m : Map Barrier} {l : BitVec 6} (h : x.Arrived (Map.lookD m b .zero) n) (hinit : x.init = true)
    (hlatch : x.pending = 1 → l.getLsbD 3 = true) (ho : u.core? k = some o ∧ o.barriers = m ∧ o.latches = l) : ArrivedIn u k b n x := by
  obtain ⟨hcore, rfl, rfl⟩ := ho
  exact ⟨o, _, hcore, rfl, h.init.trans hinit, h.expect, h.members, fun hlast => ⟨(h.last hlast).1, (h.last hlast).2, hlatch hlast⟩, h.more⟩

/-- The bytes of memory are as before a word that changed a barrier of its owner, and no scratchpad. -/
theorem State.Sets.sameMemory_withBarriers {s u : State} {n k : Nat} {o e d : Core} {m : Map Barrier} {l : BitVec 6} {marks : List (Target × List Nat)}
    (h : State.Sets { s.setCore k (o.withBarriers m l) with lostMarks := marks } u n d) (ho : s.core? k = some o) (hcore : (s.setCore k (o.withBarriers m l)).core? n = some e) (hpad : d.pad = e.pad) :
    SameMemory s u :=
  fun t j => (State.Sets.sameMemory (s := { s.setCore k (o.withBarriers m l) with lostMarks := marks }) h hcore hpad t j).trans
    ((sameMemory_of_eq rfl rfl rfl rfl t j).trans (State.setCore_sameMemory (d := o.withBarriers m l) ho rfl t j))

theorem State.Sets.quiet_of_setCore {s u : State} {n k : Nat} {o d : Core} (h : (s.setCore k o).Sets u n d) : Quiet s u := by
  rw [Quiet, h.quiet]
  rfl

/-! ### The words -/

/-- A word whose wait on a phase is over acquires what the arrivals in it know, and reads the phase. -/
theorem settle_waited {s : State} {c : Core} {sh : Shard} (hc : s.core? s.curCore = some c) (rd : BitVec 6) (x : Barrier) (p : Nat) : ∃ u d, s.settle .c c sh (.done ((s.waited s.curCore sh x p).updCore s.curCore fun c => c.setSreg rd (x.phase.setWidth 64))) = .next u
    ∧ SameMemory s u ∧ Went u c d (c.setSreg rd (x.phase.setWidth 64)).sregs ∧ d.dcache = [] ∧ d.barWait = none := by
  obtain ⟨marks, o, hwaited⟩ := (State.Sets.refl hc).waited sh x p
  have hset := (hwaited.updCore fun c => c.setSreg rd (x.phase.setWidth 64)).completeWord rfl
  have hwent := Core.InSync.went (c := c) (rd := rd) (v := x.phase.setWidth 64) (e := c.waited o (knowsOf x.completed p)) rfl hset rfl
  refine ⟨_, _, settle_done .., fun t j => ?_, hwent, ?_, ?_⟩
  · exact (State.Sets.sameMemory (s := { s with lostMarks := marks }) hset hc (by rw [Core.setSreg_frame]; rfl) t j).trans (sameMemory_of_eq rfl rfl rfl rfl t j)
  · rw [Core.setSreg_frame]; rfl
  · rw [Core.setSreg_frame]; rfl

section
variable {s : State} {c o : Core} {sh : Shard} {rd ra : BitVec 6} {remote : Bool} {k : Nat} (hruns : RunsPlain s .c c sh) (hfree : Free c [rd, ra]) (hacq : c.cs.acquiring = false)
include hruns hfree hacq

/-- A barrier word goes to the owner that its operands name (R185). -/
theorem atBarrier_eq (m : Core → Shard → Nat → Res) : atBarrier s rd ra remote m =
    s.settle .c c sh ((barrierOwner s c sh ra remote).elim (.trap 13 (c.sreg ra)) fun k => m c sh k) := by
  obtain ⟨⟨hc, hsh, -, -⟩, hspec⟩ := hruns
  have hready : ∀ x ∈ (if remote then [rd, ra] else [rd]), c.isPending x = false := by
    intro x hx
    cases remote
    · exact hfree x (List.mem_of_mem_take (i := 1) hx)
    · exact hfree x hx
  rw [atBarrier, runC_eq _ hc hsh (hspec rfl), Core.ready_eq s _ hready, Core.afterAcquire_of_none hacq]
  cases barrierOwner s c sh ra remote
  · rfl
  · rfl

theorem atBarrier_none (m : Core → Shard → Nat → Res) (h : barrierOwner s c sh ra remote = none) : atBarrier s rd ra remote m = .next (s.takeTrap s.curCore .c 13 (c.sreg ra)) := by
  rw [atBarrier_eq hruns hfree hacq, h]
  exact congrArg _ (State.trapWord_of_plain (hruns.2 rfl) s .c 13 _)

theorem atBarrier_some (m : Core → Shard → Nat → Res) (h : barrierOwner s c sh ra remote = some k) : atBarrier s rd ra remote m = s.settle .c c sh (m c sh k) := by
  rw [atBarrier_eq hruns hfree hacq, h, Option.elim_some]

/-- A remote owner outside the cluster or the context is an aperture fault (R185). -/
theorem exec_barrier_fault (expect : BitVec 12) (bar : BitVec 9) (h : barrierOwner s c sh ra remote = none) {i : Instr}
    (hi : i ∈ [Instr.barinit rd ra remote expect bar, .bararv rd ra remote bar, .barwait rd ra remote bar, .bararw rd ra remote bar]) :
    exec i s = .next (s.takeTrap s.curCore .c 13 (c.sreg ra)) := by
  simp only [List.mem_cons, List.not_mem_nil, or_false] at hi
  rcases hi with rfl | rfl | rfl | rfl <;> exact atBarrier_none hruns hfree hacq _ h

variable (hk : barrierOwner s c sh ra remote = some k) (ho : s.core? k = some o) (bar : BitVec 9)
include hk ho

theorem exec_barinit_spec (expect : BitVec 12) : ∃ u d o' y, exec (.barinit rd ra remote expect bar) s = .next u ∧ Quiet s u ∧ SameMemory s u
    ∧ Went u c d (c.setSreg rd ((o.barrier bar.toNat).phase.setWidth 64)).sregs ∧ u.core? k = some o' ∧ y = o'.barrier bar.toNat ∧ y.init = true ∧ y.phase = (o.barrier bar.toNat).phase
    ∧ y.expect = expect ∧ y.pending = expect ∧ y.members = setBit (o.barrier bar.toNat).members (s.curCore % 96) true := by
  have hc := hruns.1.1
  obtain ⟨m', l', hcore, hown⟩ := State.core?_withBarriers hc ho (Map.put o.barriers bar.toNat
    { o.barrier bar.toNat with init := true, expect := expect, pending := expect, members := setBit (o.barrier bar.toNat).members (s.curCore % 96) true, arriving := [] }) o.latches
  have hset := ((State.Sets.refl hcore).updCore fun c => c.setSreg rd ((o.barrier bar.toNat).phase.setWidth 64)).completeWord rfl
  have hwent := Core.InSync.went (c := c) (rd := rd) (v := (o.barrier bar.toNat).phase.setWidth 64) (e := c.withBarriers m' l') rfl hset rfl
  obtain ⟨o', hcore', hbarriers, -⟩ := hset.owner (State.core?_setCore ..) fun h => by rw [Core.setSreg_frame]; exact hown h
  refine ⟨_, _, o', _, ?_, hset.quiet_of_setCore, hset.sameMemory_withBarriers ho hcore (by rw [Core.setSreg_frame]; rfl), hwent, hcore', rfl, ?_⟩
  · rw [exec_barinit, execBarinit, atBarrier_some hruns hfree hacq _ hk, ho]
    dsimp only [Option.elim_some]
    rw [State.setBarrier, State.updCore_of_core? ho, settle_done]
    rfl
  · rw [Core.barrier, hbarriers, Map.lookD_put]
    exact ⟨rfl, rfl, rfl, rfl, rfl⟩

/-- A word that waits on a barrier which is not set up waits for it. -/
theorem exec_barrier_unset (hinit : (o.barrier bar.toNat).init = false) {i : Instr} (hi : i ∈ [Instr.bararv rd ra remote bar, .barwait rd ra remote bar]) :
    exec i s = .next (s.waitOn .c .barrier) := by
  simp only [List.mem_cons, List.not_mem_nil, or_false] at hi
  rcases hi with rfl | rfl
  · rw [exec_bararv, execBararv, atBarrier_some hruns hfree hacq _ hk, ho]
    dsimp only [Option.elim_some]
    rw [if_pos (by rw [hinit]; decide), settle_wait]
  · rw [exec_barwait, execBarwait, atBarrier_some hruns hfree hacq _ hk, ho]
    dsimp only [Option.elim_some]
    rw [if_pos (Or.inl (by rw [hinit]; decide)), settle_wait]

section
variable (hinit : (o.barrier bar.toNat).init = true)
include hinit

theorem exec_bararv_spec (hrel : c.released 1 = true) : ∃ u d, exec (.bararv rd ra remote bar) s = .next u ∧ Quiet s u ∧ SameMemory s u
    ∧ Went u c d (c.setSreg rd ((o.barrier bar.toNat).phase.setWidth 64)).sregs ∧ ArrivedIn u k bar.toNat s.curCore (o.barrier bar.toNat) := by
  have hc := hruns.1.1
  obtain ⟨m, l, m', l', harrived, hlatch, hown, hcore, harrive⟩ := State.arrive_sets hc ho bar.toNat sh
  have hset := (harrive.updCore fun c => c.setSreg rd ((o.barrier bar.toNat).phase.setWidth 64)).completeWord rfl
  have hwent := Core.InSync.went (c := c) (rd := rd) (v := (o.barrier bar.toNat).phase.setWidth 64) (e := (c.withBarriers m' l').ticked.endRegion) rfl hset rfl
  have howner := hset.owner (State.core?_setCore ..) fun h => by rw [Core.setSreg_frame]; exact hown h
  refine ⟨_, _, ?_, hset.quiet_of_setCore, hset.sameMemory_withBarriers ho hcore (by rw [Core.setSreg_frame]; rfl), hwent, ?_⟩
  · rw [exec_bararv, execBararv, atBarrier_some hruns hfree hacq _ hk, ho]
    dsimp only [Option.elim_some]
    rw [if_neg (by rw [hinit]; decide), Core.afterStores_of_released hrel rfl, settle_done]
  · obtain ⟨o', howner⟩ := howner
    exact harrived.arrivedIn hinit hlatch howner

theorem exec_barwait_passed (hphase : (o.barrier bar.toNat).phase.toNat ≠ bits (c.sreg rd).toNat 0 4) : ∃ u d, exec (.barwait rd ra remote bar) s = .next u ∧ SameMemory s u
    ∧ Went u c d (c.setSreg rd ((o.barrier bar.toNat).phase.setWidth 64)).sregs ∧ d.dcache = [] := by
  obtain ⟨u, d, hu, hmem, hwent, hcache, -⟩ := settle_waited (sh := sh) hruns.1.1 rd (o.barrier bar.toNat) (bits (c.sreg rd).toNat 0 4)
  refine ⟨u, d, ?_, hmem, hwent, hcache⟩
  rw [exec_barwait, execBarwait, atBarrier_some hruns hfree hacq _ hk, ho]
  dsimp only [Option.elim_some]
  rw [if_neg (not_or.mpr ⟨by rw [hinit]; decide, hphase⟩)]
  exact hu

omit hinit in
theorem exec_barwait_waits (hphase : (o.barrier bar.toNat).phase.toNat = bits (c.sreg rd).toNat 0 4) : exec (.barwait rd ra remote bar) s = .next (s.waitOn .c .barrier) := by
  rw [exec_barwait, execBarwait, atBarrier_some hruns hfree hacq _ hk, ho]
  dsimp only [Option.elim_some]
  rw [if_pos (Or.inr hphase), settle_wait]

/-- A BARARW that has not arrived yet arrives. -/
theorem exec_bararw_first (hrel : c.released 1 = true) (hfirst : ∀ p, c.barWait ≠ some (c.cs.pc, p)) :
    exec (.bararw rd ra remote bar) s = s.settle .c c sh (execBararw.bararwArrive rd bar s c sh k (o.barrier bar.toNat)) := by
  rw [exec_bararw, execBararw, atBarrier_some hruns hfree hacq _ hk, ho]
  dsimp only [Option.elim_some]
  cases hwait : c.barWait with
  | none =>
    dsimp only
    rw [if_neg (by rw [hinit]; decide), Core.afterStores_of_released hrel rfl]
  | some w =>
    obtain ⟨pc, p⟩ := w
    dsimp only
    rw [if_neg (fun hpc => hfirst p (by rw [hwait, hpc])), if_neg (by rw [hinit]; decide), Core.afterStores_of_released hrel rfl]

section
variable (hrel : c.released 1 = true) (hfirst : ∀ p, c.barWait ≠ some (c.cs.pc, p))
include hrel hfirst

/-- The last arrival of a phase completes it, and waits no more. -/
theorem exec_bararw_last (hlast : (o.barrier bar.toNat).pending = 1) : ∃ u d, exec (.bararw rd ra remote bar) s = .next u ∧ SameMemory s u
    ∧ Went u c d (c.setSreg rd (((o.barrier bar.toNat).phase + 1).setWidth 64)).sregs ∧ ArrivedIn u k bar.toNat s.curCore (o.barrier bar.toNat) := by
  have hc := hruns.1.1
  obtain ⟨m, l, m', l', harrived, hlatch, hown, hcore, harrive⟩ := State.arrive_sets hc ho bar.toNat sh
  have hphase := (harrived.last hlast).1
  have hy : ((s.arrive k bar.toNat s.curCore sh).core? k).elim Barrier.zero (fun c => c.barrier bar.toNat) = Map.lookD m bar.toNat .zero := harrive.barrier_of_owner (State.core?_setCore ..) hown _
  generalize hsh' : (((s.arrive k bar.toNat s.curCore sh).core? s.curCore).bind Core.shard).getD sh = sh'
  obtain ⟨marks, ord, hwaited⟩ := harrive.waited sh' (Map.lookD m bar.toNat .zero) (o.barrier bar.toNat).phase.toNat
  have hset := (hwaited.updCore fun c => c.setSreg rd (((o.barrier bar.toNat).phase + 1).setWidth 64)).completeWord rfl
  have hwent := Core.InSync.went (c := c) (rd := rd) (v := ((o.barrier bar.toNat).phase + 1).setWidth 64)
    (e := (c.withBarriers m' l').ticked.endRegion.waited ord (knowsOf (Map.lookD m bar.toNat .zero).completed (o.barrier bar.toNat).phase.toNat)) rfl hset rfl
  have howner := hset.owner (State.core?_setCore ..) fun h => by rw [Core.setSreg_frame]; exact hown h
  refine ⟨_, _, ?_, hset.sameMemory_withBarriers ho hcore (by rw [Core.setSreg_frame]; rfl), hwent, ?_⟩
  · rw [exec_bararw_first hruns hfree hacq hk ho bar hinit hrel hfirst, execBararw.bararwArrive]
    rw [hy, hphase, if_neg (phase_ne_succ _), hsh', settle_done]
  · obtain ⟨o', howner⟩ := howner
    exact harrived.arrivedIn hinit hlatch howner

/-- An arrival that leaves its phase open is remembered, and waits. -/
theorem exec_bararw_more (hmore : (o.barrier bar.toNat).pending ≠ 1) : ∃ u d, exec (.bararw rd ra remote bar) s = .next u ∧ Quiet s u ∧ SameMemory s u
    ∧ ArrivedIn u k bar.toNat s.curCore (o.barrier bar.toNat) ∧ u.core? s.curCore = some d ∧ d.cs = { c.cs with wait := .barrier }
    ∧ d.barWait = some (c.cs.pc, (o.barrier bar.toNat).phase.toNat) ∧ d.sregs = c.sregs := by
  have hc := hruns.1.1
  obtain ⟨m, l, m', l', harrived, hlatch, hown, hcore, harrive⟩ := State.arrive_sets hc ho bar.toNat sh
  have hphase := (harrived.more hmore).1
  have hy : ((s.arrive k bar.toNat s.curCore sh).core? k).elim Barrier.zero (fun c => c.barrier bar.toNat) = Map.lookD m bar.toNat .zero := harrive.barrier_of_owner (State.core?_setCore ..) hown _
  have hset := (harrive.updCore fun d => { d with barWait := some (c.cs.pc, (o.barrier bar.toNat).phase.toNat) }).waitOn rfl .barrier
  have howner := hset.owner (State.core?_setCore ..) hown
  refine ⟨_, _, ?_, hset.quiet_of_setCore, hset.sameMemory_withBarriers ho hcore rfl, ?_, hset.core, rfl, rfl, rfl⟩
  · rw [exec_bararw_first hruns hfree hacq hk ho bar hinit hrel hfirst, execBararw.bararwArrive]
    rw [hy, hphase, if_pos rfl, settle_wait]
  · obtain ⟨o', howner⟩ := howner
    exact harrived.arrivedIn hinit hlatch howner

end

end

/-- A BARARW that has arrived waits for another phase than the one it arrived in. -/
theorem exec_bararw_again {p : Nat} (hwait : c.barWait = some (c.cs.pc, p)) :
    ((o.barrier bar.toNat).phase.toNat ≠ p → ∃ u d, exec (.bararw rd ra remote bar) s = .next u ∧ SameMemory s u
      ∧ Went u c d (c.setSreg rd ((o.barrier bar.toNat).phase.setWidth 64)).sregs ∧ d.barWait = none)
    ∧ ((o.barrier bar.toNat).phase.toNat = p → exec (.bararw rd ra remote bar) s = .next (s.waitOn .c .barrier)) := by
  have hexec : exec (.bararw rd ra remote bar) s = s.settle .c c sh (if (o.barrier bar.toNat).phase.toNat = p then .wait s .barrier
      else .done ((s.waited s.curCore sh (o.barrier bar.toNat) p).updCore s.curCore fun c => c.setSreg rd ((o.barrier bar.toNat).phase.setWidth 64))) := by
    rw [exec_bararw, execBararw, atBarrier_some hruns hfree hacq _ hk, ho]
    dsimp only [Option.elim_some]
    rw [hwait]
    exact congrArg _ (if_pos rfl)
  refine ⟨fun hphase => ?_, fun hphase => by rw [hexec, if_pos hphase, settle_wait]⟩
  obtain ⟨u, d, hu, hmem, hwent, -, hforgets⟩ := settle_waited (sh := sh) hruns.1.1 rd (o.barrier bar.toNat) p
  exact ⟨u, d, by rw [hexec, if_neg hphase]; exact hu, hmem, hwent, hforgets⟩

end

theorem coreBarrierWords : CoreBarrierWords := by
  intro s c o sh rd ra remote expect bar k hruns hfree hacq ho b x joined arrived
  refine ⟨fun hfault i hi => exec_barrier_fault hruns hfree hacq expect bar hfault hi, fun hk => ?_⟩
  exact ⟨exec_barinit_spec hruns hfree hacq hk ho bar expect, fun hinit hrel => exec_bararv_spec hruns hfree hacq hk ho bar hinit hrel,
    fun hinit hphase => exec_barwait_passed hruns hfree hacq hk ho bar hinit hphase, fun _ hphase => exec_barwait_waits hruns hfree hacq hk ho bar hphase,
    fun hinit i hi => exec_barrier_unset hruns hfree hacq hk ho bar hinit hi,
    fun hinit hrel hfirst => ⟨fun hlast => exec_bararw_last hruns hfree hacq hk ho bar hinit hrel hfirst hlast, fun hmore => exec_bararw_more hruns hfree hacq hk ho bar hinit hrel hfirst hmore⟩,
    fun p hwait => exec_bararw_again hruns hfree hacq hk ho bar hwait⟩

end Sys2Proof.Machine
end

section
/-! The bits and the bytes of a transaction barrier (R187): numbers in bytes, its fields, and writes to the device's own memory. -/

namespace Sys2Proof.Machine

open Sys2Proof.Claim

/-! ### Numbers in bytes (R2) -/

/-- Bytes hold a number below what they have room for. -/
theorem ofBytes_lt (l : List Byte) : ofBytes l < 256 ^ l.length := by
  induction l with
  | nil => exact Nat.one_pos
  | cons b l ih =>
    have hb : b.toNat < 256 := b.isLt
    rw [ofBytes, List.length_cons, Nat.pow_succ]
    omega

/-- A number that fits its bytes reads back. -/
theorem ofBytes_toBytes {n v : Nat} (h : v < 256 ^ n) : ofBytes (toBytes n v) = v := by
  induction n generalizing v with
  | zero => exact (Nat.lt_one_iff.mp h).symm
  | succ n ih =>
    have hv : v / 256 < 256 ^ n := by rw [Nat.pow_succ] at h; omega
    rw [toBytes, ofBytes, ih hv, BitVec.toNat_ofNat]
    exact Nat.mod_add_div v 256

/-! ### The fields of a transaction barrier (R187) -/

/-- The low 4 bits of a number, which are a phase. -/
theorem bits_phase (v : Nat) : bits v 0 4 = v % 16 := by
  rw [bits]
  omega

theorem tbPhase_eq (w : Nat) : tbPhase w = w % 16 := bits_phase w

section
variable {w : Nat} (hw : w < 2 ^ 128)

/-- A barrier that is set up: phase 0, and its arrivals recorded as the reload value. -/
theorem tbWord_init {a d : Nat} (ha : max (d % 2 ^ 32) 1 = a) : tbWord 0 (max (bits d 0 32) 1) 0 (max (bits d 0 32) 1) 0 = a * 2 ^ 4 + a * 2 ^ 68 := by
  simp only [tbWord, bits]
  omega

include hw

/-- Units that are expected are added to those that are pending. -/
theorem tbWord_expect (d : Nat) : tbWord (tbPhase w) (tbArrivals w) (tbUnits w + bits d 0 32) (tbReload w) (tbWaiter w) = w % 2 ^ 36 + (w / 2 ^ 36 + d) % 2 ^ 32 * 2 ^ 36 + w / 2 ^ 68 * 2 ^ 68 := by
  simp only [tbWord, tbPhase, tbArrivals, tbUnits, tbReload, tbWaiter, bits]
  omega

/-- A barrier with one arrival fewer pending. -/
theorem tbWord_arrive : tbWord (tbPhase w) (tbArrivals w + 2 ^ 32 - 1) (tbUnits w) (tbReload w) (tbWaiter w) = w % 16 + (w / 2 ^ 4 + 2 ^ 32 - 1) % 2 ^ 32 * 2 ^ 4 + w / 2 ^ 36 * 2 ^ 36 := by
  simp only [tbWord, tbPhase, tbArrivals, tbUnits, tbReload, tbWaiter, bits]
  omega

/-- The last arrival at a barrier with no unit pending completes its phase. -/
theorem tbDone_last (h : (w / 2 ^ 4 + 2 ^ 32 - 1) % 2 ^ 32 = 0 ∧ w / 2 ^ 36 % 2 ^ 32 = 0) : tbDone (tbWord (tbPhase w) (tbArrivals w + 2 ^ 32 - 1) (tbUnits w) (tbReload w) (tbWaiter w))
    = (w + 1) % 16 + w / 2 ^ 68 % 2 ^ 32 * 2 ^ 4 + w / 2 ^ 68 * 2 ^ 68 := by
  rw [tbWord_arrive hw, tbDone, if_pos (by simp only [tbArrivals, tbUnits, bits]; omega)]
  simp only [tbWord, tbPhase, tbReload, tbWaiter, bits]
  omega

/-- Any other arrival leaves the phase open. -/
theorem tbDone_more (h : ¬((w / 2 ^ 4 + 2 ^ 32 - 1) % 2 ^ 32 = 0 ∧ w / 2 ^ 36 % 2 ^ 32 = 0)) : tbDone (tbWord (tbPhase w) (tbArrivals w + 2 ^ 32 - 1) (tbUnits w) (tbReload w) (tbWaiter w))
    = w % 16 + (w / 2 ^ 4 + 2 ^ 32 - 1) % 2 ^ 32 * 2 ^ 4 + w / 2 ^ 36 * 2 ^ 36 := by
  rw [tbWord_arrive hw, tbDone, if_neg (by simp only [tbArrivals, tbUnits, bits]; omega)]

end

/-! ### The device's own memory -/

/-- The device itself holds the bytes at a target: DRAM, or the scratchpad of a core there is. -/
def State.Holds (s : State) : Target → Prop
  | .dram _ => True
  | .pad k _ => (s.core? k).isSome
  | _ => False

/-- An access to the device only, whose checks pass, is to memory that the device holds. -/
theorem State.holds_of_checkAccess {s : State} {n : Nat} {sh : Shard} {r : Req} {t : Target} (h : s.checkAccess n sh r = .ok t) (hdevice : r.deviceOnly = true) : s.Holds t := by
  simp only [State.checkAccess, State.checkFor, hdevice] at h
  split at h
  · cases h
  · split_ifs at h
    all_goals
      split at h
      · cases h
      · cases h
      · cases h
      · split_ifs at h
        cases h
        trivial
      · cases h
  next kind off _ _ =>
    split_ifs at h with hruns
    cases h
    rw [State.runsCtx, Option.any_eq_true] at hruns
    obtain ⟨_, hshard, -⟩ := hruns
    obtain ⟨_, hcore, -⟩ := Option.bind_eq_some_iff.mp hshard
    exact Option.isSome_iff_exists.mpr ⟨_, hcore⟩

theorem State.writeTarget_pad (s : State) (k o : Nat) (bs : List Byte) :
    s.writeTarget (.pad k o) bs = (s.spoil (.pad k o) bs.length).updCore k (Core.stored · o bs) := rfl

theorem State.readTarget_writeTarget_pad {s : State} {k : Nat} (hk : (s.core? k).isSome) (o : Nat) (bs : List Byte) {n : Nat} (hn : bs.length = n) :
    (s.writeTarget (.pad k o) bs).readTarget (.pad k o) n = bs := by
  obtain ⟨c, hc⟩ := Option.isSome_iff_exists.mp ((s.core?_spoil_isSome (.pad k o) bs.length k).trans hk)
  rw [s.writeTarget_pad, State.readTarget, State.core?_updCore, hc, ← hn]
  exact Memory.getN_setN_self c.pad o bs

/-- A write to a scratchpad leaves every byte outside it (R80). -/
theorem sameBut_writeTarget_pad (s : State) (k o : Nat) (bs : List Byte) {n : Nat} (hn : bs.length = n) : SameBut s (s.writeTarget (.pad k o) bs) (.pad k o) n := by
  intro x hx
  rw [← s.readTarget_spoil (.pad k o) x bs.length 1, s.writeTarget_pad]
  cases x with
  | pad j b =>
    by_cases hj : j = k
    · subst hj
      have hout : ∀ i < bs.length, b ≠ o + i := fun i hi h => hx i (hn ▸ hi) (by rw [h]; rfl)
      rw [State.readTarget, State.readTarget, State.core?_updCore]
      cases (s.spoil (.pad j o) bs.length).core? j with
      | none => rfl
      | some c => exact Memory.getN_one_setN_ne c.pad hout
    · rw [State.readTarget, State.readTarget, State.core?_updCore_ne _ _ hj]
  | dram a => rfl
  | host p a => rfl
  | peer p a => rfl

section
variable {s : State} {t : Target} (ht : s.Holds t) (bs : List Byte)
include ht

/-- A write to the device's own memory reads back, and leaves every byte outside it. -/
theorem State.writeTarget_holds {n : Nat} (hn : bs.length = n) : (s.writeTarget t bs).readTarget t n = bs ∧ SameBut s (s.writeTarget t bs) t n := by
  cases t with
  | dram a => exact ⟨s.readTarget_writeTarget_dram a bs hn, sameBut_writeTarget_dram s a bs hn⟩
  | pad k o => exact ⟨State.readTarget_writeTarget_pad ht o bs hn, sameBut_writeTarget_pad s k o bs hn⟩
  | host p a => exact ht.elim
  | peer p a => exact ht.elim

/-- Outside the cores, a write to the device's own memory changes DRAM and its poison. -/
theorem State.writeTarget_frame : s.writeTarget t bs = { s with mem := (s.writeTarget t bs).mem, poison := (s.writeTarget t bs).poison, cores := (s.writeTarget t bs).cores } := by
  cases t with
  | dram a => rw [s.writeTarget_dram]
  | pad k o => rw [s.writeTarget_pad, s.spoil_eq]; rfl
  | host p a => exact ht.elim
  | peer p a => exact ht.elim

/-- Of a core without a speculation, a write to the device's own memory changes the scratchpad at most. -/
theorem State.core?_writeTarget {n : Nat} {c : Core} (hc : s.core? n = some c) (hspec : c.spec = none) :
    ∃ p q, (s.writeTarget t bs).core? n = some { c with pad := p, padPoison := q } := by
  have hspoil := State.core?_spoil_of_plain hc hspec t bs.length
  cases t with
  | dram a => exact ⟨c.pad, c.padPoison, by rw [s.writeTarget_dram]; exact hspoil⟩
  | pad k o =>
    by_cases hk : n = k
    · subst hk
      exact ⟨_, _, by rw [s.writeTarget_pad, State.core?_updCore, hspoil]; rfl⟩
    · exact ⟨c.pad, c.padPoison, by rw [s.writeTarget_pad, State.core?_updCore_ne _ _ hk]; exact hspoil⟩
  | host p a => exact ht.elim
  | peer p a => exact ht.elim

end

end Sys2Proof.Machine
end

section
/-! TBINIT, TBEXP, TBARV and TBWAIT (R15, R82, R93, R104, R187, R324, R333). -/

namespace Sys2Proof.Machine

open Sys2Proof.Claim

/-! ### The access to a barrier -/

/-- A core whose shard has a region open (R105). -/
def Core.opened (c : Core) (region : Nat) : Core := { c with shard := c.shard.map fun h => { h with region := some region } }

theorem State.Sets.openRegion {s u : State} {n : Nat} {d : Core} (h : s.Sets u n d) (uid region : Nat) : s.Sets (u.openRegion n uid region) n (d.opened region) where
  quiet := by rw [Quiet, h.quiet]; rfl
  core := (h.updCore (Core.opened · region)).core
  others := (h.updCore (Core.opened · region)).others

theorem State.Sets.enter {s u : State} {n : Nat} {d : Core} (h : s.Sets u n d) (r : Racer) (t : Target) (len : Nat) (write data atomic : Bool) :
    s.Sets (u.enter r t len write data atomic) n d := by
  unfold State.enter
  split
  · exact h
  · exact h
  · exact ⟨by rw [Quiet, h.quiet], h.core, h.others⟩

/-- The access of a word to its barrier is charged, opens the region of its shard, and enters the metadata. -/
theorem State.watchTb_sets {s : State} {c : Core} (hc : s.core? s.curCore = some c) (sh : Shard) (t : Target) :
    ∃ x r, s.OnlyPorts x ∧ x.Sets (s.watchTb sh t) s.curCore (c.opened r) := by
  have hports := s.chargeAt_onlyPorts s.curCore t 16
  have hcore : (s.chargeAt s.curCore t 16).core? s.curCore = some c := by rw [hports.eq]; exact hc
  exact ⟨_, _, hports, ((State.Sets.refl hcore).openRegion _ _).enter _ t 16 true false false⟩

/-- A word on one core leaves the device the memory it holds. -/
theorem State.Sets.holds {s u : State} {n : Nat} {d : Core} {t : Target} (h : s.Sets u n d) (ht : s.Holds t) : u.Holds t := by
  cases t with
  | pad k o =>
    by_cases hk : k = n
    · exact Option.isSome_iff_exists.mpr ⟨d, hk ▸ h.core⟩
    · exact (congrArg Option.isSome (h.others k hk)).trans ht
  | dram a => trivial
  | host p a => exact ht
  | peer p a => exact ht

/-! ### A barrier that is written -/

/-- What a word that writes its barrier has changed so far: the 16 bytes of the barrier, and outside the cores DRAM, the race detector, what barriers hand over, and accounts of the ports. -/
structure State.Barred (s u : State) (t : Target) (new : Nat) (d : Core) : Prop where
  frame : u = { s with cores := u.cores, mem := u.mem, poison := u.poison, watched := u.watched, regions := u.regions, order := u.order, tbKnows := u.tbKnows, ports := u.ports }
  core : u.core? s.curCore = some d
  others : SameBut s u t 16
  holds : ofBytes (u.readTarget t 16) = new

theorem State.Barred.sets {s u v : State} {t : Target} {new : Nat} {d e : Core} (h : s.Barred u t new d) (hset : u.Sets v s.curCore e) (hpad : e.pad = d.pad) : s.Barred v t new e where
  frame := by rw [hset.quiet, h.frame]
  core := hset.core
  others := sameBut_of_sameMemory h.others (fun _ _ => rfl) (hset.sameMemory h.core hpad)
  holds := by rw [hset.sameMemory h.core hpad, h.holds]

/-- A write of a barrier writes its 16 bytes, and what it hands over. -/
theorem State.tbWrite_eq (s : State) (t : Target) (old new : Nat) (knows : Map Nat) : ∃ k, s.tbWrite t old new knows = { s.writeTarget t (toBytes 16 new) with tbKnows := k } := by
  unfold State.tbWrite
  dsimp only
  split
  · exact ⟨_, rfl⟩
  · exact ⟨_, rfl⟩

/-- A word that writes its barrier and its register, with what barriers hand over changed before it or not. -/
theorem State.tbDoneWord_barred {s x : State} {c : Core} {t : Target} {new : Nat} (hx : x = { s with tbKnows := x.tbKnows }) (hc : s.core? s.curCore = some c) (hspec : c.spec = none)
    (ht : s.Holds t) (hnew : new < 2 ^ 128) (sh : Shard) (rd : BitVec 6) (old : Nat) (knows : Map Nat) (v : Nat) :
    ∃ e, c.InSync e ∧ s.Barred (x.tbDoneWord sh rd t old new knows v) t new (e.setSreg rd (BitVec.ofNat 64 v)) := by
  have hcur : x.curCore = s.curCore := by rw [hx]
  have hcx : x.core? x.curCore = some c := by rw [hx]; exact hc
  obtain ⟨y, r, hports, hwatch⟩ := State.watchTb_sets hcx sh t
  have hy : y = { s with tbKnows := y.tbKnows, ports := y.ports } := by rw [hports.eq, hx]
  have hcy : y.core? x.curCore = some c := by rw [hports.eq]; exact hcx
  have hheld : y.Holds t := by rw [hy]; cases t <;> exact ht
  have hholds := hwatch.holds hheld
  obtain ⟨k, hwrite⟩ := (x.watchTb sh t).tbWrite_eq t old new knows
  obtain ⟨m, q, hcore⟩ := State.core?_writeTarget hholds (toBytes 16 new) hwatch.core hspec
  obtain ⟨hread, hbut⟩ := State.writeTarget_holds hholds (toBytes 16 new) (length_toBytes 16 new)
  have hmem : SameMemory s y := sameMemory_of_eq (by rw [hy]) (by rw [hy]) (by rw [hy]) (by rw [hy])
  have hwatched : SameMemory s (x.watchTb sh t) := fun u j => (hwatch.sameMemory hcy rfl u j).trans (hmem u j)
  have hbarred : s.Barred ((x.watchTb sh t).tbWrite t old new knows) t new { c.opened r with pad := m, padPoison := q } := by
    rw [hwrite]
    refine ⟨?_, hcur ▸ hcore, sameBut_of_sameMemory hbut hwatched (fun _ _ => rfl), ?_⟩
    · rw [State.writeTarget_frame hholds, hwatch.quiet, hy]
    · exact (congrArg ofBytes hread).trans (ofBytes_toBytes (hnew.trans_eq (by norm_num)))
  have hdone := hbarred.sets ((State.Sets.refl hbarred.core).updCore fun c => (c.cacheDrop t).setSreg rd (BitVec.ofNat 64 v)) (by rw [Core.setSreg_frame, Core.cacheDrop_eq])
  rw [← hcur] at hdone
  refine ⟨_, ?_, hdone⟩
  rw [Core.InSync, Core.cacheDrop_eq]
  rfl

/-- What a word that writes its barrier does: the new value of the barrier, and the value of rd. -/
def TbWrites (s : State) (c : Core) (t : Target) (rd : BitVec 6) (i : Instr) (v new : Nat) : Prop :=
  ∃ u d, exec i s = .next u ∧ Went u c d (c.setSreg rd (BitVec.ofNat 64 v)).sregs ∧ SameBut s u t 16 ∧ ofBytes (u.readTarget t 16) = new
    ∧ u = { s with cores := u.cores, mem := u.mem, poison := u.poison, watched := u.watched, regions := u.regions, order := u.order, tbKnows := u.tbKnows, ports := u.ports }

/-- A word that has written its barrier and its register goes on. -/
theorem State.Barred.writes {s u : State} {c e : Core} {sh : Shard} {t : Target} {rd : BitVec 6} {v new : Nat} {i : Instr} (h : s.Barred u t new (e.setSreg rd (BitVec.ofNat 64 v)))
    (he : c.InSync e) (hexec : exec i s = s.settle .c c sh (.done u)) : TbWrites s c t rd i v new := by
  have hcur : u.curCore = s.curCore := by rw [h.frame]
  have hset := (State.Sets.refl h.core).completeWord hcur
  have hbarred := h.sets hset rfl
  exact ⟨_, _, hexec.trans (settle_done ..), he.went hset hcur, hbarred.others, hbarred.holds, hbarred.frame⟩

/-- A release that closes the region of the shard, too, is part of a word that synchronises. -/
theorem Core.InSync.released {c e : Core} (h : c.InSync e) : c.InSync e.ticked.endRegion := by
  rw [Core.InSync] at h
  rw [h]
  rfl

/-- The bytes of a barrier are 128 bits. -/
theorem tb_lt {s : State} {t : Target} {w : Nat} (hw : ofBytes (s.readTarget t 16) = w) : w < 2 ^ 128 := by
  have h := ofBytes_lt (s.readTarget t 16)
  rw [hw, State.length_readTarget] at h
  exact h.trans_eq (by norm_num)

/-! ### The words -/

section
variable {s : State} {c : Core} {sh : Shard} {rd ra : BitVec 6} {off : BitVec 22} {t : Target} (hruns : RunsPlain s .c c sh) (hfree : Free c [rd, ra]) (hacq : c.cs.acquiring = false)
  (hcheck : s.checkAccess s.curCore sh
    { va := c.sreg ra + off.signExtend 64, size := 16, write := true, data := false, atomic := true, ord := 0, scope := 0, fn := 0, deviceOnly := true } = .ok t)
include hruns hfree hacq hcheck

/-- A word whose checks pass goes to its barrier, unless it waits or races. -/
theorem atTb_eq (m : Core → Shard → Target → Nat → Res) : atTb s rd ra off m = s.settle .c c sh (
    if s.tbWaits c t then .wait s .stores
    else (s.raceAt sh t 16 true false false).elim (m c sh t (ofBytes (s.readTarget t 16))) fun d => .trap 8 (raceTval (c.sreg ra + off.signExtend 64) d)) := by
  obtain ⟨⟨hc, hsh, -, -⟩, hspec⟩ := hruns
  rw [atTb, runC_eq _ hc hsh (hspec rfl), Core.ready_eq s _ hfree, Core.afterAcquire_of_none hacq]
  refine (congrArg _ (checked_of_ok hcheck _)).trans ?_
  cases s.raceAt sh t 16 true false false
  · rfl
  · rfl

theorem atTb_waits (m : Core → Shard → Target → Nat → Res) (h : s.tbWaits c t = true) : atTb s rd ra off m = .next (s.waitOn .c .stores) := by
  rw [atTb_eq hruns hfree hacq hcheck, if_pos h, settle_wait]

/-- The words wait for the row buffer and the accesses that go ahead of them. -/
theorem exec_tb_waits (h : s.tbWaits c t = true) {i : Instr} (hi : i ∈ [Instr.tbinit rd ra off, .tbexp rd ra off, .tbarv rd ra off, .tbwait rd ra off]) :
    exec i s = .next (s.waitOn .c .stores) := by
  simp only [List.mem_cons, List.not_mem_nil, or_false] at hi
  rcases hi with rfl | rfl | rfl | rfl
  · rw [exec_tbinit, execTbinit, atTb_waits hruns hfree hacq hcheck _ h]
  · rw [exec_tbexp, execTbexp, atTb_waits hruns hfree hacq hcheck _ h]
  · rw [exec_tbarv, execTbarv, atTb_waits hruns hfree hacq hcheck _ h]
  · rw [exec_tbwait, execTbwait, atTb_waits hruns hfree hacq hcheck _ h]

variable (hgo : s.tbWaits c t = false) (hrace : s.raceAt sh t 16 true false false = none)
include hgo hrace

theorem atTb_goes (m : Core → Shard → Target → Nat → Res) : atTb s rd ra off m = s.settle .c c sh (m c sh t (ofBytes (s.readTarget t 16))) := by
  rw [atTb_eq hruns hfree hacq hcheck, hgo, if_neg Bool.false_ne_true, hrace, Option.elim_none]

theorem exec_tbinit_spec {a : Nat} (ha : max ((c.sreg rd).toNat % 2 ^ 32) 1 = a) : TbWrites s c t rd (.tbinit rd ra off) 0 (a * 2 ^ 4 + a * 2 ^ 68) := by
  obtain ⟨e, he, hbarred⟩ := State.tbDoneWord_barred (x := { s with tbKnows := Map.put (Map.put s.tbKnows (tbKey t) []) (tbKey t + 1) [] }) (new := a * 2 ^ 4 + a * 2 ^ 68) rfl
    hruns.1.1 (hruns.2 rfl) (State.holds_of_checkAccess hcheck rfl) (by omega) sh rd (a * 2 ^ 4 + a * 2 ^ 68) [] 0
  refine hbarred.writes (sh := sh) he ?_
  rw [exec_tbinit, execTbinit, atTb_goes hruns hfree hacq hcheck hgo hrace]
  dsimp only
  rw [tbWord_init ha]

variable {w : Nat} (hw : ofBytes (s.readTarget t 16) = w)
include hw

theorem exec_tbexp_spec : TbWrites s c t rd (.tbexp rd ra off) (w % 16) (w % 2 ^ 36 + (w / 2 ^ 36 + (c.sreg rd).toNat) % 2 ^ 32 * 2 ^ 36 + w / 2 ^ 68 * 2 ^ 68) := by
  have hlt := tb_lt hw
  obtain ⟨e, he, hbarred⟩ := State.tbDoneWord_barred (x := s) (new := w % 2 ^ 36 + (w / 2 ^ 36 + (c.sreg rd).toNat) % 2 ^ 32 * 2 ^ 36 + w / 2 ^ 68 * 2 ^ 68) rfl hruns.1.1 (hruns.2 rfl)
    (State.holds_of_checkAccess hcheck rfl) (by omega) sh rd w [] (w % 16)
  refine hbarred.writes (sh := sh) he ?_
  rw [exec_tbexp, execTbexp, atTb_goes hruns hfree hacq hcheck hgo hrace, hw, tbWord_expect hlt, tbPhase_eq]

/-- An arrival is a release, which closes the region of its shard. -/
theorem exec_tbarv_spec (hrel : c.released (tbScope t) = true) (hheard : s.heardOut s.curCore c (tbScope t) = true) {new : Nat} (hnew : new < 2 ^ 128)
    (hdone : tbDone (tbWord (tbPhase w) (tbArrivals w + 2 ^ 32 - 1) (tbUnits w) (tbReload w) (tbWaiter w)) = new) : TbWrites s c t rd (.tbarv rd ra off) (w % 16) new := by
  obtain ⟨e, he, hbarred⟩ := State.tbDoneWord_barred (x := s) rfl hruns.1.1 (hruns.2 rfl) (State.holds_of_checkAccess hcheck rfl) hnew sh rd w sh.release (w % 16)
  have hset := (State.Sets.refl hbarred.core).tickClock.syncPoint
  have hpad : (e.setSreg rd (BitVec.ofNat 64 (w % 16))).ticked.endRegion.pad = (e.setSreg rd (BitVec.ofNat 64 (w % 16))).pad := rfl
  have hreleased := hbarred.sets hset hpad
  rw [Core.ticked_setSreg, Core.endRegion_setSreg] at hreleased
  refine hreleased.writes (sh := sh) he.released ?_
  rw [exec_tbarv, execTbarv, atTb_goes hruns hfree hacq hcheck hgo hrace, hw, Core.afterStores_of_released hrel hheard, hdone, tbPhase_eq]

/-- A wait that is over is an acquire, and empties the data cache. -/
theorem exec_tbwait_passed (hphase : w % 16 ≠ (c.sreg rd).toNat % 16) : ∃ u d, exec (.tbwait rd ra off) s = .next u ∧ SameMemory s u
    ∧ Went u c d (c.setSreg rd (BitVec.ofNat 64 (w % 16))).sregs ∧ d.dcache = [] := by
  have hc := hruns.1.1
  obtain ⟨x, r, hports, hwatch⟩ := State.watchTb_sets hc sh t
  have hcx : x.core? s.curCore = some c := by rw [hports.eq]; exact hc
  have hx : x.curCore = s.curCore := by rw [hports.eq]
  obtain ⟨marks, hpassed⟩ := (hwatch.acquire (knowsOf (Map.lookD s.tbKnows (tbKey t + 1) []) ((c.sreg rd).toNat % 16))).passed sh.uid
  have hcur := hpassed.syncPoint.curCore.trans hx
  have hset := (hpassed.syncPoint.updCore fun c => { c with dcache := [] }.setSreg rd (BitVec.ofNat 64 (w % 16))).completeWord hx
  have hwent := Core.InSync.went (c := c) (rd := rd) (v := BitVec.ofNat 64 (w % 16)) (e := { ((c.opened r).acquired _ _).endRegion with dcache := [] }) rfl hset hx
  refine ⟨_, _, ?_, fun y j => ?_, hwent, by rw [Core.setSreg_frame]; rfl⟩
  · rw [exec_tbwait, execTbwait, atTb_goes hruns hfree hacq hcheck hgo hrace, hw, tbPhase_eq]
    dsimp only
    rw [bits_phase, if_neg hphase, hcur, settle_done]
  · have hsame := State.Sets.sameMemory (s := { x with lostMarks := marks }) hset hcx (by rw [Core.setSreg_frame]; rfl)
    exact (hsame y j).trans (hports.sameMemory y j)

theorem exec_tbwait_waits (hphase : w % 16 = (c.sreg rd).toNat % 16) : exec (.tbwait rd ra off) s = .next (s.waitOn .c .transBarrier) := by
  rw [exec_tbwait, execTbwait, atTb_goes hruns hfree hacq hcheck hgo hrace, hw, tbPhase_eq]
  dsimp only
  rw [bits_phase, if_pos hphase, settle_wait]

end

theorem transactionBarrierWords : TransactionBarrierWords := by
  intro s c sh rd ra off t hruns hfree hacq hcheck
  refine ⟨fun hwaits i hi => exec_tb_waits hruns hfree hacq hcheck hwaits hi, ?_⟩
  intro hgo hrace w D phase left writes
  have hlt : w < 2 ^ 128 := tb_lt rfl
  refine ⟨exec_tbinit_spec hruns hfree hacq hcheck hgo hrace rfl, exec_tbexp_spec hruns hfree hacq hcheck hgo hrace rfl, fun hrel hheard => ⟨fun hlast => ?_, fun hmore => ?_⟩,
    exec_tbwait_passed hruns hfree hacq hcheck hgo hrace rfl, exec_tbwait_waits hruns hfree hacq hcheck hgo hrace rfl⟩
  · exact exec_tbarv_spec hruns hfree hacq hcheck hgo hrace rfl hrel hheard (by omega) (tbDone_last hlt hlast)
  · exact exec_tbarv_spec hruns hfree hacq hcheck hgo hrace rfl hrel hheard (by omega) (tbDone_more hlt hmore)

/-- Settles O41: the words of the cluster barriers, and those of the transaction barriers. -/
theorem barriers : Obligations.Barriers := ⟨coreBarrierWords, transactionBarrierWords⟩

end Sys2Proof.Machine
end

section
/-! ENQR of a block that another shard has written in a region that is still open (R104, R105, R107, R189). -/

namespace Sys2Proof.Machine

open Sys2Proof.Claim

/-- What is neither a data access nor an atomic one is not watched (R104). -/
theorem State.not_conflicts_unwatched (s : State) (r : Racer) (write : Bool) (e : Watched) : s.conflicts r write false false e = false := by
  simp [State.conflicts, State.watches]

/-- The race check of an access that is not watched finds nothing, whatever the detector holds (R104). -/
theorem State.raceAt_unwatched (s : State) (sh : Shard) (t : Target) (n : Nat) (write : Bool) : s.raceAt sh t n write false false = none := by
  unfold State.raceAt State.raceOf
  split
  · rfl
  · rfl
  · split
    · rfl
    · simp [State.not_conflicts_unwatched]

/-- The reads of ENQR are data accesses: one that meets a race traps with code 8 (R104, R107). -/
theorem exec_enqr_of_race {s : State} {c : Core} {sh : Shard} {ra rb : BitVec 6} {off d : Nat} (hruns : RunsPlain s .c c sh) (hfree : Free c [ra, rb]) (hacq : c.cs.acquiring = false)
    (haperture : aperture (c.sreg ra).toNat = some (1, off)) (halign : off % 64 = 0) (hcore : (c.sreg rb).toNat ≤ 95) (hctx : s.runsCtx (clusterBase s.curCore + (c.sreg rb).toNat) sh.ctx = true)
    (hgone : c.cs.wait ≠ .appendGone) (hpure : sh.pure = false) (hrel : c.released 1 = true) (hstores : (c.as.flight.any fun f => f.writes && f.underway) = false)
    (hroom : ((s.core? (clusterBase s.curCore + (c.sreg rb).toNat)).elim 0 fun o => o.inbox.length) < 16) (hclean : s.poisoned (.pad s.curCore off) 64 = false)
    (hrace : s.raceAt sh (.pad s.curCore off) 64 false true false = some d) :
    exec (.enqr ra rb) s = .next (s.takeTrap s.curCore .c 8 (raceTval (c.sreg ra) d)) := by
  obtain ⟨⟨hc, hsh, -, -⟩, hspec⟩ := hruns
  have hlocal : localOnly (c.sreg ra) = some off := by rw [localOnly, haperture]; rfl
  have hreaches : ¬ (95 < (c.sreg rb).toNat ∨ ¬s.runsCtx (clusterBase s.curCore + (c.sreg rb).toNat) sh.ctx ∨ c.cs.wait = .appendGone) :=
    not_or.mpr ⟨Nat.not_lt.mpr hcore, not_or.mpr ⟨by rw [hctx]; decide, hgone⟩⟩
  rw [exec_enqr, execEnqr, runC_eq _ hc hsh (hspec rfl), Core.ready_eq s _ hfree, Core.afterAcquire_of_none hacq]
  dsimp only
  rw [hlocal]
  dsimp only
  rw [if_neg hreaches, if_neg (by rw [halign]; decide), if_neg (by rw [hpure]; decide), Core.afterStores_of_released hrel rfl,
    if_neg (by rw [hstores]; decide), if_neg (Nat.not_le.mpr hroom), if_neg (by rw [hclean]; decide), hrace]
  exact congrArg _ (State.trapWord_of_plain (hspec rfl) s .c 8 _)

/-! ### A module in which it does -/

/-- An impure shard with no region open. -/
def racyShard : Shard :=
  { uid := 0, ctx := 0, task := 0, taskId := 0, num := 0, nshard := 1, idx := [], ext := [], seed := 0, arg0 := 0, arg1 := 0, kdesc := 0, taskInfo := 0, ins := [], outs := []
    code := 0, codeLen := 60, hwm := 64, pure := false, committed := false, cycleBase := 0, dispatchedAt := 0, eff := 0, keepsp := false, rebuild := false, nominal := 0
    khash := 0, tree := 0, wrote := [], region := none, clock := 0, knows := [], halt := 0, reserve := 0 }

/-- A core with a trap handler that runs it; s1 holds the first address of its scratchpad. -/
def racyCore : Core := { Core.idle with shard := some racyShard, sregs := [(1, 0xFF00000000000000)], tvec := 0x1000 }

/-- The module with that core alone, whose scratchpad's first word the shard 1 has stored to, in region 0. -/
def racyState : State :=
  { State.reset with cores := [(0, racyCore)], watched := [{ uid := 1, ctx := 0, word := .pad 0 0, write := true, data := true, atomic := false, region := 0, clock := 0 }] }

theorem racyState_runs : RunsPlain racyState .c racyCore racyShard := ⟨⟨rfl, rfl, rfl, fun _ => rfl⟩, fun _ => rfl⟩

/-- The read of the block meets the store of shard 1, whose region is open (R105). -/
theorem racyState_races : racyState.raceAt racyShard (.pad 0 0) 64 false true false = some 0 := by decide

/-- An ENQR of the block to the core's own inbox traps, and its stream stands at the handler with no word more executed. -/
theorem racyState_traps : ∃ u, exec (.enqr 1 0) racyState = .next u ∧ u.core? u.curCore = some (racyCore.walksForgotten.enterHandler .c 8 (raceTval (racyCore.sreg 1) 0)) := by
  refine ⟨_, exec_enqr_of_race (off := 0) racyState_runs (by unfold Free; decide) (by decide) (by decide) (by decide) (by decide) (by decide) (by decide) (by decide) (by decide)
    (by decide) (by decide) (by decide) racyState_races, ?_⟩
  rw [State.takeTrap_enters (c := racyCore) rfl rfl rfl .c 8 _ (by decide) (by decide)]
  exact State.core?_setCore ..

/-- The statement asks for the race check of an access that is not watched, which always passes, where ENQR makes that of a data access. -/
theorem not_inboxWords : ¬ InboxWords := by
  intro h
  obtain ⟨happends, -⟩ := h racyState racyCore racyCore racyShard 0 1 0 0 racyState_runs (by unfold Free; decide) (by decide) (by decide) (by decide)
  obtain ⟨happend, -⟩ := happends (by decide) (by decide) (by decide) (by decide) (by decide) (by decide) rfl
  obtain ⟨u, d, -, -, hexec, -, ⟨hcore, hcs, -⟩, -⟩ := happend (by decide) (by decide) (State.raceAt_unwatched ..) (by decide)
  obtain ⟨v, hv, htrapped⟩ := racyState_traps
  obtain rfl : v = u := by rw [hv] at hexec; injection hexec
  obtain rfl : racyCore.walksForgotten.enterHandler .c 8 (raceTval (racyCore.sreg 1) 0) = d := Option.some.inj (htrapped.symm.trans hcore)
  exact absurd (congrArg Stream.instret hcs) (by decide)

/-- Refutes O42: an ENQR whose block another shard has stored to in an open region meets every premise, and traps with code 8. -/
theorem not_spawnAndInbox : ¬ Obligations.SpawnAndInbox := fun h => not_inboxWords h.2

end Sys2Proof.Machine
end

section
/-! The checks of a load or store word (R70, R74, R76, R77, R107, R174, R373): what each answers, and what the word makes of the answer. -/

namespace Sys2Proof.Machine

open Sys2Proof.Claim

/-! ### What the checks answer -/

/-- What the checks answer to a global address by its translation (R74, R76, R373, R398). -/
def State.checkTranslated (s : State) (r : Req) : Trans → Checked
  | .poisoned => .poison true
  | .fault => .trap 12 r.va
  | .miss => .miss
  | .ok (.dram p) =>
    if r.reads && s.poisoned (.dram p) r.size then .poison true
    else if r.write && s.hitsSealed (.dram p) r.size then .trap 9 r.va
    else .ok (.dram p)
  | .ok t =>
    if r.deviceOnly then .trap 12 r.va
    else if r.atomic && !(r.fn == 0 || r.fn == 8 || r.fn == 9) then .trap 12 r.va
    else .ok t

/-- Check 8 of R174 passes where no access conflicts. -/
theorem State.raceNow_of_none {s : State} {sh : Shard} {r : Req} {t : Target} (h : s.raceAt sh t r.size r.write r.data r.atomic = none) (k : Res) : s.raceNow sh r t k = k := by
  rw [State.raceNow, h]

/-- It traps where one does (R107). -/
theorem State.raceNow_of_some {s : State} {sh : Shard} {r : Req} {t : Target} {d : Nat} (h : s.raceAt sh t r.size r.write r.data r.atomic = some d) (k : Res) :
    s.raceNow sh r t k = .trap 8 (raceTval r.va d) := by
  rw [State.raceNow, h]

section
variable {s : State} {n : Nat} {sh : Shard} {r : Req} {a : Nat}

theorem State.checkAccess_of_nowhere (h : aperture r.va.toNat = none) : s.checkAccess n sh r = .trap 13 r.va := by
  rw [State.checkAccess, State.checkFor, h]

section
variable (h : aperture r.va.toNat = some (0, a))
include h

theorem State.checkAccess_of_misaligned (halign : a % r.size ≠ 0) : s.checkAccess n sh r = .trap 11 r.va := by
  rw [State.checkAccess, State.checkFor, h]
  exact if_pos halign

theorem State.checkAccess_of_pure (halign : a % r.size = 0) (hpure : sh.pure = true) : s.checkAccess n sh r = .trap 10 r.va := by
  rw [State.checkAccess, State.checkFor, h]
  exact (if_neg (not_not.mpr halign)).trans (if_pos hpure)

/-- A global address of an impure shard, aligned: the check goes on with its translation. -/
theorem State.checkAccess_global {c : Core} (hc : s.core? n = some c) (halign : a % r.size = 0) (hpure : sh.pure = false) :
    s.checkAccess n sh r = s.checkTranslated r (c.translate 0 sh.ctx a (if r.write then .write else .read)) := by
  rw [State.checkAccess, State.checkFor, h]
  refine (if_neg (not_not.mpr halign)).trans ((if_neg (by rw [hpure]; decide)).trans ?_)
  rw [hc]
  rfl

end

/-- An address of a scratchpad: its core, its scope, its alignment and the shard's purity are checked in that order. -/
theorem State.checkAccess_pad {kind : Nat} (hkind : kind ≠ 0) (h : aperture r.va.toNat = some (kind, a)) :
    s.checkAccess n sh r =
      if ¬s.runsCtx (padOf n kind a).1 sh.ctx then .trap 13 r.va
      else if r.scope = 3 then .trap 1 r.va
      else if (padOf n kind a).2 % r.size ≠ 0 then .trap 11 r.va
      else if sh.pure ∧ (padOf n kind a).1 ≠ n then .trap 10 r.va
      else if r.reads && s.poisoned (.pad (padOf n kind a).1 (padOf n kind a).2) r.size then .poison false
      else .ok (.pad (padOf n kind a).1 (padOf n kind a).2) := by
  obtain ⟨k, rfl⟩ := Nat.exists_eq_succ_of_ne_zero hkind
  rw [State.checkAccess, State.checkFor, h]
  rfl

end

/-! ### What a word makes of it -/

section
variable {s : State} {c : Core} {sh : Shard} {r : Req} {k : Target → Res}

theorem settle_checked_trap (hspec : c.spec = none) {code : BitVec 8} {tval : Word} (h : s.checkAccess s.curCore sh r = .trap code tval) :
    s.settle .c c sh (checked s sh r k) = .next (s.takeTrap s.curCore .c code tval) := by
  rw [State.checkAccess] at h
  rw [checked, checkedFor, h, settle_trap, State.trapWord_of_plain hspec]

theorem settle_checked_miss (h : s.checkAccess s.curCore sh r = .miss) :
    s.settle .c c sh (checked s sh r k) = .next ((s.tlbMiss s.curCore 0 sh.ctx r.va.toNat).waitOn .c .translation) := by
  rw [State.checkAccess] at h
  rw [checked, checkedFor, h, settle_wait]

theorem settle_checked_poison (hspec : c.spec = none) {cell : Bool} (h : s.checkAccess s.curCore sh r = .poison cell) :
    s.settle .c c sh (checked s sh r k) = .next (s.stopPoisoned s.curCore sh .c r.va c.cs.pc cell) := by
  rw [State.checkAccess] at h
  rw [checked, checkedFor, h]
  exact if_neg fun hc => by rw [Core.speculating, hspec] at hc; exact Bool.noConfusion hc.2

end

section
variable {s : State} {c : Core} {sh : Shard} {rd ra : BitVec 6} {ord scope : BitVec 2} {size : Nat}
  (hruns : RunsPlain s .c c sh) (hfree : Free c [rd, ra]) (hacq : c.cs.acquiring = false)
include hruns hfree hacq

/-- A word of a plain or synchronising access runs with its operands there and no acquire out. -/
theorem accessWord_eq (m : Core → Shard → Res) :
    (if ord = 0 then runSpec else runC) s (fun c sh => c.ready s [rd, ra] (c.afterAcquire s (m c sh))) = s.settle .c c sh (m c sh) := by
  obtain ⟨hc, hsh, -, hres⟩ := hruns.1
  have hgo : ∀ m, (if ord = 0 then runSpec else runC) s m = s.settle .c c sh (m c sh) := by
    intro m
    split
    · rw [runSpec, runOn_eq m hc hsh hres]
    · rw [runC_eq m hc hsh (hruns.2 rfl)]
  rw [hgo, Core.ready_eq s _ hfree, Core.afterAcquire_of_none hacq]

theorem loadWord_checked (off : BitVec 21) (signed : Bool) :
    loadWord rd ra ord scope off size signed s = s.settle .c c sh (checked s sh (plainReq (c.sreg ra + off.signExtend 64) size false ord scope)
      fun t => issueLoad s c sh rd signed (plainReq (c.sreg ra + off.signExtend 64) size false ord scope) t) :=
  accessWord_eq hruns hfree hacq _

theorem storeWord_checked (off : BitVec 22) :
    ∃ k, storeWord rd ra ord scope off size s = s.settle .c c sh (checked s sh (plainReq (c.sreg ra + off.signExtend 64) size true ord scope) k) :=
  ⟨_, accessWord_eq hruns hfree hacq _⟩

/-- A load from the own scratchpad that would take effect at its issue, and races, traps (R107). -/
theorem loadWord_races {off : BitVec 21} {signed : Bool} {t : Target} {d : Nat} (ht : s.checkAccess s.curCore sh (plainReq (c.sreg ra + off.signExtend 64) size false ord scope) = .ok t)
    (hdirect : c.direct s.curCore t = true) (hrace : s.raceAt sh t size false (ord == 0) false = some d) :
    loadWord rd ra ord scope off size signed s = .next (s.takeTrap s.curCore .c 8 (raceTval (c.sreg ra + off.signExtend 64) d)) := by
  rw [loadWord_checked hruns hfree hacq, checked_of_ok ht, ← State.trapWord_of_plain (hruns.2 rfl), ← settle_trap s .c c sh]
  refine congrArg (s.settle .c c sh) ?_
  unfold issueLoad
  dsimp only
  rw [hruns.2 rfl]
  dsimp only
  rw [if_pos hdirect]
  exact State.raceNow_of_some hrace _

/-- And so does a store, if it is no release, or its release has nothing to wait for. -/
theorem storeWord_races {off : BitVec 22} {t : Target} {d : Nat} (ht : s.checkAccess s.curCore sh (plainReq (c.sreg ra + off.signExtend 64) size true ord scope) = .ok t)
    (hrel : ord = 0 ∨ c.released (scopeAt scope t) = true ∧ s.heardOut s.curCore c (scopeAt scope t) = true ∧ Flushed c)
    (hdirect : c.direct s.curCore t = true) (hrace : s.raceAt sh t size true (ord == 0) false = some d) :
    storeWord rd ra ord scope off size s = .next (s.takeTrap s.curCore .c 8 (raceTval (c.sreg ra + off.signExtend 64) d)) := by
  obtain ⟨b, -, hb, hword⟩ := storeWord_eq hruns hfree hacq hrel ht
  rw [hb hdirect] at hword
  rw [hword, ← State.trapWord_of_plain (hruns.2 rfl), ← settle_trap s .c c sh]
  refine congrArg (s.settle .c c sh) ?_
  unfold issueStore
  dsimp only
  rw [hruns.2 rfl]
  dsimp only
  rw [if_pos hdirect]
  exact State.raceNow_of_some hrace _

end

/-- Settles O18: a failed check by its place in the order, a race by the word that would take effect. -/
theorem accessChecksTrap : Obligations.AccessChecksTrap := by
  intro s c sh rd ra ord scope off off' hruns hfree hacq e he
  have hspec := hruns.2 rfl
  have hc := hruns.1.1
  have hword : (∃ k, exec e.1 s = s.settle .c c sh (checked s sh (plainReq e.2.1 8 e.2.2 ord scope) k))
      ∧ ∀ t d, s.checkAccess s.curCore sh (plainReq e.2.1 8 e.2.2 ord scope) = .ok t → c.direct s.curCore t = true → s.raceAt sh t 8 e.2.2 (ord == 0) false = some d →
          (e.2.2 = true → ord ≠ 0 → c.released (scopeAt scope t) = true ∧ s.heardOut s.curCore c (scopeAt scope t) = true ∧ Flushed c) →
          exec e.1 s = .next (s.takeTrap s.curCore .c 8 (raceTval e.2.1 d)) := by
    simp only [List.mem_cons, List.not_mem_nil, or_false] at he
    rcases he with rfl | rfl
    · exact ⟨⟨_, loadWord_checked hruns hfree hacq off true⟩, fun t d ht hdirect hrace _ => loadWord_races hruns hfree hacq ht hdirect hrace⟩
    · exact ⟨storeWord_checked hruns hfree hacq off', fun t d ht hdirect hrace hrel =>
        storeWord_races hruns hfree hacq ht (or_iff_not_imp_left.mpr (hrel rfl)) hdirect hrace⟩
  obtain ⟨⟨k, hexec⟩, hraces⟩ := hword
  have traps {code : BitVec 8} {tval : Word} (h : s.checkAccess s.curCore sh (plainReq e.2.1 8 e.2.2 ord scope) = .trap code tval) :
      exec e.1 s = .next (s.takeTrap s.curCore .c code tval) := hexec.trans (settle_checked_trap hspec h)
  have poisons {cell : Bool} (h : s.checkAccess s.curCore sh (plainReq e.2.1 8 e.2.2 ord scope) = .poison cell) :
      exec e.1 s = .next (s.stopPoisoned s.curCore sh .c e.2.1 c.cs.pc cell) := hexec.trans (settle_checked_poison hspec h)
  refine ⟨fun h => traps (State.checkAccess_of_nowhere h), fun a h => ⟨fun halign => traps (State.checkAccess_of_misaligned h halign),
    fun halign hpure => traps (State.checkAccess_of_pure h halign hpure), fun halign hpure => ?_⟩, fun kind a h hkind => ?_, hraces⟩
  · have hglobal := State.checkAccess_global (s := s) (sh := sh) (r := plainReq e.2.1 8 e.2.2 ord scope) h hc halign hpure
    have hchecked {tr : Trans} (htr : c.translate 0 sh.ctx a (if e.2.2 then .write else .read) = tr) := hglobal.trans (congrArg (s.checkTranslated _) htr)
    refine ⟨fun htr => traps (hchecked htr), fun htr => hexec.trans (settle_checked_miss (hchecked htr)), fun htr => poisons (hchecked htr),
      fun p htr hwrite hsealed => traps ((hchecked htr).trans ?_), fun p htr hread hpoison => poisons ((hchecked htr).trans ?_)⟩
    · rw [State.checkTranslated, if_neg (by simp [plainReq, Req.reads, hwrite])]
      exact if_pos (by rw [Bool.and_eq_true]; exact ⟨hwrite, hsealed⟩)
    · exact if_pos (by simp [plainReq, Req.reads, hread, hpoison])
  · have hpad := State.checkAccess_pad (s := s) (n := s.curCore) (sh := sh) (r := plainReq e.2.1 8 e.2.2 ord scope) hkind h
    have hhere (h : s.runsCtx (padOf s.curCore kind a).1 sh.ctx = true) := hpad.trans (if_neg (by rw [h]; decide))
    exact ⟨fun hother => traps (hpad.trans (if_pos (by rw [hother]; decide))), fun hctx hscope => traps ((hhere hctx).trans (if_pos hscope)),
      fun hctx hscope halign => traps ((hhere hctx).trans ((if_neg hscope).trans (if_pos halign))),
      fun hctx hscope halign hpure hother => traps ((hhere hctx).trans ((if_neg hscope).trans ((if_neg (not_not.mpr halign)).trans (if_pos ⟨hpure, hother⟩))))⟩

end Sys2Proof.Machine
end

section
/-! The words that load (R79, R82, R85, R94, R153, R175): a load reads at once where its value is at hand, and goes into flight with that value or without one. -/

namespace Sys2Proof.Machine

open Sys2Proof.Claim

/-- The access that a load word issues. -/
def loadAccess (s : State) (c : Core) (rd ra : BitVec 6) (ord scope : BitVec 2) (off : BitVec 21) (size : Nat) (signed : Bool) (t : Target) : Access :=
  { newAccess s c .load (plainReq (c.sreg ra + off.signExtend 64) size false ord scope) t with rd := rd.toNat, signed := signed }

/-- The value that a load word has at its issue: from the own scratchpad, or from the line of the data cache that serves it. -/
def valueAtIssue (s : State) (c : Core) (r : Req) (t : Target) (signed : Bool) : Option Word :=
  if c.direct s.curCore t then some (extend signed r.size (ofBytes (s.readTarget t r.size)))
  else (c.served r t).map fun bs => extend signed r.size (ofBytes (bs.take r.size))

/-- The access as it enters the flight. -/
def loadFlight (s : State) (c : Core) (rd ra : BitVec 6) (ord scope : BitVec 2) (off : BitVec 21) (size : Nat) (signed : Bool) (t : Target) : Access :=
  { loadAccess s c rd ra ord scope off size signed t with
    value := valueAtIssue s c (plainReq (c.sreg ra + off.signExtend 64) size false ord scope) t signed }

/-- A load that takes effect at its issue changes no core but by its region, and returns the bytes of its target (R80, R105). -/
theorem State.Issues.atOnce_load {s u : State} {n : Nat} {c d : Core} {sh h : Shard} {f : Access} (hu : s.Issues u n d) (hc : s.core? n = some c) (hpad : d.pad = c.pad)
    (hsh : d.shard = some h) (hkind : f.kind = .load) :
    s.Issues (u.atOnce n sh f).1 n { d with shard := some (h.noted f) } ∧ (u.atOnce n sh f).2 = extend f.signed f.size (ofBytes (s.readTarget f.target f.size)) := by
  have hentered := (hu.note hsh sh.uid f).enter (f.racer sh) f.target f.size f.writes f.isData f.isAtomic
  have hread := hentered.sameMemory hc (by exact hpad) f.target f.size
  have hperform : ∀ w : State, w.perform f = (w, extend f.signed f.size (ofBytes (w.readTarget f.target f.size))) := fun w => by
    unfold State.perform
    rw [hkind]
  unfold State.atOnce State.performs State.takesEffect
  dsimp only
  rw [hperform]
  exact ⟨hentered.closedBy f, by rw [hread]⟩

section
variable {s : State} {c : Core} {sh : Shard} {rd ra : BitVec 6} {ord scope : BitVec 2} {off : BitVec 21} {size : Nat} {signed : Bool} {t : Target}
  (hruns : RunsPlain s .c c sh)
include hruns

/-- The issue of a load outside a speculation: its shard's region, its value if that is at hand, and its flight. -/
theorem issueLoad_eq
    (hrace : c.direct s.curCore t = true ∨ (c.served (plainReq (c.sreg ra + off.signExtend 64) size false ord scope) t).isSome = true → s.raceAt sh t size false (ord == 0) false = none) :
    ∃ w, issueLoad s c sh rd signed (plainReq (c.sreg ra + off.signExtend 64) size false ord scope) t
        = .done (w.fly s.curCore .c (loadFlight s c rd ra ord scope off size signed t))
      ∧ s.Issues w s.curCore { c.setPending rd with shard := some (sh.noted (loadAccess s c rd ra ord scope off size signed t)) } := by
  obtain ⟨hc, hsh, -, -⟩ := hruns.1
  have hwaiting : s.Issues (s.setCore s.curCore (c.setPending rd)) s.curCore (c.setPending rd) :=
    .of_sets ⟨rfl, s.core?_setCore _ _, fun m hm => s.core?_setCore_ne _ hm⟩
  have hshard : (c.setPending rd).shard = some sh := (c.setPending_shard rd).trans hsh
  obtain ⟨hperformed, hvalue⟩ := hwaiting.atOnce_load (sh := sh) (f := loadAccess s c rd ra ord scope off size signed t) hc (c.setPending_pad rd) hshard rfl
  unfold issueLoad loadFlight valueAtIssue
  dsimp only
  rw [hruns.2 rfl]
  dsimp only
  cases hdirect : c.direct s.curCore t with
  | true =>
    refine ⟨_, ?_, hperformed⟩
    rw [if_pos rfl, if_pos rfl]
    refine (State.raceNow_of_none (hrace (.inl hdirect)) _).trans ?_
    exact congrArg (fun v => Res.done (State.fly _ _ _ { loadAccess s c rd ra ord scope off size signed t with value := some v })) hvalue
  | false =>
    rw [if_neg (by decide), if_neg (by decide)]
    cases hserved : c.served (plainReq (c.sreg ra + off.signExtend 64) size false ord scope) t with
    | some bs =>
      refine ⟨_, ?_, hperformed⟩
      exact State.raceNow_of_none (hrace (.inr (by rw [hserved]; rfl))) _
    | none => exact ⟨_, rfl, hwaiting.note hshard sh.uid _⟩

/-- A load word whose operands and target are there puts its load into flight, to a peer as a message, and completes. -/
theorem loadWord_flies (hfree : Free c [rd, ra]) (hacq : c.cs.acquiring = false)
    (ht : s.checkAccess s.curCore sh (plainReq (c.sreg ra + off.signExtend 64) size false ord scope) = .ok t)
    (hrace : c.direct s.curCore t = true ∨ (c.served (plainReq (c.sreg ra + off.signExtend 64) size false ord scope) t).isSome = true → s.raceAt sh t size false (ord == 0) false = none) :
    ∃ u f g l o k, loadWord rd ra ord scope off size signed s = .next u
      ∧ State.Issues { s with sent := l, outstanding := o, tag := k } u s.curCore { c.setPending rd with shard := some { sh with region := g }, cs := sent c.cs f }
      ∧ (∃ tag, f = { loadFlight s c rd ra ord scope off size signed t with tag := tag })
      ∧ ((∀ p a, t ≠ .peer p a) → l = s.sent)
      ∧ ∀ p a, t = .peer p a → s.hubOk (dieOf s.curCore) = true → ∃ hdr, l = s.sent ++ [{ port := p, hdr := hdr, payload := [] }] := by
  obtain ⟨w, hissue, hset⟩ := issueLoad_eq hruns (rd := rd) (signed := signed) hrace
  obtain ⟨l, o, k, tag, hflown, hsilent, hsends⟩ := hset.fly (loadFlight s c rd ra ord scope off size signed t)
  have hdone := hflown.completeWord rfl
  refine ⟨(w.fly s.curCore .c (loadFlight s c rd ra ord scope off size signed t)).completeWord .c, { loadFlight s c rd ra ord scope off size signed t with tag := tag }, (sh.noted (loadAccess s c rd ra ord scope off size signed t)).region, l, o, k, ?_, ?_, ⟨tag, rfl⟩, hsilent, hsends⟩
  · rw [loadWord_checked hruns hfree hacq, checked_of_ok ht, hissue, settle_done]
  · rw [← c.setPending_cs rd]
    exact hdone

end

/-- Settles O13: the seven words are one, whose load goes into flight with the value that is at hand. -/
theorem loadWords : Obligations.LoadWords := by
  intro s c sh rd ra ord scope off t hruns hfree hacq e he
  dsimp only
  intro ht hrace
  have hword : ∃ u d f g, loadWord rd ra ord scope off e.2.1 e.2.2 s = .next u ∧ Touches s u s.curCore d ∧ Issued s u ∧ u.tasks = s.tasks ∧ SameMemory s u
        ∧ d = { c.setPending rd with shard := some { sh with region := g }, cs := sent c.cs f }
        ∧ f.kind = .load ∧ f.va = c.sreg ra + off.signExtend 64 ∧ f.target = t ∧ f.size = e.2.1 ∧ f.rd = rd.toNat ∧ f.signed = e.2.2
        ∧ f.value = valueAtIssue s c (plainReq (c.sreg ra + off.signExtend 64) e.2.1 false ord scope) t e.2.2
        ∧ ((∀ p a, t ≠ .peer p a) → u.sent = s.sent)
        ∧ ∀ p a, t = .peer p a → s.hubOk (dieOf s.curCore) = true → ∃ hdr, u.sent = s.sent ++ [{ port := p, hdr := hdr, payload := [] }] := by
    obtain ⟨u, f, g, l, o, k, hword, hset, ⟨tag, rfl⟩, hsilent, hsends⟩ := loadWord_flies hruns (signed := e.2.2) hfree hacq ht hrace
    have hsent : u.sent = l := by rw [hset.quiet]
    have hmem := hset.sameMemory (c := c) hruns.1.1 (c.setPending_pad rd)
    exact ⟨u, _, _, g, hword, hset.touches, by rw [Issued, hset.quiet], by rw [hset.quiet], hmem, rfl, rfl, rfl, rfl, rfl, rfl, rfl, rfl, by rwa [hsent], by rwa [hsent]⟩
  simp only [List.mem_cons, List.not_mem_nil, or_false] at he
  rcases he with rfl | rfl | rfl | rfl | rfl | rfl | rfl <;> exact hword

end Sys2Proof.Machine
end

section
/-! Atomics and CAS (R37, R79, R82, R177, R178): one takes effect at its issue in the own scratchpad, or goes into flight. -/

namespace Sys2Proof.Machine

open Sys2Proof.Claim

/-! ### Numbers in bytes (R2) -/

/-- Bytes are those of the number they hold. -/
theorem toBytes_ofBytes (l : List Byte) : toBytes l.length (ofBytes l) = l := by
  induction l with
  | nil => rfl
  | cons b l ih =>
    have hb : b.toNat < 256 := b.isLt
    rw [List.length_cons, toBytes, ofBytes, show (b.toNat + 256 * ofBytes l) / 256 = ofBytes l by omega, ih]
    refine congrArg (· :: l) (BitVec.eq_of_toNat_eq ?_)
    rw [BitVec.toNat_ofNat]
    omega

/-- What a number holds beyond its bytes does not show in them. -/
theorem toBytes_mod (n v : Nat) : toBytes n (v % 2 ^ (8 * n)) = toBytes n v := by
  induction n generalizing v with
  | zero => rfl
  | succ n ih =>
    have hpow : 2 ^ (8 * (n + 1)) = 256 * 2 ^ (8 * n) := by rw [Nat.mul_succ, Nat.pow_add, Nat.mul_comm]
    rw [toBytes, toBytes, hpow, Nat.mod_mul_right_div_self, ih]
    refine congrArg (· :: toBytes n (v / 256)) (BitVec.eq_of_toNat_eq ?_)
    rw [BitVec.toNat_ofNat, BitVec.toNat_ofNat]
    exact Nat.mod_mul_right_mod v 256 _

/-! ### The effect (R177, R178) -/

/-- The value that an atomic or CAS leaves where it finds an old one. -/
def Access.left (f : Access) (old : Nat) : Nat :=
  if f.kind = .cas then (if old = f.cmp.toNat % 2 ^ (8 * f.size) then f.data.toNat % 2 ^ (8 * f.size) else old)
  else atomicNew f.fn f.size old (f.data.toNat % 2 ^ (8 * f.size))

/-- An atomic or CAS writes the bytes of what it leaves, or, a CAS that does not match, nothing. -/
theorem State.perform_atomic (s : State) {f : Access} (hkind : f.kind = .atomic ∨ f.kind = .cas) :
    (s.perform f).2 = extend f.signed f.size (ofBytes (s.readTarget f.target f.size))
      ∧ ((s.perform f).1 = s.writeTarget f.target (toBytes f.size (f.left (ofBytes (s.readTarget f.target f.size))))
        ∨ (s.perform f).1 = s ∧ f.left (ofBytes (s.readTarget f.target f.size)) = ofBytes (s.readTarget f.target f.size)) := by
  unfold State.perform Access.left
  rcases hkind with hkind | hkind <;> rw [hkind] <;> dsimp only
  · exact ⟨rfl, .inl (by rw [if_neg (by decide)])⟩
  · refine ⟨rfl, ?_⟩
    rw [if_pos rfl]
    split
    next => exact .inl (by rw [toBytes_mod])
    next => exact .inr ⟨rfl, rfl⟩

/-- An atomic or CAS that takes effect at its issue, in the own scratchpad of a core without a speculation (R82). -/
theorem State.Issues.atOnce_atomic {s u : State} {n o : Nat} {c d : Core} {sh h : Shard} {f : Access} (hu : s.Issues u n d) (hc : s.core? n = some c) (hpad : d.pad = c.pad)
    (hsh : d.shard = some h) (hspec : d.spec = none) (hkind : f.kind = .atomic ∨ f.kind = .cas) (htarget : f.target = .pad n o) :
    ∃ e, s.Issues (u.atOnce n sh f).1 n e ∧ e = { d with shard := some (h.noted f), pad := e.pad, padPoison := e.padPoison }
      ∧ (u.atOnce n sh f).2 = extend f.signed f.size (ofBytes (s.readTarget f.target f.size))
      ∧ (u.atOnce n sh f).1.readTarget f.target f.size = toBytes f.size (f.left (ofBytes (s.readTarget f.target f.size)))
      ∧ SameBut s (u.atOnce n sh f).1 f.target f.size := by
  have hentered := (hu.note hsh sh.uid f).enter (f.racer sh) f.target f.size f.writes f.isData f.isAtomic
  have hread := hentered.sameMemory hc (by exact hpad) f.target f.size
  obtain ⟨hvalue, hwritten⟩ := State.perform_atomic ((u.note n sh.uid f).enter (f.racer sh) f.target f.size f.writes f.isData f.isAtomic) hkind
  rw [hread] at hvalue hwritten
  unfold State.atOnce State.performs State.takesEffect
  dsimp only
  rcases hwritten with hwritten | ⟨hwritten, hleft⟩ <;> rw [hwritten, hvalue]
  · have hstored := (hentered.writePad hspec o (toBytes f.size (f.left (ofBytes (s.readTarget f.target f.size))))).closedBy f
    rw [htarget] at hstored ⊢
    exact ⟨_, hstored, rfl, rfl, hstored.readTarget_of_stored (m := c.pad) (by rw [← hpad]; rfl) (length_toBytes _ _),
      hstored.sameBut_of_stored hc (by rw [← hpad]; rfl) (length_toBytes _ _)⟩
  · have hclosed := hentered.closedBy f
    have hsame := hclosed.sameMemory hc (by exact hpad)
    refine ⟨_, hclosed, rfl, rfl, ?_, fun x _ => hsame x 1⟩
    have hlength := s.length_readTarget f.target f.size
    rw [hsame, hleft]
    exact (toBytes_ofBytes _).symm.trans (by rw [hlength])

/-- An access that takes effect at its issue goes to the own scratchpad (R82). -/
theorem Core.own_of_direct {c : Core} {n : Nat} {t : Target} (h : c.direct n t = true) : ∃ o, t = .pad n o := by
  rw [Core.direct, Bool.and_eq_true] at h
  cases t with
  | pad k o => exact ⟨o, by rw [beq_iff_eq.mp h.1]⟩
  | dram a => exact Bool.noConfusion h.1
  | host p a => exact Bool.noConfusion h.1
  | peer p a => exact Bool.noConfusion h.1

/-! ### The words -/

/-- The access that an atomic word on an address issues. -/
def atomicAccess (s : State) (c : Core) (kind : AccessKind) (rd rb : BitVec 6) (va : Word) (ord scope : BitVec 2) (dw : Bool) (fn : Nat) (t : Target) : Access :=
  { newAccess s c kind (atomicReq va (if dw then 8 else 4) fn ord scope) t with
    data := (c.sreg rb).setWidth 512, cmp := c.sreg rd, rd := rd.toNat, signed := !((fn == 6 || fn == 7) && !dw) }

/-- A core that issues an atomic: its register becomes pending, and the line leaves the data cache (R79, R153). -/
theorem Core.cacheDrop_setPending_eq (c : Core) (t : Target) (rd : BitVec 6) : (c.cacheDrop t).setPending rd = { c.setPending rd with dcache := (c.cacheDrop t).dcache } := by
  unfold Core.setPending
  cases t <;> split <;> rfl

/-- An atomic leaves the value of the table of R177. -/
theorem left_atomicAccess (s : State) (c : Core) (rd rb : BitVec 6) (va : Word) (ord scope : BitVec 2) (dw : Bool) (fn : Nat) (t : Target) (old : Nat) :
    (atomicAccess s c .atomic rd rb va ord scope dw fn t).left old
      = atomicNew fn (if dw then 8 else 4) old ((c.sreg rb).toNat % 2 ^ (8 * (if dw then 8 else 4))) := by
  have hdata : ((c.sreg rb).setWidth 512).toNat = (c.sreg rb).toNat := BitVec.toNat_setWidth_of_le (by decide)
  rw [← hdata]
  exact if_neg AccessKind.noConfusion

/-- A CAS leaves its new value where it finds the one that rd holds (R178). -/
theorem left_casAccess (s : State) (c : Core) (rd rb : BitVec 6) (va : Word) (ord scope : BitVec 2) (dw : Bool) (fn : Nat) (t : Target) (old : Nat) :
    (atomicAccess s c .cas rd rb va ord scope dw fn t).left old
      = if old = (c.sreg rd).toNat % 2 ^ (8 * (if dw then 8 else 4)) then (c.sreg rb).toNat % 2 ^ (8 * (if dw then 8 else 4)) else old := by
  have hdata : ((c.sreg rb).setWidth 512).toNat = (c.sreg rb).toNat := BitVec.toNat_setWidth_of_le (by decide)
  rw [← hdata]
  exact if_pos rfl

section
variable {s : State} {c : Core} {sh : Shard} {rd ra rb : BitVec 6} {ord scope : BitVec 2} {dw : Bool} {kind : AccessKind} {fn : Nat} {t : Target}
  (hruns : RunsPlain s .c c sh) (hfree : Free c [rd, ra, rb]) (hacq : c.cs.acquiring = false)
  (hrel : ord.getLsbD 1 = true → c.released (scopeAt scope t) = true ∧ s.heardOut s.curCore c (scopeAt scope t) = true ∧ Flushed c)
  (ht : s.checkAccess s.curCore sh (atomicReq (c.sreg ra) (if dw then 8 else 4) fn ord scope) = .ok t)
include hruns hfree hacq hrel ht

/-- An atomic word whose operands and target are there, and whose release has nothing to wait for, issues its access. -/
theorem atomicWord_eq :
    ∃ b, s.Sets b s.curCore c ∧ (c.direct s.curCore t = true → b = s) ∧ atomicWord rd ra rb ord scope dw kind fn s
      = s.settle .c c sh (issueAtomic b c sh rd (atomicReq (c.sreg ra) (if dw then 8 else 4) fn ord scope) (atomicAccess b c kind rd rb (c.sreg ra) ord scope dw fn t)) := by
  obtain ⟨hc, hsh, -, -⟩ := hruns.1
  have hword : atomicWord rd ra rb ord scope dw kind fn s = s.settle .c c sh
      (if ord.getLsbD 1 then releaseAccess s c sh (scopeAt scope t)
          fun b e => issueAtomic b e sh rd (atomicReq (c.sreg ra) (if dw then 8 else 4) fn ord scope) (atomicAccess b e kind rd rb (c.sreg ra) ord scope dw fn t)
        else issueAtomic s c sh rd (atomicReq (c.sreg ra) (if dw then 8 else 4) fn ord scope) (atomicAccess s c kind rd rb (c.sreg ra) ord scope dw fn t)) := by
    rw [atomicWord, runC_eq _ hc hsh (hruns.2 rfl), Core.ready_eq s _ hfree, Core.afterAcquire_of_none hacq]
    exact congrArg (s.settle .c c sh) (checked_of_ok ht _)
  rw [hword]
  by_cases hord : ord.getLsbD 1 = true
  · obtain ⟨b, hset, hsame, heq⟩ := releaseAccess_of_released (sh := sh) hruns (hrel hord)
      fun b e => issueAtomic b e sh rd (atomicReq (c.sreg ra) (if dw then 8 else 4) fn ord scope) (atomicAccess b e kind rd rb (c.sreg ra) ord scope dw fn t)
    refine ⟨b, hset, fun hdirect => hsame ?_, by rw [if_pos hord]; exact congrArg _ heq⟩
    obtain ⟨o, rfl⟩ := Core.own_of_direct hdirect
    exact Nat.min_le_right _ _
  · exact ⟨s, .refl hc, fun _ => rfl, by rw [if_neg hord]⟩

/-- An atomic on the own scratchpad that no earlier access holds up leaves its value there at once, and carries the old one in flight. -/
theorem atomicWord_direct (hkind : kind = .atomic ∨ kind = .cas) (hdirect : c.direct s.curCore t = true) (hrace : s.raceAt sh t (if dw then 8 else 4) true false true = none) :
    ∃ u d f g, atomicWord rd ra rb ord scope dw kind fn s = .next u ∧ s.Issues u s.curCore d
      ∧ d = { c.setPending rd with shard := some { sh with region := g }, cs := sent c.cs f, dcache := (c.cacheDrop t).dcache, pad := d.pad, padPoison := d.padPoison }
      ∧ sh.committedBy (c.sreg ra) = sh
      ∧ f = { atomicAccess s c kind rd rb (c.sreg ra) ord scope dw fn t with
                value := some (extend f.signed (if dw then 8 else 4) (ofBytes (s.readTarget t (if dw then 8 else 4)))) }
      ∧ u.readTarget t (if dw then 8 else 4) = toBytes (if dw then 8 else 4) ((atomicAccess s c kind rd rb (c.sreg ra) ord scope dw fn t).left (ofBytes (s.readTarget t (if dw then 8 else 4))))
      ∧ SameBut s u t (if dw then 8 else 4) := by
  have hspec := hruns.2 rfl
  obtain ⟨hc, hsh, -, -⟩ := hruns.1
  obtain ⟨b, -, hb, hword⟩ := atomicWord_eq hruns hfree hacq hrel ht (kind := kind)
  rw [hb hdirect] at hword
  obtain ⟨o, rfl⟩ := Core.own_of_direct hdirect
  have hlocal : ¬ ∃ off', aperture (c.sreg ra).toNat = some (0, off') := fun ⟨_, h⟩ => (State.checkFor_global ht h).2 _ _ rfl
  have hwaiting : s.Issues (s.setCore s.curCore (c.setPending rd)) s.curCore (c.setPending rd) :=
    .of_sets ⟨rfl, s.core?_setCore _ _, fun m hm => s.core?_setCore_ne _ hm⟩
  generalize hf : atomicAccess s c kind rd rb (c.sreg ra) ord scope dw fn (.pad s.curCore o) = f at hword
  have htarget : f.target = .pad s.curCore o := by rw [← hf]; rfl
  have hsize : f.size = if dw then 8 else 4 := by rw [← hf]; rfl
  obtain ⟨e, hperformed, he, hvalue, hleft, hbut⟩ := hwaiting.atOnce_atomic (sh := sh) hc (c.setPending_pad rd) ((c.setPending_shard rd).trans hsh) ((c.setPending_spec rd).trans hspec)
    (f := f) (by rw [← hf]; exact hkind) htarget
  rw [htarget, hsize] at hvalue hleft hbut
  generalize hw : (State.setCore s s.curCore (c.setPending rd)).atOnce s.curCore sh f = w at hperformed hvalue hleft hbut
  have hflies := fun {v : State} (h : State.Issues v w.1 s.curCore e) =>
    (h.updCore fun c => c.updStrm .c fun t => { t with flight := t.flight ++ [{ f with value := some w.2 }] }).completeWord
  have hsame := (hflies (.of_sets (.refl hperformed.core)) hperformed.curCore).sameMemory hperformed.core rfl
  refine ⟨_, _, { f with value := some w.2 }, (sh.noted f).region, ?_, hflies hperformed rfl, ?_, Shard.committedBy_of_local hlocal sh, ?_, (hsame _ _).trans hleft, sameBut_of_sameMemory hbut (fun _ _ => rfl) hsame⟩
  · have hissue : issueAtomic s c sh rd (atomicReq (c.sreg ra) (if dw then 8 else 4) fn ord scope) f = .done (w.1.fly s.curCore .c { f with value := some w.2 }) := by
      unfold issueAtomic
      dsimp only
      rw [htarget, if_pos hdirect, State.commitFor_of_local (va := (atomicReq (c.sreg ra) (if dw then 8 else 4) fn ord scope).va) hlocal]
      refine (State.raceNow_of_none hrace _).trans ?_
      rw [show (c.cacheDrop (.pad s.curCore o)).setPending rd = c.setPending rd from rfl, hw]
    rw [hword, hissue, settle_done, State.fly_inside _ _ (by rw [htarget]; rfl)]
  · rw [he, ← c.setPending_cs rd, show (c.cacheDrop (.pad s.curCore o)).dcache = (c.setPending rd).dcache from (c.setPending_dcache rd).symm]
    rfl
  · rw [hvalue, ← hf]

/-- An atomic that does not take effect at once goes into flight, and to a peer as a message. -/
theorem atomicWord_flies (hdirect : c.direct s.curCore t = false) :
    ∃ u f h ts l o k, atomicWord rd ra rb ord scope dw kind fn s = .next u
      ∧ State.Issues { s with tasks := ts, sent := l, outstanding := o, tag := k } u s.curCore { c.setPending rd with shard := some h, cs := sent c.cs f, dcache := (c.cacheDrop t).dcache }
      ∧ h = { sh.committedBy (c.sreg ra) with region := h.region }
      ∧ (∃ b tag, f = { atomicAccess b c kind rd rb (c.sreg ra) ord scope dw fn t with tag := tag })
      ∧ ((∀ p a, t ≠ .peer p a) → l = s.sent) := by
  have hsh := hruns.1.2.1
  obtain ⟨b, hset, -, hword⟩ := atomicWord_eq hruns hfree hacq hrel ht (kind := kind)
  have hcur := hset.curCore
  have hwaiting : s.Issues (b.setCore s.curCore ((c.cacheDrop t).setPending rd)) s.curCore ((c.cacheDrop t).setPending rd) := by
    have h := (State.Issues.of_sets hset).updCore fun e => (e.cacheDrop t).setPending rd
    rwa [State.updCore_of_core? hset.core] at h
  rw [Core.cacheDrop_setPending_eq] at hwaiting
  obtain ⟨ts, hcommitted⟩ := hwaiting.commitFor (sh := sh) ((c.setPending_shard rd).trans hsh) (va := c.sreg ra) fun _ haperture => (State.checkFor_global ht haperture).1
  generalize hf : atomicAccess b c kind rd rb (c.sreg ra) ord scope dw fn t = f at hword
  have htarget : f.target = t := by rw [← hf]; rfl
  obtain ⟨l, o, k, tag, hflown, hsilent, -⟩ := (hcommitted.note rfl sh.uid f).fly f
  rw [htarget] at hsilent
  have hdone := hflown.completeWord rfl
  refine ⟨((((b.setCore s.curCore ((c.cacheDrop t).setPending rd)).commitFor s.curCore (c.sreg ra)).note s.curCore sh.uid f).fly s.curCore .c f).completeWord .c,
    { f with tag := tag }, (sh.committedBy (c.sreg ra)).noted f, ts, l, o, k, ?_, ?_, rfl, ⟨b, tag, by rw [hf]⟩, hsilent⟩
  · rw [hword, issueAtomic]
    dsimp only
    rw [hcur, htarget, if_neg (by rw [hdirect]; decide)]
    rfl
  · rw [Core.cacheDrop_setPending_eq, ← c.setPending_cs rd]
    exact hdone

/-- What an atomic word leaves, wherever it goes (R37, R79, R82, R177, R178). -/
theorem atomicWord_spec (hkind : kind = .atomic ∨ kind = .cas) (hrace : c.direct s.curCore t = true → s.raceAt sh t (if dw then 8 else 4) true false true = none) :
    ∃ u d f h, atomicWord rd ra rb ord scope dw kind fn s = .next u ∧ Touches s u s.curCore d ∧ Issued s u
      ∧ d = { c.setPending rd with shard := some h, cs := sent c.cs f, dcache := (c.cacheDrop t).dcache, pad := d.pad, padPoison := d.padPoison }
      ∧ h = { sh with region := h.region, committed := h.committed }
      ∧ h.committed = (sh.committed || (aperture (c.sreg ra).toNat).any fun a => a.1 == 0)
      ∧ (∃ b tag v, f = { atomicAccess b c kind rd rb (c.sreg ra) ord scope dw fn t with tag := tag, value := v })
      ∧ (c.direct s.curCore t = true → f.value = some (extend f.signed (if dw then 8 else 4) (ofBytes (s.readTarget t (if dw then 8 else 4))))
          ∧ u.readTarget t (if dw then 8 else 4)
            = toBytes (if dw then 8 else 4) ((atomicAccess s c kind rd rb (c.sreg ra) ord scope dw fn t).left (ofBytes (s.readTarget t (if dw then 8 else 4))))
          ∧ SameBut s u t (if dw then 8 else 4))
      ∧ (c.direct s.curCore t = false → f.value = none ∧ SameMemory s u)
      ∧ ((∀ p a, t ≠ .peer p a) → u.sent = s.sent) := by
  cases hdirect : c.direct s.curCore t with
  | true =>
    obtain ⟨u, d, f, g, hword, hset, hd, hcommitted, hf, hread, hbut⟩ := atomicWord_direct hruns hfree hacq hrel ht hkind hdirect (hrace hdirect)
    exact ⟨u, d, f, _, hword, hset.touches, by rw [Issued, hset.quiet], hd, rfl, congrArg Shard.committed hcommitted.symm, ⟨s, _, _, hf⟩,
      fun _ => ⟨congrArg Access.value hf, hread, hbut⟩, fun h => Bool.noConfusion h, fun _ => by rw [hset.quiet]⟩
  | false =>
    obtain ⟨u, f, h, ts, l, o, k, hword, hset, hh, ⟨b, tag, hf⟩, hsilent⟩ := atomicWord_flies hruns hfree hacq hrel ht hdirect (kind := kind)
    have hsent : u.sent = l := by rw [hset.quiet]
    have hvalue : f.value = none := by rw [hf]; rfl
    have hmem := hset.sameMemory (c := c) hruns.1.1 (c.setPending_pad rd)
    exact ⟨u, _, f, h, hword, hset.touches, by rw [Issued, hset.quiet], rfl, by rw [hh]; rfl, by rw [hh]; rfl, ⟨b, tag, _, hf⟩, fun h => Bool.noConfusion h, fun _ => ⟨hvalue, hmem⟩, by rwa [hsent]⟩

end

/-- Settles O15: the ten words are one, whose access takes effect at once or goes into flight. -/
theorem atomicWords : Obligations.AtomicWords := by
  intro s c sh rd ra rb ord scope dw t hruns hfree hacq hrel size w old b e he ht hrace
  have hword {kind : AccessKind} {fn : Nat} (new : Nat) (ht : s.checkAccess s.curCore sh (atomicReq (c.sreg ra) size fn ord scope) = .ok t)
      (hkind : kind = if fn = 9 then .cas else .atomic) (hnew : (atomicAccess s c kind rd rb (c.sreg ra) ord scope dw fn t).left old = new) :
      ∃ u d f h, atomicWord rd ra rb ord scope dw kind fn s = .next u ∧ Touches s u s.curCore d ∧ Issued s u
        ∧ d = { c.setPending rd with shard := some h, cs := sent c.cs f, dcache := (c.cacheDrop t).dcache, pad := d.pad, padPoison := d.padPoison }
        ∧ h = { sh with region := h.region, committed := h.committed }
        ∧ h.committed = (sh.committed || (aperture (c.sreg ra).toNat).any fun a => a.1 == 0)
        ∧ f.kind = (if fn = 9 then AccessKind.cas else .atomic) ∧ f.target = t ∧ f.size = size ∧ f.rd = rd.toNat
        ∧ f.data = (c.sreg rb).setWidth 512 ∧ f.cmp = c.sreg rd
        ∧ f.signed = !((fn == 6 || fn == 7) && !dw)
        ∧ (c.direct s.curCore t = true → f.value = some (extend f.signed size old) ∧ u.readTarget t size = toBytes size new ∧ SameBut s u t size)
        ∧ (c.direct s.curCore t = false → f.value = none ∧ SameMemory s u)
        ∧ ((∀ p a, t ≠ .peer p a) → u.sent = s.sent) := by
    obtain ⟨u, d, f, h, hexec, htouches, hissued, hd, hh, hcommitted, ⟨x, tag, v, hf⟩, hdirect, hflies, hsent⟩ :=
      atomicWord_spec hruns hfree hacq hrel ht (kind := kind) (by rw [hkind]; split <;> simp) hrace
    rw [hnew] at hdirect
    refine ⟨u, d, f, h, hexec, htouches, hissued, hd, hh, hcommitted, ?_, ?_, ?_, ?_, ?_, ?_, ?_, hdirect, hflies, hsent⟩ <;> rw [hf]
    · exact hkind
    all_goals rfl
  have hatomic (fn : Nat) (hfn : fn ≠ 9) (ht) := hword (kind := .atomic) (fn := fn) _ ht (if_neg hfn).symm (left_atomicAccess ..)
  simp only [List.mem_cons, List.not_mem_nil, or_false] at he
  rcases he with rfl | rfl | rfl | rfl | rfl | rfl | rfl | rfl | rfl | rfl
  · exact hatomic 0 (by decide) ht
  · exact hatomic 1 (by decide) ht
  · exact hatomic 2 (by decide) ht
  · exact hatomic 3 (by decide) ht
  · exact hatomic 4 (by decide) ht
  · exact hatomic 5 (by decide) ht
  · exact hatomic 6 (by decide) ht
  · exact hatomic 7 (by decide) ht
  · exact hatomic 8 (by decide) ht
  · exact hword (kind := .cas) _ ht rfl (left_casAccess ..)

end Sys2Proof.Machine
end

section
/-! Loads and atomics of host and peer windows (R85, R153, R350, R412): sent once, and, when refused, a precise trap. -/

namespace Sys2Proof.Machine

open Sys2Proof.Claim

/-! ### Sending -/

/-- A host or peer window is no scratchpad, so nothing takes effect there at issue (R82). -/
theorem Core.direct_of_outside (c : Core) (n : Nat) {t : Target} (h : t.outside = true) : c.direct n t = false := by
  cases t with
  | host p a => rfl
  | peer p a => rfl
  | pad k o => exact Bool.noConfusion h
  | dram a => exact Bool.noConfusion h

/-- The scalar data cache holds no line of a window (R79, R85). -/
theorem Core.served_of_outside (c : Core) (r : Req) {t : Target} (h : t.outside = true) : c.served r t = none := by
  have hmiss : c.cacheHit t = none := by
    cases t with
    | host p a => rfl
    | peer p a => rfl
    | pad k o => exact Bool.noConfusion h
    | dram a => exact Bool.noConfusion h
  rw [Core.served, hmiss, ite_self]

/-- A word has sent its access to a window, with rd pending, and its stream goes on. -/
def SendsToWindow (s : State) (c : Core) (rd : BitVec 6) (va : Word) (t : Target) (o : Out) : Prop :=
  ∃ (u : State) (d : Core) (f : Access), o = .next u ∧ u.core? s.curCore = some d ∧ SameMemory s u ∧ f.target = t ∧ f.va = va ∧ f.pc = c.cs.pc ∧ f.rd = rd.toNat
    ∧ f.value = none ∧ f.failed = false ∧ f.held = false ∧ d.cs.flight = c.cs.flight ++ [f]
    ∧ d.cs.pc = (c.cs.complete c.cs.pc).pc ∧ d.pending = (c.setPending rd).pending ∧ d.sregs = c.sregs ∧ Kept c d

/-- A core with a register pending and an access sent is as before beside them. -/
theorem kept_of_sent (c : Core) (rd : BitVec 6) (h : Option Shard) (f : Access) (l : Map (List Byte)) :
    Kept c { c.setPending rd with shard := h, cs := sent c.cs f, dcache := l } := by
  unfold Kept Core.setPending
  split <;> rfl

section
variable {s : State} {c : Core} {sh : Shard} {rd ra rb : BitVec 6} {ord scope : BitVec 2} {t : Target}
  (hruns : RunsPlain s .c c sh) (hfree : Free c [rd, ra, rb]) (hacq : c.cs.acquiring = false) (hout : t.outside = true)
include hruns hfree hacq hout

theorem loadWord_sendsToWindow (off : BitVec 21) (size : Nat) (signed : Bool)
    (ht : s.checkAccess s.curCore sh (plainReq (c.sreg ra + off.signExtend 64) size false ord scope) = .ok t) :
    SendsToWindow s c rd (c.sreg ra + off.signExtend 64) t (loadWord rd ra ord scope off size signed s) := by
  have hdirect := c.direct_of_outside s.curCore hout
  have hserved := c.served_of_outside (plainReq (c.sreg ra + off.signExtend 64) size false ord scope) hout
  obtain ⟨u, f, g, l, o, k, hword, hset, ⟨tag, hf⟩, -, -⟩ := loadWord_flies hruns (signed := signed) (fun r hr => hfree r (by simp at hr ⊢; tauto)) hacq ht
    (by rw [hdirect, hserved]; exact fun h => absurd h (by decide))
  have hvalue : f.value = none := by
    rw [hf]
    show valueAtIssue s c _ t signed = none
    rw [valueAtIssue, hdirect, hserved]
    rfl
  have hmem := hset.sameMemory (c := c) hruns.1.1 (c.setPending_pad rd)
  exact ⟨u, _, f, hword, hset.core, hmem, by rw [hf]; rfl, by rw [hf]; rfl, by rw [hf]; rfl, by rw [hf]; rfl, hvalue,
    by rw [hf]; rfl, by rw [hf]; rfl, rfl, rfl, rfl, c.setPending_sregs rd, kept_of_sent c rd _ f _⟩

theorem atomicWord_sendsToWindow (dw : Bool) (kind : AccessKind) (fn : Nat)
    (ht : s.checkAccess s.curCore sh (atomicReq (c.sreg ra) (if dw then 8 else 4) fn ord scope) = .ok t)
    (hrel : ord.getLsbD 1 = true → c.released (scopeAt scope t) = true ∧ s.heardOut s.curCore c (scopeAt scope t) = true ∧ Flushed c) :
    SendsToWindow s c rd (c.sreg ra) t (atomicWord rd ra rb ord scope dw kind fn s) := by
  obtain ⟨u, f, h, ts, l, o, k, hword, hset, -, ⟨b, tag, hf⟩, -⟩ := atomicWord_flies hruns hfree hacq hrel ht (kind := kind) (c.direct_of_outside s.curCore hout)
  have hmem := hset.sameMemory (c := c) hruns.1.1 (c.setPending_pad rd)
  exact ⟨u, _, f, hword, hset.core, hmem, by rw [hf]; rfl, by rw [hf]; rfl, by rw [hf]; rfl, by rw [hf]; rfl, by rw [hf]; rfl,
    by rw [hf]; rfl, by rw [hf]; rfl, rfl, rfl, rfl, c.setPending_sregs rd, kept_of_sent c rd _ f _⟩

end

/-! ### A refusal (R350, R383, R412) -/

/-- A load or atomic that its window has refused meets a translation fault. -/
theorem State.heldFault_of_refused {s : State} {sh : Shard} {f : Access} (hfailed : f.failed = true) (hheld : f.held = false) (hfault : f.fault = none) (hkind : f.kind ≠ .store) :
    s.heldFault sh f = some (12, f.va) := by
  rw [State.heldFault, if_neg (by rw [hheld]; decide), if_neg (by rw [hfault]; decide)]
  exact if_pos ⟨hfailed, bne_iff_ne.mpr hkind⟩

/-- A core whose C-stream traps behind the issue of an access: the access is held, its register is pending no more, and the stream stands at its word. -/
def Core.heldAt (c : Core) (f : Access) : Core :=
  { (c.holdAccess .c f).updStrm .c fun t => { t with pc := f.pc } with ahead := some (.c, f.pc, c.cs.pc) }

/-- A held load or atomic of the C-stream leaves its core but for its flight, its PC and the pending register. -/
theorem Core.heldAt_eq (hkind : f.kind ≠ .store) (c : Core) :
    c.heldAt f = { c with pending := removeNat c.pending f.rd, ahead := some (.c, f.pc, c.cs.pc), cs := { c.cs with pc := f.pc, flight := (c.heldAt f).cs.flight } } := by
  have hreads : f.reads = true := bne_iff_ne.mpr hkind
  unfold Core.heldAt Core.holdAccess
  dsimp only
  rw [if_pos ⟨rfl, hreads⟩]
  rfl

section
variable {s : State} {c : Core} {sh : Shard} {f : Access} (hc : s.core? s.args.core = some c) (hsh : c.shard = some sh) (hspec : c.spec = none) (hkind : f.kind ≠ .store)
include hc hsh hspec hkind

/-- Its trap enters the handler with its word in CR.EPC.C and its address in CR.TVAL. -/
theorem State.takeHeld_enters (code : BitVec 8) (hinh : c.inh = false) (htvec : c.tvec ≠ 0) :
    s.takeHeld s.args.core .c f code f.va = State.setCore { s with arrays := Map.upd s.arrays (arrayOf s.args.core) fun a => { a with waiting := removeNat a.waiting s.args.core } } s.args.core
      ((c.heldAt f).walksForgotten.enterHandler .c code f.va) := by
  have hupd : (s.updCore s.args.core fun c =>
      let c := (c.rollback ((c.spec.map Spec.pc).getD c.cs.pc)).holdAccess .c f
      { c.updStrm .c fun t => { t with pc := f.pc } with ahead := some (.c, f.pc, (c.strm .c).pc) }) = s.setCore s.args.core (c.heldAt f) := by
    rw [State.updCore_of_core? hc, Core.rollback_of_plain hspec]
    unfold Core.heldAt Core.holdAccess
    dsimp only
    split <;> rfl
  have heq := c.heldAt_eq hkind
  rw [State.takeHeld, State.takeHeldAt, hupd, State.takeTrap_enters (s.core?_setCore _ _) (by rw [heq]; exact hsh) (by rw [heq]; exact hspec) .c code f.va (by rw [heq]; exact htvec)
    (by rw [heq]; exact hinh)]
  simp [State.setCore]

end

/-- Settles O17: each word through the load or atomic that all its sizes share, a refusal through the trap of the access that it names. -/
theorem windowAccessWords : Obligations.WindowAccessWords := by
  constructor
  · intro s c sh rd ra rb ord scope off dw t hruns hfree hacq hout lva n e he ht hrel
    have hload (size : Nat) (signed : Bool) := loadWord_sendsToWindow hruns hfree hacq hout (ord := ord) (scope := scope) off size signed
    have hatomic (kind : AccessKind) (fn : Nat) := atomicWord_sendsToWindow hruns hfree hacq hout (ord := ord) (scope := scope) dw kind fn
    simp only [List.mem_cons, List.not_mem_nil, or_false] at he
    rcases he with rfl | rfl | rfl | rfl | rfl | rfl | rfl | rfl | rfl | rfl | rfl | rfl | rfl | rfl | rfl | rfl | rfl
    · exact hload 1 true ht
    · exact hload 1 false ht
    · exact hload 2 true ht
    · exact hload 2 false ht
    · exact hload 4 true ht
    · exact hload 4 false ht
    · exact hload 8 true ht
    · exact hatomic .atomic 0 ht (hrel rfl)
    · exact hatomic .atomic 1 ht (hrel rfl)
    · exact hatomic .atomic 2 ht (hrel rfl)
    · exact hatomic .atomic 3 ht (hrel rfl)
    · exact hatomic .atomic 4 ht (hrel rfl)
    · exact hatomic .atomic 5 ht (hrel rfl)
    · exact hatomic .atomic 6 ht (hrel rfl)
    · exact hatomic .atomic 7 ht (hrel rfl)
    · exact hatomic .atomic 8 ht (hrel rfl)
    · exact hatomic .cas 9 ht (hrel rfl)
  · intro s c sh f hc hsh hinh htvec hspec hflight hout hfailed hheld hfault hkind
    have htrap : s.heldTrap s.args.core c sh = some (.c, f, 12, f.va) := by
      have hstrm : (c.strm .c).flight = [f] := hflight
      unfold State.heldTrap
      rw [List.findSome?_cons, hstrm]
      simp [hout, State.heldFault_of_refused hfailed hheld hfault hkind]
    have heq := c.heldAt_eq hkind
    refine ⟨_, _, (exec_trapEntry_of_held hc hsh hinh htrap).trans (congrArg _ (State.takeHeld_enters hc hsh hspec hkind 12 hinh htvec)), State.core?_setCore .., rfl, rfl, ?_, ?_, ?_, ?_, ?_, ?_, ?_, ?_⟩
    · exact (congrArg (fun d : Core => d.cs.pc) heq :)
    · exact (congrArg (fun d : Core => d.as.pc) heq :)
    · exact (congrArg (fun d : Core => d.vs.pc) heq :)
    · exact (congrArg Core.tvec heq :)
    · exact (congrArg Core.pending heq :)
    · exact (congrArg Core.sregs heq :)
    · exact (congrArg Core.gran heq :)
    · have hpad : ((c.heldAt f).walksForgotten.enterHandler .c 12 f.va).pad = c.pad := (congrArg Core.pad heq :)
      exact fun t j => (State.setCore_sameMemory (by exact hc) hpad t j).trans (sameMemory_of_eq rfl rfl rfl rfl t j)

end Sys2Proof.Machine
end

section
/-! CVTA, APTEST, SETVIEW and SETA (R70, R181 to R183). -/

namespace Sys2Proof.Machine

open Sys2Proof.Claim

/-- The aperture that an address lies in is the one of a number. -/
theorem aperture_any_of_in {a x : Nat} {ap : BitVec 2} (h : aperture a = some (ap.toNat, x)) : ((aperture a).any fun y => y.1 == ap.toNat) = true := by
  rw [h, Option.any_some, beq_self_eq_true]

theorem aperture_any_of_out {a : Nat} {ap : BitVec 2} (h : ∀ y, aperture a ≠ some (ap.toNat, y)) : ((aperture a).any fun y => y.1 == ap.toNat) = false := by
  cases haperture : aperture a with
  | none => rfl
  | some e => exact beq_eq_false_iff_ne.mpr fun hap => h e.2 (by rw [haperture, ← hap])

/-- The old views as SETVIEW returns them: three fields of one word (R182). -/
theorem views_word (v w t : BitVec 11) :
    BitVec.ofNat 64 (v.toNat + w.toNat * 2 ^ 16 + t.toNat * 2 ^ 32) = v.setWidth 64 + (w.setWidth 64 <<< 16) + (t.setWidth 64 <<< 32) := by
  have hv := v.isLt
  have hw := w.isLt
  have ht := t.isLt
  apply BitVec.eq_of_toNat_eq
  simp only [BitVec.toNat_ofNat, BitVec.toNat_add, BitVec.toNat_shiftLeft, BitVec.toNat_setWidth, Nat.shiftLeft_eq]
  omega

section
variable {s : State} {c : Core} {sh : Shard} {rd ra : BitVec 6} {ap : BitVec 2} (hruns : RunsPlain s .c c sh)
include hruns

/-- A C-stream word whose registers are there, outside a speculation. -/
theorem runC_ready {l : List (BitVec 6)} (hfree : Free c l) (m : Core → Shard → Res) :
    runC s (fun c sh => c.ready s l (m c sh)) = s.settle .c c sh (m c sh) := by
  rw [runC_eq _ hruns.1.1 hruns.1.2.1 (hruns.2 rfl), Core.ready_eq s _ hfree]

/-- A C-stream word outside a speculation takes its trap. -/
theorem settle_trap_plain (code : BitVec 8) (tval : Word) : s.settle .c c sh (.trap code tval) = .next (s.takeTrap s.curCore .c code tval) := by
  rw [settle_trap, State.trapWord_of_plain (hruns.2 rfl)]

variable (hfree : Free c [rd, ra])
include hfree

/-! ### CVTA and APTEST (R181) -/

theorem exec_cvtaTo_of_in {x : Nat} (h : aperture (c.sreg ra).toNat = some (ap.toNat, x)) : exec (.cvtaTo rd ra ap) s = .next (wrote s c rd (BitVec.ofNat 64 x)) := by
  rw [exec_cvtaTo, execCvtaTo, runC_ready hruns hfree, h]
  dsimp only
  rw [if_pos rfl, settle_done_put]
  rfl

theorem exec_cvtaTo_of_out (h : ∀ y, aperture (c.sreg ra).toNat ≠ some (ap.toNat, y)) : exec (.cvtaTo rd ra ap) s = .next (s.takeTrap s.curCore .c 13 (c.sreg ra)) := by
  rw [exec_cvtaTo, execCvtaTo, runC_ready hruns hfree, ← settle_trap_plain hruns]
  cases haperture : aperture (c.sreg ra).toNat with
  | none => rfl
  | some e => exact congrArg (s.settle .c c sh) (if_neg fun hap => h e.2 (by rw [haperture, ← hap]))

theorem exec_cvtaFrom_of_fits (h : (c.sreg ra).toNat ≤ (apertureBase ap).2) :
    exec (.cvtaFrom rd ra ap) s = .next (wrote s c rd (BitVec.ofNat 64 (apertureBase ap).1 + c.sreg ra)) := by
  have hword : BitVec.ofNat 64 ((apertureBase ap).1 + (c.sreg ra).toNat) = BitVec.ofNat 64 (apertureBase ap).1 + c.sreg ra := by
    rw [BitVec.ofNat_add, BitVec.ofNat_toNat, BitVec.setWidth_eq]
  rw [exec_cvtaFrom, execCvtaFrom, runC_ready hruns hfree, if_pos h, settle_done_put, hword]
  rfl

theorem exec_cvtaFrom_of_beyond (h : (apertureBase ap).2 < (c.sreg ra).toNat) : exec (.cvtaFrom rd ra ap) s = .next (s.takeTrap s.curCore .c 13 (c.sreg ra)) := by
  rw [exec_cvtaFrom, execCvtaFrom, runC_ready hruns hfree, if_neg (Nat.not_le.mpr h), settle_trap_plain hruns]

theorem exec_aptest_eq : exec (.aptest rd ra ap) s = .next (wrote s c rd (flagWord ((aperture (c.sreg ra).toNat).any fun x => x.1 == ap.toNat))) := by
  rw [exec_aptest, execAptest, runC_ready hruns hfree, settle_done_put]
  rfl

/-! ### SETVIEW and SETA (R182, R183) -/

/-- A core whose views have been written where a mask selects them. -/
def Core.withViews (c : Core) (mask : BitVec 3) (v : Word) : Core :=
  { c with
    viewV := if mask.getLsbD 0 then v.extractLsb' 0 11 else c.viewV
    viewW := if mask.getLsbD 1 then v.extractLsb' 16 11 else c.viewW
    viewT := if mask.getLsbD 2 then v.extractLsb' 32 11 else c.viewT }

theorem exec_setview_eq (mask : BitVec 3) :
    exec (.setview rd ra mask) s = .next (wrote s (c.withViews mask (c.sreg ra)) rd (c.viewV.setWidth 64 + (c.viewW.setWidth 64 <<< 16) + (c.viewT.setWidth 64 <<< 32))) := by
  rw [exec_setview, execSetview, runC_ready hruns hfree]
  dsimp only
  rw [settle_done_put, views_word]
  rfl

omit hfree in
theorem exec_seta_eq (hra : c.isPending ra = false) (ad : BitVec 5) :
    exec (.seta ad ra) s = .next (on s (after (if c.beat.isNone then c.setAreg ad (c.sreg ra) else { c with setas := c.setas ++ [(ad.toNat, c.sreg ra)] }) .c)) := by
  rw [exec_seta, execSeta, runC_ready hruns (l := [ra]) fun r hr => List.mem_singleton.mp hr ▸ hra, settle_done_put]

end

/-- Settles O20: each word by its equation, with the aperture of its address or the state of the A-stream. -/
theorem apertureAndViewWords : Obligations.ApertureAndViewWords := by
  intro s c sh rd ra ap ad mask x hruns hfree A
  have hra : c.isPending ra = false := hfree ra (by simp)
  refine ⟨exec_cvtaTo_of_in hruns hfree, exec_cvtaTo_of_out hruns hfree, ?_, fun h => ?_, fun h => ?_, ⟨_, exec_setview_eq hruns hfree mask, rfl, rfl, rfl, rfl⟩, fun h => ?_, fun h => ?_⟩
  · intro e he
    simp only [List.mem_cons, List.not_mem_nil, or_false] at he
    have hfrom (b : BitVec 2) := And.intro (exec_cvtaFrom_of_fits hruns hfree (ap := b)) (exec_cvtaFrom_of_beyond hruns hfree (ap := b))
    rcases he with rfl | rfl | rfl <;> rintro rfl
    · exact hfrom 0
    · exact hfrom 1
    · exact hfrom 2
  · rw [exec_aptest_eq hruns hfree, aperture_any_of_in h]
    rfl
  · rw [exec_aptest_eq hruns hfree, aperture_any_of_out h]
    rfl
  · rw [exec_seta_eq hruns hra, if_pos (Option.isNone_iff_eq_none.mpr h)]
  · rw [exec_seta_eq hruns hra, if_neg fun hnone => h (Option.isNone_iff_eq_none.mp hnone)]

end Sys2Proof.Machine
end

section
/-! What an access leaves that performs at its point of coherence (R80, R93, R104, R105, R199): the bytes it names, every other byte, and the cores but for their scratchpads and speculations. -/

namespace Sys2Proof.Machine

open Sys2Proof.Claim

/-! ### Cores behind a write -/

/-- A core without what a write to memory can change of it. -/
def Core.bare (c : Core) : Core := { c with spec := none, pad := [], padPoison := [] }

/-- Every core is as before, but for its scratchpad and its speculation. -/
def State.SameCores (s u : State) : Prop := ∀ m, (u.core? m).map Core.bare = (s.core? m).map Core.bare

theorem State.SameCores.of_cores {s u : State} (h : u.cores = s.cores) : s.SameCores u := fun m => by rw [State.core?, State.core?, h]

theorem State.SameCores.trans {s t u : State} (h : s.SameCores t) (h' : t.SameCores u) : s.SameCores u := fun m => (h' m).trans (h m)

theorem State.SameCores.core? {s u : State} (h : s.SameCores u) {n : Nat} {c : Core} (hc : s.core? n = some c) : ∃ d, u.core? n = some d ∧ d.bare = c.bare := by
  have hn := h n
  rw [hc, Option.map_some, Option.map_eq_some_iff] at hn
  exact hn

theorem State.writeTarget_sameCores (s : State) (t : Target) (bs : List Byte) : s.SameCores (s.writeTarget t bs) := by
  have hspoil : s.SameCores (s.spoil t bs.length) := fun m => map_core?_of_unspeculated (fun _ => rfl) (s.core?_spoil t bs.length m)
  refine hspoil.trans ?_
  cases t with
  | dram a => exact .of_cores rfl
  | host p a =>
    refine .of_cores ?_
    show (State.setHostMem _ _ _).cores = _
    unfold State.setHostMem
    split <;> rfl
  | peer p a => exact .of_cores rfl
  | pad k o =>
    intro m
    by_cases hm : m = k
    · subst hm
      rw [s.writeTarget_pad, State.core?_updCore, Option.map_map]
      rfl
    · rw [s.writeTarget_pad, State.core?_updCore_ne _ _ hm]

/-! ### Memory behind a write -/

/-- A write leaves every byte outside it (R80). -/
theorem sameBut_writeTarget (s : State) (t : Target) (bs : List Byte) {n : Nat} (hn : bs.length = n) : SameBut s (s.writeTarget t bs) t n := by
  cases t with
  | dram a => exact sameBut_writeTarget_dram s a bs hn
  | pad k o => exact sameBut_writeTarget_pad s k o bs hn
  | host p a => exact sameBut_writeTarget_host s p a bs hn
  | peer p a => exact fun x _ => s.readTarget_spoil (.peer p a) x bs.length 1

theorem SameMemory.sameBut {s u : State} (h : SameMemory s u) (t : Target) (n : Nat) : SameBut s u t n := fun x _ => h x 1

theorem State.enter_sameMemory (s : State) (r : Racer) (t : Target) (len : Nat) (write data atomic : Bool) : SameMemory s (s.enter r t len write data atomic) := by
  cases t <;> exact sameMemory_of_eq rfl rfl rfl rfl

theorem State.enter_sameCores (s : State) (r : Racer) (t : Target) (len : Nat) (write data atomic : Bool) : s.SameCores (s.enter r t len write data atomic) := by
  cases t <;> exact .of_cores rfl

theorem State.closedBy_sameMemory (s : State) (f : Access) : SameMemory s (s.closedBy f) := by
  unfold State.closedBy
  split
  · exact fun _ _ => rfl
  · exact sameMemory_of_eq rfl rfl rfl rfl

theorem State.closedBy_sameCores (s : State) (f : Access) : s.SameCores (s.closedBy f) := by
  unfold State.closedBy
  split <;> exact .of_cores rfl

/-- A step on one core that leaves its scratchpad leaves memory. -/
theorem State.updCore_sameMemory (s : State) (n : Nat) {g : Core → Core} (hg : ∀ c, (g c).pad = c.pad) : SameMemory s (s.updCore n g) := by
  refine fun t k => State.readTarget_congr (s := s) (u := s.updCore n g) rfl rfl rfl (fun m => ?_) t k
  by_cases hm : m = n
  · subst hm
    rw [State.core?_updCore, Option.map_map]
    exact congrArg (Option.map · _) (funext hg)
  · rw [State.core?_updCore_ne _ _ hm]

/-! ### An access performs -/

section
variable (s : State) {f : Access}

theorem State.perform_of_load (hkind : f.kind = .load) : (s.perform f).1 = s := by
  rw [State.perform, hkind]

theorem State.perform_of_store (hkind : f.kind = .store) : (s.perform f).1 = s.writeTarget f.target (toBytes f.size f.data.toNat) := by
  rw [State.perform, hkind]

theorem State.perform_value (hkind : f.kind ≠ .store) : (s.perform f).2 = extend f.signed f.size (ofBytes (s.readTarget f.target f.size)) := by
  unfold State.perform
  cases hk : f.kind with
  | store => exact absurd hk hkind
  | load => rfl
  | atomic => rfl
  | cas => rfl

/-- An access performs by a write of its bytes, or by none. -/
theorem State.perform_writes (f : Access) : (s.perform f).1 = s ∨ ∃ bs : List Byte, bs.length = f.size ∧ (s.perform f).1 = s.writeTarget f.target bs := by
  unfold State.perform
  dsimp only
  cases f.kind with
  | load => exact .inl rfl
  | store => exact .inr ⟨_, length_toBytes _ _, rfl⟩
  | atomic => exact .inr ⟨_, length_toBytes _ _, rfl⟩
  | cas =>
    dsimp only
    split
    · exact .inr ⟨_, length_toBytes _ _, rfl⟩
    · exact .inl rfl

theorem State.perform_sameBut (f : Access) : SameBut s (s.perform f).1 f.target f.size := by
  rcases s.perform_writes f with h | ⟨bs, hlen, h⟩ <;> rw [h]
  · exact fun _ _ => rfl
  · exact sameBut_writeTarget s f.target bs hlen

theorem State.perform_sameCores (f : Access) : s.SameCores (s.perform f).1 := by
  rcases s.perform_writes f with h | ⟨bs, -, h⟩ <;> rw [h]
  · exact .of_cores rfl
  · exact s.writeTarget_sameCores f.target bs

end

/-- The target of an access keeps what is written to it: DRAM, a host's memory, or the scratchpad of a core there is. -/
def State.Keeps (s : State) : Target → Prop
  | .dram _ => True
  | .host _ _ => True
  | .pad k _ => (s.core? k).isSome = true
  | .peer _ _ => False

theorem State.readTarget_writeTarget {s : State} {t : Target} (ht : s.Keeps t) (bs : List Byte) {n : Nat} (hn : bs.length = n) : (s.writeTarget t bs).readTarget t n = bs := by
  cases t with
  | dram a => exact s.readTarget_writeTarget_dram a bs hn
  | host p a => exact s.readTarget_writeTarget_host p a bs hn
  | pad k o => exact State.readTarget_writeTarget_pad ht o bs hn
  | peer p a => exact ht.elim

/-- What an access that is charged, and takes effect, leaves (R80, R104, R333). -/
structure State.Performed (s : State) (f : Access) (u : State) : Prop where
  cores : s.SameCores u
  sameBut : SameBut s u f.target f.size
  load : f.kind = .load → SameMemory s u
  store : f.kind = .store → s.Keeps f.target → u.readTarget f.target f.size = toBytes f.size f.data.toNat

theorem State.Performed.behind {s : State} {f : Access} {u v : State} (h : s.Performed f u) (hmem : SameMemory u v) (hcores : u.SameCores v) : s.Performed f v where
  cores := h.cores.trans hcores
  sameBut := sameBut_of_sameMemory h.sameBut (fun _ _ => rfl) hmem
  load hkind := fun t k => (hmem t k).trans (h.load hkind t k)
  store hkind hkeeps := (hmem _ _).trans (h.store hkind hkeeps)

section
variable (s : State) (n : Nat) (sh : Shard) (f : Access) (opened : Bool)

theorem State.takesEffect_performed : s.Performed f ((s.chargeAccess n f opened).takesEffect sh f).1 := by
  have hcharged := s.chargeAccess_onlyPorts n f opened
  have hcores : s.SameCores (s.chargeAccess n f opened) := .of_cores (by rw [hcharged.eq])
  generalize s.chargeAccess n f opened = t at hcharged hcores
  have hentered := t.enter_sameMemory (f.racer sh) f.target f.size f.writes f.isData f.isAtomic
  have hentered' := hcores.trans (t.enter_sameCores (f.racer sh) f.target f.size f.writes f.isData f.isAtomic)
  unfold State.takesEffect
  generalize t.enter (f.racer sh) f.target f.size f.writes f.isData f.isAtomic = v at hentered hentered'
  have hmem : SameMemory s v := fun x k => (hentered x k).trans (hcharged.sameMemory x k)
  refine ⟨hentered'.trans (v.perform_sameCores f), sameBut_of_sameMemory (v.perform_sameBut f) hmem fun _ _ => rfl, fun hkind => ?_, fun hkind hkeeps => ?_⟩
  · rw [v.perform_of_load hkind]
    exact hmem
  · rw [v.perform_of_store hkind]
    refine State.readTarget_writeTarget ?_ _ (length_toBytes _ _)
    cases ht : f.target with
    | dram a => trivial
    | host p a => trivial
    | peer p a => rw [ht] at hkeeps; exact hkeeps
    | pad k o =>
      rw [ht] at hkeeps
      obtain ⟨c, hc⟩ := Option.isSome_iff_exists.mp hkeeps
      obtain ⟨d, hd, -⟩ := hentered'.core? hc
      exact Option.isSome_iff_exists.mpr ⟨d, hd⟩

theorem State.performs_performed : s.Performed f ((s.chargeAccess n f opened).performs sh f).1 :=
  (s.takesEffect_performed n sh f opened).behind (State.closedBy_sameMemory _ f) (State.closedBy_sameCores _ f)

/-- A load or atomic returns the bytes it finds. -/
theorem State.performs_value {f : Access} (hkind : f.kind ≠ .store) :
    ((s.chargeAccess n f opened).performs sh f).2 = extend f.signed f.size (ofBytes (s.readTarget f.target f.size)) := by
  show (State.perform _ f).2 = _
  rw [State.perform_value _ hkind, State.enter_sameMemory, (s.chargeAccess_onlyPorts n f opened).sameMemory]

end

/-! ### The A-stream's flight (R199, R200, R207) -/

/-- A core as the work of the A-stream's flight may leave it: its register space, its queues, its tokens and its flight have changed. -/
def Core.Drained (c d : Core) : Prop :=
  d = { c with gran := d.gran, valid := d.valid, full := d.full, granPoison := d.granPoison, queues := d.queues, tokens := d.tokens, latches := d.latches, as := d.as }

namespace Core.Drained

theorem refl (c : Core) : c.Drained c := rfl

theorem trans {c d e : Core} (h : c.Drained d) (h' : d.Drained e) : c.Drained e := by
  rw [Core.Drained, h', h]

theorem pad {c d : Core} (h : c.Drained d) : d.pad = c.pad := by rw [h]
theorem dcache {c d : Core} (h : c.Drained d) : d.dcache = c.dcache := by rw [h]

end Core.Drained

theorem Core.push_drained {c d : Core} {hwm q : Nat} {bad : Word} {data : List (BitVec 512)} (h : c.push hwm q bad data = .ok d) : c.Drained d := by
  unfold Core.push at h
  dsimp only at h
  split_ifs at h
  cases h
  rw [Core.writeGranules_frame]
  rfl

theorem Core.place_drained {hwm q fuel : Nat} {bs : List Byte} : ∀ {c d : Core}, c.place hwm q fuel bs = .ok d → c.Drained d := by
  induction fuel generalizing bs with
  | zero => rintro c d h; cases h; exact .refl c
  | succ fuel ih =>
    intro c d h
    unfold Core.place at h
    dsimp only at h
    split at h
    · cases h; rfl
    · split at h
      next c' hpush => exact (Core.push_drained hpush).trans (.trans (d := c'.setBuf q [] 0) rfl (ih h))
      next x hx => exact absurd h (hx d)

theorem Core.flushQueue_drained {c d : Core} {hwm q : Nat} (h : c.flushQueue hwm q = .ok d) : c.Drained d := by
  unfold Core.flushQueue at h
  dsimp only at h
  split_ifs at h
  · cases h; exact .refl c
  · cases h; rfl
  · split at h
    next c' hpush => cases h; exact (Core.push_drained hpush).trans rfl
    next x hx => exact absurd h (hx d)

theorem Core.drainEntry_drained {c d : Core} {hwm : Nat} {f : Access} (h : c.drainEntry hwm f = .ok d) : c.Drained d := by
  unfold Core.drainEntry at h
  split at h
  · exact Core.flushQueue_drained h
  · split_ifs at h
    · cases h; rfl
    · exact Core.place_drained h

theorem Core.drainOne_drained {c d : Core} {hwm : Nat} {flight : List Access} : ∀ {before : List Access}, c.drainOne hwm before flight = some d → c.Drained d := by
  induction flight with
  | nil => intro before h; cases h
  | cons f rest ih =>
    intro before h
    unfold Core.drainOne at h
    dsimp only at h
    split at h
    · split at h
      next c' hentry => cases h; exact (Core.drainEntry_drained hentry).trans rfl
      next => exact ih h
    · exact ih h

theorem Core.drainAll_drained (hwm fuel : Nat) : ∀ c : Core, c.Drained (c.drainAll hwm fuel) := by
  induction fuel with
  | zero => exact fun c => .refl c
  | succ fuel ih =>
    intro c
    unfold Core.drainAll
    split
    next c' hone => exact (Core.drainOne_drained hone).trans (ih c')
    next => exact .refl c

/-- The A-stream's flight goes on: on its core, with scratchpad and data cache as they were. -/
theorem State.drainA_sets {s : State} {n : Nat} {c : Core} (hc : s.core? n = some c) : ∃ d, s.Sets (s.drainA n) n d ∧ d.pad = c.pad ∧ d.dcache = c.dcache := by
  unfold State.drainA
  rw [hc]
  dsimp only
  split
  next => exact ⟨c, .refl hc, rfl, rfl⟩
  next sh _ =>
    have hdrained := Core.drainAll_drained sh.hwm c.as.flight.length c
    have hset : s.Sets (s.setCore n (c.drainAll sh.hwm c.as.flight.length)) n (c.drainAll sh.hwm c.as.flight.length) :=
      ⟨rfl, s.core?_setCore n _, fun m hm => s.core?_setCore_ne _ hm⟩
    split
    · exact ⟨c, .refl hc, rfl, rfl⟩
    · split
      · exact ⟨_, hset.syncPoint, hdrained.pad, hdrained.dcache⟩
      · exact ⟨_, hset, hdrained.pad, hdrained.dcache⟩

theorem State.drainA_sameMemory (s : State) (n : Nat) : SameMemory s (s.drainA n) := by
  cases hc : s.core? n with
  | none =>
    unfold State.drainA
    rw [hc]
    exact fun _ _ => rfl
  | some c =>
    obtain ⟨d, hset, hpad, -⟩ := State.drainA_sets hc
    exact hset.sameMemory hc hpad

theorem State.arriveA_sameMemory (s : State) (n i : Nat) (f : Access) : SameMemory s (s.arriveA n i f) := by
  intro t k
  rw [State.arriveA, State.drainA_sameMemory]
  refine s.updCore_sameMemory n (fun _ => ?_) t k
  rfl

theorem State.arriveA_core? {s : State} {n : Nat} {c : Core} (hc : s.core? n = some c) (i : Nat) (f : Access) : ∃ d, (s.arriveA n i f).core? n = some d := by
  obtain ⟨d, hset, -⟩ := State.drainA_sets (s := s.updCore n fun c => { c with as := { c.as with flight := c.as.flight.set i f } }) (n := n) (by rw [State.core?_updCore, hc]; rfl)
  exact ⟨d, hset.core⟩

/-! ### The data cache behind a store (R79) -/

theorem Core.cacheStore_frame (c : Core) (t : Target) (bs : List Byte) : c.cacheStore t bs = { c with dcache := (c.cacheStore t bs).dcache } := by
  cases t <;> rfl

theorem State.afterStore_sameMemory (s : State) (n : Nat) (σ : Strm) (f : Access) : SameMemory s (s.afterStore n σ f) := by
  unfold State.afterStore
  split
  · exact fun t k => (State.drainA_sameMemory _ n t k).trans (s.updCore_sameMemory n (fun c => by rw [c.cacheDrop_eq]) t k)
  · exact s.updCore_sameMemory n fun c => by rw [c.cacheStore_frame]

/-- A store of the A-stream drops its line. -/
theorem State.core?_afterStore_a {s : State} {n : Nat} {c : Core} (hc : s.core? n = some c) (f : Access) :
    ∃ d, (s.afterStore n .a f).core? n = some d ∧ d.dcache = (c.cacheDrop f.target).dcache := by
  obtain ⟨d, hset, -, hdcache⟩ := State.drainA_sets (s := s.updCore n fun c => c.cacheDrop f.target) (n := n) (by rw [State.core?_updCore, hc]; rfl)
  exact ⟨d, hset.core, hdcache⟩

/-- One of the C-stream updates the line that is there. -/
theorem State.core?_afterStore_c {s : State} {n : Nat} {c : Core} (hc : s.core? n = some c) (f : Access) :
    (s.afterStore n .c f).core? n = some (c.cacheStore f.target (toBytes f.size f.data.toNat)) := by
  rw [State.afterStore, if_neg (by decide), State.core?_updCore, hc]
  rfl

end Sys2Proof.Machine
end

section
/-! LOAD_RETURN and STORE_ACK (R79, R80, R93, R95, R153, R400). -/

namespace Sys2Proof.Machine

open Sys2Proof.Claim

/-! ### A value reaches its register (R79, R90, R94) -/

/-- The core to which the value of a load, atomic or CAS has come. -/
def Core.received (c : Core) (order choice : Nat) (f : Access) (v : Word) (line : List Byte) : Core :=
  (if f.ord.getLsbD 0 ∧ f.scope ≠ 0 then { c with dcache := [], heard := order }
    else if f.isAtomic then c.cacheDrop f.target
    else if f.value = none then c.cacheFill f.target line choice else c).settleReg f.rd v

theorem State.returned_eq (s : State) (n : Nat) (f : Access) (v : Word) (line : List Byte) : s.returned n f v line = s.updCore n fun c => c.received s.order s.choice f v line := rfl

section
variable (c : Core) (order choice : Nat) (f : Access) (v : Word) (line : List Byte)

/-- Beside its register, the data cache alone has changed. -/
theorem Core.received_frame :
    c.received order choice f v line = { c with
      sregs := (c.settleReg f.rd v).sregs, pending := removeNat c.pending f.rd
      spec := (c.received order choice f v line).spec, dcache := (c.received order choice f v line).dcache, heard := (c.received order choice f v line).heard } := by
  unfold Core.received
  split
  · rfl
  · split
    · rw [Core.cacheDrop_eq]; rfl
    · split
      · rw [Core.cacheFill_eq]; rfl
      · rfl

theorem Core.received_dcache_of_acquire (hacq : f.ord.getLsbD 0 = true) (hscope : f.scope ≠ 0) : (c.received order choice f v line).dcache = [] := by
  unfold Core.received
  rw [if_pos ⟨hacq, hscope⟩]
  rfl

/-- A plain load of the device's memory leaves its line there. -/
theorem Core.received_dcache_of_load (hkind : f.kind = .load) (hord : f.ord = 0) (hvalue : f.value = none) {a : Nat} (ht : f.target = .dram a) :
    Map.look (c.received order choice f v line).dcache (a / 64) = some line := by
  unfold Core.received
  rw [if_neg fun h => absurd h.1 (by rw [hord]; decide), if_neg (by rw [Access.isAtomic, hkind]; decide), if_pos hvalue, ht]
  exact Map.look_put ..

end

/-- The value of an access of the C-stream that has performed reaches its register, and the access is no longer in flight. -/
structure Core.Returns (c d : Core) (i : Nat) (f : Access) (v : Word) (line : List Byte) : Prop where
  flight : d.cs.flight = c.cs.flight.eraseIdx i
  sregs : d.sregs = (c.settleReg f.rd v).sregs
  pending : d.pending = removeNat c.pending f.rd
  acquire : f.ord.getLsbD 0 = true → f.scope ≠ 0 → d.dcache = []
  fill : f.kind = .load → f.ord = 0 → f.value = none → ∀ a, f.target = .dram a → Map.look d.dcache (a / 64) = some line

/-- The core of a C-stream from whose flight an access is gone. -/
def Core.landed (c : Core) (i : Nat) : Core := c.updStrm .c fun t => { t with flight := t.flight.eraseIdx i }

theorem Core.returns_of_bare {c c' : Core} (h : c'.bare = c.bare) (order choice i : Nat) (f : Access) (v : Word) (line : List Byte) :
    c.Returns ((c'.landed i).received order choice f v line) i f v line := by
  have hframe := (c'.landed i).received_frame order choice f v line
  have hcs : c'.cs = c.cs := (congrArg Core.cs h :)
  have hsregs : c'.sregs = c.sregs := (congrArg Core.sregs h :)
  have hpending : c'.pending = c.pending := (congrArg Core.pending h :)
  refine ⟨?_, ?_, ?_, fun hacq hscope => Core.received_dcache_of_acquire _ _ _ _ _ _ hacq hscope,
    fun hkind hord hvalue a ht => Core.received_dcache_of_load _ _ _ _ _ _ hkind hord hvalue ht⟩
  · rw [hframe, ← hcs]
    rfl
  · rw [hframe]
    unfold Core.settleReg
    rw [← hsregs]
    rfl
  · rw [hframe, ← hpending]
    rfl

section
variable {s : State} {n : Nat} {c : Core} (hc : s.core? n = some c)
include hc

theorem State.returned_sets (i : Nat) (f : Access) (v : Word) (line : List Byte) :
    s.Sets ((s.land n .c i).returned n f v line) n ((c.landed i).received s.order s.choice f v line) :=
  ((State.Sets.refl hc).updCore fun c => c.landed i).updCore fun c => c.received s.order s.choice f v line

/-- An access that has performed returns its value. -/
theorem State.returned_spec {w : State} (hw : s.SameCores w) (i : Nat) (f : Access) (v : Word) (line : List Byte) :
    ∃ d, ((w.land n .c i).returned n f v line).core? n = some d ∧ c.Returns d i f v line ∧ SameMemory w ((w.land n .c i).returned n f v line) := by
  obtain ⟨c', hc', hbare⟩ := hw.core? hc
  have hset := State.returned_sets hc' i f v line
  exact ⟨_, hset.core, Core.returns_of_bare hbare w.order w.choice i f v line, hset.sameMemory hc' (by rw [Core.received_frame]; rfl)⟩

end

/-! ### A store has performed (R79) -/

theorem Core.cacheDrop_congr {c d : Core} (h : c.dcache = d.dcache) (t : Target) : (c.cacheDrop t).dcache = (d.cacheDrop t).dcache := by
  cases t with
  | dram a => exact congrArg (Map.del · (a / 64)) h
  | pad k o => exact h
  | host p a => exact h
  | peer p a => exact h

theorem Core.cacheStore_congr {c d : Core} (h : c.dcache = d.dcache) (t : Target) (bs : List Byte) : (c.cacheStore t bs).dcache = (d.cacheStore t bs).dcache := by
  cases t with
  | dram a => exact congrArg (Map.upd · (a / 64) fun l => patch l (a % 64) bs) h
  | pad k o => exact h
  | host p a => exact h
  | peer p a => exact h

theorem State.landed_afterStore_sameMemory (w : State) (n : Nat) (σ : Strm) (i : Nat) (f : Access) : SameMemory w ((w.land n σ i).afterStore n σ f) := by
  intro t k
  rw [State.afterStore_sameMemory]
  refine w.updCore_sameMemory n (fun c => ?_) t k
  cases σ <;> rfl

/-- A store that has performed is no longer in flight, and the data cache follows it. -/
theorem State.core?_landed_afterStore {w : State} {n : Nat} {σ : Strm} {c c' : Core} (hc' : w.core? n = some c') (hbare : c'.bare = c.bare) (hv : σ ≠ .v) (i : Nat) (f : Access) :
    ∃ d, ((w.land n σ i).afterStore n σ f).core? n = some d ∧ (σ = .a → d.dcache = (c.cacheDrop f.target).dcache)
      ∧ (σ = .c → d.cs.flight = c.cs.flight.eraseIdx i ∧ d.sregs = c.sregs ∧ d.dcache = (c.cacheStore f.target (toBytes f.size f.data.toNat)).dcache) := by
  have hland : (w.land n σ i).core? n = some (c'.updStrm σ fun t => { t with flight := t.flight.eraseIdx i }) := by rw [State.land, State.core?_updCore, hc']; rfl
  have hdcache : c'.dcache = c.dcache := (congrArg Core.dcache hbare :)
  have hcs : c'.cs = c.cs := (congrArg Core.cs hbare :)
  have hsregs : c'.sregs = c.sregs := (congrArg Core.sregs hbare :)
  cases σ with
  | v => exact absurd rfl hv
  | a =>
    obtain ⟨d, hd, hdrop⟩ := State.core?_afterStore_a hland f
    exact ⟨d, hd, fun _ => hdrop.trans (Core.cacheDrop_congr (by exact hdcache) f.target), fun h => Strm.noConfusion h⟩
  | c =>
    refine ⟨_, State.core?_afterStore_c hland f, fun h => Strm.noConfusion h, fun _ => ⟨?_, ?_, Core.cacheStore_congr (by exact hdcache) f.target _⟩⟩
    · rw [Core.cacheStore_frame, ← hcs]
      rfl
    · rw [Core.cacheStore_frame, ← hsregs]
      rfl

/-! ### LOAD_RETURN -/

theorem State.value_of_arrives {s : State} {n i : Nat} {σ : Strm} {f : Access} (h : s.arrives n σ i f = true) : f.value = none := by
  simp only [State.arrives, Access.underway, Bool.and_eq_true, Option.isNone_iff_eq_none] at h
  exact h.1.1.1.1.1

section
variable {s : State} {c : Core} {sh : Shard} {f : Access} (hc : s.core? s.args.core = some c) (hsh : c.shard = some sh)
  (hf : (c.strm s.args.strm).flight[s.args.idx]? = some f) (hin : f.target.outside = false)
include hc hsh hf hin

section
variable (hkind : f.kind ≠ .store) (hheld : f.held = false)
include hkind hheld

/-- A value that is on its way to its register arrives. -/
theorem exec_loadReturn_of_value {v : Word} (hσ : s.args.strm = .c) (hvalue : f.value = some v) :
    exec .loadReturn s = .next ((s.land s.args.core .c s.args.idx).returned s.args.core f v []) := by
  rw [exec_loadReturn, execLoadReturn, onShard_eq hc hsh]
  dsimp only
  rw [hf]
  dsimp only
  rw [if_neg (by rw [hin, hheld]; simpa using hkind), hvalue, hσ]
  rfl

variable (harrives : s.arrives s.args.core s.args.strm s.args.idx f = true) (hfault : s.heldFault sh f = none)
include harrives hfault

/-- An access that may arrive, and meets no exception, goes on with the bytes it finds. -/
theorem exec_loadReturn_arrives :
    exec .loadReturn s = if s.poisoned f.target f.size then .next (s.stopPoisoned s.args.core sh s.args.strm f.va f.pc (f.target.pad?.isNone))
      else if s.args.strm = .a then .next (((s.chargeAccess s.args.core f s.args.flag).performs sh f).1.arriveA s.args.core s.args.idx
          { f with value := some 0, data := BitVec.ofNat 512 (ofBytes (s.readTarget f.target f.size)) })
      else .next ((((s.chargeAccess s.args.core f s.args.flag).performs sh f).1.land s.args.core s.args.strm s.args.idx).returned s.args.core f
          ((s.chargeAccess s.args.core f s.args.flag).performs sh f).2 (s.readTarget f.target.line 64)) := by
  rw [exec_loadReturn, execLoadReturn, onShard_eq hc hsh]
  dsimp only
  rw [hf]
  dsimp only
  rw [if_neg (by rw [hin, hheld]; simpa using hkind), State.value_of_arrives harrives]
  dsimp only
  rw [if_neg (by rw [harrives, hfault]; decide)]

/-- A load or atomic of the C-stream performs, and its value reaches its register. -/
theorem exec_loadReturn_performs (hσ : s.args.strm = .c) (hclean : s.poisoned f.target f.size = false) :
    ∃ u d, exec .loadReturn s = .next u ∧ u.core? s.args.core = some d
      ∧ c.Returns d s.args.idx f (extend f.signed f.size (ofBytes (s.readTarget f.target f.size))) (s.readTarget f.target.line 64)
      ∧ SameBut s u f.target f.size ∧ (f.kind = .load → SameMemory s u) := by
  have hperformed := s.performs_performed s.args.core sh f s.args.flag
  obtain ⟨d, hd, hreturns, hmem⟩ := State.returned_spec hc hperformed.cores s.args.idx f
    ((s.chargeAccess s.args.core f s.args.flag).performs sh f).2 (s.readTarget f.target.line 64)
  rw [s.performs_value s.args.core sh s.args.flag hkind] at hreturns
  refine ⟨_, d, ?_, hd, hreturns, sameBut_of_sameMemory hperformed.sameBut (fun _ _ => rfl) hmem, fun hload t k => (hmem t k).trans (hperformed.load hload t k)⟩
  rw [exec_loadReturn_arrives hc hsh hf hin hkind hheld harrives hfault, if_neg (by rw [hclean]; decide), if_neg (by rw [hσ]; decide), hσ]

/-- A load of the A-stream performs, and its bytes come to its beat. -/
theorem exec_loadReturn_beat (hσ : s.args.strm = .a) (hload : f.kind = .load) (hclean : s.poisoned f.target f.size = false) :
    ∃ u, exec .loadReturn s = .next u ∧ SameMemory s u := by
  refine ⟨_, ?_, fun t k => (State.arriveA_sameMemory _ s.args.core s.args.idx { f with value := some 0, data := BitVec.ofNat 512 (ofBytes (s.readTarget f.target f.size)) } t k).trans
    ((s.performs_performed s.args.core sh f s.args.flag).load hload t k)⟩
  rw [exec_loadReturn_arrives hc hsh hf hin hkind hheld harrives hfault, if_neg (by rw [hclean]; decide), if_pos hσ]

end

/-! ### STORE_ACK -/

section
variable (hkind : f.kind = .store) (hv : s.args.strm ≠ .v) (harrives : s.arrives s.args.core s.args.strm s.args.idx f = true) (hfault : s.heldFault sh f = none)
include hkind hv harrives hfault

theorem exec_storeAck_arrives :
    exec .storeAck s = if s.storeFails f.target then .next (((s.poisonTarget f.target).land s.args.core s.args.strm s.args.idx).stopPoisoned s.args.core sh s.args.strm f.va f.pc true)
      else .next ((((s.chargeAccess s.args.core f (s.args.b == 1)).performs sh f).1.land s.args.core s.args.strm s.args.idx).afterStore s.args.core s.args.strm f) := by
  rw [exec_storeAck, execStoreAck, if_neg hv, onShard_eq hc hsh]
  dsimp only
  rw [hf]
  dsimp only
  rw [if_neg (by rw [hkind, hin, harrives, hfault]; decide)]

/-- A store that does not fail performs: its bytes are in memory, and its data cache follows. -/
theorem exec_storeAck_performs (hgood : s.storeFails f.target = false) (hpad : ∀ k o, f.target = .pad k o → (s.core? k).isSome = true) :
    ∃ u d, exec .storeAck s = .next u ∧ u.core? s.args.core = some d ∧ u.readTarget f.target f.size = toBytes f.size f.data.toNat ∧ SameBut s u f.target f.size
      ∧ (s.args.strm = .a → d.dcache = (c.cacheDrop f.target).dcache)
      ∧ (s.args.strm = .c → d.cs.flight = c.cs.flight.eraseIdx s.args.idx ∧ d.sregs = c.sregs ∧ d.dcache = (c.cacheStore f.target (toBytes f.size f.data.toNat)).dcache) := by
  have hperformed := s.performs_performed s.args.core sh f (s.args.b == 1)
  have hexec := exec_storeAck_arrives hc hsh hf hin hkind hv harrives hfault
  rw [if_neg (by rw [hgood]; decide)] at hexec
  generalize ((s.chargeAccess s.args.core f (s.args.b == 1)).performs sh f).1 = w at hperformed hexec
  obtain ⟨c', hc', hbare⟩ := hperformed.cores.core? hc
  obtain ⟨d, hd, hdrops, hlands⟩ := State.core?_landed_afterStore hc' hbare hv s.args.idx f
  have hmem := w.landed_afterStore_sameMemory s.args.core s.args.strm s.args.idx f
  have hkeeps : s.Keeps f.target := by
    cases ht : f.target with
    | dram a => trivial
    | pad k o => exact hpad k o ht
    | host p a => rw [ht] at hin; exact Bool.noConfusion hin
    | peer p a => rw [ht] at hin; exact Bool.noConfusion hin
  exact ⟨_, d, hexec, hd, (hmem _ _).trans (hperformed.store hkind hkeeps), sameBut_of_sameMemory hperformed.sameBut (fun _ _ => rfl) hmem, hdrops, hlands⟩

end

end

/-- LOAD_RETURN and STORE_ACK, by whether the access has its value, may arrive, and finds clean data. -/
theorem accessesPerform : AccessesPerform := by
  intro s c sh f n hc hsh hf hin hheld
  refine ⟨fun hσ hkind v hvalue => ?_, fun harrives hfault => ⟨fun hσ hkind => ⟨fun hclean => ?_, fun hpoison => ?_⟩, fun hσ hload hclean => ?_, fun hkind hv => ⟨fun hgood hpad => ?_, fun hfails => ?_⟩⟩⟩
  · have hset := State.returned_sets hc s.args.idx f v []
    have hreturns := Core.returns_of_bare (c := c) rfl s.order s.choice s.args.idx f v []
    exact ⟨_, exec_loadReturn_of_value hc hsh hf hin hkind hheld hσ hvalue, hset.quiet, hset.sameMemory hc (by rw [Core.received_frame]; rfl), _, hset.touches,
      hreturns.flight, hreturns.sregs, hreturns.pending, hreturns.acquire⟩
  · obtain ⟨u, d, hexec, hd, hreturns, hbut, hmem⟩ := exec_loadReturn_performs hc hsh hf hin hkind hheld harrives hfault hσ hclean
    exact ⟨u, d, hexec, hd, hreturns.flight, hreturns.sregs, hreturns.pending, hbut, hmem,
      fun hload hord a ht => by rw [hreturns.fill hload hord (State.value_of_arrives harrives) a ht]; exact Option.some_ne_none _, hreturns.acquire⟩
  · rw [exec_loadReturn_arrives hc hsh hf hin hkind hheld harrives hfault, if_pos hpoison, hσ]
  · exact exec_loadReturn_beat hc hsh hf hin (by rw [hload]; decide) hheld harrives hfault hσ hload hclean
  · exact exec_storeAck_performs hc hsh hf hin hkind hv harrives hfault hgood hpad
  · rw [exec_storeAck_arrives hc hsh hf hin hkind hv harrives hfault, if_pos hfails]

end Sys2Proof.Machine
end

section
/-! POSTED_WRITE_LEFT_PORT and HOST_COMPLETION (R16, R85, R95, R101, R105, R338, R412, R413). -/

namespace Sys2Proof.Machine

open Sys2Proof.Claim

/-- A request to a host port fails: with the error flag, or with the port or the die's hub link down (R16, R412, R413). -/
def State.hostFails (s : State) (n p : Nat) : Bool := s.args.flag || (Map.look s.hostDown p).isSome || !s.hubOk (dieOf n)

theorem State.hostFails_iff (s : State) (n p : Nat) : s.hostFails n p = true ↔ s.args.flag = true ∨ Map.look s.hostDown p ≠ none ∨ ¬ s.hubOk (dieOf n) = true := by
  simp only [State.hostFails, Bool.or_eq_true, Bool.not_eq_true', Bool.not_eq_true, ← Option.ne_none_iff_isSome, or_assoc]

/-- An access of a stream of a core stands in its flight as given. -/
def Core.setFlight (c : Core) (σ : Strm) (i : Nat) (f : Access) : Core := c.updStrm σ fun t => { t with flight := t.flight.set i f }

section
variable {s : State} {c : Core} {sh : Shard} {f : Access} {p a : Nat} (hc : s.core? s.args.core = some c) (hsh : c.shard = some sh)
  (hf : (c.strm s.args.strm).flight[s.args.idx]? = some f) (ht : f.target = .host p a) (hv : s.args.strm ≠ .v)
include hc hsh hf ht hv

/-! ### A store leaves the port (R85, R95, R413) -/

/-- The state in which a store has left a port: the host's memory has its bytes, unless the port's link is down. -/
def State.portPassed (s : State) (sh : Shard) (f : Access) (p : Nat) : State :=
  if (Map.look s.hostDown p).isNone then ((s.chargeAccess s.args.core f false).takesEffect sh f).1 else s

theorem exec_postedWriteLeftPort_eq (hkind : f.kind = .store) (hpath : f.path ≠ 6) (hup : s.hubOk (dieOf s.args.core) = true) (holdest : s.leavesLater s.args.core p f = false) :
    exec .postedWriteLeftPort s = .next (((s.portPassed sh f p).updCore s.args.core fun c => c.setFlight s.args.strm s.args.idx { f with path := 6 }).afterStore s.args.core s.args.strm f) := by
  have hgo : ¬ (f.kind ≠ .store ∨ f.path = 6 ∨ ¬ s.hubOk (dieOf s.args.core) = true ∨ s.leavesLater s.args.core p f = true) := by
    rw [hkind, hup, holdest]
    simpa using hpath
  rw [exec_postedWriteLeftPort, execPostedWriteLeftPort, if_neg hv, onShard_eq hc hsh]
  dsimp only
  rw [hf]
  dsimp only
  rw [ht]
  dsimp only
  rw [if_neg hgo]
  rfl

/-- The oldest store to a port leaves it. -/
theorem exec_postedWriteLeftPort_spec (hkind : f.kind = .store) (hpath : f.path ≠ 6) (hup : s.hubOk (dieOf s.args.core) = true) (holdest : s.leavesLater s.args.core p f = false) :
    ∃ u, exec .postedWriteLeftPort s = .next u ∧ SameBut s u (.host p a) f.size
      ∧ (Map.look s.hostDown p = none → u.readTarget (.host p a) f.size = toBytes f.size f.data.toNat)
      ∧ (Map.look s.hostDown p ≠ none → SameMemory s u)
      ∧ (s.args.strm = .c → ∃ d, u.core? s.args.core = some d ∧ d.cs.flight = c.cs.flight.set s.args.idx { f with path := 6 }) := by
  have hexec := exec_postedWriteLeftPort_eq hc hsh hf ht hv hkind hpath hup holdest
  have hmem : SameMemory (s.portPassed sh f p) (((s.portPassed sh f p).updCore s.args.core fun c => c.setFlight s.args.strm s.args.idx { f with path := 6 }).afterStore s.args.core s.args.strm f) := by
    intro t k
    rw [State.afterStore_sameMemory]
    exact State.updCore_sameMemory (g := fun c => c.setFlight s.args.strm s.args.idx { f with path := 6 }) _ _ (fun c => by cases s.args.strm <;> rfl) t k
  have hcores : s.SameCores (s.portPassed sh f p) := by
    unfold State.portPassed
    split
    · exact (s.takesEffect_performed s.args.core sh f false).cores
    · exact .of_cores rfl
  obtain ⟨c', hc', hbare⟩ := hcores.core? hc
  have hcs : c'.cs = c.cs := (congrArg Core.cs hbare :)
  have hflight : s.args.strm = .c → ∃ d, (((s.portPassed sh f p).updCore s.args.core fun c => c.setFlight s.args.strm s.args.idx { f with path := 6 }).afterStore s.args.core s.args.strm f).core? s.args.core = some d
      ∧ d.cs.flight = c.cs.flight.set s.args.idx { f with path := 6 } := by
    intro hσ
    rw [hσ]
    refine ⟨_, State.core?_afterStore_c (c := c'.setFlight .c s.args.idx { f with path := 6 }) (by rw [State.core?_updCore, hc']; rfl) f, ?_⟩
    rw [Core.cacheStore_frame, ← hcs]
    rfl
  by_cases hdown : Map.look s.hostDown p = none
  · have hperformed : s.Performed f (s.portPassed sh f p) := by
      rw [State.portPassed, if_pos (by rw [hdown]; rfl)]
      exact s.takesEffect_performed s.args.core sh f false
    have hbut := hperformed.sameBut
    have hstored := hperformed.store hkind (by rw [ht]; trivial)
    rw [ht] at hbut hstored
    exact ⟨_, hexec, sameBut_of_sameMemory hbut (fun _ _ => rfl) hmem, fun _ => (hmem _ _).trans hstored, fun h => absurd hdown h, hflight⟩
  · have hsame : s.portPassed sh f p = s := if_neg fun h => hdown (Option.isNone_iff_eq_none.mp h)
    rw [hsame] at hmem
    exact ⟨_, hexec, SameMemory.sameBut (by rw [hsame]; exact hmem) _ _, fun h => absurd h hdown, fun _ => by rw [hsame]; exact hmem, hflight⟩

/-! ### A completion (R85, R101, R338, R412) -/

variable (htag : s.hasTag p f = true)
include htag

/-- The completion behind a store that has left is that of its flushing read. -/
theorem exec_hostCompletion_store (hkind : f.kind = .store) (hpath : f.path = 6) :
    exec .hostCompletion s = if s.hostFails s.args.core p then
        .next ((s.setCore s.args.core (c.setFlight s.args.strm s.args.idx { f with failed := true })).closedBy f)
      else .next ((s.setCore s.args.core (c.updStrm s.args.strm fun t => { t with flight := t.flight.eraseIdx s.args.idx })).closedBy f) := by
  rw [exec_hostCompletion, execHostCompletion, if_neg hv, onShard_eq hc hsh]
  dsimp only
  rw [hf]
  dsimp only
  rw [ht]
  dsimp only
  rw [if_neg (by rw [htag]; decide), if_pos hkind, if_neg (not_not.mpr hpath), State.land, State.updCore_of_core? hc, State.updCore_of_core? hc]
  rfl

variable (hkind : f.kind ≠ .store) (hvalue : f.value = none) (hfailed : f.failed = false) (hheld : f.held = false)
  (horder : inOrder s.args.strm (c.strm s.args.strm).flight s.args.idx f = true)
include hkind hvalue hfailed hheld horder

/-- The completion of a load or atomic that waits for it. -/
theorem exec_hostCompletion_request :
    exec .hostCompletion s = if s.args.code = 1 then .next (s.stopPoisoned s.args.core sh s.args.strm f.va f.pc true)
      else if s.hostFails s.args.core p then .next (s.setCore s.args.core (c.setFlight s.args.strm s.args.idx { f with failed := true }))
      else if s.args.strm = .a then .next (((s.chargeAccess s.args.core f false).performs sh f).1.arriveA s.args.core s.args.idx
          { f with value := some 0, data := BitVec.ofNat 512 (ofBytes (s.readTarget f.target f.size)) })
      else .next ((((s.chargeAccess s.args.core f false).performs sh f).1.land s.args.core s.args.strm s.args.idx).returned s.args.core f
          ((s.chargeAccess s.args.core f false).performs sh f).2 []) := by
  have hwaits : ¬ (f.value.isSome = true ∨ f.failed = true ∨ f.held = true ∨ ¬ inOrder s.args.strm (c.strm s.args.strm).flight s.args.idx f = true) := by
    rw [hvalue, hfailed, hheld, horder]
    decide
  rw [exec_hostCompletion, execHostCompletion, if_neg hv, onShard_eq hc hsh]
  dsimp only
  rw [hf]
  dsimp only
  rw [ht]
  dsimp only
  rw [if_neg (by rw [htag]; decide), if_neg hkind, if_neg hwaits, State.updCore_of_core? hc]
  rfl

/-- A load or atomic that its host answers performs there, and its value reaches its beat or its register. -/
theorem exec_hostCompletion_performs (hclean : s.args.code ≠ 1) (hgood : s.hostFails s.args.core p = false) :
    ∃ u d, exec .hostCompletion s = .next u ∧ u.core? s.args.core = some d ∧ SameBut s u (.host p a) f.size ∧ (f.kind = .load → SameMemory s u)
      ∧ (s.args.strm = .c → d.cs.flight = c.cs.flight.eraseIdx s.args.idx ∧ d.pending = removeNat c.pending f.rd
          ∧ d.sregs = (c.settleReg f.rd (extend f.signed f.size (ofBytes (s.readTarget (.host p a) f.size)))).sregs) := by
  have hexec := exec_hostCompletion_request hc hsh hf ht hv htag hkind hvalue hfailed hheld horder
  rw [if_neg hclean, if_neg (by rw [hgood]; decide)] at hexec
  have hperformed := s.performs_performed s.args.core sh f false
  have hbut := hperformed.sameBut
  have hloaded := s.performs_value s.args.core sh false hkind
  rw [ht] at hbut hloaded
  by_cases hσ : s.args.strm = .a
  · obtain ⟨c', hc', -⟩ := hperformed.cores.core? hc
    obtain ⟨d, hd⟩ := State.arriveA_core? hc' s.args.idx { f with value := some 0, data := BitVec.ofNat 512 (ofBytes (s.readTarget f.target f.size)) }
    have hmem := State.arriveA_sameMemory ((s.chargeAccess s.args.core f false).performs sh f).1 s.args.core s.args.idx
      { f with value := some 0, data := BitVec.ofNat 512 (ofBytes (s.readTarget f.target f.size)) }
    exact ⟨_, d, hexec.trans (if_pos hσ), hd, sameBut_of_sameMemory hbut (fun _ _ => rfl) hmem, fun hload t k => (hmem t k).trans (hperformed.load hload t k),
      fun h => by rw [hσ] at h; exact Strm.noConfusion h⟩
  · have hcs : s.args.strm = .c := by
      cases h : s.args.strm with
      | c => rfl
      | a => exact absurd h hσ
      | v => exact absurd h hv
    obtain ⟨d, hd, hreturns, hmem⟩ := State.returned_spec hc hperformed.cores s.args.idx f ((s.chargeAccess s.args.core f false).performs sh f).2 []
    rw [if_neg hσ, hcs] at hexec
    rw [hloaded] at hreturns
    exact ⟨_, d, hexec, hd, sameBut_of_sameMemory hbut (fun _ _ => rfl) hmem, fun hload t k => (hmem t k).trans (hperformed.load hload t k),
      fun _ => ⟨hreturns.flight, hreturns.pending, hreturns.sregs⟩⟩

end

/-- POSTED_WRITE_LEFT_PORT by the link of its port, HOST_COMPLETION by the kind of its access and by whether it fails. -/
theorem hostWindowSteps : HostWindowSteps := by
  intro s c sh f p a n σ i up fails waits hc hsh hf ht hv
  have hfails : fails ↔ s.hostFails s.args.core p = true := (s.hostFails_iff s.args.core p).symm
  refine ⟨exec_postedWriteLeftPort_spec hc hsh hf ht hv, fun htag => ⟨fun hkind hpath hgood => ?_, fun hkind hpath hbad => ?_, fun hwaits hclean hbad => ?_, fun hwaits hpoison => ?_, fun hwaits hclean hgood => ?_⟩⟩
  · rw [exec_hostCompletion_store hc hsh hf ht hv htag hkind hpath, if_neg fun h => hgood (hfails.mpr h)]
  · rw [exec_hostCompletion_store hc hsh hf ht hv htag hkind hpath, if_pos (hfails.mp hbad)]
    rfl
  all_goals obtain ⟨hkind, hvalue, hfailed, hheld, horder⟩ := hwaits
  · rw [exec_hostCompletion_request hc hsh hf ht hv htag hkind hvalue hfailed hheld horder, if_neg hclean, if_pos (hfails.mp hbad)]
    rfl
  · rw [exec_hostCompletion_request hc hsh hf ht hv htag hkind hvalue hfailed hheld horder, if_pos hpoison]
  · exact exec_hostCompletion_performs hc hsh hf ht hv htag hkind hvalue hfailed hheld horder hclean (Bool.eq_false_iff.mpr fun h => hgood (hfails.mpr h))

/-- Settles O40: the accesses that end in the device, and those that end at a host. -/
theorem accessesEnd : Obligations.AccessesEnd := ⟨accessesPerform, hostWindowSteps⟩

end Sys2Proof.Machine
end

section
/-! X_COMMAND_COMPLETE: the end of a command with a register destination, and the effects of seals, TLOAD and TSTORE (R74, R260, R268, R269, R271). -/

namespace Sys2Proof.Machine

open Sys2Proof.Claim

/-! ### Bytes that are freed behind a command (R284, R325) -/

/-- Every version is still there, but for whether its bytes wait to be freed. -/
def State.KeepsVersions (s u : State) : Prop := ∀ key v, Map.look s.versions key = some v → ∃ later, Map.look u.versions key = some { v with freeLater := later }

namespace State.KeepsVersions

theorem of_versions {s u : State} (h : u.versions = s.versions) : s.KeepsVersions u := fun _ v hv => ⟨v.freeLater, by rw [h, hv]⟩

theorem refl (s : State) : s.KeepsVersions s := of_versions rfl

theorem trans {s t u : State} (h : s.KeepsVersions t) (h' : t.KeepsVersions u) : s.KeepsVersions u := by
  intro key v hv
  obtain ⟨b, hb⟩ := h key v hv
  obtain ⟨b', hb'⟩ := h' key _ hb
  exact ⟨b', hb'⟩

theorem foldl {α : Type} {f : State → α → State} (hf : ∀ (s : State) a, s.KeepsVersions (f s a)) (l : List α) (s : State) : s.KeepsVersions (l.foldl f s) := by
  induction l generalizing s with
  | nil => exact refl s
  | cons a l ih => exact (hf s a).trans (ih _)

end State.KeepsVersions

theorem State.updVersion_freeLater_keepsVersions (s : State) (key : Nat) (b : Bool) : s.KeepsVersions (s.updVersion key fun v => { v with freeLater := b }) := by
  intro k v hv
  by_cases hk : k = key
  · subst hk
    exact ⟨b, by rw [State.updVersion, Map.look_upd, hv]; rfl⟩
  · exact ⟨v.freeLater, by rw [State.updVersion, Map.look_upd_ne _ _ hk, hv]⟩

theorem State.freeBytes_keepsVersions (s : State) (key d k : Nat) : s.KeepsVersions (s.freeBytes key d k) := by
  unfold State.freeBytes
  split
  · exact s.updVersion_freeLater_keepsVersions key true
  · refine (s.updVersion_freeLater_keepsVersions key false).trans (.of_versions ?_)
    rw [State.updRecord, (State.chargeRecord_onlyPorts _ d k).eq]

theorem State.freeWaiting_keepsVersions (s : State) : s.KeepsVersions s.freeWaiting := by
  refine .foldl (fun s e => ?_) _ s
  split
  · split
    · exact s.freeBytes_keepsVersions _ _ _
    · exact .refl s
  · exact .refl s

/-! ### The end of a command (R260) -/

/-- A core with the commands, the registers and the C-stream of another. -/
structure Core.SameCommands (c d : Core) : Prop where
  xqueue : d.xqueue = c.xqueue
  sregs : d.sregs = c.sregs
  pending : d.pending = c.pending
  cs : d.cs = c.cs

theorem Core.SameCommands.refl (c : Core) : c.SameCommands c := ⟨rfl, rfl, rfl, rfl⟩

theorem Core.SameCommands.of_bare {c d : Core} (h : d.bare = c.bare) : c.SameCommands d :=
  ⟨(congrArg Core.xqueue h :), (congrArg Core.sregs h :), (congrArg Core.pending h :), (congrArg Core.cs h :)⟩

/-- A command is gone from its core's queue, and its register holds the completion value. -/
def Core.CommandEnds (c : Core) (u : State) (n idx : Nat) (x : XCmd) (written status : Nat) : Prop :=
  ∃ d, u.core? n = some d ∧ d.xqueue = c.xqueue.eraseIdx idx
    ∧ d.sregs = (c.settleReg x.rd (BitVec.ofNat 64 (2 ^ 63 + written * 2 ^ 8 + status))).sregs ∧ d.pending = removeNat c.pending x.rd ∧ d.cs = c.cs

/-- The core as a command with a register destination ends. -/
def XCmd.settles (x : XCmd) (sh : Shard) (written : Nat) (status : BitVec 8) (c : Core) : Core :=
  let c := { c.settleReg x.rd (completionValue written status) with fresh := if x.rd = 0 then c.fresh else Map.put c.fresh x.rd sh.release }
  if x.op = opCopy then { c with latches := setBit c.latches 2 true } else c

/-- Beside its registers, a core keeps all that a command's end does not name. -/
theorem XCmd.settles_frame (x : XCmd) (sh : Shard) (written : Nat) (status : BitVec 8) (c : Core) :
    x.settles sh written status c = { c.settleReg x.rd (completionValue written status) with
      fresh := (x.settles sh written status c).fresh, latches := (x.settles sh written status c).latches } := by
  unfold XCmd.settles
  dsimp only
  split <;> rfl

/-- A command with a register destination, and none of its units at a token barrier: its end is its register and its place in the queue. -/
theorem State.completeX_eq {x : XCmd} (hcm : x.cm = 1) (s : State) (n : Nat) (sh : Shard) (idx written units : Nat) (status : BitVec 8) :
    s.completeX n sh idx x written units status
      = ((s.updCore n fun c => { c with xqueue := c.xqueue.eraseIdx idx }).updCore n (x.settles sh written status)).freeWaiting := by
  have hreg : x.cm.getLsbD 0 = true := by rw [hcm]; rfl
  have hunits : x.cm.getLsbD 1 = false := by rw [hcm]; rfl
  simp only [State.completeX, State.subtractX, hreg, hunits, Bool.false_eq_true, false_and, if_false, if_true]
  rfl

/-- What the end of a command with a register destination leaves of the state it finds. -/
structure State.Ended (w u : State) (n : Nat) (sh : Shard) (idx : Nat) (x : XCmd) (written : Nat) (status : BitVec 8) : Prop where
  core : ∀ c c' : Core, w.core? n = some c' → c.SameCommands c' → c.CommandEnds u n idx x written status.toNat
  sameMemory : SameMemory w u
  sealed_ : u.sealed_ = w.sealed_
  versions : w.KeepsVersions u

section
variable {x : XCmd} (hcm : x.cm = 1) (w : State) (n : Nat) (sh : Shard) (idx written : Nat) (status : BitVec 8)
include hcm

theorem State.completeX_ended (units : Nat) : w.Ended (w.completeX n sh idx x written units status) n sh idx x written status := by
  rw [State.completeX_eq hcm]
  refine ⟨fun c c' hc' hsame => ?_, fun t k => ?_, by rw [(State.freeWaiting_onlyHolds _).eq]; rfl, fun key v hv => State.freeWaiting_keepsVersions _ key v hv⟩
  · have hset := ((State.Sets.refl hc').updCore fun c => { c with xqueue := c.xqueue.eraseIdx idx }).updCore (x.settles sh written status)
    obtain ⟨hs, hd⟩ := (State.freeWaiting_onlyHolds _).core? hset.core
    refine ⟨_, hd, ?_, ?_, ?_, ?_⟩ <;> rw [XCmd.settles_frame]
    · exact congrArg (List.eraseIdx · idx) hsame.xqueue
    · unfold Core.settleReg
      rw [← hsame.sregs]
      rfl
    · exact congrArg (removeNat · x.rd) hsame.pending
    · exact hsame.cs
  · rw [(State.freeWaiting_onlyHolds _).sameMemory, State.updCore_sameMemory _ n fun c => by rw [XCmd.settles_frame]; rfl]
    refine w.updCore_sameMemory n (fun _ => ?_) t k
    rfl

theorem State.endX_ended : w.Ended (w.endX n sh idx x written status) n sh idx x written status := by
  unfold State.endX
  split
  · exact w.completeX_ended hcm n sh idx written status _
  · obtain ⟨hcore, hmem, hsealed, hversions⟩ := State.completeX_ended hcm { w with free := w.free + 1 } n sh idx written status ((Config.freeWord w.free).toNat % 2 ^ 32)
    exact ⟨hcore, fun t k => (hmem t k).trans (sameMemory_of_eq rfl rfl rfl rfl t k), hsealed, hversions⟩

/-- A command that ends at once: its register is written, and memory is as before. -/
theorem State.endX_spec {c : Core} (hc : w.core? n = some c) :
    c.CommandEnds (w.endX n sh idx x written status) n idx x written status.toNat ∧ SameMemory w (w.endX n sh idx x written status) :=
  have hended := w.endX_ended hcm n sh idx written status
  ⟨hended.core c c hc (.refl c), hended.sameMemory⟩

end

/-! ### X_COMMAND_COMPLETE, by command -/

section
variable {s : State} {c : Core} {sh : Shard} {x : XCmd} (hc : s.core? s.args.core = some c) (hsh : c.shard = some sh) (hx : c.xqueue[s.args.idx]? = some x)
  (hstarted : x.started = true) (hretry : s.retrying s.args.core 1 = false) (hbehind : s.behind s.args.core sh c.xqueue s.args.idx x = false)
include hc hsh hx hstarted hretry hbehind

/-- The command that completes has started, and nothing is before it (R96). -/
theorem exec_xCommandComplete_copy (hop : x.op = opCopy) : exec .xCommandComplete s = copyComplete s s.args.core sh s.args.idx x := by
  simp [execXCommandComplete, onShard_eq hc hsh, hx, hstarted, hretry, hbehind, hop]

theorem exec_xCommandComplete_failed (hop : x.op ≠ opCopy) {st : BitVec 8} (hst : x.status = some st) :
    exec .xCommandComplete s = .next (s.endX s.args.core sh s.args.idx x 0 st) := by
  simp [execXCommandComplete, onShard_eq hc hsh, hx, hstarted, hretry, hbehind, hop, hst]

section
variable (hst : x.status = none)
include hst

theorem exec_xCommandComplete_seal {key : Nat} {v : Version} (hop : x.op = opTseal) (hcb : x.cb = false) (hv : s.findVersion sh.ctx x.ref = some (key, v)) (hsealed : v.sealed_ = true) :
    exec .xCommandComplete s = .next (s.endX s.args.core sh s.args.idx x 0 0) := by
  simp [execXCommandComplete, onShard_eq hc hsh, hx, hstarted, hretry, hbehind, hop, hst, hcb, hv, hsealed, opTseal, opCopy]

theorem exec_xCommandComplete_sealLines (hop : x.op = opTseal) (hcb : x.cb = true) : exec .xCommandComplete s = .next (sealLines s s.args.core sh s.args.idx x) := by
  simp [execXCommandComplete, onShard_eq hc hsh, hx, hstarted, hretry, hbehind, hop, hst, hcb, opTseal, opCopy]

theorem exec_xCommandComplete_store (hop : x.op = opTstore) (hfree : s.storeBlocked sh x.ref = false) :
    exec .xCommandComplete s = .next (storeImage s s.args.core sh s.args.idx x) := by
  simp [execXCommandComplete, onShard_eq hc hsh, hx, hstarted, hretry, hbehind, hop, hst, hfree, opTstore, opTseal, opCopy]

/-- TLOAD of a version that can be read acts for its producer (R90, R268). -/
theorem exec_xCommandComplete_load {key : Nat} {v : Version} (hop : x.op = opTload) (hv : s.findVersion sh.ctx x.ref = some (key, v)) (hkept : s.kept v = true)
    (hreadable : s.readable v = true) (hfree : s.versionBlocked key v = false) :
    exec .xCommandComplete s = .next (loadVersion (s.chargeVersion key v actTask) s.args.core (sh.reading v) s.args.idx x v) := by
  have htile : tileEffect s s.args.core sh s.args.idx x key v = .next (loadVersion (s.chargeVersion key v actTask) s.args.core (sh.reading v) s.args.idx x v) := by
    simp [tileEffect, State.versionBusy, hop, hreadable, hfree, opTload, opTdrop, opTpark, opTunpark, opTrepl, opReqnt]
  simp [execXCommandComplete, onShard_eq hc hsh, hx, hstarted, hretry, hbehind, hst, hv, hkept, htile, hop, opTload, opTstore, opPstore, opTseal, opCopy]

end

end

/-! ### A copy (R262) -/

section
variable {s : State} {n : Nat} {sh : Shard} {idx : Nat} {x : XCmd} (hsent : x.sent = false)
include hsent

theorem copyComplete_failed {st : BitVec 8} (hst : x.status = some st) : copyComplete s n sh idx x = .next (s.endX n sh idx x x.written st) := by
  simp [copyComplete, hsent, hst]

/-- Behind its last group a copy is done. -/
theorem copyComplete_done (hst : x.status = none) (hwhole : (Packet.of x.packet).whole = false) (hlen : (Packet.of x.packet).len ≤ 4096 * x.groups) :
    copyComplete s n sh idx x = .next (s.endX n sh idx x x.written 0) := by
  simp [copyComplete, hsent, hst, hwhole, Nat.not_lt.mpr hlen]

end

/-! ### TSEAL.cb (R74, R271) -/

theorem insertNat_subset {l : List Nat} (k : Nat) {a : Nat} (ha : a ∈ l) : a ∈ insertNat l k := by
  induction l with
  | nil => cases ha
  | cons x r ih =>
    unfold insertNat
    split_ifs
    · exact List.mem_cons_of_mem _ ha
    · exact ha
    · rcases List.mem_cons.mp ha with h | h
      · exact List.mem_cons.mpr (.inl h)
      · exact List.mem_cons_of_mem _ (ih h)

section
variable {α : Type} (g : α → Nat)

/-- Numbers that are inserted one by one are all there, with those there before. -/
theorem mem_foldl_insertNat (es : List α) {l : List Nat} {a : Nat} (ha : a ∈ l ∨ ∃ e ∈ es, g e = a) : a ∈ es.foldl (fun q e => insertNat q (g e)) l := by
  induction es generalizing l with
  | nil => simpa using ha
  | cons e es ih =>
    refine ih ?_
    rcases ha with ha | ⟨e', he', rfl⟩
    · exact .inl (insertNat_subset _ ha)
    · rcases List.mem_cons.mp he' with rfl | he'
      · exact .inl (mem_insertNat l _)
      · exact .inr ⟨e', he', rfl⟩

end

/-- The lines of a part of a range, each with the line of the address it was named by, behind those of the parts before it. -/
def linesOfPart (q : Nat × List (Nat × Nat)) (p : Target × Nat) : Nat × List (Nat × Nat) :=
  match p.1 with
  | .dram a => (q.1 + p.2, q.2 ++ (List.range (ceilDiv p.2 64)).map fun k => (a / 64 + k, q.1 / 64 + k))
  | _ => (q.1 + p.2, q.2)

theorem linesOfPart_subset {q : Nat × List (Nat × Nat)} (p : Target × Nat) {e : Nat × Nat} (he : e ∈ q.2) : e ∈ (linesOfPart q p).2 := by
  unfold linesOfPart
  split
  · exact List.mem_append_left _ he
  · exact he

theorem mem_linesOfPart (q : Nat × List (Nat × Nat)) (a : Nat) {k : Nat} (hk : 0 < k) : (a / 64, q.1 / 64) ∈ (linesOfPart q (.dram a, k)).2 :=
  List.mem_append_right _ (List.mem_map.mpr ⟨0, List.mem_range.mpr (by unfold ceilDiv; omega), rfl⟩)

theorem mem_foldl_linesOfPart {ps : List (Target × Nat)} {q : Nat × List (Nat × Nat)} {l : Nat}
    (h : (∃ e ∈ q.2, e.1 = l) ∨ ∃ a k, (Target.dram a, k) ∈ ps ∧ 0 < k ∧ a / 64 = l) : ∃ e ∈ (ps.foldl linesOfPart q).2, e.1 = l := by
  induction ps generalizing q with
  | nil =>
    rcases h with h | ⟨a, k, hmem, -⟩
    · exact h
    · cases hmem
  | cons p ps ih =>
    refine ih ?_
    rcases h with ⟨e, he, hl⟩ | ⟨a, k, hmem, hk, hl⟩
    · exact .inl ⟨e, linesOfPart_subset p he, hl⟩
    · rcases List.mem_cons.mp hmem with rfl | hmem
      · exact .inl ⟨_, mem_linesOfPart q a hk, hl⟩
      · exact .inr ⟨a, k, hmem, hk, hl⟩

/-- TSEAL.cb of a range that translates sets the sealed bit of each of its lines. -/
def State.withSealed (s : State) (sh : Shard) (ls : List (Nat × Nat)) : State :=
  { s with
    sealed_ := ls.foldl (fun (q : List Nat) (e : Nat × Nat) => insertNat q e.1) s.sealed_
    sealedBy := ls.foldl (fun (q : Map (Nat × Nat)) (e : Nat × Nat) => Map.put q e.1 (sh.ctx, e.2)) s.sealedBy }

theorem sealLines_eq {s : State} {sh : Shard} {x : XCmd} {ps : List (Target × Nat)} (hps : s.range sh.ctx .read x.ra.toNat x.rb.toNat = .ok ps) (n idx : Nat) :
    sealLines s n sh idx x = (s.withSealed sh (ps.foldl linesOfPart (x.ra.toNat, [])).2).endX n sh idx x 0 0 := by
  rw [sealLines, hps]
  rfl

/-! ### TLOAD (R268) -/

/-- The bytes that a command's OFF names in a scratchpad. -/
def XCmd.padAt (x : XCmd) (n : Nat) : Target := .pad n (bits x.rc.toNat 0 18)

theorem State.enter_versions (s : State) (r : Racer) (t : Target) (len : Nat) (write data atomic : Bool) : (s.enter r t len write data atomic).versions = s.versions := by
  cases t <;> rfl

section
variable (s : State) (n : Nat) (sh : Shard) (t : Target) (len : Nat) (write data atomic : Bool)

theorem State.watch_sameMemory : SameMemory s (s.watch n sh t len write data atomic) := by
  intro y k
  rw [State.watch, State.enter_sameMemory]
  refine s.updCore_sameMemory n (fun _ => ?_) y k
  rfl

theorem State.watch_versions : (s.watch n sh t len write data atomic).versions = s.versions := State.enter_versions _ _ _ _ _ _ _

theorem State.watch_sameCommands {c : Core} (hc : s.core? n = some c) : ∃ d, (s.watch n sh t len write data atomic).core? n = some d ∧ c.SameCommands d := by
  obtain ⟨d, hd, hbare⟩ := State.SameCores.core? (State.enter_sameCores _ _ t len write data atomic)
    ((State.Sets.refl hc).openRegion (s.racer (((s.core? n).bind Core.shard).getD sh)).uid (s.racer (((s.core? n).bind Core.shard).getD sh)).region).core
  have hsame : (c.opened _).SameCommands d := .of_bare hbare
  exact ⟨d, hd, hsame.xqueue, hsame.sregs, hsame.pending, hsame.cs⟩

end

section
variable {s : State} {n : Nat} {c : Core} {sh : Shard} (hc : s.core? n = some c) (hsh : c.shard = some sh)
include hc hsh

/-- A shard's own scratchpad is a target of its TLOAD, as far as the image fits. -/
theorem State.badTarget_self (v : Version) (off size : Nat) : s.badTarget (sh.reading v) off size n = decide (0x40000 < off + size) := by
  simp [State.badTarget, hc, hsh, Shard.reading]

theorem loadVersion_of_tooBig {x : XCmd} (hop : x.op = opTload) (idx : Nat) (v : Version) (hbig : 0x40000 < bits x.rc.toNat 0 18 + (v.imageOf x.ref.twin).length) :
    ∃ y : XCmd, y.cm = x.cm ∧ y.rd = x.rd ∧ loadVersion s n (sh.reading v) idx x v = s.endX n (sh.reading v) idx y 0 2 := by
  refine ⟨{ x with failAt := BitVec.ofNat 64 ((apertureBase 1).1 + bits x.rc.toNat 0 18) }, rfl, rfl, ?_⟩
  simp [loadVersion, XCmd.targets, hop, State.badTarget_self hc hsh, hbig]

theorem loadVersion_of_fits {x : XCmd} (hop : x.op = opTload) (idx : Nat) (v : Version) (hfits : bits x.rc.toNat 0 18 + (v.imageOf x.ref.twin).length ≤ 0x40000)
    (hrace : s.raceAt (sh.reading v) (x.padAt n) (v.imageOf x.ref.twin).length true true false = none) :
    ∃ y : XCmd, y.cm = x.cm ∧ y.rd = x.rd ∧ loadVersion s n (sh.reading v) idx x v
      = ((s.watch n (sh.reading v) (x.padAt n) (v.imageOf x.ref.twin).length true true false).writeTarget (x.padAt n) (v.imageOf x.ref.twin)).endX
          n (sh.reading v) idx y (v.imageOf x.ref.twin).length 0 := by
  refine ⟨{ x with failAt := BitVec.ofNat 64 ((apertureBase 1).1 + bits x.rc.toNat 0 18) }, rfl, rfl, ?_⟩
  rw [XCmd.padAt] at hrace ⊢
  simp [loadVersion, XCmd.targets, hop, State.badTarget_self hc hsh, Nat.not_lt.mpr hfits, hrace]

end

/-! ### TSTORE of a new output (R39, R269) -/

/-- The version that a store of an output of its task writes first. -/
def Shard.stores (sh : Shard) (t : Tensor) (r : Ref) (img : List Byte) : Version :=
  let new := (newVersion sh t r true).filled t r img
  let bytes := new.image.length + new.twin.elim 0 List.length
  { new with writers := [(0, bytes, sh.task, sh.num), (2 ^ 20, bytes, sh.task, sh.num)] }

theorem XCmd.ref_withFailAt (x : XCmd) (w : Word) : ({ x with failAt := w } : XCmd).ref = x.ref := rfl

/-- The state with a new version. -/
def State.withVersion (s : State) (v : Version) : State := { s with versions := Map.put s.versions s.uid v, uid := s.uid + 1 }

section
variable {s : State} {sh : Shard} {t : Tensor} {r : Ref} (hnew : s.findVersion sh.ctx r = none) (hout : sh.outs.contains r.word = true) (hdet : s.det sh.ctx = false)
  (hroom : s.tileStoreFull (s.standIn (t.homeOf r)) (newVersion sh t r true).pieces = false)
include hnew hout hdet hroom

theorem State.storeVersion_of_new (n : Nat) (img : List Byte) :
    s.storeVersion n sh t r img false = ((s.withVersion (sh.stores t r img)).chargeVersion s.uid (sh.stores t r img) actTask, 0, true) := by
  have hagain : s.rebuilds sh (newVersion sh t r true) = false := by simp [State.rebuilds, newVersion, blankVersion]
  have hsealed : (newVersion sh t r true).sealed_ = false := rfl
  simp only [State.storeVersion, hnew, hout, hdet, hroom, hagain, hsealed, Option.map_none, Option.getD_none, Bool.false_eq_true, false_and, and_false, or_self, if_false, if_true,
    not_true_eq_false, true_or, Option.isNone_none]
  rfl

/-- TSTORE of an output that fits, with nothing poisoned and no race, writes a new version. -/
theorem storeImage_of_new {c : Core} {n : Nat} (hc : s.core? n = some c) (hsh : c.shard = some sh) {x : XCmd} (hr : x.ref = r) (href : s.checkRef sh r = .inr t) (htwin : t.twin = false)
    (hfits : bits x.rc.toNat 0 18 + t.imageSize ≤ 0x40000) (hsound : s.poisoned (x.padAt n) t.imageSize = false)
    (hrace : s.raceAt sh (x.padAt n) t.imageSize false true false = none) (idx : Nat) :
    ∃ y : XCmd, y.cm = x.cm ∧ y.rd = x.rd ∧ storeImage s n sh idx x
      = ((((s.withVersion (sh.stores t r (s.readTarget (x.padAt n) t.imageSize))).chargeVersion s.uid
          (sh.stores t r (s.readTarget (x.padAt n) t.imageSize)) actTask).watch n sh (x.padAt n) t.imageSize false true false).endX n sh idx y t.imageSize 0) := by
  refine ⟨{ x with failAt := BitVec.ofNat 64 ((apertureBase 1).1 + bits x.rc.toNat 0 18) }, rfl, rfl, ?_⟩
  have hhere : s.onCore n sh = sh := by simp [State.onCore, hc, hsh]
  subst hr
  rw [XCmd.padAt] at hsound hrace ⊢
  simp only [storeImage, href, Nat.not_lt.mpr hfits, hhere, hrace, hsound, XCmd.ref_withFailAt, State.storeVersion_of_new hnew hout hdet hroom, htwin, Option.isSome_none, Bool.false_eq_true, and_false, if_false, if_true,
    Nat.mul_one]

end

/-! ### What the effects leave -/

section
variable {s : State} {c : Core} {n : Nat} {sh : Shard} {x : XCmd} (hc : s.core? n = some c) (hsh : c.shard = some sh) (hcm : x.cm = 1) (idx : Nat)
include hc hcm

/-- TSEAL.cb of a range that translates ends with its lines sealed, and every other seal as before. -/
theorem sealLines_spec {ps : List (Target × Nat)} (hps : s.range sh.ctx .read x.ra.toNat x.rb.toNat = .ok ps) :
    c.CommandEnds (sealLines s n sh idx x) n idx x 0 0 ∧ SameMemory s (sealLines s n sh idx x)
      ∧ (∀ a k, (Target.dram a, k) ∈ ps → 0 < k → a / 64 ∈ (sealLines s n sh idx x).sealed_) ∧ ∀ l ∈ s.sealed_, l ∈ (sealLines s n sh idx x).sealed_ := by
  rw [sealLines_eq hps]
  obtain ⟨hcore, hmem, hsealed, -⟩ := (s.withSealed sh (ps.foldl linesOfPart (x.ra.toNat, [])).2).endX_ended hcm n sh idx 0 0
  refine ⟨hcore c c hc (.refl c), fun t k => (hmem t k).trans (sameMemory_of_eq rfl rfl rfl rfl t k), fun a k hp hk => ?_, fun l hl => ?_⟩ <;> rw [hsealed]
  · exact mem_foldl_insertNat _ _ (.inr (mem_foldl_linesOfPart (.inr ⟨a, k, hp, hk, rfl⟩)))
  · exact mem_foldl_insertNat _ _ (.inl hl)

include hsh

/-- TLOAD of an image that does not fit ends with STATUS 2. -/
theorem loadVersion_tooBig_spec (hop : x.op = opTload) (v : Version) (hbig : 0x40000 < bits x.rc.toNat 0 18 + (v.imageOf x.ref.twin).length) :
    c.CommandEnds (loadVersion s n (sh.reading v) idx x v) n idx x 0 2 ∧ SameMemory s (loadVersion s n (sh.reading v) idx x v) := by
  obtain ⟨y, hcm', hrd, heq⟩ := loadVersion_of_tooBig hc hsh hop idx v hbig
  rw [heq]
  have hends := s.endX_spec (hcm'.trans hcm) n (sh.reading v) idx 0 2 hc
  unfold Core.CommandEnds at hends ⊢
  rwa [hrd] at hends

/-- TLOAD leaves the image in the scratchpad, and every other byte as before. -/
theorem loadVersion_fits_spec (hop : x.op = opTload) (v : Version) (hfits : bits x.rc.toNat 0 18 + (v.imageOf x.ref.twin).length ≤ 0x40000)
    (hrace : s.raceAt (sh.reading v) (x.padAt n) (v.imageOf x.ref.twin).length true true false = none) :
    c.CommandEnds (loadVersion s n (sh.reading v) idx x v) n idx x (v.imageOf x.ref.twin).length 0
      ∧ (loadVersion s n (sh.reading v) idx x v).readTarget (x.padAt n) (v.imageOf x.ref.twin).length = v.imageOf x.ref.twin
      ∧ SameBut s (loadVersion s n (sh.reading v) idx x v) (x.padAt n) (v.imageOf x.ref.twin).length := by
  obtain ⟨y, hcm', hrd, heq⟩ := loadVersion_of_fits hc hsh hop idx v hfits hrace
  rw [heq]
  have hwatched := s.watch_sameMemory n (sh.reading v) (x.padAt n) (v.imageOf x.ref.twin).length true true false
  obtain ⟨d, hd, hsame⟩ := s.watch_sameCommands n (sh.reading v) (x.padAt n) (v.imageOf x.ref.twin).length true true false hc
  generalize s.watch n (sh.reading v) (x.padAt n) (v.imageOf x.ref.twin).length true true false = w at hwatched hd ⊢
  obtain ⟨d', hd', hbare⟩ := (w.writeTarget_sameCores (x.padAt n) (v.imageOf x.ref.twin)).core? hd
  have hsame' := Core.SameCommands.of_bare hbare
  obtain ⟨hcore, hmem, -, -⟩ := (w.writeTarget (x.padAt n) (v.imageOf x.ref.twin)).endX_ended (hcm'.trans hcm) n (sh.reading v) idx (v.imageOf x.ref.twin).length 0
  refine ⟨?_, ?_, sameBut_of_sameMemory (sameBut_writeTarget w _ _ rfl) hwatched hmem⟩
  · have hends := hcore c d' hd' ⟨hsame'.xqueue.trans hsame.xqueue, hsame'.sregs.trans hsame.sregs, hsame'.pending.trans hsame.pending, hsame'.cs.trans hsame.cs⟩
    unfold Core.CommandEnds at hends ⊢
    rwa [hrd] at hends
  · rw [hmem]
    exact State.readTarget_writeTarget_pad (Option.isSome_iff_exists.mpr ⟨d, hd⟩) _ _ rfl

end

section
variable {s : State} {c : Core} {n : Nat} {sh : Shard} {x : XCmd} {t : Tensor} (hc : s.core? n = some c) (hsh : c.shard = some sh) (hcm : x.cm = 1) (idx : Nat)
include hc hsh hcm

/-- TSTORE of a new output leaves a version of its task with the image at OFF, edge elements at PAD, and memory as before. -/
theorem storeImage_spec (hnew : s.findVersion sh.ctx x.ref = none) (hout : sh.outs.contains x.ref.word = true) (hdet : s.det sh.ctx = false)
    (hroom : s.tileStoreFull (s.standIn (t.homeOf x.ref)) (newVersion sh t x.ref true).pieces = false) (href : s.checkRef sh x.ref = .inr t) (htwin : t.twin = false)
    (hfits : bits x.rc.toNat 0 18 + t.imageSize ≤ 0x40000) (hsound : s.poisoned (x.padAt n) t.imageSize = false)
    (hrace : s.raceAt sh (x.padAt n) t.imageSize false true false = none) :
    c.CommandEnds (storeImage s n sh idx x) n idx x t.imageSize 0 ∧ SameMemory s (storeImage s n sh idx x)
      ∧ ∃ v, Map.look (storeImage s n sh idx x).versions s.uid = some v ∧ v.sealed_ = false ∧ v.task = some sh.task
        ∧ v.image = t.withEdges x.ref (s.readTarget (x.padAt n) t.imageSize) := by
  obtain ⟨y, hcm', hrd, heq⟩ := storeImage_of_new hnew hout hdet hroom hc hsh rfl href htwin hfits hsound hrace idx
  rw [heq]
  have hcharged := (s.withVersion (sh.stores t x.ref (s.readTarget (x.padAt n) t.imageSize))).chargeVersion_onlyPorts s.uid
    (sh.stores t x.ref (s.readTarget (x.padAt n) t.imageSize)) actTask
  generalize (s.withVersion (sh.stores t x.ref (s.readTarget (x.padAt n) t.imageSize))).chargeVersion s.uid
    (sh.stores t x.ref (s.readTarget (x.padAt n) t.imageSize)) actTask = w at hcharged ⊢
  have hw : w.core? n = some c := by rw [hcharged.eq]; exact hc
  obtain ⟨d, hd, hsame⟩ := w.watch_sameCommands n sh (x.padAt n) t.imageSize false true false hw
  obtain ⟨hcore, hmem, -, hversions⟩ := (w.watch n sh (x.padAt n) t.imageSize false true false).endX_ended (hcm'.trans hcm) n sh idx t.imageSize 0
  refine ⟨?_, fun z k => ?_, ?_⟩
  · have hends := hcore c d hd hsame
    unfold Core.CommandEnds at hends ⊢
    rwa [hrd] at hends
  · rw [hmem, State.watch_sameMemory, hcharged.sameMemory]
    rfl
  · have hlook : Map.look (w.watch n sh (x.padAt n) t.imageSize false true false).versions s.uid = some (sh.stores t x.ref (s.readTarget (x.padAt n) t.imageSize)) := by
      rw [State.watch_versions, hcharged.eq]
      exact Map.look_put ..
    obtain ⟨later, hlater⟩ := hversions _ _ hlook
    exact ⟨_, hlater, rfl, rfl, rfl⟩

end

/-- Settles O28: each command ends by one update of its core, behind its own effect. -/
theorem commandsComplete : Obligations.CommandsComplete := by
  unfold Obligations.CommandsComplete
  intro s c sh x hc hsh hx
  dsimp only
  intro hstarted hretry hbehind hcm
  have hoff : bits x.rc.toNat 0 18 = x.rc.toNat % 2 ^ 18 := by rw [bits, Nat.pow_zero, Nat.div_one]
  rw [← hoff]
  refine ⟨fun hop hsent => ⟨fun st hst => ?_, fun hst hwhole hlen => ?_⟩, fun hop st hst => ?_, fun hst => ⟨fun key v hop hcb hv hsealed => ?_, fun ps hop hcb hps => ?_,
    fun key v hop hv hkept hreadable hfree => ⟨fun hfits hrace => ?_, fun hbig => ?_⟩, fun t hop hfree href htwin hfits hnew hout hroom hsound hdet hrace => ?_⟩⟩
  · exact ⟨_, (exec_xCommandComplete_copy hc hsh hx hstarted hretry hbehind hop).trans (copyComplete_failed hsent hst), s.endX_spec hcm _ sh _ _ st hc⟩
  · exact ⟨_, (exec_xCommandComplete_copy hc hsh hx hstarted hretry hbehind hop).trans (copyComplete_done hsent hst hwhole hlen), s.endX_spec hcm _ sh _ _ 0 hc⟩
  · exact ⟨_, exec_xCommandComplete_failed hc hsh hx hstarted hretry hbehind hop hst, s.endX_spec hcm _ sh _ 0 st hc⟩
  · exact ⟨_, exec_xCommandComplete_seal hc hsh hx hstarted hretry hbehind hst hop hcb hv hsealed, s.endX_spec hcm _ sh _ 0 0 hc⟩
  · exact ⟨_, exec_xCommandComplete_sealLines hc hsh hx hstarted hretry hbehind hst hop hcb, sealLines_spec hc hcm _ hps⟩
  · have hcharged := s.chargeVersion_onlyPorts key v actTask
    refine ⟨_, exec_xCommandComplete_load hc hsh hx hstarted hretry hbehind hst hop hv hkept hreadable hfree, ?_⟩
    obtain ⟨hends, hread, hbut⟩ := loadVersion_fits_spec (s := s.chargeVersion key v actTask) (by rw [hcharged.eq]; exact hc) hsh hcm s.args.idx hop v hfits (by rw [hcharged.eq]; exact hrace)
    exact ⟨hends, hread, sameBut_of_sameMemory hbut hcharged.sameMemory fun _ _ => rfl⟩
  · have hcharged := s.chargeVersion_onlyPorts key v actTask
    refine ⟨_, exec_xCommandComplete_load hc hsh hx hstarted hretry hbehind hst hop hv hkept hreadable hfree, ?_⟩
    obtain ⟨hends, hmem⟩ := loadVersion_tooBig_spec (s := s.chargeVersion key v actTask) (by rw [hcharged.eq]; exact hc) hsh hcm s.args.idx hop v hbig
    exact ⟨hends, fun z k => (hmem z k).trans (hcharged.sameMemory z k)⟩
  · obtain ⟨hends, hmem, v, hlook, hv⟩ := storeImage_spec hc hsh hcm s.args.idx hnew hout hdet hroom href htwin hfits hsound hrace
    exact ⟨_, v, exec_xCommandComplete_store hc hsh hx hstarted hretry hbehind hst hop hfree, hends, hmem, hlook, hv⟩

end Sys2Proof.Machine
end

section
/-! The memories that the canonical form speaks of, and what keeps them (StepKeepsMemoryCanonical). -/

namespace Sys2Proof.Machine
open Sys2Proof.Claim

/-- The memories that the canonical form speaks of are as before. -/
@[simp] abbrev State.SameStores (s u : State) : Prop := u.mem = s.mem ∧ u.host0 = s.host0 ∧ u.host1 = s.host1 ∧ u.bootWin = s.bootWin

/-- The memories are in canonical form. -/
@[simp] abbrev State.Stored (s : State) : Prop := Memory.wf s.mem = true ∧ Memory.wf s.host0 = true ∧ Memory.wf s.host1 = true ∧ Memory.wf s.bootWin = true

theorem State.SameStores.trans {s t u : State} (h : s.SameStores t) (h' : t.SameStores u) : s.SameStores u := by simp [h, h']

theorem State.SameStores.stored {s u : State} (h : s.SameStores u) (hs : s.Stored) : u.Stored := by simp [h, hs]

theorem State.OnlyPorts.sameStores {s u : State} (h : s.OnlyPorts u) : s.SameStores u := by rw [h.eq]; exact ⟨rfl, rfl, rfl, rfl⟩

theorem State.OnlyHolds.sameStores {s u : State} (h : s.OnlyHolds u) : s.SameStores u := by rw [h.eq]; exact ⟨rfl, rfl, rfl, rfl⟩

theorem State.OnlyReserves.sameStores {s u : State} (h : s.OnlyReserves u) : s.SameStores u := by rw [h.eq]; exact ⟨rfl, rfl, rfl, rfl⟩

@[simp] theorem foldl_sameStores {α : Type} {f : State → α → State} (hf : ∀ s a, State.SameStores s (f s a)) (l : List α) (s : State) : State.SameStores s (l.foldl f s) := by
  induction l generalizing s with
  | nil => exact ⟨rfl, rfl, rfl, rfl⟩
  | cons a l ih => simp [ih, hf]

theorem foldl_stored {α : Type} {f : State → α → State} (hf : ∀ s a, State.Stored s → (f s a).Stored) (l : List α) {s : State} (h : s.Stored) : (l.foldl f s).Stored := by
  induction l generalizing s with
  | nil => exact h
  | cons a l ih => exact ih (hf s a h)

@[simp] theorem State.ite_stores {p : Prop} [Decidable p] (u v : State) :
    (if p then u else v).mem = (if p then u.mem else v.mem) ∧ (if p then u else v).host0 = (if p then u.host0 else v.host0)
      ∧ (if p then u else v).host1 = (if p then u.host1 else v.host1) ∧ (if p then u else v).bootWin = (if p then u.bootWin else v.bootWin) := by
  split <;> simp

@[simp] theorem Memory.wf_ite {p : Prop} [Decidable p] {m m' : List Host.Cell} (h : Memory.wf m = true) (h' : Memory.wf m' = true) : Memory.wf (if p then m else m') = true := by
  split
  · exact h
  · exact h'

theorem State.ite_stored {p : Prop} [Decidable p] {u v : State} (hu : u.Stored) (hv : v.Stored) : (if p then u else v).Stored := by
  split
  · exact hu
  · exact hv

@[simp] theorem hostMem_wf {s : State} (h : s.Stored) (p : Nat) : Memory.wf (s.hostMem p) = true := by
  unfold State.hostMem
  split <;> simp [h]

theorem setHostMem_stored {s : State} (h : s.Stored) (p : Nat) {m : List Host.Cell} (hm : Memory.wf m = true) : (s.setHostMem p m).Stored := by
  unfold State.setHostMem
  split <;> simp [h, hm]

@[simp] theorem State.spoil_sameStores (s : State) (t : Target) (n : Nat) : s.SameStores (s.spoil t n) := by
  unfold State.spoil
  split <;> simp
@[simp] theorem State.updCore_sameStores (s : State) (n : Nat) (f : Core → Core) : s.SameStores (s.updCore n f) := ⟨rfl, rfl, rfl, rfl⟩

@[simp] theorem State.writeTarget_stored {s : State} (h : s.Stored) (t : Target) (bs : List Byte) : (s.writeTarget t bs).Stored := by
  have hs : (s.spoil t bs.length).Stored := by simp [h]
  unfold State.writeTarget
  cases t with
  | pad k o => simp [h]
  | dram a => simp [h, Memory.wf_setN]
  | host p a => exact setHostMem_stored hs p (Memory.wf_setN _ _ (hostMem_wf hs p))
  | peer p a => exact hs
end Sys2Proof.Machine
end

section
/-! Keep of the memories: what each operation of the state does to DRAM, the memories of the hosts and the boot window. -/

namespace Sys2Proof.Machine
open Sys2Proof.Claim

/-! ### Cores, accesses and races -/

@[simp] theorem State.tlbMiss_sameStores (s : State) (n path ctx va : Nat) : s.SameStores (s.tlbMiss n path ctx va) := by
  unfold State.tlbMiss
  (repeat' split) <;> simp

@[simp] theorem State.loseMetadata_sameStores (s : State) (t : Target) : s.SameStores (s.loseMetadata t) := ⟨rfl, rfl, rfl, rfl⟩

@[simp] theorem State.openRegion_sameStores (s : State) (n : Nat) (uid region : Nat) : s.SameStores (s.openRegion n uid region) := ⟨rfl, rfl, rfl, rfl⟩

@[simp] theorem State.enter_sameStores (s : State) (r : Racer) (t : Target) (len : Nat) (write data atomic : Bool) :
    s.SameStores (s.enter r t len write data atomic) := by
  unfold State.enter
  split <;> simp

@[simp] theorem State.watch_sameStores (s : State) (n : Nat) (sh : Shard) (t : Target) (len : Nat) (write data atomic : Bool) :
    s.SameStores (s.watch n sh t len write data atomic) := by simp [State.watch]

@[simp] theorem State.closeRegion_sameStores (s : State) (region : Nat) : s.SameStores (s.closeRegion region) := ⟨rfl, rfl, rfl, rfl⟩

@[simp] theorem State.syncPoint_sameStores (s : State) (n : Nat) : s.SameStores (s.syncPoint n) := by
  unfold State.syncPoint
  split <;> simp

@[simp] theorem State.tickClock_sameStores (s : State) (n : Nat) : s.SameStores (s.tickClock n) := ⟨rfl, rfl, rfl, rfl⟩

@[simp] theorem State.acquire_sameStores (s : State) (n : Nat) (k : Map Nat) : s.SameStores (s.acquire n k) := ⟨rfl, rfl, rfl, rfl⟩

@[simp] theorem State.passed_sameStores (s : State) (uid : Nat) : s.SameStores (s.passed uid) := by simp [State.passed]

@[simp] theorem State.dropWatched_sameStores (s : State) (uid : Nat) : s.SameStores (s.dropWatched uid) := by simp [State.dropWatched]

@[simp] theorem State.newPad_sameStores (s : State) (n : Nat) : s.SameStores (s.newPad n) := ⟨rfl, rfl, rfl, rfl⟩

@[simp] theorem State.movePad_sameStores (s : State) (m n : Nat) : s.SameStores (s.movePad m n) := ⟨rfl, rfl, rfl, rfl⟩

@[simp] theorem State.msixUp_sameStores (s : State) (port vector : Nat) : s.SameStores (s.msixUp port vector) := ⟨rfl, rfl, rfl, rfl⟩

@[simp] theorem State.postFault_stored {s : State} (h : s.Stored) (ctx : Nat) (f : FaultRec) : (s.postFault ctx f).1.Stored := by
  unfold State.postFault
  dsimp only
  (repeat' split) <;> simp [h]

@[simp] theorem State.countError_sameStores (s : State) (die unit inst cls outcome : Nat) :
    s.SameStores (s.countError die unit inst cls outcome) := by simp [State.countError]

@[simp] theorem State.postError_sameStores (s : State) (sev cls die unit inst ctx : Nat) (loc item : Word) :
    s.SameStores (s.postError sev cls die unit inst ctx loc item) := by simp [State.postError]

@[simp] theorem State.postRetried_sameStores (s : State) (r : ErrRec) (sev : Nat) : s.SameStores (s.postRetried r sev) := by simp [State.postRetried]

@[simp] theorem State.dropRetries_sameStores (s : State) (n : Nat) : s.SameStores (s.dropRetries n) := by simp [State.dropRetries]

@[simp] theorem State.postCorrected_sameStores (s : State) (die unit inst cls ctx : Nat) (loc item : Word) :
    s.SameStores (s.postCorrected die unit inst cls ctx loc item) := by simp [State.postCorrected]

@[simp] theorem State.charge_sameStores (s : State) (port a n : Nat) : s.SameStores (s.charge port a n) := by simp [State.charge]

@[simp] theorem State.chargeFlits_sameStores (s : State) (a b path act n : Nat) : s.SameStores (s.chargeFlits a b path act n) := by simp [State.chargeFlits]

@[simp] theorem State.chargeHub_sameStores (s : State) (d act n : Nat) : s.SameStores (s.chargeHub d act n) := by simp [State.chargeHub]

@[simp] theorem State.countActivation_sameStores (s : State) (place : Nat) : s.SameStores (s.countActivation place) := ⟨rfl, rfl, rfl, rfl⟩

@[simp] theorem State.raiseHalt_sameStores (s : State) (n halt : Nat) : s.SameStores (s.raiseHalt n halt) := ⟨rfl, rfl, rfl, rfl⟩

theorem State.perform_stored {s : State} (h : s.Stored) (f : Access) : (s.perform f).1.Stored := by
  rcases s.perform_writes f with heq | ⟨bs, -, heq⟩ <;> rw [heq]
  · exact h
  · exact s.writeTarget_stored h f.target bs

@[simp] theorem State.rowOpened_sameStores (s : State) (place act : Nat) : s.SameStores (s.rowOpened place act) := by simp [State.rowOpened]

@[simp] theorem State.chargeBytes_sameStores (s : State) (die pa n act : Nat) : s.SameStores (s.chargeBytes die pa n act) := by simp [State.chargeBytes]

@[simp] theorem State.chargeAccess_sameStores (s : State) (n : Nat) (f : Access) (opened : Bool) : s.SameStores (s.chargeAccess n f opened) := by
  unfold State.chargeAccess
  split <;> simp

@[simp] theorem State.takesEffect_stored {s : State} (h : s.Stored) (sh : Shard) (f : Access) : (s.takesEffect sh f).1.Stored :=
  State.perform_stored (by simp [h]) f

@[simp] theorem State.closedBy_sameStores (s : State) (f : Access) : s.SameStores (s.closedBy f) := by simp [State.closedBy]

@[simp] theorem State.performs_stored {s : State} (h : s.Stored) (sh : Shard) (f : Access) : (s.performs sh f).1.Stored := by simp [State.performs, h]

@[simp] theorem State.stray_sameStores (s : State) (n : Nat) : s.SameStores (s.stray n) := by
  unfold State.stray
  split
  · simp
  next c _ => cases c.shard <;> simp

@[simp] theorem State.orphan_sameStores (s : State) (n : Nat) : s.SameStores (s.orphan n) := ⟨rfl, rfl, rfl, rfl⟩

@[simp] theorem State.endRun_sameStores (s : State) (n : Nat) : s.SameStores (s.endRun n) := ⟨rfl, rfl, rfl, rfl⟩

@[simp] theorem State.dropLease_sameStores (s : State) (n : Nat) : s.SameStores (s.dropLease n) := ⟨rfl, rfl, rfl, rfl⟩

@[simp] theorem State.setShard_sameStores (s : State) (task num : Nat) (x : ShardState) : s.SameStores (s.setShard task num x) := ⟨rfl, rfl, rfl, rfl⟩

@[simp] theorem State.vacate_sameStores (s : State) (n : Nat) : s.SameStores (s.vacate n) := by
  unfold State.vacate
  split
  · simp
  · refine State.SameStores.trans ?_ (foldl_sameStores (fun u p => ?_) _ _)
    · simp
    · split <;> simp

@[simp] theorem State.dropUnsealed_sameStores (s : State) (uid : Nat) : s.SameStores (s.dropUnsealed uid) := ⟨rfl, rfl, rfl, rfl⟩

@[simp] theorem State.chargeAt_sameStores (s : State) (n : Nat) (t : Target) (len : Nat) : s.SameStores (s.chargeAt n t len) := by
  unfold State.chargeAt
  split <;> simp

@[simp] theorem State.refill_sameStores (s : State) (die : Nat) : s.SameStores (s.refill die) := (s.refill_onlyReserves die).sameStores

@[simp] theorem State.stopTask_sameStores (s : State) (task : Nat) : s.SameStores (s.stopTask task) := by
  unfold State.stopTask
  split
  · simp
  · refine State.SameStores.trans ?_ (foldl_sameStores (fun u d => by simp) _ _)
    refine State.SameStores.trans (u := List.foldl _ _ _) ?_ ⟨rfl, rfl, rfl, rfl⟩
    refine State.SameStores.trans ?_ (foldl_sameStores (fun u e => by simp) _ _)
    refine State.SameStores.trans (u := List.foldl _ _ _) ?_ ⟨rfl, rfl, rfl, rfl⟩
    refine foldl_sameStores (fun u e => ?_) _ _
    split
    · split <;> simp
    · simp

@[simp] theorem State.haltShard_stored {s : State} (h : s.Stored) (n : Nat) (sh : Shard) (σ : Strm) (code : Nat) (tval pc : Word) :
    (s.haltShard n sh σ code tval pc).Stored := by simp [State.haltShard, h]

@[simp] theorem State.loseShard_sameStores (s : State) (sh : Shard) (cell : Bool) (info : Word) :
    s.SameStores (s.loseShard sh cell info) := by simp [State.loseShard]

@[simp] theorem State.blame_sameStores (s : State) (key cls : Nat) : s.SameStores (s.blame key cls) := ⟨rfl, rfl, rfl, rfl⟩

@[simp] theorem State.stopPoisoned_stored {s : State} (h : s.Stored) (n : Nat) (sh : Shard) (σ : Strm) (tval pc : Word) (cell : Bool) :
    (s.stopPoisoned n sh σ tval pc cell).Stored := by simp [State.stopPoisoned, h]

@[simp] theorem State.takeTrap_stored {s : State} (h : s.Stored) (n : Nat) (σ : Strm) (code : BitVec 8) (tval : Word) : (s.takeTrap n σ code tval).Stored := by
  unfold State.takeTrap
  (repeat' split) <;> simp [h]

@[simp] theorem State.takeHeldAt_stored {s : State} (h : s.Stored) (n : Nat) (σ : Strm) (f : Access) (pc : Word) (code : BitVec 8) (tval : Word) :
    (s.takeHeldAt n σ f pc code tval).Stored := by simp [State.takeHeldAt, h]

@[simp] theorem State.takeHeld_stored {s : State} (h : s.Stored) (n : Nat) (σ : Strm) (f : Access) (code : BitVec 8) (tval : Word) :
    (s.takeHeld n σ f code tval).Stored := by simp [State.takeHeld, h]

@[simp] theorem State.trapWord_stored {s : State} (h : s.Stored) (σ : Strm) (c : Core) (code : BitVec 8) (tval : Word) :
    (s.trapWord σ c code tval).Stored := by simp [State.trapWord, h]

@[simp] theorem State.firstRead_sameStores (s : State) (k : Nat) : s.SameStores (s.firstRead k) := by simp [State.firstRead]

@[simp] theorem State.put_sameStores (s : State) (c : Core) : s.SameStores (s.put c) := ⟨rfl, rfl, rfl, rfl⟩

/-! ### Speculation and the lines of memory -/

@[simp] theorem State.commit_sameStores (s : State) (n : Nat) : s.SameStores (s.commit n) := by
  unfold State.commit
  split <;> simp

@[simp] theorem State.sendPeer_sameStores (s : State) (n : Nat) (σ : Strm) (port a : Nat) (f : Access) :
    s.SameStores (s.sendPeer n σ port a f) := by simp [State.sendPeer]

@[simp] theorem State.fly_sameStores (s : State) (n : Nat) (σ : Strm) (f : Access) : s.SameStores (s.fly n σ f) := by
  unfold State.fly
  split <;> simp

@[simp] theorem State.note_sameStores (s : State) (n : Nat) (uid : Nat) (f : Access) : s.SameStores (s.note n uid f) := by simp [State.note]

@[simp] theorem State.atOnce_stored {s : State} (h : s.Stored) (n : Nat) (sh : Shard) (f : Access) : (s.atOnce n sh f).1.Stored := by simp [State.atOnce, h]

@[simp] theorem State.commitFor_sameStores (s : State) (n : Nat) (va : Word) : s.SameStores (s.commitFor n va) := by simp [State.commitFor]

@[simp] theorem State.reissue_sameStores (s : State) (n : Nat) (σ : Strm) (sh : Shard) (f : Access) : s.SameStores (s.reissue n σ sh f) := by
  unfold State.reissue
  (repeat' split) <;> simp

@[simp] theorem State.reissueAll_sameStores (s : State) (n : Nat) (sh : Shard) (old : Core) : s.SameStores (s.reissueAll n sh old) := by
  have hagain : ∀ (u : State) (σ : Strm), u.SameStores ((old.strm σ).flight.foldl (fun s f =>
      if f.held && ((s.core? n).any fun c => (c.strm σ).flight.any fun g => g.order == f.order) then s.reissue n σ sh { f with held := false } else s) u) :=
    fun u σ => foldl_sameStores (fun v f => by split <;> simp) _ _
  exact (hagain s .c).trans (hagain _ .a)

/-! ### Tasks and shards -/

theorem State.writeRange_stored {s u : State} (h : s.Stored) {ctx va : Nat} {bs : List Byte} (hu : s.writeRange ctx va bs = some u) : u.Stored := by
  unfold State.writeRange at hu
  split at hu
  next ps _ =>
    split_ifs at hu
    cases hu
    have hfold : ∀ (l : List (Target × Nat)) (x : State × List Byte), x.1.Stored →
        (l.foldl (fun (x : State × List Byte) p => (x.1.writeTarget p.1 (x.2.take p.2), x.2.drop p.2)) x).1.Stored := by
      intro l
      induction l with
      | nil => exact fun x hx => hx
      | cons p l ih => exact fun x hx => ih _ (x.1.writeTarget_stored hx _ _)
    exact hfold ps (s, bs) h
  next => cases hu

@[simp] theorem State.startFetch_sameStores (s : State) (v : Version) : s.SameStores (s.startFetch v) := by
  unfold State.startFetch
  split <;> simp

@[simp] theorem State.chargeRecord_sameStores (s : State) (d k : Nat) : s.SameStores (s.chargeRecord d k) := by simp [State.chargeRecord]

@[simp] theorem State.chargeShadow_sameStores (s : State) (d n : Nat) : s.SameStores (s.chargeShadow d n) := by simp [State.chargeShadow]

@[simp] theorem State.chargeEntry_sameStores (s : State) (t : Task) : s.SameStores (s.chargeEntry t) := by simp [State.chargeEntry]

@[simp] theorem State.accept_sameStores (s : State) (t : Task) : s.SameStores (s.accept t) := by
  unfold State.accept
  dsimp only
  split
  · simp
  · refine State.SameStores.trans ?_ (foldl_sameStores (fun u r => ?_) _ _)
    · simp
    · split <;> simp

@[simp] theorem State.staleUp_sameStores (s : State) (ctx : Nat) : s.SameStores (s.staleUp ctx) := ⟨rfl, rfl, rfl, rfl⟩

@[simp] theorem State.lowerDeps_sameStores (s : State) (task amount : Nat) : s.SameStores (s.lowerDeps task amount) := by
  unfold State.lowerDeps
  split <;> simp

/-! ### Rows and holds -/

@[simp] theorem State.chargeColumn_sameStores (s : State) (n place : Nat) : s.SameStores (s.chargeColumn n place) := by simp [State.chargeColumn]

@[simp] theorem State.updRecord_sameStores (s : State) (d k : Nat) (f : Record → Record) : s.SameStores (s.updRecord d k f) := by simp [State.updRecord]

@[simp] theorem State.updVersion_sameStores (s : State) (key : Nat) (f : Version → Version) : s.SameStores (s.updVersion key f) := ⟨rfl, rfl, rfl, rfl⟩

@[simp] theorem State.freeBytes_sameStores (s : State) (key d k : Nat) : s.SameStores (s.freeBytes key d k) := by simp [State.freeBytes]

@[simp] theorem State.freeWaiting_sameStores (s : State) : s.SameStores s.freeWaiting := s.freeWaiting_onlyHolds.sameStores

@[simp] theorem State.closeHold_sameStores (s : State) (n h : Nat) (st : HoldState) (cause : BitVec 4) : s.SameStores (s.closeHold n h st cause) := by
  unfold State.closeHold
  split <;> simp

@[simp] theorem State.freeHold_sameStores (s : State) (n h : Nat) : s.SameStores (s.freeHold n h) := by simp [State.freeHold]

@[simp] theorem State.freeHolds_sameStores (s : State) (n : Nat) : s.SameStores (s.freeHolds n) := by
  unfold State.freeHolds
  split <;> simp

@[simp] theorem State.revokeHold_sameStores (s : State) (n h : Nat) (cause : BitVec 4) : s.SameStores (s.revokeHold n h cause) := by
  unfold State.revokeHold
  split <;> simp

@[simp] theorem State.revokeRows_sameStores (s : State) (p : Nat → Hold → Bool) (cause : BitVec 4) :
    s.SameStores (s.revokeRows p cause) := by simp [State.revokeRows]

@[simp] theorem State.drainA_sameStores (s : State) (n : Nat) : s.SameStores (s.drainA n) := by
  unfold State.drainA
  (repeat' split) <;> simp

/-! ### Words of control -/

theorem State.sendHeld_stored (n : Nat) (sh : Shard) (gs : List Access) {s : State} (h : s.Stored) : (s.sendHeld n sh gs).Stored := by
  induction gs generalizing s with
  | nil => exact h
  | cons g gs ih =>
    unfold State.sendHeld
    dsimp only
    split
    · exact h
    · refine ih ?_
      split <;> simp [h]

@[simp] theorem State.enterLoads_sameStores (s : State) (n : Nat) (sh : Shard) (l : List Access) :
    s.SameStores (s.enterLoads n sh l) := by simp [State.enterLoads]

@[simp] theorem State.toLabel_stored {s : State} (h : s.Stored) (n : Nat) (c : Core) (sh : Shard) (x : Spec) :
    (s.toLabel n c sh x).Stored := by simp [State.toLabel, h]

theorem State.resolve_stored {s : State} (h : s.Stored) (n : Nat) (c : Core) (sh : Shard) (x : Spec) : (s.resolve n c sh x).Stored := by
  unfold State.resolve
  dsimp only
  split
  · simp [h]
  · split
    · simp [h]
    · exact State.sendHeld_stored _ _ _ (by simp [h])

@[simp] theorem State.chargeFetched_sameStores (s : State) (n : Nat) (c : Core) (sh : Shard) (pc : Word) :
    s.SameStores (s.chargeFetched n c sh pc) := by simp [State.chargeFetched]

/-! ### Accesses that perform -/

@[simp] theorem State.dropFailed_sameStores (s : State) (n : Nat) : s.SameStores (s.dropFailed n) := ⟨rfl, rfl, rfl, rfl⟩

@[simp] theorem State.hostErr_sameStores (s : State) (sh : Shard) (port : Nat) : s.SameStores (s.hostErr sh port) := ⟨rfl, rfl, rfl, rfl⟩

@[simp] theorem State.flushedOut_sameStores (s : State) (n : Nat) (c : Core) (sh : Shard) (scope : Nat) :
    s.SameStores (s.flushedOut n c sh scope) := by simp [State.flushedOut]

@[simp] theorem State.land_sameStores (s : State) (n : Nat) (σ : Strm) (idx : Nat) : s.SameStores (s.land n σ idx) := ⟨rfl, rfl, rfl, rfl⟩

@[simp] theorem State.returned_sameStores (s : State) (n : Nat) (f : Access) (v : Word) (line : List Byte) :
    s.SameStores (s.returned n f v line) := ⟨rfl, rfl, rfl, rfl⟩

@[simp] theorem State.arriveA_sameStores (s : State) (n : Nat) (idx : Nat) (f : Access) : s.SameStores (s.arriveA n idx f) := by simp [State.arriveA]

@[simp] theorem State.afterStore_sameStores (s : State) (n : Nat) (σ : Strm) (f : Access) : s.SameStores (s.afterStore n σ f) := by simp [State.afterStore]

@[simp] theorem State.poisonTarget_sameStores (s : State) (t : Target) : s.SameStores (s.poisonTarget t) := by
  cases t <;> exact ⟨rfl, rfl, rfl, rfl⟩

@[simp] theorem State.dropStray_sameStores (s : State) (idx : Nat) : s.SameStores (s.dropStray idx) := ⟨rfl, rfl, rfl, rfl⟩

@[simp] theorem State.walkFailed_sameStores (s : State) (m : Miss) (poisoned : Bool) : s.SameStores (s.walkFailed m poisoned) := by simp [State.walkFailed]

@[simp] theorem State.chargeWalk_sameStores (s : State) (l : List WalkEntry) : s.SameStores (s.chargeWalk l) := by simp [State.chargeWalk]

@[simp] theorem State.endBeats_sameStores (s : State) (n : Nat) (b : Beat) : s.SameStores (s.endBeats n b) := by simp [State.endBeats]

@[simp] theorem State.nextBeat_sameStores (s : State) (n : Nat) (b : Beat) : s.SameStores (s.nextBeat n b) := by simp [State.nextBeat]

@[simp] theorem State.arrived_sameStores (s : State) (n : Nat) (f : Access) (bs : List Byte) : s.SameStores (s.arrived n f bs) := ⟨rfl, rfl, rfl, rfl⟩

@[simp] theorem State.storeA_stored {s : State} (h : s.Stored) (n : Nat) (c : Core) (sh : Shard) (r : Req) (t : Target) (bs : List Byte) :
    (s.storeA n c sh r t bs).Stored := by simp [State.storeA, h]

theorem State.writeRowPiece_sameStores {s u : State} {sh : Shard} {key : Nat} {twin : Bool} {at_ : Nat} {bs : List Byte} (hu : s.writeRowPiece sh key twin at_ bs = some u) :
    s.SameStores u := by
  unfold State.writeRowPiece at hu
  split at hu
  · cases hu; exact ⟨rfl, rfl, rfl, rfl⟩
  · dsimp only at hu
    split_ifs at hu <;> cases hu <;> exact ⟨rfl, rfl, rfl, rfl⟩

theorem State.mcastStores_stored (sh : Shard) (l : List (Nat × Nat × List Byte)) {s : State} (h : s.Stored) : (s.mcastStores sh l).Stored := by
  induction l generalizing s with
  | nil => exact h
  | cons x l ih =>
    obtain ⟨k, o, bs⟩ := x
    unfold State.mcastStores
    refine ih ?_
    split <;> simp [h]

/-! ### Matrix and A-stream words -/

@[simp] theorem State.finishM_stored {s : State} (h : s.Stored) (n : Nat) (sh : Shard) (c : Core) (x : MCmd) : (s.finishM n sh c x).Stored := by
  unfold State.finishM
  dsimp only
  split_ifs <;> simp [h]

@[simp] theorem State.sendTokens_sameStores (s : State) (n : Nat) : s.SameStores (s.sendTokens n) := by
  unfold State.sendTokens
  split <;> simp

theorem State.drainM_stored (n : Nat) (sh : Shard) (fuel : Nat) {s : State} (h : s.Stored) : (s.drainM n sh fuel).Stored := by
  induction fuel generalizing s with
  | zero => exact h
  | succ fuel ih =>
    unfold State.drainM
    split
    · exact h
    · split
      · exact h
      · exact ih (by simp [h])

/-! ### Records and versions -/

@[simp] theorem State.cancelRebuild_sameStores (s : State) (d k : Nat) : s.SameStores (s.cancelRebuild d k) := by
  refine foldl_sameStores (fun u e => ?_) _ _
  split
  · split
    · dsimp only
      split <;> simp
    · simp
  · simp

@[simp] theorem State.freeRecord_sameStores (s : State) (d k : Nat) : s.SameStores (s.freeRecord d k) := by simp [State.freeRecord]

theorem State.dropUsersWith_sameStores {release : State → Nat → Nat → State} (hrelease : ∀ s d k, State.SameStores s (release s d k)) (l : List Word) (s : State) :
    s.SameStores (s.dropUsersWith release l) := by
  induction l generalizing s with
  | nil => simp [State.dropUsersWith]
  | cons x l ih =>
    unfold State.dropUsersWith
    refine State.SameStores.trans ?_ (ih _)
    split
    · exact State.SameStores.trans (by simp) (hrelease _ _ _)
    · simp

theorem State.releaseRec_sameStores (fuel : Nat) (s : State) (d k : Nat) : s.SameStores (State.releaseRec fuel s d k) := by
  induction fuel generalizing s d k with
  | zero => exact ⟨rfl, rfl, rfl, rfl⟩
  | succ fuel ih =>
    unfold State.releaseRec
    split
    · exact ⟨rfl, rfl, rfl, rfl⟩
    next r _ =>
      split
      · have hins := State.dropUsersWith_sameStores ih r.ins (s.updRecord d k fun x => { x with ins := [], nin := 0 })
        simp [hins]
      · exact ⟨rfl, rfl, rfl, rfl⟩

@[simp] theorem State.release_sameStores (s : State) (d k : Nat) : s.SameStores (s.release d k) := State.releaseRec_sameStores _ _ _ _

@[simp] theorem State.dropUsers_sameStores (s : State) (hs : List Word) :
    s.SameStores (s.dropUsers hs) := State.dropUsersWith_sameStores State.release_sameStores _ _

@[simp] theorem State.trim_sameStores (s : State) (d k : Nat) : s.SameStores (s.trim d k) := by
  unfold State.trim
  split <;> simp

@[simp] theorem State.replicaDone_sameStores (s : State) (d k target : Nat) : s.SameStores (s.replicaDone d k target) := by
  unfold State.replicaDone
  split <;> simp

@[simp] theorem State.startReplicaTo_sameStores (s : State) (d k target : Nat) : s.SameStores (s.startReplicaTo d k target) := by
  unfold State.startReplicaTo
  split <;> simp

@[simp] theorem State.startReplica_sameStores (s : State) (d k : Nat) : s.SameStores (s.startReplica d k) := by simp [State.startReplica]

@[simp] theorem State.parkDone_sameStores (s : State) (key d k : Nat) (win : Word) (plen : Nat) (nonce : BitVec 32) (keyid : BitVec 8) :
    s.SameStores (s.parkDone key d k win plen nonce keyid) := by simp [State.parkDone]

@[simp] theorem State.dropVersion_sameStores (s : State) (key d k : Nat) : s.SameStores (s.dropVersion key d k) := by simp [State.dropVersion]

@[simp] theorem State.chargeRows_sameStores (s : State) (places : List Nat) (act : Nat) : s.SameStores (s.chargeRows places act) := by simp [State.chargeRows]

@[simp] theorem State.chargeVersion_sameStores (s : State) (key : Nat) (v : Version) (act : Nat) :
    s.SameStores (s.chargeVersion key v act) := by simp [State.chargeVersion]

@[simp] theorem State.chargeBetween_sameStores (s : State) (key : Nat) (v : Version) (other act : Nat) :
    s.SameStores (s.chargeBetween key v other act) := by simp [State.chargeBetween]

@[simp] theorem State.chargeCopy_sameStores (s : State) (key : Nat) (v : Version) (target : Nat) :
    s.SameStores (s.chargeCopy key v target) := by simp [State.chargeCopy]

@[simp] theorem State.tbWrite_stored {s : State} (h : s.Stored) (t : Target) (old new : Nat) (knows : Map Nat) :
    (s.tbWrite t old new knows).Stored := by simp [State.tbWrite, h]

@[simp] theorem State.tbSubtract_stored {s : State} (h : s.Stored) (n tb units : Nat) (knows : Map Nat) :
    (s.tbSubtract n tb units knows).Stored := by simp [State.tbSubtract, h]

/-! ### X commands -/

@[simp] theorem State.chargePiece_sameStores (s : State) (n : Nat) (t : Target) : s.SameStores (s.chargePiece n t) := by
  cases t <;> simp [State.chargePiece]

@[simp] theorem State.engineNote_sameStores (s : State) (n : Nat) (sh : Shard) (va : Word) (len : Nat) : s.SameStores (s.engineNote n sh va len) := by
  unfold State.engineNote
  split
  · dsimp only
    split <;> simp
  · simp

@[simp] theorem State.sendX_sameStores (s : State) (n : Nat) (sh : Shard) (idx port a : Nat) (va : Word) (len : Nat) (bs : Option (List Byte)) :
    s.SameStores (s.sendX n sh idx port a va len bs) := ⟨rfl, rfl, rfl, rfl⟩

@[simp] theorem State.engineWrite_stored {s : State} (h : s.Stored) (n : Nat) (sh : Shard) (idx : Nat) (va : Word) (bs : List Byte) :
    (s.engineWrite n sh idx va bs).1.Stored := by
  unfold State.engineWrite
  split
  · exact h
  · simp [h]
  · split <;> simp [h]
  · split
    · exact h
    · split <;> simp [h]

@[simp] theorem State.engineNotes_sameStores (s : State) (n : Nat) (sh : Shard) (segs : List (Word × Nat)) :
    s.SameStores (s.engineNotes n sh segs) := by simp [State.engineNotes]

theorem State.engineWrites_stored (n : Nat) (sh : Shard) (idx : Nat) (segs : List (Word × Nat)) (bs : List Byte) {s : State} (h : s.Stored) :
    (s.engineWrites n sh idx segs bs).1.Stored := by
  induction segs generalizing s bs with
  | nil => exact h
  | cons p segs ih =>
    obtain ⟨va, len⟩ := p
    exact ih _ (s.engineWrite_stored h n sh idx va _)

@[simp] theorem State.unpoison_sameStores (s : State) (t : Target) : s.SameStores (s.unpoison t) := by
  cases t <;> simp [State.unpoison]

@[simp] theorem State.coverLines_sameStores (s : State) (n : Nat) (sh : Shard) (segs : List (Word × Nat)) : s.SameStores (s.coverLines n sh segs) := by
  refine foldl_sameStores (fun u p => ?_) _ _
  dsimp only
  split
  · split <;> simp
  · simp

@[simp] theorem State.subtractX_stored {s : State} (h : s.Stored) (n : Nat) (sh : Shard) (x : XCmd) (units : Nat) : (s.subtractX n sh x units).Stored := by
  have hsub : ((s.tbSubtract n x.tb units sh.release).tickClock n).Stored := by simp [h]
  unfold State.subtractX
  generalize (s.tbSubtract n x.tb units sh.release).tickClock n = t at hsub
  dsimp only
  split_ifs
  · exact (t.updCore_sameStores n _).stored hsub
  · exact hsub
  · exact h

@[simp] theorem State.completeX_stored {s : State} (h : s.Stored) (n : Nat) (sh : Shard) (idx : Nat) (x : XCmd) (written units : Nat) (status : BitVec 8) :
    (s.completeX n sh idx x written units status).Stored := by
  unfold State.completeX
  (repeat' split) <;> simp [h]

@[simp] theorem State.xEnter_sameStores (s : State) (n : Nat) (sh : Shard) (op : BitVec 8) (ra rc : Word) (status : Option (BitVec 8)) :
    s.SameStores (s.xEnter n sh op ra rc status) := by
  unfold State.xEnter
  split <;> simp

@[simp] theorem State.endX_stored {s : State} (h : s.Stored) (n : Nat) (sh : Shard) (idx : Nat) (x : XCmd) (written : Nat) (status : BitVec 8) :
    (s.endX n sh idx x written status).Stored := by
  unfold State.endX
  split <;> simp [h]

@[simp] theorem State.askedFor_sameStores (s : State) (sh : Shard) (x : XCmd) : s.SameStores (s.askedFor sh x) := by
  unfold State.askedFor
  (repeat' split) <;> simp

theorem State.startX_sameStores (s : State) (sh : Shard) (x : XCmd) : s.SameStores (s.startX sh x).1 := by
  unfold State.startX
  dsimp only
  by_cases hstatus : x.status.isSome
  · rw [if_pos hstatus]
    exact ⟨rfl, rfl, rfl, rfl⟩
  rw [if_neg hstatus]
  by_cases hcopy : x.op = opCopy
  · rw [if_pos hcopy]
    split <;> exact ⟨rfl, rfl, rfl, rfl⟩
  rw [if_neg hcopy]
  by_cases hlines : x.op = opTseal ∧ x.cb
  · rw [if_pos hlines]
    repeat' split
    all_goals exact ⟨rfl, rfl, rfl, rfl⟩
  rw [if_neg hlines]
  repeat' split
  any_goals exact ⟨rfl, rfl, rfl, rfl⟩
  all_goals simp

@[simp] theorem State.sendNeeds_sameStores (s : State) (n : Nat) (sh : Shard) (idx : Nat) (needs : List (Word × Nat × Nat × Nat)) :
    s.SameStores (s.sendNeeds n sh idx needs) := by simp [State.sendNeeds]

theorem State.copyChunk_stored {s : State} (h : s.Stored) (n : Nat) (sh : Shard) (idx : Nat) (msgs : List XMsg) (p : Packet) (lo m : Nat) :
    (s.copyChunk n sh idx msgs p lo m).1.Stored := by
  unfold State.copyChunk
  dsimp only
  split
  · exact h
  · exact h
  · split
    · exact h
    · exact h
    · split
      · simp [h]
      · have hwritten := State.engineWrites_stored n sh idx
        split <;> simp [h, hwritten]

theorem State.copyChunks_stored (n : Nat) (sh : Shard) (idx : Nat) (msgs : List XMsg) (p : Packet) (fuel lo m : Nat) {s : State} (h : s.Stored) :
    (s.copyChunks n sh idx msgs p fuel lo m).1.Stored := by
  induction fuel generalizing s lo m with
  | zero => exact h
  | succ fuel ih =>
    unfold State.copyChunks
    split
    · exact h
    · exact ih _ _ (State.copyChunk_stored h n sh idx msgs p lo _)

@[simp] theorem State.setX_sameStores (s : State) (n idx : Nat) (x : XCmd) : s.SameStores (s.setX n idx x) := ⟨rfl, rfl, rfl, rfl⟩

@[simp] theorem State.groupEnd_stored {s : State} (h : s.Stored) (n : Nat) (sh : Shard) (idx : Nat) (x : XCmd) (p : Packet) :
    (s.groupEnd n sh idx x p).Stored := by simp [State.groupEnd, h]

@[simp] theorem State.copyDone_stored {s : State} (h : s.Stored) (n : Nat) (sh : Shard) (idx : Nat) (written : Nat) (e : Option (BitVec 8 × Word)) :
    (s.copyDone n sh idx written e).Stored := by
  unfold State.copyDone
  split <;> simp [h]

theorem loadVersion_stored {s : State} (h : s.Stored) (n : Nat) (sh : Shard) (idx : Nat) (x : XCmd) (v : Version) : (loadVersion s n sh idx x v).Stored := by
  unfold loadVersion
  dsimp only
  split
  · simp [h]
  · split
    · simp [h]
    · exact State.endX_stored (foldl_stored (fun u k hu => by simp [hu]) _ h) _ _ _ _ _ _

@[simp] theorem State.storeVersion_sameStores (s : State) (n : Nat) (sh : Shard) (t : Tensor) (r : Ref) (img : List Byte) (lost : Bool) :
    s.SameStores (s.storeVersion n sh t r img lost).1 := by
  unfold State.storeVersion
  dsimp only
  (repeat' split) <;> simp

@[simp] theorem storeImage_stored {s : State} (h : s.Stored) (n : Nat) (sh : Shard) (idx : Nat) (x : XCmd) : (storeImage s n sh idx x).Stored := by
  unfold storeImage
  dsimp only
  (repeat' split) <;> simp [h]

@[simp] theorem requantise_stored {s : State} (h : s.Stored) (n : Nat) (sh : Shard) (idx : Nat) (x : XCmd) (v : Version) :
    (requantise s n sh idx x v).Stored := by
  unfold requantise
  dsimp only
  (repeat' split) <;> simp [h]

@[simp] theorem sealLines_stored {s : State} (h : s.Stored) (n : Nat) (sh : Shard) (idx : Nat) (x : XCmd) : (sealLines s n sh idx x).Stored := by
  unfold sealLines
  split <;> simp [h]

theorem parkVersion_stored {s : State} (h : s.Stored) (n : Nat) (sh : Shard) (idx : Nat) (x : XCmd) (key : Nat) (v : Version) :
    (parkVersion s n sh idx x key v).Stored := by
  unfold parkVersion
  dsimp only
  split
  · simp [h]
  · simp [h]
  · simp [h]
  · split
    · simp [h]
    · split
      · simp [h]
      · split
        next u hu =>
          have hwritten := State.writeRange_stored h hu
          simp [hwritten]
        next => simp [h]

/-! ### Parked shards -/

@[simp] theorem State.takeSlot_sameStores (s : State) (ctx slot : Nat) : s.SameStores (s.takeSlot ctx slot) := ⟨rfl, rfl, rfl, rfl⟩

@[simp] theorem State.giveSlot_sameStores (s : State) (ctx slot : Nat) : s.SameStores (s.giveSlot ctx slot) := ⟨rfl, rfl, rfl, rfl⟩

@[simp] theorem State.chargeParts_sameStores (s : State) (die : Nat) (ps : List (Target × Nat)) :
    s.SameStores (s.chargeParts die ps) := (s.chargeParts_onlyPorts die ps).sameStores

theorem State.writeParts_stored (die ctx base : Nat) (l : List (Nat × List Byte)) {s u : State} (h : s.Stored) (hu : s.writeParts die ctx base l = some u) :
    u.Stored := by
  induction l generalizing s with
  | nil => cases hu; exact h
  | cons p l ih =>
    unfold State.writeParts at hu
    split at hu
    · split at hu
      · cases hu
      · obtain ⟨t, ht, hu⟩ := Option.bind_eq_some_iff.mp hu
        exact ih (by simp [State.writeRange_stored h ht]) hu
    · cases hu

@[simp] theorem State.unbind_sameStores (s : State) (p : Nat × Nat → Bool) : s.SameStores (s.unbind p) := ⟨rfl, rfl, rfl, rfl⟩

@[simp] theorem State.restartShard_sameStores (s : State) (sh : Shard) : s.SameStores (s.restartShard sh) := by simp [State.restartShard]

@[simp] theorem State.discard_sameStores (s : State) (n : Nat) (sh : Shard) : s.SameStores (s.discard n sh) := by simp [State.discard]

@[simp] theorem State.failTask3_sameStores (s : State) (sh : Shard) : s.SameStores (s.failTask3 sh) := by simp [State.failTask3]

@[simp] theorem State.saveShard_stored {s : State} (h : s.Stored) (n : Nat) (sh0 : Shard) (slot : Nat) (trapAt : Option Recorded) (debug needs had : Bool) :
    (s.saveShard n sh0 slot trapAt debug needs had).Stored := by
  unfold State.saveShard
  dsimp only
  have hdrained := State.drainM_stored n sh0 ((s.core? n).elim 0 fun c => c.mqueue.length) h
  generalize s.drainM n sh0 ((s.core? n).elim 0 fun c => c.mqueue.length) = t at hdrained
  split
  · simp [hdrained]
  · split
    · simp [hdrained]
    · split
      · split <;> simp [hdrained]
      next u hu =>
        have hwritten := State.writeParts_stored _ _ _ _ (by simp [hdrained]) hu
        simp [hwritten]

@[simp] theorem State.park_stored {s : State} (h : s.Stored) (n slot : Nat) (debug needs : Bool) : (s.park n slot debug needs).Stored := by
  unfold State.park
  dsimp only
  (repeat' split) <;> simp [h]

@[simp] theorem State.finishResume_stored {s : State} (h : s.Stored) (n : Nat) : (s.finishResume n).Stored := by
  unfold State.finishResume
  split
  · exact h
  · split
    · dsimp only
      split
      · exact h
      · split
        · simp [h]
        · split
          · simp [h]
          · split
            · simp [h]
            · split <;> simp [h]
    · exact h

@[simp] theorem State.resume_stored {s : State} (h : s.Stored) (key : Nat) (p : Parked) (n : Nat) : (s.resume key p n).Stored := by
  unfold State.resume
  dsimp only
  split
  · split <;> simp [h]
  · split
    · simp [h]
    · refine State.finishResume_stored ?_ n
      refine State.SameStores.stored (s := List.foldl _ _ _) ⟨rfl, rfl, rfl, rfl⟩ ?_
      refine (foldl_sameStores (fun u r => ?_) _ _).stored ?_
      · split <;> simp
      · split <;> simp [h]

@[simp] theorem State.discardParked_sameStores (s : State) (key : Nat) (p : Parked) : s.SameStores (s.discardParked key p) := by
  simp [State.discardParked]

/-! ### Pools -/

@[simp] theorem State.reclaim_sameStores (s : State) : s.SameStores s.reclaim := by simp [State.reclaim]

/-! ### Seals and completions of tasks -/

@[simp] theorem State.addUsers_sameStores (s : State) (hs : List Word) : s.SameStores (s.addUsers hs) := foldl_sameStores (fun u x => by split <;> simp) _ _

@[simp] theorem State.retain_sameStores (s : State) (ctx : Nat) : s.SameStores (s.retain ctx) :=
  foldl_sameStores (fun u a => foldl_sameStores (fun v e => by split <;> simp) _ _) _ _

@[simp] theorem State.thinOut_sameStores (s : State) (d : Nat) : s.SameStores (s.thinOut d) := by
  unfold State.thinOut
  (repeat' split) <;> simp

@[simp] theorem State.sealVersion_sameStores (s : State) (key : Nat) (v : Version) (die idx : Nat) (t : Option Task) (outix : Nat) (root impure replica : Bool)
    (harvest : Option (Nat × Nat × BitVec 64 × List Word)) (knows : Map Nat) : s.SameStores (s.sealVersion key v die idx t outix root impure replica harvest knows) := by
  simp [State.sealVersion]

@[simp] theorem State.resealVersion_sameStores (s : State) (key d k : Nat) : s.SameStores (s.resealVersion key d k) := by simp [State.resealVersion]

@[simp] theorem State.versionFault_stored {s : State} (h : s.Stored) (ctx cause : Nat) (taskId : Word) (tile : BitVec 128) (tval : Word) :
    (s.versionFault ctx cause taskId tile tval).Stored := by simp [State.versionFault, h]

@[simp] theorem State.loseTask_sameStores (s : State) (task : Nat) : s.SameStores (s.loseTask task) := by simp [State.loseTask]

@[simp] theorem State.failReaders_sameStores (s : State) (key : Nat) (status : BitVec 8) : s.SameStores (s.failReaders key status) := ⟨rfl, rfl, rfl, rfl⟩

@[simp] theorem State.destroy_sameStores (s : State) (key : Nat) (pieces : BitVec 66) : s.SameStores (s.destroy key pieces) := by
  unfold State.destroy
  dsimp only
  (repeat' split) <;> simp

@[simp] theorem State.failTasks_sameStores (s : State) (v : Version) : s.SameStores (s.failTasks v) := ⟨rfl, rfl, rfl, rfl⟩

@[simp] theorem State.unrecoverable_stored {s : State} (h : s.Stored) (key d k : Nat) : (s.unrecoverable key d k).Stored := by
  unfold State.unrecoverable
  split <;> simp [h]

@[simp] theorem State.zeroFill_stored {s : State} (h : s.Stored) (key d k : Nat) : (s.zeroFill key d k).Stored := by
  unfold State.zeroFill
  split <;> simp [h]

@[simp] theorem State.restoreFromReplica_sameStores (s : State) (key d k : Nat) : s.SameStores (s.restoreFromReplica key d k) := by
  unfold State.restoreFromReplica
  split <;> simp

/-! ### Errors -/

@[simp] theorem State.poisonLines_sameStores (s : State) (first n : Nat) : s.SameStores (s.poisonLines first n) := ⟨rfl, rfl, rfl, rfl⟩

@[simp] theorem State.loseBeats_stored {s : State} (h : s.Stored) (p : HoldRow → Bool) : (s.loseBeats p).Stored := by
  refine foldl_stored (fun u e hu => ?_) _ h
  split <;> simp [hu]

@[simp] theorem State.losePiece_stored {s : State} (h : s.Stored) (key b : Nat) : (s.losePiece key b).Stored := by
  have hbeats := State.loseBeats_stored h
  simp [State.losePiece, hbeats]

@[simp] theorem State.loseRow_stored {s : State} (h : s.Stored) (row : HoldRow) : (s.loseRow row).Stored := by
  unfold State.loseRow
  split <;> simp [h]

@[simp] theorem State.loseLine_stored {s : State} (h : s.Stored) (pa : Nat) : (s.loseLine pa).Stored := by simp [State.loseLine, h]

@[simp] theorem State.updPort_sameStores (s : State) (p : Nat) (f : Port → Port) : s.SameStores (s.updPort p f) := ⟨rfl, rfl, rfl, rfl⟩

/-! ### Rows that open -/

@[simp] theorem State.loseReplica_sameStores (s : State) (d k : Nat) : s.SameStores (s.loseReplica d k) := by
  unfold State.loseReplica
  split <;> simp

theorem State.loseParked_sameStores {s u : State} {key : Nat} (hu : s.loseParked key = some u) : s.SameStores u := by
  unfold State.loseParked at hu
  split at hu
  · split_ifs at hu
    cases hu
    simp
  · cases hu

/-! ### Completions of tasks -/

@[simp] theorem State.updQueue_sameStores (s : State) (ctx q : Nat) (f : HostQueue → HostQueue) : s.SameStores (s.updQueue ctx q f) := ⟨rfl, rfl, rfl, rfl⟩

@[simp] theorem State.writeSignal_stored {s : State} (h : s.Stored) (ctx : Nat) (a : Word) : (s.writeSignal ctx a).Stored := by
  unfold State.writeSignal
  split
  · exact h
  · cases hu : s.writeRange ctx a.toNat (toBytes 8 1) with
    | none => exact h
    | some u => exact State.writeRange_stored h hu

@[simp] theorem State.packetWork_stored {s : State} (h : s.Stored) (ctx q i : Nat) : (s.packetWork ctx q i).Stored := by
  unfold State.packetWork
  split
  · exact h
  · exact foldl_stored (fun u m hu => by simp [hu]) _ (foldl_stored (fun u e hu => by simp [hu]) _ (by simp [h]))

@[simp] theorem State.promote_sameStores (s : State) (die : Nat) : s.SameStores (s.promote die) := by
  unfold State.promote
  (repeat' split) <;> simp

@[simp] theorem State.bookkeepingFault_stored {s : State} (h : s.Stored) (t : Task) (cause : Nat) (tval : Word) :
    (s.bookkeepingFault t cause tval).Stored := by simp [State.bookkeepingFault, h]

@[simp] theorem State.writeCompletion_stored {s : State} (h : s.Stored) (t : Task) (status : Nat) (core : Option Nat) (info : Word) :
    (s.writeCompletion t status core info).Stored := by
  unfold State.writeCompletion
  split
  · exact h
  · split
    next u hu =>
      split at hu
      · cases hu
      · exact State.writeRange_stored h hu
    next => simp [h]

@[simp] theorem State.release1_sameStores (s : State) (t : Task) (status : Nat) (addr : Word) : s.SameStores (s.release1 t status addr) := by
  unfold State.release1
  split <;> simp

@[simp] theorem State.releaseAll_stored {s : State} (h : s.Stored) (t : Task) (status : Nat) : (s.releaseAll t status).Stored := by
  unfold State.releaseAll
  split <;> simp [h]

@[simp] theorem State.dropOutputs_sameStores (s : State) (key : Nat) : s.SameStores (s.dropOutputs key) := ⟨rfl, rfl, rfl, rfl⟩

@[simp] theorem State.completeTask_stored {s : State} (h : s.Stored) (key : Nat) (t : Task) (status : Nat) (core : Option Nat) (info : Word) :
    (s.completeTask key t status core info).Stored := by
  unfold State.completeTask
  dsimp only
  have hdropped : (if status = 0 then s else s.dropOutputs key).Stored := by split <;> simp [h]
  generalize (if status = 0 then s else s.dropOutputs key) = u at hdropped ⊢
  have hreleased : ((u.writeCompletion t status core info).releaseAll t status).Stored := by simp [hdropped]
  generalize (u.writeCompletion t status core info).releaseAll t status = v at hreleased ⊢
  have hraised : (if t.flags.getLsbD 0 then v.msixUp ((Map.look v.ctxs t.ctx).elim 0 Ctx.owner) (2 + t.ctx % 62) else v).Stored := by split <;> simp [hreleased]
  generalize (if t.flags.getLsbD 0 then v.msixUp ((Map.look v.ctxs t.ctx).elim 0 Ctx.owner) (2 + t.ctx % 62) else v) = w at hraised ⊢
  split <;> simp [hraised]

/-! ### Harvest groups -/

@[simp] theorem State.setGroup_sameStores (s : State) (k : Nat) (g : Group) : s.SameStores (s.setGroup k g) := ⟨rfl, rfl, rfl, rfl⟩

@[simp] theorem State.latchGroup_sameStores (s : State) (g : Group) : s.SameStores (s.latchGroup g) := ⟨rfl, rfl, rfl, rfl⟩

@[simp] theorem State.mirrorGroup_sameStores (s : State) (k : Nat) : s.SameStores (s.mirrorGroup k) := by
  unfold State.mirrorGroup
  cases Map.look s.groups k <;> simp

theorem State.evaluate_sameStores (k : Nat) (lost : Bool) (fuel : Nat) (s : State) : s.SameStores (s.evaluate k lost fuel) := by
  induction fuel generalizing s with
  | zero => simp [State.evaluate]
  | succ fuel ih =>
    unfold State.evaluate
    split
    · simp
    · dsimp only
      split
      · simp
      · exact State.SameStores.trans (by simp) (ih _)

@[simp] theorem State.stampGroup_sameStores (s : State) (k cls m : Nat) : s.SameStores (s.stampGroup k cls m) := ⟨rfl, rfl, rfl, rfl⟩

@[simp] theorem State.quorum_sameStores (s : State) (k : Nat) (lost : Bool) : s.SameStores (s.quorum k lost) := State.evaluate_sameStores _ _ _ _

theorem State.sealContribution_sameStores {s u : State} {g : Group} {x : Contribution} {c : BitVec 32} {img : List Byte} (hu : s.sealContribution g x c img = .inl u) :
    s.SameStores u := by
  unfold State.sealContribution at hu
  dsimp only at hu
  split at hu
  · split at hu
    · cases hu
    · split_ifs at hu
      split at hu
      · cases hu
      · cases hu
        simp
  · cases hu

@[simp] theorem State.roundState_sameStores (s : State) (k round : Nat) (st : RoundState) : s.SameStores (s.roundState k round st) := ⟨rfl, rfl, rfl, rfl⟩

@[simp] theorem State.failRound_sameStores (s : State) (k : Nat) (g : Group) (round : Nat) : s.SameStores (s.failRound k g round) := ⟨rfl, rfl, rfl, rfl⟩

@[simp] theorem State.loseMember_sameStores (s : State) (k m : Nat) : s.SameStores (s.loseMember k m) := by
  unfold State.loseMember
  split <;> simp

@[simp] theorem State.loseMembers_sameStores (s : State) (p : Member → Bool) : s.SameStores (s.loseMembers p) := by simp [State.loseMembers]

@[simp] theorem State.sendMsg_sameStores (s : State) (port typ : Nat) (ctx : BitVec 8) (tag : BitVec 32) (addr arg : Nat) (payload : List Byte) :
    s.SameStores (s.sendMsg port typ ctx tag addr arg payload) := ⟨rfl, rfl, rfl, rfl⟩

@[simp] theorem State.sendResults_sameStores (s : State) (k round : Nat) (img : List Byte) : s.SameStores (s.sendResults k round img) := by
  unfold State.sendResults
  split <;> simp

@[simp] theorem State.install_sameStores (s : State) (ctx k : Nat) (bs : List Byte) : s.SameStores (s.install ctx k bs) := ⟨rfl, rfl, rfl, rfl⟩

theorem State.joined_sameStores {s u : State} {sh : Shard} {bs : List Byte} (hu : s.joined sh bs = .inl u) : s.SameStores u := by
  unfold State.joined at hu
  dsimp only at hu
  split at hu <;> split_ifs at hu <;> cases hu
  · exact ⟨rfl, rfl, rfl, rfl⟩
  · simp

@[simp] theorem State.bindMember_sameStores (s : State) (sh : Shard) (k m : Nat) : s.SameStores (s.bindMember sh k m).1 := by
  unfold State.bindMember
  dsimp only
  (repeat' split) <;> simp

@[simp] theorem State.sendContribution_sameStores (s : State) (n : Nat) (sh : Shard) (rd : BitVec 6) (k : Nat) (g : Group) (m : Nat) (tag : BitVec 32) (img : List Byte) :
    s.SameStores (s.sendContribution n sh rd k g m tag img) := by simp [State.sendContribution]

@[simp] theorem State.recordWait_sameStores (s : State) (sh : Shard) (k : Nat) (r : BitVec 32) (x : Round) :
    s.SameStores (s.recordWait sh k r x) := ⟨rfl, rfl, rfl, rfl⟩

@[simp] theorem State.deliverWord_sameStores (s : State) (x : Contribution) (w : Word) : s.SameStores (s.deliverWord x w) := by
  unfold State.deliverWord
  split <;> simp

@[simp] theorem State.takeContribution_sameStores (s : State) (k idx : Nat) : s.SameStores (s.takeContribution k idx) := ⟨rfl, rfl, rfl, rfl⟩

@[simp] theorem State.placeResult_sameStores (s : State) (g : Group) (t : Tensor) (round : BitVec 32) (img : List Byte) (knows : Map Nat) :
    s.SameStores (s.placeResult g t round img knows).1 := by
  unfold State.placeResult
  dsimp only
  (repeat' split) <;> simp

@[simp] theorem State.chargeResult_sameStores (s : State) (key : Nat) : s.SameStores (s.chargeResult key) := by
  unfold State.chargeResult
  cases Map.look s.versions key <;> simp

/-! ### Lineage -/

@[simp] theorem State.acknowledge_sameStores (s : State) (idx : Nat) (q : Seal) : s.SameStores (s.acknowledge idx q) := by
  unfold State.acknowledge
  split <;> simp

theorem State.shortage_sameStores {s u : State} {die ctx : Nat} (hu : s.shortage die ctx = some u) : s.SameStores u := by
  unfold State.shortage at hu
  split_ifs at hu
  cases hu
  simp

theorem State.takeReport_sameStores {s u : State} {idx : Nat} {q : Seal} (hu : s.takeReport idx q = some u) : s.SameStores u := by
  unfold State.takeReport at hu
  dsimp only at hu
  split at hu
  · cases hu; simp
  · split at hu
    · cases hu
    · split at hu
      · split at hu <;> cases hu <;> simp
      · split at hu
        · split at hu
          · cases hu; simp
          · split at hu
            · exact State.shortage_sameStores hu
            · cases hu; simp
        · split at hu
          · cases hu; simp
          · split at hu
            · exact State.shortage_sameStores hu
            · split at hu
              · cases hu
              · cases hu; simp

@[simp] theorem State.mark_sameStores (s : State) (d k : Nat) : s.SameStores (s.mark d k) := ⟨rfl, rfl, rfl, rfl⟩

@[simp] theorem State.replicaFails_sameStores (s : State) (d k : Nat) : s.SameStores (s.replicaFails d k) := by simp [State.replicaFails]

@[simp] theorem State.fetchFails_stored {s : State} (h : s.Stored) (key d k : Nat) (r : Record) (status : BitVec 8) :
    (s.fetchFails key d k r status).Stored := by simp [State.fetchFails, h]

@[simp] theorem State.needAll_sameStores (s : State) (xs : List (Nat × Nat)) : s.SameStores (s.needAll xs) := by simp [State.needAll]

@[simp] theorem State.blankLost_sameStores (s : State) (key : Nat) : s.SameStores (s.blankLost key) := by
  unfold State.blankLost
  (repeat' split) <;> simp

theorem State.enqueueProducer_sameStores {s u : State} {r : Record} (hu : s.enqueueProducer r = some u) : s.SameStores u := by
  unfold State.enqueueProducer at hu
  dsimp only at hu
  split at hu
  · split_ifs at hu
    cases hu
    simp
  · cases hu
    simp

/-! ### Queues and pools -/

theorem State.consume_stored {s u : State} (h : s.Stored) {ctx : Nat} {x : HostQueue} {i : Nat} (hu : s.consume ctx x i = some u) : u.Stored := by
  obtain ⟨t, ht, hu⟩ := Option.bind_eq_some_iff.mp hu
  exact State.writeRange_stored (State.writeRange_stored h ht) hu

@[simp] theorem submitPacket_sameStores (s : State) (ctx q i : Nat) (p : List Byte) : s.SameStores (submitPacket s ctx q i p) := by simp [submitPacket]

@[simp] theorem State.doorbell_sameStores (s : State) (ctx q : Nat) : s.SameStores (s.doorbell ctx q) := by
  unfold State.doorbell
  split <;> simp

@[simp] theorem State.reportOutputs_stored {s : State} (h : s.Stored) (key : Nat) (t : Task) : (s.reportOutputs key t).Stored := by
  unfold State.reportOutputs
  refine foldl_stored (fun s e h => ?_) _ h
  (repeat' split) <;> simp [h]

/-! ### Losses and recovery -/

@[simp] theorem State.reportAer_sameStores (s : State) (port kind : Nat) : s.SameStores (s.reportAer port kind) := by simp [State.reportAer]

@[simp] theorem State.mitigateRow_sameStores (s : State) (place : Nat) : s.SameStores (s.mitigateRow place) := ⟨rfl, rfl, rfl, rfl⟩

@[simp] theorem State.dropEntry_sameStores (s : State) (n kind k : Nat) : s.SameStores (s.dropEntry n kind k) := by
  unfold State.dropEntry
  split <;> simp

theorem State.loseRecord_stored {s u : State} (h : s.Stored) {d k : Nat} (hu : s.loseRecord d k = some u) : u.Stored := by
  unfold State.loseRecord at hu
  split at hu
  · cases hu
    split <;> simp [h]
  · cases hu

theorem State.loseMirror_sameStores {s u : State} {d k : Nat} (hu : s.loseMirror d k = some u) : s.SameStores u := by
  unfold State.loseMirror at hu
  split_ifs at hu
  cases hu
  exact ⟨rfl, rfl, rfl, rfl⟩

theorem State.loseEntry_sameStores {s u : State} {key : Nat} (hu : s.loseEntry key = some u) : s.SameStores u := by
  unfold State.loseEntry at hu
  split_ifs at hu
  cases hu
  simp

theorem State.loseContribution_stored {s u : State} (h : s.Stored) {k idx : Nat} (hu : s.loseContribution k idx = some u) : u.Stored := by
  obtain ⟨g, -, hu⟩ := Option.bind_eq_some_iff.mp hu
  obtain ⟨x, -, rfl⟩ := Option.map_eq_some_iff.mp hu
  simp [h]

theorem State.strike_stored {s u : State} (h : s.Stored) {kind a b core cls : Nat} {loc : Word} (hu : s.strike kind a b core cls loc = some u) : u.Stored := by
  unfold State.strike at hu
  split at hu
  case h_3 =>
    split at hu
    · split_ifs at hu
      cases hu
      cases hp : s.loseParked a with
      | none => simp [h]
      | some t => exact (State.loseParked_sameStores hp).stored h
    · cases hu
  case h_9 => exact State.loseRecord_stored h hu
  case h_12 => exact (State.loseEntry_sameStores hu).stored h
  case h_13 => exact State.loseContribution_stored h hu
  case h_14 => exact (State.loseMirror_sameStores hu).stored h
  case h_17 => cases hu
  case h_1 | h_11 | h_15 =>
    cases hu
    simp [h]
  all_goals
    split_ifs at hu
    cases hu
    simp [h]

@[simp] theorem State.noteCrc_sameStores (s : State) (r : ErrRec) : s.SameStores (s.noteCrc r) := ⟨rfl, rfl, rfl, rfl⟩

@[simp] theorem State.quadOut_sameStores (s : State) (q : Nat) : s.SameStores (s.quadOut q) := by simp [State.quadOut]

@[simp] theorem State.loseShardsOn_stored {s : State} (h : s.Stored) (p : Nat → Bool) : (s.loseShardsOn p).Stored := by
  unfold State.loseShardsOn
  refine foldl_stored (fun s e h => ?_) _ h
  (repeat' split) <;> simp [h]

@[simp] theorem State.loseReplicasOn_sameStores (s : State) (d : Nat) : s.SameStores (s.loseReplicasOn d) := by simp [State.loseReplicasOn]

@[simp] theorem State.rehome_sameStores (s : State) (d b : Nat) (key : Nat) (v : Version) : s.SameStores (s.rehome d b key v) := by
  unfold State.rehome
  (repeat' split) <;> simp

@[simp] theorem State.loseRecords_stored {s : State} (h : s.Stored) (d : Nat) : (s.loseRecords d).Stored := foldl_stored (fun s e h => by simp [h]) _ h

@[simp] theorem State.moveWork_sameStores (s : State) (d b : Nat) : s.SameStores (s.moveWork d b) := ⟨rfl, rfl, rfl, rfl⟩

@[simp] theorem State.takeSeals_sameStores (s : State) (d : Nat) (now : Nat → Bool) : s.SameStores (s.takeSeals d now) := by
  refine foldl_sameStores (fun u q => ?_) _ _
  split
  next i _ =>
    cases hv : u.takeReport i q.1 with
    | none => exact ⟨rfl, rfl, rfl, rfl⟩
    | some v => exact State.takeReport_sameStores hv
  next => exact ⟨rfl, rfl, rfl, rfl⟩

@[simp] theorem State.loseDie_stored {s : State} (h : s.Stored) (d : Nat) : (s.loseDie d).Stored := by
  unfold State.loseDie
  dsimp only
  refine (State.reclaim_sameStores _).stored (foldl_stored (fun u key hu => ?_) _ ?_)
  · split <;> simp [hu]
  · refine (State.loseReplicasOn_sameStores _ _).stored ((State.moveWork_sameStores _ _ _).stored (State.ite_stored ?_ (State.loseRecords_stored (State.loseRecords_stored ?_ _) _)))
    · simp [h]
    · simp [h]

@[simp] theorem State.coresOut_sameStores (s : State) (lo n : Nat) : s.SameStores (s.coresOut lo n) := by
  unfold State.coresOut
  refine foldl_sameStores (fun s e => ?_) _ _
  (repeat' split) <;> simp

@[simp] theorem State.arrayOut_stored {s : State} (h : s.Stored) (arr : Nat) : (s.arrayOut arr).Stored := foldl_stored (fun s e h => by simp [h]) _ h

@[simp] theorem State.rerun_sameStores (s : State) (key : Nat) (t : Task) : s.SameStores (s.rerun key t) := ⟨rfl, rfl, rfl, rfl⟩

/-! ### Contexts and the device -/

@[simp] theorem State.raise0_sameStores (s : State) (port : Nat) : s.SameStores (s.raise0 port) := by simp [State.raise0]

@[simp] theorem State.toState_sameStores (s : State) (v : BitVec 4) : s.SameStores (s.toState v) := by simp [State.toState]

@[simp] theorem State.finishCommand_sameStores (s : State) (port : Nat) (status : Nat) :
    s.SameStores (s.finishCommand port status) := by simp [State.finishCommand]

@[simp] theorem State.updCtx_sameStores (s : State) (c : Nat) (f : Ctx → Ctx) : s.SameStores (s.updCtx c f) := ⟨rfl, rfl, rfl, rfl⟩

@[simp] theorem State.writeEntry_stored {s : State} (h : s.Stored) (c st owner : Nat) : (s.writeEntry c st owner).Stored := by simp [State.writeEntry, h]

theorem State.installCtx_stored {s u : State} (h : s.Stored) {c : Nat} {x : Ctx} (hu : s.installCtx c x = some u) : u.Stored := by
  unfold State.installCtx at hu
  dsimp only at hu
  split at hu
  · cases hu
    simp [h]
  · cases hu

@[simp] theorem State.clearCtx_sameStores (s : State) (c : Nat) : s.SameStores (s.clearCtx c) := ⟨rfl, rfl, rfl, rfl⟩

@[simp] theorem State.cancelTasks_stored {s : State} (h : s.Stored) (c : Nat) : (s.cancelTasks c).Stored := by
  refine foldl_stored (fun u e hu => ?_) _ h
  have hstop : (u.stopTask e.1).Stored := by simp [hu]
  dsimp only
  split
  · exact hstop
  · split
    · exact hstop
    · simp [hu]

@[simp] theorem State.refillAll_sameStores (s : State) : s.SameStores s.refillAll := foldl_sameStores (fun u d => by simp) _ _

@[simp] theorem State.unseal_sameStores (s : State) (p : Nat → Bool) : s.SameStores (s.unseal p) := by simp [State.unseal]

/-! ### Parked contexts and checkpoints -/

@[simp] theorem State.readPage_stored {s : State} (h : s.Stored) (c : Nat) {m : List Host.Cell} (hm : Memory.wf m = true) (va b off f : Nat) :
    (s.readPage c m va b off f).Stored := by
  simp [State.readPage, h, Memory.wf_copy _ _ _ hm]

theorem State.haltAll_sameStores {s u : State} {p : Shard → Bool} (hu : s.haltAll p = some u) : s.SameStores u := by
  unfold State.haltAll at hu
  split at hu
  · cases hu
  · cases hu
    exact foldl_sameStores (fun v e => by simp) _ _

@[simp] theorem State.cancelRebuilds_sameStores (s : State) (c : Nat) : s.SameStores (s.cancelRebuilds c) := by simp [State.cancelRebuilds]

theorem State.parkOut_stored {s u : State} (h : s.Stored) {c key d k : Nat} {v : Version} (hu : s.parkOut c key d k v = some u) : u.Stored := by
  unfold State.parkOut at hu
  split at hu
  · cases hu
  · split at hu
    · cases hu
    · dsimp only at hu
      split at hu
      · cases hu
      · split at hu
        · split at hu
          · cases hu
          · obtain ⟨t, ht, rfl⟩ := Option.map_eq_some_iff.mp hu
            simp [State.writeRange_stored h ht]
        · cases hu

@[simp] theorem State.parkVersions_stored {s : State} (h : s.Stored) (c : Nat) : (s.parkVersions c).Stored := by
  refine foldl_stored (fun u e hu => ?_) _ h
  split
  · exact hu
  next d k _ =>
    split
    next r _ =>
      split
      · exact hu
      · cases ho : u.parkOut c e.1 d k e.2 with
        | none => simp [hu]
        | some t => exact State.parkOut_stored hu ho
    next => exact hu

@[simp] theorem State.chargePages_sameStores (s : State) (pages : List (Nat × Nat)) : s.SameStores (s.chargePages pages) := by simp [State.chargePages]

@[simp] theorem State.stopCtx_stored {s : State} (h : s.Stored) (c owner : Nat) : (s.stopCtx c owner).Stored := by simp [State.stopCtx, h]

theorem State.reloadRecord_sameStores {s u : State} {c base key d k : Nat} {bs : List Byte} {own : BitVec 32} (hu : s.reloadRecord c base bs key own = some (u, d, k)) :
    s.SameStores u := by
  unfold State.reloadRecord at hu
  dsimp only at hu
  split at hu
  · cases hu
  · cases hu
    exact ⟨rfl, rfl, rfl, rfl⟩

theorem State.reloadRecords_sameStores {c base : Nat} {m : List Host.Cell} (l : List (Nat × Nat × Nat × BitVec 32)) {s u : State} {at_ : Nat} {places : List ((Nat × Nat) × (Nat × Nat))}
    (hu : s.reloadRecords c base m at_ l = some (u, places)) : s.SameStores u := by
  induction l generalizing s u at_ places with
  | nil => cases hu; exact ⟨rfl, rfl, rfl, rfl⟩
  | cons x l ih =>
    obtain ⟨d, k, key, own⟩ := x
    obtain ⟨⟨t, p⟩, ht, hu⟩ := Option.bind_eq_some_iff.mp hu
    obtain ⟨⟨v, q⟩, hv, heq⟩ := Option.map_eq_some_iff.mp hu
    cases heq
    exact (State.reloadRecord_sameStores ht).trans (ih hv)

@[simp] theorem State.rewriteHandles_sameStores (s : State) (c : Nat) (places : List ((Nat × Nat) × (Nat × Nat))) :
    s.SameStores (s.rewriteHandles c places) := by simp [State.rewriteHandles]

@[simp] theorem State.readmit_sameStores (s : State) (base c : Nat) (e : Nat × Task) (bs : List Byte) : s.SameStores (s.readmit base c e bs) := by
  unfold State.readmit
  refine State.SameStores.trans ?_ (foldl_sameStores (fun u r => ?_) _ _)
  · simp
  · split <;> simp

theorem State.reinstall_stored {s u : State} (h : s.Stored) {c p area : Nat} {x : Ctx} {known : Option Shelf} {frames : List SavedPage} {htab : List Byte} {placesAt : Nat}
    (hu : s.reinstall c p area x known frames htab placesAt = .inl u) : u.Stored := by
  unfold State.reinstall at hu
  dsimp only at hu
  have hpages : (frames.foldl (fun v f => v.readPage c (s.hostMem p) f.va f.bits f.off f.frame) s).Stored :=
    foldl_stored (fun v f hv => State.readPage_stored hv _ (hostMem_wf h p) _ _ _ _) _ h
  have hwritten := State.writeTarget_stored ((State.chargePages_sameStores _ (frames.map fun f => (f.frame, f.bits))).stored hpages) (.dram x.htab) htab
  split at hu
  · cases hu
  next v hv =>
    have hinstalled := State.installCtx_stored hwritten hv
    split_ifs at hu
    split at hu
    · cases hu
    next w places hw =>
      split_ifs at hu
      cases hu
      have hreloaded : w.Stored := (State.reloadRecords_sameStores _ hw).stored (by simp [hinstalled])
      refine State.SameStores.stored (s := List.foldl _ _ _) ⟨rfl, rfl, rfl, rfl⟩ ((foldl_sameStores (fun y e => by simp) _ _).stored ?_)
      simp [hreloaded]

theorem Memory.wf_foldl_setN (l : List (Nat × List Byte)) (a : Nat) {m : List Host.Cell} (h : Memory.wf m = true) :
    Memory.wf (l.foldl (fun m r => Memory.setN m (a + r.1 % 2 ^ 36) r.2) m) = true := by
  induction l generalizing m with
  | nil => exact h
  | cons r l ih => exact ih (Memory.wf_setN _ _ h)

@[simp] theorem State.streamOut_stored {s : State} (h : s.Stored) (area0 area1 : Nat) : (s.streamOut area0 area1).Stored := by
  refine foldl_stored (fun u d hu => ?_) _ h
  have himage := Memory.wf_copy (d * 2 ^ 36) (2 ^ 36) (ckptPlace area0 area1 d).2 hu.1 (hostMem_wf hu (ckptPlace area0 area1 d).1)
  have hset := setHostMem_stored hu (ckptPlace area0 area1 d).1 (Memory.wf_foldl_setN (u.highRuns d) (ckptPlace area0 area1 d).2 himage)
  exact (State.chargeHub_sameStores _ _ _ _).stored ((foldl_sameStores (fun v k => by simp) _ _).stored hset)

@[simp] theorem State.streamIn_stored {s : State} (h : s.Stored) (area0 area1 : Nat) : (s.streamIn area0 area1).Stored := by
  unfold State.streamIn
  refine State.SameStores.stored (s := List.foldl _ _ _) ⟨rfl, rfl, rfl, rfl⟩ (foldl_stored (fun u d hu => foldl_stored (fun w k hw => ?_) _ hu) _ h)
  simp [hw, Memory.wf_copy]

/-! ### Registers and boot -/

@[simp] theorem State.writeBoot_sameStores (s : State) (v : Word) : s.SameStores (s.writeBoot v) := by simp [State.writeBoot]

@[simp] theorem State.writeDev_sameStores (s : State) (off : Nat) (v : Word) : s.SameStores (s.writeDev off v) := by
  unfold State.writeDev
  split <;> simp

@[simp] theorem State.writeMail_sameStores (s : State) (port off : Nat) (v : Word) : s.SameStores (s.writeMail port off v) := by simp [State.writeMail]

@[simp] theorem State.writePool_sameStores (s : State) (d off : Nat) (v : Word) : s.SameStores (s.writePool d off v) := ⟨rfl, rfl, rfl, rfl⟩

@[simp] theorem State.writeCal_sameStores (s : State) (k off : Nat) (v : Word) : s.SameStores (s.writeCal k off v) := ⟨rfl, rfl, rfl, rfl⟩

@[simp] theorem State.writeBar0_stored {s : State} (h : s.Stored) (port off : Nat) (v : Word) (bs : List Byte) : (s.writeBar0 port off v bs).Stored := by
  unfold State.writeBar0
  split_ifs <;> simp [h, Memory.wf_setN]

@[simp] theorem State.pass_sameStores (s : State) (k : Nat) : s.SameStores (s.pass k) := by simp [State.pass]

@[simp] theorem State.startPlanes_sameStores (s : State) (dies : BitVec 8) (caps : List Byte) : s.SameStores (s.startPlanes dies caps) := ⟨rfl, rfl, rfl, rfl⟩

@[simp] theorem State.cutShort_stored {s : State} (h : s.Stored) (m : Mailbox) : (s.cutShort m).Stored := by
  unfold State.cutShort
  (repeat' split) <;> simp [h]

@[simp] theorem State.resetPlanes_sameStores (s : State) : s.SameStores s.resetPlanes := ⟨rfl, rfl, rfl, rfl⟩

/-! ### Hosts and peers -/

@[simp] theorem State.chargeBar_sameStores (s : State) (pa n : Nat) (opened : Bool) :
    s.SameStores (s.chargeBar pa n opened) := (s.chargeBar_onlyPorts pa n opened).sameStores

@[simp] theorem State.completes_sameStores (s : State) (status : Byte) (bs : List Byte) : s.SameStores (s.completes status bs) := ⟨rfl, rfl, rfl, rfl⟩

@[simp] theorem State.sealedWrite_stored {s : State} (h : s.Stored) (pa : Nat) : (s.sealedWrite pa).Stored := by
  unfold State.sealedWrite
  split <;> simp [h]

@[simp] theorem State.barWrite_stored {s : State} (h : s.Stored) (pa : Nat) (bs : List Byte) : (s.barWrite pa bs).Stored := by
  unfold State.barWrite
  refine foldl_stored (fun s e h => ?_) _ h
  (repeat' split) <;> simp [h]

theorem State.writeRoot_sameStores {s u : State} {port ctx : Nat} {ref : Ref} {img : List Byte} (hu : s.writeRoot port ctx ref img = some u) :
    s.SameStores u := by
  unfold State.writeRoot at hu
  split at hu
  · cases hu
  · split at hu
    · simp only [Option.ite_none_left_eq_some, Option.map_eq_some_iff] at hu
      obtain ⟨-, i, -, rfl⟩ := hu
      simp
    · cases hu

@[simp] theorem State.answerMsg_sameStores (s : State) (port typ : Nat) (h : Head) (arg : Nat) (bs : List Byte) :
    s.SameStores (s.answerMsg port typ h arg bs) := ⟨rfl, rfl, rfl, rfl⟩

@[simp] theorem State.replyAccess_stored {s : State} (h : s.Stored) (n : Nat) (sh : Shard) (σ : Strm) (idx : Nat) (f : Access) (r : Reply) :
    (s.replyAccess n sh σ idx f r).Stored := by
  unfold State.replyAccess
  (repeat' split) <;> simp [h]

@[simp] theorem State.replyContribution_sameStores (s : State) (x : Pending) (r : Reply) : s.SameStores (s.replyContribution x r) := by
  unfold State.replyContribution
  (repeat' split) <;> simp

@[simp] theorem State.answered_stored {s : State} (h : s.Stored) (x : Pending) (r : Reply) : (s.answered x r).Stored := by
  unfold State.answered
  dsimp only
  (repeat' split) <;> simp [h]

/-! ### Barriers and synchronisation -/

@[simp] theorem State.setBarrier_sameStores (s : State) (k b : Nat) (x : Barrier) : s.SameStores (s.setBarrier k b x) := ⟨rfl, rfl, rfl, rfl⟩

@[simp] theorem State.arrive_sameStores (s : State) (k b n : Nat) (sh : Shard) : s.SameStores (s.arrive k b n sh) := by simp [State.arrive]

@[simp] theorem State.waited_sameStores (s : State) (n : Nat) (sh : Shard) (x : Barrier) (p : Nat) : s.SameStores (s.waited n sh x p) := by simp [State.waited]

@[simp] theorem State.watchTb_sameStores (s : State) (sh : Shard) (t : Target) : s.SameStores (s.watchTb sh t) := by simp [State.watchTb]

@[simp] theorem State.tbDoneWord_stored {s : State} (h : s.Stored) (sh : Shard) (rd : BitVec 6) (t : Target) (old new : Nat) (knows : Map Nat) (v : Nat) :
    (s.tbDoneWord sh rd t old new knows v).Stored := by simp [State.tbDoneWord, h]

@[simp] theorem State.parkBehind_stored {s : State} (h : s.Stored) (n slot : Nat) (debug : Bool) :
    (s.parkBehind n slot debug).Stored := by simp [State.parkBehind, h]

@[simp] theorem State.grantLease_sameStores (s : State) (n : Nat) : s.SameStores (s.grantLease n) := ⟨rfl, rfl, rfl, rfl⟩

@[simp] theorem State.retire_sameStores (s : State) (n : Nat) (sh : Shard) : s.SameStores (s.retire n sh) := by simp [State.retire]

/-! ### Time -/

@[simp] theorem State.holding_sameStores (s : State) (n : Nat) (c : Core) (sh : Shard) (σ : Strm) (w : BitVec 48) :
    s.SameStores (s.holding n c sh σ w) := by simp [State.holding]

@[simp] theorem State.elapse_sameStores (s : State) (k : Nat) : s.SameStores (s.elapse k) := by simp [State.elapse]

end Sys2Proof.Machine
end

section
/-! Keep of the memories: the words of the streams and the steps of the device. -/

namespace Sys2Proof.Machine
open Sys2Proof.Claim

/-! ### Results -/

/-- The states that a word's result holds have memories in canonical form. -/
def StoredRes : Res → Prop
  | .done s => s.Stored
  | .goto s _ => s.Stored
  | .settled s => s.Stored
  | .trap _ _ => True
  | .wait s _ => s.Stored
  | .poison _ _ => True
  | .whole s => s.Stored

/-- The state that a step answers has memories in canonical form. -/
def StoredOut (o : Out) : Prop := ∀ t, o = .next t → t.Stored

section
variable (s : State)

@[simp] theorem storedRes_done : StoredRes (.done s) ↔ s.Stored := .rfl
@[simp] theorem storedRes_goto (w : Word) : StoredRes (.goto s w) ↔ s.Stored := .rfl
@[simp] theorem storedRes_settled : StoredRes (.settled s) ↔ s.Stored := .rfl
@[simp] theorem storedRes_trap (code : BitVec 8) (tval : Word) : StoredRes (.trap code tval) ↔ True := .rfl
@[simp] theorem storedRes_wait (w : Wait) : StoredRes (.wait s w) ↔ s.Stored := .rfl
@[simp] theorem storedRes_poison (tval : Word) (cell : Bool) : StoredRes (.poison tval cell) ↔ True := .rfl
@[simp] theorem storedRes_whole : StoredRes (.whole s) ↔ s.Stored := .rfl

@[simp] theorem storedOut_next : StoredOut (.next s) ↔ s.Stored := ⟨fun h => h s rfl, fun h t ht => by cases ht; exact h⟩
@[simp] theorem storedOut_refused (r : Refusal) : StoredOut (.refused r) ↔ True := ⟨fun _ => trivial, fun _ _ ht => nomatch ht⟩
@[simp] theorem storedOut_fault (f : Fault) : StoredOut (.fault f) ↔ True := ⟨fun _ => trivial, fun _ _ ht => nomatch ht⟩

end

theorem storedRes_ite {p : Prop} [Decidable p] {q r : Res} (hq : StoredRes q) (hr : StoredRes r) : StoredRes (if p then q else r) := by
  split
  · exact hq
  · exact hr

theorem storedOut_ite {p : Prop} [Decidable p] {q r : Out} (hq : StoredOut q) (hr : StoredOut r) : StoredOut (if p then q else r) := by
  split
  · exact hq
  · exact hr

theorem onShard_stored {s : State} {f : Core → Shard → Out} (hf : ∀ c sh, StoredOut (f c sh)) : StoredOut (onShard s f) := by
  unfold onShard
  split
  · simp
  · split
    · simp
    · exact hf _ _

@[simp] theorem State.raceNow_stored (s : State) (sh : Shard) (q : Req) (t : Target) {r : Res} (hr : StoredRes r) : StoredRes (s.raceNow sh q t r) := by
  unfold State.raceNow
  split
  · simp
  · exact hr

theorem State.raceOwn_stored (s : State) (n : Nat) (c : Core) (sh : Shard) (q : Req) (t : Target) {r : Res} (hr : StoredRes r) :
    StoredRes (s.raceOwn n c sh q t r) := by
  unfold State.raceOwn
  split
  · exact State.raceNow_stored s sh q t hr
  · exact hr

section
variable {s : State} (h : s.Stored)
include h

theorem State.settle_stored (σ : Strm) (c : Core) (sh : Shard) {r : Res} (hr : StoredRes r) : StoredOut (s.settle σ c sh r) := by
  cases r with
  | done u => simpa [State.settle] using hr
  | goto u t =>
    have hu : u.Stored := hr
    simp only [State.settle]
    split <;> simp [h, hu]
  | settled u => simpa [State.settle] using hr
  | trap code tval => simp [State.settle, h]
  | wait u w => simpa [State.settle] using hr
  | poison tval cell =>
    simp only [State.settle]
    split <;> simp [h]
  | whole u => simpa [State.settle] using hr

theorem runOn_stored (σ : Strm) {m : Core → Shard → Res} (hm : ∀ c sh, StoredRes (m c sh)) : StoredOut (runOn σ s m) := by
  unfold runOn
  split
  · simp
  · split
    · simp
    · exact s.settle_stored h _ _ _ (storedRes_ite h (hm _ _))

theorem runSpec_stored {m : Core → Shard → Res} (hm : ∀ c sh, StoredRes (m c sh)) : StoredOut (runSpec s m) := runOn_stored h .c hm

theorem runC_stored {m : Core → Shard → Res} (hm : ∀ c sh, StoredRes (m c sh)) : StoredOut (runC s m) := runOn_stored h .c fun c sh => storedRes_ite h (hm c sh)

@[simp] theorem Core.ready_stored (c : Core) (l : List (BitVec 6)) {r : Res} (hr : StoredRes r) : StoredRes (c.ready s l r) := by
  unfold Core.ready
  split
  · split <;> simp [h]
  · exact hr

@[simp] theorem Core.afterAcquire_stored (c : Core) {r : Res} (hr : StoredRes r) : StoredRes (c.afterAcquire s r) := by
  unfold Core.afterAcquire
  split <;> simp [h, hr]

@[simp] theorem Core.afterStores_stored (c : Core) (scope : Nat) {r : Res} (hr : StoredRes r) : StoredRes (c.afterStores s scope r) := by
  unfold Core.afterStores
  split_ifs <;> simp [h, hr]

@[simp] theorem Core.sync_stored (c : Core) {r : Res} (hr : StoredRes r) : StoredRes (c.sync s r) := c.afterAcquire_stored h hr

@[simp] theorem Core.release_stored (c : Core) (scope : Nat) {r : Res} (hr : StoredRes r) :
    StoredRes (c.release s scope r) := c.afterAcquire_stored h (c.afterStores_stored h scope hr)

@[simp] theorem unspeculated_stored (c : Core) {r : Res} (hr : StoredRes r) : StoredRes (unspeculated s c r) := by
  unfold unspeculated
  split <;> simp [h, hr]

theorem checkedFor_stored (path : Nat) (sh : Shard) (q : Req) {k : Target → Res} (hk : ∀ t, StoredRes (k t)) : StoredRes (checkedFor path s sh q k) := by
  unfold checkedFor
  split
  · simp
  · simp
  · simp [h]
  · exact hk _

theorem checked_stored (sh : Shard) (q : Req) {k : Target → Res} (hk : ∀ t, StoredRes (k t)) : StoredRes (checked s sh q k) := checkedFor_stored h 0 sh q hk

theorem checkedA_stored (sh : Shard) (q : Req) {k : Target → Res} (hk : ∀ t, StoredRes (k t)) : StoredRes (checkedA s sh q k) := checkedFor_stored h 1 sh q hk

theorem RegRead.orElse_stored {α : Type} (r : RegRead α) {k : α → Res} (hk : ∀ x, StoredRes (k x)) : StoredRes (r.orElse s k) := by
  cases r with
  | ok x => exact hk x
  | trap code tval => simp [RegRead.orElse]
  | wait w => simp [RegRead.orElse, h]
  | poison g => simp [RegRead.orElse]

@[simp] theorem specLoad_stored (c : Core) (sh : Shard) (x : Spec) (r : Req) (t : Target) (f : Access) : StoredRes (specLoad s c sh x r t f) := by
  unfold specLoad
  refine storedRes_ite h (storedRes_ite h (storedRes_ite h (storedRes_ite h (s.raceNow_stored sh r t ?_))))
  simp [h]

@[simp] theorem issueLoad_stored (c : Core) (sh : Shard) (rd : BitVec 6) (signed : Bool) (r : Req) (t : Target) :
    StoredRes (issueLoad s c sh rd signed r t) := by
  unfold issueLoad
  dsimp only
  split
  · exact specLoad_stored h _ _ _ _ _ _
  · split
    · exact s.raceNow_stored sh r t (by simp [h])
    · split
      · exact s.raceNow_stored sh r t (by simp [h])
      · simp [h]

theorem issueStore_stored (c : Core) (sh : Shard) (r : Req) (t : Target) (v : Word) {k : State → Res} (hk : ∀ u : State, u.Stored → StoredRes (k u)) :
    StoredRes (issueStore s c sh r t v k) := by
  unfold issueStore
  dsimp only
  split
  · split
    · simp [h]
    · exact hk _ (by simp [h])
  · split
    · exact s.raceNow_stored sh r t (hk _ (by simp [h]))
    · exact hk _ (by simp [h])

@[simp] theorem issueAtomic_stored (c : Core) (sh : Shard) (rd : BitVec 6) (r : Req) (f : Access) : StoredRes (issueAtomic s c sh rd r f) := by
  unfold issueAtomic
  dsimp only
  split
  · exact s.raceNow_stored sh r f.target (by simp [h])
  · simp [h]

@[simp] theorem callTo_stored (c : Core) (sh : Shard) (t : Word) : StoredRes (callTo s c sh t) := by
  unfold callTo
  refine storedRes_ite trivial (storedRes_ite trivial (storedRes_ite trivial ?_))
  exact c.afterAcquire_stored h (checked_stored h sh _ fun tg => issueStore_stored h c sh _ tg _ fun u hu => by simp [hu])

@[simp] theorem haltWord_stored (c : Core) : StoredRes (haltWord s c) := by
  unfold haltWord
  split <;> simp [h]

theorem loopCount_stored (c : Core) (sh : Shard) (cnt : BitVec 12) {k : Nat → Res} (hk : ∀ n, StoredRes (k n)) : StoredRes (loopCount s c sh cnt k) := by
  unfold loopCount
  split
  · exact c.ready_stored h _ (hk _)
  · exact hk _
  · exact RegRead.orElse_stored h _ fun x => hk _

@[simp] theorem startLoop_stored (c : Core) (level : Nat) (rot : Bool) (stop : Word) (count : Nat) : StoredRes (startLoop s c level rot stop count) := by
  unfold startLoop
  dsimp only
  split <;> simp [h]

@[simp] theorem loopbTurn_stored (c : Core) (level : Nat) (label : Word) (slot : LoopSlot) : StoredRes (loopbTurn s c level label slot) := by
  unfold loopbTurn
  dsimp only
  split_ifs <;> simp [h]

theorem releaseAccess_stored (c : Core) (sh : Shard) (scope : Nat) {k : State → Core → Res} (hk : ∀ (u : State) d, u.Stored → StoredRes (k u d)) :
    StoredRes (releaseAccess s c sh scope k) :=
  c.afterStores_stored h scope (hk _ _ (by simp [h]))

theorem Res.over_stored (sh : Shard) (pc : Word) {r : Res} (hr : StoredRes r) : StoredRes (r.over s sh pc) := by
  cases r with
  | trap code tval => simp [Res.over, h]
  | poison tval cell => simp [Res.over, h]
  | done u => exact hr
  | goto u t => exact hr
  | settled u => exact hr
  | wait u w => exact hr
  | whole u => exact hr

theorem indexFetch_stored (c : Core) (sh : Shard) (r : Req) (t : Target) {k : State → Nat → Res} (hk : ∀ (u : State) n, u.Stored → StoredRes (k u n)) :
    StoredRes (indexFetch s c sh r t k) := by
  unfold indexFetch
  dsimp only
  split
  · exact s.raceNow_stored sh r t (hk _ _ (by simp [h]))
  · split
    · simp [h]
    · split
      · simp [h]
      · exact hk _ _ (by simp [h])

@[simp] theorem loadBeat_stored (c : Core) (sh : Shard) (b : Beat) (va : Word) : StoredRes (loadBeat s c sh b va) := by
  unfold loadBeat
  dsimp only
  split
  · simp [h]
  · refine checkedA_stored h sh _ fun t => ?_
    split
    · exact s.raceNow_stored sh _ t (by simp [h])
    · simp [h]

theorem taking_stored {kept : State} (hkept : kept.Stored) (c : Core) (sh : Shard) (q fuel n : Nat) {k : State → Core → List Byte → Res} (hk : ∀ (u : State) d bs, u.Stored → StoredRes (k u d bs)) :
    StoredRes (taking s kept c sh q fuel n k) := by
  refine RegRead.orElse_stored hkept _ fun x => hk _ _ _ ?_
  split <;> simp [h]

@[simp] theorem storeBeat_stored (c : Core) (sh : Shard) (b : Beat) (va : Word) : StoredRes (storeBeat s c sh b va) := by
  unfold storeBeat
  dsimp only
  split
  · simp [h]
  · exact checkedA_stored h sh _ fun t => s.raceOwn_stored _ c _ _ t (taking_stored h h c sh _ _ _ fun u d bs hu => by simp [hu])

theorem withIndex_stored (c : Core) (sh : Shard) (b : Beat) {k : State → Core → Beat → Word → Res} (hk : ∀ (u : State) d y w, u.Stored → StoredRes (k u d y w)) :
    StoredRes (withIndex s c sh b k) := by
  unfold withIndex
  dsimp only
  split
  · exact hk _ _ _ _ h
  · split
    · exact checkedA_stored h sh _ fun t => indexFetch_stored h c sh _ t fun u n hu => Res.over_stored (by simp [hu]) _ _ (hk _ _ _ _ (by simp [hu]))
    · exact taking_stored h h c sh _ _ _ fun u d bs hu => Res.over_stored (by simp [hu]) _ _ (hk _ _ _ _ (by simp [hu]))

theorem rowChecks_stored (c : Core) (b : Beat) {k : Nat → Hold → Nat → Res} (hk : ∀ i x off, StoredRes (k i x off)) : StoredRes (rowChecks s c b k) := by
  unfold rowChecks
  dsimp only
  split_ifs
  all_goals first | exact hk _ _ _ | simp [h]

theorem atBuffer_stored (n : Nat) (x : Hold) {k : State → Res} (hk : ∀ u : State, u.Stored → StoredRes (k u)) : StoredRes (atBuffer s n x k) := by
  unfold atBuffer
  dsimp only
  split_ifs
  · exact hk _ (by simp [h])
  · simp [h]
  · exact hk _ (by simp [h])

@[simp] theorem rowLoad_stored (c : Core) (sh : Shard) (b : Beat) : StoredRes (rowLoad s c sh b) := by
  unfold rowLoad
  dsimp only
  split
  · simp [h]
  · refine rowChecks_stored h c b fun i x off => ?_
    split
    · simp [h]
    · exact atBuffer_stored h _ x fun u hu => by simp [hu]

@[simp] theorem rowStore_stored (c : Core) (sh : Shard) (b : Beat) : StoredRes (rowStore s c sh b) := by
  unfold rowStore
  dsimp only
  split
  · simp [h]
  · refine rowChecks_stored h c b fun i x off => ?_
    split
    · simp
    · split
      · exact taking_stored h (by simp [h]) c sh _ _ _ fun u d bs hu => by simp [hu]
      · refine atBuffer_stored h _ x fun u hu => ?_
        split
        · exact taking_stored hu (by simp [h]) c sh _ _ _ fun v d bs hv => by simp [hv]
        · refine taking_stored hu (by simp [h]) c sh _ _ _ fun v d bs hv => ?_
          split
          · simp
          next w hw => simp [(State.writeRowPiece_sameStores hw).stored hv]

end

/-! ### Words of control -/

@[simp] theorem branchIf_stored {s : State} (h : s.Stored) (ra rb : BitVec 6) (off : BitVec 24) (cond : Word → Word → Bool) :
    StoredOut (branchIf ra rb off s cond) := by
  refine runSpec_stored h fun c sh => ?_
  split <;> simp [h]

@[simp] theorem execJ_stored {s : State} (h : s.Stored) (off : BitVec 32) : StoredOut (execJ off s) := runSpec_stored h fun c sh => by simp [h]

@[simp] theorem execJr_stored {s : State} (h : s.Stored) (ra : BitVec 6) : StoredOut (execJr ra s) := runSpec_stored h fun c sh => by simp [h]

@[simp] theorem execCall_stored {s : State} (h : s.Stored) (off : BitVec 32) : StoredOut (execCall off s) := runSpec_stored h fun c sh => by simp [h]

@[simp] theorem execCallr_stored {s : State} (h : s.Stored) (ra : BitVec 6) : StoredOut (execCallr ra s) := runSpec_stored h fun c sh => by simp [h]

@[simp] theorem execRet_stored {s : State} (h : s.Stored) : StoredOut (execRet s) := by
  refine runSpec_stored h fun c sh => c.ready_stored h _ ?_
  refine storedRes_ite trivial (storedRes_ite trivial (c.afterAcquire_stored h (checked_stored h sh _ fun t => ?_)))
  refine storedRes_ite h ?_
  apply State.raceNow_stored
  dsimp only
  generalize BitVec.ofNat 64 (ofBytes _) = target
  refine storedRes_ite trivial ?_
  split
  · exact storedRes_ite h (by simp [h])
  · simp [h]

@[simp] theorem execSpec_stored {s : State} (h : s.Stored) (ra : BitVec 6) (off : BitVec 24) : StoredOut (execSpec ra off s) := by
  refine runC_stored h fun c sh => storedRes_ite ?_ (storedRes_ite ?_ (storedRes_ite h h))
  · simp [h]
  · simp [h]

@[simp] theorem execSpecResolve_stored {s : State} (h : s.Stored) : StoredOut (execSpecResolve s) := by
  unfold execSpecResolve
  split
  · simp
  · split
    · split
      · exact (storedOut_next _).mpr (State.resolve_stored h _ _ _ _)
      · simp
    · simp

@[simp] theorem execSpecend_stored {s : State} (h : s.Stored) : StoredOut (execSpecend s) := runC_stored h fun c sh => by simp [h]

@[simp] theorem execSpecx_stored {s : State} (h : s.Stored) : StoredOut (execSpecx s) := by
  refine runSpec_stored h fun c sh => ?_
  split <;> simp [h]

@[simp] theorem execRndx_stored {s : State} (h : s.Stored) (rd ra rb : BitVec 6) (site : BitVec 2) :
    StoredOut (execRndx rd ra rb site s) := runSpec_stored h fun c sh => by simp [h]

@[simp] theorem csrUpdate_stored {s : State} (h : s.Stored) (self : Instr) (rd ra : BitVec 6) (csr : BitVec 12) (f : Word → Word → Word) :
    StoredOut (csrUpdate self rd ra csr s f) := by
  refine runC_stored h fun c sh => storedRes_ite trivial (c.ready_stored h _ ?_)
  simp [h]

@[simp] theorem execCsrr_stored {s : State} (h : s.Stored) (rd : BitVec 6) (csr : BitVec 12) : StoredOut (execCsrr rd csr s) := by
  refine runSpec_stored h fun c sh => storedRes_ite trivial (c.ready_stored h _ ?_)
  simp [h]

@[simp] theorem execNop_stored {s : State} (h : s.Stored) : StoredOut (execNop s) := runOn_stored h _ fun c sh => by simp [h]

@[simp] theorem execTkpush_stored {s : State} (h : s.Stored) (k : BitVec 3) : StoredOut (execTkpush k s) := by
  refine runOn_stored h _ fun c sh => ?_
  dsimp only
  (repeat' split) <;> simp [h]

@[simp] theorem execTkpop_stored {s : State} (h : s.Stored) (k : BitVec 3) : StoredOut (execTkpop k s) := by
  refine runOn_stored h _ fun c sh => ?_
  dsimp only
  (repeat' split) <;> simp [h]

@[simp] theorem execHalt_stored {s : State} (h : s.Stored) : StoredOut (execHalt s) := runC_stored h fun c sh => by simp [h]

@[simp] theorem execShalt_stored {s : State} (h : s.Stored) : StoredOut (execShalt s) := by
  refine runOn_stored h _ fun c sh => ?_
  (repeat' split) <;> simp [h]

@[simp] theorem execPrset_stored {s : State} (h : s.Stored) (mask vals : BitVec 7) :
    StoredOut (execPrset mask vals s) := runOn_stored h _ fun c sh => by simp [h]

@[simp] theorem execSj_stored {s : State} (h : s.Stored) (sense : Bool) (p : BitVec 3) (off : BitVec 32) : StoredOut (execSj sense p off s) := by
  refine runOn_stored h _ fun c sh => ?_
  (repeat' split) <;> simp [h]

@[simp] theorem execLoop_stored {s : State} (h : s.Stored) (level : BitVec 2) (cnt : BitVec 12) (r : Bool) (off : BitVec 24) :
    StoredOut (execLoop level cnt r off s) :=
  runOn_stored h _ fun c sh => storedRes_ite trivial (storedRes_ite trivial (loopCount_stored h c sh cnt fun _ => startLoop_stored h c _ _ _ _))

@[simp] theorem execLoopi_stored {s : State} (h : s.Stored) (level : BitVec 2) (cnt : BitVec 12) (r : Bool) (off : BitVec 24) :
    StoredOut (execLoopi level cnt r off s) := by
  refine runOn_stored h _ fun c sh => ?_
  (repeat' split) <;> simp [h]

@[simp] theorem execLoopb_stored {s : State} (h : s.Stored) (level : BitVec 2) (cnt : BitVec 12) (drain : BitVec 4) (off : BitVec 20) :
    StoredOut (execLoopb level cnt drain off s) := by
  refine runOn_stored h _ fun c sh => storedRes_ite trivial ?_
  split
  · exact storedRes_ite (loopbTurn_stored h c _ _ _) trivial
  · exact storedRes_ite trivial (loopCount_stored h c sh cnt fun n => loopbTurn_stored h c _ _ _)

/-! ### Loads, stores and their ends -/

@[simp] theorem loadWord_stored {s : State} (h : s.Stored) (rd ra : BitVec 6) (ord scope : BitVec 2) (off : BitVec 21) (size : Nat) (signed : Bool) :
    StoredOut (loadWord rd ra ord scope off size signed s) := by
  have hword : ∀ c sh, StoredRes (Core.ready c s [rd, ra] (
      let r : Req := { va := c.sreg ra + off.signExtend 64, size := size, write := false, data := ord == 0, atomic := false,
                       ord := ord, scope := scope, fn := 0, deviceOnly := false }
      c.afterAcquire s (checked s sh r fun t => issueLoad s c sh rd signed r t))) :=
    fun c sh => c.ready_stored h _ (c.afterAcquire_stored h (checked_stored h sh _ fun t => issueLoad_stored h c sh rd signed _ t))
  unfold loadWord
  split
  · exact runSpec_stored h hword
  · exact runC_stored h hword

@[simp] theorem storeWord_stored {s : State} (h : s.Stored) (rd ra : BitVec 6) (ord scope : BitVec 2) (off : BitVec 22) (size : Nat) :
    StoredOut (storeWord rd ra ord scope off size s) := by
  unfold storeWord
  by_cases hord : ord = 0
  · simp only [if_pos hord]
    exact runSpec_stored h fun c sh => c.ready_stored h _ (c.afterAcquire_stored h (checked_stored h sh _ fun t => issueStore_stored h c sh _ t _ fun u hu => hu))
  · simp only [if_neg hord]
    exact runC_stored h fun c sh => c.ready_stored h _ (c.afterAcquire_stored h (checked_stored h sh _ fun t =>
      releaseAccess_stored h c sh _ fun u d hu => issueStore_stored hu d sh _ t _ fun v hv => hv))

@[simp] theorem atomicWord_stored {s : State} (h : s.Stored) (rd ra rb : BitVec 6) (ord scope : BitVec 2) (dw : Bool) (kind : AccessKind) (fn : Nat) :
    StoredOut (atomicWord rd ra rb ord scope dw kind fn s) := by
  refine runC_stored h fun c sh => c.ready_stored h _ (c.afterAcquire_stored h (checked_stored h sh _ fun t => ?_))
  dsimp only
  split
  · exact releaseAccess_stored h c sh _ fun u d hu => issueAtomic_stored hu _ _ _ _ _
  · exact issueAtomic_stored h _ _ _ _ _

@[simp] theorem execFence_stored {s : State} (h : s.Stored) (ord scope : BitVec 2) : StoredOut (execFence ord scope s) := by
  refine runC_stored h fun c sh => storedRes_ite h (storedRes_ite h ?_)
  dsimp only
  split <;> simp [h]

@[simp] theorem execPublish_stored {s : State} (h : s.Stored) (rd ra : BitVec 6) : StoredOut (execPublish rd ra s) := by
  refine runC_stored h fun c sh => c.ready_stored h _ ?_
  dsimp only
  split
  · simp
  next p _ =>
    refine storedRes_ite trivial (storedRes_ite trivial (c.afterAcquire_stored h (storedRes_ite ?_ (storedRes_ite h (storedRes_ite h (storedRes_ite trivial (storedRes_ite h ?_)))))))
    · simp [h]
    · have hset := setHostMem_stored (s := { s with ctxs := Map.upd s.ctxs sh.ctx fun x => { x with pubs := Map.put x.pubs ((c.sreg ra).toNat % 4096) { p with count := p.count + 1 } } })
        h p.port (Memory.wf_setN p.caddr (toBytes 8 (p.count + 1).toNat) (hostMem_wf h p.port))
      exact (storedRes_done _).mpr ((State.syncPoint_sameStores _ _).stored ((State.commit_sameStores _ _).stored ((State.updCore_sameStores _ _ _).stored hset)))

@[simp] theorem execCvtaTo_stored {s : State} (h : s.Stored) (rd ra : BitVec 6) (ap : BitVec 2) : StoredOut (execCvtaTo rd ra ap s) := by
  refine runC_stored h fun c sh => ?_
  (repeat' split) <;> simp [h]

@[simp] theorem execCvtaFrom_stored {s : State} (h : s.Stored) (rd ra : BitVec 6) (ap : BitVec 2) : StoredOut (execCvtaFrom rd ra ap s) := by
  refine runC_stored h fun c sh => ?_
  (repeat' split) <;> simp [h]

@[simp] theorem execAptest_stored {s : State} (h : s.Stored) (rd ra : BitVec 6) (ap : BitVec 2) :
    StoredOut (execAptest rd ra ap s) := runC_stored h fun c sh => by simp [h]

@[simp] theorem execSetview_stored {s : State} (h : s.Stored) (rd ra : BitVec 6) (mask : BitVec 3) :
    StoredOut (execSetview rd ra mask s) := runC_stored h fun c sh => by simp [h]

@[simp] theorem execSeta_stored {s : State} (h : s.Stored) (ad : BitVec 5) (ra : BitVec 6) :
    StoredOut (execSeta ad ra s) := runC_stored h fun c sh => by simp [h]

@[simp] theorem execPopv_stored {s : State} (h : s.Stored) (rd : BitVec 6) (q : BitVec 4) : StoredOut (execPopv rd q s) :=
  runC_stored h fun c sh => c.ready_stored h _ (c.sync_stored h (RegRead.orElse_stored h _ fun x => by simp [h]))

@[simp] theorem execPushv_stored {s : State} (h : s.Stored) (ra rb : BitVec 6) (q : BitVec 4) : StoredOut (execPushv ra rb q s) :=
  runC_stored h fun c sh => c.ready_stored h _ (c.release_stored h 0 (RegRead.orElse_stored h _ fun x => by simp [h]))

@[simp] theorem execLoadReturn_stored {s : State} (h : s.Stored) : StoredOut (execLoadReturn s) := by
  refine onShard_stored fun c sh => ?_
  dsimp only
  (repeat' split) <;> simp [h]

@[simp] theorem execStrayArrives_stored {s : State} (h : s.Stored) : StoredOut (execStrayArrives s) := by
  unfold execStrayArrives
  dsimp only
  split
  · simp
  · split_ifs
    · simp
    · simp [h]
    · simp [h]
    · exact (storedOut_next _).mpr (State.perform_stored (by simp [h]) _)

@[simp] theorem execStoreAck_stored {s : State} (h : s.Stored) : StoredOut (execStoreAck s) := by
  unfold execStoreAck
  split
  · exact execStrayArrives_stored h
  · refine onShard_stored fun c sh => ?_
    dsimp only
    split
    · simp
    · split
      · simp
      · split
        · simp [h]
        · simp [h]

@[simp] theorem execStrayLeavesPort_stored {s : State} (h : s.Stored) : StoredOut (execStrayLeavesPort s) := by
  unfold execStrayLeavesPort
  split
  · simp
  · split
    · split
      · simp
      · exact (storedOut_next _).mpr (State.ite_stored (State.perform_stored (by simp [h]) _) (by simp [h]))
    · simp

@[simp] theorem execPostedWriteLeftPort_stored {s : State} (h : s.Stored) : StoredOut (execPostedWriteLeftPort s) := by
  unfold execPostedWriteLeftPort
  split
  · exact execStrayLeavesPort_stored h
  · refine onShard_stored fun c sh => ?_
    dsimp only
    split
    · simp
    · split
      · split
        · simp
        · simp [h]
      · simp

@[simp] theorem execStrayCompletes_stored {s : State} (h : s.Stored) : StoredOut (execStrayCompletes s) := by
  unfold execStrayCompletes
  split
  · simp
  · split
    · split
      · simp
      · exact (storedOut_next _).mpr (State.ite_stored (by simp [h]) (State.perform_stored (by simp [h]) _))
    · simp

@[simp] theorem execHostCompletion_stored {s : State} (h : s.Stored) : StoredOut (execHostCompletion s) := by
  unfold execHostCompletion
  split
  · exact execStrayCompletes_stored h
  · refine onShard_stored fun c sh => ?_
    dsimp only
    split
    · simp
    · split
      · split
        · simp
        · split
          · split
            · simp
            · split <;> simp [h]
          · split
            · simp
            · split
              · simp [h]
              · split
                · simp [h]
                · split <;> simp [h]
      · simp

@[simp] theorem execTlbWalkDone_stored {s : State} (h : s.Stored) : StoredOut (execTlbWalkDone s) := by
  unfold execTlbWalkDone
  dsimp only
  (repeat' split) <;> simp [h]

@[simp] theorem execQueueAccessResume_stored {s : State} (h : s.Stored) : StoredOut (execQueueAccessResume s) := by
  refine onShard_stored fun c sh => ?_
  dsimp only
  (repeat' split) <;> simp [h]

@[simp] theorem execFullBitWaitResume_stored {s : State} (h : s.Stored) : StoredOut (execFullBitWaitResume s) := by
  refine onShard_stored fun c sh => ?_
  (repeat' split) <;> simp [h]

@[simp] theorem execTrapEntry_stored {s : State} (h : s.Stored) : StoredOut (execTrapEntry s) := by
  refine onShard_stored fun c sh => ?_
  dsimp only
  (repeat' split) <;> simp [h]

/-! ### Accesses of the A-stream -/

@[simp] theorem startBeats_stored {s : State} (h : s.Stored) (pop push : BitVec 3) (k : Core → Beat) : StoredOut (startBeats s pop push k) := by
  refine runOn_stored h _ fun c sh => ?_
  dsimp only
  (repeat' split) <;> simp [h]

@[simp] theorem partStep_stored {s : State} (h : s.Stored) (c : Core) (sh : Shard) (b : Beat) : StoredRes (partStep s c sh b) := by
  unfold partStep
  extract_lets n w write
  have hwrite : ∀ (u : State) d y key, u.Stored → StoredRes (write u d y key) := fun u d y key hu =>
    checkedA_stored hu sh _ fun t => u.raceOwn_stored _ d _ _ t (by
      simp only [storedRes_whole]
      split <;> simp [hu])
  refine storedRes_ite h ?_
  split
  · exact hwrite _ _ _ _ h
  · simp
  · simp
  · simp [h]
  · exact taking_stored h h c sh _ _ _ fun u d bs hu => Res.over_stored (by simp [hu]) _ _ (hwrite _ _ _ _ (by simp [hu]))

@[simp] theorem beatStep_stored {s : State} (h : s.Stored) (c : Core) (sh : Shard) (b : Beat) : StoredRes (beatStep s c sh b) := by
  unfold beatStep
  dsimp only
  refine storedRes_ite (loadBeat_stored h _ _ _ _) (storedRes_ite (storeBeat_stored h _ _ _ _) (storedRes_ite ?_ (storedRes_ite ?_ (storedRes_ite ?_ (storedRes_ite ?_ ?_)))))
  · exact withIndex_stored h c sh b fun u d y w hu => loadBeat_stored hu _ _ _ _
  · exact withIndex_stored h c sh b fun u d y w hu => storeBeat_stored hu _ _ _ _
  · exact partStep_stored h c sh b
  · exact rowLoad_stored h c sh b
  · exact rowStore_stored h c sh b

@[simp] theorem execAsBeat_stored {s : State} (h : s.Stored) : StoredOut (execAsBeat s) := by
  unfold execAsBeat
  dsimp only
  refine onShard_stored fun c sh => ?_
  split
  · simp
  · split
    · simp
    · exact State.settle_stored (s := { s with curCore := s.args.core, curStrm := .a }) h _ _ _ (beatStep_stored (s := { s with curCore := s.args.core, curStrm := .a }) h _ _ _)

@[simp] theorem addrAlu_stored {s : State} (h : s.Stored) (ad aa ab : BitVec 5) (f : Word → Word → Word) :
    StoredOut (addrAlu ad aa ab s f) := runOn_stored h _ fun c sh => by simp [h]

@[simp] theorem execAflush_stored {s : State} (h : s.Stored) (q : BitVec 4) : StoredOut (execAflush q s) := by
  refine runOn_stored h .a fun c sh => storedRes_ite (RegRead.orElse_stored h _ fun x => ?_) ?_
  · simp only [storedRes_done]
    split <;> simp [h]
  · simp [h]

@[simp] theorem execAmcast_stored {s : State} (h : s.Stored) (q : BitVec 4) (aa ab : BitVec 5) (grp : BitVec 3) (imm : BitVec 19) :
    StoredOut (execAmcast q aa ab grp imm s) := by
  refine runOn_stored h .a fun c sh => ?_
  dsimp only
  split
  · simp
  · split
    · simp
    · exact taking_stored h h _ _ _ _ _ fun u d bs hu => State.mcastStores_stored _ _ hu

/-! ### Vector words -/

@[simp] theorem VSpec.advance_stored {s : State} (h : s.Stored) (v : VSpec) : StoredRes (VSpec.advance v s) := by
  unfold VSpec.advance
  (repeat' split) <;> simp [h]

@[simp] theorem vword_stored {s : State} (h : s.Stored) (v : VSpec)
    (f : VEnv → List (BitVec 512) → List (BitVec 512) → List (BitVec 512) → List (BitVec 512) × Word) : StoredOut (vword s v f) := by
  refine runOn_stored h .v fun c sh => ?_
  split
  · simp
  · refine storedRes_ite h (RegRead.orElse_stored h _ fun ra => RegRead.orElse_stored h _ fun rb => RegRead.orElse_stored h _ fun rd => storedRes_ite trivial ?_)
    dsimp only
    split
    · exact VSpec.advance_stored h v
    · exact RegRead.orElse_stored h _ fun d => VSpec.advance_stored (State.ite_stored (by simp [h]) (by simp [h])) v

@[simp] theorem vbin_stored {s : State} (h : s.Stored) (self : Instr) (d a b : BitVec 12) (m : Bool) (x : BitVec 3) (types : Nat → Bool) (f : VEnv → Nat → Nat → Nat → Nat × Word) :
    StoredOut (vbin self d a b m x types s f) := by simp [vbin, h]

@[simp] theorem vun_stored {s : State} (h : s.Stored) (self : Instr) (d a b : BitVec 12) (m : Bool) (x : BitVec 3) (types : Nat → Bool) (f : VEnv → Nat → Nat → Nat × Word) :
    StoredOut (vun self d a b m x types s f) := by simp [vun, h]

@[simp] theorem vtri_stored {s : State} (h : s.Stored) (self : Instr) (d a b : BitVec 12) (m : Bool) (x : BitVec 3) (types : Nat → Bool) (f : VEnv → Nat → Nat → Nat → Nat → Nat × Word) :
    StoredOut (vtri self d a b m x types s f) := by simp [vtri, h]

@[simp] theorem vred_stored {s : State} (h : s.Stored) (self : Instr) (d a b : BitVec 12) (m : Bool) (x : BitVec 3) (f : VEnv → List Nat → Nat × Word) :
    StoredOut (vred self d a b m x s f) := by simp [vred, h]

/-! ### Matrix words -/

@[simp] theorem pushM_stored {s : State} (h : s.Stored) (self : Instr) (op : BitVec 8) (ra rb : BitVec 6) (acc : Bool) (m n k : Nat) (flags : BitVec 3) (pop push : BitVec 3) :
    StoredOut (pushM self op ra rb acc m n k flags pop push s) := by
  refine runC_stored h fun c _ => c.ready_stored h _ ?_
  dsimp only
  refine storedRes_ite trivial (storedRes_ite trivial ?_)
  split
  · simp
  · refine c.release_stored h 0 (storedRes_ite h (storedRes_ite h ?_))
    simp [h]

@[simp] theorem execMCommandStart_stored {s : State} (h : s.Stored) : StoredOut (execMCommandStart s) := by
  refine onShard_stored fun c sh => ?_
  dsimp only
  (repeat' split) <;> simp [h]

@[simp] theorem execMCommandComplete_stored {s : State} (h : s.Stored) : StoredOut (execMCommandComplete s) := by
  refine onShard_stored fun c sh => ?_
  dsimp only
  (repeat' split) <;> simp [h]

/-! ### X commands -/

@[simp] theorem pushX_stored {s : State} (h : s.Stored) (op : BitVec 8) (cb : Bool) (rd ra rb rc : BitVec 6) (cm : BitVec 2) (flags : BitVec 14) :
    StoredOut (pushX op cb rd ra rb rc cm flags s) := by
  refine runC_stored h fun c sh => ?_
  dsimp only
  (repeat' split) <;> simp [h]

@[simp] theorem execXCommandStart_stored {s : State} (h : s.Stored) : StoredOut (execXCommandStart s) := by
  refine onShard_stored fun c sh => ?_
  dsimp only
  split
  · simp
  · split
    · simp
    · simp [(s.startX_sameStores sh _).stored h]

@[simp] theorem execCopyGroupDone_stored {s : State} (h : s.Stored) : StoredOut (execCopyGroupDone s) := by
  refine onShard_stored fun c sh => ?_
  extract_lets n idx
  split
  · simp
  next x _ =>
    extract_lets p lo m segs needs from_
    split
    · simp
    · split
      · split <;> simp [h]
      · split
        · split <;> simp [h]
        · split
          · simp [h]
          · split
            · simp
            · have hchunks := State.copyChunks_stored n sh idx x.msgs p 65 lo m h
              generalize s.copyChunks n sh idx x.msgs p 65 lo m = r at hchunks ⊢
              obtain ⟨u, e⟩ := r
              dsimp only at hchunks ⊢
              have hcover : (if e.isSome then u else u.coverLines n sh (p.dstSegs (p.outLen lo - 64) (p.outLen (lo + m) - (p.outLen lo - 64)) ++ if p.decode then [] else p.auxSegs 0 (lo + m))).Stored :=
                State.ite_stored hchunks (by simp [hchunks])
              generalize (if e.isSome then u else _) = v at hcover ⊢
              split
              · simp
              · split <;> simp [hcover]

@[simp] theorem copyWhole_stored {s : State} (h : s.Stored) (n : Nat) (sh : Shard) (idx : Nat) (x : XCmd) (p : Packet) :
    StoredOut (copyWhole s n sh idx x p) := by
  unfold copyWhole
  extract_lets segs key needs write
  split
  · simp [h]
  · split
    · simp
    · split
      · simp [h]
      · simp
      · have hwrite : ∀ (u : State) d sc aux, u.Stored → StoredOut (write u d sc aux) := by
          intro u d sc aux hu
          have hfirst := State.engineWrites_stored n sh idx (p.dstSegs 0 d.length) d hu
          have hsecond := State.engineWrites_stored n sh idx aux sc hfirst
          simp only [write]
          split
          · simp [hu]
          · split
            · simp [hu]
            · exact (storedOut_next _).mpr (State.copyDone_stored (State.ite_stored hsecond (by simp [hsecond])) _ _ _ _ _)
        clear_value write
        split
        · split
          · simp [h]
          · dsimp only
            split
            · simp [h]
            · split
              · simp [h]
              · simp
              · exact hwrite _ _ _ _ ((State.engineNotes_sameStores _ _ _ _).stored h)
        · split
          split
          · simp [h]
          · exact hwrite _ _ _ _ ((State.engineNotes_sameStores _ _ _ _).stored h)

@[simp] theorem copyComplete_stored {s : State} (h : s.Stored) (n : Nat) (sh : Shard) (idx : Nat) (x : XCmd) : StoredOut (copyComplete s n sh idx x) := by
  unfold copyComplete
  dsimp only
  (repeat' split) <;> simp [h]

@[simp] theorem tileEffect_stored {s : State} (h : s.Stored) (n : Nat) (sh : Shard) (idx : Nat) (x : XCmd) (key : Nat) (v : Version) :
    StoredOut (tileEffect s n sh idx x key v) := by
  unfold tileEffect
  extract_lets r dk sh' to_ u
  have hu : u.Stored := by simp [u, h]
  refine storedOut_ite (by simp) (storedOut_ite (by simp [h]) (storedOut_ite (by simp [h]) (storedOut_ite (by simp [h])
    (storedOut_ite (by simp) (storedOut_ite (by simp [h]) (storedOut_ite (by simp) (storedOut_ite ?_ (storedOut_ite ?_ ?_))))))))
  · exact storedOut_ite ((storedOut_next _).mpr (parkVersion_stored (by simp [h]) _ _ _ _ _ _)) (by simp)
  · exact storedOut_ite (by simp [h]) (by simp [h])
  · exact storedOut_ite (by simp) (storedOut_ite (by simp [hu]) ((storedOut_next _).mpr (loadVersion_stored hu _ _ _ _ _)))

@[simp] theorem execXCommandComplete_stored {s : State} (h : s.Stored) : StoredOut (execXCommandComplete s) := by
  refine onShard_stored fun c sh => ?_
  dsimp only
  (repeat' split) <;> simp [h]

/-! ### Rows -/

@[simp] theorem openRow_stored {s : State} (hs : s.Stored) (c : Core) (sh : Shard) (rd : BitVec 6) (h : BitVec 4) (save : Bool) (ht : BitVec 4) (x : HoldRow) (place : Nat) (v : Option (Version × Bool)) :
    StoredRes (openRow s c sh rd h save ht x place v) := by
  unfold openRow
  dsimp only
  have hfree : (if (s.holdAt c h.toNat).state = .free then s else s.freeHold s.curCore h.toNat).Stored := State.ite_stored hs (by simp [hs])
  generalize (if (s.holdAt c h.toNat).state = .free then s else s.freeHold s.curCore h.toNat) = u at hfree ⊢
  refine storedRes_ite (by simp [hs]) (storedRes_ite (by simp [hfree]) ?_)
  cases v with
  | none => simp [hfree]
  | some v => 
    obtain ⟨v, new⟩ := v
    cases new <;> simp [hfree]

@[simp] theorem execRopen_stored {s : State} (hs : s.Stored) (rd ra rb : BitVec 6) (h : BitVec 4) (save : Bool) (ht : BitVec 4) (rowoff : BitVec 7) :
    StoredOut (execRopen rd ra rb h save ht rowoff s) := by
  refine runC_stored hs fun c sh => ?_
  dsimp only
  (repeat' split) <;> simp [hs]

@[simp] theorem execRopenCell_stored {s : State} (hs : s.Stored) (rd ra : BitVec 6) (h : BitVec 4) (save : Bool) (ht : BitVec 4) :
    StoredOut (execRopenCell rd ra h save ht s) := by
  refine runC_stored hs fun c sh => ?_
  dsimp only
  (repeat' split) <;> simp [hs]

@[simp] theorem execRrel_stored {s : State} (hs : s.Stored) (rd : BitVec 6) (h : BitVec 4) : StoredOut (execRrel rd h s) := by
  refine runC_stored hs fun c sh => ?_
  dsimp only
  (repeat' split) <;> simp [hs]

@[simp] theorem execRrenew_stored {s : State} (hs : s.Stored) (rd : BitVec 6) (h ht : BitVec 4) : StoredOut (execRrenew rd h ht s) := by
  refine runC_stored hs fun c sh => ?_
  dsimp only
  (repeat' split) <;> simp [hs]

@[simp] theorem execRstat_stored {s : State} (hs : s.Stored) (rd : BitVec 6) (h : BitVec 4) :
    StoredOut (execRstat rd h s) := runC_stored hs fun c sh => by simp [hs]

@[simp] theorem execRowOpened_stored {s : State} (h : s.Stored) : StoredOut (execRowOpened s) := by
  refine onShard_stored fun c sh => ?_
  dsimp only
  (repeat' split) <;> simp [h]

@[simp] theorem execHoldExpiry_stored {s : State} (h : s.Stored) : StoredOut (execHoldExpiry s) := by
  refine onShard_stored fun c sh => ?_
  dsimp only
  (repeat' split) <;> simp [h]

@[simp] theorem execHoldRevoke_stored {s : State} (h : s.Stored) : StoredOut (execHoldRevoke s) := by
  refine onShard_stored fun c sh => ?_
  dsimp only
  (repeat' split) <;> simp [h]

@[simp] theorem execRefreshDue_stored {s : State} (h : s.Stored) : StoredOut (execRefreshDue s) := by
  unfold execRefreshDue
  dsimp only
  (repeat' split) <;> simp [h]

@[simp] theorem execPatrolScrub_stored {s : State} (h : s.Stored) : StoredOut (execPatrolScrub s) := by
  unfold execPatrolScrub
  extract_lets pa port u
  have hu : u.Stored := by simp [u, h]
  generalize portUnit port = q
  obtain ⟨die, unit, inst⟩ := q
  dsimp only
  split
  · simp [hu]
  · split
    · simp [hu]
    · split
      · simp [hu]
      · split
        · generalize hlost : (u.countError die unit inst 1 2).postError 2 1 die unit inst 0xFF u.args.value 0 = v
          have hv : v.Stored := by simp [← hlost, hu]
          split
          · split <;> simp [hv]
          · split
            · split
              · cases hparked : v.loseParked u.args.a with
                | none => simp [hv]
                | some w => simp [(State.loseParked_sameStores hparked).stored hv]
              · simp
            · simp
          · split
            · split <;> simp [hv]
            · simp
          · simp
        · simp

@[simp] theorem execCalendarPeriod_stored {s : State} (h : s.Stored) : StoredOut (execCalendarPeriod s) := by
  unfold execCalendarPeriod
  dsimp only
  (repeat' split) <;> simp [h]

/-! ### Harvest groups -/

@[simp] theorem answer_stored {s : State} (h : s.Stored) (rd : BitVec 6) (w : Word) : StoredRes (answer s rd w) := by simp [answer, h]

@[simp] theorem answerFree_stored {s : State} (h : s.Stored) (rd : BitVec 6) (round : BitVec 32) : StoredRes (answerFree s rd round) := by simp [answerFree, h]

@[simp] theorem execHjoin_stored {s : State} (h : s.Stored) (rd ra rb : BitVec 6) : StoredOut (execHjoin rd ra rb s) := by
  refine runC_stored h fun c sh => c.ready_stored h _ ?_
  dsimp only
  refine storedRes_ite trivial ?_
  split
  · refine storedRes_ite trivial ?_
    split
    · simp
    · simp
    · simp [h]
    · refine storedRes_ite (by simp [h]) ?_
      split
      · simp [h]
      · split
        · simp [h]
        next u hu =>
          have hjoined : u.Stored := (State.joined_sameStores hu).stored h
          simp [hjoined]
  · simp

@[simp] theorem execHleave_stored {s : State} (h : s.Stored) (rd ra : BitVec 6) : StoredOut (execHleave rd ra s) := by
  refine runC_stored h fun c sh => ?_
  dsimp only
  (repeat' split) <;> simp [h]

@[simp] theorem execHsync_stored {s : State} (h : s.Stored) (rd ra : BitVec 6) : StoredOut (execHsync rd ra s) := by
  refine runC_stored h fun c sh => ?_
  dsimp only
  (repeat' split) <;> simp [h]

@[simp] theorem execHcontrib_stored {s : State} (h : s.Stored) (rd ra rb : BitVec 6) (off : BitVec 12) : StoredOut (execHcontrib rd ra rb off s) := by
  refine runC_stored h fun c sh => c.ready_stored h _ (c.afterAcquire_stored h ?_)
  dsimp only
  (repeat' split) <;> simp [h]

@[simp] theorem hwaitDone_stored {s : State} (h : s.Stored) (sh : Shard) (rd : BitVec 6) (k : Nat) (r : BitVec 32) (key : Nat) (v : Version) (x : Round) (noimg : Bool) (lo : Nat) :
    StoredRes (hwaitDone s sh rd k r key v x noimg lo) := by
  unfold hwaitDone
  dsimp only
  (repeat' split) <;> simp [h]

@[simp] theorem execHwait_stored {s : State} (h : s.Stored) (rd ra rb : BitVec 6) (noimg : Bool) (off : BitVec 12) :
    StoredOut (execHwait rd ra rb noimg off s) := by
  refine runC_stored h fun c sh => c.ready_stored h _ ?_
  dsimp only
  (repeat' split) <;> simp [h]

@[simp] theorem execHstatRoster_stored {s : State} (h : s.Stored) (rd ra rb : BitVec 6) : StoredOut (execHstatRoster rd ra rb s) := by
  refine runC_stored h fun c sh => ?_
  dsimp only
  (repeat' split) <;> simp [h]

@[simp] theorem execHstatGroup_stored {s : State} (h : s.Stored) (rd ra rb : BitVec 6) : StoredOut (execHstatGroup rd ra rb s) := by
  refine runC_stored h fun c sh => ?_
  dsimp only
  (repeat' split) <;> simp [h]

@[simp] theorem execHstatMember_stored {s : State} (h : s.Stored) (rd ra rb : BitVec 6) : StoredOut (execHstatMember rd ra rb s) := by
  refine runC_stored h fun c sh => ?_
  dsimp only
  (repeat' split) <;> simp [h]

theorem State.judge_sameStores {s u : State} {k : Nat} {g : Group} {x : Contribution} {status : Nat} {round : BitVec 32} {counted : Bool}
    (hu : s.judge k g x = .word u status round counted) : s.SameStores u := by
  unfold State.judge at hu
  dsimp only at hu
  split at hu
  · cases hu; simp
  · split at hu
    · cases hu; simp
    · split at hu
      · split at hu <;> cases hu; simp
      · split at hu
        · cases hu; simp
        · split at hu
          · cases hu; simp
          · split at hu
            · split at hu
              · cases hu
              · cases hu; simp
              next v hv =>
                cases hu
                exact (State.sealContribution_sameStores hv).trans (by simp)
            · cases hu; simp

@[simp] theorem execHarvestContribution_stored {s : State} (h : s.Stored) : StoredOut (execHarvestContribution s) := by
  unfold execHarvestContribution
  dsimp only
  split
  · simp
  · split
    · simp
    · split
      · simp
      · split
        · simp [h]
        · split
          · simp
          next u st r counted hu =>
            have hjudged : u.Stored := (State.judge_sameStores hu).stored h
            split <;> simp [hjudged]

@[simp] theorem execRoundFoldDone_stored {s : State} (h : s.Stored) : StoredOut (execRoundFoldDone s) := by
  unfold execRoundFoldDone
  dsimp only
  (repeat' split) <;> simp [h]

@[simp] theorem execMemberLost_stored {s : State} (h : s.Stored) : StoredOut (execMemberLost s) := by
  unfold execMemberLost
  dsimp only
  (repeat' split) <;> simp [h]

/-! ### Lineage -/

@[simp] theorem execSealReport_stored {s : State} (h : s.Stored) : StoredOut (execSealReport s) := by
  unfold execSealReport
  split
  · simp
  · split
    next u hu =>
      split at hu
      · cases hu
      · simpa using (State.takeReport_sameStores hu).stored h
    · simp

@[simp] theorem execReplicaDone_stored {s : State} (h : s.Stored) : StoredOut (execReplicaDone s) := by
  unfold execReplicaDone
  dsimp only
  (repeat' split) <;> simp [h]

@[simp] theorem execParkedFetchDone_stored {s : State} (h : s.Stored) : StoredOut (execParkedFetchDone s) := by
  unfold execParkedFetchDone
  dsimp only
  (repeat' split) <;> simp [h]

@[simp] theorem execVersionDestroyed_stored {s : State} (h : s.Stored) : StoredOut (execVersionDestroyed s) := by
  unfold execVersionDestroyed
  dsimp only
  (repeat' split) <;> simp [h]

@[simp] theorem execRebuild_stored {s : State} (h : s.Stored) : StoredOut (execRebuild s) := by
  unfold execRebuild
  dsimp only
  split
  · simp
  · split
    · simp
    · split
      · simp
      · split
        · simp [h]
        · split
          · split <;> simp [h]
          · split
            · simp [h]
            · split
              · simp [h]
              · split
                · split
                  · simp [h]
                  · split <;> simp [h]
                · split
                  · split
                    · simp [h]
                    · simp [h]
                  · split
                    next u hu =>
                      have hqueued : u.Stored := (State.enqueueProducer_sameStores hu).stored h
                      simp [hqueued]
                    · simp

/-! ### Queues and pools -/

theorem consumePacket_stored {s : State} (h : s.Stored) (types : Nat → Bool) {act : State → Nat → Nat → Nat → List Byte → State} (hact : ∀ (u : State) c q i p, u.Stored → (act u c q i p).Stored) :
    StoredOut (consumePacket s types act) := by
  unfold consumePacket
  dsimp only
  split
  · simp
  · split
    · simp
    · split
      · simp
      · split
        · simp
        next u hu =>
          have hconsumed := State.consume_stored h hu
          refine (storedOut_next _).mpr ((State.updQueue_sameStores _ _ _ _).stored (State.ite_stored ?_ (hact _ _ _ _ _ ?_))) <;> simp [hconsumed]

@[simp] theorem execPacketSubmit_stored {s : State} (h : s.Stored) : StoredOut (execPacketSubmit s) :=
  consumePacket_stored h _ fun u c q i p hu => by simp [hu]

@[simp] theorem execPacketBatch_stored {s : State} (h : s.Stored) : StoredOut (execPacketBatch s) :=
  consumePacket_stored h _ fun u c q i p hu => by simp [hu]

@[simp] theorem execPacketRelease_stored {s : State} (h : s.Stored) : StoredOut (execPacketRelease s) :=
  consumePacket_stored h _ fun u c q i p hu => by
    split <;> simp [hu]

@[simp] theorem execPacketMark_stored {s : State} (h : s.Stored) : StoredOut (execPacketMark s) :=
  consumePacket_stored h _ fun u c q i p hu => by
    split
    · exact hu
    · split <;> simp [hu]

@[simp] theorem execQueueDoorbell_stored {s : State} (h : s.Stored) : StoredOut (execQueueDoorbell s) := by
  unfold execQueueDoorbell
  split <;> simp [h]

@[simp] theorem execTaskReady_stored {s : State} (h : s.Stored) : StoredOut (execTaskReady s) := by
  unfold execTaskReady
  (repeat' split) <;> simp [h]

@[simp] theorem execShardDispatch_stored {s : State} (h : s.Stored) : StoredOut (execShardDispatch s) := by
  unfold execShardDispatch
  dsimp only
  split
  · split
    · simp
    · split
      · simp [h]
      · refine (storedOut_next _).mpr (foldl_stored (fun u r hu => ?_) _ (State.ite_stored ?_ ?_))
        · split <;> simp [hu]
        · simp [h]
        · simp [h]
      · simp
  · simp

@[simp] theorem State.completeRebuild_stored {s : State} (h : s.Stored) (key : Nat) (t : Task) (l : List (Nat × Nat)) :
    StoredOut (s.completeRebuild key t l) := by
  unfold State.completeRebuild
  dsimp only
  have hgone : (({ s with tasks := Map.del s.tasks key, seals := s.seals.filter fun q => q.task != some key }.promote t.die).freeWaiting.reclaim).Stored := by simp [h]
  split
  · refine (storedOut_next _).mpr (foldl_stored (fun u x hu => ?_) _ hgone)
    split <;> simp [hu]
  · split
    · simp
    · split
      · split
        · exact (storedOut_next _).mpr hgone
        · simp
      · split <;> simp [h]

@[simp] theorem execTaskComplete_stored {s : State} (h : s.Stored) : StoredOut (execTaskComplete s) := by
  unfold execTaskComplete
  dsimp only
  (repeat' split) <;> simp [h]

@[simp] theorem execAgeingBoundary_stored {s : State} (h : s.Stored) : StoredOut (execAgeingBoundary s) := by
  unfold execAgeingBoundary
  dsimp only
  (repeat' split) <;> simp [h]

@[simp] theorem execPreempt_stored {s : State} (h : s.Stored) : StoredOut (execPreempt s) := by
  unfold execPreempt
  (repeat' split) <;> simp [h]

@[simp] theorem execShardPark_stored {s : State} (h : s.Stored) : StoredOut (execShardPark s) := by
  refine onShard_stored fun c sh => ?_
  dsimp only
  (repeat' split) <;> simp [h]

@[simp] theorem execShardDiscard_stored {s : State} (h : s.Stored) : StoredOut (execShardDiscard s) := by
  refine onShard_stored fun c sh => ?_
  dsimp only
  (repeat' split) <;> simp [h]

@[simp] theorem execShardResume_stored {s : State} (h : s.Stored) : StoredOut (execShardResume s) := by
  unfold execShardResume
  dsimp only
  (repeat' split) <;> simp [h]

/-! ### Losses and recovery -/

@[simp] theorem execErrorDetected_stored {s : State} (h : s.Stored) : StoredOut (execErrorDetected s) := by
  unfold execErrorDetected
  dsimp only
  (repeat' split) <;> simp [h]

@[simp] theorem execRetryOutcome_stored {s : State} (h : s.Stored) : StoredOut (execRetryOutcome s) := by
  unfold execRetryOutcome
  dsimp only
  split
  · simp
  · split
    · split <;> simp [h]
    · split
      · simp
      · split
        next u hu => exact (storedOut_next _).mpr (State.strike_stored (by simp [h]) hu)
        · simp

@[simp] theorem execErrorRecord_stored {s : State} (h : s.Stored) : StoredOut (execErrorRecord s) := by
  unfold execErrorRecord
  dsimp only
  (repeat' split) <;> simp [h]

@[simp] theorem execHeartbeatPeriod_stored {s : State} (h : s.Stored) : StoredOut (execHeartbeatPeriod s) := by
  unfold execHeartbeatPeriod
  dsimp only
  (repeat' split) <;> simp [h]

@[simp] theorem execQuadrantOutOfService_stored {s : State} (h : s.Stored) : StoredOut (execQuadrantOutOfService s) := by
  unfold execQuadrantOutOfService
  dsimp only
  (repeat' split) <;> simp [h]

@[simp] theorem execChannelRetrain_stored {s : State} (h : s.Stored) : StoredOut (execChannelRetrain s) := by
  unfold execChannelRetrain
  dsimp only
  (repeat' split) <;> simp [h]

@[simp] theorem execChannelRetrainDone_stored {s : State} (h : s.Stored) : StoredOut (execChannelRetrainDone s) := by
  unfold execChannelRetrainDone
  dsimp only
  (repeat' split) <;> simp [h]

@[simp] theorem execLaneOutOfService_stored {s : State} (h : s.Stored) : StoredOut (execLaneOutOfService s) := by
  unfold execLaneOutOfService
  (repeat' split) <;> simp [h]

@[simp] theorem execDieLoss_stored {s : State} (h : s.Stored) : StoredOut (execDieLoss s) := by
  unfold execDieLoss
  dsimp only
  (repeat' split) <;> simp [h]

@[simp] theorem execUnitTestFail_stored {s : State} (h : s.Stored) : StoredOut (execUnitTestFail s) := by
  unfold execUnitTestFail
  dsimp only
  (repeat' split) <;> simp [h]

@[simp] theorem execShardLost_stored {s : State} (h : s.Stored) : StoredOut (execShardLost s) := by
  unfold execShardLost
  dsimp only
  (repeat' split) <;> simp [h]

/-! ### Mailbox commands -/

/-- The states that a command's result holds have memories in canonical form. -/
def StoredCmd : CmdRes → Prop
  | .done s _ => s.Stored
  | .going s => s.Stored
  | .waits => True

@[simp] theorem storedCmd_done (s : State) (status : Nat) : StoredCmd (.done s status) ↔ s.Stored := .rfl
@[simp] theorem storedCmd_going (s : State) : StoredCmd (.going s) ↔ s.Stored := .rfl
@[simp] theorem storedCmd_waits : StoredCmd .waits ↔ True := .rfl

theorem command_stored {s : State} {codes : Nat → Bool} {act : Nat → Mailbox → CmdRes} (hact : ∀ p m, StoredCmd (act p m)) :
    StoredOut (command s codes act) := by
  unfold command
  split
  · simp
  · split
    · simp
    · split
      · simp
      · split
        next u st hu =>
          have hstored : StoredCmd (.done u st) := hu ▸ hact _ _
          simp at hstored
          simp [hstored]
        next u hu =>
          have hstored : StoredCmd (.going u) := hu ▸ hact _ _
          simpa using hstored
        · simp

theorem onContext_stored {s : State} (h : s.Stored) (port : Nat) (m : Mailbox) {act : Nat → Ctx → CmdRes} (hact : ∀ c x, StoredCmd (act c x)) :
    StoredCmd (onContext s port m act) := by
  unfold onContext
  split
  · simp [h]
  · split
    · simp [h]
    · exact hact _ _

@[simp] theorem execMailboxUnknown_stored {s : State} (h : s.Stored) : StoredOut (execMailboxUnknown s) := command_stored fun p m => by simp [h]

@[simp] theorem execCtxActivate_stored {s : State} (h : s.Stored) : StoredOut (execCtxActivate s) := by
  refine command_stored fun p m => ?_
  dsimp only
  split
  · simp [h]
  · split
    next u hu => exact (storedCmd_done _ _).mpr (State.installCtx_stored (by simp [h]) hu)
    · simp [h]

@[simp] theorem execCtxTeardown_stored {s : State} (h : s.Stored) :
    StoredOut (execCtxTeardown s) := command_stored fun p m => onContext_stored h p m fun c x => by simp [h]

@[simp] theorem execCtxHtab_stored {s : State} (h : s.Stored) : StoredOut (execCtxHtab s) := by
  refine command_stored fun p m => onContext_stored h p m fun c x => ?_
  (repeat' split) <;> simp [h]

@[simp] theorem execCtxPub_stored {s : State} (h : s.Stored) : StoredOut (execCtxPub s) := by
  refine command_stored fun p m => onContext_stored h p m fun c x => ?_
  (repeat' split) <;> simp [h]

@[simp] theorem execDebug_stored {s : State} (h : s.Stored) : StoredOut (execDebug s) := command_stored fun p m => onContext_stored h p m fun c x => by simp [h]

@[simp] theorem execTlbInval_stored {s : State} (h : s.Stored) : StoredOut (execTlbInval s) := by
  refine command_stored fun p m => onContext_stored h p m fun c x => ?_
  dsimp only
  (repeat' split) <;> simp [h]

@[simp] theorem execShardParkCmd_stored {s : State} (h : s.Stored) : StoredOut (execShardParkCmd s) := by
  refine command_stored fun p m => onContext_stored h p m fun c x => ?_
  (repeat' split) <;> simp [h]

@[simp] theorem execShardDiscardCmd_stored {s : State} (h : s.Stored) : StoredOut (execShardDiscardCmd s) := by
  refine command_stored fun p m => onContext_stored h p m fun c x => ?_
  (repeat' split) <;> simp [h]

@[simp] theorem execShardResumeCmd_stored {s : State} (h : s.Stored) : StoredOut (execShardResumeCmd s) := by
  refine command_stored fun p m => onContext_stored h p m fun c x => ?_
  (repeat' split) <;> simp [h]

@[simp] theorem execKeyInstall_stored {s : State} (h : s.Stored) : StoredOut (execKeyInstall s) := by
  refine command_stored fun p m => ?_
  (repeat' split) <;> simp [h]

@[simp] theorem execKeyClear_stored {s : State} (h : s.Stored) : StoredOut (execKeyClear s) := by
  refine command_stored fun p m => ?_
  (repeat' split) <;> simp [h]

@[simp] theorem execAttest_stored {s : State} (h : s.Stored) : StoredOut (execAttest s) := by
  refine command_stored fun p m => onContext_stored h p m fun c x => ?_
  dsimp only
  (repeat' split) <;> simp [h]

@[simp] theorem execPeerSet_stored {s : State} (h : s.Stored) : StoredOut (execPeerSet s) := by
  refine command_stored fun p m => ?_
  (repeat' split) <;> simp [h]

/-! ### Parked contexts and checkpoints -/

theorem State.writePages_wf {s : State} (h : s.Stored) (pages : List (Nat × Nat × Nat)) {m : List Host.Cell} (hm : Memory.wf m = true) (off : Nat) :
    Memory.wf (s.writePages m off pages) = true := by
  induction pages generalizing m off with
  | nil => exact hm
  | cons p r ih =>
    obtain ⟨va, b, e⟩ := p
    refine ih (List.foldlRecOn (motive := fun m => Memory.wf m = true) _ _ ?_ fun m hm l _ => Memory.wf_set _ _ hm) _
    exact Memory.wf_copy _ _ _ Memory.wf_nil (Memory.wf_copy _ _ _ h.1 (Memory.wf_setN _ _ hm))

theorem State.writeArea_wf {s : State} (h : s.Stored) {m : List Host.Cell} (hm : Memory.wf m = true) (area : Nat) (a : Area) (htv : Word) (keyid nonce serial : Nat) :
    Memory.wf (s.writeArea m area a htv keyid nonce serial) = true :=
  Memory.wf_setN _ _ (s.writePages_wf h _ (Memory.wf_setN _ _ hm) _)

@[simp] theorem execCtxPark_stored {s : State} (h : s.Stored) : StoredOut (execCtxPark s) := by
  refine command_stored fun p m => onContext_stored h p m fun c x => ?_
  extract_lets keyid nonce u
  have hu : u.Stored := by simp [u, h]
  split
  · simp [h]
  next key _ =>
    split
    next v hv => exact (storedCmd_going _).mpr (State.stopCtx_stored ((State.haltAll_sameStores hv).stored h) _ _)
    · split
      · split <;> simp [h]
      · extract_lets a shelf host w v
        have hhost : Memory.wf host = true := u.writeArea_wf hu (hostMem_wf hu p) _ _ _ _ _ _
        have hw : w.Stored := (State.chargePages_sameStores _ _).stored (setHostMem_stored hu p hhost)
        have hv : v.Stored := hw
        split
        · simp [h]
        · simp [hv]

@[simp] theorem execCtxResume_stored {s : State} (h : s.Stored) : StoredOut (execCtxResume s) := by
  refine command_stored fun p m => ?_
  extract_lets c area mem n pagesAt pages streamAt x block win cap
  clear_value pagesAt pages streamAt block win cap n area mem c
  split
  · exact h
  · split
    · exact trivial
    · split
      · exact h
      · split
        · exact h
        · exact h
        · split
          · exact h
          · split
            · exact h
            · split
              next u hu => exact (storedCmd_done _ _).mpr (State.reinstall_stored (by simp [h]) hu)
              · exact h

@[simp] theorem execCkpt_stored {s : State} (h : s.Stored) : StoredOut (execCkpt s) := by
  refine command_stored fun p m => ?_
  dsimp only
  split
  · simp [h]
  · split
    · simp [h]
    · split
      next u hu => simpa using (State.haltAll_sameStores hu).stored h
      · split
        · split <;> simp [h]
        · have hout := State.streamOut_stored h (m.arg 0) (m.arg 1)
          exact (storedCmd_done _ _).mpr hout

@[simp] theorem execCkptRestore_stored {s : State} (h : s.Stored) : StoredOut (execCkptRestore s) := by
  refine command_stored fun p m => ?_
  dsimp only
  (repeat' split) <;> simp [h]

/-! ### Registers and boot -/

@[simp] theorem execRegisterWrite_stored {s : State} (h : s.Stored) : StoredOut (execRegisterWrite s) := by
  unfold execRegisterWrite
  dsimp only
  (repeat' split) <;> simp [h]

@[simp] theorem execPowerOnReset_stored {s : State} (h : s.Stored) : StoredOut (execPowerOnReset s) :=
  (storedOut_next _).mpr ⟨Memory.wf_nil, h.2.1, h.2.2.1, Memory.wf_nil⟩

@[simp] theorem execDevBoot_stored {s : State} (h : s.Stored) : StoredOut (execDevBoot s) := by
  unfold execDevBoot
  split <;> simp [h]

@[simp] theorem execBootVerifyDone_stored {s : State} (h : s.Stored) : StoredOut (execBootVerifyDone s) := by
  unfold execBootVerifyDone
  dsimp only
  (repeat' split) <;> simp [h]

@[simp] theorem execBootInitDone_stored {s : State} (h : s.Stored) : StoredOut (execBootInitDone s) := by
  unfold execBootInitDone
  (repeat' split) <;> simp [h]

@[simp] theorem execWatchdogExpiry_stored {s : State} (h : s.Stored) : StoredOut (execWatchdogExpiry s) := by
  unfold execWatchdogExpiry
  (repeat' split) <;> simp [h]

@[simp] theorem execPowerControl_stored {s : State} (h : s.Stored) : StoredOut (execPowerControl s) := by
  unfold execPowerControl
  dsimp only
  (repeat' split) <;> simp [h]

/-! ### Hosts and peers -/

theorem State.barAccess_stored {s : State} (h : s.Stored) (off n : Nat) (opened : Bool) {k : State → Nat → State} (hk : ∀ (u : State) pa, u.Stored → (k u pa).Stored) :
    StoredOut (s.barAccess off n opened k) := by
  unfold State.barAccess
  split
  · simp [h]
  · split
    · simp
    · split
      · split <;> simp [h]
      · exact (storedOut_next _).mpr (hk _ _ (by simp [h]))

@[simp] theorem execHostBar2Read_stored {s : State} (h : s.Stored) : StoredOut (execHostBar2Read s) := by
  unfold execHostBar2Read
  dsimp only
  split
  · simp
  · exact State.barAccess_stored h _ _ _ fun u pa hu => by simp [hu]

@[simp] theorem execHostBar2Write_stored {s : State} (h : s.Stored) : StoredOut (execHostBar2Write s) := by
  unfold execHostBar2Write
  dsimp only
  split
  · simp
  · split
    · split
      next u hu => simpa [State.completes] using (State.writeRoot_sameStores hu).stored h
      · simp
    · split
      · simp
      · exact State.barAccess_stored h _ _ _ fun u pa hu => by simp [hu]

@[simp] theorem execHostBar2Atomic_stored {s : State} (h : s.Stored) : StoredOut (execHostBar2Atomic s) := by
  unfold execHostBar2Atomic
  dsimp only
  split
  · simp
  · split
    · simp [h]
    · exact State.barAccess_stored h _ _ _ fun u pa hu => State.ite_stored (by simp [hu]) (by simp [hu])

@[simp] theorem execHostLinkDown_stored {s : State} (h : s.Stored) : StoredOut (execHostLinkDown s) := by
  unfold execHostLinkDown
  dsimp only
  (repeat' split) <;> simp [h]

@[simp] theorem execHostLinkDownTimeout_stored {s : State} (h : s.Stored) : StoredOut (execHostLinkDownTimeout s) := by
  unfold execHostLinkDownTimeout
  extract_lets p mine u
  have hu : u.Stored := foldl_stored (fun v x hv => by simp [hv]) _ h
  clear_value u
  split
  · simp
  · split
    · simp
    · simp [hu]

theorem serve_stored {s : State} (h : s.Stored) (typ : Nat) {k : Nat → Head → List Byte → Out} (hk : ∀ p a bs, StoredOut (k p a bs)) :
    StoredOut (serve s typ k) := by
  unfold serve
  dsimp only
  split
  · simp
  · split
    · simp [h]
    · exact hk _ _ _

theorem serveAt_stored {s : State} (h : s.Stored) (typ : Nat) (reads : Bool) {k : Nat → Head → Nat → List Byte → Out} (hk : ∀ p a n bs, StoredOut (k p a n bs)) :
    StoredOut (serveAt s typ reads k) := by
  refine serve_stored h typ fun p a bs => ?_
  split
  split
  · simp [h]
  · split
    · simp [h]
    · split
      · simp [h]
      · split
        · simp
        · exact hk _ _ _ _

@[simp] theorem execBilotStore_stored {s : State} (h : s.Stored) : StoredOut (execBilotStore s) := serveAt_stored h _ _ fun p a n bs => by simp [h]

@[simp] theorem execBilotLoad_stored {s : State} (h : s.Stored) : StoredOut (execBilotLoad s) := serveAt_stored h _ _ fun p a n bs => by simp [h]

@[simp] theorem execBilotAtomic_stored {s : State} (h : s.Stored) : StoredOut (execBilotAtomic s) := serveAt_stored h _ _ fun p a n bs => by simp [h]

@[simp] theorem execBilotQappend_stored {s : State} (h : s.Stored) : StoredOut (execBilotQappend s) := by
  refine serve_stored h _ fun p a bs => ?_
  split
  · simp [h]
  · split
    · dsimp only
      split
      · simp
      · split
        · simp [h]
        next u hu =>
          have hindexed := State.writeRange_stored h hu
          split
          · simp [h]
          next v hv =>
            have hadded := State.writeRange_stored hindexed hv
            simp [hadded]
    · simp [h]

@[simp] theorem execBilotHcontrib_stored {s : State} (h : s.Stored) : StoredOut (execBilotHcontrib s) := by
  refine serve_stored h _ fun p a bs => ?_
  dsimp only
  (repeat' split) <;> simp [h]

@[simp] theorem execBilotHresult_stored {s : State} (h : s.Stored) : StoredOut (execBilotHresult s) := by
  refine serve_stored h _ fun p a bs => ?_
  dsimp only
  (repeat' split) <;> simp [h]

@[simp] theorem execBilotTrepl_stored {s : State} (h : s.Stored) : StoredOut (execBilotTrepl s) := by
  refine serve_stored h _ fun p a bs => ?_
  dsimp only
  (repeat' split) <;> simp [h]

@[simp] theorem execBilotReply_stored {s : State} (h : s.Stored) : StoredOut (execBilotReply s) := by
  unfold execBilotReply
  dsimp only
  (repeat' split) <;> simp [h]

@[simp] theorem execBilotReplyTimeout_stored {s : State} (h : s.Stored) : StoredOut (execBilotReplyTimeout s) := by
  unfold execBilotReplyTimeout
  (repeat' split) <;> simp [h]

@[simp] theorem execBilotPortDown_stored {s : State} (h : s.Stored) : StoredOut (execBilotPortDown s) := by
  unfold execBilotPortDown
  dsimp only
  split
  · simp
  · refine (storedOut_next _).mpr ((State.loseMembers_sameStores _ _).stored (foldl_stored (fun u x hu => by simp [hu]) _ ?_))
    simp [h]

/-! ### Scalar words -/

@[simp] theorem alu2_stored {s : State} (h : s.Stored) (rd ra rb : BitVec 6) (f : Word → Word → Word) :
    StoredOut (alu2 rd ra rb s f) := runSpec_stored h fun c sh => by simp [h]

@[simp] theorem alu1_stored {s : State} (h : s.Stored) (rd ra : BitVec 6) (f : Word → Word) :
    StoredOut (alu1 rd ra s f) := runSpec_stored h fun c sh => by simp [h]

@[simp] theorem aluImm_stored {s : State} (h : s.Stored) (rd ra : BitVec 6) (imm : BitVec 22) (f : Word → Word → Word) :
    StoredOut (aluImm rd ra imm s f) := by simp [aluImm, h]

@[simp] theorem execLi_stored {s : State} (h : s.Stored) (rd : BitVec 6) (imm : BitVec 32) :
    StoredOut (execLi rd imm s) := runSpec_stored h fun c sh => by simp [h]

@[simp] theorem execLiU_stored {s : State} (h : s.Stored) (rd : BitVec 6) (imm : BitVec 32) :
    StoredOut (execLiU rd imm s) := runSpec_stored h fun c sh => by simp [h]

@[simp] theorem execLih_stored {s : State} (h : s.Stored) (rd : BitVec 6) (imm : BitVec 32) :
    StoredOut (execLih rd imm s) := runSpec_stored h fun c sh => by simp [h]

@[simp] theorem execSel_stored {s : State} (h : s.Stored) (rd ra rb : BitVec 6) : StoredOut (execSel rd ra rb s) := runSpec_stored h fun c sh => by simp [h]

/-! ### Barriers, queues and leases -/

theorem atBarrier_stored {s : State} (h : s.Stored) (rd ra : BitVec 6) (remote : Bool) {m : Core → Shard → Nat → Res} (hm : ∀ c sh k, StoredRes (m c sh k)) :
    StoredOut (atBarrier s rd ra remote m) := by
  refine runC_stored h fun c sh => c.ready_stored h _ (c.afterAcquire_stored h ?_)
  split
  · simp
  · exact hm _ _ _

@[simp] theorem execBarinit_stored {s : State} (h : s.Stored) (rd ra : BitVec 6) (remote : Bool) (expect : BitVec 12) (bar : BitVec 9) :
    StoredOut (execBarinit rd ra remote expect bar s) := by
  refine runC_stored h fun c sh => ?_
  dsimp only
  (repeat' split) <;> simp [h]

@[simp] theorem execBararv_stored {s : State} (h : s.Stored) (rd ra : BitVec 6) (remote : Bool) (bar : BitVec 9) :
    StoredOut (execBararv rd ra remote bar s) := by
  refine runC_stored h fun c sh => c.ready_stored h _ ?_
  dsimp only
  (repeat' split) <;> simp [h]

@[simp] theorem execBarwait_stored {s : State} (h : s.Stored) (rd ra : BitVec 6) (remote : Bool) (bar : BitVec 9) :
    StoredOut (execBarwait rd ra remote bar s) := by
  refine runC_stored h fun c sh => ?_
  dsimp only
  (repeat' split) <;> simp [h]

theorem execBararw.bararwArrive_stored {s : State} (h : s.Stored) (rd : BitVec 6) (bar : BitVec 9) (c : Core) (sh : Shard) (k : Nat) (x : Barrier) :
    StoredRes (execBararw.bararwArrive rd bar s c sh k x) := by
  unfold execBararw.bararwArrive
  dsimp only
  split <;> simp [h]

@[simp] theorem execBararw_stored {s : State} (h : s.Stored) (rd ra : BitVec 6) (remote : Bool) (bar : BitVec 9) :
    StoredOut (execBararw rd ra remote bar s) := by
  refine atBarrier_stored h rd ra remote fun c sh k => ?_
  dsimp only
  split
  · split
    · split <;> simp [h]
    · split
      · simp [h]
      · exact c.afterStores_stored h 1 (execBararw.bararwArrive_stored h rd bar c sh k _)
  · split
    · simp [h]
    · exact c.afterStores_stored h 1 (execBararw.bararwArrive_stored h rd bar c sh k _)

theorem atTb_stored {s : State} (h : s.Stored) (rd ra : BitVec 6) (off : BitVec 22) {m : Core → Shard → Target → Nat → Res} (hm : ∀ c sh t v, StoredRes (m c sh t v)) :
    StoredOut (atTb s rd ra off m) := by
  refine runC_stored h fun c sh => c.ready_stored h _ (c.afterAcquire_stored h (checkedFor_stored h 0 sh _ fun t => ?_))
  split
  · simp [h]
  · split
    · simp
    · exact hm _ _ _ _

@[simp] theorem execTbinit_stored {s : State} (h : s.Stored) (rd ra : BitVec 6) (off : BitVec 22) :
    StoredOut (execTbinit rd ra off s) := atTb_stored h _ _ _ fun c sh t w => by simp [h]

@[simp] theorem execTbexp_stored {s : State} (h : s.Stored) (rd ra : BitVec 6) (off : BitVec 22) :
    StoredOut (execTbexp rd ra off s) := atTb_stored h _ _ _ fun c sh t w => by simp [h]

@[simp] theorem execTbarv_stored {s : State} (h : s.Stored) (rd ra : BitVec 6) (off : BitVec 22) : StoredOut (execTbarv rd ra off s) := by
  refine atTb_stored h rd ra off fun c sh t w => c.afterStores_stored h _ ?_
  extract_lets new
  clear_value new
  simp [h]

@[simp] theorem execTbwait_stored {s : State} (h : s.Stored) (rd ra : BitVec 6) (off : BitVec 22) : StoredOut (execTbwait rd ra off s) := by
  refine atTb_stored h _ _ _ fun c sh t w => ?_
  dsimp only
  (repeat' split) <;> simp [h]

@[simp] theorem spawnWord_stored {s : State} (h : s.Stored) (c : Core) (sh : Shard) (ra : BitVec 6) (rd : Option (BitVec 6)) :
    StoredRes (spawnWord s c sh ra rd) := by
  unfold spawnWord
  dsimp only
  refine storedRes_ite trivial (checkedFor_stored h 0 sh _ fun t => storedRes_ite trivial (c.afterStores_stored h 2 (storedRes_ite h ?_)))
  split
  · cases rd <;> simp [h]
  · cases rd with
    | none => simp [h]
    | some d =>
      dsimp only
      split <;> simp [h]

@[simp] theorem execSpawn_stored {s : State} (h : s.Stored) (ra : BitVec 6) :
    StoredOut (execSpawn ra s) := runC_stored h fun c sh => c.ready_stored h _ (by simp [h])

@[simp] theorem execSpawnNb_stored {s : State} (h : s.Stored) (rd ra : BitVec 6) :
    StoredOut (execSpawnNb rd ra s) := runC_stored h fun c sh => c.ready_stored h _ (by simp [h])

@[simp] theorem execEnqr_stored {s : State} (h : s.Stored) (ra rb : BitVec 6) : StoredOut (execEnqr ra rb s) := by
  refine runC_stored h fun c sh => c.ready_stored h _ ?_
  dsimp only
  (repeat' split) <;> simp [h]

@[simp] theorem inboxTake_stored {s : State} (h : s.Stored) (c : Core) (sh : Shard) (rd ra : BitVec 6) (nb : Bool) : StoredRes (inboxTake s c sh rd ra nb) := by
  unfold inboxTake
  dsimp only
  (repeat' split) <;> simp [h]

@[simp] theorem execInbox_stored {s : State} (h : s.Stored) (rd ra : BitVec 6) :
    StoredOut (execInbox rd ra s) := runC_stored h fun c sh => c.ready_stored h _ (by simp [h])

@[simp] theorem execInboxNb_stored {s : State} (h : s.Stored) (rd ra : BitVec 6) :
    StoredOut (execInboxNb rd ra s) := runC_stored h fun c sh => c.ready_stored h _ (by simp [h])

@[simp] theorem execYield_stored {s : State} (h : s.Stored) (rd : BitVec 6) : StoredOut (execYield rd s) := by
  refine runC_stored h fun c sh => ?_
  dsimp only
  (repeat' split) <;> simp [h]

@[simp] theorem execWfe_stored {s : State} (h : s.Stored) (rd ra : BitVec 6) : StoredOut (execWfe rd ra s) := by
  refine runC_stored h fun c sh => ?_
  (repeat' split) <;> simp [h]

@[simp] theorem execWfeTimeout_stored {s : State} (h : s.Stored) : StoredOut (execWfeTimeout s) := by
  refine onShard_stored fun c sh => ?_
  (repeat' split) <;> simp [h]

@[simp] theorem execTrap_stored {s : State} (h : s.Stored) (imm : BitVec 16) : StoredOut (execTrap imm s) := runC_stored h fun c sh => by simp

@[simp] theorem execBrk_stored {s : State} (h : s.Stored) : StoredOut (execBrk s) := by
  refine runC_stored h fun c sh => ?_
  dsimp only
  (repeat' split) <;> simp [h]

@[simp] theorem returnWord_stored {s : State} (h : s.Stored) (c : Core) (sh : Shard) (self : Instr) (skip : Bool) :
    StoredRes (returnWord s c sh self skip) := by
  unfold returnWord
  dsimp only
  (repeat' split) <;> simp [h]

@[simp] theorem execRte_stored {s : State} (h : s.Stored) : StoredOut (execRte s) := runC_stored h fun c sh => by simp [h]

@[simp] theorem execRteSkip_stored {s : State} (h : s.Stored) : StoredOut (execRteSkip s) := runC_stored h fun c sh => by simp [h]

@[simp] theorem leaseWord_stored {s : State} (h : s.Stored) (c : Core) (sh : Shard) (rd : Option (BitVec 6)) : StoredRes (leaseWord s c sh rd) := by
  unfold leaseWord
  dsimp only
  (repeat' split) <;> simp [h]

@[simp] theorem execLease_stored {s : State} (h : s.Stored) : StoredOut (execLease s) := runC_stored h fun c sh => by simp [h]

@[simp] theorem execLeaseNb_stored {s : State} (h : s.Stored) (rd : BitVec 6) : StoredOut (execLeaseNb rd s) := by
  refine runC_stored h fun c sh => ?_
  dsimp only
  (repeat' split) <;> simp [h]

@[simp] theorem execUnlease_stored {s : State} (h : s.Stored) : StoredOut (execUnlease s) := runC_stored h fun c sh => by simp [h]

@[simp] theorem execLeaseGrant_stored {s : State} (h : s.Stored) : StoredOut (execLeaseGrant s) := by
  unfold execLeaseGrant
  (repeat' split) <;> simp [h]

@[simp] theorem execLeaseRunBound_stored {s : State} (h : s.Stored) : StoredOut (execLeaseRunBound s) := by
  unfold execLeaseRunBound
  (repeat' split) <;> simp [h]

@[simp] theorem execShardRetire_stored {s : State} (h : s.Stored) : StoredOut (execShardRetire s) := by
  refine onShard_stored fun c sh => ?_
  dsimp only
  (repeat' split) <;> simp [h]

/-! ### Vector words -/

@[simp] theorem execVmode_stored {s : State} (h : s.Stored) (typ : BitVec 4) (wt wm ftz : Bool) (rnd : BitVec 3) :
    StoredOut (execVmode typ wt wm ftz rnd s) := by
  refine runOn_stored h _ fun c sh => ?_
  (repeat' split) <;> simp [h]

@[simp] theorem execVclrf_stored {s : State} (h : s.Stored) (d a b : BitVec 12) (m : Bool) (x : BitVec 3) : StoredOut (execVclrf d a b m x s) := by
  refine runOn_stored h _ fun c sh => ?_
  dsimp only
  (repeat' split) <;> simp [h]

end Sys2Proof.Machine
end

section
/-! The canonical form of the memories over a step (StepKeepsMemoryCanonical). -/

namespace Sys2Proof.Machine
open Sys2Proof.Claim

/-- A word whose lemma stands above keeps the memories by that lemma; the others are one shared operation each, which their own definition names. -/
theorem exec_stored (i : Instr) {s : State} (h : s.Stored) : StoredOut (exec i s) := by
  cases i <;> simp [h, exec,
    execBeq, execBne, execBlt, execBge, execBltu, execBgeu, execBz, execBnz, execCsrw, execCsrs, execCsrc, execLdb, execLdbu, execLdh, execLdhu,
    execLdw, execLdwu, execLdd, execStb, execSth, execStw, execStd, execAmadd, execAmand, execAmor, execAmxor, execAmmin, execAmmax, execAmminu,
    execAmmaxu, execAmswap, execCas, execAld, execAst, execArld, execArst, execAgth, execAsct, execApart, execAadd, execAsub, execAand, execAor,
    execAxor, execAshl, execAshr, execAmul, execAmax, execAaddi, execAli, execVcvt, execVcvtsr, execVqnt, execVdqnt, execVmxq, execVmxd, execVrsum,
    execVrmax, execVrmin, execVperm, execVslide, execVbcast, execVext, execVins, execViota, execVtrans, execVrng, execMfmt, execMma, execMmas,
    execMresc, execMzero, execMldac, execMstac, execMstsm, execMnorm, execCopy, execTload, execTmcast, execTstore, execPstore, execTseal, execTsealCb,
    execTpark, execTunpark, execTrepl, execReqnt, execTdrop, execAdd, execSub, execAnd, execOr, execXor, execAndn, execShl, execShr, execSra, execRol,
    execRor, execMin, execMax, execMinu, execMaxu, execSeq, execSne, execSlt, execSltu, execMul, execMulh, execMulhu, execDiv, execDivu, execRem,
    execRemu, execClz, execCtz, execPopc, execSextb, execSexth, execSextw, execZextw, execBswap, execAddi, execAndi, execOri, execXori, execSlti,
    execSltui, execMuli, execShli, execShri, execSrai, execVfadd, execVfsub, execVfmul, execVfma, execVfms, execVfnma, execVfmin, execVfmax,
    execVfabs, execVfneg, execVfscl, execVfceq, execVfclt, execVfcle, execVfclass, execVrcpa, execVrsqa, execVlog2a, execVexp2a, execVmovi, execVzero,
    execVadd, execVsub, execVmul, execVmulh, execVand, execVor, execVxor, execVandn, execVshl, execVshr, execVsra, execVmin, execVmax, execVadds,
    execVsubs, execVabs, execVneg, execVcnt, execVmov, execVinv, execVceq, execVcne, execVclt, execVcle, execVcltu, execVcleu, execVsel, execVmad,
    execVunpk, execVpack]

theorem State.streamStep_stored {s : State} (h : s.Stored) (n : Nat) (σ : Strm) (choice : Nat) : StoredOut (s.streamStep n σ choice) := by
  unfold State.streamStep
  split
  · simp
  · split
    · simp
    · split
      · simp
      · extract_lets u
        have hu : u.Stored := h
        clear_value u
        split
        · exact exec_stored .asBeat hu
        · split
          · exact exec_stored _ ((State.holding_sameStores _ _ _ _ _ _).stored hu)
          · simp [hu]
          · exact State.settle_stored hu _ _ _ (by simp)
          · exact State.settle_stored hu _ _ _ (by simp [hu])
          · exact State.settle_stored hu _ _ _ (by simp [hu])

theorem State.move_stored {s : State} (h : s.Stored) (m : Move) : StoredOut (s.move m) := by
  unfold State.move
  split
  · simp
  · cases m with
    | stream n σ choice => exact s.streamStep_stored h n σ choice
    | event i a => exact exec_stored i h
    | tick k => simp [h]

theorem State.ownStep_stored {s : State} (h : s.Stored) : StoredOut s.ownStep := by
  unfold State.ownStep
  extract_lets ms u
  have hu : u.Stored := h
  have hmoved := u.move_stored hu (ms.getD (u.rr % ms.length) (Move.tick 1))
  split
  · simpa using hu
  · exact hmoved

theorem step_stored {s : State} (h : s.Stored) : StoredOut (step s) := by
  unfold step
  split
  · simp
  · split
    next m r _ => exact State.move_stored (s := { s with agenda := r }) h m
    · exact State.ownStep_stored h

/-- Settles O6: by cases on what moves, then on the instruction; each writer of a memory writes through `Memory.set`, `Memory.setN` or `Memory.copy`. -/
theorem stepKeepsMemoryCanonical : Obligations.StepKeepsMemoryCanonical := fun _ t h ht => step_stored h t ht

end Sys2Proof.Machine
end

section
/-! The twelve words that push a command of the X-engines (R37, R89, R90, R104, R153, R258 to R260). -/

namespace Sys2Proof.Machine

open Sys2Proof.Claim

/-- The command that a push brings to the queue, with what the push reads and the STATUS that it has from then on. -/
def State.pushedX (s : State) (c : Core) (sh : Shard) (op : BitVec 8) (cb : Bool) (rd : BitVec 6) (a b d : Word) (cm : BitVec 2) (tb : Nat) : XCmd :=
  let packet := s.xPacket s.curCore c.pad op a d
  let st := s.xStatus s.curCore sh op a d packet
  { op := op, ra := a, rb := b, rc := d, rd := rd.toNat, cm := cm, tb := tb, cb := cb, packet := packet,
    pc := c.cs.pc, order := s.order, since := s.now, started := false, groups := 0, subtracted := 0, written := 0,
    status := st, pushed := st, cls := none, failAt := if st = none then 0 else if op = opCopy then a else d, msgs := [], sent := false }

/-- The command as the model's push writes it out. -/
theorem State.pushedX_eq (s : State) (c : Core) (sh : Shard) (op : BitVec 8) (cb : Bool) (rd : BitVec 6) (a b d : Word) (cm : BitVec 2) (flags : BitVec 14) :
    s.pushedX c sh op cb rd a b d cm (16 * flags.toNat) = { s.pushedX c sh op cb rd a b d cm 0 with
      tb := flags.toNat * 16
      failAt := if (s.xStatus s.curCore sh op a d (s.xPacket s.curCore c.pad op a d)).isNone then 0 else if op = opCopy then a else d } := by
  simp only [State.pushedX, Option.isNone_iff_eq_none, Nat.mul_comm 16]

/-! ### What a push changes -/

/-- A pending destination is the only register that a push touches. -/
theorem Core.setPending_eq (c : Core) (rd : BitVec 6) : c.setPending rd = { c with pending := if rd ≠ 0 then insertNat c.pending rd.toNat else c.pending } := by
  unfold Core.setPending
  by_cases hrd : rd = 0
  · rw [if_pos hrd, if_neg (not_not.mpr hrd)]
  · rw [if_neg hrd, if_pos hrd]

/-- The core with a command more in its queue. -/
def Core.queued (c : Core) (rd : BitVec 6) (x : XCmd) : Core :=
  { c with
    xqueue := c.xqueue ++ [x]
    pending := if x.cm.getLsbD 0 = true ∧ rd ≠ 0 then insertNat c.pending rd.toNat else c.pending }

/-- A push writes its core back with the command, and with its register destination pending (R153, R260). -/
theorem Core.queued_eq (c : Core) (rd : BitVec 6) (x : XCmd) :
    c.queued rd x = { (if x.cm.getLsbD 0 then c.setPending rd else c) with xqueue := (if x.cm.getLsbD 0 then c.setPending rd else c).xqueue ++ [x] } := by
  unfold Core.queued
  by_cases hcm : x.cm.getLsbD 0 = true
  · simp only [hcm, if_true, true_and, Core.setPending_eq]
  · simp only [hcm, if_false, false_and, Bool.false_eq_true]

section
variable {s u : State} {n : Nat} {d : Core} {sh : Shard} (h : s.Sets u n d) (hsh : d.shard = some sh)
include h hsh

/-- The read of a push opens its shard's region, if it reads (R104, R105). -/
theorem State.Sets.xEnter (sh' : Shard) (op : BitVec 8) (ra rc : Word) (st : Option (BitVec 8)) :
    ∃ g, s.Sets (u.xEnter n sh' op ra rc st) n { d with shard := some { sh with region := g } } := by
  have hsame : ({ d with shard := some { sh with region := sh.region } } : Core) = d := by rw [← hsh]
  unfold State.xEnter
  split
  next o len _ =>
    have hopened := (h.openRegion (u.racer (((u.core? n).bind Core.shard).getD sh')).uid (u.racer (((u.core? n).bind Core.shard).getD sh')).region).enter
      (u.racer (((u.core? n).bind Core.shard).getD sh')) (.pad n o) len false true false
    unfold Core.opened at hopened
    rw [hsh] at hopened
    exact ⟨_, hopened⟩
  next => exact ⟨sh.region, hsame ▸ h⟩

/-- An act of R37 commits a shard that is not pure; any other leaves it. -/
theorem State.Sets.commitIf (p : Bool) : ∃ ts h, State.Sets { s with tasks := ts } (if p then u.commit n else u) n { d with shard := some h }
    ∧ h.committed = (sh.committed || (p && !sh.pure)) := by
  have hsame : ({ d with shard := some sh } : Core) = d := by rw [← hsh]
  have hstays : State.Sets { s with tasks := s.tasks } u n { d with shard := some sh } := hsame ▸ h
  cases p with
  | false => exact ⟨s.tasks, sh, hstays, by rw [Bool.false_and, Bool.or_false]⟩
  | true =>
    cases hpure : sh.pure with
    | true =>
      refine ⟨s.tasks, sh, ?_, by rw [Bool.not_true, Bool.and_false, Bool.or_false]⟩
      rw [if_pos rfl, State.commit, h.core, Option.bind_some, hsh]
      dsimp only
      rw [if_pos (.inl hpure)]
      exact hstays
    | false =>
      obtain ⟨ts, sh', hset, hcommitted⟩ := h.commit hsh hpure
      exact ⟨ts, sh', hset, by rw [hcommitted, Bool.not_false, Bool.and_true, Bool.or_true]⟩

end

/-- A core behind a push: the command is in its queue, and of its shard the open region has ended and the clock has ticked. -/
def Core.pushedBy (c : Core) (rd : BitVec 6) (x : XCmd) (h : Shard) : Core := after (Core.endRegion { c.queued rd x with shard := some h }).ticked .c

theorem Core.pushedBy_went {u : State} {c : Core} {rd : BitVec 6} {x : XCmd} {h : Shard} (hcore : u.core? u.curCore = some (c.pushedBy rd x h)) :
    Went u c (c.pushedBy rd x h) c.sregs := ⟨hcore, rfl, rfl, rfl, rfl, rfl, rfl⟩

/-! ### The push -/

/-- What a word that pushes a command does: the checks of R259 in order, the accesses it waits for, the room it waits for, and the command in the queue. -/
def PushesX (s : State) (c : Core) (sh : Shard) (rd : BitVec 6) (i : Instr) (x : XCmd) : Prop :=
  let traps (code : BitVec 8) (v : Word) : Prop := exec i s = .next (s.takeTrap s.curCore .c code v)
  let ok1 := xCheck1 x.op x.cb x.ra x.rc = none
  let ok2 := xCheck2 x.op x.cb x.ra x.rc = none
  let ok3 := xCheck3 s.curCore sh x.op x.ra x.rb x.rc x.packet = none
  (∀ v, xCheck1 x.op x.cb x.ra x.rc = some v → traps 13 v)
  ∧ (∀ v, ok1 → xCheck2 x.op x.cb x.ra x.rc = some v → traps 11 v)
  ∧ (∀ v, ok1 → ok2 → xCheck3 s.curCore sh x.op x.ra x.rb x.rc x.packet = some v → traps 10 v)
  ∧ (ok1 → ok2 → ok3 → c.cs.loadsDone = false → exec i s = .next (s.waitOn .c .acquire))
  ∧ (ok1 → ok2 → ok3 → c.cs.loadsDone = true → c.released 0 = false → exec i s = .next (s.waitOn .c .stores))
  ∧ (ok1 → ok2 → ok3 → c.released 0 = true → s.heardOut s.curCore c 0 = true →
    (16 ≤ c.xqueue.length → exec i s = .next (s.waitOn .c .engine))
    ∧ (c.xqueue.length < 16 → ∃ u d, exec i s = .next u ∧ Went u c d c.sregs ∧ SameMemory s u ∧ d.xqueue = c.xqueue ++ [x]
        ∧ d.pending = (if x.cm.getLsbD 0 = true ∧ rd ≠ 0 then insertNat c.pending rd.toNat else c.pending) ∧ d.gran = c.gran
        ∧ u = { s with cores := u.cores, tasks := u.tasks, watched := u.watched, regions := u.regions, order := u.order }
        ∧ d.shard.any (fun h => h.committed == (sh.committed || (xCommits sh x.op x.ra x.rb && !sh.pure))) = true))

/-- The state behind a push: the command is in the queue, the read is entered, and the word has synchronised (R37, R104, R105, R106, R258). -/
def State.pushed (s : State) (c : Core) (sh : Shard) (rd : BitVec 6) (x : XCmd) : State :=
  let w := (s.put (c.queued rd x)).xEnter s.curCore sh x.op x.ra x.rc x.status
  ((if xCommits sh x.op x.ra x.rb then w.commit s.curCore else w).syncPoint s.curCore).tickClock s.curCore

section
variable {s : State} {c : Core} {sh : Shard} (hruns : RunsPlain s .c c sh)
include hruns

theorem settle_pushed (rd : BitVec 6) (x : XCmd) : ∃ ts h u, s.settle .c c sh (.done (s.pushed c sh rd x)) = .next u
    ∧ State.Sets { s with tasks := ts } u s.curCore (c.pushedBy rd x h) ∧ h.committed = (sh.committed || (xCommits sh x.op x.ra x.rb && !sh.pure)) := by
  obtain ⟨⟨hc, hsh, -, -⟩, -⟩ := hruns
  obtain ⟨g, hentered⟩ := (State.sets_put hc (c.queued rd x)).xEnter (sh := sh) hsh sh x.op x.ra x.rc x.status
  obtain ⟨ts, h, hset, hcommitted⟩ := hentered.commitIf rfl (xCommits sh x.op x.ra x.rb)
  exact ⟨ts, h, _, settle_done .., hset.syncPoint.tickClock.completeWord rfl, hcommitted⟩

section
variable {op : BitVec 8} {cb : Bool} {rd ra rb rc : BitVec 6} {cm : BitVec 2} {flags : BitVec 14} {v : Word}
  (hnamed : ∀ r ∈ [ra, rb, rc] ++ if cm.getLsbD 0 then [rd] else [], c.isPending r = false)
include hnamed

theorem pushX_of_badPlace (h1 : xCheck1 op cb (c.sreg ra) (c.sreg rc) = some v) : pushX op cb rd ra rb rc cm flags s = s.settle .c c sh (.trap 13 v) := by
  obtain ⟨⟨hc, hsh, -, -⟩, hspec⟩ := hruns
  rw [pushX, runC_eq _ hc hsh (hspec rfl), Core.ready_eq s _ hnamed]
  dsimp only
  rw [h1]

variable (h1 : xCheck1 op cb (c.sreg ra) (c.sreg rc) = none)
include h1

theorem pushX_of_misaligned (h2 : xCheck2 op cb (c.sreg ra) (c.sreg rc) = some v) : pushX op cb rd ra rb rc cm flags s = s.settle .c c sh (.trap 11 v) := by
  obtain ⟨⟨hc, hsh, -, -⟩, hspec⟩ := hruns
  rw [pushX, runC_eq _ hc hsh (hspec rfl), Core.ready_eq s _ hnamed]
  dsimp only
  rw [h1]
  dsimp only
  rw [h2]

variable (h2 : xCheck2 op cb (c.sreg ra) (c.sreg rc) = none)
include h2

theorem pushX_of_impure (h3 : xCheck3 s.curCore sh op (c.sreg ra) (c.sreg rb) (c.sreg rc) (s.xPacket s.curCore c.pad op (c.sreg ra) (c.sreg rc)) = some v) :
    pushX op cb rd ra rb rc cm flags s = s.settle .c c sh (.trap 10 v) := by
  obtain ⟨⟨hc, hsh, -, -⟩, hspec⟩ := hruns
  rw [pushX, runC_eq _ hc hsh (hspec rfl), Core.ready_eq s _ hnamed]
  dsimp only
  rw [h1]
  dsimp only
  rw [h2]
  dsimp only
  rw [h3]

/-- Behind its checks a push is a release (R89, R90). -/
theorem pushX_of_checked (hacq : c.cs.acquiring = false)
    (h3 : xCheck3 s.curCore sh op (c.sreg ra) (c.sreg rb) (c.sreg rc) (s.xPacket s.curCore c.pad op (c.sreg ra) (c.sreg rc)) = none) :
    pushX op cb rd ra rb rc cm flags s = s.settle .c c sh (c.afterStores s 0 (if 16 ≤ c.xqueue.length then .wait s .engine
      else .done (s.pushed c sh rd (s.pushedX c sh op cb rd (c.sreg ra) (c.sreg rb) (c.sreg rc) cm (16 * flags.toNat))))) := by
  obtain ⟨⟨hc, hsh, -, -⟩, hspec⟩ := hruns
  rw [pushX, runC_eq _ hc hsh (hspec rfl), Core.ready_eq s _ hnamed]
  dsimp only
  rw [h1]
  dsimp only
  rw [h2]
  dsimp only
  rw [h3, Core.release, Core.afterAcquire_of_none hacq, State.pushed, Core.queued_eq, State.pushedX_eq]
  rfl

end

theorem pushesX_of_pushX {op : BitVec 8} {cb : Bool} {rd ra rb rc : BitVec 6} {b d : Word} {cm : BitVec 2} {flags : BitVec 14} {tb : Nat} {i : Instr}
    (hb : c.sreg rb = b) (hd : c.sreg rc = d) (htb : 16 * flags.toNat = tb) (hfree : Free c [rd, ra, rb, rc]) (hacq : c.cs.acquiring = false) (hi : exec i s = pushX op cb rd ra rb rc cm flags s) :
    PushesX s c sh rd i (s.pushedX c sh op cb rd (c.sreg ra) b d cm tb) := by
  subst hb hd htb
  have hnamed : ∀ r ∈ [ra, rb, rc] ++ if cm.getLsbD 0 then [rd] else [], c.isPending r = false := by
    intro r hr
    refine hfree r ?_
    rcases List.mem_append.mp hr with hr | hr
    · exact List.mem_cons_of_mem _ hr
    · split at hr
      · exact List.mem_cons.mpr (.inl (List.mem_singleton.mp hr))
      · cases hr
  have htrap (code : BitVec 8) (v : Word) : s.settle .c c sh (.trap code v) = .next (s.takeTrap s.curCore .c code v) := by
    rw [settle_trap, State.trapWord_of_plain (hruns.2 rfl)]
  have hgoes := fun h1 h2 h3 => hi.trans (pushX_of_checked (op := op) (cb := cb) (flags := flags) hruns hnamed h1 h2 hacq h3)
  refine ⟨fun v h1 => ?_, fun v h1 h2 => ?_, fun v h1 h2 h3 => ?_, fun h1 h2 h3 hloads => ?_, fun h1 h2 h3 hloads hstores => ?_,
    fun h1 h2 h3 hrel hheard => ⟨fun hfull => ?_, fun hroom => ?_⟩⟩
  · exact (hi.trans (pushX_of_badPlace hruns hnamed h1)).trans (htrap 13 v)
  · exact (hi.trans (pushX_of_misaligned hruns hnamed h1 h2)).trans (htrap 11 v)
  · exact (hi.trans (pushX_of_impure hruns hnamed h1 h2 h3)).trans (htrap 10 v)
  · rw [hgoes h1 h2 h3, Core.afterStores, if_pos (by rw [hloads]; decide), settle_wait]
  · rw [hgoes h1 h2 h3, Core.afterStores, if_neg (by rw [hloads]; decide), if_neg (by rw [hstores]; simp), settle_wait]
  · rw [hgoes h1 h2 h3, Core.afterStores_of_released hrel hheard, if_pos hfull, settle_wait]
  · obtain ⟨ts, h, u, hu, hset, hcommitted⟩ := settle_pushed hruns rd (s.pushedX c sh op cb rd (c.sreg ra) (c.sreg rb) (c.sreg rc) cm (16 * flags.toNat))
    refine ⟨u, _, ?_, Core.pushedBy_went (by rw [hset.curCore]; exact hset.core), fun t k => hset.sameMemory (c := c) hruns.1.1 rfl t k, rfl, rfl, rfl, ?_, beq_iff_eq.mpr hcommitted⟩
    · rw [hgoes h1 h2 h3, Core.afterStores_of_released hrel hheard, if_neg (Nat.not_le.mpr hroom), hu]
    · rw [hset.quiet]

end

/-- Settles O27: the twelve words are one push, of the command that each describes. -/
theorem commandPushWords : Obligations.CommandPushWords := by
  intro s c sh rd ra rb rc cm flags reg hruns hfree hacq A B D status cmd tb form e he
  have hsome (l : List (BitVec 6)) (hl : ∀ r ∈ l, r ∈ [rd, ra, rb, rc] ∨ r = 0) : Free c l := by
    intro r hr
    rcases hl r hr with hr | rfl
    · exact hfree r hr
    · rfl
  have htwo : Free c [rd, ra, rb, 0] := hsome _ (by simp)
  have hone : Free c [rd, ra, 0, 0] := hsome _ (by simp)
  simp only [List.mem_cons, List.not_mem_nil, or_false] at he
  rcases he with rfl | rfl | rfl | rfl | rfl | rfl | rfl | rfl | rfl | rfl | rfl | rfl
  · exact pushesX_of_pushX hruns c.sreg_zero c.sreg_zero rfl hone hacq (exec_copy rd ra cm flags s)
  · exact pushesX_of_pushX hruns rfl rfl rfl hfree hacq (exec_tload rd ra rb rc cm flags s)
  · exact pushesX_of_pushX hruns rfl rfl rfl hfree hacq (exec_tstore rd ra rb rc cm flags s)
  · exact pushesX_of_pushX hruns rfl c.sreg_zero rfl htwo hacq (exec_tseal rd ra rb reg s)
  · exact pushesX_of_pushX hruns rfl c.sreg_zero rfl htwo hacq (exec_tsealCb rd ra rb reg s)
  · exact pushesX_of_pushX hruns rfl rfl rfl hfree hacq (exec_tmcast rd ra rb rc cm flags s)
  · exact pushesX_of_pushX hruns rfl rfl rfl hfree hacq (exec_pstore rd ra rb rc cm flags s)
  · exact pushesX_of_pushX hruns rfl rfl rfl hfree hacq (exec_tpark rd ra rb rc cm flags s)
  · exact pushesX_of_pushX hruns rfl c.sreg_zero rfl htwo hacq (exec_tunpark rd ra rb cm flags s)
  · exact pushesX_of_pushX hruns rfl rfl rfl hfree hacq (exec_trepl rd ra rb rc cm flags s)
  · exact pushesX_of_pushX hruns rfl rfl rfl hfree hacq (exec_reqnt rd ra rb rc cm flags s)
  · exact pushesX_of_pushX hruns rfl c.sreg_zero rfl htwo hacq (exec_tdrop rd ra rb cm flags s)

end Sys2Proof.Machine
end

section
/-! What the effects of the matrix array leave in an accumulator (R242 to R249): the window that a command fills, the elements outside it, and the side registers. -/

namespace Sys2Proof.Machine

open Sys2Proof.Claim

/-! ### A read through a run of writes -/

section
variable {α β γ : Type} {step : β → α → β} {read : β → γ}

/-- A run of steps that the read does not see. -/
theorem foldl_keeps {l : List α} (h : ∀ a ∈ l, ∀ m, read (step m a) = read m) (m : β) : read (l.foldl step m) = read m := by
  induction l generalizing m with
  | nil => rfl
  | cons a l ih => exact (ih (fun b hb => h b (List.mem_cons_of_mem _ hb)) _).trans (h a List.mem_cons_self m)

/-- A run of steps of which the read sees one alone. -/
theorem foldl_gives {l : List α} {a : α} {x : γ} (ha : a ∈ l) (hgives : ∀ m, read (step m a) = x) (hrest : ∀ b ∈ l, b ≠ a → ∀ m, read (step m b) = read m) (m : β) :
    read (l.foldl step m) = x := by
  induction l generalizing m with
  | nil => cases ha
  | cons b l ih =>
    by_cases hin : a ∈ l
    · exact ih hin (fun c hc => hrest c (List.mem_cons_of_mem _ hc)) _
    · obtain rfl : a = b := (List.mem_cons.mp ha).resolve_right hin
      rw [List.foldl_cons, foldl_keeps fun c hc => hrest c (List.mem_cons_of_mem _ hc) fun h => hin (h ▸ hc)]
      exact hgives m

end

theorem zipIdx_map_range {α : Type} (f : Nat → α) (n : Nat) : ((List.range n).map f).zipIdx = (List.range n).map fun i => (f i, i) := by
  apply List.ext_getElem <;> simp

/-- Values entered at the rows of a window read back (R245). -/
theorem Map.lookD_foldl_put_range {v : Type} (m : Map v) (r n : Nat) (f : Nat → v) (d : v) {i : Nat} (hi : i < n) :
    Map.lookD ((List.range n).foldl (fun m k => Map.put m (r + k) (f k)) m) (r + i) d = f i :=
  foldl_gives (read := fun m => Map.lookD m (r + i) d) (List.mem_range.mpr hi) (fun _ => Map.lookD_put ..) (fun _ _ hne _ => Map.lookD_put_ne _ _ _ (by omega)) m

/-! ### The window of an accumulator (R242) -/

section
variable (a : Acc) (row col : Nat) (x : MCmd) (f : Nat → Nat → BitVec 32)

/-- The rows of a window are entered one after another. -/
theorem Acc.setWindow_elems : (a.setWindow row col (x.rows f)).elems
    = (List.range x.m).foldl (fun m i => (List.range x.n).foldl (fun m j => Map.put m (128 * (row + i) + (col + j)) (f i j)) m) a.elems := by
  simp only [Acc.setWindow, MCmd.rows, zipIdx_map_range, List.foldl_map]

variable (hcol : col + x.n ≤ 128)
include hcol

theorem Acc.get_setWindow_inside {i j : Nat} (hi : i < x.m) (hj : j < x.n) : (a.setWindow row col (x.rows f)).get (row + i) (col + j) = f i j := by
  rw [Acc.get, Acc.setWindow_elems]
  refine foldl_gives (read := fun m => Map.lookD m (128 * (row + i) + (col + j)) 0) (List.mem_range.mpr hi) (fun m => ?_) (fun i' _ hne m => ?_) a.elems
  · exact foldl_gives (read := fun m => Map.lookD m (128 * (row + i) + (col + j)) 0) (List.mem_range.mpr hj) (fun _ => Map.lookD_put ..)
      (fun j' _ hne _ => Map.lookD_put_ne _ _ _ (by omega)) m
  · refine foldl_keeps (read := fun m => Map.lookD m (128 * (row + i) + (col + j)) 0) (fun j' hj' m => Map.lookD_put_ne _ _ _ ?_) m
    have := List.mem_range.mp hj'
    omega

theorem Acc.get_setWindow_outside {i j : Nat} (hj : j < 128) (hout : ¬ (row ≤ i ∧ i < row + x.m ∧ col ≤ j ∧ j < col + x.n)) :
    (a.setWindow row col (x.rows f)).get i j = a.get i j := by
  rw [Acc.get, Acc.setWindow_elems]
  refine foldl_keeps (read := fun m => Map.lookD m (128 * i + j) 0) (fun i' hi' m => ?_) a.elems
  refine foldl_keeps (read := fun m => Map.lookD m (128 * i + j) 0) (fun j' hj' m => Map.lookD_put_ne _ _ _ fun h => hout ?_) m
  have := List.mem_range.mp hi'
  have := List.mem_range.mp hj'
  omega

end

/-- A window of a checked command lies inside its accumulator (R238). -/
theorem winCol_of_badWindow {x : MCmd} (h : badWindow x = none) : winCol x.ra + x.n ≤ 128 := by
  unfold badWindow at h
  dsimp only at h
  split at h
  · cases h
  next hok =>
    by_contra hlt
    exact hok (.inr (.inr (.inr (.inr (.inr (.inr (.inr (Nat.lt_of_not_le hlt))))))))

/-! ### The effects, by command (R244 to R249) -/

/-- A command writes the elements of its window to an accumulator, and stores nothing. -/
structure MCmd.Fills (x : MCmd) (c : Core) (a : Acc) (f : Nat → Nat → BitVec 32) : Prop where
  effect : ∃ auf, x.effect c = (c.setAcc x.acc a, auf, [])
  elems : a.elems = ((c.acc x.acc).setWindow (winRow x.ra) (winCol x.ra) (x.rows f)).elems

theorem MCmd.rows_fst (x : MCmd) (g : Nat → Nat → BitVec 32 × Bool) : ((x.rows g).map fun r => r.map Prod.fst) = x.rows fun i j => (g i j).1 := by
  simp [MCmd.rows, Function.comp_def]

section
variable {x : MCmd} (c : Core)

theorem MCmd.mma_fills (hop : x.op = 0xB1) : ∃ a, x.Fills c a fun i j => (x.product c i j).1 :=
  ⟨_, ⟨_, by simp [MCmd.effect, MCmd.mul, hop, opMma, MCmd.rows_fst]; rfl⟩, rfl⟩

/-- The side registers that MMAS gives a row of its window (R245). -/
def MCmd.side (x : MCmd) (c : Core) (i : Nat) : BitVec 32 × BitVec 32 × Bool :=
  softRow (c.acc x.acc) (winRow x.ra + i) ((List.range x.n).map fun j => (x.product c i j).1)

/-- The accumulator behind MMAS: its window, and the side registers of the window's rows. -/
def MCmd.softened (x : MCmd) (c : Core) : Acc :=
  { (c.acc x.acc).setWindow (winRow x.ra) (winCol x.ra) (x.rows fun i j => (x.product c i j).1) with
    rowmax := (List.range x.m).foldl (fun m i => Map.put m (winRow x.ra + i) (x.side c i).1) (c.acc x.acc).rowmax
    rowsum := (List.range x.m).foldl (fun m i => Map.put m (winRow x.ra + i) (x.side c i).2.1) (c.acc x.acc).rowsum }

theorem MCmd.mmas_fills (hop : x.op = 0xB2) : x.Fills c (x.softened c) fun i j => (x.product c i j).1 := by
  have hside : ((x.rows (x.product c)).zipIdx.map fun r => (winRow x.ra + r.2, softRow (c.acc x.acc) (winRow x.ra + r.2) (r.1.map Prod.fst)))
      = (List.range x.m).map fun i => (winRow x.ra + i, x.side c i) := by
    simp only [MCmd.rows, MCmd.side, zipIdx_map_range, List.map_map, Function.comp_def]
  exact ⟨⟨_, by simp [MCmd.effect, MCmd.mul, hop, opMma, opMmas, hside, MCmd.rows_fst, List.foldl_map]; exact ⟨rfl, rfl⟩⟩, rfl⟩

/-- MMAS leaves in the side registers of each row what its new values give (R245). -/
theorem MCmd.softened_side {i : Nat} (hi : i < x.m) : (x.softened c).max (winRow x.ra + i) = (x.side c i).1 ∧ (x.softened c).sum (winRow x.ra + i) = (x.side c i).2.1 :=
  ⟨Map.lookD_foldl_put_range _ _ _ _ _ hi, Map.lookD_foldl_put_range _ _ _ _ _ hi⟩

theorem MCmd.mresc_fills (hop : x.op = 0xB3) : ∃ a, x.Fills c a fun i j =>
    (accRound ((f32 ((c.acc x.acc).get (winRow x.ra + i) (winCol x.ra + j))).mul (rescale ((c.acc x.acc).max (winRow x.ra + i)) ((c.acc (!x.acc)).max (winRow x.ra + i)))).1).1 := by
  refine ⟨_, ⟨_, by simp [MCmd.effect, MCmd.mul, hop, opMma, opMmas, opMresc, MCmd.rows_fst]; exact ⟨rfl, rfl⟩⟩, ?_⟩
  rfl

theorem MCmd.mzero_fills (hop : x.op = 0xB4) : ∃ a, x.Fills c a fun _ _ => 0 := by
  refine ⟨_, ⟨_, by simp [MCmd.effect, MCmd.mul, hop, opMma, opMmas, opMresc, opMzero, MCmd.rows_fst]; exact ⟨rfl, rfl⟩⟩, ?_⟩
  split <;> rfl

theorem MCmd.mldac_fills (hop : x.op = 0xB5) : ∃ a, x.Fills c a fun i j =>
    let w := c.padElem (winOff x.ra) 32 (i * x.n + j)
    if winType x.ra = 4 then BitVec.ofNat 32 w else (flushBits w).1 :=
  ⟨_, ⟨_, by simp [MCmd.effect, MCmd.mul, hop, opMma, opMmas, opMresc, opMzero, opMldac, MCmd.rows_fst, apply_ite Prod.fst]; rfl⟩, rfl⟩

theorem MCmd.mnorm_fills (hop : x.op = 0xB8) : ∃ a, x.Fills c a fun i j =>
    (accRound (quotient (f32 ((c.acc x.acc).get (winRow x.ra + i) (winCol x.ra + j))) (f32 ((if x.low then c.acc (!x.acc) else c.acc x.acc).sum (winRow x.ra + i))))).1 :=
  ⟨_, ⟨_, by simp [MCmd.effect, MCmd.mul, hop, opMma, opMmas, opMresc, opMzero, opMldac, opMnorm, MCmd.rows_fst]; rfl⟩, rfl⟩

theorem MCmd.mstac_effect (hop : x.op = 0xB6) :
    x.effect c = (c, false, x.image fun i j => storeElem (winType x.ra) ((c.acc x.acc).get (winRow x.ra + i) (winCol x.ra + j))) := by
  simp [MCmd.effect, MCmd.mul, MCmd.store, hop, opMma, opMmas, opMresc, opMzero, opMldac, opMnorm, opMstac]

theorem MCmd.mstsm_effect (hop : x.op = 0xB7) :
    x.effect c = (c, false, x.image fun i j =>
      (roundTo (winType x.ra) 0 0 false (f32 (softTerm ((c.acc x.acc).get (winRow x.ra + i) (winCol x.ra + j)) ((c.acc x.acc).max (winRow x.ra + i))))).1) := by
  simp [MCmd.effect, MCmd.mul, MCmd.store, hop, opMma, opMmas, opMresc, opMzero, opMldac, opMnorm, opMstac, opMstsm]

end

end Sys2Proof.Machine
end

section
/-! How an M-command starts, ends and hands over its token (R96, R236, R237, R241 to R249, R372). -/

namespace Sys2Proof.Machine

open Sys2Proof.Claim

/-! ### Completion tokens (R58, R236) -/

/-- A core that differs at most in what a completion token changes: its channels and their latch, the tokens that wait, and the region of its shard. -/
def Core.Tokened (c d : Core) : Prop := d = { c with shard := d.shard, tokens := d.tokens, latches := d.latches, slotted := d.slotted }

theorem Core.Tokened.refl (c : Core) : c.Tokened c := rfl

theorem Core.Tokened.trans {c d e : Core} (h : c.Tokened d) (h' : d.Tokened e) : c.Tokened e := by
  rw [Core.Tokened, h', h]

theorem Core.Tokened.acc {c d : Core} (h : c.Tokened d) (b : Bool) : d.acc b = c.acc b := by rw [h]; rfl

theorem Core.sendTokens_tokened (l : List (BitVec 3)) : ∀ c : Core, c.Tokened (c.sendTokens l) := by
  induction l with
  | nil => exact fun c => rfl
  | cons k l ih =>
    intro c
    unfold Core.sendTokens
    split
    · exact .trans (d := c.tokenAdd k.toNat) rfl (ih _)
    · rfl

/-- One token goes out at once where its channel has room. -/
theorem Core.sendTokens_one {c : Core} {k : BitVec 3} (hroom : c.tokenCount k.toNat < 15) : c.sendTokens [k] = { c.tokenAdd k.toNat with slotted := [] } := by
  rw [Core.sendTokens, if_pos hroom, Core.sendTokens]

theorem State.Sets.trans {s t u : State} {n : Nat} {d e : Core} (h : s.Sets t n d) (h' : t.Sets u n e) : s.Sets u n e where
  quiet := by rw [Quiet, h'.quiet, h.quiet]
  core := h'.core
  others m hm := (h'.others m hm).trans (h.others m hm)

theorem State.Sets.setCore (s : State) (n : Nat) (d : Core) : s.Sets (s.setCore n d) n d := ⟨rfl, s.core?_setCore n d, fun _ hm => s.core?_setCore_ne d hm⟩

/-- The tokens that wait go out by one step on the core, which synchronises (R90, R105, R236). -/
theorem State.sendTokens_sets {s : State} {n : Nat} {c : Core} (hc : s.core? n = some c) :
    ∃ d, s.Sets (s.sendTokens n) n d ∧ (c.sendTokens c.slotted).Tokened d ∧ d.slotted = (c.sendTokens c.slotted).slotted ∧ d.tokens = (c.sendTokens c.slotted).tokens := by
  unfold State.sendTokens
  rw [hc]
  dsimp only
  have hset := State.Sets.setCore s n (c.sendTokens c.slotted)
  split
  · exact ⟨_, hset, rfl, rfl, rfl⟩
  · exact ⟨_, hset.syncPoint, rfl, rfl, rfl⟩

/-- A core with a token more that waits. -/
def Core.slotting (c : Core) (k : BitVec 3) : Core := { c with slotted := c.slotted ++ [k] }

/-- The end of a command behind its effect: its token joins those that wait, and what can go out goes out (R236). -/
def State.tokenOut (s : State) (n : Nat) (x : MCmd) : State := (if x.push = 0 then s else s.updCore n fun c => c.slotting x.push).sendTokens n

theorem State.tokenOut_sets {s : State} {n : Nat} {c : Core} (hc : s.core? n = some c) (x : MCmd) :
    ∃ d, s.Sets (s.tokenOut n x) n d ∧ c.Tokened d
      ∧ (c.slotted = [] → x.push ≠ 0 → c.tokenCount x.push.toNat < 15 → d.slotted = [] ∧ d.tokenCount x.push.toNat = c.tokenCount x.push.toNat + 1) := by
  unfold State.tokenOut
  by_cases hpush : x.push = 0
  · rw [if_pos hpush]
    obtain ⟨d, hset, htokened, -⟩ := State.sendTokens_sets hc
    exact ⟨d, hset, (Core.sendTokens_tokened _ c).trans htokened, fun _ h => absurd hpush h⟩
  · rw [if_neg hpush]
    have hslotted := (State.Sets.refl hc).updCore fun c => c.slotting x.push
    obtain ⟨d, hset, htokened, hslot, htokens⟩ := State.sendTokens_sets hslotted.core
    refine ⟨d, hslotted.trans hset, .trans (d := c.slotting x.push) rfl ((Core.sendTokens_tokened _ _).trans htokened), fun hnone _ hroom => ?_⟩
    have hone : (c.slotting x.push).sendTokens (c.slotting x.push).slotted = { (c.slotting x.push).tokenAdd x.push.toNat with slotted := [] } := by
      rw [show (c.slotting x.push).slotted = [x.push] from congrArg (· ++ [x.push]) hnone]
      exact Core.sendTokens_one hroom
    rw [Core.tokenCount, hslot, htokens, hone]
    exact ⟨rfl, c.tokenCount_tokenAdd _⟩

/-! ### The end of a command (R237, R241, R372) -/

theorem Core.acc_setAcc (c : Core) (b : Bool) (a : Acc) : (c.setAcc b a).acc b = a := by cases b <;> rfl

theorem Core.acc_setAcc_not (c : Core) (b : Bool) (a : Acc) : (c.setAcc b a).acc (!b) = c.acc (!b) := by cases b <;> rfl

/-- A command's effect on a core is one on its accumulators. -/
theorem Core.setAcc_frame (c : Core) (b : Bool) (a : Acc) : c.setAcc b a = { c with acc0 := (c.setAcc b a).acc0, acc1 := (c.setAcc b a).acc1 } := by cases b <;> rfl

theorem MCmd.effect_frame (x : MCmd) (c : Core) : (x.effect c).1 = { c with acc0 := (x.effect c).1.acc0, acc1 := (x.effect c).1.acc1 } := by
  unfold MCmd.effect
  dsimp only
  split_ifs
  any_goals exact Core.setAcc_frame _ _ _
  all_goals rfl

/-- A fault record leaves the cores but for their scratchpads and speculations (R378). -/
theorem State.postFault_sameCores (s : State) (ctx : Nat) (f : FaultRec) : s.SameCores (s.postFault ctx f).1 := by
  unfold State.postFault
  split
  · exact .of_cores rfl
  · split
    · exact .of_cores rfl
    · dsimp only
      split
      · exact .of_cores rfl
      · exact ((s.writeTarget_sameCores _ _).trans (State.writeTarget_sameCores _ _ _)).trans (.of_cores rfl)

section
variable {s : State} {n : Nat} {sh : Shard} {c : Core} {x : MCmd}

/-- An MFMT is done when it leaves the queue (R241). -/
theorem State.finishM_of_fmt (hop : x.op = opMfmt) :
    (s.finishM n sh c x).sendTokens n = (s.updCore n fun d => { d with mqueue := c.mqueue.drop 1 }).tokenOut n x := by
  rw [State.finishM, if_pos hop]
  rfl

/-- The core that a failed command leaves: its accumulator is poisoned, or closed, and the address of its fault record is kept (R372, R377). -/
def Core.mFailed (c : Core) (x : MCmd) (rest : List MCmd) (at_ : Word) : Core :=
  { c.setAcc x.acc (if x.closes then (c.acc x.acc).cleared else { c.acc x.acc with poisoned := true }) with
    mqueue := rest
    mfailed := c.mfailed.orElse fun _ => some at_ }

theorem State.finishM_of_fails (hop : x.op ≠ opMfmt) (hfails : c.mFails x = true) :
    ∃ f, (s.finishM n sh c x).sendTokens n
      = ((s.postFault sh.ctx f).1.updCore n fun d => d.mFailed x (c.mqueue.drop 1) (s.postFault sh.ctx f).2).tokenOut n x := by
  rw [State.finishM, if_neg hop, if_pos hfails]
  exact ⟨_, rfl⟩

/-- The core that a command without an error leaves (R244 to R249). -/
def MCmd.done (x : MCmd) (c : Core) : Core :=
  let d := if x.closes then (x.effect c).1.setAcc x.acc ((x.effect c).1.acc x.acc).cleared else (x.effect c).1
  { d with mqueue := c.mqueue.drop 1, fflags := if (x.effect c).2.1 then d.fflags ||| flagAUF else d.fflags }

theorem MCmd.done_frame (x : MCmd) (c : Core) : x.done c = { c with mqueue := c.mqueue.drop 1, acc0 := (x.done c).acc0, acc1 := (x.done c).acc1, fflags := (x.done c).fflags } := by
  unfold MCmd.done
  dsimp only
  split
  · rw [Core.setAcc_frame, x.effect_frame]
  · rw [x.effect_frame]

/-- The state behind the bytes that a command stores (R246). -/
def State.stored (s : State) (n : Nat) (x : MCmd) (bs : List Byte) : State := if bs = [] then s else s.writeTarget (.pad n (winOff x.ra)) bs

theorem State.finishM_of_effect (hop : x.op ≠ opMfmt) (hfails : c.mFails x = false) :
    (s.finishM n sh c x).sendTokens n = ((s.setCore n (x.done c)).stored n x (x.effect c).2.2).tokenOut n x := by
  have hsound : ¬ c.mFails x = true := by rw [hfails]; decide
  rw [State.finishM, if_neg hop, if_neg hsound]
  rfl

end

/-- Bytes that a command stores are at its window's offset in the scratchpad, and every other byte is as before (R246). -/
theorem State.stored_spec {s : State} {n : Nat} {d : Core} (hd : s.core? n = some d) (x : MCmd) (bs : List Byte) :
    (∃ e, (s.stored n x bs).core? n = some e ∧ e.bare = d.bare) ∧ (s.stored n x bs).readTarget (.pad n (winOff x.ra)) bs.length = bs
      ∧ SameBut s (s.stored n x bs) (.pad n (winOff x.ra)) bs.length := by
  unfold State.stored
  split
  next hnone =>
    subst hnone
    exact ⟨⟨d, hd, rfl⟩, List.eq_nil_of_length_eq_zero (State.length_readTarget ..), fun _ _ => rfl⟩
  next =>
    exact ⟨(s.writeTarget_sameCores _ bs).core? hd, State.readTarget_writeTarget_pad (Option.isSome_iff_exists.mpr ⟨d, hd⟩) _ bs rfl, sameBut_writeTarget_pad s n _ bs rfl⟩

/-! ### M_COMMAND_START and M_COMMAND_COMPLETE (R96, R236, R237) -/

section
variable {s : State} {c : Core} {sh : Shard} {x : MCmd} (hc : s.core? s.args.core = some c) (hsh : c.shard = some sh)
include hc hsh

/-- The next command starts; an MFMT at the head is then done (R96, R237, R241). -/
theorem exec_mCommandStart_eq {k : Nat} (hnext : nextStart c.mqueue = some k) (hx : c.mqueue[k]? = some x) :
    let d := { c with mqueue := c.mqueue.set k { x with started := true } }
    exec .mCommandStart s = .next (if k = 0 ∧ x.op = opMfmt then ((s.setCore s.args.core d).finishM s.args.core sh d x).sendTokens s.args.core else s.setCore s.args.core d) := by
  rw [exec_mCommandStart, execMCommandStart, onShard_eq hc hsh]
  dsimp only
  rw [hnext]
  dsimp only
  rw [hx]
  exact (apply_ite _ _ _ _).symm

theorem exec_mCommandComplete_eq {rest : List MCmd} (hq : c.mqueue = x :: rest) (hstarted : x.started = true) (hretry : s.retrying s.args.core 2 = false) :
    exec .mCommandComplete s = .next ((s.finishM s.args.core sh c x).sendTokens s.args.core) := by
  rw [exec_mCommandComplete, execMCommandComplete, onShard_eq hc hsh]
  dsimp only
  rw [hq]
  dsimp only
  rw [if_pos hstarted, if_neg (by rw [hretry]; decide)]

end

/-- A command is done: whatever it does, it leaves the queue with the tokens of its core as they were, and then its token goes out (R236). -/
theorem State.finishM_reaches {s : State} {n : Nat} {c : Core} {x : MCmd} {rest : List MCmd} (hc : s.core? n = some c) (hq : c.mqueue = x :: rest) (sh : Shard) :
    ∃ (t : State) (e : Core), (s.finishM n sh c x).sendTokens n = t.tokenOut n x ∧ t.core? n = some e ∧ e.mqueue = rest ∧ e.slotted = c.slotted ∧ e.tokens = c.tokens := by
  have hrest : c.mqueue.drop 1 = rest := by rw [hq]; rfl
  by_cases hop : x.op = opMfmt
  · exact ⟨_, _, State.finishM_of_fmt hop, ((State.Sets.refl hc).updCore _).core, hrest, rfl, rfl⟩
  · cases hfails : c.mFails x with
    | true =>
      obtain ⟨f, hfinish⟩ := State.finishM_of_fails (s := s) (n := n) (sh := sh) hop hfails
      obtain ⟨d, hd, hbare⟩ := (s.postFault_sameCores sh.ctx f).core? hc
      refine ⟨_, _, hfinish, ((State.Sets.refl hd).updCore _).core, hrest, ?_, ?_⟩
      · rw [Core.mFailed, Core.setAcc_frame]
        exact (congrArg Core.slotted hbare :)
      · rw [Core.mFailed, Core.setAcc_frame]
        exact (congrArg Core.tokens hbare :)
    | false =>
      obtain ⟨⟨e, he, hbare⟩, -⟩ := State.stored_spec (State.core?_setCore s n (x.done c)) x (x.effect c).2.2
      refine ⟨_, e, State.finishM_of_effect hop hfails, he, (congrArg Core.mqueue hbare :).trans hrest, (congrArg Core.slotted hbare :).trans ?_, (congrArg Core.tokens hbare :).trans ?_⟩
      · rw [x.done_frame]
        rfl
      · rw [x.done_frame]
        rfl

section
variable {s : State} {c : Core} {sh : Shard} {x : MCmd} {rest : List MCmd} (hc : s.core? s.args.core = some c) (hsh : c.shard = some sh) (hq : c.mqueue = x :: rest)
  (hstarted : x.started = true) (hretry : s.retrying s.args.core 2 = false)
include hc hsh hq hstarted hretry

theorem mCommandComplete_pushes (hslotted : c.slotted = []) (hpush : x.push ≠ 0) (hroom : c.tokenCount x.push.toNat < 15) :
    ∃ u d, exec .mCommandComplete s = .next u ∧ u.core? s.args.core = some d ∧ d.mqueue = rest ∧ d.slotted = []
      ∧ d.tokenCount x.push.toNat = c.tokenCount x.push.toNat + 1 := by
  obtain ⟨t, e, hfinish, he, hrest, hslots, htokens⟩ := State.finishM_reaches hc hq sh
  obtain ⟨d, hset, htokened, hsent⟩ := State.tokenOut_sets he x
  have hcount : e.tokenCount x.push.toNat = c.tokenCount x.push.toNat := by rw [Core.tokenCount, htokens]; rfl
  rw [hcount] at hsent
  obtain ⟨hnone, hone⟩ := hsent (hslots.trans hslotted) hpush hroom
  exact ⟨_, d, by rw [exec_mCommandComplete_eq hc hsh hq hstarted hretry, hfinish], hset.core, by rw [htokened]; exact hrest, hnone, hone⟩

theorem mCommandComplete_fails (hop : x.op ≠ opMfmt) (hfails : c.mFails x = true) :
    ∃ u d, exec .mCommandComplete s = .next u ∧ u.core? s.args.core = some d ∧ d.mqueue = rest ∧ d.mfailed.isSome = true
      ∧ d.acc x.acc = if x.closes then (c.acc x.acc).cleared else { c.acc x.acc with poisoned := true } := by
  obtain ⟨f, hfinish⟩ := State.finishM_of_fails (s := s) (n := s.args.core) (sh := sh) hop hfails
  obtain ⟨b, hb, hbare⟩ := (s.postFault_sameCores sh.ctx f).core? hc
  obtain ⟨d, hset, htokened, -⟩ := State.tokenOut_sets ((State.Sets.refl hb).updCore fun d => d.mFailed x (c.mqueue.drop 1) (s.postFault sh.ctx f).2).core x
  refine ⟨_, d, by rw [exec_mCommandComplete_eq hc hsh hq hstarted hretry, hfinish], hset.core, ?_, ?_, ?_⟩
  · rw [htokened, hq]
    rfl
  · rw [htokened]
    show (b.mfailed.orElse _).isSome = true
    cases b.mfailed <;> rfl
  · have hacc : b.acc x.acc = c.acc x.acc := (congrArg (Core.acc · x.acc) hbare :)
    rw [htokened.acc, ← hacc]
    exact Core.acc_setAcc ..

/-- A command that fills its window leaves its accumulator as it has computed it, the other one and memory as they were (R244, R245, R247 to R249). -/
theorem mCommandComplete_fills {a : Acc} {f : Nat → Nat → BitVec 32} (hop : x.op ≠ opMfmt) (hfails : c.mFails x = false) (hstays : x.closes = false) (hfills : x.Fills c a f) :
    ∃ u d, exec .mCommandComplete s = .next u ∧ u.core? s.args.core = some d ∧ d.mqueue = rest ∧ SameMemory s u ∧ d.acc x.acc = a ∧ d.acc (!x.acc) = c.acc (!x.acc) := by
  obtain ⟨auf, heffect⟩ := hfills.effect
  have hdone : ∃ g, x.done c = { c.setAcc x.acc a with mqueue := rest, fflags := g } := by
    rw [MCmd.done, heffect, hstays, hq]
    exact ⟨_, rfl⟩
  obtain ⟨g, hdone⟩ := hdone
  have hfinish := State.finishM_of_effect (s := s) (n := s.args.core) (sh := sh) hop hfails
  rw [heffect, State.stored, if_pos rfl] at hfinish
  obtain ⟨d, hset, htokened, -⟩ := State.tokenOut_sets (State.core?_setCore s s.args.core (x.done c)) x
  have hpad : (x.done c).pad = c.pad := by rw [hdone, Core.setAcc_frame]
  refine ⟨_, d, by rw [exec_mCommandComplete_eq hc hsh hq hstarted hretry, hfinish], hset.core, by rw [htokened, hdone], ((State.Sets.setCore s s.args.core _).trans hset).sameMemory hc ?_, ?_, ?_⟩
  · rw [htokened, hpad]
  · rw [htokened.acc, hdone]
    exact c.acc_setAcc x.acc a
  · rw [htokened.acc, hdone]
    exact c.acc_setAcc_not x.acc a

/-- A command that stores leaves its bytes in the scratchpad, and its accumulator as it was unless it closes it (R246). -/
theorem mCommandComplete_stores {bs : List Byte} (hop : x.op ≠ opMfmt) (hfails : c.mFails x = false) (heffect : x.effect c = (c, false, bs)) :
    ∃ u d, exec .mCommandComplete s = .next u ∧ u.core? s.args.core = some d ∧ d.mqueue = rest
      ∧ (∀ b, d.acc b = (if x.closes then c.setAcc x.acc (c.acc x.acc).cleared else c).acc b)
      ∧ u.readTarget (.pad s.args.core (winOff x.ra)) bs.length = bs ∧ SameBut s u (.pad s.args.core (winOff x.ra)) bs.length := by
  have hfinish := State.finishM_of_effect (s := s) (n := s.args.core) (sh := sh) hop hfails
  rw [heffect] at hfinish
  obtain ⟨⟨e, he, hbare⟩, hread, hbut⟩ := State.stored_spec (State.core?_setCore s s.args.core (x.done c)) x bs
  obtain ⟨d, hset, htokened, -⟩ := State.tokenOut_sets he x
  have hpad : (x.done c).pad = c.pad := by rw [x.done_frame]
  have hmem := hset.sameMemory he (by rw [htokened])
  refine ⟨_, d, by rw [exec_mCommandComplete_eq hc hsh hq hstarted hretry, hfinish], hset.core, ?_, fun b => ?_, (hmem _ _).trans hread,
    sameBut_of_sameMemory hbut (State.setCore_sameMemory hc hpad) hmem⟩
  · rw [htokened]
    exact (congrArg Core.mqueue hbare :).trans (by rw [x.done_frame, hq]; rfl)
  · rw [htokened.acc]
    refine (congrArg (Core.acc · b) hbare :).trans ?_
    rw [MCmd.done, heffect]
    rfl

/-- An MFMT that completes behind earlier commands changes nothing but the queue and its token (R241). -/
theorem mCommandComplete_fmt (hop : x.op = opMfmt) :
    ∃ u d, exec .mCommandComplete s = .next u ∧ u.core? s.args.core = some d ∧ d.mqueue = rest ∧ d.acc0 = c.acc0 ∧ d.acc1 = c.acc1 ∧ SameMemory s u := by
  have hqueue := (State.Sets.refl hc).updCore fun d => { d with mqueue := c.mqueue.drop 1 }
  obtain ⟨d, hset, htokened, -⟩ := State.tokenOut_sets hqueue.core x
  refine ⟨_, d, by rw [exec_mCommandComplete_eq hc hsh hq hstarted hretry, State.finishM_of_fmt hop], hset.core, ?_, ?_, ?_, (hqueue.trans hset).sameMemory hc ?_⟩
  · rw [htokened, hq]
    rfl
  · rw [htokened]
  · rw [htokened]
  · rw [htokened]

end

/-- M-commands start in order, fail as their errors say, and hand over their tokens (R96, R236, R237, R241, R372). -/
theorem matrixCommandSteps : MatrixCommandSteps := by
  intro s c sh x hc hsh
  refine ⟨fun k hnext hx => ⟨fun hother => ?_, fun hk hop => ?_⟩, fun rest hq hstarted hretry hop hfails => ?_,
    fun rest hq hstarted hretry => mCommandComplete_pushes hc hsh hq hstarted hretry⟩
  · rw [exec_mCommandStart_eq hc hsh hnext hx, if_neg]
    exact fun ⟨hk, hop⟩ => hother.elim (absurd hk) (absurd hop)
  · have hstart := State.Sets.setCore s s.args.core { c with mqueue := c.mqueue.set k { x with started := true } }
    have hqueue := hstart.updCore fun d => { d with mqueue := (c.mqueue.set k { x with started := true }).drop 1 }
    obtain ⟨d, hset, htokened, -⟩ := State.tokenOut_sets hqueue.core x
    refine ⟨_, d, ?_, (hqueue.trans hset).quiet, hset.core, ?_, ?_, ?_⟩
    · rw [exec_mCommandStart_eq hc hsh hnext hx, if_pos ⟨hk, hop⟩, State.finishM_of_fmt hop]
    · rw [htokened, hk]
      exact List.drop_set_of_lt Nat.zero_lt_one
    · rw [htokened]
    · rw [htokened]
  · obtain ⟨u, d, hexec, hd, hrest, hkept, hacc⟩ := mCommandComplete_fails hc hsh hq hstarted hretry hop hfails
    exact ⟨u, d, hexec, hd, hrest, hkept, fun hstays => by rw [hacc, hstays]; rfl, fun hcloses => by rw [hacc, hcloses]; exact ⟨rfl, rfl⟩⟩

/-- Only MSTAC and MSTSM close a chain (R250). -/
theorem MCmd.closes_of_op {x : MCmd} (hstac : x.op ≠ opMstac) (hstsm : x.op ≠ opMstsm) : x.closes = false := by
  rw [MCmd.closes, MCmd.stores, beq_eq_false_iff_ne.mpr hstac, beq_eq_false_iff_ne.mpr hstsm]
  rfl

/-- M-commands without an error do what their rules say to the accumulators and the scratchpad (R242 to R249). -/
theorem matrixCommandEffects : MatrixCommandEffects := by
  intro s c sh x rest
  dsimp only
  intro hc hsh hq hstarted hretry hfails hwindow
  have hcol := winCol_of_badWindow hwindow
  have hcomplete {op : BitVec 8} {a : Acc} {f : Nat → Nat → BitVec 32} (hop : x.op = op) (hkind : op ≠ opMfmt ∧ op ≠ opMstac ∧ op ≠ opMstsm) (h : x.Fills c a f) :=
    mCommandComplete_fills hc hsh hq hstarted hretry (hop ▸ hkind.1) hfails (MCmd.closes_of_op (hop ▸ hkind.2.1) (hop ▸ hkind.2.2)) h
  have hmakes {op : BitVec 8} {a : Acc} {f : Nat → Nat → BitVec 32} (hop : x.op = op) (hkind : op ≠ opMfmt ∧ op ≠ opMstac ∧ op ≠ opMstsm) (h : x.Fills c a f) :
      ∃ u d, exec .mCommandComplete s = .next u ∧ u.core? s.args.core = some d ∧ d.mqueue = rest ∧ SameMemory s u ∧ (d.acc (!x.acc)).elems = (c.acc (!x.acc)).elems
        ∧ (∀ i < x.m, ∀ j < x.n, (d.acc x.acc).get (winRow x.ra + i) (winCol x.ra + j) = f i j)
        ∧ ∀ i j, j < 128 → ¬ (winRow x.ra ≤ i ∧ i < winRow x.ra + x.m ∧ winCol x.ra ≤ j ∧ j < winCol x.ra + x.n) → (d.acc x.acc).get i j = (c.acc x.acc).get i j := by
    obtain ⟨u, d, hexec, hd, hrest, hmem, hacc, hother⟩ := hcomplete hop hkind h
    have hget (i j : Nat) : (d.acc x.acc).get i j = ((c.acc x.acc).setWindow (winRow x.ra) (winCol x.ra) (x.rows f)).get i j := by
      rw [hacc, Acc.get, h.elems]
      rfl
    exact ⟨u, d, hexec, hd, hrest, hmem, by rw [hother], fun i hi j hj => (hget _ _).trans (Acc.get_setWindow_inside _ _ _ x f hcol hi hj),
      fun i j hj hout => (hget i j).trans (Acc.get_setWindow_outside _ _ _ x f hcol hj hout)⟩
  have hstores {bs : List Byte} (hop : x.op ≠ opMfmt) (heffect : x.effect c = (c, false, bs)) :
      ∃ u d, exec .mCommandComplete s = .next u ∧ u.core? s.args.core = some d ∧ d.mqueue = rest ∧ (x.closes = false → d.acc0 = c.acc0 ∧ d.acc1 = c.acc1)
        ∧ (x.closes = true → d.acc x.acc = (c.acc x.acc).cleared ∧ d.acc (!x.acc) = c.acc (!x.acc))
        ∧ u.readTarget (.pad s.args.core (winOff x.ra)) bs.length = bs ∧ SameBut s u (.pad s.args.core (winOff x.ra)) bs.length := by
    obtain ⟨u, d, hexec, hd, hrest, hacc, hread, hbut⟩ := mCommandComplete_stores hc hsh hq hstarted hretry hop hfails heffect
    refine ⟨u, d, hexec, hd, hrest, fun hstays => ?_, fun hcloses => ?_, hread, hbut⟩
    · rw [hstays, if_neg Bool.false_ne_true] at hacc
      exact ⟨hacc false, hacc true⟩
    · rw [hcloses, if_pos rfl] at hacc
      exact ⟨(hacc _).trans (c.acc_setAcc _ _), (hacc _).trans (c.acc_setAcc_not _ _)⟩
  refine ⟨fun hop => ?_, fun hop => ⟨hmakes hop (by decide) (MCmd.mmas_fills c hop), ?_⟩, fun hop => ?_, fun hop => ?_, fun hop => ?_, fun hop => ?_,
    fun hop => hstores (by rw [hop]; decide) (MCmd.mstac_effect c hop), fun hop => hstores (by rw [hop]; decide) (MCmd.mstsm_effect c hop),
    mCommandComplete_fmt hc hsh hq hstarted hretry⟩
  · obtain ⟨a, h⟩ := MCmd.mma_fills c hop
    exact hmakes hop (by decide) h
  · obtain ⟨u, d, hexec, hd, -, -, hacc, -⟩ := hcomplete hop (by decide) (MCmd.mmas_fills c hop)
    exact ⟨u, d, hexec, hd, fun i hi => by rw [hacc]; exact MCmd.softened_side c hi⟩
  · obtain ⟨a, h⟩ := MCmd.mresc_fills c hop
    exact hmakes hop (by decide) h
  · obtain ⟨a, h⟩ := MCmd.mzero_fills c hop
    exact hmakes hop (by decide) h
  · obtain ⟨a, h⟩ := MCmd.mldac_fills c hop
    exact hmakes hop (by decide) h
  · obtain ⟨a, h⟩ := MCmd.mnorm_fills c hop
    exact hmakes hop (by decide) h

/-- Settles O52: how a command starts and ends, and what each command's effect leaves of its window and of memory. -/
theorem matrixCommands : Obligations.MatrixCommands := ⟨matrixCommandSteps, matrixCommandEffects⟩

end Sys2Proof.Machine
end

section
/-! How a command of the X-engines starts (R96, R262, R263, R267 to R271). -/

namespace Sys2Proof.Machine

open Sys2Proof.Claim

/-! ### The outcome of a start -/

section
variable {s : State} {sh : Shard} {x : XCmd}

theorem State.startX_of_status (hst : x.status ≠ none) : s.startX sh x = (s, x) := by
  rw [State.startX]
  exact if_pos (Option.isSome_iff_ne_none.mpr hst)

section
variable (hst : ¬ x.status.isSome = true)
include hst

theorem State.startX_copy (hop : x.op = opCopy) : s.startX sh x = (s, if Packet.malformed x.packet then { x with status := some 5 } else x) := by
  rw [State.startX, if_neg hst, if_pos hop]
  exact (apply_ite (Prod.mk s) _ _ _).symm

/-- TSEAL.cb of a length that R271 does not allow. -/
theorem State.startX_sealLines_bad (hop : x.op = opTseal) (hcb : x.cb = true) (hlen : x.rb.toNat % 64 ≠ 0 ∨ x.rb.toNat < 64 ∨ 2 ^ 24 < x.rb.toNat) :
    s.startX sh x = (s, { x with status := some 5 }) := by
  rw [State.startX, if_neg hst, if_neg (by rw [hop]; decide), if_pos ⟨hop, hcb⟩]
  exact if_pos hlen

section
variable (hcopy : x.op ≠ opCopy) (hseal : x.op ≠ opTseal)
include hcopy hseal

/-- A reference that no tensor answers ends any other command, but for the store of a rebuild (R267, R417). -/
theorem State.startX_badRef {st : BitVec 8} (href : s.checkRef sh x.ref = .inl st) (hrebuild : x.op = opTstore ∨ x.op = opPstore → sh.rebuild = false) :
    s.startX sh x = (s, { x with status := some st }) := by
  rw [State.startX, if_neg hst, if_neg hcopy, if_neg fun h => hseal h.1, href]
  have hkept : ¬ ((x.op = opTstore ∨ x.op = opPstore) ∧ sh.rebuild = true ∧ x.ref.handle = 0xFFFFFFFF) := fun ⟨hop, hre, _⟩ => by
    rw [hrebuild hop] at hre
    exact Bool.noConfusion hre
  dsimp only
  rw [if_neg hkept]

/-- A store goes on where its reference names what it writes (R269). -/
theorem State.startX_store {t : Tensor} (hop : x.op = opTstore ∨ x.op = opPstore) (href : s.checkRef sh x.ref = .inr t) :
    s.startX sh x = (s, if x.ref.latest = true ∨ x.ref.twin = true ∨ t.twin ≠ decide (x.op = opPstore) then { x with status := some 5 } else x) := by
  rw [State.startX, if_neg hst, if_neg hcopy, if_neg fun h => hseal h.1, href]
  dsimp only
  rw [if_pos hop]
  have htwin : ((t.twin = true) ≠ (x.op = opPstore)) ↔ t.twin ≠ decide (x.op = opPstore) := by
    by_cases h : x.op = opPstore <;> cases t.twin <;> simp [h]
  by_cases hbad : x.ref.latest = true ∨ x.ref.twin = true ∨ t.twin ≠ decide (x.op = opPstore)
  · rw [if_pos hbad]
    exact if_pos (by rwa [htwin])
  · rw [if_neg hbad]
    exact if_neg (by rwa [htwin])

end

section
variable (hop : x.op = opTload) {t : Tensor} (href : s.checkRef sh x.ref = .inr t)
include hop href

/-- TLOAD of a version that is not sealed, or not there, ends with its STATUS (R268). -/
theorem State.startX_load_unsealed {st : BitVec 8} (hversion : s.sealedVersion sh x.ref = .inl st) : s.startX sh x = (s, { x with status := some st }) := by
  simp [State.startX, State.askedFor, hst, hop, href, hversion, opTload, opTseal, opCopy, opTstore, opPstore, opTrepl, opReqnt, opTdrop, opTpark]

/-- TLOAD keeps the exact reference of the version that it reads (R268). -/
theorem State.startX_load {r : Ref} {key : Nat} {v : Version} (hversion : s.sealedVersion sh x.ref = .inr (r, key, v)) :
    s.startX sh x = (s.startFetch v, { x with ra := r.word.extractLsb' 0 64, rb := r.word.extractLsb' 64 64, written := 0 }) := by
  simp [State.startX, hst, hop, href, hversion, opTload, opTseal, opCopy, opTstore, opPstore, opTrepl, opReqnt, opTdrop, opTpark, opTunpark]

end

end

end

/-! ### X_COMMAND_START -/

section
variable {s : State} {c : Core} {sh : Shard} {k : Nat} {x : XCmd} (hc : s.core? s.args.core = some c) (hsh : c.shard = some sh) (hres : c.resuming = none)
  (hk : c.xqueue.findIdx? (fun y => !y.started) = some k) (hx : c.xqueue[k]? = some x)
include hc hsh hres hk hx

/-- The oldest command that has not started starts (R96). -/
theorem exec_xCommandStart_eq : exec .xCommandStart s
    = .next ((s.startX sh { x with started := true }).1.updCore s.args.core fun d => { d with xqueue := d.xqueue.set k (s.startX sh { x with started := true }).2 }) := by
  rw [exec_xCommandStart, execXCommandStart, onShard_eq hc hsh, if_neg (by rw [hres]; decide), hk]
  dsimp only
  rw [hx]

/-- A start that leaves everything but the command. -/
theorem exec_xCommandStart_exactly {y : XCmd} (hstart : s.startX sh { x with started := true } = (s, y)) :
    exec .xCommandStart s = .next (s.setCore s.args.core { c with xqueue := c.xqueue.set k y }) := by
  rw [exec_xCommandStart_eq hc hsh hres hk hx, hstart]
  exact congrArg _ (State.updCore_of_core? hc _)

end

/-- A command starts as its operands say; what it names is checked, and nothing else changes (R96, R262, R263, R267 to R271). -/
theorem commandStarts : CommandStarts := by
  intro s c sh k x hc hsh hres hk hx
  dsimp only
  have hexactly {y : XCmd} (hstart : s.startX sh { x with started := true } = (s, y)) := exec_xCommandStart_exactly hc hsh hres hk hx hstart
  refine ⟨fun hst => hexactly (State.startX_of_status hst), fun hnone => ?_⟩
  have hst : ¬ x.status.isSome = true := by rw [hnone]; decide
  refine ⟨fun hop hbad => ?_, fun hop hok => ?_, fun hop hcb hlen => hexactly (State.startX_sealLines_bad (x := { x with started := true }) hst hop hcb hlen),
    fun hop hrebuild => ?_, fun hop => ⟨fun st href => ?_, fun t st href hversion => ?_, fun t r key v href hversion => ?_⟩⟩
  · refine hexactly ((State.startX_copy (x := { x with started := true }) hst hop).trans ?_)
    rw [if_pos hbad]
  · refine hexactly ((State.startX_copy (x := { x with started := true }) hst hop).trans ?_)
    rw [if_neg (by rw [hok]; decide)]
  · have hcopy : x.op ≠ opCopy := by rcases hop with h | h <;> rw [h] <;> decide
    have hseal : x.op ≠ opTseal := by rcases hop with h | h <;> rw [h] <;> decide
    have hstore {t : Tensor} (href : s.checkRef sh x.ref = .inr t) := State.startX_store (x := { x with started := true }) hst hcopy hseal hop href
    refine ⟨fun st href => hexactly (State.startX_badRef (x := { x with started := true }) hst hcopy hseal href fun _ => hrebuild), fun t href hbad => ?_,
      fun t href hlatest htwin hfits => ?_⟩
    · exact hexactly ((hstore href).trans (congrArg (Prod.mk s) (if_pos hbad)))
    · refine hexactly ((hstore href).trans (congrArg (Prod.mk s) (if_neg ?_)))
      rintro (h | h | h)
      · exact Bool.noConfusion (hlatest.symm.trans h)
      · exact Bool.noConfusion (htwin.symm.trans h)
      · exact h hfits
  · exact hexactly (State.startX_badRef (x := { x with started := true }) hst (by rw [hop]; decide) (by rw [hop]; decide) href
      fun h => absurd h (by rw [hop]; decide))
  · exact hexactly (State.startX_load_unsealed (x := { x with started := true }) hst hop href hversion)
  · have hstart := State.startX_load (x := { x with started := true }) hst hop href hversion
    obtain ⟨f, hfetch⟩ := s.startFetch_frame v
    have hfetched : (s.startX sh { x with started := true }).1.core? s.args.core = some c := by
      rw [hstart, hfetch]
      exact hc
    exact ⟨_, _, exec_xCommandStart_eq hc hsh hres hk hx, ⟨_, ((State.Sets.refl hfetched).updCore _).core, rfl, rfl, rfl⟩, congrArg Prod.snd hstart⟩

end Sys2Proof.Machine
end

section
/-! What the copy engine changes of its core and of memory on the way through a group (R104, R260 to R265): the commands and registers of the core stay but for the messages that the copy sends. -/

namespace Sys2Proof.Machine

open Sys2Proof.Claim

/-! ### A core whose commands stay -/

/-- A core keeps its commands, its scalar registers and its C-stream. -/
def State.KeepsCommands (s : State) (n : Nat) (u : State) : Prop := ∀ c, s.core? n = some c → ∃ d, u.core? n = some d ∧ c.SameCommands d

namespace State.KeepsCommands

variable {s t u : State} {n : Nat}

theorem refl (s : State) (n : Nat) : s.KeepsCommands n s := fun c hc => ⟨c, hc, .refl c⟩

theorem trans (h : s.KeepsCommands n t) (h' : t.KeepsCommands n u) : s.KeepsCommands n u := by
  intro c hc
  obtain ⟨d, hd, hsame⟩ := h c hc
  obtain ⟨e, he, hsame'⟩ := h' d hd
  exact ⟨e, he, hsame'.xqueue.trans hsame.xqueue, hsame'.sregs.trans hsame.sregs, hsame'.pending.trans hsame.pending, hsame'.cs.trans hsame.cs⟩

theorem of_cores (h : u.cores = s.cores) : s.KeepsCommands n u := fun c hc => ⟨c, by rw [State.core?, h]; exact hc, .refl c⟩

theorem of_onlyPorts (h : s.OnlyPorts u) : s.KeepsCommands n u := .of_cores (by rw [h.eq])

theorem of_sameCores (h : s.SameCores u) : s.KeepsCommands n u := by
  intro c hc
  obtain ⟨d, hd, hbare⟩ := h.core? hc
  exact ⟨d, hd, .of_bare hbare⟩

/-- A step on any core that leaves its commands. -/
theorem updCore (s : State) (n k : Nat) {f : Core → Core} (hf : ∀ c : Core, c.SameCommands (f c)) : s.KeepsCommands n (s.updCore k f) := by
  intro c hc
  by_cases hk : n = k
  · subst hk
    exact ⟨f c, by rw [State.core?_updCore, hc]; rfl, hf c⟩
  · exact ⟨c, by rw [State.core?_updCore_ne _ _ hk]; exact hc, .refl c⟩

end State.KeepsCommands

theorem State.watch_keepsCommands (s : State) (n : Nat) (sh : Shard) (t : Target) (len : Nat) (write data atomic : Bool) :
    s.KeepsCommands n (s.watch n sh t len write data atomic) := fun _ hc => s.watch_sameCommands n sh t len write data atomic hc

theorem State.writeTarget_keepsCommands (s : State) (n : Nat) (t : Target) (bs : List Byte) : s.KeepsCommands n (s.writeTarget t bs) :=
  .of_sameCores (s.writeTarget_sameCores t bs)

theorem State.cacheDrop_keepsCommands (s : State) (n : Nat) (t : Target) : s.KeepsCommands n (s.updCore n fun c => c.cacheDrop t) :=
  .updCore s n n fun c => by rw [c.cacheDrop_eq]; exact ⟨rfl, rfl, rfl, rfl⟩

theorem State.chargePiece_onlyPorts (s : State) (n : Nat) (t : Target) : s.OnlyPorts (s.chargePiece n t) := by
  cases t with
  | pad k o => exact .refl s
  | dram a =>
    refine .trans (t := if s.args.flag then s.rowOpened (rowPlace a) actTask else s) ?_ ((State.charge_onlyPorts _ _ _ _).trans (State.chargeFlits_onlyPorts _ _ _ _ _ _))
    split
    · exact s.rowOpened_onlyPorts _ _
    · exact .refl s
  | host p a => exact s.chargeHub_onlyPorts _ _ _
  | peer p a => exact s.chargeHub_onlyPorts _ _ _

theorem State.unpoison_keepsCommands (s : State) (n : Nat) (t : Target) : s.KeepsCommands n (s.unpoison t) := by
  cases t with
  | pad k o => exact .updCore s n k fun _ => ⟨rfl, rfl, rfl, rfl⟩
  | dram a => exact .of_cores rfl
  | host p a => exact .refl s n
  | peer p a => exact .refl s n

theorem State.unpoison_sameMemory (s : State) (t : Target) : SameMemory s (s.unpoison t) := by
  cases t with
  | pad k o => exact s.updCore_sameMemory k fun _ => rfl
  | dram a => exact sameMemory_of_eq rfl rfl rfl rfl
  | host p a => exact fun _ _ => rfl
  | peer p a => exact fun _ _ => rfl

/-- Marks that are cleared leave the commands of every core, and memory (R373). -/
theorem State.coverLines_frame (n m : Nat) (sh : Shard) (segs : List (Word × Nat)) (s : State) :
    s.KeepsCommands m (s.coverLines n sh segs) ∧ SameMemory s (s.coverLines n sh segs) := by
  unfold State.coverLines
  refine List.foldlRecOn (motive := fun u => s.KeepsCommands m u ∧ SameMemory s u) segs _ ⟨.refl s m, fun _ _ => rfl⟩ fun u hu p _ => ?_
  dsimp only
  split
  next t _ =>
    split
    · exact ⟨hu.1.trans (u.unpoison_keepsCommands m t), fun y k => (u.unpoison_sameMemory t y k).trans (hu.2 y k)⟩
    · exact hu
  next => exact hu

/-- A read of the engine is charged and entered; its core keeps its commands (R104). -/
theorem State.engineNote_keepsCommands (s : State) (n : Nat) (sh : Shard) (va : Word) (len : Nat) : s.KeepsCommands n (s.engineNote n sh va len) := by
  unfold State.engineNote
  split
  next t _ =>
    have hcharged := s.chargePiece_onlyPorts n t
    dsimp only
    split
    · exact .of_onlyPorts hcharged
    · exact (State.KeepsCommands.of_onlyPorts hcharged).trans (State.watch_keepsCommands _ n sh t len false true false)
  next => exact .refl s n

theorem State.engineNotes_keepsCommands (n : Nat) (sh : Shard) (segs : List (Word × Nat)) : ∀ s : State, s.KeepsCommands n (s.engineNotes n sh segs) := by
  induction segs with
  | nil => exact fun s => .refl s n
  | cons p segs ih => exact fun s => (s.engineNote_keepsCommands n sh p.1 p.2).trans (ih _)

/-! ### A command that sends messages -/

/-- A core keeps its registers, and a command of its queue all but the messages it has sent (R85, R348). -/
def State.KeepsCommand (s : State) (n idx : Nat) (u : State) : Prop :=
  ∀ c x, s.core? n = some c → c.xqueue[idx]? = some x → ∃ d l, u.core? n = some d ∧ d.sregs = c.sregs ∧ d.xqueue[idx]? = some { x with msgs := l }

namespace State.KeepsCommand

variable {s t u : State} {n idx : Nat}

theorem of_keepsCommands (h : s.KeepsCommands n u) : s.KeepsCommand n idx u := by
  intro c x hc hx
  obtain ⟨d, hd, hsame⟩ := h c hc
  exact ⟨d, x.msgs, hd, hsame.sregs, by rw [hsame.xqueue]; exact hx⟩

theorem refl (s : State) (n idx : Nat) : s.KeepsCommand n idx s := of_keepsCommands (.refl s n)

theorem trans (h : s.KeepsCommand n idx t) (h' : t.KeepsCommand n idx u) : s.KeepsCommand n idx u := by
  intro c x hc hx
  obtain ⟨d, l, hd, hsregs, hxd⟩ := h c x hc hx
  obtain ⟨e, l', he, hsregs', hxe⟩ := h' d _ hd hxd
  exact ⟨e, l', he, hsregs'.trans hsregs, hxe⟩

end State.KeepsCommand

theorem State.sendX_keepsCommand (s : State) (n : Nat) (sh : Shard) (idx port a : Nat) (va : Word) (len : Nat) (bs : Option (List Byte)) :
    s.KeepsCommand n idx (s.sendX n sh idx port a va len bs) := by
  intro c x hc hx
  refine ⟨_, x.msgs ++ [{ tag := s.tag, va := va, len := len, write := bs.isSome, data := none, failed := false }], ((State.Sets.refl hc).updCore _).core, rfl, ?_⟩
  dsimp only
  rw [List.getElem?_modify_eq, hx]
  rfl

theorem State.engineWrite_keepsCommand (s : State) (n : Nat) (sh : Shard) (idx : Nat) (va : Word) (bs : List Byte) : s.KeepsCommand n idx (s.engineWrite n sh idx va bs).1 := by
  unfold State.engineWrite
  split
  · exact .refl s n idx
  next p a _ =>
    exact (State.KeepsCommand.of_keepsCommands (.of_onlyPorts (s.chargePiece_onlyPorts n (.peer p a)))).trans (State.sendX_keepsCommand _ n sh idx p a va bs.length (some bs))
  next p a _ =>
    split
    · exact .refl s n idx
    · exact .of_keepsCommands ((State.KeepsCommands.of_onlyPorts (s.chargePiece_onlyPorts n (.host p a))).trans (State.writeTarget_keepsCommands _ n _ bs))
  next t _ _ _ =>
    split
    · exact .refl s n idx
    · split
      · exact .refl s n idx
      · exact .of_keepsCommands ((((State.KeepsCommands.of_onlyPorts (s.chargePiece_onlyPorts n t)).trans (State.watch_keepsCommands _ n sh t _ true true false)).trans
          (State.writeTarget_keepsCommands _ n t bs)).trans (State.cacheDrop_keepsCommands _ n t))

theorem State.engineWrites_keepsCommand (n : Nat) (sh : Shard) (idx : Nat) (segs : List (Word × Nat)) (bs : List Byte) (s : State) :
    s.KeepsCommand n idx (s.engineWrites n sh idx segs bs).1 := by
  induction segs generalizing s bs with
  | nil => exact .refl s n idx
  | cons p segs ih => exact (s.engineWrite_keepsCommand n sh idx p.1 (slice bs 0 p.2)).trans (ih _ _)

theorem State.copyChunk_keepsCommand (s : State) (n : Nat) (sh : Shard) (idx : Nat) (msgs : List XMsg) (p : Packet) (lo m : Nat) :
    s.KeepsCommand n idx (s.copyChunk n sh idx msgs p lo m).1 := by
  unfold State.copyChunk
  dsimp only
  split
  · exact .refl s n idx
  · exact .refl s n idx
  · split
    · exact .refl s n idx
    · exact .refl s n idx
    · have hnoted (l : List (Word × Nat)) : s.KeepsCommand n idx (s.engineNotes n sh l) := .of_keepsCommands (State.engineNotes_keepsCommands n sh l s)
      split
      · exact hnoted _
      · split
        · exact (hnoted _).trans (State.engineWrites_keepsCommand n sh idx _ _ _)
        · exact ((hnoted _).trans (State.engineWrites_keepsCommand n sh idx _ _ _)).trans (State.engineWrites_keepsCommand n sh idx _ _ _)

theorem State.copyChunks_keepsCommand (n : Nat) (sh : Shard) (idx : Nat) (msgs : List XMsg) (p : Packet) (fuel lo m : Nat) (s : State) :
    s.KeepsCommand n idx (s.copyChunks n sh idx msgs p fuel lo m).1 := by
  induction fuel generalizing s lo m with
  | zero => exact .refl s n idx
  | succ fuel ih =>
    unfold State.copyChunks
    split
    · exact .refl s n idx
    · exact (s.copyChunk_keepsCommand n sh idx msgs p lo _).trans (ih _ _ _)

/-- Units that are subtracted at a barrier leave the commands (R261). -/
theorem State.subtractX_keepsCommands (s : State) (n : Nat) (sh : Shard) (x : XCmd) (units : Nat) : s.KeepsCommands n (s.subtractX n sh x units) := by
  unfold State.subtractX
  split
  · obtain ⟨k, hwrite⟩ := s.tbWrite_eq (.pad n x.tb) (ofBytes (s.readTarget (.pad n x.tb) 16)) _ sh.release
    have hticked : s.KeepsCommands n ((s.tbSubtract n x.tb units sh.release).tickClock n) := by
      refine .trans (t := s.tbSubtract n x.tb units sh.release) ?_ (.updCore _ n n fun _ => ⟨rfl, rfl, rfl, rfl⟩)
      rw [State.tbSubtract, hwrite]
      exact (s.writeTarget_keepsCommands n _ _).trans (.of_cores rfl)
    dsimp only
    split
    · exact hticked.trans (.updCore _ n n fun _ => ⟨rfl, rfl, rfl, rfl⟩)
    · exact hticked
  · exact .refl s n

end Sys2Proof.Machine
end

section
/-! COPY_GROUP_DONE (R262, R263, R265): what the group of any copy leads to, and the bytes that a plain copy moves within a scratchpad. -/

namespace Sys2Proof.Machine

open Sys2Proof.Claim

/-! ### How a group ends -/

theorem State.core?_setX {s : State} {n : Nat} {c : Core} (hc : s.core? n = some c) (idx : Nat) (x : XCmd) :
    (s.setX n idx x).core? n = some { c with xqueue := c.xqueue.set idx x } := ((State.Sets.refl hc).updCore _).core

theorem State.setX_sameMemory (s : State) (n idx : Nat) (x : XCmd) : SameMemory s (s.setX n idx x) := State.updCore_sameMemory s n fun _ => rfl

/-- A command whose group has ended without a failure (R265). -/
def XCmd.grouped (x : XCmd) (p : Packet) : XCmd :=
  let upto := 4096 * x.groups + min 4096 (p.len - 4096 * x.groups)
  { x with groups := x.groups + 1, subtracted := max x.subtracted (ceilDiv upto 64), sent := false, msgs := [], written := x.written + p.outLen upto - p.outLen (4096 * x.groups) }

section
variable {s : State} {n idx : Nat} {sh : Shard} {x : XCmd} {p : Packet}

theorem State.groupEnd_of_failed {st : Option (BitVec 8)} (hst : (x.status.orElse fun _ => if x.writeRefused then some 10 else none) = st) (hfailed : st.isSome = true) :
    s.groupEnd n sh idx x p = s.setX n idx { x with status := st, sent := false, msgs := [] } := by
  rw [State.groupEnd, hst]
  exact if_pos hfailed

theorem State.groupEnd_of_done (hst : (x.status.orElse fun _ => if x.writeRefused then some 10 else none) = none) :
    s.groupEnd n sh idx x p = (s.setX n idx (x.grouped p)).subtractX n sh x (ceilDiv (4096 * x.groups + min 4096 (p.len - 4096 * x.groups)) 64 - x.subtracted) := by
  rw [State.groupEnd, hst]
  rfl

/-- A group without a failure ends with nothing but its command changed, where no barrier waits for its units (R261). -/
theorem State.groupEnd_of_quiet (hst : x.status = none) (hmsgs : x.msgs = []) (hunits : x.cm.getLsbD 1 = false) :
    s.groupEnd n sh idx x p = s.setX n idx (x.grouped p) := by
  rw [State.groupEnd_of_done (by rw [hst, XCmd.writeRefused, hmsgs]; rfl), State.subtractX]
  exact if_neg fun h => Bool.false_ne_true (hunits.symm.trans h.1)

/-- A group that ends leaves its command failed, or one group further (R265). -/
theorem State.groupEnd_gives {d : Core} (hd : s.core? n = some d) :
    ∃ e y, (s.groupEnd n sh idx x p).core? n = some e ∧ e.xqueue = d.xqueue.set idx y ∧ e.sregs = d.sregs ∧ (y.status ≠ none ∨ y.groups = x.groups + 1) := by
  cases hst : x.status.orElse fun _ => if x.writeRefused then some 10 else none with
  | some st =>
    rw [State.groupEnd_of_failed hst rfl]
    exact ⟨_, _, State.core?_setX hd idx _, rfl, rfl, .inl (Option.some_ne_none st)⟩
  | none =>
    rw [State.groupEnd_of_done hst]
    obtain ⟨e, he, hsame⟩ := State.subtractX_keepsCommands _ n sh x _ _ (State.core?_setX hd idx (x.grouped p))
    exact ⟨e, x.grouped p, he, hsame.xqueue, hsame.sregs, .inr rfl⟩

end

/-! ### COPY_GROUP_DONE -/

/-- The chunks of a group are copied, and the marks of the lines that it covers cleared (R265, R373). -/
def State.copyGroup (s : State) (n : Nat) (sh : Shard) (idx : Nat) (p : Packet) (lo m : Nat) : State × Option (BitVec 8 × Word) :=
  let r := s.copyChunks n sh idx [] p 65 lo m
  let from_ := p.outLen lo - 64
  (if r.2.isSome then r.1 else r.1.coverLines n sh (p.dstSegs from_ (p.outLen (lo + m) - from_) ++ if p.decode then [] else p.auxSegs 0 (lo + m)), r.2)

/-- A command whose group has been copied, with the failure that the copy met (R265, R372). -/
def XCmd.copied (x : XCmd) (e : Option (BitVec 8 × Word)) : XCmd := { x with status := e.map Prod.fst, failAt := e.elim 0 Prod.snd, sent := true }

theorem State.copyGroup_keepsCommand (s : State) (n : Nat) (sh : Shard) (idx : Nat) (p : Packet) (lo m : Nat) : s.KeepsCommand n idx (s.copyGroup n sh idx p lo m).1 := by
  unfold State.copyGroup
  have hcopied := State.copyChunks_keepsCommand n sh idx [] p 65 lo m s
  dsimp only
  split
  · exact hcopied
  · exact hcopied.trans (.of_keepsCommands (State.coverLines_frame n n sh _ _).1)

/-- The premises of a group that is copied: the copy has started, has not failed, and nothing holds it back (R265). -/
structure State.CopiesGroup (s : State) (c : Core) (sh : Shard) (x : XCmd) : Prop where
  core : s.core? s.args.core = some c
  shard : c.shard = some sh
  cmd : c.xqueue[s.args.idx]? = some x
  copy : x.op = opCopy
  started : x.started = true
  status : x.status = none
  sent : x.sent = false
  msgs : x.msgs = []
  code : s.args.code = 0
  pieces : (Packet.of x.packet).whole = false
  left : min 4096 ((Packet.of x.packet).len - 4096 * x.groups) ≠ 0
  retrying : s.retrying s.args.core 1 = false
  behind : s.behind s.args.core sh c.xqueue s.args.idx x = false
  clear : s.copyClear s.args.core sh x (Packet.of x.packet) = true

section
variable {s : State} {c : Core} {sh : Shard} {x : XCmd} (h : s.CopiesGroup c sh x) {p : Packet} (hp : Packet.of x.packet = p) {segs : List (Word × Nat)} {lo m : Nat}
  (hlo : 4096 * x.groups = lo) (hm : min 4096 (p.len - lo) = m) (hsegs : (p.srcSegs lo m ++ if p.decode then p.auxSegs lo m else []) = segs)
  (hneeds : s.engineNeeds s.args.core sh [] segs = []) (hwaits : s.engineWaits s.args.core sh [] segs = false)
include h hp hlo hm hsegs hneeds hwaits

/-- A group is copied, and ends at once where no message to a peer is left (R265). -/
theorem State.CopiesGroup.exec_eq {u : State} {e : Option (BitVec 8 × Word)} (hrun : s.copyGroup s.args.core sh s.args.idx p lo m = (u, e))
    {y : XCmd} (hy : u.getX s.args.core s.args.idx = some y) :
    exec .copyGroupDone s
      = .next (if (y.copied e).writesOut then u.setX s.args.core s.args.idx (y.copied e) else u.groupEnd s.args.core sh s.args.idx (y.copied e) p) := by
  subst hp hlo hm hsegs
  have hfree : ¬ (x.op ≠ opCopy ∨ ¬x.started ∨ (x.status.isSome ∧ ¬x.sent) ∨ (Packet.of x.packet).whole ∨ min 4096 ((Packet.of x.packet).len - 4096 * x.groups) = 0
      ∨ s.retrying s.args.core 1 ∨ s.behind s.args.core sh c.xqueue s.args.idx x ∨ ¬s.copyClear s.args.core sh x (Packet.of x.packet)) := by
    simp [h.copy, h.started, h.status, h.pieces, h.left, h.retrying, h.behind, h.clear]
  obtain ⟨hu, he⟩ := Prod.mk.inj hrun
  rw [exec_copyGroupDone, execCopyGroupDone, onShard_eq h.core h.shard]
  dsimp only
  rw [h.cmd]
  dsimp only
  rw [if_neg hfree, if_neg (by rw [h.sent]; decide), if_neg (not_not.mpr h.code), h.msgs, if_neg (not_not.mpr hneeds), if_neg (by rw [hwaits]; decide), hu, hy]
  dsimp only
  rw [he]
  exact (apply_ite Host.Outcome.next _ _ _).symm

/-- A group of any copy is copied, and done, or its command has failed or waits for the replies of peers (R265). -/
theorem State.CopiesGroup.gives : ∃ u d y, exec .copyGroupDone s = .next u ∧ u.core? s.args.core = some d ∧ d.xqueue[s.args.idx]? = some y ∧ d.sregs = c.sregs
    ∧ (y.sent = true ∨ y.status ≠ none ∨ y.groups = x.groups + 1) := by
  rcases hrun : s.copyGroup s.args.core sh s.args.idx p lo m with ⟨u, e⟩
  have hkeeps := s.copyGroup_keepsCommand s.args.core sh s.args.idx p lo m
  rw [hrun] at hkeeps
  obtain ⟨d, l, hd, hsregs, hx⟩ := hkeeps c x h.core h.cmd
  have hexec := h.exec_eq hp hlo hm hsegs hneeds hwaits hrun (y := { x with msgs := l }) (by rw [State.getX, hd]; exact hx)
  obtain ⟨hidx, -⟩ := List.getElem?_eq_some_iff.mp hx
  split at hexec
  · exact ⟨_, _, _, hexec, State.core?_setX hd .., List.getElem?_set_self hidx, hsregs, .inl rfl⟩
  · obtain ⟨f, y, hf, hqueue, hregs, hends⟩ := State.groupEnd_gives (sh := sh) (idx := s.args.idx) (x := XCmd.copied { x with msgs := l } e) (p := p) hd
    exact ⟨_, f, y, hexec, hf, by rw [hqueue]; exact List.getElem?_set_self hidx, hregs.trans hsregs, .inr hends⟩

end

end Sys2Proof.Machine
end

section
/-! The group of a plain copy of one piece within the own scratchpad (R262, R265). -/

namespace Sys2Proof.Machine

open Sys2Proof.Claim

/-! ### One piece in the own scratchpad -/

/-- A run of bytes that stays inside a line is one piece. -/
theorem lineSegs_inside {va : Word} {n : Nat} (hn : n ≠ 0) (hin : va.toNat % 64 + n ≤ 64) : lineSegs (n + 1) va n = [(va, n)] := by
  obtain ⟨k, rfl⟩ := Nat.exists_eq_succ_of_ne_zero hn
  have hmin : min (k + 1) (64 - va.toNat % 64) = k + 1 := by omega
  rw [lineSegs, if_neg hn, hmin]
  dsimp only
  rw [Nat.sub_self]
  rfl

/-- A local address lies in its line as its offset does (R70). -/
theorem mod_of_aperture_local {va a : Nat} (h : aperture va = some (1, a)) : va % 64 = a % 64 := by
  unfold aperture at h
  split_ifs at h
  · cases h
  · simp only [Option.some.injEq, Prod.mk.injEq, true_and] at h
    omega
  · cases h

/-! ### A shard that alone has entered accesses -/

/-- The shard that an engine acts for runs on its core, and no access of another is in the detector's metadata (R104). -/
structure State.Alone (s : State) (n : Nat) (sh : Shard) : Prop where
  runs : ∃ c h, s.core? n = some c ∧ c.shard = some h ∧ h.uid = sh.uid ∧ h.ctx = sh.ctx
  own : ∀ e ∈ s.watched, e.uid = sh.uid
  kept : s.lostMarks = []

section
variable {s : State} {n : Nat} {sh : Shard} (h : s.Alone n sh)
include h

theorem State.Alone.onCore_uid : (s.onCore n sh).uid = sh.uid := by
  obtain ⟨c, g, hc, hg, huid, -⟩ := h.runs
  simp only [State.onCore, hc, Option.bind_some, hg, Option.getD_some, huid]

/-- An address in the own scratchpad names its byte there (R70). -/
theorem State.Alone.enginePlace (use : Use) {va : Word} {a : Nat} (hva : aperture va.toNat = some (1, a)) : s.enginePlace n sh use va = .at_ (.pad n a) := by
  obtain ⟨c, g, hc, hg, -, hctx⟩ := h.runs
  have hruns : s.runsCtx n sh.ctx = true := by simp [State.runsCtx, hc, hg, hctx]
  rw [State.enginePlace, hva]
  exact if_pos hruns

/-- An access of the shard finds no other's to race with (R105, R106). -/
theorem State.Alone.raceAt (t : Target) (len : Nat) (write data atomic : Bool) : s.raceAt (s.onCore n sh) t len write data atomic = none := by
  have hclean (w : Nat × Target) : ((s.det (s.racer (s.onCore n sh)).ctx && (data || atomic) && s.lostMark (s.racer (s.onCore n sh)).ctx w.2)
      || s.watched.any fun e => e.word = w.2 && s.conflicts (s.racer (s.onCore n sh)) write data atomic e) = false := by
    have hlost : s.lostMark (s.racer (s.onCore n sh)).ctx w.2 = false := by rw [State.lostMark, h.kept]; rfl
    have huid : (s.racer (s.onCore n sh)).uid = sh.uid := h.onCore_uid
    simp only [hlost, Bool.and_false, Bool.false_or, List.any_eq_false]
    intro e he
    simp [State.conflicts, huid, h.own e he]
  rw [State.raceAt, State.raceOf.eq_def]
  split
  · rfl
  · rfl
  · simp only [hclean]
    split <;> simp

theorem State.Alone.openRegion (uid region : Nat) : (s.openRegion n uid region).Alone n sh := by
  obtain ⟨c, g, hc, hg, huid, hctx⟩ := h.runs
  refine ⟨⟨c.opened region, { g with region := some region }, ((State.Sets.refl hc).openRegion uid region).core, ?_, huid, hctx⟩, h.own, h.kept⟩
  rw [Core.opened, hg]
  rfl

/-- An access of the shard that is entered is its own (R104). -/
theorem State.Alone.enter {r : Racer} (hr : r.uid = sh.uid) (t : Target) (len : Nat) (write data atomic : Bool) : (s.enter r t len write data atomic).Alone n sh := by
  have howns {l : List (Nat × Target)} : ∀ e ∈ s.watched ++ l.map fun w =>
      ({ uid := r.uid, ctx := r.ctx, word := w.2, write := write, data := data, atomic := atomic, region := r.region, clock := r.clock } : Watched), e.uid = sh.uid := by
    intro e he
    rcases List.mem_append.mp he with he | he
    · exact h.own e he
    · obtain ⟨w, -, rfl⟩ := List.mem_map.mp he
      exact hr
  cases t with
  | pad k o => exact ⟨h.runs, howns, h.kept⟩
  | dram a => exact ⟨h.runs, howns, h.kept⟩
  | host p a => exact h
  | peer p a => exact h

theorem State.Alone.watch (t : Target) (len : Nat) (write data atomic : Bool) : (s.watch n sh t len write data atomic).Alone n sh :=
  (h.openRegion _ _).enter h.onCore_uid t len write data atomic

/-- A read of the own scratchpad (R104, R373). -/
theorem State.Alone.engineRead {va : Word} {a len : Nat} (hva : aperture va.toNat = some (1, a)) (hpoison : s.poisoned (.pad n a) len = false) :
    s.engineRead n sh [] va len = .ok (s.readTarget (.pad n a) len) := by
  rw [State.engineRead, h.enginePlace .read hva]
  dsimp only
  rw [if_neg (by rw [hpoison]; decide), h.raceAt]
  rfl

theorem State.Alone.engineNote {va : Word} {a : Nat} (hva : aperture va.toNat = some (1, a)) (len : Nat) :
    s.engineNote n sh va len = s.watch n sh (.pad n a) len false true false := by
  rw [State.engineNote, h.enginePlace .read hva]
  rfl

/-- A write to the own scratchpad (R104). -/
theorem State.Alone.engineWrite {va : Word} {b : Nat} (hva : aperture va.toNat = some (1, b)) (idx : Nat) (bs : List Byte) :
    s.engineWrite n sh idx va bs
      = (((s.watch n sh (.pad n b) bs.length true true false).writeTarget (.pad n b) bs).updCore n fun c => c.cacheDrop (.pad n b), none) := by
  have hsealed : s.hitsSealed (.pad n b) bs.length = false := rfl
  rw [State.engineWrite, h.enginePlace .write hva]
  dsimp only
  rw [hsealed, if_neg Bool.false_ne_true, h.raceAt]
  rfl

end

/-! ### A plain copy of one piece -/

/-- A packet without element stages names one piece of the own scratchpad, and one that it is copied to (R262, R263). -/
structure Packet.MovesPiece (p : Packet) (a b : Nat) : Prop where
  decode : p.decode = false
  fill : p.fill = false
  cvt : p.cvt = false
  qnt : p.qnt = false
  pack : p.pack = false
  fits : p.len ≤ p.cap
  nonempty : p.len ≠ 0
  src : aperture p.src.toNat = some (1, a)
  dst : aperture p.dst.toNat = some (1, b)
  srcLine : a % 64 + p.len ≤ 64
  dstLine : b % 64 + p.len ≤ 64

/-- The state behind a piece that was moved within a scratchpad. -/
def State.movedPiece (s : State) (n : Nat) (sh : Shard) (a b len : Nat) : State :=
  (((s.watch n sh (.pad n a) len false true false).watch n sh (.pad n b) len true true false).writeTarget (.pad n b) (s.readTarget (.pad n a) len)).updCore n
    fun c => c.cacheDrop (.pad n b)

section
variable {p : Packet} {a b : Nat} (hp : p.MovesPiece a b)
include hp

theorem Packet.MovesPiece.outLen (k : Nat) : p.outLen k = k := by
  rw [Packet.outLen, hp.cvt, hp.qnt]
  rfl

theorem Packet.MovesPiece.auxSegs (lo m : Nat) : p.auxSegs lo m = [] := by
  rw [Packet.auxSegs, hp.qnt]
  rfl

theorem Packet.MovesPiece.srcSegs : p.srcSegs 0 p.len = [(p.src, p.len)] := by
  rw [Packet.srcSegs, hp.fill, hp.pack]
  have hin : p.src.toNat % 64 + p.len ≤ 64 := by rw [mod_of_aperture_local hp.src]; exact hp.srcLine
  simpa using lineSegs_inside hp.nonempty hin

theorem Packet.MovesPiece.dstSegs : p.dstSegs 0 p.len = [(p.dst, p.len)] := by
  rw [Packet.dstSegs, hp.pack]
  have hin : p.dst.toNat % 64 + p.len ≤ 64 := by rw [mod_of_aperture_local hp.dst]; exact hp.dstLine
  simpa using lineSegs_inside hp.nonempty hin

theorem Packet.MovesPiece.elements (bs sc : List Byte) : p.elements bs sc = (bs, []) := by
  rw [Packet.elements, hp.cvt, hp.qnt]
  rfl

section
variable {s : State} {n : Nat} {sh : Shard} (h : s.Alone n sh) (hpoison : s.poisoned (.pad n a) p.len = false)
include h hpoison

/-- The chunk of the piece moves its bytes (R265). -/
theorem State.copyChunk_piece (idx : Nat) : s.copyChunk n sh idx [] p 0 p.len = (s.movedPiece n sh a b p.len, none) := by
  have hread := h.engineRead hp.src hpoison
  have hwrite := (h.watch (.pad n a) p.len false true false).engineWrite hp.dst idx (s.readTarget (.pad n a) p.len)
  rw [State.length_readTarget] at hwrite
  have hslice : slice (s.readTarget (.pad n a) p.len) 0 p.len = s.readTarget (.pad n a) p.len := by
    simpa using slice_self (s.readTarget (.pad n a) p.len)
  rw [State.copyChunk]
  simp [hp.srcSegs, hp.dstSegs, hp.auxSegs, hp.elements, hp.outLen, hp.fill, hp.decode, hp.fits, State.engineReads, hread, State.engineNotes, h.engineNote hp.src,
    State.engineWrites, hslice, hwrite, State.movedPiece]

theorem State.copyGroup_piece (idx : Nat) :
    s.copyGroup n sh idx p 0 p.len = ((s.movedPiece n sh a b p.len).coverLines n sh [(p.dst, p.len)], none) := by
  have hchunk : min p.len p.chunk = p.len := by
    have hline := hp.srcLine
    rw [Packet.chunk, hp.qnt]
    exact Nat.min_eq_left (by simp only [Bool.false_eq_true, if_false]; omega)
  have hchunks : s.copyChunks n sh idx [] p 65 0 p.len = (s.movedPiece n sh a b p.len, none) := by
    simp [State.copyChunks, hp.nonempty, hchunk, State.copyChunk_piece hp h hpoison]
  simp [State.copyGroup, hchunks, hp.outLen, hp.dstSegs, hp.auxSegs]

end

end

/-- A piece that is moved leaves the commands and registers of its core. -/
theorem State.movedPiece_keepsCommands (s : State) (n : Nat) (sh : Shard) (a b len : Nat) : s.KeepsCommands n (s.movedPiece n sh a b len) :=
  (((s.watch_keepsCommands n sh (.pad n a) len false true false).trans (State.watch_keepsCommands _ n sh (.pad n b) len true true false)).trans
    (State.writeTarget_keepsCommands _ n (.pad n b) _)).trans (State.cacheDrop_keepsCommands _ n (.pad n b))

/-- The bytes of a piece that was moved are at its destination, and no others have changed (R80). -/
theorem State.movedPiece_moves {s : State} {n : Nat} {c : Core} (hc : s.core? n = some c) (sh : Shard) (a b len : Nat) :
    (s.movedPiece n sh a b len).readTarget (.pad n b) len = s.readTarget (.pad n a) len ∧ SameBut s (s.movedPiece n sh a b len) (.pad n b) len := by
  obtain ⟨d, hd, -⟩ := ((s.watch_keepsCommands n sh (.pad n a) len false true false).trans (State.watch_keepsCommands _ n sh (.pad n b) len true true false)) c hc
  have hlen : (s.readTarget (.pad n a) len).length = len := s.length_readTarget (.pad n a) len
  have hentered : SameMemory s ((s.watch n sh (.pad n a) len false true false).watch n sh (.pad n b) len true true false) := fun y k =>
    (State.watch_sameMemory _ n sh (.pad n b) len true true false y k).trans (State.watch_sameMemory s n sh (.pad n a) len false true false y k)
  have hdropped (u : State) : SameMemory u (u.updCore n fun c => c.cacheDrop (.pad n b)) := u.updCore_sameMemory n fun _ => rfl
  exact ⟨(hdropped _ _ _).trans (State.readTarget_writeTarget_pad (Option.isSome_iff_exists.mpr ⟨d, hd⟩) b _ hlen),
    sameBut_of_sameMemory (sameBut_writeTarget_pad _ n b _ hlen) hentered (hdropped _)⟩

/-! ### The group -/

/-- The group of a plain copy of one piece moves its bytes, and is done (R265). -/
theorem State.CopiesGroup.moves {s : State} {c : Core} {sh : Shard} {x : XCmd} (h : s.CopiesGroup c sh x) {p : Packet} (hp : Packet.of x.packet = p) {a b : Nat}
    (hmoves : p.MovesPiece a b) (hfirst : x.groups = 0) (hunits : x.cm.getLsbD 1 = false) (hpoison : s.poisoned (.pad s.args.core a) p.len = false)
    (halone : s.Alone s.args.core sh) :
    ∃ u d y, exec .copyGroupDone s = .next u ∧ u.core? s.args.core = some d ∧ d.xqueue = c.xqueue.set s.args.idx y ∧ y.groups = 1 ∧ y.written = x.written + p.len ∧ y.status = none
      ∧ d.sregs = c.sregs ∧ u.readTarget (.pad s.args.core b) p.len = s.readTarget (.pad s.args.core a) p.len ∧ SameBut s u (.pad s.args.core b) p.len := by
  have hline := hmoves.srcLine
  have hread := halone.engineRead hmoves.src hpoison
  have hneeds : s.engineNeeds s.args.core sh [] [(p.src, p.len)] = [] := by simp [State.engineNeeds, hread]
  have hwaits : s.engineWaits s.args.core sh [] [(p.src, p.len)] = false := by simp [State.engineWaits, hread]
  have hsegs : (p.srcSegs 0 p.len ++ if p.decode then p.auxSegs 0 p.len else []) = [(p.src, p.len)] := by rw [hmoves.srcSegs, hmoves.decode]; rfl
  have hm : min 4096 (p.len - 0) = p.len := by omega
  obtain ⟨hcovered, hcoveredMem⟩ := State.coverLines_frame s.args.core s.args.core sh [(p.dst, p.len)] (s.movedPiece s.args.core sh a b p.len)
  obtain ⟨d, hd, hsame⟩ := ((s.movedPiece_keepsCommands s.args.core sh a b p.len).trans hcovered) c h.core
  have hexec := h.exec_eq hp (by rw [hfirst]) hm hsegs hneeds hwaits (State.copyGroup_piece hmoves halone hpoison s.args.idx) (y := x)
    (by rw [State.getX, hd, Option.bind_some, hsame.xqueue]; exact h.cmd)
  have hwrites : (x.copied none).writesOut = false := by simp [XCmd.writesOut, XCmd.copied, h.msgs]
  rw [hwrites, if_neg Bool.false_ne_true, State.groupEnd_of_quiet (x := x.copied none) rfl h.msgs hunits] at hexec
  obtain ⟨hbytes, hothers⟩ := State.movedPiece_moves h.core sh a b p.len
  have hended : SameMemory (s.movedPiece s.args.core sh a b p.len)
      (((s.movedPiece s.args.core sh a b p.len).coverLines s.args.core sh [(p.dst, p.len)]).setX s.args.core s.args.idx ((x.copied none).grouped p)) := fun y k =>
    (State.setX_sameMemory _ s.args.core s.args.idx _ y k).trans (hcoveredMem y k)
  refine ⟨_, _, (x.copied none).grouped p, hexec, State.core?_setX hd .., by rw [hsame.xqueue], ?_, ?_, rfl, hsame.sregs, (hended _ _).trans hbytes,
    sameBut_of_sameMemory hothers (fun _ _ => rfl) hended⟩
  · exact congrArg (· + 1) hfirst
  · have hupto : min 4096 p.len = p.len := hm
    simp [XCmd.grouped, XCmd.copied, hfirst, hmoves.outLen, hupto]

/-- COPY_GROUP_DONE moves what it copies, and its group is done or has failed (R262, R263, R265). -/
theorem copyGroups : CopyGroups := by
  intro s c sh x hc hsh hx
  dsimp only
  intro hcopy hstarted hstatus hsent hmsgs hcode hpieces hleft hretry hbehind hclear
  have hcopies : s.CopiesGroup c sh x := ⟨hc, hsh, hx, hcopy, hstarted, hstatus, hsent, hmsgs, hcode, hpieces, hleft, hretry, hbehind, hclear⟩
  refine ⟨hcopies.gives rfl rfl rfl rfl, fun a b hdecode hfill hcvt hqnt hpack hfits hfirst hunits hsrc hdst hsrcLine hdstLine hpoison hwatched hlost => ?_⟩
  have hsome : (Packet.of x.packet).len ≠ 0 := fun h0 => hleft (by rw [h0, Nat.zero_sub, Nat.min_zero])
  refine hcopies.moves rfl ⟨hdecode, hfill, hcvt, hqnt, hpack, hfits, hsome, hsrc, hdst, hsrcLine, hdstLine⟩ hfirst hunits hpoison ⟨⟨c, sh, hc, hsh, rfl, rfl⟩, ?_, hlost⟩
  rw [hwatched]
  exact fun e he => absurd he List.not_mem_nil

/-- Settles O53: commands of the X-engines start, and groups of copies are done, as their rules say. -/
theorem commandsStart : Obligations.CommandsStart := ⟨commandStarts, copyGroups⟩

end Sys2Proof.Machine
end
